-- ==== Sys2Proof/Word.lean ====
section
/-! DEFINITION. The word types of the Creonelo (spec 00_scope.md, R7): a byte is 8 bits, a halfword 16, a word 32 and a
doubleword 64. Registers hold doublewords; addresses of 48 bits are computed as Nat and Int. -/

namespace Sys2Proof

/-- 8 bits (R7). -/
abbrev Byte := BitVec 8

/-- A 32-bit word (R7): a packet's slot word, a vector element, an FP32 value. -/
abbrev Word32 := BitVec 32

/-- A doubleword of 64 bits (R7): a general register, a control register. -/
abbrev Word := BitVec 64

/-- A 48-bit address (R45, R347): the program counter, EPC, EVEC. -/
abbrev Addr := BitVec 48

end Sys2Proof
end

