-- ==== Sys2Proof/Syntax.lean ====
section
/-! DEFINITION. The abstract syntax of the Creonelo's steps: one constructor for each row of spec/opcode_table.json. The 291
encoded rows are slot instructions of a packet (04_fetch_and_encoding.md, R87 to R106); the other 79 rows are events, the
steps that agents other than a core's packet issue make (95_what_each_step_holds.md), and carry the number of the agent they
belong to. A register, tile, queue or code field is a bit vector of the width its encoding gives it. -/

namespace Sys2Proof

/-- The L bit of a C-slot word and, where it is 1, the companion literal that word 1 then holds (R87, R103). -/
abbrev Lit := Option Word32

/-- The four partition layouts (01_device.md, R25). -/
inductive Layout where
  | whole | topBottom | westEast | quarters
  deriving DecidableEq, Repr

/-- What arrives at an interface of the device (20 R394, R397): a chunk that the interface of the i-th rank record performs; an element, a marker
or a digest from another device through scale-up port k; or the oldest beat that waits at a die's fabric port, which the other device takes. -/
inductive Arrival where
  | chunk (i : Nat)
  | elem (k : Nat) (ranks : List Nat) (i : Nat) (v : Word32)
  | marker (k : Nat) (ranks : List Nat)
  | digest (k rank v : Nat)
  | sent (die : Nat)
  deriving DecidableEq, Repr

/-- An error of a flit on a link (20 R399): the link, and whether it is the flit whose replay failed last. -/
structure FlitError where
  link : Nat
  again : Bool
  deriving DecidableEq, Repr

/-- The way in of a request from another device (13 R336, 20 R399): a partition, and the scale-up port through which it comes. -/
structure OuterPort where
  part : Nat
  port : Nat
  deriving DecidableEq, Repr

/-- A core whose host access ends (20 R403): by an error that the completion brought, or else by the timeout. -/
structure HostWait where
  core : Nat
  err : Bool
  deriving DecidableEq, Repr

/-- Every step of the device that the opcode table names. C-slot constructors carry `l` (L and the literal); register fields
bear the table's letters. In events, `c` is a device core number (R17), `f` a device fold, `p` a partition index (R26), `b` a
launch block of the partition or a line, `q` a queue, `k` a link. -/
inductive Instr where
  /-- R409: Cold power-good starts the start-up sequence: ROM, signature check, record restore, link bring-up, runtime image, self-test and READY. -/
  | powerGood (temp : Int)
  /-- R410: The image source record in the non-volatile store is written through the management port or the host link. -/
  | imageSourceWrite (d0 d1 d2 : Word)
  /-- R410: A host write of IMGLEN, after IMGADDR, makes the Steading read the runtime image from host memory and check it. -/
  | imglenWrite (len : Word32)
  /-- R407: An SPDM request over MCTP is answered with measurements signed by the device identity key. -/
  | attestationRequest (nonce : Word)
  /-- R25: A request sets the partition layout, or is refused as busy while any launch is placed. -/
  | partitionLayoutChange (lay : Layout)
  /-- R33: A write to FACC sets the accepted features, clearing unoffered bits and keeping only the highest offered SUREV bit. -/
  | faccWrite (p : Nat) (v : Word)
  /-- R33: Writing FACC.DONE = 1 makes FACC read-only and lets the front end act on held kicks in queue order. -/
  | negotiationDone (p : Nat) (v : Word)
  /-- R64: Writing QCTL.EN := 1 moves a DISABLED queue to IDLE, or is refused when LOG2N is out of range. -/
  | queueEnable (p q : Nat)
  /-- R64: Writing QCTL.EN := 0 moves the queue to DISABLED at the end of the clk, or only clears EN when the queue is HALTED. -/
  | queueDisable (p q : Nat)
  /-- R64: Writing QCTL.RESET clears the pending kick and EN and moves the queue to DISABLED. -/
  | queueReset (p q : Nat)
  /-- R66: A write to QKICK sets the pending-kick flag, which in IDLE starts a read of record QSEQ. -/
  | qkick (p q : Nat)
  /-- R66: A read of record QSEQ completes: the record is accepted, the queue halts, blocks, retries or goes IDLE. -/
  | recordRead (p q : Nat)
  /-- R66: When the 256 clk retry wait ends, the record is read again, up to four times. -/
  | retryWaitEnd (p q : Nat)
  /-- R66: When a launch block or the record home position frees, a BLOCKED queue reads its record again. -/
  | blockedReread (p q : Nat)
  /-- R69: A host write of a level handle to HCANCEL requests a cancel, and HCRES reports its progress and result. -/
  | hcancel (p : Nat) (h : Word)
  /-- R70: A host write to HJOBRM sets the job's WEIGHT to 0 and cancels every open level of the job. -/
  | hjobrm (p : Nat) (v : Word)
  /-- R70: Once every launch of the job has set DONE, its blocks, counters and table entry are cleared and HJRES := 2. -/
  | jobRemovalComplete (p : Nat)
  /-- R360: A host write of a launch handle to HPREEMPT requests pre-emption of the launch. -/
  | hpreempt (p : Nat) (h : Word)
  /-- R361: A core holding a unit of a pre-empted launch is pre-empted at a suspension point: its agents are joined and its state is saved. -/
  | corePreempt (c : Nat)
  /-- R361: When 16,384 clk pass with no suspension point, the core is pre-empted at the next packet boundary. -/
  | preemptForceTimeout (c : Nat)
  /-- R363: A pre-empted launch is restored as a gang to its cores once they are free, and its units resume with ESTAT.PRE := 1. -/
  | launchResume (p b : Nat)
  /-- R61: A held write to PTROOT takes effect when the job has no placed launch. -/
  | ptrootApply (p j : Nat)
  /-- R71: Every 1,024 clk, each job's SVC rises by its held folds times 65,536 divided by its WEIGHT. -/
  | svcTick (p : Nat)
  /-- R74: An idle core takes its next READY unit from its deque, its fold's ready queue, or by stealing. -/
  | unitPlace (c : Nat)
  /-- R77: A flagged launch is placed on all its cores at once when none of them holds work of another launch. -/
  | gangPlace (p b : Nat)
  /-- R55: After every write of the launch is performed at system scope, the scheduler writes STATUS and NVAL to NOTE. -/
  | noteWrite (p b : Nat)
  /-- R81: When the watchdog count reaches IVAL times 1,024 with no PULSE, the persistent launch is cancelled with status 0x03. -/
  | watchdogFire (c : Nat)
  /-- R91: A fold instruction cache line is read from memory, patched with parameter words, checked and stored. -/
  | icacheFill (c line : Nat)
  /-- R156: The data of an outstanding load arrives and is written to its destination register. -/
  | loadReturn (c i : Nat)
  /-- R156: The oldest store-buffer entry is performed at its place. -/
  | storeDrain (c : Nat)
  /-- R365: The Steading's fresh walk of a faulting address completes, and either a leaf is installed or TRANSLATION is delivered. -/
  | translationResolve (c : Nat)
  /-- R404: A fault queue answer with ACT 0 makes the faulting access walk again. -/
  | fqRetry (p : Nat) (sq : Word32)
  /-- R404: A fault queue answer with ACT 1 delivers TRANSLATION to the faulting access. -/
  | fqDeliver (p : Nat) (sq : Word32)
  /-- R194: A sequencer entry completes, and its flags are ORed into FPC. -/
  | vectorEntryComplete (c : Nat)
  /-- R219: The matrix engine performs its next entry in acceptance order. -/
  | matrixEntryPerform (c q : Nat)
  /-- R229: A forwarded tile is written at the receiving engine, and its inbound flag is set, or the tile is rejected. -/
  | tileArrival (c q : Nat)
  /-- R226: A resolved translation fault of a streamed MMA makes the whole operation run again from the shadow. -/
  | streamedBFaultResolved (c q : Nat)
  /-- R233: A target engine checks a remote command against its TAG and TSH, and answers accepted or with a trap cause. -/
  | mxcmdRemoteAccept (c : Nat)
  /-- R233: The answer to an MXCMD reaches its issuer, which retires the MXCMD or traps. -/
  | mxcmdAnswer (c : Nat)
  /-- R264: A copy engine performs the next entry of one of its queues. -/
  | copyEntryPerform (c q : Nat)
  /-- R267: A resolved element translation fault lets GATH or SCAT resume at the element where it stopped. -/
  | copyFaultResolved (c q : Nat)
  /-- R279: A read stream unit reads the next pattern element into its ring. -/
  | streamFill (c b : Nat)
  /-- R279: A write stream unit drains its next pushed entry to memory. -/
  | streamDrainEntry (c b : Nat)
  /-- R310: A SEND message takes a chute slot of the receiver, writes it and raises FILLED, which wakes a waiting RECV. -/
  | messageArrival (c : Nat)
  /-- R255: A receiver that has executed its k-th MUSTER accepts a piece tagged k, writes its cells and sets its stamp. -/
  | pieceAccept (c i : Nat)
  /-- R305: A scheduled XSEND transfer writes the receiver's local memory at DOFF. -/
  | exchangeTransferWrite (c i : Nat)
  /-- R297: When every member of a barrier line, and of its chained folds, has arrived, GEN rises and the waiting loads return. -/
  | barrierRelease (f b : Nat)
  /-- R302: A barrier domain releases: staged drove operations apply, snapshots are taken, a journal epoch begins, and XCLK and XSLOT are loaded. -/
  | superstepRelease (p b d : Nat)
  /-- R304: Once routines have ended, XCLK passes 16·SLOTS and all inbound transfers are written, the core begins the next superstep. -/
  | exchangePhaseEnd (c : Nat)
  /-- R313: A stop applies a queued drove request to a passing slot of its key, or to an EMPTY slot for DBOARD. -/
  | droveRequestApply (c : Nat)
  /-- R313: A full revolution with no LIVE or HELD slot of the key fails the request with a deferred DROVE. -/
  | droveRequestFail (c : Nat)
  /-- R318: Sixteen revolutions after a DCAP, the capture ends, the original contents are reinserted and the holder traps with DROVE. -/
  | captureTimeout (c : Nat)
  /-- R260: An uncorrectable slot error empties the slot, and the next instruction that names its key traps. -/
  | droveSlotError (sl : Nat)
  /-- R311: G[rb] clk pass with no filled slot, and RECVT traps with DEADLINE. -/
  | recvtTimeout (c : Nat)
  /-- R358: WFI's clk limit expires and the core continues. -/
  | wfiTimeout (c : Nat)
  /-- R368: UNCORRECTABLE in a flagged launch stops the gang, discards its work, restores the journal and snapshot, and releases again. -/
  | rollback (p b : Nat)
  /-- R372: A yoked interval ends after 256 packets, at a leaving action or when the store buffer is full, and the fingerprints are compared. -/
  | intervalEnd (c : Nat)
  /-- R373: The third run of a disputed interval finishes: a core is quarantined, or YOKE_MISMATCH is delivered. -/
  | thirdRunComplete (c : Nat) (fp : Word)
  /-- R405: A CONTANS answer of 1 continues the pending rollback or yoke decision. -/
  | contansContinue (p : Nat)
  /-- R405: A CONTANS answer of 2 cancels the launch with status 0x04. -/
  | contansCancel (p : Nat)
  /-- R415: A phase-stop write with DIR 0 stops acceptance for the job and drains its accepted work. -/
  | phaseStop (p : Nat) (v : Word)
  /-- R415: After the drain, the device-state area and the listed ranges are written and PSRES := 3. -/
  | phaseStopWrite (p : Nat)
  /-- R415: A phase-stop write with DIR 1 reads the area and the list back, and restores the job. -/
  | phaseRestore (p : Nat) (v : Word)
  /-- R399: A flit that fails its CRC is sent again from the replay buffer. -/
  | linkCrcError (k : FlitError)
  /-- R399: Eight replays of one flit retrain the link, which may fall to half width or go down. -/
  | linkRetrain (k good : Nat)
  /-- R402: After 1 ms on a down link, waiting packets are discarded and the affected launches are cancelled with status 0x04. -/
  | downLinkTimeout (k : Nat)
  /-- R388: A packet blocked for 64 clk on its fixed hop moves to the escape channel. -/
  | escapeMove (c i : Nat)
  /-- R386: A router forwards or combines the next element of a stream, or on markers from all inputs advances its port set. -/
  | routerBeat (p f vs : Nat)
  /-- R394: A receiving interface performs a chunk's bytes and counts them. -/
  | portBeatArrival (p vs : Nat) (a : Arrival)
  /-- R335: A host write into device memory is applied at its home slice in link order. -/
  | hostMemoryWrite (p a : Nat) (data : List Byte)
  /-- R336: A scope-S request from another device is applied at the home slice bank. -/
  | systemScopeRequest (p : OuterPort) (a : Nat) (op : BitVec 5) (dbl : Bool) (x cmp : Word)
  /-- R403: A host-link completion error or 50 ms timeout is UNCORRECTABLE to the access. -/
  | hostCompletionTimeout (c : HostWait)
  /-- R412: Every 100 ms, the die temperature is sampled and excursions are counted. -/
  | thermalSample (d : Nat) (temp : Int)
  /-- R412: Every 60 s, the minutes above 90 °C are written to the store. -/
  | wearMinutesFlush
  /-- R240: A background scrub rewrites corrected local memory words. -/
  | scrub (c w : Nat)
  /-- R10: A write to a register with no behaviour of its own sets its RW fields and clears its W1C bits. -/
  | registerWrite (p off : Nat) (v : Word)
  /-- R108: C-slot NOP changes nothing but the PC. -/
  | nopCSlot (l : Lit)
  /-- R108: A-slot NOP changes nothing. -/
  | nopASlot
  /-- R353: Traps with BREAK, with DATA taken from G[rb]. -/
  | trap (l : Lit) (b : BitVec 5)
  /-- R354: Returns to EPC and clears TH. -/
  | eret (l : Lit)
  /-- R355: Joins the core's agents, frees the record, decrements the join block and ends the unit or routine. -/
  | exit (l : Lit)
  /-- R355: Suspends the unit READY, to be placed again. -/
  | yield (l : Lit)
  /-- R356: Increments PULSECNT and restarts the watchdog count. -/
  | pulse (l : Lit)
  /-- R357: Requests the cancel of a level handle, stalls until it ends and writes the result. -/
  | cancel (l : Lit) (d : BitVec 5) (a : BitVec 5)
  /-- R358: Stalls until a limit, a cancel, pre-emption, a deferred error or an event count. -/
  | wfi (l : Lit) (b : BitVec 5)
  /-- R137: Copies a control register to a general register. -/
  | mfc (l : Lit) (d : BitVec 5) (n : BitVec 12)
  /-- R137: Copies a general register to a control register, with the owner's checks. -/
  | mtc (l : Lit) (a : BitVec 5) (n : BitVec 12)
  /-- R139: Writes a signed 20-bit constant. -/
  | movi (l : Lit) (d : BitVec 5) (i : BitVec 20)
  /-- R157: Loads a sign-extended word from the code region, relative to the PC. -/
  | ldlW (l : Lit) (d : BitVec 5) (p : BitVec 18)
  /-- R157: Loads a doubleword from the code region, relative to the PC. -/
  | ldlD (l : Lit) (d : BitVec 5) (p : BitVec 18)
  /-- R157: Writes the companion literal, sign-extended. -/
  | ldlC (d : BitVec 5) (lit : Word32)
  /-- R152: Loads 1–8 bytes, zero- or sign-extended. -/
  | ld (l : Lit) (d : BitVec 5) (a : BitVec 5) (z : BitVec 2) (x : BitVec 1) (o : BitVec 12)
  /-- R152: Stores 1–8 bytes. -/
  | st (l : Lit) (s : BitVec 5) (a : BitVec 5) (z : BitVec 2) (o : BitVec 12)
  /-- R200: Loads L elements into a vector register. -/
  | ldv (l : Lit) (d : BitVec 4) (a : BitVec 5) (z : BitVec 2) (x : BitVec 1) (o : BitVec 12)
  /-- R200: Stores L vector elements, performed at the sequencer head. -/
  | stv (l : Lit) (s : BitVec 4) (a : BitVec 5) (z : BitVec 2) (o : BitVec 12)
  /-- R187: Loads and decodes L elements of the pointer's format. -/
  | ldf (l : Lit) (d : BitVec 4) (a : BitVec 5) (o : BitVec 12)
  /-- R187: Encodes L vector elements into the pointer's format. -/
  | stf (l : Lit) (s : BitVec 4) (a : BitVec 5) (o : BitVec 12)
  /-- R150: Adds an offset to a fat pointer's address and keeps its tag. -/
  | adda (l : Lit) (d : BitVec 5) (a : BitVec 5) (b : BitVec 5)
  /-- R151: Forms a fat pointer's FC and BL tag. -/
  | ptag (l : Lit) (d : BitVec 5) (a : BitVec 5) (b : BitVec 5)
  /-- R151: Reads a pointer's FC and BL. -/
  | pfmt (l : Lit) (d : BitVec 5) (a : BitVec 5)
  /-- R151: Reads a pointer's 48-bit address. -/
  | pbase (l : Lit) (d : BitVec 5) (a : BitVec 5)
  /-- R151: Adds a scaled offset to a fat pointer. -/
  | lea (l : Lit) (d : BitVec 5) (a : BitVec 5) (b : BitVec 5) (h : BitVec 3)
  /-- R158: Compares two registers and branches on a condition. -/
  | br (l : Lit) (a : BitVec 5) (b : BitVec 5) (c : BitVec 4) (p : BitVec 11)
  /-- R159: Branches if a mask-group bit is clear. -/
  | bbc (l : Lit) (a : BitVec 5) (b : BitVec 5) (n : BitVec 2) (p : BitVec 11)
  /-- R159: Branches if a mask-group bit is set. -/
  | bbs (l : Lit) (a : BitVec 5) (b : BitVec 5) (n : BitVec 2) (p : BitVec 11)
  /-- R159: Branches if every bit of a mask group is zero. -/
  | bbz (l : Lit) (a : BitVec 5) (n : BitVec 2) (p : BitVec 11)
  /-- R159: Branches if some bit of a mask group is set. -/
  | bbnz (l : Lit) (a : BitVec 5) (n : BitVec 2) (p : BitVec 11)
  /-- R160: Jumps PC-relative. -/
  | j (l : Lit) (p : BitVec 20)
  /-- R160: Jumps PC-relative and links in g1. -/
  | jl (l : Lit) (p : BitVec 20)
  /-- R161: Jumps through a register and writes the return address. -/
  | jr (l : Lit) (d : BitVec 5) (a : BitVec 5) (b : BitVec 5)
  /-- R115: Runs the operations of a macro store entry with substituted registers. -/
  | macroOp (x : BitVec 5) (y : BitVec 5) (z : BitVec 5) (e : BitVec 8) (lit : Word32)
  /-- R197: Requests vector lanes and sets the grant. -/
  | claim (l : Lit) (d : BitVec 5) (a : BitVec 5) (i : BitVec 15)
  /-- R198: Sets VL from a register, clamped to 0–256. -/
  | vsetl (l : Lit) (d : BitVec 5) (a : BitVec 5)
  /-- R198: Sets VL to a constant. -/
  | vsetli (l : Lit) (d : BitVec 5) (n : BitVec 9)
  /-- R199: Opens a capture of the next n vector instructions, to run c times. -/
  | vrep (l : Lit) (a : BitVec 5) (n : BitVec 4)
  /-- R198: Waits until every accepted vector entry and vector store has completed. -/
  | vdrain (l : Lit)
  /-- R291: Atomic wrapping add. -/
  | amoAdd (l : Lit) (d : BitVec 5) (a : BitVec 5) (b : BitVec 5) (s : BitVec 2) (o : BitVec 2) (z : BitVec 1)
  /-- R291: Atomic FP32 add. -/
  | amoFadd (l : Lit) (d : BitVec 5) (a : BitVec 5) (b : BitVec 5) (s : BitVec 2) (o : BitVec 2)
  /-- R291: Atomic signed minimum. -/
  | amoMin (l : Lit) (d : BitVec 5) (a : BitVec 5) (b : BitVec 5) (s : BitVec 2) (o : BitVec 2) (z : BitVec 1)
  /-- R291: Atomic signed maximum. -/
  | amoMax (l : Lit) (d : BitVec 5) (a : BitVec 5) (b : BitVec 5) (s : BitVec 2) (o : BitVec 2) (z : BitVec 1)
  /-- R291: Atomic unsigned minimum. -/
  | amoMinu (l : Lit) (d : BitVec 5) (a : BitVec 5) (b : BitVec 5) (s : BitVec 2) (o : BitVec 2) (z : BitVec 1)
  /-- R291: Atomic unsigned maximum. -/
  | amoMaxu (l : Lit) (d : BitVec 5) (a : BitVec 5) (b : BitVec 5) (s : BitVec 2) (o : BitVec 2) (z : BitVec 1)
  /-- R291: Atomic FP32 minimum. -/
  | amoFmin (l : Lit) (d : BitVec 5) (a : BitVec 5) (b : BitVec 5) (s : BitVec 2) (o : BitVec 2)
  /-- R291: Atomic FP32 maximum. -/
  | amoFmax (l : Lit) (d : BitVec 5) (a : BitVec 5) (b : BitVec 5) (s : BitVec 2) (o : BitVec 2)
  /-- R291: Atomic FP32 abs-max. -/
  | amoAmax (l : Lit) (d : BitVec 5) (a : BitVec 5) (b : BitVec 5) (s : BitVec 2) (o : BitVec 2)
  /-- R291: Atomic bitwise AND. -/
  | amoAnd (l : Lit) (d : BitVec 5) (a : BitVec 5) (b : BitVec 5) (s : BitVec 2) (o : BitVec 2) (z : BitVec 1)
  /-- R291: Atomic bitwise OR. -/
  | amoOr (l : Lit) (d : BitVec 5) (a : BitVec 5) (b : BitVec 5) (s : BitVec 2) (o : BitVec 2) (z : BitVec 1)
  /-- R291: Atomic bitwise XOR. -/
  | amoXor (l : Lit) (d : BitVec 5) (a : BitVec 5) (b : BitVec 5) (s : BitVec 2) (o : BitVec 2) (z : BitVec 1)
  /-- R291: Atomic swap. -/
  | amoSwap (l : Lit) (d : BitVec 5) (a : BitVec 5) (b : BitVec 5) (s : BitVec 2) (o : BitVec 2) (z : BitVec 1)
  /-- R291: Atomic compare-and-swap against rd. -/
  | amoCas (l : Lit) (d : BitVec 5) (a : BitVec 5) (b : BitVec 5) (s : BitVec 2) (o : BitVec 2) (z : BitVec 1)
  /-- R294: Atomic read-and-reset of a maximum. -/
  | amoAmaxrst (l : Lit) (d : BitVec 5) (a : BitVec 5) (b : BitVec 5) (s : BitVec 2) (o : BitVec 2) (z : BitVec 1)
  /-- R298: Decrements an event count, or suspends until the count is at least 1. -/
  | evwait (l : Lit) (e : BitVec 5)
  /-- R298: Adds a count to an event line of a launch fold. -/
  | evsig (l : Lit) (a : BitVec 5) (b : BitVec 5) (e : BitVec 5)
  /-- R298: Reads an event count without waiting. -/
  | evcnt (l : Lit) (d : BitVec 5) (e : BitVec 5)
  /-- R307: Pushes a READY record on the head of the core's own deque. -/
  | dqpush (l : Lit) (a : BitVec 5)
  /-- R307: Pops the head of the core's own deque. -/
  | dqpop (l : Lit) (d : BitVec 5)
  /-- R307: Steals the tail entry of another core's deque. -/
  | dqsteal (l : Lit) (d : BitVec 5) (a : BitVec 5)
  /-- R308: Creates a child unit and increments its join block. -/
  | fork (l : Lit) (d : BitVec 5) (a : BitVec 5) (b : BitVec 5)
  /-- R309: Decrements a join block, and suspends while children remain. -/
  | join (l : Lit) (a : BitVec 5)
  /-- R310: Sends converted elements to a receive channel of a launch core. -/
  | send (l : Lit) (d : BitVec 5) (a : BitVec 5) (b : BitVec 5)
  /-- R311: Pops a message slot, or suspends until one is filled. -/
  | recv (l : Lit) (d : BitVec 5) (c : BitVec 4)
  /-- R311: Pops a message slot, stalling up to a deadline. -/
  | recvt (l : Lit) (d : BitVec 5) (b : BitVec 5) (c : BitVec 4)
  /-- R302: Joins every agent of the core and arrives at the superstep barrier of domain BDOM. -/
  | ssync (l : Lit)
  /-- R301: Sets the barrier domain for the next SSYNC. -/
  | bdom (l : Lit) (a : BitVec 5)
  /-- R305: Sends one scheduled transfer in its exchange slot. -/
  | xsend (l : Lit) (a : BitVec 5) (b : BitVec 5)
  /-- R306: Waits for the next scheduled transfer on a channel and returns its address. -/
  | xrecv (l : Lit) (d : BitVec 5) (c : BitVec 4)
  /-- R312: Boards a key into an EMPTY slot at its home stop. -/
  | dboard (l : Lit) (d : BitVec 5) (a : BitVec 5) (b : BitVec 5)
  /-- R312: Alights a key's slot and writes its payload to memory. -/
  | dalight (l : Lit) (d : BitVec 5) (a : BitVec 5) (b : BitVec 5)
  /-- R312: Reads a payload word of a key's slot. -/
  | dread (l : Lit) (d : BitVec 5) (a : BitVec 5) (w : BitVec 3)
  /-- R314: Drove read-modify-write: add. -/
  | drmwAdd (l : Lit) (d : BitVec 5) (a : BitVec 5) (b : BitVec 5) (w : BitVec 3)
  /-- R314: Drove read-modify-write: signed minimum. -/
  | drmwMin (l : Lit) (d : BitVec 5) (a : BitVec 5) (b : BitVec 5) (w : BitVec 3)
  /-- R314: Drove read-modify-write: signed maximum. -/
  | drmwMax (l : Lit) (d : BitVec 5) (a : BitVec 5) (b : BitVec 5) (w : BitVec 3)
  /-- R314: Drove read-modify-write: unsigned minimum. -/
  | drmwMinu (l : Lit) (d : BitVec 5) (a : BitVec 5) (b : BitVec 5) (w : BitVec 3)
  /-- R314: Drove read-modify-write: unsigned maximum. -/
  | drmwMaxu (l : Lit) (d : BitVec 5) (a : BitVec 5) (b : BitVec 5) (w : BitVec 3)
  /-- R314: Drove read-modify-write: FP32 minimum. -/
  | drmwFmin (l : Lit) (d : BitVec 5) (a : BitVec 5) (b : BitVec 5) (w : BitVec 3)
  /-- R314: Drove read-modify-write: FP32 maximum. -/
  | drmwFmax (l : Lit) (d : BitVec 5) (a : BitVec 5) (b : BitVec 5) (w : BitVec 3)
  /-- R314: Drove read-modify-write: AND. -/
  | drmwAnd (l : Lit) (d : BitVec 5) (a : BitVec 5) (b : BitVec 5) (w : BitVec 3)
  /-- R314: Drove read-modify-write: OR. -/
  | drmwOr (l : Lit) (d : BitVec 5) (a : BitVec 5) (b : BitVec 5) (w : BitVec 3)
  /-- R314: Drove read-modify-write: XOR. -/
  | drmwXor (l : Lit) (d : BitVec 5) (a : BitVec 5) (b : BitVec 5) (w : BitVec 3)
  /-- R314: Drove read-modify-write: swap. -/
  | drmwSwap (l : Lit) (d : BitVec 5) (a : BitVec 5) (b : BitVec 5) (w : BitVec 3)
  /-- R314: Drove read-modify-write: compare-and-swap. -/
  | drmwCas (l : Lit) (d : BitVec 5) (a : BitVec 5) (b : BitVec 5) (w : BitVec 3)
  /-- R318: Captures a key's slot into the core's buffer, leaving a HELD bubble. -/
  | dcap (l : Lit) (a : BitVec 5)
  /-- R318: Writes a word of the captured copy. -/
  | dput (l : Lit) (a : BitVec 5) (b : BitVec 5) (w : BitVec 3)
  /-- R318: Releases a capture, reinserting the buffer at the next pass. -/
  | drel (l : Lit) (a : BitVec 5)
  /-- R316: Waits for every earlier drove request and returns DLAPC. -/
  | dlap (l : Lit) (d : BitVec 5)
  /-- R321: Orders the core's accesses that overlap a range. -/
  | fenceR (l : Lit) (a : BitVec 5) (b : BitVec 5)
  /-- R320: Orders accesses of the PRED classes before those of the SUCC classes. -/
  | fenceS (l : Lit) (p : BitVec 6) (s : BitVec 6)
  /-- R322: Waits for the masked queues and takes a recorded deferred error. -/
  | qfence (l : Lit) (m : BitVec 8)
  /-- R280: Binds a stream register to a descriptor. -/
  | sbind (l : Lit) (d : BitVec 5) (a : BitVec 5)
  /-- R280: Unbinds a stream, draining or discarding its ring. -/
  | sunbind (l : Lit) (d : BitVec 5)
  /-- R280: Reads a stream's status. -/
  | sstat (l : Lit) (d : BitVec 5) (a : BitVec 5)
  /-- R280: Waits until a write stream's entries are in memory. -/
  | sdrain (l : Lit) (d : BitVec 5)
  /-- R276: Loads a chute context from its control block. -/
  | cbinit (l : Lit) (a : BitVec 5) (c : BitVec 4)
  /-- R276: Waits for a filled slot and returns its address. -/
  | cbpop (l : Lit) (d : BitVec 5) (c : BitVec 4)
  /-- R276: Returns the oldest held slot to FREE. -/
  | cbpush (l : Lit) (c : BitVec 4)
  /-- R276: Reads a chute context's counters. -/
  | cbstat (l : Lit) (d : BitVec 5) (c : BitVec 4)
  /-- R270: Queues a copy of n elements with conversion. -/
  | cpy (l : Lit) (q : BitVec 3) (a : BitVec 5) (b : BitVec 5) (c : BitVec 5) (h : BitVec 1)
  /-- R271: Queues an affine-pattern copy. -/
  | cpya (l : Lit) (q : BitVec 3) (a : BitVec 5) (b : BitVec 5) (c : BitVec 5) (h : BitVec 1)
  /-- R272: Queues an indexed gather. -/
  | gath (l : Lit) (q : BitVec 3) (a : BitVec 5) (b : BitVec 5) (c : BitVec 5) (h : BitVec 1)
  /-- R272: Queues an indexed scatter. -/
  | scat (l : Lit) (q : BitVec 3) (a : BitVec 5) (b : BitVec 5) (c : BitVec 5)
  /-- R273: Queues a convolution window expansion. -/
  | cpyw (l : Lit) (q : BitVec 3) (a : BitVec 5) (b : BitVec 5) (c : BitVec 5) (h : BitVec 1)
  /-- R270: Queues a write of n zero elements. -/
  | cpyz (l : Lit) (q : BitVec 3) (a : BitVec 5) (b : BitVec 5) (h : BitVec 1)
  /-- R283: Binds a paddock window to a declaration and a box. -/
  | pdecl (l : Lit) (a : BitVec 5) (b : BitVec 5) (w : BitVec 2)
  /-- R285: Advances the generation and sends the owned cells that others ghost. -/
  | muster (l : Lit) (w : BitVec 2)
  /-- R286: Waits until the selected faces are fresh. -/
  | gwait (l : Lit) (b : BitVec 5) (w : BitVec 2)
  /-- R286: Reads face freshness, generation and in-flight pieces. -/
  | gstat (l : Lit) (d : BitVec 5) (w : BitVec 2)
  /-- R287: Unbinds a window once nothing owed to or by it is in flight. -/
  | pdrop (l : Lit) (w : BitVec 2)
  /-- R231: Queues a load of a tile from memory. -/
  | tld (l : Lit) (q : BitVec 3) (a : BitVec 5) (b : BitVec 5) (c : BitVec 5)
  /-- R231: Queues a store of a tile to memory. -/
  | tstr (l : Lit) (q : BitVec 3) (a : BitVec 5) (b : BitVec 5) (c : BitVec 5)
  /-- R232: Joins the matrix queues and stores an accumulator region to memory. -/
  | amov (l : Lit) (q : BitVec 3) (a : BitVec 5) (b : BitVec 5) (c : BitVec 3)
  /-- R232: Joins the matrix queues and loads an accumulator region from memory. -/
  | ald (l : Lit) (q : BitVec 3) (a : BitVec 5) (b : BitVec 5) (c : BitVec 3)
  /-- R233: Sends a matrix instruction to another fold's engine. -/
  | mxcmd (l : Lit) (q : BitVec 3) (a : BitVec 5) (b : BitVec 5) (c : BitVec 5)
  /-- R281: Allocates local memory below the allocation mark. -/
  | lmalloc (l : Lit) (d : BitVec 5) (b : BitVec 5)
  /-- R281: Moves the allocation mark up. -/
  | lmfree (l : Lit) (a : BitVec 5)
  /-- R281: Clears the valid bits of a local range. -/
  | lminv (l : Lit) (a : BitVec 5) (b : BitVec 5)
  /-- R393: Opens this rank's part in a collective. -/
  | vsset (l : Lit) (d : BitVec 5) (a : BitVec 5) (b : BitVec 5)
  /-- R395: Sends a marker on a stream. -/
  | vsmark (l : Lit) (a : BitVec 5)
  /-- R397: Waits for the result, then forms and exchanges digests. -/
  | vsdig (l : Lit) (d : BitVec 5) (a : BitVec 5)
  /-- R396: Waits for the rank's result and closes its part. -/
  | vswait (l : Lit) (d : BitVec 5) (a : BitVec 5)
  /-- R371: Pairs the core with its partner for checked execution. -/
  | yoke (l : Lit) (d : BitVec 5)
  /-- R371: Closes the current interval and releases the partner. -/
  | unyoke (l : Lit)
  /-- R366: Invalidates the job's translations of a range within its scope. -/
  | tlbinv (l : Lit) (a : BitVec 5) (b : BitVec 5) (s : BitVec 2)
  /-- R366: Walks for an address and reports the leaf. -/
  | tlbprobe (l : Lit) (d : BitVec 5) (a : BitVec 5)
  /-- R140: Integer add. -/
  | add (d : BitVec 5) (a : BitVec 5) (b : BitVec 5)
  /-- R140: Integer subtract. -/
  | sub (d : BitVec 5) (a : BitVec 5) (b : BitVec 5)
  /-- R140: Bitwise AND. -/
  | and (d : BitVec 5) (a : BitVec 5) (b : BitVec 5)
  /-- R140: Bitwise OR. -/
  | or (d : BitVec 5) (a : BitVec 5) (b : BitVec 5)
  /-- R140: Bitwise XOR. -/
  | xor (d : BitVec 5) (a : BitVec 5) (b : BitVec 5)
  /-- R140: AND with the complement of rb. -/
  | andn (d : BitVec 5) (a : BitVec 5) (b : BitVec 5)
  /-- R140: Signed minimum. -/
  | min (d : BitVec 5) (a : BitVec 5) (b : BitVec 5)
  /-- R140: Signed maximum. -/
  | max (d : BitVec 5) (a : BitVec 5) (b : BitVec 5)
  /-- R140: Unsigned minimum. -/
  | minu (d : BitVec 5) (a : BitVec 5) (b : BitVec 5)
  /-- R140: Unsigned maximum. -/
  | maxu (d : BitVec 5) (a : BitVec 5) (b : BitVec 5)
  /-- R140: 32-bit add, sign-extended. -/
  | addw (d : BitVec 5) (a : BitVec 5) (b : BitVec 5)
  /-- R140: 32-bit subtract, sign-extended. -/
  | subw (d : BitVec 5) (a : BitVec 5) (b : BitVec 5)
  /-- R140: Saturating signed add. -/
  | adds (d : BitVec 5) (a : BitVec 5) (b : BitVec 5)
  /-- R140: Saturating signed subtract. -/
  | subs (d : BitVec 5) (a : BitVec 5) (b : BitVec 5)
  /-- R140: Saturating absolute value. -/
  | abs (d : BitVec 5) (a : BitVec 5)
  /-- R141: Low 64 bits of the product. -/
  | mul (d : BitVec 5) (a : BitVec 5) (b : BitVec 5)
  /-- R141: High 64 bits of the signed product. -/
  | mulh (d : BitVec 5) (a : BitVec 5) (b : BitVec 5)
  /-- R141: High 64 bits of the unsigned product. -/
  | mulhu (d : BitVec 5) (a : BitVec 5) (b : BitVec 5)
  /-- R141: High 64 bits of the signed-by-unsigned product. -/
  | mulhsu (d : BitVec 5) (a : BitVec 5) (b : BitVec 5)
  /-- R141: Signed quotient. -/
  | div (d : BitVec 5) (a : BitVec 5) (b : BitVec 5)
  /-- R141: Unsigned quotient. -/
  | divu (d : BitVec 5) (a : BitVec 5) (b : BitVec 5)
  /-- R141: Signed remainder. -/
  | rem (d : BitVec 5) (a : BitVec 5) (b : BitVec 5)
  /-- R141: Unsigned remainder. -/
  | remu (d : BitVec 5) (a : BitVec 5) (b : BitVec 5)
  /-- R142: Sets 1 if equal. -/
  | seq (d : BitVec 5) (a : BitVec 5) (b : BitVec 5)
  /-- R142: Sets 1 if not equal. -/
  | sne (d : BitVec 5) (a : BitVec 5) (b : BitVec 5)
  /-- R142: Sets 1 if less, signed. -/
  | slt (d : BitVec 5) (a : BitVec 5) (b : BitVec 5)
  /-- R142: Sets 1 if greater or equal, signed. -/
  | sge (d : BitVec 5) (a : BitVec 5) (b : BitVec 5)
  /-- R142: Sets 1 if less, unsigned. -/
  | sltu (d : BitVec 5) (a : BitVec 5) (b : BitVec 5)
  /-- R142: Sets 1 if greater or equal, unsigned. -/
  | sgeu (d : BitVec 5) (a : BitVec 5) (b : BitVec 5)
  /-- R146: Shift left by a register. -/
  | sll (d : BitVec 5) (a : BitVec 5) (b : BitVec 5)
  /-- R146: Logical shift right. -/
  | srl (d : BitVec 5) (a : BitVec 5) (b : BitVec 5)
  /-- R146: Arithmetic shift right. -/
  | sra (d : BitVec 5) (a : BitVec 5) (b : BitVec 5)
  /-- R146: Rotate left. -/
  | rol (d : BitVec 5) (a : BitVec 5) (b : BitVec 5)
  /-- R146: Rotate right. -/
  | ror (d : BitVec 5) (a : BitVec 5) (b : BitVec 5)
  /-- R146: Counts the set bits of a mask group. -/
  | popc (d : BitVec 5) (a : BitVec 5) (n : BitVec 2)
  /-- R146: Counts leading zeros. -/
  | clz (d : BitVec 5) (a : BitVec 5)
  /-- R146: Gives the index of the lowest set bit of a mask group. -/
  | ctz (d : BitVec 5) (a : BitVec 5) (n : BitVec 2)
  /-- R146: Reverses the bits. -/
  | brev (d : BitVec 5) (a : BitVec 5)
  /-- R146: Reverses the bytes. -/
  | bswap (d : BitVec 5) (a : BitVec 5)
  /-- R146: Extracts a bit field, zero-extended. -/
  | extu (d : BitVec 5) (a : BitVec 5) (b : BitVec 5)
  /-- R146: Extracts a bit field, sign-extended. -/
  | exts (d : BitVec 5) (a : BitVec 5) (b : BitVec 5)
  /-- R146: Shifts a mask group left. -/
  | mshl (d : BitVec 5) (a : BitVec 5) (b : BitVec 5) (n : BitVec 2)
  /-- R146: Shifts a mask group right. -/
  | mshr (d : BitVec 5) (a : BitVec 5) (b : BitVec 5) (n : BitVec 2)
  /-- R146: ANDs two mask groups. -/
  | mand (d : BitVec 5) (a : BitVec 5) (b : BitVec 5) (n : BitVec 2)
  /-- R146: ORs two mask groups. -/
  | mor (d : BitVec 5) (a : BitVec 5) (b : BitVec 5) (n : BitVec 2)
  /-- R146: XORs two mask groups. -/
  | mxor (d : BitVec 5) (a : BitVec 5) (b : BitVec 5) (n : BitVec 2)
  /-- R143: Adds a sign-extended immediate. -/
  | addi (d : BitVec 5) (a : BitVec 5) (i : BitVec 16)
  /-- R143: ANDs a sign-extended immediate. -/
  | andi (d : BitVec 5) (a : BitVec 5) (i : BitVec 16)
  /-- R143: ORs a zero-extended immediate. -/
  | ori (d : BitVec 5) (a : BitVec 5) (i : BitVec 16)
  /-- R143: XORs a zero-extended immediate. -/
  | xori (d : BitVec 5) (a : BitVec 5) (i : BitVec 16)
  /-- R147: Shifts left by a constant. -/
  | slli (d : BitVec 5) (a : BitVec 5) (n : BitVec 2) (s : BitVec 8)
  /-- R147: Shifts right logically by a constant. -/
  | srli (d : BitVec 5) (a : BitVec 5) (n : BitVec 2) (s : BitVec 8)
  /-- R147: Shifts right arithmetically by a constant. -/
  | srai (d : BitVec 5) (a : BitVec 5) (s : BitVec 8)
  /-- R147: Rotates left by a constant. -/
  | roli (d : BitVec 5) (a : BitVec 5) (s : BitVec 8)
  /-- R147: Rotates right by a constant. -/
  | rori (d : BitVec 5) (a : BitVec 5) (s : BitVec 8)
  /-- R144: Compares with a 13-bit immediate. -/
  | cmpi (d : BitVec 5) (a : BitVec 5) (r : BitVec 3) (i : BitVec 13)
  /-- R148: FP32 add. -/
  | fadd (d : BitVec 5) (a : BitVec 5) (b : BitVec 5)
  /-- R148: FP32 subtract. -/
  | fsub (d : BitVec 5) (a : BitVec 5) (b : BitVec 5)
  /-- R148: FP32 multiply. -/
  | fmul (d : BitVec 5) (a : BitVec 5) (b : BitVec 5)
  /-- R148: FP32 divide. -/
  | fdiv (d : BitVec 5) (a : BitVec 5) (b : BitVec 5)
  /-- R148: FP32 square root. -/
  | fsqrt (d : BitVec 5) (a : BitVec 5)
  /-- R148: FP32 fused multiply-accumulate into rd. -/
  | fmac (d : BitVec 5) (a : BitVec 5) (b : BitVec 5)
  /-- R148: FP32 minimum. -/
  | fmin (d : BitVec 5) (a : BitVec 5) (b : BitVec 5)
  /-- R148: FP32 maximum. -/
  | fmax (d : BitVec 5) (a : BitVec 5) (b : BitVec 5)
  /-- R148: Clears the sign bit. -/
  | fabs (d : BitVec 5) (a : BitVec 5)
  /-- R148: Inverts the sign bit. -/
  | fneg (d : BitVec 5) (a : BitVec 5)
  /-- R148: FP32 equal compare. -/
  | feq (d : BitVec 5) (a : BitVec 5) (b : BitVec 5)
  /-- R148: FP32 less-than compare. -/
  | flt (d : BitVec 5) (a : BitVec 5) (b : BitVec 5)
  /-- R148: FP32 less-or-equal compare. -/
  | fle (d : BitVec 5) (a : BitVec 5) (b : BitVec 5)
  /-- R148: One-hot class of an FP32 value. -/
  | fclass (d : BitVec 5) (a : BitVec 5)
  /-- R189: Converts FP32 to a narrower format. -/
  | fcvt (d : BitVec 5) (a : BitVec 5) (c : BitVec 5) (r : BitVec 3)
  /-- R189: Decodes a narrow format to FP32. -/
  | fext (d : BitVec 5) (a : BitVec 5) (c : BitVec 5) (r : BitVec 3)
  /-- R189: Converts FP32 to a signed 64-bit integer. -/
  | ftoi (d : BitVec 5) (a : BitVec 5) (r : BitVec 3)
  /-- R189: Converts FP32 to an unsigned 64-bit integer. -/
  | ftou (d : BitVec 5) (a : BitVec 5) (r : BitVec 3)
  /-- R189: Converts a signed 64-bit integer to FP32. -/
  | itof (d : BitVec 5) (a : BitVec 5) (r : BitVec 3)
  /-- R189: Converts an unsigned 64-bit integer to FP32. -/
  | utof (d : BitVec 5) (a : BitVec 5) (r : BitVec 3)
  /-- R203: Vector FP32 add. -/
  | vadd (d : BitVec 4) (a : BitVec 4) (b : BitVec 4) (k : BitVec 5)
  /-- R203: Vector FP32 subtract. -/
  | vsub (d : BitVec 4) (a : BitVec 4) (b : BitVec 4) (k : BitVec 5)
  /-- R203: Vector FP32 multiply. -/
  | vmul (d : BitVec 4) (a : BitVec 4) (b : BitVec 4) (k : BitVec 5)
  /-- R203: Vector FP32 divide. -/
  | vdiv (d : BitVec 4) (a : BitVec 4) (b : BitVec 4) (k : BitVec 5)
  /-- R203: Vector FP32 square root. -/
  | vsqrt (d : BitVec 4) (a : BitVec 4) (k : BitVec 5)
  /-- R203: Vector fused multiply-add. -/
  | vfma (d : BitVec 4) (a : BitVec 4) (b : BitVec 4) (c : BitVec 4) (k : BitVec 5)
  /-- R203: Vector fused multiply-subtract. -/
  | vfms (d : BitVec 4) (a : BitVec 4) (b : BitVec 4) (c : BitVec 4) (k : BitVec 5)
  /-- R203: Vector FP32 minimum. -/
  | vmin (d : BitVec 4) (a : BitVec 4) (b : BitVec 4) (k : BitVec 5)
  /-- R203: Vector FP32 maximum. -/
  | vmax (d : BitVec 4) (a : BitVec 4) (b : BitVec 4) (k : BitVec 5)
  /-- R203: Clears each element's sign bit. -/
  | vabs (d : BitVec 4) (a : BitVec 4) (k : BitVec 5)
  /-- R203: Inverts each element's sign bit. -/
  | vneg (d : BitVec 4) (a : BitVec 4) (k : BitVec 5)
  /-- R203: Dot product into vd[0] under NBV. -/
  | vdot (d : BitVec 4) (a : BitVec 4) (b : BitVec 4) (c : BitVec 4) (k : BitVec 5)
  /-- R203: Paired BF16 add. -/
  | vaddBf2 (d : BitVec 4) (a : BitVec 4) (b : BitVec 4) (k : BitVec 5)
  /-- R203: Paired BF16 multiply. -/
  | vmulBf2 (d : BitVec 4) (a : BitVec 4) (b : BitVec 4) (k : BitVec 5)
  /-- R203: Paired BF16 fused multiply-add. -/
  | vfmaBf2 (d : BitVec 4) (a : BitVec 4) (b : BitVec 4) (c : BitVec 4) (k : BitVec 5)
  /-- R203: Two BF16 products summed into an FP32 element. -/
  | vdot2Bf (d : BitVec 4) (a : BitVec 4) (b : BitVec 4) (c : BitVec 4) (k : BitVec 5)
  /-- R205: Vector integer add. -/
  | viadd (d : BitVec 4) (a : BitVec 4) (b : BitVec 4) (k : BitVec 5)
  /-- R205: Vector integer subtract. -/
  | visub (d : BitVec 4) (a : BitVec 4) (b : BitVec 4) (k : BitVec 5)
  /-- R205: Vector integer multiply, low half. -/
  | vimul (d : BitVec 4) (a : BitVec 4) (b : BitVec 4) (k : BitVec 5)
  /-- R205: Vector signed multiply, high half. -/
  | vimulh (d : BitVec 4) (a : BitVec 4) (b : BitVec 4) (k : BitVec 5)
  /-- R205: Vector AND. -/
  | viand (d : BitVec 4) (a : BitVec 4) (b : BitVec 4) (k : BitVec 5)
  /-- R205: Vector OR. -/
  | vior (d : BitVec 4) (a : BitVec 4) (b : BitVec 4) (k : BitVec 5)
  /-- R205: Vector XOR. -/
  | vixor (d : BitVec 4) (a : BitVec 4) (b : BitVec 4) (k : BitVec 5)
  /-- R205: Vector shift left. -/
  | visll (d : BitVec 4) (a : BitVec 4) (b : BitVec 4) (k : BitVec 5)
  /-- R205: Vector logical shift right. -/
  | visrl (d : BitVec 4) (a : BitVec 4) (b : BitVec 4) (k : BitVec 5)
  /-- R205: Vector arithmetic shift right. -/
  | visra (d : BitVec 4) (a : BitVec 4) (b : BitVec 4) (k : BitVec 5)
  /-- R205: Vector signed minimum. -/
  | vimin (d : BitVec 4) (a : BitVec 4) (b : BitVec 4) (k : BitVec 5)
  /-- R205: Vector signed maximum. -/
  | vimax (d : BitVec 4) (a : BitVec 4) (b : BitVec 4) (k : BitVec 5)
  /-- R205: Vector unsigned minimum. -/
  | viminu (d : BitVec 4) (a : BitVec 4) (b : BitVec 4) (k : BitVec 5)
  /-- R205: Vector unsigned maximum. -/
  | vimaxu (d : BitVec 4) (a : BitVec 4) (b : BitVec 4) (k : BitVec 5)
  /-- R205: Vector saturating add. -/
  | viadds (d : BitVec 4) (a : BitVec 4) (b : BitVec 4) (k : BitVec 5)
  /-- R205: Vector saturating subtract. -/
  | visubs (d : BitVec 4) (a : BitVec 4) (b : BitVec 4) (k : BitVec 5)
  /-- R205: Vector integer multiply-accumulate. -/
  | vimac (d : BitVec 4) (a : BitVec 4) (b : BitVec 4) (c : BitVec 4) (k : BitVec 5)
  /-- R205: Four-byte signed dot product plus vc. -/
  | vidot4 (d : BitVec 4) (a : BitVec 4) (b : BitVec 4) (c : BitVec 4) (k : BitVec 5)
  /-- R205: Vector saturating absolute value. -/
  | viabs (d : BitVec 4) (a : BitVec 4) (k : BitVec 5)
  /-- R206: Float equality into a mask group. -/
  | vcmpFeq (a : BitVec 4) (b : BitVec 4) (d : BitVec 5)
  /-- R206: Float inequality into a mask group. -/
  | vcmpFne (a : BitVec 4) (b : BitVec 4) (d : BitVec 5)
  /-- R206: Float less-than into a mask group. -/
  | vcmpFlt (a : BitVec 4) (b : BitVec 4) (d : BitVec 5)
  /-- R206: Float less-or-equal into a mask group. -/
  | vcmpFle (a : BitVec 4) (b : BitVec 4) (d : BitVec 5)
  /-- R206: Unordered test into a mask group. -/
  | vcmpFun (a : BitVec 4) (b : BitVec 4) (d : BitVec 5)
  /-- R206: Integer equality into a mask group. -/
  | vcmpIeq (a : BitVec 4) (b : BitVec 4) (d : BitVec 5)
  /-- R206: Integer inequality into a mask group. -/
  | vcmpIne (a : BitVec 4) (b : BitVec 4) (d : BitVec 5)
  /-- R206: Signed less-than into a mask group. -/
  | vcmpIlt (a : BitVec 4) (b : BitVec 4) (d : BitVec 5)
  /-- R206: Signed less-or-equal into a mask group. -/
  | vcmpIle (a : BitVec 4) (b : BitVec 4) (d : BitVec 5)
  /-- R206: Unsigned less-than into a mask group. -/
  | vcmpIltu (a : BitVec 4) (b : BitVec 4) (d : BitVec 5)
  /-- R206: Unsigned less-or-equal into a mask group. -/
  | vcmpIleu (a : BitVec 4) (b : BitVec 4) (d : BitVec 5)
  /-- R207: FP32 sum reduction in the shape of the level. -/
  | vrsum (d : BitVec 4) (a : BitVec 4) (k : BitVec 5)
  /-- R207: FP32 maximum reduction. -/
  | vrmax (d : BitVec 4) (a : BitVec 4) (k : BitVec 5)
  /-- R207: FP32 minimum reduction. -/
  | vrmin (d : BitVec 4) (a : BitVec 4) (k : BitVec 5)
  /-- R207: Greatest-magnitude reduction. -/
  | vramax (d : BitVec 4) (a : BitVec 4) (k : BitVec 5)
  /-- R208: Maximum with its index. -/
  | vmaxi (d : BitVec 4) (a : BitVec 4) (k : BitVec 5)
  /-- R208: Minimum with its index. -/
  | vmini (d : BitVec 4) (a : BitVec 4) (k : BitVec 5)
  /-- R207: INT32 sum reduction. -/
  | vrisum (d : BitVec 4) (a : BitVec 4) (k : BitVec 5)
  /-- R207: Signed maximum reduction. -/
  | vrimax (d : BitVec 4) (a : BitVec 4) (k : BitVec 5)
  /-- R207: Signed minimum reduction. -/
  | vrimin (d : BitVec 4) (a : BitVec 4) (k : BitVec 5)
  /-- R207: Unsigned maximum reduction. -/
  | vrimaxu (d : BitVec 4) (a : BitVec 4) (k : BitVec 5)
  /-- R207: Unsigned minimum reduction. -/
  | vriminu (d : BitVec 4) (a : BitVec 4) (k : BitVec 5)
  /-- R207: AND reduction. -/
  | vrand (d : BitVec 4) (a : BitVec 4) (k : BitVec 5)
  /-- R207: OR reduction. -/
  | vror (d : BitVec 4) (a : BitVec 4) (k : BitVec 5)
  /-- R207: XOR reduction. -/
  | vrxor (d : BitVec 4) (a : BitVec 4) (k : BitVec 5)
  /-- R209: Element-wise 2^x. -/
  | vexp2 (d : BitVec 4) (a : BitVec 4) (k : BitVec 5)
  /-- R209: Element-wise e^x. -/
  | vexpe (d : BitVec 4) (a : BitVec 4) (k : BitVec 5)
  /-- R209: Element-wise log2. -/
  | vlog2 (d : BitVec 4) (a : BitVec 4) (k : BitVec 5)
  /-- R209: Element-wise reciprocal. -/
  | vrcp (d : BitVec 4) (a : BitVec 4) (k : BitVec 5)
  /-- R209: Element-wise reciprocal square root. -/
  | vrsq (d : BitVec 4) (a : BitVec 4) (k : BitVec 5)
  /-- R210: Vector move. -/
  | vmov (d : BitVec 4) (a : BitVec 4) (k : BitVec 5)
  /-- R210: Replicates a g register into vector elements. -/
  | vsplat (d : BitVec 4) (s : BitVec 5)
  /-- R210: Moves one vector element to a g register. -/
  | vmovs (a : BitVec 4) (i : BitVec 8) (d : BitVec 5)
  /-- R210: Selects elements of va or vb by mask. -/
  | vsel (d : BitVec 4) (a : BitVec 4) (b : BitVec 4) (k : BitVec 5)
  /-- R210: Writes each element's index. -/
  | viota (d : BitVec 4) (k : BitVec 5)
  /-- R210: Indexed permutation of va by vb. -/
  | vidx (d : BitVec 4) (a : BitVec 4) (b : BitVec 4) (k : BitVec 5)
  /-- R190: Converts elements as fcvt does. -/
  | vnarrow (d : BitVec 4) (a : BitVec 4) (c : BitVec 4) (h : BitVec 1) (r : BitVec 3) (k : BitVec 5)
  /-- R190: Decodes elements as fext does. -/
  | vwiden (d : BitVec 4) (a : BitVec 4) (c : BitVec 4) (h : BitVec 1) (r : BitVec 3) (k : BitVec 5)
  /-- R190: Narrows and widens again in FP32. -/
  | vqrnd (d : BitVec 4) (a : BitVec 4) (c : BitVec 4) (h : BitVec 1) (r : BitVec 3) (k : BitVec 5)
  /-- R190: Block-quantises and decodes the elements. -/
  | vmxq (d : BitVec 4) (a : BitVec 4) (c : BitVec 4) (h : BitVec 1) (l : BitVec 3)
  /-- R190: Writes the block scales. -/
  | vmxs (d : BitVec 4) (a : BitVec 4) (c : BitVec 4) (h : BitVec 1) (l : BitVec 3)
  /-- R190: Writes the block element codes. -/
  | vmxc (d : BitVec 4) (a : BitVec 4) (c : BitVec 4) (h : BitVec 1) (l : BitVec 3)
  /-- R190: BALE16-quantises and decodes the elements. -/
  | vbaleq (d : BitVec 4) (a : BitVec 4)
  /-- R224: Multiplies tiles into an accumulator. -/
  | mma (d : BitVec 3) (a : BitVec 5) (b : BitVec 5) (s : BitVec 1)
  /-- R224: Multiplies tiles into an accumulator from zero. -/
  | mmaz (d : BitVec 3) (a : BitVec 5) (b : BitVec 5) (s : BitVec 1)
  /-- R227: Zeroes an accumulator. -/
  | azero (d : BitVec 3)
  /-- R227: Copies an accumulator. -/
  | acopy (d : BitVec 3) (s : BitVec 3)
  /-- R227: Adds two accumulators, FP32 or INT32. -/
  | aadd (d : BitVec 3) (s : BitVec 3) (i : BitVec 1)
  /-- R228: Zeroes a tile. -/
  | tzero (a : BitVec 5)
  /-- R228: Copies a tile. -/
  | tcopy (a : BitVec 5) (b : BitVec 5)
  /-- R228: Transposes a tile. -/
  | ttrn (a : BitVec 5) (b : BitVec 5)
  /-- R229: Forwards a tile to a neighbour's engine. -/
  | tfwd (a : BitVec 5) (r : BitVec 2)
  /-- R229: Waits for an inbound tile and takes it. -/
  | ttake (a : BitVec 5) (b : BitVec 5)
  /-- R408: Loss of power ends every powered domain of the device, leaving only the non-volatile store, until the next cold power-good. -/
  | powerLoss
  /-- R32: A reset of a partition's PCIe function makes FACC writable again and ends the read-only state that FACC.DONE set. -/
  | functionReset (p : Nat)
  /-- R402: A link that has gone down returns from retraining, and the packets that waited on it move on. -/
  | linkReturn (k : Nat)
  deriving DecidableEq, Repr

end Sys2Proof
end

