-- ==== Sys2Proof/Decode.lean ====
section
/-! DEFINITION. Decoding (04_fetch_and_encoding.md, R87, R100 to R107): the two words of a packet to slot instructions, total on
any words, with a named refusal; and after it the encoder, from the same field layouts. A word decodes when its fixed bits are
those of a row of the opcode map; field values that the owning rule then rejects are WellFormed's matter. -/

namespace Sys2Proof

/-- Bits `lo + n - 1 : lo` of a word (R6). -/
abbrev bits (w : Word32) (lo n : Nat) : BitVec n := w.extractLsb' lo n

/-- Why two words are not a packet: R107's ILLEGAL at order 2 or 3 of R98, or fewer than eight bytes. -/
inductive DecodeError where
  | word0Reserved (w : Word32)
  | word1Reserved (w : Word32)
  | tooShort
  deriving DecidableEq, Repr

/-- A decoded packet (R87). With L = 1 the A side holds the A-slot NOP: word 1 is the literal of the C side. -/
structure Packet where
  cside : Instr
  aside : Instr
  deriving DecidableEq, Repr

/-- C-slot major 0x00 (R105). -/
def decodeSys (w : Word32) (l : Lit) (_ : Word32) : Option Instr :=
  if bits w 0 25 = 0#25 then some (.nopCSlot l)
  else
  if bits w 15 10 = 0#10 ∧ bits w 0 10 = 1#10 then some (.trap l (bits w 10 5))
  else
  if bits w 0 25 = 2#25 then some (.eret l)
  else
  if bits w 0 25 = 3#25 then some (.exit l)
  else
  if bits w 0 25 = 4#25 then some (.yield l)
  else
  if bits w 0 25 = 5#25 then some (.pulse l)
  else
  if bits w 0 15 = 6#15 then some (.cancel l (bits w 20 5) (bits w 15 5))
  else
  if bits w 15 10 = 0#10 ∧ bits w 0 10 = 7#10 then some (.wfi l (bits w 10 5))
  else none

/-- C-slot major 0x01 (R105). -/
def decodeMfc (w : Word32) (l : Lit) (_ : Word32) : Option Instr :=
  if bits w 12 8 = 0#8 then some (.mfc l (bits w 20 5) (bits w 0 12))
  else
  if bits w 20 5 = 0#5 ∧ bits w 12 3 = 1#3 then some (.mtc l (bits w 15 5) (bits w 0 12))
  else none

/-- C-slot major 0x02 (R105). -/
def decodeMovi (w : Word32) (l : Lit) (_ : Word32) : Option Instr :=
  some (.movi l (bits w 20 5) (bits w 0 20))

/-- C-slot major 0x04 (R105). -/
def decodeLdl (w : Word32) (l : Lit) (lit : Word32) : Option Instr :=
  if bits w 18 2 = 0#2 then some (.ldlW l (bits w 20 5) (bits w 0 18))
  else
  if bits w 18 2 = 1#2 then some (.ldlD l (bits w 20 5) (bits w 0 18))
  else
  if bits w 31 1 = 1#1 ∧ bits w 0 20 = 524288#20 then some (.ldlC (bits w 20 5) lit)
  else none

/-- C-slot major 0x05 (R105). -/
def decodeLd (w : Word32) (l : Lit) (_ : Word32) : Option Instr :=
  some (.ld l (bits w 20 5) (bits w 15 5) (bits w 13 2) (bits w 12 1) (bits w 0 12))

/-- C-slot major 0x06 (R105). -/
def decodeSt (w : Word32) (l : Lit) (_ : Word32) : Option Instr :=
  if bits w 12 1 = 0#1 then some (.st l (bits w 20 5) (bits w 15 5) (bits w 13 2) (bits w 0 12))
  else none

/-- C-slot major 0x07 (R105). -/
def decodeLdv (w : Word32) (l : Lit) (_ : Word32) : Option Instr :=
  if bits w 24 1 = 0#1 then some (.ldv l (bits w 20 4) (bits w 15 5) (bits w 13 2) (bits w 12 1) (bits w 0 12))
  else none

/-- C-slot major 0x08 (R105). -/
def decodeStv (w : Word32) (l : Lit) (_ : Word32) : Option Instr :=
  if bits w 24 1 = 0#1 ∧ bits w 12 1 = 0#1 then some (.stv l (bits w 20 4) (bits w 15 5) (bits w 13 2) (bits w 0 12))
  else none

/-- C-slot major 0x09 (R105). -/
def decodeLdf (w : Word32) (l : Lit) (_ : Word32) : Option Instr :=
  if bits w 24 1 = 0#1 ∧ bits w 12 3 = 4#3 then some (.ldf l (bits w 20 4) (bits w 15 5) (bits w 0 12))
  else none

/-- C-slot major 0x0A (R105). -/
def decodeStf (w : Word32) (l : Lit) (_ : Word32) : Option Instr :=
  if bits w 24 1 = 0#1 ∧ bits w 12 3 = 4#3 then some (.stf l (bits w 20 4) (bits w 15 5) (bits w 0 12))
  else none

/-- C-slot major 0x0B (R105). -/
def decodeAdda (w : Word32) (l : Lit) (_ : Word32) : Option Instr :=
  if bits w 0 10 = 0#10 then some (.adda l (bits w 20 5) (bits w 15 5) (bits w 10 5))
  else none

/-- C-slot major 0x0C (R105). -/
def decodePtr (w : Word32) (l : Lit) (_ : Word32) : Option Instr :=
  if bits w 0 10 = 0#10 then some (.ptag l (bits w 20 5) (bits w 15 5) (bits w 10 5))
  else
  if bits w 0 15 = 8#15 then some (.pfmt l (bits w 20 5) (bits w 15 5))
  else
  if bits w 0 15 = 16#15 then some (.pbase l (bits w 20 5) (bits w 15 5))
  else
  if bits w 3 7 = 3#7 then some (.lea l (bits w 20 5) (bits w 15 5) (bits w 10 5) (bits w 0 3))
  else none

/-- C-slot major 0x0D (R105). -/
def decodeBr (w : Word32) (l : Lit) (_ : Word32) : Option Instr :=
  some (.br l (bits w 20 5) (bits w 15 5) (bits w 11 4) (bits w 0 11))

/-- C-slot major 0x0E (R105). -/
def decodeBbit (w : Word32) (l : Lit) (_ : Word32) : Option Instr :=
  if bits w 11 2 = 0#2 then some (.bbc l (bits w 20 5) (bits w 15 5) (bits w 13 2) (bits w 0 11))
  else
  if bits w 11 2 = 1#2 then some (.bbs l (bits w 20 5) (bits w 15 5) (bits w 13 2) (bits w 0 11))
  else
  if bits w 15 5 = 0#5 ∧ bits w 11 2 = 2#2 then some (.bbz l (bits w 20 5) (bits w 13 2) (bits w 0 11))
  else
  if bits w 15 5 = 0#5 ∧ bits w 11 2 = 3#2 then some (.bbnz l (bits w 20 5) (bits w 13 2) (bits w 0 11))
  else none

/-- C-slot major 0x0F (R105). -/
def decodeJump (w : Word32) (l : Lit) (_ : Word32) : Option Instr :=
  if bits w 20 5 = 0#5 then some (.j l (bits w 0 20))
  else
  if bits w 20 5 = 1#5 then some (.jl l (bits w 0 20))
  else none

/-- C-slot major 0x10 (R105). -/
def decodeJr (w : Word32) (l : Lit) (_ : Word32) : Option Instr :=
  if bits w 0 10 = 0#10 then some (.jr l (bits w 20 5) (bits w 15 5) (bits w 10 5))
  else none

/-- C-slot major 0x12 (R105). -/
def decodeMacro (w : Word32) (_ : Lit) (lit : Word32) : Option Instr :=
  if bits w 31 1 = 1#1 ∧ bits w 8 2 = 0#2 then some (.macroOp (bits w 20 5) (bits w 15 5) (bits w 10 5) (bits w 0 8) lit)
  else none

/-- C-slot major 0x13 (R105). -/
def decodeClaim (w : Word32) (l : Lit) (_ : Word32) : Option Instr :=
  some (.claim l (bits w 20 5) (bits w 15 5) (bits w 0 15))

/-- C-slot major 0x14 (R105). -/
def decodeVseq (w : Word32) (l : Lit) (_ : Word32) : Option Instr :=
  if bits w 0 15 = 0#15 then some (.vsetl l (bits w 20 5) (bits w 15 5))
  else
  if bits w 9 11 = 8#11 then some (.vsetli l (bits w 20 5) (bits w 0 9))
  else
  if bits w 20 5 = 0#5 ∧ bits w 4 11 = 512#11 then some (.vrep l (bits w 15 5) (bits w 0 4))
  else
  if bits w 0 25 = 12288#25 then some (.vdrain l)
  else none

/-- C-slot major 0x15 (R105). -/
def decodeAmo (w : Word32) (l : Lit) (_ : Word32) : Option Instr :=
  if bits w 0 5 = 0#5 then some (.amoAdd l (bits w 20 5) (bits w 15 5) (bits w 10 5) (bits w 8 2) (bits w 6 2) (bits w 5 1))
  else
  if bits w 0 6 = 1#6 then some (.amoFadd l (bits w 20 5) (bits w 15 5) (bits w 10 5) (bits w 8 2) (bits w 6 2))
  else
  if bits w 0 5 = 2#5 then some (.amoMin l (bits w 20 5) (bits w 15 5) (bits w 10 5) (bits w 8 2) (bits w 6 2) (bits w 5 1))
  else
  if bits w 0 5 = 3#5 then some (.amoMax l (bits w 20 5) (bits w 15 5) (bits w 10 5) (bits w 8 2) (bits w 6 2) (bits w 5 1))
  else
  if bits w 0 5 = 4#5 then some (.amoMinu l (bits w 20 5) (bits w 15 5) (bits w 10 5) (bits w 8 2) (bits w 6 2) (bits w 5 1))
  else
  if bits w 0 5 = 5#5 then some (.amoMaxu l (bits w 20 5) (bits w 15 5) (bits w 10 5) (bits w 8 2) (bits w 6 2) (bits w 5 1))
  else
  if bits w 0 6 = 6#6 then some (.amoFmin l (bits w 20 5) (bits w 15 5) (bits w 10 5) (bits w 8 2) (bits w 6 2))
  else
  if bits w 0 6 = 7#6 then some (.amoFmax l (bits w 20 5) (bits w 15 5) (bits w 10 5) (bits w 8 2) (bits w 6 2))
  else
  if bits w 0 6 = 8#6 then some (.amoAmax l (bits w 20 5) (bits w 15 5) (bits w 10 5) (bits w 8 2) (bits w 6 2))
  else
  if bits w 0 5 = 9#5 then some (.amoAnd l (bits w 20 5) (bits w 15 5) (bits w 10 5) (bits w 8 2) (bits w 6 2) (bits w 5 1))
  else
  if bits w 0 5 = 10#5 then some (.amoOr l (bits w 20 5) (bits w 15 5) (bits w 10 5) (bits w 8 2) (bits w 6 2) (bits w 5 1))
  else
  if bits w 0 5 = 11#5 then some (.amoXor l (bits w 20 5) (bits w 15 5) (bits w 10 5) (bits w 8 2) (bits w 6 2) (bits w 5 1))
  else
  if bits w 0 5 = 12#5 then some (.amoSwap l (bits w 20 5) (bits w 15 5) (bits w 10 5) (bits w 8 2) (bits w 6 2) (bits w 5 1))
  else
  if bits w 0 5 = 13#5 then some (.amoCas l (bits w 20 5) (bits w 15 5) (bits w 10 5) (bits w 8 2) (bits w 6 2) (bits w 5 1))
  else
  if bits w 0 5 = 14#5 then some (.amoAmaxrst l (bits w 20 5) (bits w 15 5) (bits w 10 5) (bits w 8 2) (bits w 6 2) (bits w 5 1))
  else none

/-- C-slot major 0x16 (R105). -/
def decodeEvt (w : Word32) (l : Lit) (_ : Word32) : Option Instr :=
  if bits w 5 20 = 0#20 then some (.evwait l (bits w 0 5))
  else
  if bits w 20 5 = 0#5 ∧ bits w 5 5 = 8#5 then some (.evsig l (bits w 15 5) (bits w 10 5) (bits w 0 5))
  else
  if bits w 5 15 = 16#15 then some (.evcnt l (bits w 20 5) (bits w 0 5))
  else none

/-- C-slot major 0x17 (R105). -/
def decodeDq (w : Word32) (l : Lit) (_ : Word32) : Option Instr :=
  if bits w 20 5 = 0#5 ∧ bits w 0 15 = 0#15 then some (.dqpush l (bits w 15 5))
  else
  if bits w 0 20 = 1#20 then some (.dqpop l (bits w 20 5))
  else
  if bits w 0 15 = 2#15 then some (.dqsteal l (bits w 20 5) (bits w 15 5))
  else
  if bits w 0 10 = 3#10 then some (.fork l (bits w 20 5) (bits w 15 5) (bits w 10 5))
  else
  if bits w 20 5 = 0#5 ∧ bits w 0 15 = 4#15 then some (.join l (bits w 15 5))
  else none

/-- C-slot major 0x18 (R105). -/
def decodeChan (w : Word32) (l : Lit) (_ : Word32) : Option Instr :=
  if bits w 0 10 = 0#10 then some (.send l (bits w 20 5) (bits w 15 5) (bits w 10 5))
  else
  if bits w 6 14 = 0#14 ∧ bits w 0 2 = 1#2 then some (.recv l (bits w 20 5) (bits w 2 4))
  else
  if bits w 15 5 = 0#5 ∧ bits w 6 4 = 0#4 ∧ bits w 0 2 = 2#2 then some (.recvt l (bits w 20 5) (bits w 10 5) (bits w 2 4))
  else none

/-- C-slot major 0x19 (R105). -/
def decodeXch (w : Word32) (l : Lit) (_ : Word32) : Option Instr :=
  if bits w 0 25 = 0#25 then some (.ssync l)
  else
  if bits w 20 5 = 0#5 ∧ bits w 0 15 = 1#15 then some (.bdom l (bits w 15 5))
  else
  if bits w 20 5 = 0#5 ∧ bits w 0 10 = 2#10 then some (.xsend l (bits w 15 5) (bits w 10 5))
  else
  if bits w 6 14 = 0#14 ∧ bits w 0 2 = 3#2 then some (.xrecv l (bits w 20 5) (bits w 2 4))
  else none

/-- C-slot major 0x1A (R105). -/
def decodeDrv (w : Word32) (l : Lit) (_ : Word32) : Option Instr :=
  if bits w 0 10 = 0#10 then some (.dboard l (bits w 20 5) (bits w 15 5) (bits w 10 5))
  else
  if bits w 0 10 = 1#10 then some (.dalight l (bits w 20 5) (bits w 15 5) (bits w 10 5))
  else
  if bits w 6 9 = 0#9 ∧ bits w 0 3 = 2#3 then some (.dread l (bits w 20 5) (bits w 15 5) (bits w 3 3))
  else
  if bits w 6 4 = 0#4 ∧ bits w 0 3 = 3#3 then some (.drmwAdd l (bits w 20 5) (bits w 15 5) (bits w 10 5) (bits w 3 3))
  else
  if bits w 6 4 = 1#4 ∧ bits w 0 3 = 3#3 then some (.drmwMin l (bits w 20 5) (bits w 15 5) (bits w 10 5) (bits w 3 3))
  else
  if bits w 6 4 = 2#4 ∧ bits w 0 3 = 3#3 then some (.drmwMax l (bits w 20 5) (bits w 15 5) (bits w 10 5) (bits w 3 3))
  else
  if bits w 6 4 = 3#4 ∧ bits w 0 3 = 3#3 then some (.drmwMinu l (bits w 20 5) (bits w 15 5) (bits w 10 5) (bits w 3 3))
  else
  if bits w 6 4 = 4#4 ∧ bits w 0 3 = 3#3 then some (.drmwMaxu l (bits w 20 5) (bits w 15 5) (bits w 10 5) (bits w 3 3))
  else
  if bits w 6 4 = 5#4 ∧ bits w 0 3 = 3#3 then some (.drmwFmin l (bits w 20 5) (bits w 15 5) (bits w 10 5) (bits w 3 3))
  else
  if bits w 6 4 = 6#4 ∧ bits w 0 3 = 3#3 then some (.drmwFmax l (bits w 20 5) (bits w 15 5) (bits w 10 5) (bits w 3 3))
  else
  if bits w 6 4 = 7#4 ∧ bits w 0 3 = 3#3 then some (.drmwAnd l (bits w 20 5) (bits w 15 5) (bits w 10 5) (bits w 3 3))
  else
  if bits w 6 4 = 8#4 ∧ bits w 0 3 = 3#3 then some (.drmwOr l (bits w 20 5) (bits w 15 5) (bits w 10 5) (bits w 3 3))
  else
  if bits w 6 4 = 9#4 ∧ bits w 0 3 = 3#3 then some (.drmwXor l (bits w 20 5) (bits w 15 5) (bits w 10 5) (bits w 3 3))
  else
  if bits w 6 4 = 10#4 ∧ bits w 0 3 = 3#3 then some (.drmwSwap l (bits w 20 5) (bits w 15 5) (bits w 10 5) (bits w 3 3))
  else
  if bits w 6 4 = 11#4 ∧ bits w 0 3 = 3#3 then some (.drmwCas l (bits w 20 5) (bits w 15 5) (bits w 10 5) (bits w 3 3))
  else
  if bits w 20 5 = 0#5 ∧ bits w 0 15 = 4#15 then some (.dcap l (bits w 15 5))
  else
  if bits w 20 5 = 0#5 ∧ bits w 6 4 = 0#4 ∧ bits w 0 3 = 5#3 then some (.dput l (bits w 15 5) (bits w 10 5) (bits w 3 3))
  else
  if bits w 20 5 = 0#5 ∧ bits w 0 15 = 6#15 then some (.drel l (bits w 15 5))
  else
  if bits w 0 20 = 7#20 then some (.dlap l (bits w 20 5))
  else none

/-- C-slot major 0x1B (R105). -/
def decodeFence (w : Word32) (l : Lit) (_ : Word32) : Option Instr :=
  if bits w 20 5 = 0#5 ∧ bits w 0 10 = 0#10 then some (.fenceR l (bits w 15 5) (bits w 10 5))
  else
  if bits w 0 13 = 256#13 then some (.fenceS l (bits w 19 6) (bits w 13 6))
  else
  if bits w 8 17 = 2#17 then some (.qfence l (bits w 0 8))
  else none

/-- C-slot major 0x1C (R105). -/
def decodeStrm (w : Word32) (l : Lit) (_ : Word32) : Option Instr :=
  if bits w 0 15 = 0#15 then some (.sbind l (bits w 20 5) (bits w 15 5))
  else
  if bits w 0 20 = 1#20 then some (.sunbind l (bits w 20 5))
  else
  if bits w 0 15 = 2#15 then some (.sstat l (bits w 20 5) (bits w 15 5))
  else
  if bits w 0 20 = 3#20 then some (.sdrain l (bits w 20 5))
  else none

/-- C-slot major 0x1D (R105). -/
def decodeChute (w : Word32) (l : Lit) (_ : Word32) : Option Instr :=
  if bits w 20 5 = 0#5 ∧ bits w 4 11 = 0#11 then some (.cbinit l (bits w 15 5) (bits w 0 4))
  else
  if bits w 4 16 = 16#16 then some (.cbpop l (bits w 20 5) (bits w 0 4))
  else
  if bits w 4 21 = 32#21 then some (.cbpush l (bits w 0 4))
  else
  if bits w 4 16 = 48#16 then some (.cbstat l (bits w 20 5) (bits w 0 4))
  else none

/-- C-slot major 0x1E (R105). -/
def decodeCpy (w : Word32) (l : Lit) (_ : Word32) : Option Instr :=
  if bits w 4 3 = 0#3 ∧ bits w 0 3 = 0#3 then some (.cpy l (bits w 22 3) (bits w 17 5) (bits w 12 5) (bits w 7 5) (bits w 3 1))
  else
  if bits w 4 3 = 0#3 ∧ bits w 0 3 = 1#3 then some (.cpya l (bits w 22 3) (bits w 17 5) (bits w 12 5) (bits w 7 5) (bits w 3 1))
  else
  if bits w 4 3 = 0#3 ∧ bits w 0 3 = 2#3 then some (.gath l (bits w 22 3) (bits w 17 5) (bits w 12 5) (bits w 7 5) (bits w 3 1))
  else
  if bits w 0 7 = 3#7 then some (.scat l (bits w 22 3) (bits w 17 5) (bits w 12 5) (bits w 7 5))
  else
  if bits w 4 3 = 0#3 ∧ bits w 0 3 = 4#3 then some (.cpyw l (bits w 22 3) (bits w 17 5) (bits w 12 5) (bits w 7 5) (bits w 3 1))
  else
  if bits w 4 8 = 0#8 ∧ bits w 0 3 = 5#3 then some (.cpyz l (bits w 22 3) (bits w 17 5) (bits w 12 5) (bits w 3 1))
  else none

/-- C-slot major 0x1F (R105). -/
def decodePad (w : Word32) (l : Lit) (_ : Word32) : Option Instr :=
  if bits w 20 5 = 0#5 ∧ bits w 5 5 = 0#5 ∧ bits w 0 3 = 0#3 then some (.pdecl l (bits w 15 5) (bits w 10 5) (bits w 3 2))
  else
  if bits w 5 20 = 0#20 ∧ bits w 0 3 = 1#3 then some (.muster l (bits w 3 2))
  else
  if bits w 15 10 = 0#10 ∧ bits w 5 5 = 0#5 ∧ bits w 0 3 = 2#3 then some (.gwait l (bits w 10 5) (bits w 3 2))
  else
  if bits w 5 15 = 0#15 ∧ bits w 0 3 = 3#3 then some (.gstat l (bits w 20 5) (bits w 3 2))
  else
  if bits w 5 20 = 0#20 ∧ bits w 0 3 = 4#3 then some (.pdrop l (bits w 3 2))
  else none

/-- C-slot major 0x20 (R105). -/
def decodeMxc (w : Word32) (l : Lit) (_ : Word32) : Option Instr :=
  if bits w 0 7 = 0#7 then some (.tld l (bits w 22 3) (bits w 17 5) (bits w 12 5) (bits w 7 5))
  else
  if bits w 0 7 = 1#7 then some (.tstr l (bits w 22 3) (bits w 17 5) (bits w 12 5) (bits w 7 5))
  else
  if bits w 10 2 = 0#2 ∧ bits w 0 7 = 2#7 then some (.amov l (bits w 22 3) (bits w 17 5) (bits w 12 5) (bits w 7 3))
  else
  if bits w 10 2 = 0#2 ∧ bits w 0 7 = 3#7 then some (.ald l (bits w 22 3) (bits w 17 5) (bits w 12 5) (bits w 7 3))
  else
  if bits w 0 7 = 4#7 then some (.mxcmd l (bits w 22 3) (bits w 17 5) (bits w 12 5) (bits w 7 5))
  else none

/-- C-slot major 0x21 (R105). -/
def decodeLma (w : Word32) (l : Lit) (_ : Word32) : Option Instr :=
  if bits w 15 5 = 0#5 ∧ bits w 0 10 = 0#10 then some (.lmalloc l (bits w 20 5) (bits w 10 5))
  else
  if bits w 20 5 = 0#5 ∧ bits w 0 15 = 1#15 then some (.lmfree l (bits w 15 5))
  else
  if bits w 20 5 = 0#5 ∧ bits w 0 10 = 2#10 then some (.lminv l (bits w 15 5) (bits w 10 5))
  else none

/-- C-slot major 0x22 (R105). -/
def decodeColl (w : Word32) (l : Lit) (_ : Word32) : Option Instr :=
  if bits w 0 10 = 0#10 then some (.vsset l (bits w 20 5) (bits w 15 5) (bits w 10 5))
  else
  if bits w 20 5 = 0#5 ∧ bits w 0 15 = 1#15 then some (.vsmark l (bits w 15 5))
  else
  if bits w 0 15 = 2#15 then some (.vsdig l (bits w 20 5) (bits w 15 5))
  else
  if bits w 0 15 = 3#15 then some (.vswait l (bits w 20 5) (bits w 15 5))
  else none

/-- C-slot major 0x23 (R105). -/
def decodeYoke (w : Word32) (l : Lit) (_ : Word32) : Option Instr :=
  if bits w 0 20 = 0#20 then some (.yoke l (bits w 20 5))
  else
  if bits w 0 25 = 1#25 then some (.unyoke l)
  else none

/-- C-slot major 0x24 (R105). -/
def decodeTlb (w : Word32) (l : Lit) (_ : Word32) : Option Instr :=
  if bits w 20 5 = 0#5 ∧ bits w 0 8 = 0#8 then some (.tlbinv l (bits w 15 5) (bits w 10 5) (bits w 8 2))
  else
  if bits w 0 15 = 1#15 then some (.tlbprobe l (bits w 20 5) (bits w 15 5))
  else none

/-- A-slot major 0x00 (R106). -/
def decodeNopA (w : Word32) : Option Instr :=
  if bits w 0 26 = 0#26 then some (.nopASlot)
  else none

/-- A-slot major 0x01 (R106). -/
def decodeIalu (w : Word32) : Option Instr :=
  if bits w 0 11 = 0#11 then some (.add (bits w 21 5) (bits w 16 5) (bits w 11 5))
  else
  if bits w 0 11 = 1#11 then some (.sub (bits w 21 5) (bits w 16 5) (bits w 11 5))
  else
  if bits w 0 11 = 2#11 then some (.and (bits w 21 5) (bits w 16 5) (bits w 11 5))
  else
  if bits w 0 11 = 3#11 then some (.or (bits w 21 5) (bits w 16 5) (bits w 11 5))
  else
  if bits w 0 11 = 4#11 then some (.xor (bits w 21 5) (bits w 16 5) (bits w 11 5))
  else
  if bits w 0 11 = 5#11 then some (.andn (bits w 21 5) (bits w 16 5) (bits w 11 5))
  else
  if bits w 0 11 = 8#11 then some (.min (bits w 21 5) (bits w 16 5) (bits w 11 5))
  else
  if bits w 0 11 = 9#11 then some (.max (bits w 21 5) (bits w 16 5) (bits w 11 5))
  else
  if bits w 0 11 = 10#11 then some (.minu (bits w 21 5) (bits w 16 5) (bits w 11 5))
  else
  if bits w 0 11 = 11#11 then some (.maxu (bits w 21 5) (bits w 16 5) (bits w 11 5))
  else
  if bits w 0 11 = 12#11 then some (.addw (bits w 21 5) (bits w 16 5) (bits w 11 5))
  else
  if bits w 0 11 = 13#11 then some (.subw (bits w 21 5) (bits w 16 5) (bits w 11 5))
  else
  if bits w 0 11 = 14#11 then some (.adds (bits w 21 5) (bits w 16 5) (bits w 11 5))
  else
  if bits w 0 11 = 15#11 then some (.subs (bits w 21 5) (bits w 16 5) (bits w 11 5))
  else
  if bits w 0 16 = 16#16 then some (.abs (bits w 21 5) (bits w 16 5))
  else none

/-- A-slot major 0x02 (R106). -/
def decodeImul (w : Word32) : Option Instr :=
  if bits w 0 11 = 0#11 then some (.mul (bits w 21 5) (bits w 16 5) (bits w 11 5))
  else
  if bits w 0 11 = 1#11 then some (.mulh (bits w 21 5) (bits w 16 5) (bits w 11 5))
  else
  if bits w 0 11 = 2#11 then some (.mulhu (bits w 21 5) (bits w 16 5) (bits w 11 5))
  else
  if bits w 0 11 = 3#11 then some (.mulhsu (bits w 21 5) (bits w 16 5) (bits w 11 5))
  else
  if bits w 0 11 = 8#11 then some (.div (bits w 21 5) (bits w 16 5) (bits w 11 5))
  else
  if bits w 0 11 = 9#11 then some (.divu (bits w 21 5) (bits w 16 5) (bits w 11 5))
  else
  if bits w 0 11 = 10#11 then some (.rem (bits w 21 5) (bits w 16 5) (bits w 11 5))
  else
  if bits w 0 11 = 11#11 then some (.remu (bits w 21 5) (bits w 16 5) (bits w 11 5))
  else none

/-- A-slot major 0x03 (R106). -/
def decodeIcmp (w : Word32) : Option Instr :=
  if bits w 0 11 = 0#11 then some (.seq (bits w 21 5) (bits w 16 5) (bits w 11 5))
  else
  if bits w 0 11 = 1#11 then some (.sne (bits w 21 5) (bits w 16 5) (bits w 11 5))
  else
  if bits w 0 11 = 2#11 then some (.slt (bits w 21 5) (bits w 16 5) (bits w 11 5))
  else
  if bits w 0 11 = 3#11 then some (.sge (bits w 21 5) (bits w 16 5) (bits w 11 5))
  else
  if bits w 0 11 = 4#11 then some (.sltu (bits w 21 5) (bits w 16 5) (bits w 11 5))
  else
  if bits w 0 11 = 5#11 then some (.sgeu (bits w 21 5) (bits w 16 5) (bits w 11 5))
  else none

/-- A-slot major 0x04 (R106). -/
noncomputable def decodeBits (w : Word32) : Option Instr :=
  if bits w 0 11 = 0#11 then some (.sll (bits w 21 5) (bits w 16 5) (bits w 11 5))
  else
  if bits w 0 11 = 1#11 then some (.srl (bits w 21 5) (bits w 16 5) (bits w 11 5))
  else
  if bits w 0 11 = 2#11 then some (.sra (bits w 21 5) (bits w 16 5) (bits w 11 5))
  else
  if bits w 0 11 = 3#11 then some (.rol (bits w 21 5) (bits w 16 5) (bits w 11 5))
  else
  if bits w 0 11 = 4#11 then some (.ror (bits w 21 5) (bits w 16 5) (bits w 11 5))
  else
  if bits w 11 5 = 0#5 ∧ bits w 0 9 = 8#9 then some (.popc (bits w 21 5) (bits w 16 5) (bits w 9 2))
  else
  if bits w 0 16 = 9#16 then some (.clz (bits w 21 5) (bits w 16 5))
  else
  if bits w 11 5 = 0#5 ∧ bits w 0 9 = 10#9 then some (.ctz (bits w 21 5) (bits w 16 5) (bits w 9 2))
  else
  if bits w 0 16 = 11#16 then some (.brev (bits w 21 5) (bits w 16 5))
  else
  if bits w 0 16 = 12#16 then some (.bswap (bits w 21 5) (bits w 16 5))
  else
  if bits w 0 11 = 16#11 then some (.extu (bits w 21 5) (bits w 16 5) (bits w 11 5))
  else
  if bits w 0 11 = 17#11 then some (.exts (bits w 21 5) (bits w 16 5) (bits w 11 5))
  else
  if bits w 0 9 = 24#9 then some (.mshl (bits w 21 5) (bits w 16 5) (bits w 11 5) (bits w 9 2))
  else
  if bits w 0 9 = 25#9 then some (.mshr (bits w 21 5) (bits w 16 5) (bits w 11 5) (bits w 9 2))
  else
  if bits w 0 9 = 26#9 then some (.mand (bits w 21 5) (bits w 16 5) (bits w 11 5) (bits w 9 2))
  else
  if bits w 0 9 = 27#9 then some (.mor (bits w 21 5) (bits w 16 5) (bits w 11 5) (bits w 9 2))
  else
  if bits w 0 9 = 28#9 then some (.mxor (bits w 21 5) (bits w 16 5) (bits w 11 5) (bits w 9 2))
  else none

/-- A-slot major 0x05 (R106). -/
noncomputable def decodeAddi (w : Word32) : Option Instr :=
  some (.addi (bits w 21 5) (bits w 16 5) (bits w 0 16))

/-- A-slot major 0x06 (R106). -/
noncomputable def decodeAndi (w : Word32) : Option Instr :=
  some (.andi (bits w 21 5) (bits w 16 5) (bits w 0 16))

/-- A-slot major 0x07 (R106). -/
noncomputable def decodeOri (w : Word32) : Option Instr :=
  some (.ori (bits w 21 5) (bits w 16 5) (bits w 0 16))

/-- A-slot major 0x08 (R106). -/
noncomputable def decodeXori (w : Word32) : Option Instr :=
  some (.xori (bits w 21 5) (bits w 16 5) (bits w 0 16))

/-- A-slot major 0x09 (R106). -/
noncomputable def decodeShi (w : Word32) : Option Instr :=
  if bits w 12 4 = 0#4 ∧ bits w 8 2 = 0#2 then some (.slli (bits w 21 5) (bits w 16 5) (bits w 10 2) (bits w 0 8))
  else
  if bits w 12 4 = 1#4 ∧ bits w 8 2 = 0#2 then some (.srli (bits w 21 5) (bits w 16 5) (bits w 10 2) (bits w 0 8))
  else
  if bits w 8 8 = 32#8 then some (.srai (bits w 21 5) (bits w 16 5) (bits w 0 8))
  else
  if bits w 8 8 = 48#8 then some (.roli (bits w 21 5) (bits w 16 5) (bits w 0 8))
  else
  if bits w 8 8 = 64#8 then some (.rori (bits w 21 5) (bits w 16 5) (bits w 0 8))
  else none

/-- A-slot major 0x0A (R106). -/
noncomputable def decodeCmpi (w : Word32) : Option Instr :=
  some (.cmpi (bits w 21 5) (bits w 16 5) (bits w 13 3) (bits w 0 13))

/-- A-slot major 0x0B (R106). -/
noncomputable def decodeFp (w : Word32) : Option Instr :=
  if bits w 0 11 = 0#11 then some (.fadd (bits w 21 5) (bits w 16 5) (bits w 11 5))
  else
  if bits w 0 11 = 1#11 then some (.fsub (bits w 21 5) (bits w 16 5) (bits w 11 5))
  else
  if bits w 0 11 = 2#11 then some (.fmul (bits w 21 5) (bits w 16 5) (bits w 11 5))
  else
  if bits w 0 11 = 3#11 then some (.fdiv (bits w 21 5) (bits w 16 5) (bits w 11 5))
  else
  if bits w 0 16 = 4#16 then some (.fsqrt (bits w 21 5) (bits w 16 5))
  else
  if bits w 0 11 = 5#11 then some (.fmac (bits w 21 5) (bits w 16 5) (bits w 11 5))
  else
  if bits w 0 11 = 6#11 then some (.fmin (bits w 21 5) (bits w 16 5) (bits w 11 5))
  else
  if bits w 0 11 = 7#11 then some (.fmax (bits w 21 5) (bits w 16 5) (bits w 11 5))
  else
  if bits w 0 16 = 8#16 then some (.fabs (bits w 21 5) (bits w 16 5))
  else
  if bits w 0 16 = 9#16 then some (.fneg (bits w 21 5) (bits w 16 5))
  else
  if bits w 0 11 = 12#11 then some (.feq (bits w 21 5) (bits w 16 5) (bits w 11 5))
  else
  if bits w 0 11 = 13#11 then some (.flt (bits w 21 5) (bits w 16 5) (bits w 11 5))
  else
  if bits w 0 11 = 14#11 then some (.fle (bits w 21 5) (bits w 16 5) (bits w 11 5))
  else
  if bits w 0 16 = 15#16 then some (.fclass (bits w 21 5) (bits w 16 5))
  else none

/-- A-slot major 0x0C (R106). -/
noncomputable def decodeFcvt (w : Word32) : Option Instr :=
  if bits w 8 8 = 0#8 then some (.fcvt (bits w 21 5) (bits w 16 5) (bits w 3 5) (bits w 0 3))
  else
  if bits w 8 8 = 1#8 then some (.fext (bits w 21 5) (bits w 16 5) (bits w 3 5) (bits w 0 3))
  else
  if bits w 3 13 = 64#13 then some (.ftoi (bits w 21 5) (bits w 16 5) (bits w 0 3))
  else
  if bits w 3 13 = 96#13 then some (.ftou (bits w 21 5) (bits w 16 5) (bits w 0 3))
  else
  if bits w 3 13 = 128#13 then some (.itof (bits w 21 5) (bits w 16 5) (bits w 0 3))
  else
  if bits w 3 13 = 160#13 then some (.utof (bits w 21 5) (bits w 16 5) (bits w 0 3))
  else none

/-- A-slot major 0x10 (R106). -/
noncomputable def decodeVarith (w : Word32) : Option Instr :=
  if bits w 10 4 = 0#4 ∧ bits w 0 5 = 0#5 then some (.vadd (bits w 22 4) (bits w 18 4) (bits w 14 4) (bits w 5 5))
  else
  if bits w 10 4 = 0#4 ∧ bits w 0 5 = 1#5 then some (.vsub (bits w 22 4) (bits w 18 4) (bits w 14 4) (bits w 5 5))
  else
  if bits w 10 4 = 0#4 ∧ bits w 0 5 = 2#5 then some (.vmul (bits w 22 4) (bits w 18 4) (bits w 14 4) (bits w 5 5))
  else
  if bits w 10 4 = 0#4 ∧ bits w 0 5 = 3#5 then some (.vdiv (bits w 22 4) (bits w 18 4) (bits w 14 4) (bits w 5 5))
  else
  if bits w 10 8 = 0#8 ∧ bits w 0 5 = 4#5 then some (.vsqrt (bits w 22 4) (bits w 18 4) (bits w 5 5))
  else
  if bits w 0 5 = 5#5 then some (.vfma (bits w 22 4) (bits w 18 4) (bits w 14 4) (bits w 10 4) (bits w 5 5))
  else
  if bits w 0 5 = 6#5 then some (.vfms (bits w 22 4) (bits w 18 4) (bits w 14 4) (bits w 10 4) (bits w 5 5))
  else
  if bits w 10 4 = 0#4 ∧ bits w 0 5 = 7#5 then some (.vmin (bits w 22 4) (bits w 18 4) (bits w 14 4) (bits w 5 5))
  else
  if bits w 10 4 = 0#4 ∧ bits w 0 5 = 8#5 then some (.vmax (bits w 22 4) (bits w 18 4) (bits w 14 4) (bits w 5 5))
  else
  if bits w 10 8 = 0#8 ∧ bits w 0 5 = 9#5 then some (.vabs (bits w 22 4) (bits w 18 4) (bits w 5 5))
  else
  if bits w 10 8 = 0#8 ∧ bits w 0 5 = 10#5 then some (.vneg (bits w 22 4) (bits w 18 4) (bits w 5 5))
  else
  if bits w 0 5 = 11#5 then some (.vdot (bits w 22 4) (bits w 18 4) (bits w 14 4) (bits w 10 4) (bits w 5 5))
  else
  if bits w 10 4 = 0#4 ∧ bits w 0 5 = 16#5 then some (.vaddBf2 (bits w 22 4) (bits w 18 4) (bits w 14 4) (bits w 5 5))
  else
  if bits w 10 4 = 0#4 ∧ bits w 0 5 = 17#5 then some (.vmulBf2 (bits w 22 4) (bits w 18 4) (bits w 14 4) (bits w 5 5))
  else
  if bits w 0 5 = 18#5 then some (.vfmaBf2 (bits w 22 4) (bits w 18 4) (bits w 14 4) (bits w 10 4) (bits w 5 5))
  else
  if bits w 0 5 = 19#5 then some (.vdot2Bf (bits w 22 4) (bits w 18 4) (bits w 14 4) (bits w 10 4) (bits w 5 5))
  else none

/-- A-slot major 0x11 (R106). -/
noncomputable def decodeVint (w : Word32) : Option Instr :=
  if bits w 10 4 = 0#4 ∧ bits w 0 5 = 0#5 then some (.viadd (bits w 22 4) (bits w 18 4) (bits w 14 4) (bits w 5 5))
  else
  if bits w 10 4 = 0#4 ∧ bits w 0 5 = 1#5 then some (.visub (bits w 22 4) (bits w 18 4) (bits w 14 4) (bits w 5 5))
  else
  if bits w 10 4 = 0#4 ∧ bits w 0 5 = 2#5 then some (.vimul (bits w 22 4) (bits w 18 4) (bits w 14 4) (bits w 5 5))
  else
  if bits w 10 4 = 0#4 ∧ bits w 0 5 = 3#5 then some (.vimulh (bits w 22 4) (bits w 18 4) (bits w 14 4) (bits w 5 5))
  else
  if bits w 10 4 = 0#4 ∧ bits w 0 5 = 4#5 then some (.viand (bits w 22 4) (bits w 18 4) (bits w 14 4) (bits w 5 5))
  else
  if bits w 10 4 = 0#4 ∧ bits w 0 5 = 5#5 then some (.vior (bits w 22 4) (bits w 18 4) (bits w 14 4) (bits w 5 5))
  else
  if bits w 10 4 = 0#4 ∧ bits w 0 5 = 6#5 then some (.vixor (bits w 22 4) (bits w 18 4) (bits w 14 4) (bits w 5 5))
  else
  if bits w 10 4 = 0#4 ∧ bits w 0 5 = 7#5 then some (.visll (bits w 22 4) (bits w 18 4) (bits w 14 4) (bits w 5 5))
  else
  if bits w 10 4 = 0#4 ∧ bits w 0 5 = 8#5 then some (.visrl (bits w 22 4) (bits w 18 4) (bits w 14 4) (bits w 5 5))
  else
  if bits w 10 4 = 0#4 ∧ bits w 0 5 = 9#5 then some (.visra (bits w 22 4) (bits w 18 4) (bits w 14 4) (bits w 5 5))
  else
  if bits w 10 4 = 0#4 ∧ bits w 0 5 = 10#5 then some (.vimin (bits w 22 4) (bits w 18 4) (bits w 14 4) (bits w 5 5))
  else
  if bits w 10 4 = 0#4 ∧ bits w 0 5 = 11#5 then some (.vimax (bits w 22 4) (bits w 18 4) (bits w 14 4) (bits w 5 5))
  else
  if bits w 10 4 = 0#4 ∧ bits w 0 5 = 12#5 then some (.viminu (bits w 22 4) (bits w 18 4) (bits w 14 4) (bits w 5 5))
  else
  if bits w 10 4 = 0#4 ∧ bits w 0 5 = 13#5 then some (.vimaxu (bits w 22 4) (bits w 18 4) (bits w 14 4) (bits w 5 5))
  else
  if bits w 10 4 = 0#4 ∧ bits w 0 5 = 14#5 then some (.viadds (bits w 22 4) (bits w 18 4) (bits w 14 4) (bits w 5 5))
  else
  if bits w 10 4 = 0#4 ∧ bits w 0 5 = 15#5 then some (.visubs (bits w 22 4) (bits w 18 4) (bits w 14 4) (bits w 5 5))
  else
  if bits w 0 5 = 16#5 then some (.vimac (bits w 22 4) (bits w 18 4) (bits w 14 4) (bits w 10 4) (bits w 5 5))
  else
  if bits w 0 5 = 17#5 then some (.vidot4 (bits w 22 4) (bits w 18 4) (bits w 14 4) (bits w 10 4) (bits w 5 5))
  else
  if bits w 10 8 = 0#8 ∧ bits w 0 5 = 18#5 then some (.viabs (bits w 22 4) (bits w 18 4) (bits w 5 5))
  else none

/-- A-slot major 0x12 (R106). -/
noncomputable def decodeVcmp (w : Word32) : Option Instr :=
  if bits w 22 4 = 0#4 ∧ bits w 10 4 = 0#4 ∧ bits w 0 5 = 0#5 then some (.vcmpFeq (bits w 18 4) (bits w 14 4) (bits w 5 5))
  else
  if bits w 22 4 = 0#4 ∧ bits w 10 4 = 0#4 ∧ bits w 0 5 = 1#5 then some (.vcmpFne (bits w 18 4) (bits w 14 4) (bits w 5 5))
  else
  if bits w 22 4 = 0#4 ∧ bits w 10 4 = 0#4 ∧ bits w 0 5 = 2#5 then some (.vcmpFlt (bits w 18 4) (bits w 14 4) (bits w 5 5))
  else
  if bits w 22 4 = 0#4 ∧ bits w 10 4 = 0#4 ∧ bits w 0 5 = 3#5 then some (.vcmpFle (bits w 18 4) (bits w 14 4) (bits w 5 5))
  else
  if bits w 22 4 = 0#4 ∧ bits w 10 4 = 0#4 ∧ bits w 0 5 = 4#5 then some (.vcmpFun (bits w 18 4) (bits w 14 4) (bits w 5 5))
  else
  if bits w 22 4 = 0#4 ∧ bits w 10 4 = 0#4 ∧ bits w 0 5 = 8#5 then some (.vcmpIeq (bits w 18 4) (bits w 14 4) (bits w 5 5))
  else
  if bits w 22 4 = 0#4 ∧ bits w 10 4 = 0#4 ∧ bits w 0 5 = 9#5 then some (.vcmpIne (bits w 18 4) (bits w 14 4) (bits w 5 5))
  else
  if bits w 22 4 = 0#4 ∧ bits w 10 4 = 0#4 ∧ bits w 0 5 = 10#5 then some (.vcmpIlt (bits w 18 4) (bits w 14 4) (bits w 5 5))
  else
  if bits w 22 4 = 0#4 ∧ bits w 10 4 = 0#4 ∧ bits w 0 5 = 11#5 then some (.vcmpIle (bits w 18 4) (bits w 14 4) (bits w 5 5))
  else
  if bits w 22 4 = 0#4 ∧ bits w 10 4 = 0#4 ∧ bits w 0 5 = 12#5 then some (.vcmpIltu (bits w 18 4) (bits w 14 4) (bits w 5 5))
  else
  if bits w 22 4 = 0#4 ∧ bits w 10 4 = 0#4 ∧ bits w 0 5 = 13#5 then some (.vcmpIleu (bits w 18 4) (bits w 14 4) (bits w 5 5))
  else none

/-- A-slot major 0x13 (R106). -/
noncomputable def decodeVred (w : Word32) : Option Instr :=
  if bits w 10 8 = 0#8 ∧ bits w 0 5 = 0#5 then some (.vrsum (bits w 22 4) (bits w 18 4) (bits w 5 5))
  else
  if bits w 10 8 = 0#8 ∧ bits w 0 5 = 1#5 then some (.vrmax (bits w 22 4) (bits w 18 4) (bits w 5 5))
  else
  if bits w 10 8 = 0#8 ∧ bits w 0 5 = 2#5 then some (.vrmin (bits w 22 4) (bits w 18 4) (bits w 5 5))
  else
  if bits w 10 8 = 0#8 ∧ bits w 0 5 = 3#5 then some (.vramax (bits w 22 4) (bits w 18 4) (bits w 5 5))
  else
  if bits w 10 8 = 0#8 ∧ bits w 0 5 = 4#5 then some (.vmaxi (bits w 22 4) (bits w 18 4) (bits w 5 5))
  else
  if bits w 10 8 = 0#8 ∧ bits w 0 5 = 5#5 then some (.vmini (bits w 22 4) (bits w 18 4) (bits w 5 5))
  else
  if bits w 10 8 = 0#8 ∧ bits w 0 5 = 8#5 then some (.vrisum (bits w 22 4) (bits w 18 4) (bits w 5 5))
  else
  if bits w 10 8 = 0#8 ∧ bits w 0 5 = 9#5 then some (.vrimax (bits w 22 4) (bits w 18 4) (bits w 5 5))
  else
  if bits w 10 8 = 0#8 ∧ bits w 0 5 = 10#5 then some (.vrimin (bits w 22 4) (bits w 18 4) (bits w 5 5))
  else
  if bits w 10 8 = 0#8 ∧ bits w 0 5 = 11#5 then some (.vrimaxu (bits w 22 4) (bits w 18 4) (bits w 5 5))
  else
  if bits w 10 8 = 0#8 ∧ bits w 0 5 = 12#5 then some (.vriminu (bits w 22 4) (bits w 18 4) (bits w 5 5))
  else
  if bits w 10 8 = 0#8 ∧ bits w 0 5 = 13#5 then some (.vrand (bits w 22 4) (bits w 18 4) (bits w 5 5))
  else
  if bits w 10 8 = 0#8 ∧ bits w 0 5 = 14#5 then some (.vror (bits w 22 4) (bits w 18 4) (bits w 5 5))
  else
  if bits w 10 8 = 0#8 ∧ bits w 0 5 = 15#5 then some (.vrxor (bits w 22 4) (bits w 18 4) (bits w 5 5))
  else none

/-- A-slot major 0x14 (R106). -/
noncomputable def decodeVsfu (w : Word32) : Option Instr :=
  if bits w 10 8 = 0#8 ∧ bits w 0 5 = 0#5 then some (.vexp2 (bits w 22 4) (bits w 18 4) (bits w 5 5))
  else
  if bits w 10 8 = 0#8 ∧ bits w 0 5 = 1#5 then some (.vexpe (bits w 22 4) (bits w 18 4) (bits w 5 5))
  else
  if bits w 10 8 = 0#8 ∧ bits w 0 5 = 2#5 then some (.vlog2 (bits w 22 4) (bits w 18 4) (bits w 5 5))
  else
  if bits w 10 8 = 0#8 ∧ bits w 0 5 = 3#5 then some (.vrcp (bits w 22 4) (bits w 18 4) (bits w 5 5))
  else
  if bits w 10 8 = 0#8 ∧ bits w 0 5 = 4#5 then some (.vrsq (bits w 22 4) (bits w 18 4) (bits w 5 5))
  else none

/-- A-slot major 0x15 (R106). -/
noncomputable def decodeVperm (w : Word32) : Option Instr :=
  if bits w 10 8 = 0#8 ∧ bits w 0 5 = 0#5 then some (.vmov (bits w 22 4) (bits w 18 4) (bits w 5 5))
  else
  if bits w 10 12 = 0#12 ∧ bits w 0 5 = 1#5 then some (.vsplat (bits w 22 4) (bits w 5 5))
  else
  if bits w 22 4 = 0#4 ∧ bits w 0 5 = 2#5 then some (.vmovs (bits w 18 4) (bits w 10 8) (bits w 5 5))
  else
  if bits w 10 4 = 0#4 ∧ bits w 0 5 = 3#5 then some (.vsel (bits w 22 4) (bits w 18 4) (bits w 14 4) (bits w 5 5))
  else
  if bits w 10 12 = 0#12 ∧ bits w 0 5 = 4#5 then some (.viota (bits w 22 4) (bits w 5 5))
  else
  if bits w 10 4 = 0#4 ∧ bits w 0 5 = 5#5 then some (.vidx (bits w 22 4) (bits w 18 4) (bits w 14 4) (bits w 5 5))
  else none

/-- A-slot major 0x16 (R106). -/
noncomputable def decodeVcvt (w : Word32) : Option Instr :=
  if bits w 0 5 = 0#5 then some (.vnarrow (bits w 22 4) (bits w 18 4) (bits w 14 4) (bits w 13 1) (bits w 10 3) (bits w 5 5))
  else
  if bits w 0 5 = 1#5 then some (.vwiden (bits w 22 4) (bits w 18 4) (bits w 14 4) (bits w 13 1) (bits w 10 3) (bits w 5 5))
  else
  if bits w 0 5 = 2#5 then some (.vqrnd (bits w 22 4) (bits w 18 4) (bits w 14 4) (bits w 13 1) (bits w 10 3) (bits w 5 5))
  else
  if bits w 0 10 = 3#10 then some (.vmxq (bits w 22 4) (bits w 18 4) (bits w 14 4) (bits w 13 1) (bits w 10 3))
  else
  if bits w 0 10 = 4#10 then some (.vmxs (bits w 22 4) (bits w 18 4) (bits w 14 4) (bits w 13 1) (bits w 10 3))
  else
  if bits w 0 10 = 5#10 then some (.vmxc (bits w 22 4) (bits w 18 4) (bits w 14 4) (bits w 13 1) (bits w 10 3))
  else
  if bits w 0 18 = 40966#18 then some (.vbaleq (bits w 22 4) (bits w 18 4))
  else none

/-- A-slot major 0x18 (R106). -/
noncomputable def decodeMma (w : Word32) : Option Instr :=
  if bits w 9 4 = 0#4 ∧ bits w 0 8 = 0#8 then some (.mma (bits w 23 3) (bits w 18 5) (bits w 13 5) (bits w 8 1))
  else
  if bits w 9 4 = 0#4 ∧ bits w 0 8 = 1#8 then some (.mmaz (bits w 23 3) (bits w 18 5) (bits w 13 5) (bits w 8 1))
  else none

/-- A-slot major 0x19 (R106). -/
noncomputable def decodeAcc (w : Word32) : Option Instr :=
  if bits w 0 23 = 0#23 then some (.azero (bits w 23 3))
  else
  if bits w 21 2 = 0#2 ∧ bits w 0 18 = 1#18 then some (.acopy (bits w 23 3) (bits w 18 3))
  else
  if bits w 21 2 = 0#2 ∧ bits w 9 9 = 0#9 ∧ bits w 0 8 = 2#8 then some (.aadd (bits w 23 3) (bits w 18 3) (bits w 8 1))
  else none

/-- A-slot major 0x1A (R106). -/
noncomputable def decodeTile (w : Word32) : Option Instr :=
  if bits w 23 3 = 0#3 ∧ bits w 0 18 = 0#18 then some (.tzero (bits w 18 5))
  else
  if bits w 23 3 = 0#3 ∧ bits w 0 13 = 1#13 then some (.tcopy (bits w 18 5) (bits w 13 5))
  else
  if bits w 23 3 = 0#3 ∧ bits w 0 13 = 2#13 then some (.ttrn (bits w 18 5) (bits w 13 5))
  else
  if bits w 23 3 = 0#3 ∧ bits w 10 8 = 0#8 ∧ bits w 0 8 = 3#8 then some (.tfwd (bits w 18 5) (bits w 8 2))
  else
  if bits w 23 3 = 0#3 ∧ bits w 0 13 = 4#13 then some (.ttake (bits w 18 5) (bits w 13 5))
  else none

/-- Word 0, the C-slot (R105); `w1` is word 1, the companion literal when L = 1 (R87). -/
noncomputable def decodeC (w w1 : Word32) : Option Instr :=
  let l : Lit := if bits w 31 1 = 1#1 then some w1 else none
  match (bits w 25 6).toNat with
  | 0 => decodeSys w l w1
  | 1 => decodeMfc w l w1
  | 2 => decodeMovi w l w1
  | 4 => decodeLdl w l w1
  | 5 => decodeLd w l w1
  | 6 => decodeSt w l w1
  | 7 => decodeLdv w l w1
  | 8 => decodeStv w l w1
  | 9 => decodeLdf w l w1
  | 10 => decodeStf w l w1
  | 11 => decodeAdda w l w1
  | 12 => decodePtr w l w1
  | 13 => decodeBr w l w1
  | 14 => decodeBbit w l w1
  | 15 => decodeJump w l w1
  | 16 => decodeJr w l w1
  | 18 => decodeMacro w l w1
  | 19 => decodeClaim w l w1
  | 20 => decodeVseq w l w1
  | 21 => decodeAmo w l w1
  | 22 => decodeEvt w l w1
  | 23 => decodeDq w l w1
  | 24 => decodeChan w l w1
  | 25 => decodeXch w l w1
  | 26 => decodeDrv w l w1
  | 27 => decodeFence w l w1
  | 28 => decodeStrm w l w1
  | 29 => decodeChute w l w1
  | 30 => decodeCpy w l w1
  | 31 => decodePad w l w1
  | 32 => decodeMxc w l w1
  | 33 => decodeLma w l w1
  | 34 => decodeColl w l w1
  | 35 => decodeYoke w l w1
  | 36 => decodeTlb w l w1
  | _ => none

/-- Word 1 of a packet with L = 0, the A-slot (R106). -/
noncomputable def decodeA (w : Word32) : Option Instr :=
  match (bits w 26 6).toNat with
  | 0 => decodeNopA w
  | 1 => decodeIalu w
  | 2 => decodeImul w
  | 3 => decodeIcmp w
  | 4 => decodeBits w
  | 5 => decodeAddi w
  | 6 => decodeAndi w
  | 7 => decodeOri w
  | 8 => decodeXori w
  | 9 => decodeShi w
  | 10 => decodeCmpi w
  | 11 => decodeFp w
  | 12 => decodeFcvt w
  | 16 => decodeVarith w
  | 17 => decodeVint w
  | 18 => decodeVcmp w
  | 19 => decodeVred w
  | 20 => decodeVsfu w
  | 21 => decodeVperm w
  | 22 => decodeVcvt w
  | 24 => decodeMma w
  | 25 => decodeAcc w
  | 26 => decodeTile w
  | _ => none

/-- A packet of two words (R87): word 0 first (order 2 of R98), then word 1 when L = 0 (order 3). -/
noncomputable def decodePacket (w0 w1 : Word32) : Except DecodeError Packet :=
  match decodeC w0 w1 with
  | none => .error (.word0Reserved w0)
  | some c =>
    if bits w0 31 1 = 1#1 then .ok ⟨c, .nopASlot⟩
    else
      match decodeA w1 with
      | none => .error (.word1Reserved w1)
      | some a => .ok ⟨c, a⟩

/-- Four bytes, lowest address first, as a word (R6). -/
def wordOfBytes (b0 b1 b2 b3 : Byte) : Word32 := b3 ++ b2 ++ b1 ++ b0

/-- The packet at the front of a list of bytes, and the bytes after it. -/
noncomputable def decodeBytes : List Byte → Except DecodeError (Packet × List Byte)
  | b0 :: b1 :: b2 :: b3 :: b4 :: b5 :: b6 :: b7 :: rest =>
    match decodePacket (wordOfBytes b0 b1 b2 b3) (wordOfBytes b4 b5 b6 b7) with
    | .error e => .error e
    | .ok p => .ok (p, rest)
  | _ => .error .tooShort

/-- How many bits of its slot word an instruction's row fixes in the opcode table. -/
def fixedBits : Instr → Nat
  | .movi .. | .ld .. | .br .. | .claim .. | .addi .. | .andi .. | .ori .. | .xori .. | .cmpi .. => 6
  | .st .. | .ldv .. => 7
  | .ldlW .. | .ldlD .. | .stv .. | .bbc .. | .bbs .. => 8
  | .macroOp .. => 9
  | .ldf .. | .stf .. => 10
  | .j .. | .jl .. | .amoAdd .. | .amoMin .. | .amoMax .. | .amoMinu .. | .amoMaxu .. | .amoAnd .. | .amoOr .. | .amoXor ..
  | .amoSwap .. | .amoCas .. | .amoAmaxrst .. | .vfma .. | .vfms .. | .vdot .. | .vfmaBf2 .. | .vdot2Bf .. | .vimac ..
  | .vidot4 .. | .vnarrow .. | .vwiden .. | .vqrnd .. => 11
  | .amoFadd .. | .amoFmin .. | .amoFmax .. | .amoAmax .. | .cpy .. | .cpya .. | .gath .. | .cpyw .. | .slli .. | .srli .. => 12
  | .lea .. | .bbz .. | .bbnz .. | .drmwAdd .. | .drmwMin .. | .drmwMax .. | .drmwMinu .. | .drmwMaxu .. | .drmwFmin ..
  | .drmwFmax .. | .drmwAnd .. | .drmwOr .. | .drmwXor .. | .drmwSwap .. | .drmwCas .. | .scat .. | .tld .. | .tstr ..
  | .mxcmd .. => 13
  | .mfc .. | .mtc .. | .srai .. | .roli .. | .rori .. | .fcvt .. | .fext .. => 14
  | .amov .. | .ald .. | .mshl .. | .mshr .. | .mand .. | .mor .. | .mxor .. | .vadd .. | .vsub .. | .vmul .. | .vdiv ..
  | .vmin .. | .vmax .. | .vaddBf2 .. | .vmulBf2 .. | .viadd .. | .visub .. | .vimul .. | .vimulh .. | .viand .. | .vior ..
  | .vixor .. | .visll .. | .visrl .. | .visra .. | .vimin .. | .vimax .. | .viminu .. | .vimaxu .. | .viadds .. | .visubs ..
  | .vmovs .. | .vsel .. | .vidx .. => 15
  | .adda .. | .ptag .. | .jr .. | .evsig .. | .fork .. | .send .. | .dboard .. | .dalight .. | .vsset .. | .vmxq ..
  | .vmxs .. | .vmxc .. => 16
  | .dread .. | .dput .. | .mma .. | .mmaz .. => 18
  | .fenceS .. | .pdecl .. | .tlbinv .. | .ftoi .. | .ftou .. | .itof .. | .utof .. | .vsqrt .. | .vabs .. | .vneg ..
  | .viabs .. | .vcmpFeq .. | .vcmpFne .. | .vcmpFlt .. | .vcmpFle .. | .vcmpFun .. | .vcmpIeq .. | .vcmpIne .. | .vcmpIlt ..
  | .vcmpIle .. | .vcmpIltu .. | .vcmpIleu .. | .vrsum .. | .vrmax .. | .vrmin .. | .vramax .. | .vmaxi .. | .vmini ..
  | .vrisum .. | .vrimax .. | .vrimin .. | .vrimaxu .. | .vriminu .. | .vrand .. | .vror .. | .vrxor .. | .vexp2 ..
  | .vexpe .. | .vlog2 .. | .vrcp .. | .vrsq .. | .vmov .. => 19
  | .popc .. | .ctz .. => 20
  | .cancel .. | .pfmt .. | .pbase .. | .vsetl .. | .evcnt .. | .dqsteal .. | .xsend .. | .fenceR .. | .sbind .. | .sstat ..
  | .lmalloc .. | .lminv .. | .vsdig .. | .vswait .. | .tlbprobe .. => 21
  | .vrep .. | .recv .. | .xrecv .. | .cbinit .. | .cbpop .. | .cbstat .. | .abs .. | .clz .. | .brev .. | .bswap ..
  | .fsqrt .. | .fabs .. | .fneg .. | .fclass .. | .tcopy .. | .ttrn .. | .ttake .. => 22
  | .qfence .. | .vsplat .. | .viota .. => 23
  | .gwait .. | .gstat .. | .vbaleq .. => 24
  | .aadd .. | .tfwd .. => 25
  | .trap .. | .wfi .. | .evwait .. | .dqpush .. | .dqpop .. | .join .. | .bdom .. | .dcap .. | .drel .. | .dlap ..
  | .sunbind .. | .sdrain .. | .lmfree .. | .vsmark .. | .yoke .. | .acopy .. => 26
  | .ldlC .. | .cbpush .. | .tzero .. => 27
  | .muster .. | .pdrop .. | .azero .. => 29
  | .nopCSlot .. | .eret .. | .exit .. | .yield .. | .pulse .. | .vdrain .. | .ssync .. | .unyoke .. => 31
  | .nopASlot .. => 32
  | _ => 17

/-- The packet words of a table word: the word stands as word 0 of a packet whose other bits are zero, or as word 1 behind a C-slot
NOP. Where both slots' maps read it, the row of the table that fixes more of its bits says which (log 1). -/
noncomputable def tableWords (w : Nat) : Word32 × Word32 :=
  let w0 := BitVec.ofNat 32 w
  let w1 := BitVec.ofNat 32 (w / 2 ^ 32)
  match decodeC w0 w1, decodeA w0 with
  | some c, some a => if fixedBits c < fixedBits a then (0#32, w0) else (w0, w1)
  | some _, none => (w0, w1)
  | none, _ => (0#32, w0)

/-- The instruction read from a word numbered as the opcode table numbers it (log 1). -/
noncomputable def decodeTableWord (nbits w : Nat) : Option Instr :=
  let ws := tableWords (w % 2 ^ nbits)
  match decodePacket ws.1 ws.2 with
  | .error _ => none
  | .ok p => if ws.1 = 0#32 ∧ p.cside = .nopCSlot none ∧ ws.2 ≠ 0#32 then some p.aside else some p.cside

/-- L as the bit 31 that a C-slot word carries. -/
def litBit (l : Lit) : BitVec 1 := if l.isSome then 1#1 else 0#1

/-- Word 1 that belongs to a C-slot instruction with L = 1. -/
def litWord (l : Lit) : Word32 := l.getD 0#32

/-- The slot word of an encoded instruction; none for an event, which has no encoding. -/
def encodeWord : Instr → Option Word32
  | .nopCSlot l => some (litBit l ++ 0#6 ++ 0#25)
  | .trap l b => some (litBit l ++ 0#6 ++ 0#10 ++ b ++ 1#10)
  | .eret l => some (litBit l ++ 0#6 ++ 2#25)
  | .exit l => some (litBit l ++ 0#6 ++ 3#25)
  | .yield l => some (litBit l ++ 0#6 ++ 4#25)
  | .pulse l => some (litBit l ++ 0#6 ++ 5#25)
  | .cancel l d a => some (litBit l ++ 0#6 ++ d ++ a ++ 6#15)
  | .wfi l b => some (litBit l ++ 0#6 ++ 0#10 ++ b ++ 7#10)
  | .mfc l d n => some (litBit l ++ 1#6 ++ d ++ 0#8 ++ n)
  | .mtc l a n => some (litBit l ++ 1#6 ++ 0#5 ++ a ++ 1#3 ++ n)
  | .movi l d i => some (litBit l ++ 2#6 ++ d ++ i)
  | .ldlW l d p => some (litBit l ++ 4#6 ++ d ++ 0#2 ++ p)
  | .ldlD l d p => some (litBit l ++ 4#6 ++ d ++ 1#2 ++ p)
  | .ldlC d _ => some (1#1 ++ 4#6 ++ d ++ 524288#20)
  | .ld l d a z x o => some (litBit l ++ 5#6 ++ d ++ a ++ z ++ x ++ o)
  | .st l s a z o => some (litBit l ++ 6#6 ++ s ++ a ++ z ++ 0#1 ++ o)
  | .ldv l d a z x o => some (litBit l ++ 7#6 ++ 0#1 ++ d ++ a ++ z ++ x ++ o)
  | .stv l s a z o => some (litBit l ++ 8#6 ++ 0#1 ++ s ++ a ++ z ++ 0#1 ++ o)
  | .ldf l d a o => some (litBit l ++ 9#6 ++ 0#1 ++ d ++ a ++ 4#3 ++ o)
  | .stf l s a o => some (litBit l ++ 10#6 ++ 0#1 ++ s ++ a ++ 4#3 ++ o)
  | .adda l d a b => some (litBit l ++ 11#6 ++ d ++ a ++ b ++ 0#10)
  | .ptag l d a b => some (litBit l ++ 12#6 ++ d ++ a ++ b ++ 0#10)
  | .pfmt l d a => some (litBit l ++ 12#6 ++ d ++ a ++ 8#15)
  | .pbase l d a => some (litBit l ++ 12#6 ++ d ++ a ++ 16#15)
  | .lea l d a b h => some (litBit l ++ 12#6 ++ d ++ a ++ b ++ 3#7 ++ h)
  | .br l a b c p => some (litBit l ++ 13#6 ++ a ++ b ++ c ++ p)
  | .bbc l a b n p => some (litBit l ++ 14#6 ++ a ++ b ++ n ++ 0#2 ++ p)
  | .bbs l a b n p => some (litBit l ++ 14#6 ++ a ++ b ++ n ++ 1#2 ++ p)
  | .bbz l a n p => some (litBit l ++ 14#6 ++ a ++ 0#5 ++ n ++ 2#2 ++ p)
  | .bbnz l a n p => some (litBit l ++ 14#6 ++ a ++ 0#5 ++ n ++ 3#2 ++ p)
  | .j l p => some (litBit l ++ 15#6 ++ 0#5 ++ p)
  | .jl l p => some (litBit l ++ 15#6 ++ 1#5 ++ p)
  | .jr l d a b => some (litBit l ++ 16#6 ++ d ++ a ++ b ++ 0#10)
  | .macroOp x y z e _ => some (1#1 ++ 18#6 ++ x ++ y ++ z ++ 0#2 ++ e)
  | .claim l d a i => some (litBit l ++ 19#6 ++ d ++ a ++ i)
  | .vsetl l d a => some (litBit l ++ 20#6 ++ d ++ a ++ 0#15)
  | .vsetli l d n => some (litBit l ++ 20#6 ++ d ++ 8#11 ++ n)
  | .vrep l a n => some (litBit l ++ 20#6 ++ 0#5 ++ a ++ 512#11 ++ n)
  | .vdrain l => some (litBit l ++ 20#6 ++ 12288#25)
  | .amoAdd l d a b s o z => some (litBit l ++ 21#6 ++ d ++ a ++ b ++ s ++ o ++ z ++ 0#5)
  | .amoFadd l d a b s o => some (litBit l ++ 21#6 ++ d ++ a ++ b ++ s ++ o ++ 1#6)
  | .amoMin l d a b s o z => some (litBit l ++ 21#6 ++ d ++ a ++ b ++ s ++ o ++ z ++ 2#5)
  | .amoMax l d a b s o z => some (litBit l ++ 21#6 ++ d ++ a ++ b ++ s ++ o ++ z ++ 3#5)
  | .amoMinu l d a b s o z => some (litBit l ++ 21#6 ++ d ++ a ++ b ++ s ++ o ++ z ++ 4#5)
  | .amoMaxu l d a b s o z => some (litBit l ++ 21#6 ++ d ++ a ++ b ++ s ++ o ++ z ++ 5#5)
  | .amoFmin l d a b s o => some (litBit l ++ 21#6 ++ d ++ a ++ b ++ s ++ o ++ 6#6)
  | .amoFmax l d a b s o => some (litBit l ++ 21#6 ++ d ++ a ++ b ++ s ++ o ++ 7#6)
  | .amoAmax l d a b s o => some (litBit l ++ 21#6 ++ d ++ a ++ b ++ s ++ o ++ 8#6)
  | .amoAnd l d a b s o z => some (litBit l ++ 21#6 ++ d ++ a ++ b ++ s ++ o ++ z ++ 9#5)
  | .amoOr l d a b s o z => some (litBit l ++ 21#6 ++ d ++ a ++ b ++ s ++ o ++ z ++ 10#5)
  | .amoXor l d a b s o z => some (litBit l ++ 21#6 ++ d ++ a ++ b ++ s ++ o ++ z ++ 11#5)
  | .amoSwap l d a b s o z => some (litBit l ++ 21#6 ++ d ++ a ++ b ++ s ++ o ++ z ++ 12#5)
  | .amoCas l d a b s o z => some (litBit l ++ 21#6 ++ d ++ a ++ b ++ s ++ o ++ z ++ 13#5)
  | .amoAmaxrst l d a b s o z => some (litBit l ++ 21#6 ++ d ++ a ++ b ++ s ++ o ++ z ++ 14#5)
  | .evwait l e => some (litBit l ++ 22#6 ++ 0#20 ++ e)
  | .evsig l a b e => some (litBit l ++ 22#6 ++ 0#5 ++ a ++ b ++ 8#5 ++ e)
  | .evcnt l d e => some (litBit l ++ 22#6 ++ d ++ 16#15 ++ e)
  | .dqpush l a => some (litBit l ++ 23#6 ++ 0#5 ++ a ++ 0#15)
  | .dqpop l d => some (litBit l ++ 23#6 ++ d ++ 1#20)
  | .dqsteal l d a => some (litBit l ++ 23#6 ++ d ++ a ++ 2#15)
  | .fork l d a b => some (litBit l ++ 23#6 ++ d ++ a ++ b ++ 3#10)
  | .join l a => some (litBit l ++ 23#6 ++ 0#5 ++ a ++ 4#15)
  | .send l d a b => some (litBit l ++ 24#6 ++ d ++ a ++ b ++ 0#10)
  | .recv l d c => some (litBit l ++ 24#6 ++ d ++ 0#14 ++ c ++ 1#2)
  | .recvt l d b c => some (litBit l ++ 24#6 ++ d ++ 0#5 ++ b ++ 0#4 ++ c ++ 2#2)
  | .ssync l => some (litBit l ++ 25#6 ++ 0#25)
  | .bdom l a => some (litBit l ++ 25#6 ++ 0#5 ++ a ++ 1#15)
  | .xsend l a b => some (litBit l ++ 25#6 ++ 0#5 ++ a ++ b ++ 2#10)
  | .xrecv l d c => some (litBit l ++ 25#6 ++ d ++ 0#14 ++ c ++ 3#2)
  | .dboard l d a b => some (litBit l ++ 26#6 ++ d ++ a ++ b ++ 0#10)
  | .dalight l d a b => some (litBit l ++ 26#6 ++ d ++ a ++ b ++ 1#10)
  | .dread l d a w => some (litBit l ++ 26#6 ++ d ++ a ++ 0#9 ++ w ++ 2#3)
  | .drmwAdd l d a b w => some (litBit l ++ 26#6 ++ d ++ a ++ b ++ 0#4 ++ w ++ 3#3)
  | .drmwMin l d a b w => some (litBit l ++ 26#6 ++ d ++ a ++ b ++ 1#4 ++ w ++ 3#3)
  | .drmwMax l d a b w => some (litBit l ++ 26#6 ++ d ++ a ++ b ++ 2#4 ++ w ++ 3#3)
  | .drmwMinu l d a b w => some (litBit l ++ 26#6 ++ d ++ a ++ b ++ 3#4 ++ w ++ 3#3)
  | .drmwMaxu l d a b w => some (litBit l ++ 26#6 ++ d ++ a ++ b ++ 4#4 ++ w ++ 3#3)
  | .drmwFmin l d a b w => some (litBit l ++ 26#6 ++ d ++ a ++ b ++ 5#4 ++ w ++ 3#3)
  | .drmwFmax l d a b w => some (litBit l ++ 26#6 ++ d ++ a ++ b ++ 6#4 ++ w ++ 3#3)
  | .drmwAnd l d a b w => some (litBit l ++ 26#6 ++ d ++ a ++ b ++ 7#4 ++ w ++ 3#3)
  | .drmwOr l d a b w => some (litBit l ++ 26#6 ++ d ++ a ++ b ++ 8#4 ++ w ++ 3#3)
  | .drmwXor l d a b w => some (litBit l ++ 26#6 ++ d ++ a ++ b ++ 9#4 ++ w ++ 3#3)
  | .drmwSwap l d a b w => some (litBit l ++ 26#6 ++ d ++ a ++ b ++ 10#4 ++ w ++ 3#3)
  | .drmwCas l d a b w => some (litBit l ++ 26#6 ++ d ++ a ++ b ++ 11#4 ++ w ++ 3#3)
  | .dcap l a => some (litBit l ++ 26#6 ++ 0#5 ++ a ++ 4#15)
  | .dput l a b w => some (litBit l ++ 26#6 ++ 0#5 ++ a ++ b ++ 0#4 ++ w ++ 5#3)
  | .drel l a => some (litBit l ++ 26#6 ++ 0#5 ++ a ++ 6#15)
  | .dlap l d => some (litBit l ++ 26#6 ++ d ++ 7#20)
  | .fenceR l a b => some (litBit l ++ 27#6 ++ 0#5 ++ a ++ b ++ 0#10)
  | .fenceS l p s => some (litBit l ++ 27#6 ++ p ++ s ++ 256#13)
  | .qfence l m => some (litBit l ++ 27#6 ++ 2#17 ++ m)
  | .sbind l d a => some (litBit l ++ 28#6 ++ d ++ a ++ 0#15)
  | .sunbind l d => some (litBit l ++ 28#6 ++ d ++ 1#20)
  | .sstat l d a => some (litBit l ++ 28#6 ++ d ++ a ++ 2#15)
  | .sdrain l d => some (litBit l ++ 28#6 ++ d ++ 3#20)
  | .cbinit l a c => some (litBit l ++ 29#6 ++ 0#5 ++ a ++ 0#11 ++ c)
  | .cbpop l d c => some (litBit l ++ 29#6 ++ d ++ 16#16 ++ c)
  | .cbpush l c => some (litBit l ++ 29#6 ++ 32#21 ++ c)
  | .cbstat l d c => some (litBit l ++ 29#6 ++ d ++ 48#16 ++ c)
  | .cpy l q a b c h => some (litBit l ++ 30#6 ++ q ++ a ++ b ++ c ++ 0#3 ++ h ++ 0#3)
  | .cpya l q a b c h => some (litBit l ++ 30#6 ++ q ++ a ++ b ++ c ++ 0#3 ++ h ++ 1#3)
  | .gath l q a b c h => some (litBit l ++ 30#6 ++ q ++ a ++ b ++ c ++ 0#3 ++ h ++ 2#3)
  | .scat l q a b c => some (litBit l ++ 30#6 ++ q ++ a ++ b ++ c ++ 3#7)
  | .cpyw l q a b c h => some (litBit l ++ 30#6 ++ q ++ a ++ b ++ c ++ 0#3 ++ h ++ 4#3)
  | .cpyz l q a b h => some (litBit l ++ 30#6 ++ q ++ a ++ b ++ 0#8 ++ h ++ 5#3)
  | .pdecl l a b w => some (litBit l ++ 31#6 ++ 0#5 ++ a ++ b ++ 0#5 ++ w ++ 0#3)
  | .muster l w => some (litBit l ++ 31#6 ++ 0#20 ++ w ++ 1#3)
  | .gwait l b w => some (litBit l ++ 31#6 ++ 0#10 ++ b ++ 0#5 ++ w ++ 2#3)
  | .gstat l d w => some (litBit l ++ 31#6 ++ d ++ 0#15 ++ w ++ 3#3)
  | .pdrop l w => some (litBit l ++ 31#6 ++ 0#20 ++ w ++ 4#3)
  | .tld l q a b c => some (litBit l ++ 32#6 ++ q ++ a ++ b ++ c ++ 0#7)
  | .tstr l q a b c => some (litBit l ++ 32#6 ++ q ++ a ++ b ++ c ++ 1#7)
  | .amov l q a b c => some (litBit l ++ 32#6 ++ q ++ a ++ b ++ 0#2 ++ c ++ 2#7)
  | .ald l q a b c => some (litBit l ++ 32#6 ++ q ++ a ++ b ++ 0#2 ++ c ++ 3#7)
  | .mxcmd l q a b c => some (litBit l ++ 32#6 ++ q ++ a ++ b ++ c ++ 4#7)
  | .lmalloc l d b => some (litBit l ++ 33#6 ++ d ++ 0#5 ++ b ++ 0#10)
  | .lmfree l a => some (litBit l ++ 33#6 ++ 0#5 ++ a ++ 1#15)
  | .lminv l a b => some (litBit l ++ 33#6 ++ 0#5 ++ a ++ b ++ 2#10)
  | .vsset l d a b => some (litBit l ++ 34#6 ++ d ++ a ++ b ++ 0#10)
  | .vsmark l a => some (litBit l ++ 34#6 ++ 0#5 ++ a ++ 1#15)
  | .vsdig l d a => some (litBit l ++ 34#6 ++ d ++ a ++ 2#15)
  | .vswait l d a => some (litBit l ++ 34#6 ++ d ++ a ++ 3#15)
  | .yoke l d => some (litBit l ++ 35#6 ++ d ++ 0#20)
  | .unyoke l => some (litBit l ++ 35#6 ++ 1#25)
  | .tlbinv l a b s => some (litBit l ++ 36#6 ++ 0#5 ++ a ++ b ++ s ++ 0#8)
  | .tlbprobe l d a => some (litBit l ++ 36#6 ++ d ++ a ++ 1#15)
  | .nopASlot => some (0#6 ++ 0#26)
  | .add d a b => some (1#6 ++ d ++ a ++ b ++ 0#11)
  | .sub d a b => some (1#6 ++ d ++ a ++ b ++ 1#11)
  | .and d a b => some (1#6 ++ d ++ a ++ b ++ 2#11)
  | .or d a b => some (1#6 ++ d ++ a ++ b ++ 3#11)
  | .xor d a b => some (1#6 ++ d ++ a ++ b ++ 4#11)
  | .andn d a b => some (1#6 ++ d ++ a ++ b ++ 5#11)
  | .min d a b => some (1#6 ++ d ++ a ++ b ++ 8#11)
  | .max d a b => some (1#6 ++ d ++ a ++ b ++ 9#11)
  | .minu d a b => some (1#6 ++ d ++ a ++ b ++ 10#11)
  | .maxu d a b => some (1#6 ++ d ++ a ++ b ++ 11#11)
  | .addw d a b => some (1#6 ++ d ++ a ++ b ++ 12#11)
  | .subw d a b => some (1#6 ++ d ++ a ++ b ++ 13#11)
  | .adds d a b => some (1#6 ++ d ++ a ++ b ++ 14#11)
  | .subs d a b => some (1#6 ++ d ++ a ++ b ++ 15#11)
  | .abs d a => some (1#6 ++ d ++ a ++ 16#16)
  | .mul d a b => some (2#6 ++ d ++ a ++ b ++ 0#11)
  | .mulh d a b => some (2#6 ++ d ++ a ++ b ++ 1#11)
  | .mulhu d a b => some (2#6 ++ d ++ a ++ b ++ 2#11)
  | .mulhsu d a b => some (2#6 ++ d ++ a ++ b ++ 3#11)
  | .div d a b => some (2#6 ++ d ++ a ++ b ++ 8#11)
  | .divu d a b => some (2#6 ++ d ++ a ++ b ++ 9#11)
  | .rem d a b => some (2#6 ++ d ++ a ++ b ++ 10#11)
  | .remu d a b => some (2#6 ++ d ++ a ++ b ++ 11#11)
  | .seq d a b => some (3#6 ++ d ++ a ++ b ++ 0#11)
  | .sne d a b => some (3#6 ++ d ++ a ++ b ++ 1#11)
  | .slt d a b => some (3#6 ++ d ++ a ++ b ++ 2#11)
  | .sge d a b => some (3#6 ++ d ++ a ++ b ++ 3#11)
  | .sltu d a b => some (3#6 ++ d ++ a ++ b ++ 4#11)
  | .sgeu d a b => some (3#6 ++ d ++ a ++ b ++ 5#11)
  | .sll d a b => some (4#6 ++ d ++ a ++ b ++ 0#11)
  | .srl d a b => some (4#6 ++ d ++ a ++ b ++ 1#11)
  | .sra d a b => some (4#6 ++ d ++ a ++ b ++ 2#11)
  | .rol d a b => some (4#6 ++ d ++ a ++ b ++ 3#11)
  | .ror d a b => some (4#6 ++ d ++ a ++ b ++ 4#11)
  | .popc d a n => some (4#6 ++ d ++ a ++ 0#5 ++ n ++ 8#9)
  | .clz d a => some (4#6 ++ d ++ a ++ 9#16)
  | .ctz d a n => some (4#6 ++ d ++ a ++ 0#5 ++ n ++ 10#9)
  | .brev d a => some (4#6 ++ d ++ a ++ 11#16)
  | .bswap d a => some (4#6 ++ d ++ a ++ 12#16)
  | .extu d a b => some (4#6 ++ d ++ a ++ b ++ 16#11)
  | .exts d a b => some (4#6 ++ d ++ a ++ b ++ 17#11)
  | .mshl d a b n => some (4#6 ++ d ++ a ++ b ++ n ++ 24#9)
  | .mshr d a b n => some (4#6 ++ d ++ a ++ b ++ n ++ 25#9)
  | .mand d a b n => some (4#6 ++ d ++ a ++ b ++ n ++ 26#9)
  | .mor d a b n => some (4#6 ++ d ++ a ++ b ++ n ++ 27#9)
  | .mxor d a b n => some (4#6 ++ d ++ a ++ b ++ n ++ 28#9)
  | .addi d a i => some (5#6 ++ d ++ a ++ i)
  | .andi d a i => some (6#6 ++ d ++ a ++ i)
  | .ori d a i => some (7#6 ++ d ++ a ++ i)
  | .xori d a i => some (8#6 ++ d ++ a ++ i)
  | .slli d a n s => some (9#6 ++ d ++ a ++ 0#4 ++ n ++ 0#2 ++ s)
  | .srli d a n s => some (9#6 ++ d ++ a ++ 1#4 ++ n ++ 0#2 ++ s)
  | .srai d a s => some (9#6 ++ d ++ a ++ 32#8 ++ s)
  | .roli d a s => some (9#6 ++ d ++ a ++ 48#8 ++ s)
  | .rori d a s => some (9#6 ++ d ++ a ++ 64#8 ++ s)
  | .cmpi d a r i => some (10#6 ++ d ++ a ++ r ++ i)
  | .fadd d a b => some (11#6 ++ d ++ a ++ b ++ 0#11)
  | .fsub d a b => some (11#6 ++ d ++ a ++ b ++ 1#11)
  | .fmul d a b => some (11#6 ++ d ++ a ++ b ++ 2#11)
  | .fdiv d a b => some (11#6 ++ d ++ a ++ b ++ 3#11)
  | .fsqrt d a => some (11#6 ++ d ++ a ++ 4#16)
  | .fmac d a b => some (11#6 ++ d ++ a ++ b ++ 5#11)
  | .fmin d a b => some (11#6 ++ d ++ a ++ b ++ 6#11)
  | .fmax d a b => some (11#6 ++ d ++ a ++ b ++ 7#11)
  | .fabs d a => some (11#6 ++ d ++ a ++ 8#16)
  | .fneg d a => some (11#6 ++ d ++ a ++ 9#16)
  | .feq d a b => some (11#6 ++ d ++ a ++ b ++ 12#11)
  | .flt d a b => some (11#6 ++ d ++ a ++ b ++ 13#11)
  | .fle d a b => some (11#6 ++ d ++ a ++ b ++ 14#11)
  | .fclass d a => some (11#6 ++ d ++ a ++ 15#16)
  | .fcvt d a c r => some (12#6 ++ d ++ a ++ 0#8 ++ c ++ r)
  | .fext d a c r => some (12#6 ++ d ++ a ++ 1#8 ++ c ++ r)
  | .ftoi d a r => some (12#6 ++ d ++ a ++ 64#13 ++ r)
  | .ftou d a r => some (12#6 ++ d ++ a ++ 96#13 ++ r)
  | .itof d a r => some (12#6 ++ d ++ a ++ 128#13 ++ r)
  | .utof d a r => some (12#6 ++ d ++ a ++ 160#13 ++ r)
  | .vadd d a b k => some (16#6 ++ d ++ a ++ b ++ 0#4 ++ k ++ 0#5)
  | .vsub d a b k => some (16#6 ++ d ++ a ++ b ++ 0#4 ++ k ++ 1#5)
  | .vmul d a b k => some (16#6 ++ d ++ a ++ b ++ 0#4 ++ k ++ 2#5)
  | .vdiv d a b k => some (16#6 ++ d ++ a ++ b ++ 0#4 ++ k ++ 3#5)
  | .vsqrt d a k => some (16#6 ++ d ++ a ++ 0#8 ++ k ++ 4#5)
  | .vfma d a b c k => some (16#6 ++ d ++ a ++ b ++ c ++ k ++ 5#5)
  | .vfms d a b c k => some (16#6 ++ d ++ a ++ b ++ c ++ k ++ 6#5)
  | .vmin d a b k => some (16#6 ++ d ++ a ++ b ++ 0#4 ++ k ++ 7#5)
  | .vmax d a b k => some (16#6 ++ d ++ a ++ b ++ 0#4 ++ k ++ 8#5)
  | .vabs d a k => some (16#6 ++ d ++ a ++ 0#8 ++ k ++ 9#5)
  | .vneg d a k => some (16#6 ++ d ++ a ++ 0#8 ++ k ++ 10#5)
  | .vdot d a b c k => some (16#6 ++ d ++ a ++ b ++ c ++ k ++ 11#5)
  | .vaddBf2 d a b k => some (16#6 ++ d ++ a ++ b ++ 0#4 ++ k ++ 16#5)
  | .vmulBf2 d a b k => some (16#6 ++ d ++ a ++ b ++ 0#4 ++ k ++ 17#5)
  | .vfmaBf2 d a b c k => some (16#6 ++ d ++ a ++ b ++ c ++ k ++ 18#5)
  | .vdot2Bf d a b c k => some (16#6 ++ d ++ a ++ b ++ c ++ k ++ 19#5)
  | .viadd d a b k => some (17#6 ++ d ++ a ++ b ++ 0#4 ++ k ++ 0#5)
  | .visub d a b k => some (17#6 ++ d ++ a ++ b ++ 0#4 ++ k ++ 1#5)
  | .vimul d a b k => some (17#6 ++ d ++ a ++ b ++ 0#4 ++ k ++ 2#5)
  | .vimulh d a b k => some (17#6 ++ d ++ a ++ b ++ 0#4 ++ k ++ 3#5)
  | .viand d a b k => some (17#6 ++ d ++ a ++ b ++ 0#4 ++ k ++ 4#5)
  | .vior d a b k => some (17#6 ++ d ++ a ++ b ++ 0#4 ++ k ++ 5#5)
  | .vixor d a b k => some (17#6 ++ d ++ a ++ b ++ 0#4 ++ k ++ 6#5)
  | .visll d a b k => some (17#6 ++ d ++ a ++ b ++ 0#4 ++ k ++ 7#5)
  | .visrl d a b k => some (17#6 ++ d ++ a ++ b ++ 0#4 ++ k ++ 8#5)
  | .visra d a b k => some (17#6 ++ d ++ a ++ b ++ 0#4 ++ k ++ 9#5)
  | .vimin d a b k => some (17#6 ++ d ++ a ++ b ++ 0#4 ++ k ++ 10#5)
  | .vimax d a b k => some (17#6 ++ d ++ a ++ b ++ 0#4 ++ k ++ 11#5)
  | .viminu d a b k => some (17#6 ++ d ++ a ++ b ++ 0#4 ++ k ++ 12#5)
  | .vimaxu d a b k => some (17#6 ++ d ++ a ++ b ++ 0#4 ++ k ++ 13#5)
  | .viadds d a b k => some (17#6 ++ d ++ a ++ b ++ 0#4 ++ k ++ 14#5)
  | .visubs d a b k => some (17#6 ++ d ++ a ++ b ++ 0#4 ++ k ++ 15#5)
  | .vimac d a b c k => some (17#6 ++ d ++ a ++ b ++ c ++ k ++ 16#5)
  | .vidot4 d a b c k => some (17#6 ++ d ++ a ++ b ++ c ++ k ++ 17#5)
  | .viabs d a k => some (17#6 ++ d ++ a ++ 0#8 ++ k ++ 18#5)
  | .vcmpFeq a b d => some (18#6 ++ 0#4 ++ a ++ b ++ 0#4 ++ d ++ 0#5)
  | .vcmpFne a b d => some (18#6 ++ 0#4 ++ a ++ b ++ 0#4 ++ d ++ 1#5)
  | .vcmpFlt a b d => some (18#6 ++ 0#4 ++ a ++ b ++ 0#4 ++ d ++ 2#5)
  | .vcmpFle a b d => some (18#6 ++ 0#4 ++ a ++ b ++ 0#4 ++ d ++ 3#5)
  | .vcmpFun a b d => some (18#6 ++ 0#4 ++ a ++ b ++ 0#4 ++ d ++ 4#5)
  | .vcmpIeq a b d => some (18#6 ++ 0#4 ++ a ++ b ++ 0#4 ++ d ++ 8#5)
  | .vcmpIne a b d => some (18#6 ++ 0#4 ++ a ++ b ++ 0#4 ++ d ++ 9#5)
  | .vcmpIlt a b d => some (18#6 ++ 0#4 ++ a ++ b ++ 0#4 ++ d ++ 10#5)
  | .vcmpIle a b d => some (18#6 ++ 0#4 ++ a ++ b ++ 0#4 ++ d ++ 11#5)
  | .vcmpIltu a b d => some (18#6 ++ 0#4 ++ a ++ b ++ 0#4 ++ d ++ 12#5)
  | .vcmpIleu a b d => some (18#6 ++ 0#4 ++ a ++ b ++ 0#4 ++ d ++ 13#5)
  | .vrsum d a k => some (19#6 ++ d ++ a ++ 0#8 ++ k ++ 0#5)
  | .vrmax d a k => some (19#6 ++ d ++ a ++ 0#8 ++ k ++ 1#5)
  | .vrmin d a k => some (19#6 ++ d ++ a ++ 0#8 ++ k ++ 2#5)
  | .vramax d a k => some (19#6 ++ d ++ a ++ 0#8 ++ k ++ 3#5)
  | .vmaxi d a k => some (19#6 ++ d ++ a ++ 0#8 ++ k ++ 4#5)
  | .vmini d a k => some (19#6 ++ d ++ a ++ 0#8 ++ k ++ 5#5)
  | .vrisum d a k => some (19#6 ++ d ++ a ++ 0#8 ++ k ++ 8#5)
  | .vrimax d a k => some (19#6 ++ d ++ a ++ 0#8 ++ k ++ 9#5)
  | .vrimin d a k => some (19#6 ++ d ++ a ++ 0#8 ++ k ++ 10#5)
  | .vrimaxu d a k => some (19#6 ++ d ++ a ++ 0#8 ++ k ++ 11#5)
  | .vriminu d a k => some (19#6 ++ d ++ a ++ 0#8 ++ k ++ 12#5)
  | .vrand d a k => some (19#6 ++ d ++ a ++ 0#8 ++ k ++ 13#5)
  | .vror d a k => some (19#6 ++ d ++ a ++ 0#8 ++ k ++ 14#5)
  | .vrxor d a k => some (19#6 ++ d ++ a ++ 0#8 ++ k ++ 15#5)
  | .vexp2 d a k => some (20#6 ++ d ++ a ++ 0#8 ++ k ++ 0#5)
  | .vexpe d a k => some (20#6 ++ d ++ a ++ 0#8 ++ k ++ 1#5)
  | .vlog2 d a k => some (20#6 ++ d ++ a ++ 0#8 ++ k ++ 2#5)
  | .vrcp d a k => some (20#6 ++ d ++ a ++ 0#8 ++ k ++ 3#5)
  | .vrsq d a k => some (20#6 ++ d ++ a ++ 0#8 ++ k ++ 4#5)
  | .vmov d a k => some (21#6 ++ d ++ a ++ 0#8 ++ k ++ 0#5)
  | .vsplat d s => some (21#6 ++ d ++ 0#12 ++ s ++ 1#5)
  | .vmovs a i d => some (21#6 ++ 0#4 ++ a ++ i ++ d ++ 2#5)
  | .vsel d a b k => some (21#6 ++ d ++ a ++ b ++ 0#4 ++ k ++ 3#5)
  | .viota d k => some (21#6 ++ d ++ 0#12 ++ k ++ 4#5)
  | .vidx d a b k => some (21#6 ++ d ++ a ++ b ++ 0#4 ++ k ++ 5#5)
  | .vnarrow d a c h r k => some (22#6 ++ d ++ a ++ c ++ h ++ r ++ k ++ 0#5)
  | .vwiden d a c h r k => some (22#6 ++ d ++ a ++ c ++ h ++ r ++ k ++ 1#5)
  | .vqrnd d a c h r k => some (22#6 ++ d ++ a ++ c ++ h ++ r ++ k ++ 2#5)
  | .vmxq d a c h l => some (22#6 ++ d ++ a ++ c ++ h ++ l ++ 3#10)
  | .vmxs d a c h l => some (22#6 ++ d ++ a ++ c ++ h ++ l ++ 4#10)
  | .vmxc d a c h l => some (22#6 ++ d ++ a ++ c ++ h ++ l ++ 5#10)
  | .vbaleq d a => some (22#6 ++ d ++ a ++ 40966#18)
  | .mma d a b s => some (24#6 ++ d ++ a ++ b ++ 0#4 ++ s ++ 0#8)
  | .mmaz d a b s => some (24#6 ++ d ++ a ++ b ++ 0#4 ++ s ++ 1#8)
  | .azero d => some (25#6 ++ d ++ 0#23)
  | .acopy d s => some (25#6 ++ d ++ 0#2 ++ s ++ 1#18)
  | .aadd d s i => some (25#6 ++ d ++ 0#2 ++ s ++ 0#9 ++ i ++ 2#8)
  | .tzero a => some (26#6 ++ 0#3 ++ a ++ 0#18)
  | .tcopy a b => some (26#6 ++ 0#3 ++ a ++ b ++ 1#13)
  | .ttrn a b => some (26#6 ++ 0#3 ++ a ++ b ++ 2#13)
  | .tfwd a r => some (26#6 ++ 0#3 ++ a ++ 0#8 ++ r ++ 3#8)
  | .ttake a b => some (26#6 ++ 0#3 ++ a ++ b ++ 4#13)
  | .powerGood _ => none
  | .imageSourceWrite _ _ _ => none
  | .imglenWrite _ => none
  | .attestationRequest _ => none
  | .partitionLayoutChange _ => none
  | .faccWrite _ _ => none
  | .negotiationDone _ _ => none
  | .queueEnable _ _ => none
  | .queueDisable _ _ => none
  | .queueReset _ _ => none
  | .qkick _ _ => none
  | .recordRead _ _ => none
  | .retryWaitEnd _ _ => none
  | .blockedReread _ _ => none
  | .hcancel _ _ => none
  | .hjobrm _ _ => none
  | .jobRemovalComplete _ => none
  | .hpreempt _ _ => none
  | .corePreempt _ => none
  | .preemptForceTimeout _ => none
  | .launchResume _ _ => none
  | .ptrootApply _ _ => none
  | .svcTick _ => none
  | .unitPlace _ => none
  | .gangPlace _ _ => none
  | .noteWrite _ _ => none
  | .watchdogFire _ => none
  | .icacheFill _ _ => none
  | .loadReturn _ _ => none
  | .storeDrain _ => none
  | .translationResolve _ => none
  | .fqRetry _ _ => none
  | .fqDeliver _ _ => none
  | .vectorEntryComplete _ => none
  | .matrixEntryPerform _ _ => none
  | .tileArrival _ _ => none
  | .streamedBFaultResolved _ _ => none
  | .mxcmdRemoteAccept _ => none
  | .mxcmdAnswer _ => none
  | .copyEntryPerform _ _ => none
  | .copyFaultResolved _ _ => none
  | .streamFill _ _ => none
  | .streamDrainEntry _ _ => none
  | .messageArrival _ => none
  | .pieceAccept _ _ => none
  | .exchangeTransferWrite _ _ => none
  | .barrierRelease _ _ => none
  | .superstepRelease _ _ _ => none
  | .exchangePhaseEnd _ => none
  | .droveRequestApply _ => none
  | .droveRequestFail _ => none
  | .captureTimeout _ => none
  | .droveSlotError _ => none
  | .recvtTimeout _ => none
  | .wfiTimeout _ => none
  | .rollback _ _ => none
  | .intervalEnd _ => none
  | .thirdRunComplete _ _ => none
  | .contansContinue _ => none
  | .contansCancel _ => none
  | .phaseStop _ _ => none
  | .phaseStopWrite _ => none
  | .phaseRestore _ _ => none
  | .linkCrcError _ => none
  | .linkRetrain _ _ => none
  | .downLinkTimeout _ => none
  | .escapeMove _ _ => none
  | .routerBeat _ _ _ => none
  | .portBeatArrival _ _ _ => none
  | .hostMemoryWrite _ _ _ => none
  | .systemScopeRequest _ _ _ _ _ _ => none
  | .hostCompletionTimeout _ => none
  | .thermalSample _ _ => none
  | .wearMinutesFlush => none
  | .scrub _ _ => none
  | .registerWrite _ _ _ => none
  | .powerLoss => none
  | .functionReset _ => none
  | .linkReturn _ => none

/-- The literal of a C-slot instruction: none when L = 0 (or for an A-slot instruction or event). -/
def literalOf : Instr → Lit
  | .nopCSlot l => l
  | .trap l _ => l
  | .eret l => l
  | .exit l => l
  | .yield l => l
  | .pulse l => l
  | .cancel l _ _ => l
  | .wfi l _ => l
  | .mfc l _ _ => l
  | .mtc l _ _ => l
  | .movi l _ _ => l
  | .ldlW l _ _ => l
  | .ldlD l _ _ => l
  | .ldlC _ lit => some lit
  | .ld l _ _ _ _ _ => l
  | .st l _ _ _ _ => l
  | .ldv l _ _ _ _ _ => l
  | .stv l _ _ _ _ => l
  | .ldf l _ _ _ => l
  | .stf l _ _ _ => l
  | .adda l _ _ _ => l
  | .ptag l _ _ _ => l
  | .pfmt l _ _ => l
  | .pbase l _ _ => l
  | .lea l _ _ _ _ => l
  | .br l _ _ _ _ => l
  | .bbc l _ _ _ _ => l
  | .bbs l _ _ _ _ => l
  | .bbz l _ _ _ => l
  | .bbnz l _ _ _ => l
  | .j l _ => l
  | .jl l _ => l
  | .jr l _ _ _ => l
  | .macroOp _ _ _ _ lit => some lit
  | .claim l _ _ _ => l
  | .vsetl l _ _ => l
  | .vsetli l _ _ => l
  | .vrep l _ _ => l
  | .vdrain l => l
  | .amoAdd l _ _ _ _ _ _ => l
  | .amoFadd l _ _ _ _ _ => l
  | .amoMin l _ _ _ _ _ _ => l
  | .amoMax l _ _ _ _ _ _ => l
  | .amoMinu l _ _ _ _ _ _ => l
  | .amoMaxu l _ _ _ _ _ _ => l
  | .amoFmin l _ _ _ _ _ => l
  | .amoFmax l _ _ _ _ _ => l
  | .amoAmax l _ _ _ _ _ => l
  | .amoAnd l _ _ _ _ _ _ => l
  | .amoOr l _ _ _ _ _ _ => l
  | .amoXor l _ _ _ _ _ _ => l
  | .amoSwap l _ _ _ _ _ _ => l
  | .amoCas l _ _ _ _ _ _ => l
  | .amoAmaxrst l _ _ _ _ _ _ => l
  | .evwait l _ => l
  | .evsig l _ _ _ => l
  | .evcnt l _ _ => l
  | .dqpush l _ => l
  | .dqpop l _ => l
  | .dqsteal l _ _ => l
  | .fork l _ _ _ => l
  | .join l _ => l
  | .send l _ _ _ => l
  | .recv l _ _ => l
  | .recvt l _ _ _ => l
  | .ssync l => l
  | .bdom l _ => l
  | .xsend l _ _ => l
  | .xrecv l _ _ => l
  | .dboard l _ _ _ => l
  | .dalight l _ _ _ => l
  | .dread l _ _ _ => l
  | .drmwAdd l _ _ _ _ => l
  | .drmwMin l _ _ _ _ => l
  | .drmwMax l _ _ _ _ => l
  | .drmwMinu l _ _ _ _ => l
  | .drmwMaxu l _ _ _ _ => l
  | .drmwFmin l _ _ _ _ => l
  | .drmwFmax l _ _ _ _ => l
  | .drmwAnd l _ _ _ _ => l
  | .drmwOr l _ _ _ _ => l
  | .drmwXor l _ _ _ _ => l
  | .drmwSwap l _ _ _ _ => l
  | .drmwCas l _ _ _ _ => l
  | .dcap l _ => l
  | .dput l _ _ _ => l
  | .drel l _ => l
  | .dlap l _ => l
  | .fenceR l _ _ => l
  | .fenceS l _ _ => l
  | .qfence l _ => l
  | .sbind l _ _ => l
  | .sunbind l _ => l
  | .sstat l _ _ => l
  | .sdrain l _ => l
  | .cbinit l _ _ => l
  | .cbpop l _ _ => l
  | .cbpush l _ => l
  | .cbstat l _ _ => l
  | .cpy l _ _ _ _ _ => l
  | .cpya l _ _ _ _ _ => l
  | .gath l _ _ _ _ _ => l
  | .scat l _ _ _ _ => l
  | .cpyw l _ _ _ _ _ => l
  | .cpyz l _ _ _ _ => l
  | .pdecl l _ _ _ => l
  | .muster l _ => l
  | .gwait l _ _ => l
  | .gstat l _ _ => l
  | .pdrop l _ => l
  | .tld l _ _ _ _ => l
  | .tstr l _ _ _ _ => l
  | .amov l _ _ _ _ => l
  | .ald l _ _ _ _ => l
  | .mxcmd l _ _ _ _ => l
  | .lmalloc l _ _ => l
  | .lmfree l _ => l
  | .lminv l _ _ => l
  | .vsset l _ _ _ => l
  | .vsmark l _ => l
  | .vsdig l _ _ => l
  | .vswait l _ _ => l
  | .yoke l _ => l
  | .unyoke l => l
  | .tlbinv l _ _ _ => l
  | .tlbprobe l _ _ => l
  | _ => none

/-- The two words of a packet, from its slot instructions; none where a slot holds an event. -/
def encode (p : Packet) : Option (Word32 × Word32) :=
  match encodeWord p.cside, literalOf p.cside with
  | none, _ => none
  | some w0, some lit => some (w0, lit)
  | some w0, none =>
    match encodeWord p.aside with
    | none => none
    | some w1 => some (w0, w1)

/-- The slot in which an instruction stands: the C-slot majors, the A-slot majors, or an event of the table. -/
inductive SlotKind where
  | c | a | event
  deriving DecidableEq, Repr

/-- Which slot an instruction belongs to (R105, R106). -/
def slotKind (i : Instr) : SlotKind :=
  match i with
  | .nopASlot => .a
  | .add _ _ _ => .a
  | .sub _ _ _ => .a
  | .and _ _ _ => .a
  | .or _ _ _ => .a
  | .xor _ _ _ => .a
  | .andn _ _ _ => .a
  | .min _ _ _ => .a
  | .max _ _ _ => .a
  | .minu _ _ _ => .a
  | .maxu _ _ _ => .a
  | .addw _ _ _ => .a
  | .subw _ _ _ => .a
  | .adds _ _ _ => .a
  | .subs _ _ _ => .a
  | .abs _ _ => .a
  | .mul _ _ _ => .a
  | .mulh _ _ _ => .a
  | .mulhu _ _ _ => .a
  | .mulhsu _ _ _ => .a
  | .div _ _ _ => .a
  | .divu _ _ _ => .a
  | .rem _ _ _ => .a
  | .remu _ _ _ => .a
  | .seq _ _ _ => .a
  | .sne _ _ _ => .a
  | .slt _ _ _ => .a
  | .sge _ _ _ => .a
  | .sltu _ _ _ => .a
  | .sgeu _ _ _ => .a
  | .sll _ _ _ => .a
  | .srl _ _ _ => .a
  | .sra _ _ _ => .a
  | .rol _ _ _ => .a
  | .ror _ _ _ => .a
  | .popc _ _ _ => .a
  | .clz _ _ => .a
  | .ctz _ _ _ => .a
  | .brev _ _ => .a
  | .bswap _ _ => .a
  | .extu _ _ _ => .a
  | .exts _ _ _ => .a
  | .mshl _ _ _ _ => .a
  | .mshr _ _ _ _ => .a
  | .mand _ _ _ _ => .a
  | .mor _ _ _ _ => .a
  | .mxor _ _ _ _ => .a
  | .addi _ _ _ => .a
  | .andi _ _ _ => .a
  | .ori _ _ _ => .a
  | .xori _ _ _ => .a
  | .slli _ _ _ _ => .a
  | .srli _ _ _ _ => .a
  | .srai _ _ _ => .a
  | .roli _ _ _ => .a
  | .rori _ _ _ => .a
  | .cmpi _ _ _ _ => .a
  | .fadd _ _ _ => .a
  | .fsub _ _ _ => .a
  | .fmul _ _ _ => .a
  | .fdiv _ _ _ => .a
  | .fsqrt _ _ => .a
  | .fmac _ _ _ => .a
  | .fmin _ _ _ => .a
  | .fmax _ _ _ => .a
  | .fabs _ _ => .a
  | .fneg _ _ => .a
  | .feq _ _ _ => .a
  | .flt _ _ _ => .a
  | .fle _ _ _ => .a
  | .fclass _ _ => .a
  | .fcvt _ _ _ _ => .a
  | .fext _ _ _ _ => .a
  | .ftoi _ _ _ => .a
  | .ftou _ _ _ => .a
  | .itof _ _ _ => .a
  | .utof _ _ _ => .a
  | .vadd _ _ _ _ => .a
  | .vsub _ _ _ _ => .a
  | .vmul _ _ _ _ => .a
  | .vdiv _ _ _ _ => .a
  | .vsqrt _ _ _ => .a
  | .vfma _ _ _ _ _ => .a
  | .vfms _ _ _ _ _ => .a
  | .vmin _ _ _ _ => .a
  | .vmax _ _ _ _ => .a
  | .vabs _ _ _ => .a
  | .vneg _ _ _ => .a
  | .vdot _ _ _ _ _ => .a
  | .vaddBf2 _ _ _ _ => .a
  | .vmulBf2 _ _ _ _ => .a
  | .vfmaBf2 _ _ _ _ _ => .a
  | .vdot2Bf _ _ _ _ _ => .a
  | .viadd _ _ _ _ => .a
  | .visub _ _ _ _ => .a
  | .vimul _ _ _ _ => .a
  | .vimulh _ _ _ _ => .a
  | .viand _ _ _ _ => .a
  | .vior _ _ _ _ => .a
  | .vixor _ _ _ _ => .a
  | .visll _ _ _ _ => .a
  | .visrl _ _ _ _ => .a
  | .visra _ _ _ _ => .a
  | .vimin _ _ _ _ => .a
  | .vimax _ _ _ _ => .a
  | .viminu _ _ _ _ => .a
  | .vimaxu _ _ _ _ => .a
  | .viadds _ _ _ _ => .a
  | .visubs _ _ _ _ => .a
  | .vimac _ _ _ _ _ => .a
  | .vidot4 _ _ _ _ _ => .a
  | .viabs _ _ _ => .a
  | .vcmpFeq _ _ _ => .a
  | .vcmpFne _ _ _ => .a
  | .vcmpFlt _ _ _ => .a
  | .vcmpFle _ _ _ => .a
  | .vcmpFun _ _ _ => .a
  | .vcmpIeq _ _ _ => .a
  | .vcmpIne _ _ _ => .a
  | .vcmpIlt _ _ _ => .a
  | .vcmpIle _ _ _ => .a
  | .vcmpIltu _ _ _ => .a
  | .vcmpIleu _ _ _ => .a
  | .vrsum _ _ _ => .a
  | .vrmax _ _ _ => .a
  | .vrmin _ _ _ => .a
  | .vramax _ _ _ => .a
  | .vmaxi _ _ _ => .a
  | .vmini _ _ _ => .a
  | .vrisum _ _ _ => .a
  | .vrimax _ _ _ => .a
  | .vrimin _ _ _ => .a
  | .vrimaxu _ _ _ => .a
  | .vriminu _ _ _ => .a
  | .vrand _ _ _ => .a
  | .vror _ _ _ => .a
  | .vrxor _ _ _ => .a
  | .vexp2 _ _ _ => .a
  | .vexpe _ _ _ => .a
  | .vlog2 _ _ _ => .a
  | .vrcp _ _ _ => .a
  | .vrsq _ _ _ => .a
  | .vmov _ _ _ => .a
  | .vsplat _ _ => .a
  | .vmovs _ _ _ => .a
  | .vsel _ _ _ _ => .a
  | .viota _ _ => .a
  | .vidx _ _ _ _ => .a
  | .vnarrow _ _ _ _ _ _ => .a
  | .vwiden _ _ _ _ _ _ => .a
  | .vqrnd _ _ _ _ _ _ => .a
  | .vmxq _ _ _ _ _ => .a
  | .vmxs _ _ _ _ _ => .a
  | .vmxc _ _ _ _ _ => .a
  | .vbaleq _ _ => .a
  | .mma _ _ _ _ => .a
  | .mmaz _ _ _ _ => .a
  | .azero _ => .a
  | .acopy _ _ => .a
  | .aadd _ _ _ => .a
  | .tzero _ => .a
  | .tcopy _ _ => .a
  | .ttrn _ _ => .a
  | .tfwd _ _ => .a
  | .ttake _ _ => .a
  | .nopCSlot _ => .c
  | .trap _ _ => .c
  | .eret _ => .c
  | .exit _ => .c
  | .yield _ => .c
  | .pulse _ => .c
  | .cancel _ _ _ => .c
  | .wfi _ _ => .c
  | .mfc _ _ _ => .c
  | .mtc _ _ _ => .c
  | .movi _ _ _ => .c
  | .ldlW _ _ _ => .c
  | .ldlD _ _ _ => .c
  | .ldlC _ _ => .c
  | .ld _ _ _ _ _ _ => .c
  | .st _ _ _ _ _ => .c
  | .ldv _ _ _ _ _ _ => .c
  | .stv _ _ _ _ _ => .c
  | .ldf _ _ _ _ => .c
  | .stf _ _ _ _ => .c
  | .adda _ _ _ _ => .c
  | .ptag _ _ _ _ => .c
  | .pfmt _ _ _ => .c
  | .pbase _ _ _ => .c
  | .lea _ _ _ _ _ => .c
  | .br _ _ _ _ _ => .c
  | .bbc _ _ _ _ _ => .c
  | .bbs _ _ _ _ _ => .c
  | .bbz _ _ _ _ => .c
  | .bbnz _ _ _ _ => .c
  | .j _ _ => .c
  | .jl _ _ => .c
  | .jr _ _ _ _ => .c
  | .macroOp _ _ _ _ _ => .c
  | .claim _ _ _ _ => .c
  | .vsetl _ _ _ => .c
  | .vsetli _ _ _ => .c
  | .vrep _ _ _ => .c
  | .vdrain _ => .c
  | .amoAdd _ _ _ _ _ _ _ => .c
  | .amoFadd _ _ _ _ _ _ => .c
  | .amoMin _ _ _ _ _ _ _ => .c
  | .amoMax _ _ _ _ _ _ _ => .c
  | .amoMinu _ _ _ _ _ _ _ => .c
  | .amoMaxu _ _ _ _ _ _ _ => .c
  | .amoFmin _ _ _ _ _ _ => .c
  | .amoFmax _ _ _ _ _ _ => .c
  | .amoAmax _ _ _ _ _ _ => .c
  | .amoAnd _ _ _ _ _ _ _ => .c
  | .amoOr _ _ _ _ _ _ _ => .c
  | .amoXor _ _ _ _ _ _ _ => .c
  | .amoSwap _ _ _ _ _ _ _ => .c
  | .amoCas _ _ _ _ _ _ _ => .c
  | .amoAmaxrst _ _ _ _ _ _ _ => .c
  | .evwait _ _ => .c
  | .evsig _ _ _ _ => .c
  | .evcnt _ _ _ => .c
  | .dqpush _ _ => .c
  | .dqpop _ _ => .c
  | .dqsteal _ _ _ => .c
  | .fork _ _ _ _ => .c
  | .join _ _ => .c
  | .send _ _ _ _ => .c
  | .recv _ _ _ => .c
  | .recvt _ _ _ _ => .c
  | .ssync _ => .c
  | .bdom _ _ => .c
  | .xsend _ _ _ => .c
  | .xrecv _ _ _ => .c
  | .dboard _ _ _ _ => .c
  | .dalight _ _ _ _ => .c
  | .dread _ _ _ _ => .c
  | .drmwAdd _ _ _ _ _ => .c
  | .drmwMin _ _ _ _ _ => .c
  | .drmwMax _ _ _ _ _ => .c
  | .drmwMinu _ _ _ _ _ => .c
  | .drmwMaxu _ _ _ _ _ => .c
  | .drmwFmin _ _ _ _ _ => .c
  | .drmwFmax _ _ _ _ _ => .c
  | .drmwAnd _ _ _ _ _ => .c
  | .drmwOr _ _ _ _ _ => .c
  | .drmwXor _ _ _ _ _ => .c
  | .drmwSwap _ _ _ _ _ => .c
  | .drmwCas _ _ _ _ _ => .c
  | .dcap _ _ => .c
  | .dput _ _ _ _ => .c
  | .drel _ _ => .c
  | .dlap _ _ => .c
  | .fenceR _ _ _ => .c
  | .fenceS _ _ _ => .c
  | .qfence _ _ => .c
  | .sbind _ _ _ => .c
  | .sunbind _ _ => .c
  | .sstat _ _ _ => .c
  | .sdrain _ _ => .c
  | .cbinit _ _ _ => .c
  | .cbpop _ _ _ => .c
  | .cbpush _ _ => .c
  | .cbstat _ _ _ => .c
  | .cpy _ _ _ _ _ _ => .c
  | .cpya _ _ _ _ _ _ => .c
  | .gath _ _ _ _ _ _ => .c
  | .scat _ _ _ _ _ => .c
  | .cpyw _ _ _ _ _ _ => .c
  | .cpyz _ _ _ _ _ => .c
  | .pdecl _ _ _ _ => .c
  | .muster _ _ => .c
  | .gwait _ _ _ => .c
  | .gstat _ _ _ => .c
  | .pdrop _ _ => .c
  | .tld _ _ _ _ _ => .c
  | .tstr _ _ _ _ _ => .c
  | .amov _ _ _ _ _ => .c
  | .ald _ _ _ _ _ => .c
  | .mxcmd _ _ _ _ _ => .c
  | .lmalloc _ _ _ => .c
  | .lmfree _ _ => .c
  | .lminv _ _ _ => .c
  | .vsset _ _ _ _ => .c
  | .vsmark _ _ => .c
  | .vsdig _ _ _ => .c
  | .vswait _ _ _ => .c
  | .yoke _ _ => .c
  | .unyoke _ => .c
  | .tlbinv _ _ _ _ => .c
  | .tlbprobe _ _ _ => .c
  | .powerGood _ => .event
  | .imageSourceWrite _ _ _ => .event
  | .imglenWrite _ => .event
  | .attestationRequest _ => .event
  | .partitionLayoutChange _ => .event
  | .faccWrite _ _ => .event
  | .negotiationDone _ _ => .event
  | .queueEnable _ _ => .event
  | .queueDisable _ _ => .event
  | .queueReset _ _ => .event
  | .qkick _ _ => .event
  | .recordRead _ _ => .event
  | .retryWaitEnd _ _ => .event
  | .blockedReread _ _ => .event
  | .hcancel _ _ => .event
  | .hjobrm _ _ => .event
  | .jobRemovalComplete _ => .event
  | .hpreempt _ _ => .event
  | .corePreempt _ => .event
  | .preemptForceTimeout _ => .event
  | .launchResume _ _ => .event
  | .ptrootApply _ _ => .event
  | .svcTick _ => .event
  | .unitPlace _ => .event
  | .gangPlace _ _ => .event
  | .noteWrite _ _ => .event
  | .watchdogFire _ => .event
  | .icacheFill _ _ => .event
  | .loadReturn _ _ => .event
  | .storeDrain _ => .event
  | .translationResolve _ => .event
  | .fqRetry _ _ => .event
  | .fqDeliver _ _ => .event
  | .vectorEntryComplete _ => .event
  | .matrixEntryPerform _ _ => .event
  | .tileArrival _ _ => .event
  | .streamedBFaultResolved _ _ => .event
  | .mxcmdRemoteAccept _ => .event
  | .mxcmdAnswer _ => .event
  | .copyEntryPerform _ _ => .event
  | .copyFaultResolved _ _ => .event
  | .streamFill _ _ => .event
  | .streamDrainEntry _ _ => .event
  | .messageArrival _ => .event
  | .pieceAccept _ _ => .event
  | .exchangeTransferWrite _ _ => .event
  | .barrierRelease _ _ => .event
  | .superstepRelease _ _ _ => .event
  | .exchangePhaseEnd _ => .event
  | .droveRequestApply _ => .event
  | .droveRequestFail _ => .event
  | .captureTimeout _ => .event
  | .droveSlotError _ => .event
  | .recvtTimeout _ => .event
  | .wfiTimeout _ => .event
  | .rollback _ _ => .event
  | .intervalEnd _ => .event
  | .thirdRunComplete _ _ => .event
  | .contansContinue _ => .event
  | .contansCancel _ => .event
  | .phaseStop _ _ => .event
  | .phaseStopWrite _ => .event
  | .phaseRestore _ _ => .event
  | .linkCrcError _ => .event
  | .linkRetrain _ _ => .event
  | .downLinkTimeout _ => .event
  | .escapeMove _ _ => .event
  | .routerBeat _ _ _ => .event
  | .portBeatArrival _ _ _ => .event
  | .hostMemoryWrite _ _ _ => .event
  | .systemScopeRequest _ _ _ _ _ _ => .event
  | .hostCompletionTimeout _ => .event
  | .thermalSample _ _ => .event
  | .wearMinutesFlush => .event
  | .scrub _ _ => .event
  | .registerWrite _ _ _ => .event
  | .powerLoss => .event
  | .functionReset _ => .event
  | .linkReturn _ => .event

end Sys2Proof
end

