-- ==== Sys2Proof/Config.lean ====
section
/-! DEFINITION. What the spec leaves open as a value: free values, opaque constants without a body, so that nothing can prove
what they are. Each is applied to a counter of State or to the operands it depends on. -/

namespace Sys2Proof.Config

/-- A byte of a chunk that was not complete when its collective was aborted (R398), by the counter State.freeCtr: old and new
bytes in any mix (log 20). -/
opaque freeBit : Nat → Bool

/-- The entries that an engine queue holds before it is full, beyond the two that it always holds (R218; log 29). -/
opaque queueRoom : Nat

/-- An element of a bound vector stream register that no popped entry supplies, or that a push carries without the instruction
having written it (R192, R279), by the counter State.freeCtr and the element (log 25). -/
opaque freeElem : Nat → Nat → Word32

/-- The signature that an attestation answer carries over a nonce and its measurements (R407): SLH-DSA-SHAKE-192s with a key
that the spec does not give (log 21). -/
opaque attest : Word → List Word → Word

/-- DEV of the device at the far end of a scale-up port (R400), which the cabling decides (log 32). -/
opaque peer : Nat → Nat

/-- Milliseconds that the full training of an item takes in place of its restore (R408, R409; log 33). -/
opaque trainTime : Nat → Nat

/-- The SHAKE-256 digest of what is measured (R407): firmware, runtime image, a FACC value (log 21). -/
opaque digest : List Byte → Word

/-- An image passes the check of its SLH-DSA-SHAKE-192s signature (R407), whose public key the spec does not give (log 21). -/
opaque verified : List Byte → Bool

/-- A byte of what a device or storage node holds for scale-up system-scope reads (R410), by its DEV and the address: it lies outside the
device (log 117). -/
opaque peerByte : Nat → Nat → Byte

/-- What a job's service count rises by when it holds folds and its WEIGHT has been set to 0 (R71), by the folds it holds (log 34). -/
opaque svcRise : Nat → Nat

/-- A byte of the context pool's image of sequencer entries (R362), by the counter State.freeCtr: only the device writes and reads that
part of a core area, and the spec gives it no layout (log 113). -/
opaque seqByte : Nat → Byte

end Sys2Proof.Config
end

