-- ==== Sys2Proof/Machine/Maps.lean ====
section
/-! DEFINITION. Sparse tables: lists of key and value pairs with strictly rising keys. Memories and register files drop the
entries that equal the default (`mset`), so equal contents are equal data; tables of records keep theirs (`mput`). -/

namespace Sys2Proof.Machine

/-- A sparse table with numeric keys. -/
abbrev SMap (α : Type) := List (Nat × α)

/-- The entry of key `k`, if the table lists it. -/
def mfind {α : Type} : SMap α → Nat → Option α
  | [], _ => none
  | (j, v) :: m, k => if j = k then some v else mfind m k

/-- The value of key `k`; `d` where the table does not list it. -/
def mget {α : Type} (d : α) (m : SMap α) (k : Nat) : α := (mfind m k).getD d

/-- Stores `v` under `k`, keeping keys in order. -/
def mput {α : Type} : SMap α → Nat → α → SMap α
  | [], k, v => [(k, v)]
  | (j, u) :: m, k, v =>
    if k < j then (k, v) :: (j, u) :: m
    else if k = j then (k, v) :: m
    else (j, u) :: mput m k v

/-- Removes key `k`. -/
def mdel {α : Type} : SMap α → Nat → SMap α
  | [], _ => []
  | (j, u) :: m, k => if j = k then mdel m k else (j, u) :: mdel m k

/-- Stores `v` under `k` in a table whose unlisted keys hold `d`: an entry equal to `d` is removed. -/
def mset {α : Type} [DecidableEq α] (d : α) (m : SMap α) (k : Nat) (v : α) : SMap α :=
  if v = d then mdel m k else mput m k v

/-- Updates the entry of key `k`, an unlisted one from `d`. -/
def mupd {α : Type} (d : α) (m : SMap α) (k : Nat) (f : α → α) : SMap α := mput m k (f (mget d m k))

/-- Keys strictly rising. -/
def msorted {α : Type} : SMap α → Bool
  | [] => true
  | [_] => true
  | (j, _) :: (k, v) :: m => decide (j < k) && msorted ((k, v) :: m)

/-- The numbers from `a` on, `n` of them. -/
def span (a n : Nat) : List Nat := (List.range n).map (a + ·)

/-- Replaces element `i` of a list; out of range nothing changes. -/
def lset {α : Type} (l : List α) (i : Nat) (v : α) : List α := l.set i v

end Sys2Proof.Machine
end

