-- ==== Sys2Proof/Machine/State.lean ====
section
/-! DEFINITION. The state of the device as plain data: everything spec/ gives the machine (INVENTORY.md, '## State'), the
reasons a step can stop, and the state after reset. Cores and folds are keyed by device number (R16, R17; 6144 to 6147 are the
Steading's management cores, R23), partitions by partition index (R26). -/

namespace Sys2Proof.Machine

/-- Why the machine stops for good. -/
inductive Fault where
  /-- Raised by step when no domain of the device is powered and no event is due (R408): nothing makes a step. Safe. -/
  | unpowered
  deriving DecidableEq, Repr

/-- Why the model gives a step no meaning. -/
inductive Refusal where
  /-- An instruction whose meaning is not written yet, by its mnemonic; raised by exec only. Safe. -/
  | notModelled (mnemonic : String)
  deriving DecidableEq, Repr

/-- How the last slot instruction or event ended (log 3): `done` with all its effects; `held` before issue with none (R98);
`stalled` in a wait that is its own effect; `trapped` with a cause, its trap entry taken (R348). -/
inductive Issue where
  | done
  | held
  | stalled
  | trapped (cause : BitVec 8) (info : Word)
  deriving DecidableEq, Repr

/-! ## Core -/

/-- The VARITH forms (R203). -/
inductive VArith where
  | add | sub | mul | div | sqrt | fma | fms | min | max | abs | neg | dot | addBf2 | mulBf2 | fmaBf2 | dot2Bf
  deriving DecidableEq, Repr

/-- The VINT forms (R205). -/
inductive VIntOp where
  | add | sub | mul | mulh | and | or | xor | sll | srl | sra | min | max | minu | maxu | adds | subs | mac | dot4 | abs
  deriving DecidableEq, Repr

/-- The VCMP relations (R206). -/
inductive VCmpOp where
  | feq | fne | flt | fle | fun | ieq | ine | ilt | ile | iltu | ileu
  deriving DecidableEq, Repr

/-- The VRED forms (R207). -/
inductive VRedOp where
  | sum | max | min | amax | maxi | mini | isum | imax | imin | imaxu | iminu | and | or | xor
  deriving DecidableEq, Repr

/-- The VSFU functions (R209). -/
inductive VSfuOp where
  | exp2 | expe | log2 | rcp | rsq
  deriving DecidableEq, Repr

/-- The VPERM forms (R210). -/
inductive VPermOp where
  | mov | splat | movs | sel | iota | idx
  deriving DecidableEq, Repr

/-- The VCVT forms (R190). -/
inductive VCvtOp where
  | narrow | widen | qrnd | mxq | mxs | mxc | baleq
  deriving DecidableEq, Repr

/-- What a sequencer entry does (R193). -/
inductive VOp where
  | arith (o : VArith)
  | int (o : VIntOp)
  | cmp (o : VCmpOp)
  | red (o : VRedOp)
  | sfu (o : VSfuOp)
  | perm (o : VPermOp)
  | cvt (o : VCvtOp) (fc bl : Nat)
  | stv (n : Nat)
  | stf (fc bl : Nat)
  deriving DecidableEq, Repr

/-- A sequencer entry with the values it captured at issue (R193): L, the mask group, RM, SAT, FTZ, NBV, a VSPLAT's source value, a
store's address and translations (R200), and the elements popped from bound vector streams (R279), which `again` says are to be
popped afresh in a later repetition of a block (R199). -/
structure VEntry where
  op : VOp
  vd : Nat
  va : Nat
  vb : Nat
  vc : Nat
  len : Nat
  mask : Option Nat
  rm : Nat
  sat : Bool
  ftz : Bool
  nbv : Nat
  gd : Nat
  val : Word
  addr : Nat
  tr : SMap Nat
  pops : SMap (List Word)
  again : Bool
  /-- Slices still to issue, and the clk of acceptance (R85). -/
  left : Nat
  since : Nat
  deriving DecidableEq, Repr

/-- A translation fault being resolved (R365): address, access kind, and the resolution once it is known: none while pending,
`some true` proceed, `some false` deliver TRANSLATION. `seq` is its number in the host's fault queue (R404). -/
structure TransFault where
  va : Nat
  acc : BitVec 2
  answer : Option Bool
  seq : Option Nat
  deriving DecidableEq, Repr

/-- What a matrix entry does (R222 to R234). -/
inductive MOp where
  | mma (zero : Bool)
  | mmaStreamed (zero : Bool) (ptr : Word)
  | azero
  | acopy
  | aadd (int : Bool)
  | tzero
  | tcopy
  | ttrn
  | tfwd (dir : Nat)
  /-- A forwarded tile on its way: the sender's partition, launch block and TAG, TSH, bytes and scale bytes from 0, waiting at the
  receiving engine (R229). -/
  | arriving (dir part blk : Nat) (tag tsh : Word) (bytes scales : SMap Byte)
  | ttake
  | tld (ptr stride : Word)
  | tstr (ptr stride : Word)
  | amov (ptr shape : Word)
  | ald (ptr shape : Word)
  deriving DecidableEq, Repr

/-- An entry of a queue bound to a matrix engine: the fold whose engine performs it (another fold's for MXCMD, R233), the shapes
and level taken at acceptance (R214, R180), LMC.UMODE and PDC.MODE at issue (R226), the translations kept (R231), and the
acceptance number of R219. `faulted` is the translation that stopped a streamed MMA, which holds a shadow region (R226). -/
structure MEntry where
  op : MOp
  fold : Nat
  d : Nat
  a : Nat
  b : Nat
  tshA : Word
  tshB : Word
  lvl : Nat
  umode : Nat
  pmode : Nat
  tr : SMap Nat
  seq : Nat
  faulted : Option TransFault
  deriving DecidableEq, Repr

/-- The copy operations (R265). -/
inductive COp where
  | cpy | cpya | gath | scat | cpyw | cpyz
  deriving DecidableEq, Repr

/-- An entry of a queue bound to a copy engine: pointers, count, captured descriptor (R265), kept translations (R267). A stopped GATH or
SCAT resumes at element `next`, with the positions and codes that it has to write so far and the ranges it has read. -/
structure CEntry where
  op : COp
  chute : Bool
  dst : Word
  src : Word
  n : Nat
  desc : List Word
  tr : SMap Nat
  next : Nat
  got : List (Nat × Nat)
  seen : List (Nat × Nat)
  faulted : Option TransFault
  /-- Of a copy into a chute: the entries of each write binding's ring that were pushed before it (R332). -/
  pushed : SMap Nat := []
  deriving DecidableEq, Repr

/-- An entry of an engine queue (R263). -/
inductive QEntry where
  | matrix (e : MEntry)
  | copy (e : CEntry)
  deriving DecidableEq, Repr

/-- A deferred error: its cause and EINFO's access fields (R221, R313). -/
structure DefErr where
  cause : BitVec 8
  acc : BitVec 2
  val : Bool
  data : Nat
  deriving DecidableEq, Repr

/-- An engine queue: entries in order of acceptance and the recorded cause (R221). -/
structure EQueue where
  entries : List QEntry
  err : Option DefErr
  deriving DecidableEq, Repr

/-- A chute context (R274, R276): the loaded control block, the held slots and the fills in progress. -/
structure Chute where
  addr : Nat
  nslot : Nat
  ssize : Nat
  free : Nat
  filled : Nat
  head : Nat
  tail : Nat
  held : Nat
  deriving DecidableEq, Repr

/-- An element of a stream ring: the value with the first invalid local byte it touched (R242), or the error met while filling
it (R279). -/
inductive RingEntry where
  | val (w : Word) (invalid : Option Nat)
  | err (e : DefErr)
  deriving DecidableEq, Repr

/-- A bound stream (R277 to R279): descriptor address and words, POS, the elements fetched or drained, the ring, a held write error, and
how many buffered stores issued before the SBIND are still to be performed (R329). -/
structure Stream where
  desc : Nat
  words : List Word
  pos : Nat
  moved : Nat
  ring : List RingEntry
  err : Option DefErr
  behind : Nat
  deriving DecidableEq, Repr

/-- A sub-box of a paddock piece (R254, R284): the peer launch core, the receiver's face, global index of the first cell after
wrap, its position in the receiver's box, and the extents. -/
structure SubBox where
  peer : Nat
  face : Nat
  sends : Bool
  gorg : List Nat
  borg : List Nat
  ext : List Nat
  deriving DecidableEq, Repr

/-- A bound paddock window (R251 to R257, R283): the launch core that bound it, the declaration's address and doublewords, the box
offset in local memory, the generation G, the face table's records, and a stamp for each (peer, face) piece received. -/
structure Paddock where
  k : Nat
  decl : Nat
  words : List Word
  box : Nat
  gen : Nat
  subs : List SubBox
  stamps : List (Nat × Nat × Nat)
  deriving DecidableEq, Repr

/-- A MUSTER message waiting for its receiver (R255): the launch, the sender's window, the receiver, the face there, and the tag. -/
structure PieceMsg where
  part : Nat
  blk : Nat
  win : Nat
  decl : Nat
  peer : Nat
  face : Nat
  tag : Nat
  deriving DecidableEq, Repr

/-- A SEND under way (R310), with the sender's partition and launch block, and the entries of each write binding's ring that were pushed
before it (R332). -/
structure Msg where
  part : Nat
  blk : Nat
  core : Nat
  chan : Nat
  fc : Nat
  bl : Nat
  src : Word
  n : Nat
  tr : SMap Nat
  pushed : SMap Nat := []
  deriving DecidableEq, Repr

/-- A scheduled transfer whose source bytes have been read (R305): the receiver's launch core and offset, the superstep and slot, as
2^16 ss + slot, and the entries of each write binding's ring that were pushed before it (R332). -/
structure Xfer where
  dst : Nat
  doff : Nat
  bytes : List Byte
  chan : Nat
  slot : Nat
  pushed : SMap Nat := []
  deriving DecidableEq, Repr

/-- The drove instructions that make a request (R312). -/
inductive DroveOp where
  | board | alight | read | rmw (opr : Nat) | cap | put | rel
  deriving DecidableEq, Repr

/-- A drove request in the core's FIFO (R313); `since` is the clk of acceptance, `seen` the last clk at which its key left the ring. -/
structure DroveReq where
  op : DroveOp
  key : Word32
  rd : Nat
  v : Word
  cmp : Word
  word : Nat
  tr : SMap Nat
  since : Nat
  seen : Nat
  deriving DecidableEq, Repr

/-- A capture (R318): the key, the slot once taken, the buffer, the contents taken at the DCAP and the clk of the DCAP. -/
structure Capture where
  key : Word32
  slot : Option Nat
  buf : List Word
  orig : List Word
  since : Nat
  deriving DecidableEq, Repr

/-- A store in the store buffer (R156): the place of its first byte and its bytes. -/
structure BufStore where
  va : Nat
  key : Nat
  bytes : List Byte
  deriving DecidableEq, Repr

/-- What an outstanding access delivers to rd (R156, R290, R295). -/
inductive LoadKind where
  | plain (sx : Bool)
  | amo (op : Nat) (x cmp : Word) (scope : Nat) (acq : Bool)
  | vec (n : Nat) (sx : Bool) (len : Nat)
  | vecf (fc bl : Nat) (len : Nat) (ftz : Bool)
  deriving DecidableEq, Repr

/-- An outstanding load or AMO (R156): the address, its place or translations, size in bytes, destination, the clk of its issue; `escape`
marks a request that moved to the escape channel, and `back` an answer that did (R388). Of an acquire AMO, `pushed` counts the entries of
each write binding's ring that were pushed before it (R293). -/
structure Load where
  kind : LoadKind
  va : Nat
  key : Nat
  tr : SMap Nat
  size : Nat
  rd : Nat
  escape : Bool
  since : Nat
  back : Bool := false
  pushed : SMap Nat := []
  deriving DecidableEq, Repr

/-- A fence that still orders something (R320, R321): the classes before and after it, the range of a FENCE.R, and the entries of each
write binding's ring that were pushed before it. -/
structure Fence where
  pred : Nat
  succ : Nat
  range : Option (Nat × Nat)
  pushed : SMap Nat
  deriving DecidableEq, Repr

/-- A wait that a packet makes as its own effect, once both slots have passed their checks (R98), with what it has done. -/
inductive Wait where
  | barrier (b : Nat) (gen : Nat)
  | mutex (m : Nat)
  | event (e : Nat)
  | recvt (until_ : Nat)
  | deadline (until_ : Nat)
  | forever
  | ssync (dom : Nat)
  | cancel (h : Word)
  | yoke
  | mxcmd (q t : Nat) (cmd : Word32) (ptr : Word) (answer : Option Word)
  /-- EVSIG's message to a fold waits on a down link (R402). -/
  | evsig (f : Nat)
  | expired
  | released (v : Word)
  deriving DecidableEq, Repr

/-- A TLB entry (R248, R366): job, virtual page base, page size, the page's place key, W and CRIT; `parity` where the entry's parity
is bad (R364). -/
structure TlbEntry where
  parity : Bool
  job : Nat
  base : Nat
  size : Nat
  key : Nat
  w : Bool
  crit : Bool
  deriving DecidableEq, Repr

/-- A journal entry (R243): line number, old bytes, old valid bits. -/
structure JEntry where
  line : Nat
  bytes : List Byte
  valid : List Bool
  deriving DecidableEq, Repr

/-- The registers of a core that a context save, a snapshot or a yoke copies whole. `ctl` holds the control registers of R135
by number; an unlisted one reads 0. `v` holds element i of vector register r under 256 r + i. -/
structure Regs where
  g : SMap Word
  pc : Addr
  npc : Addr
  ctl : SMap Word
  vl : Nat
  v : SMap Word32
  lanes : Nat
  lastReq : Nat
  deriving DecidableEq, Repr

/-- A capture of VREP (R199): entries still to take, repetitions, entries taken, and whether trap entry suspended it. -/
structure VCapture where
  left : Nat
  count : Nat
  entries : List VEntry
  suspended : Bool
  deriving DecidableEq, Repr

/-- The vector sequencer (R193): single entries and repeated blocks in program order. A block lists its entries, the index of
the next and the repetitions left, the current one included. -/
inductive SeqItem where
  | one (e : VEntry)
  | block (es : List VEntry) (next left : Nat)
  deriving DecidableEq, Repr

/-- What a core holds (R63, R73, R78): partition, launch block, launch core k, record address (0 for a routine), whether it runs
a routine, the superstep, the next position in its routine list, and the part of the superstep it is in. -/
structure Occ where
  part : Nat
  blk : Nat
  k : Nat
  rcd : Nat
  flagged : Bool
  ss : Nat
  pos : Nat
  /-- 0: compute phase; 1: arrived at the barrier; 2: exchange phase, routines left; 3: exchange phase, routines ended. -/
  stage : Nat
  running : Bool
  /-- In a routine, its bit X (R59): an exchange routine. -/
  xrout : Bool
  since : Nat
  deriving DecidableEq, Repr

/-- The snapshot of a barrier release (R288, R302) or of a pair's agreeing point (R373): control registers, chutes, streams, AMARK, paddocks,
and the vector entries not started. -/
structure Snap where
  ctl : SMap Word
  chutes : SMap Chute
  streams : SMap Stream
  amark : Nat
  padds : SMap Paddock
  occ : Option Occ
  seqr : List SeqItem
  vcap : Option VCapture
  deriving DecidableEq, Repr

/-- What a retired packet of a yoked pair records in the fingerprint (R372): registers, whose writes may still be on their way, and the bytes
that follow them; `store` where those of a queued STV or STF come last (R211). -/
structure LateRec where
  regs : List Nat
  bytes : List Byte
  store : Bool
  deriving DecidableEq, Repr

/-- A yoked pair's state on its leader (R370 to R373). `other` is the partner's fingerprint where a soft error made it differ
from the leader's; `agree` and `point` the last agreeing point. -/
structure Yoke where
  state : Nat
  fp : Word
  ivpos : Nat
  other : Option Word
  agree : Option Regs
  point : Option Snap
  held : List BufStore
  /-- What the interval has accepted so far, by place: engine queues 0 to 7, drove requests 8, SENDs 9, pieces 10,
  AMOs 11. -/
  queued : SMap Nat
  /-- Records of retired packets that are not complete yet. -/
  late : List LateRec
  consumed : Nat
  /-- The interval ends at this packet boundary: a full buffer, an action, or a load that a held store overlaps in part. -/
  close : Bool
  deriving DecidableEq, Repr

/-- One core. -/
structure Core where
  occ : Option Occ
  r : Regs
  seqr : List SeqItem
  vcap : Option VCapture
  stores : List BufStore
  loads : List Load
  fences : List Fence
  queues : SMap EQueue
  /-- Partition and block of the launch whose unit a cancel stopped here while entries were being performed (R237, R289). -/
  orphanOf : Option (Nat × Nat)
  drove : List DroveReq
  droveErr : Option (DefErr × List Nat)
  cap : Option Capture
  chutes : SMap Chute
  streams : SMap Stream
  amark : Nat
  valid : SMap Bool
  journal : List JEntry
  jspill : List JEntry
  padds : SMap Paddock
  pieces : List PieceMsg
  sends : List Msg
  sendErr : Bool
  xfers : List Xfer
  xused : List Nat
  xtaken : List Nat
  xwritten : List Nat
  /-- The hardware deque and the entries that have spilled, newest first: launch block and record address (R75); the place of the spill
  area that the next spilled entry takes. -/
  deque : List (Nat × Nat)
  spill : List (Nat × Nat)
  spillNext : Nat
  tlb : List TlbEntry
  tfault : Option TransFault
  /-- The address whose page walk a down link holds back (R402), and what has moved to the escape channel (R388): request i as
  2 i, its answer as 2 i + 1. -/
  walkWait : Option Nat
  escapes : List Nat
  /-- A host access of the packet at pc ended with an error (R403), and the clk at which a host access of a request, other than a load, was
  first found waiting for its completion. -/
  hostFail : Bool
  hostSince : SMap Nat
  wait : Option Wait
  wdogBase : Nat
  xclkBase : Nat
  snap : Option Snap
  /-- The journal or the snapshot of the last release or agreeing point holds an uncorrectable error, which a restore meets (R369). -/
  snapBad : Bool
  rollbacks : Nat
  preempt : Option Nat
  yoke : Option Yoke
  partnerOf : Option Nat
  thirds : Nat
  trans : Nat
  /-- The operation of a MACRO to issue next (R115), and whether it is the entry's last. -/
  macroOp : Option (Word32 × Word32 × Bool)
  /-- Units that resume on this core: launch block and record address (R79, R311). -/
  resumes : List (Nat × Nat)
  /-- The packet at pc has been counted in LODC (R195). -/
  lodcounted : Bool
  /-- The A-slot of the packet at pc has had its effects; its C-slot still joins agents before the unit leaves (R355). -/
  aDone : Bool
  /-- The lanes that still govern the slices of the present clk, where a CLAIM has changed them in it (R197). -/
  lanesWas : Option Nat
  deriving DecidableEq, Repr

/-! ## Fold -/

/-- A barrier line (R296, R297). -/
structure Barrier where
  dom : Nat
  gen : Nat
  memb : BitVec 8
  arrived : List Nat
  deriving DecidableEq, Repr

/-- A mutex line (R297): the holder, as launch block and record address (or launch core, for a routine), and waiting cores, each with
the clk at which it arrived. -/
structure Mutex where
  holder : Option (Nat × Nat)
  waiters : List (Nat × Nat)
  deriving DecidableEq, Repr

/-- A waiter of an event line (R297): a core whose load waits, or a suspended unit of a launch block. -/
inductive EvWaiter where
  | core (c : Nat)
  | unit_ (blk rcd : Nat)
  deriving DecidableEq, Repr

/-- A line of the fold instruction cache (R91): launch block, address, the 64 bytes as read, which pool reads see (R109), the
patched bytes, and the packets marked by a failed patch (R111). A fold's list holds the line filled last first. -/
structure ICLine where
  part : Nat
  blk : Nat
  addr : Nat
  raw : List Byte
  bytes : List Byte
  marked : List Nat
  /-- Its check code fails (R92). -/
  bad : Bool
  deriving DecidableEq, Repr

/-- A macro store entry (R112, R113): launch block, operations and marks. -/
structure MacroEntry where
  part : Nat
  blk : Nat
  ops : List (Word × Word)
  deriving DecidableEq, Repr

/-- A staged DRMW (R319): launch block, domain, key, word, OPR and the combined operand. -/
structure Stage where
  blk : Nat
  dom : Nat
  key : Word32
  word : Nat
  opr : Nat
  v : Word
  deriving DecidableEq, Repr

/-- The matrix state of a fold that a snapshot or a fold area holds (R236, R362). -/
structure MState where
  tiles : SMap Byte
  scales : SMap Byte
  acc : SMap Word32
  tsh : SMap Word
  inbound : List Nat
  arrived : List Nat
  deriving DecidableEq, Repr

/-- One fold. Tile byte x of Tn lies under 4096 n + x, scale byte x under 1024 n + x, accumulator element (i, j) of an under
4096 n + 64 i + j (R215, R216). -/
structure Fold where
  m : MState
  owner : Option (Nat × Nat × Word)
  shadow : Nat
  accepted : Nat
  /-- The queue that each copy engine served last, under the engine's number: 8 core + queue (R264). -/
  copyTurn : SMap Nat
  msnap : Option MState
  barriers : SMap Barrier
  mutexes : SMap Mutex
  events : SMap Nat
  evwait : List (Nat × EvWaiter)
  sync : SMap Word
  ready : List (Nat × Nat)
  icache : List ICLine
  macros : SMap MacroEntry
  staged : List Stage
  /-- The triples staged here in each superstep: launch block, superstep, key, word, OPR (R319). -/
  triples : List (Nat × Nat × Word32 × Nat × Nat)
  /-- The first clk at which the stop may act again (R313). -/
  stopNext : Nat
  badKeys : List Word32
  credits : SMap Int
  /-- For how many clk on end each core of the fold has been eligible without being first (R85). -/
  lagging : SMap Nat
  deriving DecidableEq, Repr

/-! ## Partition -/

/-- The states of a launch queue (R66). -/
inductive QState where
  | disabled | idle | fetch | retry | blocked | halted
  deriving DecidableEq, Repr

/-- A launch queue (R64 to R66): registers, pending kick, retry count, whether the next read is the first after a kick, and the clk
at which a retry wait ends. -/
structure Queue where
  base : Word
  cfg : Word
  seq : Word32
  en : Bool
  st : QState
  code : Nat
  hseq : Word32
  kick : Bool
  count : Nat
  first : Bool
  waitEnd : Nat
  deriving DecidableEq, Repr

/-- A completion block (R40), with the job that owns it (R42) and whether it has been opened since it was last cleared. -/
structure Block where
  out : Nat
  closed : Bool
  done : Bool
  canc : Bool
  errcnt : Nat
  status : Nat
  job : Nat
  opened : Bool
  /-- Lowest status other than 0x01 among the members that ended (R42); 0 while there is none. -/
  worst : Nat
  deriving DecidableEq, Repr

/-- A job table entry (R61) with a held write of PTROOT, the job's service count and whether it is active (R71), and whether a phase stop
bars its records (R415). -/
structure Job where
  ptroot : Nat
  quota : Nat
  weight : Nat
  prio : Nat
  heldRoot : Option Nat
  svc : Nat
  active : Bool
  stopped : Bool
  deriving DecidableEq, Repr

/-- Where a launch stands between acceptance and the reuse of its block (R38, R53, R71, R361). -/
inductive LStage where
  | waiting | ready | placed | preempted | done | noted
  deriving DecidableEq, Repr

/-- A declaration entry (R58). -/
structure Decl where
  kind : Nat
  idx : Nat
  loff : Nat
  srca : Nat
  nslot : Nat
  ssize : Nat
  deriving DecidableEq, Repr

/-- An accepted launch: the fields of its record (R50) and header (R56), the tables the front end read (R53, R57 to R59, R299),
its stage, acceptance number (R72), MXCAP tag (R217), and the cores and units it has used. -/
structure Launch where
  rcd : Nat
  /-- The record as it was accepted (R50), which a phase stop saves (R415). -/
  record : List Word := []
  plen : Nat
  param : Nat
  job : Nat
  phase : Nat
  graph : Nat
  node : Nat
  succ : List Nat
  wdog : Nat
  pers : Bool
  det : Bool
  nbv : Nat
  units : Nat
  fcount : Nat
  fbase : Nat
  map : List Nat
  arena : Nat
  anum : Nat
  bdom : Nat
  note : Nat
  nval : Word
  code : Nat
  entry : Nat
  csize : Nat
  stack : Nat
  lmem : Nat
  patches : List (Nat × Nat)
  decls : List Decl
  routines : List (List Word)
  sched : List Word
  nmacro : Nat
  mstore : Nat
  nss : Nat
  stage : LStage
  /-- The initial units of a ready unflagged launch have entered the ready queues (R73). -/
  queued : Bool
  accept : Nat
  tag : Nat
  /-- Cores (partition-logical) set up by R62. -/
  setup : List Nat
  /-- The records of the units that have not ended (R42, R49). -/
  live : List Nat
  /-- Persistent units and the core each first ran on (R79). -/
  homes : List (Nat × Nat)
  /-- Units suspended in JOIN: record and join block (R48). -/
  joins : List (Nat × Nat)
  /-- Units suspended in FORK for want of a free record (R49). -/
  starved : List Nat
  /-- Units of the launch suspended in RECV: record, core, channel (R311). -/
  recvs : List (Nat × Nat × Nat)
  deriving DecidableEq, Repr

/-- An error record (R350): valid, launch core, status, cause, EPC, EINFO, unit. -/
structure ErrRec where
  core : Nat
  status : Nat
  cause : BitVec 8
  epc : Nat
  einfo : Word
  unit_ : Nat
  deriving DecidableEq, Repr

/-- A core area of the context pool in use (R360, R362). -/
structure CtxArea where
  blk : Nat
  k : Nat
  core : Core
  running : Bool
  deriving DecidableEq, Repr

/-- A fold area of the context pool in use. -/
structure FoldArea where
  blk : Nat
  fold : Nat
  m : MState
  owner : Option (Nat × Nat × Word)
  deriving DecidableEq, Repr

/-- A containment decision the host owes (R405). -/
structure Contain where
  blk : Nat
  core : Nat
  kind : Nat
  deriving DecidableEq, Repr

/-- A beat of a virtual stream (R386): element i of the ranks whose contributions it combines, with its wire code (the scale of a block format
above bit 8); a marker of those ranks; or a rank's digest on its way to another device (R397). `away`: entries that the Steading computed
take it to another device's ranks. -/
inductive Beat where
  | elem (away : Bool) (ranks : List Nat) (i : Nat) (v : Word32)
  | marker (away : Bool) (ranks : List Nat)
  | digest (q v : Nat)
  deriving DecidableEq, Repr

/-- A set of ports of a router for the beats of certain ranks, where the Steading computes the entries (R387): the ranks that each input
carries, an fadd's left operand first, and the outputs. Port 9 is the router's own last combination. -/
structure Flow where
  away : Bool
  ins : List (Nat × List Nat)
  outs : List Nat
  deriving DecidableEq, Repr

/-- A rank that VSSET opened (R393): its number, fold and core, launch block, epoch, descriptor doublewords, kept translations, the
elements received (under 2^32 q + i), the chunks whose bytes are performed, the flags written, the VSDIGs that have returned, and whether
its VSWAIT has. -/
structure Rank where
  rank : Nat
  fold : Nat
  core : Nat
  blk : Nat
  epoch : Word
  desc : List Word
  tr : SMap Nat
  got : SMap Word32
  bytes : List Nat
  flags : List Nat
  ndig : Nat
  closed : Bool
  deriving DecidableEq, Repr

/-- A virtual stream that is open in a partition (R384 to R398): the recorded level, the shared fields and the rank table, the ranks,
whether it was aborted, whether the Steading computed its entries (`direct`, R387), and the digests exchanged (R397). `routers` holds
a device fold's entry of three doublewords (R385), `flows` the sets that the Steading computed for it; `inq` the beats that wait at a router's
input, under 16 f + port; `bank` those that the Common bank at a router holds until all its inputs are there (R391); `out` those that wait
at a die's fabric port for another device (R394), and `sent` those that have left by it, oldest first. -/
structure VStream where
  level : Nat
  shared : List Word
  ranks : List Rank
  aborted : Bool
  direct : Bool
  routers : SMap (Word × Word × Word)
  inq : SMap (List Beat)
  bank : SMap (List Beat)
  flows : SMap (List Flow)
  out : SMap (List Beat)
  sent : List (Nat × Beat)
  digests : List (Nat × Nat)
  deriving DecidableEq, Repr

/-- One partition. -/
structure Part where
  facc : Word
  queues : SMap Queue
  /-- The queue from which the front end looks for the next one to serve (R66). -/
  qturn : Nat
  jobs : SMap Job
  launchBlks : SMap Block
  graphBlks : SMap Block
  phaseBlks : SMap Block
  jobBlks : SMap Block
  nodes : SMap Int
  /-- The job whose launches last counted at a node (R70). -/
  nodeJob : SMap Nat
  /-- Graph and node of the launches to come of which a predecessor was cancelled, and of those that a cancel has ended (R43). -/
  deadNodes : List (Nat × Nat)
  endedNodes : List (Nat × Nat)
  graphPhase : SMap Nat
  owners : SMap Nat
  lbNext : Nat
  errs : SMap ErrRec
  launches : SMap Launch
  accepts : Nat
  tags : Nat
  slotsHA : SMap (List Word)
  hcres : Nat
  hjres : Nat
  hjob : Nat
  hpres : Nat
  hpre : Option Nat
  ctxBase : Word
  ctxn : Word32
  ctxfn : Word32
  ctxAreas : SMap CtxArea
  foldAreas : SMap FoldArea
  fqBase : Word
  fqLog : Nat
  fqTail : Word32
  fqSeq : Word32
  contrec : List Contain
  psres : Nat
  /-- A phase stop drains. -/
  psBusy : Bool
  psJob : Nat
  psList : Nat
  fevt : Word
  streams : SMap VStream
  svcNext : Nat
  deriving DecidableEq, Repr

/-! ## Device -/

/-- The states of a drove slot (R260). -/
inductive SlotState where
  | empty | live | held | alighting
  deriving DecidableEq, Repr

/-- A drove slot (R260); its LAP is a function of clk (R259). `soft` where it holds a soft error that its check code corrects. -/
structure DSlot where
  soft : Bool
  state : SlotState
  key : Word32
  hold : Nat
  words : List Word
  deriving DecidableEq, Repr

/-- The form in which the device is supplied (R2, R411): XE4-CR-P, XE4-CR-M, or XE4-CR-K with or without a serial store. -/
inductive Form where
  | onPackage
  | onModule
  | bare (serial : Bool)
  deriving DecidableEq, Repr

/-- The Steading's non-volatile store and the part's fuses (R23, R28, R32, R370, R407 to R413). -/
structure NV where
  form : Form
  fused : List Nat
  feat : Word
  dev : Nat
  trainBit : Bool
  /-- Training records: item, serial match, temperature, and how many clk the device had been powered for at recording. -/
  records : List (Nat × Bool × Int × Nat)
  /-- The clk for which the device has been powered, in the power sessions before this one (R408). -/
  poweredClk : Nat
  image : List Word
  firmware : List Byte
  pwrDie : SMap Nat
  exc : SMap Nat
  hotm : SMap Nat
  pwrStack : SMap Nat
  quar : List Nat
  deriving DecidableEq, Repr

/-- The thermal state of a die (R412): ARMED with the low mark, or COUNTED with the high mark. -/
inductive Therm where
  | armed (l : Int)
  | counted (h : Int)
  deriving DecidableEq, Repr

/-- The oldest wait on a down link (R402): the link and the clk at which it began. -/
structure LinkWait where
  link : Nat
  since : Nat
  deriving DecidableEq, Repr

/-- One turn of the agenda (log 3): clk that pass first, then an event of the table, or the packet issue of a core. -/
structure Turn where
  dt : Nat
  core : Nat
  ev : Option Instr
  deriving DecidableEq, Repr

/-- What the second instruction of a packet reads its sources from: the core and the fold's matrix state before the packet (R94), and the
bindings that the first one has popped (R95). -/
structure Latch where
  core : Core
  m : MState
  popped : List Nat
  deriving DecidableEq, Repr

/-- The whole device. -/
structure State where
  clk : Nat
  ringStart : Nat
  layout : Layout
  /-- The last layout request was refused as busy (R25). -/
  busy : Bool
  nv : NV
  boot : Word
  /-- The start-up states to come, each with the millisecond at which it is entered (R409); the items that train fully (R408). -/
  bootPlan : List (Nat × Nat)
  retrain : List Nat
  imgAddr : Option Word
  /-- IMGLEN as written, the runtime image that the device has read, and whether a read of it has failed (R410). -/
  imgLen : Nat
  image : List Byte
  imgBad : Bool
  powered : Bool
  temps : SMap Int
  therm : SMap Therm
  hotPend : SMap Nat
  ports : SMap Word
  replays : SMap Nat
  /-- Links that are down (R399, R402), and whether a wait on the link has ended. -/
  downLinks : SMap Bool
  /-- The clk at which each of them went down (R388). -/
  downSince : SMap Nat
  linkWaits : List LinkWait
  slots : SMap DSlot
  /-- CXL expanders found on the device's ports: expander and capacity in GiB (R406). -/
  t2exp : SMap (Nat × Nat)
  mem : List Host.Cell
  ecc : SMap Bool
  eccCount : Nat
  /-- TLB entries found with bad parity (R364), and instruction cache lines found in error (R92). -/
  tlbBad : Nat
  lineBad : Nat
  /-- How coming second readings of CRIT leaves compare, in order (R364): true where the two readings of a pair differ. -/
  flips : List Bool
  msix : List (Nat × Nat)
  /-- Attestation answers: nonce, measurements, signature (R407). -/
  spdm : List (List Word)
  /-- The Steading's log of traps that reset a management core (R359): core, cause, EPC, EINFO. -/
  mgmtLog : List (Nat × BitVec 8 × Nat × Word)
  parts : SMap Part
  folds : SMap Fold
  cores : SMap Core
  /-- The model's own: what moves next and what the last step did (log 3, log 20). -/
  agenda : List Turn
  /-- The cores that have issued in the present clk. -/
  issued : List Nat
  cur : Nat
  issue : Issue
  latch : Option Latch
  freeCtr : Nat
  deriving DecidableEq, Repr

/-! ## Reset -/

/-- Registers before any unit: every one 0, VL 256 (R192; log 5). -/
def Regs.zero : Regs :=
  { g := [], pc := 0, npc := 0, ctl := [], vl := 256, v := [], lanes := 0, lastReq := 0 }

/-- An idle core after cold power-good. -/
def Core.idle : Core :=
  { occ := none, r := Regs.zero, seqr := [], vcap := none, stores := [], loads := [], fences := [], queues := [], orphanOf := none, drove := [],
    droveErr := none, cap := none, chutes := [], streams := [], amark := 0, valid := [], journal := [], jspill := [],
    padds := [], pieces := [], sends := [], sendErr := false, xfers := [], xused := [], xtaken := [], xwritten := [],
    deque := [], spill := [], spillNext := 0, tlb := [], tfault := none, walkWait := none, escapes := [], hostFail := false,
    hostSince := [], wait := none, wdogBase := 0, xclkBase := 0, snap := none,
    snapBad := false, rollbacks := 0, preempt := none, yoke := none, partnerOf := none, thirds := 0, trans := 0, macroOp := none,
    resumes := [], lodcounted := false, aDone := false, lanesWas := none }

/-- Matrix state in which everything reads zero (R213). -/
def MState.zero : MState := { tiles := [], scales := [], acc := [], tsh := [], inbound := [], arrived := [] }

/-- An idle fold after cold power-good. -/
def Fold.idle : Fold :=
  { m := MState.zero, owner := none, shadow := 0, accepted := 0, copyTurn := [], msnap := none, barriers := [], mutexes := [], events := [],
    evwait := [], sync := [], ready := [], icache := [], macros := [], staged := [], triples := [], stopNext := 0, badKeys := [],
    credits := [], lagging := [] }

/-- A queue after cold power-good (R64). -/
def Queue.reset : Queue :=
  { base := 0, cfg := 0, seq := 0, en := false, st := .disabled, code := 0, hseq := 0, kick := false, count := 0,
    first := false, waitEnd := 0 }

/-- A completion block that nothing has opened (R40). -/
def Block.reset : Block :=
  { out := 0, closed := false, done := false, canc := false, errcnt := 0, status := 0, job := 0, opened := false, worst := 0 }

/-- A job table entry of zeros (R61). -/
def Job.reset : Job := { ptroot := 0, quota := 0, weight := 0, prio := 0, heldRoot := none, svc := 0, active := false, stopped := false }

/-- A barrier line before any store to its configuration (R296). -/
def Barrier.reset : Barrier := { dom := 0, gen := 0, memb := 0xFF, arrived := [] }

/-- A partition before negotiation. -/
def Part.reset : Part :=
  { facc := 0, queues := [], qturn := 0, jobs := [], launchBlks := [], graphBlks := [], phaseBlks := [], jobBlks := [],
    nodes := [], nodeJob := [], deadNodes := [], endedNodes := [],
    graphPhase := [], owners := [], lbNext := 0, errs := [], launches := [], accepts := 0, tags := 0, slotsHA := [],
    hcres := 0, hjres := 0, hjob := 0, hpres := 0, hpre := none, ctxBase := 0, ctxn := 0, ctxfn := 0,
    ctxAreas := [], foldAreas := [], fqBase := 0, fqLog := 0, fqTail := 0, fqSeq := 0, contrec := [], psres := 0, psBusy := false, psJob := 0,
    psList := 0, fevt := 0, streams := [], svcNext := 1024 }

/-- The non-volatile store and fuses of log 10: every function offered, no fold fused off, the image over the host link. -/
def NV.initial : NV :=
  { form := .onPackage, fused := [], feat := 0x000F7FFF, dev := 0, trainBit := true, records := [], poweredClk := 0, image := [1, 0, 0],
    firmware := [], pwrDie := [], exc := [], hotm := [], pwrStack := [], quar := [] }

/-- An EMPTY drove slot (R259). -/
def DSlot.empty : DSlot := { soft := false, state := .empty, key := 0, hold := 0, words := List.replicate 7 0 }

/-- The device right after cold power-good, before the Steading's first start-up step has completed (R10, R409). -/
def State.reset : State :=
  { clk := 0, ringStart := 0, layout := .whole, busy := false, nv := NV.initial, boot := 0,
    bootPlan := [], retrain := [], imgAddr := none, imgLen := 0, image := [], imgBad := false, powered := true,
    temps := [], therm := [], hotPend := [], ports := [], replays := [], downLinks := [], downSince := [], linkWaits := [], slots := [], t2exp := [],
    mem := [], ecc := [], eccCount := 0, tlbBad := 0, lineBad := 0, flips := [], msix := [], spdm := [],
    mgmtLog := [], parts := [], folds := [], cores := [], agenda := [], issued := [],
    cur := 0, issue := .done, latch := none, freeCtr := 0 }

end Sys2Proof.Machine
end

