-- ==== Sys2Proof/Machine/Paddock.lean ====
section
/-! DEFINITION. Paddock geometry (10 R251 to R254, 11 R283, R284): what a declaration says of a box, as functions of its
doublewords. -/

namespace Sys2Proof.Machine

/-- Bits `hi : lo` of a doubleword, as a number (R6). -/
def fld (w : Word) (hi lo : Nat) : Nat := (w.toNat / 2 ^ lo) % 2 ^ (hi - lo + 1)

/-- The signed reading of an `n`-bit number. -/
def sgn (n x : Nat) : Int := if 2 ^ (n - 1) ≤ x % 2 ^ n then (x % 2 ^ n : Int) - (2 ^ n : Nat) else (x % 2 ^ n : Nat)

/-- One dimension of a declaration: extent, margin depth, periodicity, and the block starts followed by the extent (R251). -/
structure PDim where
  ext : Nat
  mrg : Nat
  per : Bool
  nblk : Nat
  starts : List Nat
  deriving DecidableEq, Repr

/-- Doubleword i of a record. -/
def dw (ws : List Word) (i : Nat) : Word := ws.getD i 0

/-- The number of dimensions (R251). -/
def pdNdim (ws : List Word) : Nat := fld (dw ws 0) 7 6 + 1

/-- Dimension d of a declaration. -/
def pdDim (ws : List Word) (d : Nat) : PDim :=
  let n := fld (dw ws 2) (8 * d + 5) (8 * d)
  let e := fld (dw ws 1) (16 * d + 15) (16 * d)
  { ext := e, mrg := fld (dw ws 0) (4 * d + 19) (4 * d + 16), per := fld (dw ws 0) (8 + d) (8 + d) == 1, nblk := n,
    starts := (List.range n).map (fun j => fld (dw ws (4 + 8 * d + j / 4)) (16 * (j % 4) + 15) (16 * (j % 4))) ++ [e] }

/-- The dimensions of a declaration. -/
def pdDims (ws : List Word) : List PDim := (List.range (pdNdim ws)).map (pdDim ws)

/-- Element bytes of the declaration's format: FC 1 and 17 four, FC 2 and 3 two, FC 4, 5 and 15 one (R163). -/
def pdBytes (ws : List Word) : Nat :=
  let fc := fld (dw ws 0) 5 0
  if fc = 1 ∨ fc = 17 then 4 else if fc = 2 ∨ fc = 3 then 2 else 1

/-- All index vectors below the given extents, last index fastest. -/
def gridOf : List Nat → List (List Nat)
  | [] => [[]]
  | e :: es => (List.range e).flatMap fun i => (gridOf es).map (i :: ·)

/-- The launch core that owns the block at a grid position (R251, OWN). -/
def pdOwner (ws : List Word) (b : List Nat) : Nat :=
  let o := dw ws 28
  fld o 15 0 + b.getD 0 0 * fld o 31 16 + b.getD 1 0 * fld o 47 32 + b.getD 2 0 * fld o 63 48

/-- Every block of the grid. -/
def pdBlocks (ws : List Word) : List (List Nat) := gridOf ((pdDims ws).map (·.nblk))

/-- The block that launch core k owns. -/
def pdBlock (ws : List Word) (k : Nat) : Option (List Nat) := (pdBlocks ws).find? (fun b => pdOwner ws b == k)

/-- Owned length of block index b in a dimension (R252). -/
def PDim.own (d : PDim) (b : Nat) : Nat := d.starts.getD (b + 1) 0 - d.starts.getD b 0

/-- Box extents of a block (R252). -/
def pdBox (ws : List Word) (b : List Nat) : List Nat := (pdDims ws).zipWith (fun d j => d.own j + 2 * d.mrg) b

/-- Cells of a box. -/
def boxCells (box : List Nat) : Nat := box.foldl (· * ·) 1

/-- The box position of the cell with a given row-major number (R252). -/
def boxCoord : List Nat → Nat → List Nat
  | [], _ => []
  | _ :: es, i => let n := boxCells es; (i / n) :: boxCoord es (i % n)

/-- The row-major number of a box position. -/
def boxIndex : List Nat → List Nat → Nat
  | _ :: es, c :: cs => c * boxCells es + boxIndex es cs
  | _, _ => 0

/-- The class of box position l in a dimension of block index b: 0 low, 1 owned, 2 high (R253). -/
def PDim.cls (d : PDim) (b l : Nat) : Nat := if l < d.mrg then 0 else if l < d.mrg + d.own b then 1 else 2

/-- The global index of a box position, before wrap (R252). -/
def PDim.glob (d : PDim) (b l : Nat) : Int := (d.starts.getD b 0 : Int) - d.mrg + l

/-- The global index a cell stands for: none for a boundary index (R252). -/
def PDim.wrap (d : PDim) (g : Int) : Option Nat :=
  if 0 ≤ g ∧ g < d.ext then some g.toNat else if d.per then some (g % (d.ext : Int)).toNat else none

/-- The block index that owns a global index (R252). -/
def PDim.blockOf (d : PDim) (g : Nat) : Nat :=
  ((List.range d.nblk).filter fun j => d.starts.getD j 0 ≤ g).length - 1

/-- What a cell of a box is (R252): owned, boundary, or a ghost of an owned cell. -/
inductive Cell where
  | owned
  | boundary (face : Nat)
  | ghost (face owner : Nat) (glob : List Nat)
  deriving DecidableEq, Repr

/-- The kind of the cell at a box position of block b. -/
def pdCell (ws : List Word) (b pos : List Nat) : Cell :=
  let ds := pdDims ws
  let cls := (ds.zip (b.zip pos)).map fun x => x.1.cls x.2.1 x.2.2
  let face := cls.foldl (fun a t => 3 * a + t) 0
  if cls.all (· == 1) then .owned
  else
    let gs := (ds.zip (b.zip pos)).map fun x => x.1.wrap (x.1.glob x.2.1 x.2.2)
    if gs.any (·.isNone) then .boundary face
    else
      let g := gs.map (·.getD 0)
      .ghost face (pdOwner ws ((ds.zip g).map fun x => x.1.blockOf x.2)) g

/-- The local offset from the box of the owned cell with a global index, in its owner's box. -/
def pdHome (ws : List Word) (b g : List Nat) : Nat :=
  let ds := pdDims ws
  let pos := (ds.zip (b.zip g)).map fun x => x.2.2 - x.1.starts.getD x.2.1 0 + x.1.mrg
  boxIndex (pdBox ws b) pos * pdBytes ws

/-- Every box position of block b. -/
def pdPositions (ws : List Word) (b : List Nat) : List (List Nat) :=
  (List.range (boxCells (pdBox ws b))).map (boxCoord (pdBox ws b))

/-- The cells of the face tables' sub-box records at a receiver position (R284). -/
def SubBox.covers (r : SubBox) (pos : List Nat) : Bool :=
  (pos.zip (r.borg.zip r.ext)).all fun x => decide (x.2.1 ≤ x.1 ∧ x.1 < x.2.1 + x.2.2)

/-- The pieces (peer, face) whose arrivals write the cell at a position of the own box: the ghost's owner, or every record of the face
table that receives there (R254, R284). -/
def Paddock.piecesAt (p : Paddock) (b pos : List Nat) : List (Nat × Nat) :=
  if p.subs.isEmpty then
    match pdCell p.words b pos with
    | .ghost f o _ => [(o, f)]
    | _ => []
  else (p.subs.filter fun r => !r.sends && r.covers pos).map fun r => (r.peer, r.face)

/-- The cells of the piece for a face of launch core `peer`: position in the receiver's box, and global index (R254, R284). -/
def Paddock.pieceCells (p : Paddock) (peer face : Nat) : List (List Nat × List Nat) :=
  if p.subs.isEmpty then
    let b := (pdBlock p.words peer).getD []
    (pdPositions p.words b).filterMap fun pos =>
      match pdCell p.words b pos with
      | .ghost f o g => if o = p.k ∧ f = face then some (pos, g) else none
      | _ => none
  else
    (p.subs.filter fun r => r.sends && r.peer == peer && r.face == face).flatMap fun r =>
      (gridOf (r.ext.take (pdNdim p.words))).map fun d =>
        (d.zipWith (· + ·) r.borg, d.zipWith (· + ·) r.gorg)

/-- The stamp of a piece; 0 until it is set (R255). -/
def Paddock.stamp (p : Paddock) (peer face : Nat) : Nat :=
  ((p.stamps.find? fun x => x.1 == peer && x.2.1 == face).map (·.2.2)).getD 0

/-- The pieces a face receives (R254). -/
def Paddock.facePieces (p : Paddock) (b : List Nat) (f : Nat) : List Nat :=
  if p.subs.isEmpty then
    (pdPositions p.words b).flatMap fun pos => ((p.piecesAt b pos).filter fun x => x.2 == f).map (·.1)
  else (p.subs.filter fun r => !r.sends && r.face == f).map (·.peer)

/-- A face is fresh when its least stamp is G; one without pieces always is (R253, R257). -/
def Paddock.fresh (p : Paddock) (b : List Nat) (f : Nat) : Bool :=
  (p.facePieces b f).all fun o => p.stamp o f == p.gen

/-- The position of the cell that holds local byte `off`, for a box that contains it. -/
def Paddock.at (p : Paddock) (b : List Nat) (off : Nat) : Option (List Nat) :=
  let w := pdBytes p.words
  let n := boxCells (pdBox p.words b)
  if p.box ≤ off ∧ off < p.box + n * w then some (boxCoord (pdBox p.words b) ((off - p.box) / w)) else none

/-- Local byte `off` lies in a margin cell of the window (R258). -/
def Paddock.marginAt (p : Paddock) (b : List Nat) (off : Nat) : Bool :=
  match p.at b off with
  | none => false
  | some pos => decide (pdCell p.words b pos ≠ .owned)

/-- Local byte `off` lies in a cell of a stale face (R257). -/
def Paddock.staleAt (p : Paddock) (b : List Nat) (off : Nat) : Bool :=
  match p.at b off with
  | none => false
  | some pos => (p.piecesAt b pos).any fun x => !p.fresh b x.2

end Sys2Proof.Machine
end

