-- ==== Sys2Proof/Machine/Routes.lean ====
section
/-! DEFINITION. Routes over the mesh (01 R16, R18 to R20, 20 R384, R388): hops, link numbers, the fixed route and the escape route. -/

namespace Sys2Proof.Machine

/-- The router that port `d` of the router at fold f leads to (R384): 0 to 3 north, east, south, west; 4 and 5 the flumes. -/
def nextRouter (f d : Nat) : Option Nat :=
  let x := f % 32
  let y := f / 32
  match d with
  | 0 => if 0 < y then some (f - 32) else none
  | 1 => if x < 31 then some (f + 1) else none
  | 2 => if y < 23 then some (f + 32) else none
  | 3 => if 0 < x then some (f - 1) else none
  | 4 => if x < 28 then some (f + 4) else none
  | 5 => if 4 ≤ x then some (f - 4) else none
  | _ => none

/-- The port at which the router beyond port d receives. -/
def farPort (d : Nat) : Nat :=
  match d with
  | 0 => 2
  | 1 => 3
  | 2 => 0
  | 3 => 1
  | 4 => 5
  | _ => 4

/-- A link's number: 0 to 35 the scale-up ports; then 36 + 6 f + d for the east, south and east-flume links of fold f, which both
directions share. -/
def linkOf (f d : Nat) : Nat :=
  match d with
  | 0 => 36 + 6 * (f - 32) + 2
  | 3 => 36 + 6 * (f - 1) + 1
  | 5 => 36 + 6 * (f - 4) + 4
  | _ => 36 + 6 * f + d

/-- The port of the fixed route's next hop from f to g (R20): X first, by flume while four columns are left; then Y. -/
def fixedHop (f g : Nat) : Option Nat :=
  let x := f % 32
  let u := g % 32
  if x + 4 ≤ u then some 4
  else if x < u then some 1
  else if u + 4 ≤ x then some 5
  else if u < x then some 3
  else if f < g then some 2
  else if g < f then some 0
  else none

/-- The port of the escape route's next hop (R388): Y first, then X, over mesh hops. -/
def escapeHop (f g : Nat) : Option Nat :=
  if f / 32 < g / 32 then some 2
  else if g / 32 < f / 32 then some 0
  else if f < g then some 1
  else if g < f then some 3
  else none

/-- The links of a route from f to g by a rule for the next hop. -/
def routeLinks (hop : Nat → Nat → Option Nat) : Nat → Nat → Nat → List Nat
  | 0, _, _ => []
  | n + 1, f, g =>
    match hop f g with
    | none => []
    | some d => linkOf f d :: routeLinks hop n ((nextRouter f d).getD f) g

/-- The links of the fixed route (R20) and of the escape route (R388): at most 55 hops. -/
def fixedLinks (f g : Nat) : List Nat := routeLinks fixedHop 64 f g
def escapeLinks (f g : Nat) : List Nat := routeLinks escapeHop 64 f g

/-- A link is down. -/
def State.down (s : State) (k : Nat) : Bool := (mfind s.downLinks k).isSome

/-- A link of the device: a scale-up port, or a mesh, flume or die-to-die link that exists. -/
def linkExists (k : Nat) : Bool :=
  decide (k < 36) || (let f := (k - 36) / 6; let d := (k - 36) % 6; decide (f < 768) && [1, 2, 4].contains d && (nextRouter f d).isSome)

/-- The first down link on the way of a packet from f to g; `esc`: the packet may take the escape route, and then waits only where that is
down as well (R402). -/
def downWay (s : State) (f g : Nat) (esc : Bool) : Option Nat :=
  match (fixedLinks f g).find? s.down with
  | none => none
  | some k => if esc && ((escapeLinks f g).find? s.down).isNone then none else some k

/-- The first down link that holds back a packet from f to g, or the packet that answers it. -/
def downOn (s : State) (f g : Nat) (esc : Bool) : Option Nat :=
  if s.downLinks.isEmpty then none else (downWay s f g esc).orElse fun _ => downWay s g f esc

/-- The links that a packet from f to g takes: those of the fixed route, or, once it has moved to the escape channel, those of the escape
route, since it never moves back (R388). -/
def wayLinks (moved : Bool) (f g : Nat) : List Nat := if moved then escapeLinks f g else fixedLinks f g

/-- A packet from f to g and the packet that answers it can go on; `moved`: the one and the other have moved to the escape channel. -/
def routeUp (s : State) (f g : Nat) (moved : Bool × Bool) : Bool :=
  s.downLinks.isEmpty || !((wayLinks moved.1 f g ++ wayLinks moved.2 g f).any s.down)

/-- A packet from f to g has a fixed hop that has been blocked for 64 clk (R388). Hops are blocked by down links alone: the model has no
contention (log 94). -/
def hopBlocked (s : State) (f g : Nat) : Bool := (fixedLinks f g).any fun k => s.down k && decide (mget 0 s.downSince k + 64 ≤ s.clk)

/-- Which of a packet from f to g and its answer have moved to the escape channel once the next one that is blocked has (R388). -/
def escapes (s : State) (f g : Nat) (moved : Bool × Bool) : Option (Bool × Bool) :=
  if !moved.1 && hopBlocked s f g then some (true, moved.2) else if !moved.2 && hopBlocked s g f then some (moved.1, true) else none

/-- The router at which a Common slice attaches (R21). -/
def sliceFold (sl : Nat) : Nat := if sl < 32 then sl else 23 * 32 + (sl - 32)

end Sys2Proof.Machine
end

