-- ==== Sys2Proof/Machine/Memory.lean ====
section
/-! DEFINITION. Places and accesses: resource numbering (01 R16, R17, R25 to R29), the one memory of (place, byte) cells (10 R245,
R249, R419), page walks and TLBs (10 R247, R248), windows and the checks of an access (06 R153, R154), and own local memory with
its valid bits and journal (10 R241 to R244). -/

namespace Sys2Proof.Machine

/-- How an attempt ends before a next state: a trap with its cause, EINFO fields and the deferred error it takes (queue 0 to 7, or
8 for the drove); held before issue; or a stall of its own, with what it has done (R98). -/
structure Trap where
  cause : BitVec 8
  acc : BitVec 2
  val : Bool
  data : Nat
  deferred : Option Nat
  /-- What is left of State.flips where the readings of a CRIT leaf caused the trap (R364). -/
  flips : Option (List Bool) := none
  deriving DecidableEq, Repr

/-- The ways in which a slot instruction does not complete. -/
inductive Stop where
  | trap (t : Trap)
  | hold
  | stall (s : State)
  deriving DecidableEq, Repr

/-- A result of an attempt. -/
abbrev Res (α : Type) := Except Stop α

/-- The causes of R346. -/
def cILLEGAL : BitVec 8 := 0x01
def cPAIR : BitVec 8 := 0x02
def cPRIVILEGED : BitVec 8 := 0x03
def cMISALIGN : BitVec 8 := 0x04
def cTRANSLATION : BitVec 8 := 0x05
def cPERMISSION : BitVec 8 := 0x06
def cTAG : BitVec 8 := 0x07
def cUNINIT : BitVec 8 := 0x08
def cGHOST : BitVec 8 := 0x09
def cSTALE : BitVec 8 := 0x0A
def cLATE : BitVec 8 := 0x0B
def cSLOT : BitVec 8 := 0x0C
def cMXCAP : BitVec 8 := 0x0D
def cUNCORR : BitVec 8 := 0x0E
def cYOKE : BitVec 8 := 0x0F
def cWATCHDOG : BitVec 8 := 0x10
def cSTREAM : BitVec 8 := 0x12
def cDETERM : BitVec 8 := 0x14
def cBREAK : BitVec 8 := 0x16
def cMACRO : BitVec 8 := 0x18
def cCHANNEL : BitVec 8 := 0x19
def cDROVE : BitVec 8 := 0x1A
def cDEADLINE : BitVec 8 := 0x1B

/-- A trap whose EINFO holds no address (R346, ACC 0b11). -/
def trapC (c : BitVec 8) : Stop := .trap { cause := c, acc := 3, val := false, data := 0, deferred := none }

/-- A trap of an access at an address (R347): ACC 0b01 for a write, 0b00 for a read. -/
def trapA (c : BitVec 8) (write : Bool) (a : Nat) : Stop :=
  .trap { cause := c, acc := if write then 1 else 0, val := true, data := a % 2 ^ 48, deferred := none }

/-- Fails with `e` unless the condition holds. -/
def need (b : Bool) (e : Stop) : Res Unit := if b then .ok () else .error e

/-! ## Tables of the device -/

def State.core (s : State) (c : Nat) : Core := mget Core.idle s.cores c
def State.setCore (s : State) (c : Nat) (v : Core) : State := { s with cores := mput s.cores c v }
def State.updCore (s : State) (c : Nat) (f : Core → Core) : State := s.setCore c (f (s.core c))
def State.fold (s : State) (f : Nat) : Fold := mget Fold.idle s.folds f
def State.setFold (s : State) (f : Nat) (v : Fold) : State := { s with folds := mput s.folds f v }
def State.updFold (s : State) (f : Nat) (g : Fold → Fold) : State := s.setFold f (g (s.fold f))
def State.part (s : State) (p : Nat) : Part := mget Part.reset s.parts p
def State.setPart (s : State) (p : Nat) (v : Part) : State := { s with parts := mput s.parts p v }
def State.updPart (s : State) (p : Nat) (f : Part → Part) : State := s.setPart p (f (s.part p))

/-- The core whose packet is being issued. -/
def State.me (s : State) : Core := s.core s.cur
def State.setMe (s : State) (v : Core) : State := s.setCore s.cur v
def State.updMe (s : State) (f : Core → Core) : State := s.updCore s.cur f

/-- The fold of a device core (R17). -/
def foldOf (c : Nat) : Nat := c / 8

/-- The die of a device fold (R16). -/
def dieOf (f : Nat) : Nat := 2 * (f / 32 / 12) + f % 32 / 16

/-- The dies of partition p (R25, R26). -/
def partDies : Layout → Nat → List Nat
  | .whole, 0 => [0, 1, 2, 3]
  | .topBottom, 0 => [0, 1]
  | .topBottom, 1 => [2, 3]
  | .westEast, 0 => [0, 2]
  | .westEast, 1 => [1, 3]
  | .quarters, p => if p < 4 then [p] else []
  | _, _ => []

/-- The number of partitions of a layout. -/
def nparts : Layout → Nat
  | .whole => 1
  | .topBottom => 2
  | .westEast => 2
  | .quarters => 4

/-- The enabled folds of a partition in increasing device number (R29). -/
def partFolds (s : State) (p : Nat) : List Nat :=
  (List.range 768).filter fun f => (partDies s.layout p).contains (dieOf f) && !s.nv.fused.contains f

/-- The scale-up ports of partition p (R26, R399). -/
def partPorts (s : State) (p : Nat) : List Nat := (partDies s.layout p).flatMap fun d => span (9 * d) 9

/-- A link is up: a port that is UP, another link that is not down. -/
def linkUp (s : State) (k : Nat) : Bool := linkExists k && !s.down k && (decide (36 ≤ k) || fld (mget 0 s.ports k) 0 0 == 1)

/-- A place is host memory. -/
def isHost (key : Nat) : Bool := decide (key / 2 ^ 64 = 3)

/-- The device fold of a partition-logical fold (R29); the identity on a whole device without fused-off folds (R17). -/
def devFold (s : State) (p t : Nat) : Nat :=
  if s.layout = .whole ∧ s.nv.fused = [] then t else (partFolds s p).getD t 768

/-- The number of logical folds of a partition. -/
def nFolds (s : State) (p : Nat) : Nat :=
  if s.layout = .whole ∧ s.nv.fused = [] then 768 else (partFolds s p).length

/-- The partition-logical fold of a device fold. -/
def logFold (s : State) (p f : Nat) : Nat :=
  if s.layout = .whole ∧ s.nv.fused = [] then f else (partFolds s p).findIdx (· == f)

/-- The device core of a partition-logical core. -/
def devCore (s : State) (p lc : Nat) : Nat := 8 * devFold s p (lc / 8) + lc % 8

/-- The partition that a device fold belongs to. -/
def partOfFold (s : State) (f : Nat) : Nat :=
  ((List.range (nparts s.layout)).find? fun p => (partDies s.layout p).contains (dieOf f)).getD 0

/-- The launch in a block of a partition. -/
def State.launch (s : State) (p b : Nat) : Option Launch := mfind (s.part p).launches b

/-- The launch that a core's unit or routine belongs to, or whose entries it still performs after a cancel (R237, R289). -/
def Core.launchOf (c : Core) (s : State) : Option Launch :=
  match c.occ with
  | some o => s.launch o.part o.blk
  | none => c.orphanOf.bind fun x => s.launch x.1 x.2

/-- The partition-logical core of launch core k (R50). -/
def Launch.lcore (l : Launch) (k : Nat) : Nat := if l.map = [] then 8 * l.fbase + k else l.map.getD k 0

/-- The device core of launch core k of a launch. -/
def launchCore (s : State) (p : Nat) (l : Launch) (k : Nat) : Nat := devCore s p (l.lcore k)

/-- A management core of the Steading (R23), which runs in system mode (R359). -/
def isMgmt (c : Nat) : Bool := decide (6144 ≤ c ∧ c < 6148)

/-- The core runs a compute routine of a flagged launch (R59, R138). -/
def Core.inCompute (c : Core) : Bool :=
  match c.occ with
  | some o => o.flagged && !o.xrout
  | none => false

/-- The core runs a routine of a flagged launch. -/
def Core.inFlagged (c : Core) : Bool :=
  match c.occ with
  | some o => o.flagged
  | none => false

/-- A control register's stored value (R135). -/
def Core.ctl (c : Core) (n : Nat) : Word := mget 0 c.r.ctl n
def Core.setCtl (c : Core) (n : Nat) (v : Word) : Core := { c with r := { c.r with ctl := mset 0 c.r.ctl n v } }

/-- Writes bits hi:lo of a doubleword. -/
def putFld (w : Word) (hi lo v : Nat) : Word :=
  BitVec.ofNat 64 (w.toNat - fld w hi lo * 2 ^ lo + v % 2 ^ (hi - lo + 1) * 2 ^ lo)

/-! ## Bytes -/

/-- The place key of address a in a space: 0 HBM, 1 the Common, 2 tier 2, 3 host, 4 local memories, 5 the Steading's 2 MiB of SRAM,
6 its boot ROM (R23; log 6). -/
def place (space a : Nat) : Nat := space * 2 ^ 64 + a

/-- What a byte that no agent has written reads as (R419; log 6). -/
def unlisted (key : Nat) : Byte := if key < 2 * 2 ^ 64 then 0xFF else 0x00

/-- The byte at a place. -/
def State.byte (s : State) (key : Nat) : Byte := mget (unlisted key) s.mem key

/-- Bytes under one check code: a local word of 32 bits, elsewhere 64 bits (R240, R246). -/
def codeBytes (key : Nat) : Nat := if key / 2 ^ 64 = 4 then 4 else 8

/-- The soft-error mark of a byte: its word's number, or the number of the first word of its 64 bits. -/
def codeIx (key : Nat) : Nat := key / codeBytes key * (codeBytes key / 4)

/-- A soft-error mark lies under one of n bytes from a key. -/
def codeHit (e key n : Nat) : Bool := decide (e * 4 < key + n ∧ key < e * 4 + codeBytes (e * 4))

/-- Writes one byte, keeping the canonical form; the word's soft-error mark goes with the new check code. -/
def State.setByte (s : State) (key : Nat) (b : Byte) : State :=
  { s with mem := mset (unlisted key) s.mem key b, ecc := mdel s.ecc (codeIx key) }

/-- The bytes at n places from a key. -/
def State.bytes (s : State) (key n : Nat) : List Byte := (List.range n).map fun i => s.byte (key + i)

/-- Writes a list of bytes from a key. -/
def State.setBytes (s : State) (key : Nat) : List Byte → State
  | [] => s
  | b :: bs => (s.setByte key b).setBytes (key + 1) bs

/-- The canonical form of a memory: addresses strictly rising, and no cell that equals what an unlisted one reads as. -/
def Memory.wf (m : List Host.Cell) : Bool := msorted m && m.all fun c => decide (c.2 ≠ unlisted c.1)

/-- Bytes as a little-endian number (R6). -/
def leNat : List Byte → Nat
  | [] => 0
  | b :: bs => b.toNat + 256 * leNat bs

/-- The n low bytes of a number, lowest first. -/
def leBytes : Nat → Nat → List Byte
  | 0, _ => []
  | n + 1, x => BitVec.ofNat 8 x :: leBytes n (x / 256)

/-- A word with an uncorrectable error lies under one of n bytes from a key (R240, R246). -/
def State.bad (s : State) (key n : Nat) : Bool :=
  s.ecc.any fun e => e.2 && codeHit e.1 key n

/-- Corrected errors read with n bytes from a key are counted (R240). -/
def State.countEcc (s : State) (key n : Nat) : State :=
  { s with eccCount := s.eccCount + (s.ecc.filter fun e => !e.2 && codeHit e.1 key n).length }

/-- The slices of a partition in increasing number: sixteen to a die (R21). -/
def partSlice (s : State) (p k : Nat) : Nat := 16 * (partDies s.layout p).getD (k / 16) 0 + k % 16

/-- The place of HBM physical address q of a partition (R249): the k-th slice, and the position in what it fronts (log 22). -/
def hbmKey (s : State) (p q : Nat) : Nat :=
  let n := 16 * (partDies s.layout p).length
  place 0 (partSlice s p (q / 2048 % n) * 2 ^ 33 + q / (2048 * n) * 2048 + q % 2048)

/-- Bytes of a partition's HBM physical space. -/
def hbmSize (s : State) (p : Nat) : Nat := (partDies s.layout p).length * 2 * 2 ^ 36

/-- The place of offset o in a partition's Common window (R245). -/
def commonKey (s : State) (p o : Nat) : Nat := place 1 ((partDies s.layout p).getD (o / 2 ^ 26) 0 * 2 ^ 26 + o % 2 ^ 26)

/-- Bytes of a partition's Common window. -/
def commonSize (s : State) (p : Nat) : Nat := (partDies s.layout p).length * 2 ^ 26

/-- The GiB that each device port's expander adds to its partition's space (R406): its capacity, as far as the spaces of all partitions
together hold at most 16 TiB, in increasing port (log 11). -/
def t2sizes (s : State) : List Nat :=
  ((List.range 8).foldl (fun (acc : List Nat × Nat) i =>
    let g := min (((mfind s.t2exp i).map (·.2)).getD 0) (16384 - acc.2)
    (acc.1 ++ [g], acc.2 + g)) ([], 0)).1

/-- The expanders of a partition in increasing port: expander, first GiB, GiB (R406). -/
def t2space (s : State) (p : Nat) : List (Nat × Nat × Nat) :=
  let n := 8 / nparts s.layout
  ((List.range n).foldl (fun acc j =>
    match mfind s.t2exp (n * p + j) with
    | some (e, _) => let g := (t2sizes s).getD (n * p + j) 0; (acc.1 ++ [(e, acc.2, g)], acc.2 + g)
    | none => acc) ([], 0)).1

/-- The place of tier-2 physical address a of a partition, if an expander holds it. -/
def t2Key (s : State) (p a : Nat) : Option Nat :=
  ((t2space s p).find? fun x => decide (x.2.1 * 2 ^ 30 ≤ a ∧ a < (x.2.1 + x.2.2) * 2 ^ 30)).map fun x =>
    place 2 (x.1 * 2 ^ 44 + (a - x.2.1 * 2 ^ 30))

/-- The place of a physical address tagged with its target (R248: 0 HBM, 1 tier 2, 2 host), as target·2^64 + address. -/
def physKey (s : State) (p ph : Nat) : Option Nat :=
  let a := ph % 2 ^ 64
  match ph / 2 ^ 64 with
  | 0 => if a < hbmSize s p then some (hbmKey s p a) else none
  | 1 => t2Key s p a
  | _ => some (place 3 a)

/-- The place of local byte `off` of a device core (log 6). -/
def localKey (c off : Nat) : Nat := place 4 (c * 2 ^ 18 + off)

/-! ## Routes to places -/

/-- The home slice of a place for a partition (R245, R249): tier 2 and host by the formula of R249. -/
def homeSlice (s : State) (p key : Nat) : Nat :=
  let n := 16 * (partDies s.layout p).length
  let a := key % 2 ^ 64
  match key / 2 ^ 64 with
  | 0 => a / 2 ^ 33
  | 1 => 16 * (a / 2 ^ 26) + a / 256 % 16
  | 2 =>
    let first := ((t2space s p).find? fun x => x.1 == a / 2 ^ 44).map (·.2.1)
    partSlice s p ((first.getD 0 * 2 ^ 30 + a % 2 ^ 44) / 2048 % n)
  | _ => partSlice s p (a / 2048 % n)

/-- The partition in which a core works. -/
def corePart (s : State) (c : Nat) : Nat :=
  match (s.core c).occ with
  | some o => o.part
  | none => if isMgmt c then 0 else partOfFold s (foldOf c)

/-- Accesses of core c keep the fixed route: those of a deterministic launch (R20). -/
def fixedOnly (s : State) (c : Nat) : Bool := (((s.core c).launchOf s).map (·.det)).getD false

/-- The fold at whose router an access of core c to a place ends. -/
def keyFold (s : State) (c key : Nat) : Nat :=
  if key / 2 ^ 64 = 4 then foldOf (key % 2 ^ 64 / 2 ^ 18) else sliceFold (homeSlice s (corePart s c) key)

/-- The requests of a core that ESCAPE_MOVE names beside its loads: the oldest buffered store, the page walk and the code fetch that its
packet waits for, the entry at the head of a queue, and the next element of a stream (R388). -/
def reqStore : Nat := 0
def reqWalk : Nat := 1
def reqFetch : Nat := 2
def reqPacket : Nat := 3
def reqQueue (q : Nat) : Nat := 8 + q
def reqStream (b : Nat) : Nat := 16 + b

/-- Request i of core c, and its answer, have moved to the escape channel (R388). -/
def State.escaped (s : State) (c i : Nat) : Bool × Bool := ((s.core c).escapes.contains (2 * i), (s.core c).escapes.contains (2 * i + 1))

/-- A load or AMO, and its answer, have moved to the escape channel. -/
def Load.moved (l : Load) : Bool × Bool := (l.escape, l.back)

/-- A request of a core has ended: the next one of its kind begins on the fixed route (R388). -/
def Core.landed (k : Core) (i : Nat) : Core :=
  { k with escapes := k.escapes.filter (· / 2 != i), hostSince := k.hostSince.filter fun x => x.1 != i }

/-- The down link that holds back an access of core c to a place, or its answer (R402): one on the escape channel never moves back (R388). -/
def State.heldAt (s : State) (c key : Nat) (moved : Bool × Bool) : Option Nat :=
  if s.downLinks.isEmpty then none
  else
    let f := foldOf c
    let g := keyFold s c key
    let way (m : Bool) (f g : Nat) : Option Nat := if m then (escapeLinks f g).find? s.down else downWay s f g (!fixedOnly s c)
    (way moved.1 f g).orElse fun _ => way moved.2 g f

/-- An access of core c to a place can go on. -/
def State.mayGo (s : State) (c key : Nat) (moved : Bool × Bool) : Bool := routeUp s (foldOf c) (keyFold s c key) moved

/-! ## Page walks -/

/-- A leaf that a walk found: tagged physical page, page size, W, CRIT, TGT. -/
structure Leaf where
  phys : Nat
  size : Nat
  w : Bool
  crit : Bool
  tgt : Nat
  deriving DecidableEq, Repr

/-- Why a walk found no leaf: no valid mapping (R248), or a read of a table that failed (R364). -/
inductive WalkFail where
  | unmapped
  | uncorrectable
  deriving DecidableEq, Repr

/-- The page size of a leaf at a level. -/
def levelSize : Nat → Nat
  | 2 => 2 ^ 30
  | 3 => 2 ^ 21
  | _ => 2 ^ 16

/-- The index of an address at a level (R247). -/
def levelIndex (level va : Nat) : Nat :=
  match level with
  | 1 => va / 2 ^ 39 % 512
  | 2 => va / 2 ^ 30 % 512
  | 3 => va / 2 ^ 21 % 512
  | _ => va / 2 ^ 16 % 32

/-- The walk from a table (R247, R248); `fuel` is the number of levels left, 4 at the root. -/
def walkFrom (s : State) (p va : Nat) : Nat → Nat → Except WalkFail Leaf
  | 0, _ => .error .unmapped
  | fuel + 1, table =>
    let level := 4 - fuel
    let ea := table + 8 * levelIndex level va
    if hbmSize s p < ea + 8 then .error .unmapped
    else if s.bad (hbmKey s p ea) 8 then .error .uncorrectable
    else
      let e := leNat (s.bytes (hbmKey s p ea) 8)
      let w : Word := BitVec.ofNat 64 e
      let pa := fld w 47 8 * 256
      let leaf := fld w 2 2 == 1
      let tgt := fld w 59 58
      let size := levelSize level
      if fld w 0 0 = 0 ∨ fld w 62 60 ≠ 0 ∨ fld w 57 48 ≠ 0 ∨ fld w 7 3 ≠ 0 then .error .unmapped
      else if leaf then
        if level = 1 ∨ tgt = 3 ∨ pa % size ≠ 0 ∨ (tgt = 1 ∧ fld (s.part p).facc 14 14 = 0) then .error .unmapped
        else
          match physKey s p (tgt * 2 ^ 64 + pa), physKey s p (tgt * 2 ^ 64 + pa + size - 1) with
          | some _, some _ =>
            .ok { phys := tgt * 2 ^ 64 + pa, size := size, w := fld w 1 1 == 1, crit := fld w 63 63 == 1, tgt := tgt }
          | _, _ => .error .unmapped
      else if level = 4 ∨ tgt ≠ 0 ∨ (level < 3 ∧ pa % 4096 ≠ 0) then .error .unmapped
      else walkFrom s p va fuel pa

/-- The root of the tables that a core's accesses use: its job's (R61); none for a management core, whose global addresses are
HBM physical addresses (log 23). -/
def Core.job (c : Core) (s : State) : Nat := ((c.launchOf s).map (·.job)).getD 0

/-- The places of the table entries that a walk reads (R247). -/
def walkKeysFrom (s : State) (p va : Nat) : Nat → Nat → List Nat
  | 0, _ => []
  | fuel + 1, table =>
    let ea := table + 8 * levelIndex (4 - fuel) va
    if hbmSize s p < ea + 8 then []
    else
      let w : Word := BitVec.ofNat 64 (leNat (s.bytes (hbmKey s p ea) 8))
      hbmKey s p ea :: if fld w 0 0 = 0 ∨ fld w 2 2 = 1 then [] else walkKeysFrom s p va fuel (fld w 47 8 * 256)

/-- The places of the table entries that a walk for a job reads. -/
def walkKeys (s : State) (p job va : Nat) : List Nat := walkKeysFrom s p va 4 (mget Job.reset (s.part p).jobs job).ptroot

/-- A fresh walk for a job of a partition (R247). -/
def walk (s : State) (p job va : Nat) : Except WalkFail Leaf :=
  walkFrom s p va 4 (mget Job.reset (s.part p).jobs job).ptroot

/-- Both pairs of readings of a CRIT leaf differ (R364; log 96). -/
def State.critFails (s : State) : Bool :=
  match s.flips with
  | true :: true :: _ => true
  | _ => false

/-- The pairs of readings that a walk to a CRIT leaf makes have been made (R364). -/
def State.critRead (s : State) : State :=
  match s.flips with
  | true :: _ :: fs => { s with flips := fs }
  | [true] => { s with flips := [] }
  | _ :: fs => { s with flips := fs }
  | [] => s

/-- The walk for an access of a core or an engine, with the readings of a CRIT leaf compared (R364). -/
def critWalk (s : State) (p job va : Nat) : Except WalkFail Leaf × State :=
  match walk s p job va with
  | .ok l => if l.crit then (if s.critFails then .error .uncorrectable else .ok l, s.critRead) else (.ok l, s)
  | .error e => (.error e, s)

/-- The TLB entry of a core that maps an address for a job. -/
def tlbFind (es : List TlbEntry) (job va : Nat) : Option TlbEntry :=
  es.find? fun e => e.job == job && decide (e.base ≤ va ∧ va < e.base + e.size)

/-- The TLB entry of a leaf. -/
def Leaf.entry (l : Leaf) (job va : Nat) : TlbEntry :=
  { parity := false, job := job, base := va / l.size * l.size, size := l.size, key := l.phys, w := l.w, crit := l.crit }

/-- Unanswered entries of a partition's fault queue (R404): the cores' faults, and those of engine entries. -/
def fqOpen (s : State) (p : Nat) : Nat :=
  let one (f : Option TransFault) : Nat := match f with
    | some f => if f.seq.isSome && f.answer.isNone then 1 else 0
    | none => 0
  (s.cores.filter fun x => corePart s x.1 == p).foldl (fun n x =>
    n + one x.2.tfault + (x.2.queues.flatMap fun q => q.2.entries.map fun e => match e with
      | .matrix m => one m.faulted
      | .copy m => one m.faulted).foldl (· + ·) 0) 0

/-- A translation fault of core c begins (R365): with FACC bit 1 = 0 it is posted to the host's fault queue, where there is room
(R404), and MSI-X vector 2 is raised. That TAIL wraps at the ring's size is the model's choice (log 126). -/
def beginFault (s : State) (c va : Nat) (acc : BitVec 2) : TransFault × State :=
  let p := corePart s c
  let q := s.part p
  let f : TransFault := { va := va, acc := acc, answer := none, seq := none }
  if fld q.facc 1 1 = 1 ∨ 2 ^ q.fqLog ≤ fqOpen s p then (f, s)
  else
    let at_ := place 3 (q.fqBase.toNat + 32 * (q.fqTail.toNat % 2 ^ q.fqLog))
    let k := s.core c
    let w1 := k.job s + ((k.occ.map (·.k)).getD 0) * 2 ^ 12 + acc.toNat * 2 ^ 26
    let s := s.setBytes at_ (leBytes 8 (va % 2 ^ 48) ++ leBytes 8 w1 ++ leBytes 8 q.fqSeq.toNat ++ leBytes 8 0)
    let s := s.setPart p { q with fqTail := BitVec.ofNat 32 ((q.fqTail.toNat + 1) % 2 ^ q.fqLog), fqSeq := q.fqSeq + 1 }
    ({ f with seq := some q.fqSeq.toNat }, { s with msix := s.msix ++ [(p, 2)] })

/-- No down link holds back a walk that request i of core c needs: its own for reqWalk, or an engine's or the stream unit's (R402). -/
def walkUp (s : State) (c i va : Nat) : Bool :=
  s.downLinks.isEmpty || (walkKeys s (corePart s c) ((s.core c).job s) va).all fun key => s.mayGo c key (s.escaped c i)

/-- An entry found with bad parity is invalidated and counted (R364). -/
def dropBad (s : State) (c va : Nat) : State :=
  match tlbFind (s.core c).tlb ((s.core c).job s) va with
  | some e => if e.parity then { s.updCore c fun k => { k with tlb := k.tlb.erase e } with tlbBad := s.tlbBad + 1 } else s
  | none => s

/-- The translation of a global address for core c: from its TLB, or by a walk whose leaf enters the TLB (R248; log 11). A
failed walk is resolved first (R365): the fault is recorded and the access stalls until TRANSLATION_RESOLVE or the host's answer. A walk
that a down link holds back waits (R402). -/
def translate (s : State) (c va : Nat) (acc : BitVec 2) : Res (TlbEntry × State) :=
  let k := s.core c
  let job := k.job s
  let p := corePart s c
  let start : Res (TlbEntry × State) :=
    let (f, s) := beginFault s c va acc
    .error (.stall (s.updCore c fun k => { k with tfault := some f }))
  if isMgmt c then .ok ({ parity := false, job := 0, base := 0, size := 2 ^ 48, key := 0, w := true, crit := false }, s)
  else
    let s := dropBad s c va
    let k := s.core c
    match tlbFind k.tlb job va with
    | some e => .ok (e, s)
    | none =>
      let mine := k.tfault.filter fun f => decide (f.va = va)
      match mine.bind (·.answer), mine with
      | some false, _ => .error (.trap { cause := cTRANSLATION, acc := acc, val := true, data := va, deferred := none })
      | none, some f => if f.seq.isSome ∨ fld (s.part p).facc 1 1 = 1 then .error (.stall s) else start
      | _, _ =>
        if !walkUp s c reqWalk va then .error (.stall (s.updCore c fun k => { k with walkWait := some va }))
        else
        match critWalk s p job va with
        | (.ok l, s) =>
          let e := l.entry job va
          .ok (e, s.updCore c fun k => { k.landed reqWalk with tlb := e :: k.tlb, tfault := none, walkWait := none })
        | (.error .uncorrectable, s) =>
          .error (.trap { cause := cUNCORR, acc := acc, val := true, data := va, deferred := none, flips := some s.flips })
        | (.error .unmapped, _) => start

/-! ## Windows and own local memory -/

/-- The windows of R153. -/
inductive Window where
  | global | eventUnit | common | otherLocal | ownLocal | none
  deriving DecidableEq, Repr

/-- Base addresses of the windows. -/
def localBase : Nat := 0x7F0000000000
def commonBase : Nat := 0x7D0000000000
def eventBase : Nat := 0x7C0000000000
def peerBase : Nat := 0x7E0000000000

/-- The window of an address (R153). -/
def windowOf (v : Nat) : Window :=
  if v < 0x700000000000 then .global
  else if eventBase ≤ v ∧ v < eventBase + 2 ^ 40 then .eventUnit
  else if commonBase ≤ v ∧ v < commonBase + 2 ^ 28 then .common
  else if peerBase ≤ v ∧ v < 0x7E00C0000000 then .otherLocal
  else if localBase ≤ v ∧ v < localBase + 2 ^ 18 then .ownLocal
  else .none

/-- Local bytes reserved for the launch on this core (R62); a management core has none. -/
def Core.lmem (c : Core) (s : State) : Nat := ((c.launchOf s).map (·.lmem)).getD 0
def Core.stackBytes (c : Core) (s : State) : Nat := ((c.launchOf s).map (·.stack)).getD 0

/-- The block of a paddock declaration that the window's core owns. -/
def Paddock.block (p : Paddock) : List Nat := (pdBlock p.words p.k).getD []

/-- Local byte `off` lies in a margin cell of a bound window (R258). -/
def Core.marginAt (c : Core) (off : Nat) : Bool := c.padds.any fun x => x.2.marginAt x.2.block off

/-- The bound window in which local byte `off` is stale (R257). -/
def Core.staleAt (c : Core) (off : Nat) : Option Nat :=
  (c.padds.find? fun x => x.2.staleAt x.2.block off).map (·.1)

/-- The local offset of the owned cell with global index g in a window's box. -/
def Paddock.homeOf (p : Paddock) (g : List Nat) : Nat := p.box + pdHome p.words p.block g

/-- Local byte `off` lies in an owned cell that a MUSTER message has not read yet (R256). -/
def Core.lentAt (c : Core) (off : Nat) : Bool :=
  c.pieces.any fun m =>
    match mfind c.padds m.win with
    | none => false
    | some p => (p.pieceCells m.peer m.face).any fun x =>
        decide (p.homeOf x.2 ≤ off ∧ off < p.homeOf x.2 + pdBytes p.words)

/-- The valid bit of the local word that holds byte `off` (R242). -/
def Core.validAt (c : Core) (off : Nat) : Bool := mget false c.valid (off / 4)

/-- Saves the line of local byte `off` in the journal at its first write of the epoch (R243, R244): the copy reads the line, so its
corrected errors count (R240), and an uncorrectable one is met when the line is restored (R369). The spec gives the spill area no address; it
is `jspill`, and no byte of HBM (log 115). -/
def journalLine (s : State) (c off : Nat) : State :=
  let k := s.core c
  let line := off / 64
  if fld (k.ctl 0x020) 8 8 = 0 ∨ k.journal.any (·.line == line) ∨ k.jspill.any (·.line == line) then s
  else
    let key := localKey c (64 * line)
    let lost := s.bad key 64
    let s := s.countEcc key 64
    let e : JEntry := { line := line, bytes := s.bytes key 64,
                        valid := (List.range 16).map fun i => mget false k.valid (16 * line + i) }
    let full := k.journal.length = 1024
    let j := if full then k.journal.take 512 else k.journal
    let sp := if full then k.journal.drop 512 ++ k.jspill else k.jspill
    let l := putFld (putFld (k.ctl 0x020) 20 10 (j.length + 1)) 9 9 (if full then 1 else fld (k.ctl 0x020) 9 9)
    s.setCore c ({ k with journal := e :: j, jspill := sp, snapBad := k.snapBad || lost }.setCtl 0x020 l)

/-- Writes one local byte: an invalid word's other bytes become zero and the word valid (R155, R242). -/
def setLocalByte (s : State) (c off : Nat) (b : Byte) : State :=
  let s := journalLine s c off
  let k := s.core c
  let w := off / 4
  let s := if mget false k.valid w then s
    else (s.setBytes (localKey c (4 * w)) [0, 0, 0, 0]).setCore c { k with valid := mset false k.valid w true }
  s.setByte (localKey c off) b

/-- Writes local bytes from an offset. -/
def setLocal (s : State) (c off : Nat) : List Byte → State
  | [] => s
  | b :: bs => setLocal (setLocalByte s c off b) c (off + 1) bs

/-- Local bytes as loads see them: zero for an invalid word (R242). -/
def localBytes (s : State) (c off n : Nat) : List Byte :=
  (List.range n).map fun i => if (s.core c).validAt (off + i) then s.byte (localKey c (off + i)) else 0

/-- Clears the valid bits of the words under n local bytes, which counts as a write for the journal (R242, R281). -/
def invalidate (s : State) (c off n : Nat) : State :=
  (List.range (n / 4)).foldl (fun s i =>
    let s := journalLine s c (off + 4 * i)
    s.updCore c fun k => { k with valid := mset false k.valid (off / 4 + i) false }) s

/-- The least of some offsets that meets a condition. -/
def leastOf (xs : List Nat) (f : Nat → Bool) : Option Nat := (xs.filter f).min?

/-- The first of n local bytes that lies in an invalid word. -/
def firstInvalid (k : Core) (off n : Nat) : Option Nat := (span off n).find? fun a => !k.validAt a

/-- Count mode of LMC (R242): one more in UCNT, and the first invalid word logged. -/
def countUninit (k : Core) (off : Nat) : Core :=
  let l := k.ctl 0x020
  let l := putFld l 63 48 (min 0xFFFF (fld l 63 48 + 1))
  let l := if fld l 31 31 = 0 then putFld (putFld l 47 32 (off / 4)) 31 31 1 else l
  k.setCtl 0x020 l

/-- Count mode of PDC (R257): one more in PDCNT, and the first stale byte logged. -/
def countStale (k : Core) (win off : Nat) : Core :=
  let n := k.ctl 0x027
  let k := k.setCtl 0x027 (BitVec.ofNat 64 (min 0xFFFFFFFF (n.toNat + 1)))
  let l := k.ctl 0x026
  if fld l 63 63 = 1 then k
  else k.setCtl 0x026 (BitVec.ofNat 64 (2 ^ 63 + win * 2 ^ 48 + (localBase + off)))

/-! ## The checks of an access -/

/-- The address of a fat pointer plus a signed offset: TAG when bits 53:48 are not zero or the sum leaves 48 bits (R150, R152). -/
def ptrAdd (p : Word) (off : Int) : Res Nat :=
  let v : Int := (fld p 47 0 : Nat) + off
  if fld p 53 48 ≠ 0 ∨ v < 0 ∨ 2 ^ 48 ≤ v then .error (trapC cTAG) else .ok v.toNat

/-- Fields of a fat pointer (R151). -/
def ptrFc (p : Word) : Nat := fld p 63 58
def ptrBl (p : Word) : Nat := fld p 57 54
def ptrAddr (p : Word) : Nat := fld p 47 0

/-- The page (64 KiB) of an address, and the kept translations: page to tagged physical address (R200, R231, R267). -/
def pageOf (v : Nat) : Nat := v / 2 ^ 16

/-- The checks of R154 on the bytes of one word: orders 1 to 8, with the translation taken; a trap names the word (R347). `det` is what
order 1 bars: any address but own local. A read in count mode passes. -/
def checkWord (s : State) (c v n : Nat) (write det : Bool) : Res (Option TlbEntry × State) := do
  let k := s.core c
  let acc : BitVec 2 := if write then 1 else 0
  let trap (cause : BitVec 8) : Stop := trapA cause write (v / 4 * 4)
  match windowOf v with
  | .ownLocal =>
    let off := v - localBase
    need (decide (off + n ≤ k.lmem s)) (trap cPERMISSION)
    if write then do
      need (!(span off n).any fun a => k.marginAt a) (trap cGHOST)
      .ok (none, s)
    else do
      need (decide (fld (k.ctl 0x021) 1 0 ≠ 2) || !(span off n).any fun a => (k.staleAt a).isSome) (trap cSTALE)
      need (decide (fld (k.ctl 0x020) 0 0 ≠ 0) || (firstInvalid k off n).isNone) (trap cUNINIT)
      need (!s.bad (localKey c off) n) (trap cUNCORR)
      .ok (none, s)
  | .common =>
    need (!det) (trap cDETERM)
    let p := corePart s c
    need (decide (v - commonBase + n ≤ commonSize s p)) (trap cPERMISSION)
    need (write || !s.bad (commonKey s p (v - commonBase)) n) (trap cUNCORR)
    .ok (none, s)
  | .global =>
    need (!det) (trap cDETERM)
    let (e, s) ← translate s c (v / 4 * 4) acc
    need (e.w || !write) (trap cPERMISSION)
    match physKey s (corePart s c) (e.key + (v - e.base)) with
    | none => .error (trap cTRANSLATION)
    | some key =>
      need (write || !s.bad key n) (trap cUNCORR)
      .ok (some e, s)
  | .eventUnit =>
    need (!k.inFlagged) (trap cDETERM)
    .error (trap cPERMISSION)
  | _ =>
    need (!det) (trap cDETERM)
    .error (trap cPERMISSION)

/-- The parts of n bytes at v in aligned blocks of w bytes, in address order: (address, bytes). -/
def parts (w v n : Nat) : List (Nat × Nat) :=
  if n = 0 then []
  else
    let last := (v + n - 1) / w
    (List.range (last - v / w + 1)).map fun i =>
      let lo := max v (w * (v / w + i))
      let hi := min (v + n) (w * (v / w + i) + w)
      (lo, hi - lo)

/-- The 8-byte pieces of n bytes at v. -/
def pieces (v n : Nat) : List (Nat × Nat) := parts 8 v n

/-- A write of n bytes at v touches a lent cell of its core (R256). -/
def lentRange (s : State) (c v n : Nat) : Bool :=
  decide (windowOf v = .ownLocal) && (span (v - localBase) n).any fun a => (s.core c).lentAt a

/-- The checks of R154 on every word of a range, the first failing word deciding (R200), with the translations kept; a store to a lent
cell stalls once every word has passed (R98). -/
def checkRange (s : State) (c v n : Nat) (write det : Bool) : Res (SMap Nat × State) := do
  let (tr, s) ← (parts 4 v n).foldlM (fun (acc : SMap Nat × State) (x : Nat × Nat) => do
    let (e, s) ← checkWord acc.2 c x.1 x.2 write det
    match e with
    | some e => .ok (mput acc.1 (pageOf x.1) (e.key + (pageOf x.1 * 2 ^ 16 - e.base)), s)
    | none => .ok (acc.1, s)) ([], s)
  need (!(write && lentRange s c v n)) (.stall s)
  .ok (tr, s)

/-- The order of R154 in which a cause of own local memory is tested. -/
def causeOrder (cause : BitVec 8) : Nat :=
  if cause = cGHOST then 5 else if cause = cSTALE then 6 else if cause = cUNINIT then 7 else if cause = cUNCORR then 8 else 0

/-- The checks of one access of up to 8 bytes (R154): the earliest cause in order over its words is taken, at the first word that has
it. -/
def checkAccess (s : State) (c v n : Nat) (write det : Bool) : Res (SMap Nat × State) :=
  match checkRange s c v n write det with
  | .error (.trap t) =>
    match if v % 8 + n ≤ 4 ∨ 4 ≤ v % 8 then .ok (none, s) else checkWord s c (v / 8 * 8 + 4) (v % 8 + n - 4) write det with
    | .error (.trap u) => .error (.trap (if causeOrder u.cause < causeOrder t.cause then u else t))
    | _ => .error (.trap t)
  | r => r

/-- The place of byte v for core c, with kept translations; local memory of other cores of the launch by R239. -/
def placeOf (s : State) (c : Nat) (tr : SMap Nat) (v : Nat) : Option Nat :=
  match windowOf v with
  | .ownLocal => some (localKey c (v - localBase))
  | .common => some (commonKey s (corePart s c) (v - commonBase))
  | .global => (mfind tr (pageOf v)).bind fun ph => physKey s (corePart s c) (ph + v % 2 ^ 16)
  | .otherLocal =>
    let o := v - peerBase
    ((s.core c).launchOf s).map fun l => localKey (launchCore s (corePart s c) l (o / 2 ^ 19)) (o % 2 ^ 19)
  | _ => none

/-- Writes one byte at a place: a local byte through its core's valid bits and journal, any other directly. -/
def writeKey (s : State) (key : Nat) (b : Byte) : State :=
  if key / 2 ^ 64 = 4 then setLocalByte s (key % 2 ^ 64 / 2 ^ 18) (key % 2 ^ 18) b else s.setByte key b

/-- Reads one byte at a place: a local byte of an invalid word reads zero (R242). -/
def readKey (s : State) (key : Nat) : Byte :=
  if key / 2 ^ 64 = 4 then
    (if (s.core (key % 2 ^ 64 / 2 ^ 18)).validAt (key % 2 ^ 18) then s.byte key else 0)
  else s.byte key

/-- Bytes of addresses v on, through kept translations. -/
def readRange (s : State) (c : Nat) (tr : SMap Nat) (v n : Nat) : List Byte :=
  (span v n).map fun a => ((placeOf s c tr a).map (readKey s)).getD 0

/-- Writes bytes at addresses v on, through kept translations. -/
def writeRange (s : State) (c : Nat) (tr : SMap Nat) (v : Nat) : List Byte → State
  | [] => s
  | b :: bs =>
    writeRange (match placeOf s c tr v with
      | some key => writeKey s key b
      | none => s) c tr (v + 1) bs

/-- Corrected errors among the words of some ranges are counted (R240, R246). -/
def countEccRanges (s : State) (c : Nat) (tr : SMap Nat) (ranges : List (Nat × Nat)) : State :=
  if s.ecc.isEmpty then s
  else
    (ranges.flatMap fun r => pieces r.1 r.2).foldl (fun s x =>
      match placeOf s c tr x.1 with
      | some key => s.countEcc key x.2
      | none => s) s

/-- Own local offsets of a list of ranges. -/
def localOffs (ranges : List (Nat × Nat)) : List Nat :=
  ranges.flatMap fun r => if windowOf r.1 = .ownLocal then span (r.1 - localBase) r.2 else []

/-- The count that a completed read of an invalid word leaves in count mode: one for the whole instruction (R242). -/
def countUninitRead (s : State) (c : Nat) (ranges : List (Nat × Nat)) : State :=
  let k := s.core c
  if fld (k.ctl 0x020) 0 0 = 1 then
    match leastOf (localOffs ranges) fun a => !k.validAt a with
    | some a => s.setCore c (countUninit k a)
    | none => s
  else s

/-- The count that a completed stale load leaves in count mode (R257). -/
def countStaleRead (s : State) (c : Nat) (ranges : List (Nat × Nat)) : State :=
  let k := s.core c
  if fld (k.ctl 0x021) 1 0 = 1 then
    match leastOf (localOffs ranges) fun a => (k.staleAt a).isSome with
    | some a => s.setCore c (countStale k ((k.staleAt a).getD 0) a)
    | none => s
  else s

/-- The counts that a completed read of own local memory leaves (R240, R242, R257). -/
def countRead (s : State) (c : Nat) (ranges : List (Nat × Nat)) : State :=
  countUninitRead (countStaleRead (countEccRanges s c [] ranges) c ranges) c ranges

end Sys2Proof.Machine
end

