-- ==== Sys2Proof/Machine/Float.lean ====
section
/-! DEFINITION. Floating-point values and rounding (07 R163 to R166, R171 to R175, R177; 06 R148, R149): exact dyadic numbers,
rounded once. -/

namespace Sys2Proof.Machine

/-- Flags NV, DZ, OF, UF, NX in bits 0 to 4, as FPC holds them in bits 8 to 12 (R171). -/
abbrev Flags := BitVec 5

def fNV : Flags := 0b00001
def fDZ : Flags := 0b00010
def fOF : Flags := 0b00100
def fUF : Flags := 0b01000
def fNX : Flags := 0b10000

/-- A floating-point format (R164): exponent bits, mantissa bits, bias, the largest finite code, whether it has infinities, and
its canonical NaN where it has one (R177). -/
structure Fmt where
  eb : Nat
  mb : Nat
  bias : Nat
  maxCode : Nat
  inf : Bool
  nan : Option Nat
  deriving DecidableEq, Repr

def fmtF32 : Fmt := { eb := 8, mb := 23, bias := 127, maxCode := 0x7F7FFFFF, inf := true, nan := some 0x7FC00000 }
def fmtBF16 : Fmt := { eb := 8, mb := 7, bias := 127, maxCode := 0x7F7F, inf := true, nan := some 0x7FC0 }
def fmtF16 : Fmt := { eb := 5, mb := 10, bias := 15, maxCode := 0x7BFF, inf := true, nan := some 0x7E00 }
def fmtE4M3 : Fmt := { eb := 4, mb := 3, bias := 7, maxCode := 0x7E, inf := false, nan := some 0x7F }
def fmtE5M2 : Fmt := { eb := 5, mb := 2, bias := 15, maxCode := 0x7B, inf := true, nan := some 0x7E }
def fmtE3M2 : Fmt := { eb := 3, mb := 2, bias := 3, maxCode := 0x1F, inf := false, nan := none }
def fmtE2M3 : Fmt := { eb := 2, mb := 3, bias := 1, maxCode := 0x1F, inf := false, nan := none }
def fmtE2M1 : Fmt := { eb := 2, mb := 1, bias := 1, maxCode := 0x7, inf := false, nan := none }

/-- The float format of an element format code: FC 2 to 8, and of MX elements FC 9 to 13 (R163); FP32 otherwise. -/
def fmtOf (fc : Nat) : Fmt :=
  match fc with
  | 2 => fmtBF16
  | 3 => fmtF16
  | 4 => fmtE4M3
  | 5 => fmtE5M2
  | 6 => fmtE3M2
  | 7 => fmtE2M3
  | 8 => fmtE2M1
  | 9 => fmtE4M3
  | 10 => fmtE5M2
  | 11 => fmtE3M2
  | 12 => fmtE2M3
  | 13 => fmtE2M1
  | _ => fmtF32

/-- A value: a NaN (quiet or signalling), an infinity, or (-1)^neg · m · 2^e. -/
inductive FVal where
  | nan (quiet : Bool)
  | inf (neg : Bool)
  | fin (neg : Bool) (m : Nat) (e : Int)
  deriving DecidableEq, Repr

/-- The value of a code (R164). -/
def Fmt.decode (f : Fmt) (code : Nat) : FVal :=
  let neg := code / 2 ^ (f.eb + f.mb) % 2 == 1
  let e := code / 2 ^ f.mb % 2 ^ f.eb
  let m := code % 2 ^ f.mb
  let mag := code % 2 ^ (f.eb + f.mb)
  if mag ≤ f.maxCode then
    if e = 0 then .fin neg m (1 - (f.bias : Int) - f.mb) else .fin neg (2 ^ f.mb + m) ((e : Int) - f.bias - f.mb)
  else if f.inf ∧ m = 0 then .inf neg
  else .nan (m / 2 ^ (f.mb - 1) == 1)

/-- A code is subnormal in its format (R164, R182). -/
def Fmt.subnormal (f : Fmt) (code : Nat) : Bool := code / 2 ^ f.mb % 2 ^ f.eb == 0 && code % 2 ^ f.mb != 0

/-- The sign bit of a format. -/
def Fmt.signBit (f : Fmt) : Nat := 2 ^ (f.eb + f.mb)

/-- A magnitude rounded to a format's precision: q · 2^e, and whether bits were lost. -/
structure Rounded where
  q : Nat
  e : Int
  inexact : Bool
  deriving DecidableEq, Repr

/-- Whether a rounding away from zero is due (R171): RM 0 RNE, 1 RTZ, 2 RUP, 3 RDN; `half` compares what is lost with one half. -/
def roundUp (rm : Nat) (neg odd : Bool) (lost : Ordering) (inexact : Bool) : Bool :=
  match rm with
  | 0 => match lost with
    | .gt => true
    | .eq => odd
    | .lt => false
  | 2 => inexact && !neg
  | 3 => inexact && neg
  | _ => false

/-- Rounds m·2^e, with `sticky` for a further non-zero part below it, to `mb` fraction bits and least exponent `emin` (R164): the
value is q·2^e with q ≤ 2^(mb+1). -/
def roundMag (mb : Nat) (emin : Int) (rm : Nat) (neg : Bool) (m : Nat) (e : Int) (sticky : Bool) : Rounded :=
  let m := if sticky then 16 * m + 1 else m
  let e := if sticky then e - 4 else e
  let qe := max (e + Nat.log2 m) emin - mb
  if qe ≤ e then { q := m * 2 ^ (e - qe).toNat, e := qe, inexact := false }
  else
    let k := (qe - e).toNat
    let q := m / 2 ^ k
    let r := m % 2 ^ k
    let up := roundUp rm neg (q % 2 == 1) (compare (2 * r) (2 ^ k)) (r != 0)
    { q := if up then q + 1 else q, e := qe, inexact := r != 0 }

/-- The code of a rounded magnitude, which may exceed the largest finite one (R164). -/
def Fmt.code (f : Fmt) (r : Rounded) : Nat :=
  if r.q < 2 ^ f.mb then r.q
  else ((r.e + f.mb + f.bias).toNat - 1) * 2 ^ f.mb + r.q

/-- Rounds a non-NaN value to a format (R172, R173): RM, SAT and FTZ decide overflow, saturation and subnormal results. -/
def Fmt.round (f : Fmt) (rm : Nat) (sat ftz : Bool) (neg : Bool) (m : Nat) (e : Int) (sticky : Bool) : Nat × Flags :=
  let s := if neg then f.signBit else 0
  if m = 0 ∧ !sticky then (s, 0)
  else
    let r := roundMag f.mb (1 - (f.bias : Int)) rm neg m e sticky
    let c := f.code r
    if f.maxCode < c then
      let toZero := rm == 1 || (rm == 2 && neg) || (rm == 3 && !neg)
      let v := if sat then s + f.maxCode
        else if f.inf then (if toZero then s + f.maxCode else s + f.maxCode + 1)
        else match f.nan with
          | some n => n
          | none => s + f.maxCode
      (v, fOF ||| fNX)
    else if c < 2 ^ f.mb then
      if ftz then (s, fUF ||| fNX)
      else (s + c, if r.inexact then fUF ||| fNX else 0)
    else (s + c, if r.inexact then fNX else 0)

/-- Rounds to FP32 (R148): overflow gives infinities or the largest finite value by RM. -/
def roundF32 (rm : Nat) (ftz : Bool) (neg : Bool) (m : Nat) (e : Int) (sticky : Bool) : Word32 × Flags :=
  let (c, fl) := fmtF32.round rm false ftz neg m e sticky
  (BitVec.ofNat 32 c, fl)

/-! ## FP32 operations -/

/-- Canonical NaN (R177). -/
def cNaN : Word32 := 0x7FC00000

/-- The value of an FP32 word, a subnormal read as zero of its sign where `ftz` says so (R172). -/
def f32 (ftz : Bool) (w : Word32) : FVal :=
  if ftz && fmtF32.subnormal w.toNat then .fin (w.toNat / 2 ^ 31 == 1) 0 0 else fmtF32.decode w.toNat

def isNaN32 (w : Word32) : Bool := decide (0x7F800000 < w.toNat % 2 ^ 31)
def isSNaN32 (w : Word32) : Bool := isNaN32 w && w.toNat / 2 ^ 22 % 2 == 0
def isInf32 (w : Word32) : Bool := decide (w.toNat % 2 ^ 31 = 0x7F800000)
def isZero32 (w : Word32) : Bool := decide (w.toNat % 2 ^ 31 = 0)
def neg32 (w : Word32) : Bool := w.toNat / 2 ^ 31 == 1
def quiet32 (w : Word32) : Word32 := w ||| 0x00400000
def inf32 (neg : Bool) : Word32 := if neg then 0xFF800000 else 0x7F800000
def zero32 (neg : Bool) : Word32 := if neg then 0x80000000 else 0

/-- The first NaN of the operands, quieted, with NV for a signalling one; none where no operand is a NaN (R149). -/
def nanOf (ws : List Word32) : Option (Word32 × Flags) :=
  (ws.find? isNaN32).map fun w => (quiet32 w, if ws.any isSNaN32 then fNV else 0)

/-- Signed integer of a sign and magnitude. -/
def sInt (neg : Bool) (m : Nat) : Int := if neg then -(m : Int) else m

/-- The exact sum of two finite values as sign, magnitude and exponent; an exact zero takes the IEEE sign for RM. -/
def addExact (rm : Nat) (n1 : Bool) (m1 : Nat) (e1 : Int) (n2 : Bool) (m2 : Nat) (e2 : Int) : Bool × Nat × Int :=
  let e := min e1 e2
  let v := sInt n1 (m1 * 2 ^ (e1 - e).toNat) + sInt n2 (m2 * 2 ^ (e2 - e).toNat)
  if v = 0 then ((if n1 = n2 then n1 else rm == 3), 0, e) else (decide (v < 0), v.natAbs, e)

/-- How an operation rounds its exact result: sign, magnitude and exponent to a word and flags. -/
abbrev Rnd := Bool → Nat → Int → Word32 × Flags

/-- Sum of two values (R148, R149), rounded once by `rnd`. -/
def faddR (rnd : Rnd) (rm : Nat) (ftz : Bool) (a b : Word32) : Word32 × Flags :=
  match nanOf [a, b] with
  | some r => r
  | none =>
    match f32 ftz a, f32 ftz b with
    | .inf n1, .inf n2 => if n1 = n2 then (inf32 n1, 0) else (cNaN, fNV)
    | .inf n, _ => (inf32 n, 0)
    | _, .inf n => (inf32 n, 0)
    | .fin n1 m1 e1, .fin n2 m2 e2 =>
      let (n, m, e) := addExact rm n1 m1 e1 n2 m2 e2
      rnd n m e
    | _, _ => (cNaN, 0)

/-- Rounding to FP32. -/
def rndF32 (rm : Nat) (ftz : Bool) : Rnd := fun n m e => roundF32 rm ftz n m e false

/-- Sum of two FP32 values. -/
def fadd32 (rm : Nat) (ftz : Bool) (a b : Word32) : Word32 × Flags := faddR (rndF32 rm ftz) rm ftz a b

/-- Negation of the stored sign, NaNs included. -/
def fneg32 (a : Word32) : Word32 := a ^^^ 0x80000000

/-- Difference of two FP32 values; a NaN operand is returned with its own sign (R149). -/
def fsub32 (rm : Nat) (ftz : Bool) (a b : Word32) : Word32 × Flags :=
  match nanOf [a, b] with
  | some r => r
  | none => fadd32 rm ftz a (fneg32 b)

/-- Product of two values (R148, R149), rounded once by `rnd`. -/
def fmulR (rnd : Rnd) (ftz : Bool) (a b : Word32) : Word32 × Flags :=
  match nanOf [a, b] with
  | some r => r
  | none =>
    match f32 ftz a, f32 ftz b with
    | .fin n1 m1 e1, .fin n2 m2 e2 => rnd (n1 != n2) (m1 * m2) (e1 + e2)
    | .inf n1, .fin n2 m _ => if m = 0 then (cNaN, fNV) else (inf32 (n1 != n2), 0)
    | .fin n1 m _, .inf n2 => if m = 0 then (cNaN, fNV) else (inf32 (n1 != n2), 0)
    | .inf n1, .inf n2 => (inf32 (n1 != n2), 0)
    | _, _ => (cNaN, 0)

/-- Product of two FP32 values. -/
def fmul32 (rm : Nat) (ftz : Bool) (a b : Word32) : Word32 × Flags := fmulR (rndF32 rm ftz) ftz a b

/-- Quotient of two FP32 values. -/
def fdiv32 (rm : Nat) (ftz : Bool) (a b : Word32) : Word32 × Flags :=
  match nanOf [a, b] with
  | some r => r
  | none =>
    match f32 ftz a, f32 ftz b with
    | .fin n1 m1 e1, .fin n2 m2 e2 =>
      if m2 = 0 then (if m1 = 0 then (cNaN, fNV) else (inf32 (n1 != n2), fDZ))
      else
        let k := 64 + Nat.log2 m2
        roundF32 rm ftz (n1 != n2) (m1 * 2 ^ k / m2) (e1 - e2 - k) (m1 * 2 ^ k % m2 != 0)
    | .inf n1, .fin n2 _ _ => (inf32 (n1 != n2), 0)
    | .fin n1 _ _, .inf n2 => (zero32 (n1 != n2), 0)
    | _, _ => (cNaN, fNV)

/-- Integer square root of n by bits, from bit `i - 1` down. -/
def isqrtFrom (n : Nat) : Nat → Nat → Nat
  | 0, acc => acc
  | i + 1, acc => let t := acc + 2 ^ i; isqrtFrom n i (if t * t ≤ n then t else acc)

/-- Integer square root of numbers below 2^400. -/
def isqrt (n : Nat) : Nat := isqrtFrom n 200 0

/-- Square root of an FP32 value. -/
def fsqrt32 (rm : Nat) (ftz : Bool) (a : Word32) : Word32 × Flags :=
  match nanOf [a] with
  | some r => r
  | none =>
    match f32 ftz a with
    | .inf n => if n then (cNaN, fNV) else (inf32 false, 0)
    | .fin n m e =>
      if m = 0 then (zero32 n, 0)
      else if n then (cNaN, fNV)
      else
        let odd := e % 2 = 1
        let m' := (if odd then 2 * m else m) * 2 ^ 60
        let r := isqrt m'
        roundF32 rm ftz false r ((if odd then e - 1 else e) / 2 - 30) (r * r != m')
    | .nan _ => (cNaN, 0)

/-- c + a × b with one rounding by `rnd`; NaNs in the order a, b, c (R149). -/
def ffmaR (rnd : Rnd) (rm : Nat) (ftz : Bool) (a b c : Word32) : Word32 × Flags :=
  let prod0inf := match f32 ftz a, f32 ftz b with
    | .inf _, .fin _ 0 _ => true
    | .fin _ 0 _, .inf _ => true
    | _, _ => false
  match nanOf [a, b, c] with
  | some (w, fl) => (w, if prod0inf then fl ||| fNV else fl)
  | none =>
    if prod0inf then (cNaN, fNV)
    else
      match f32 ftz a, f32 ftz b, f32 ftz c with
      | .fin n1 m1 e1, .fin n2 m2 e2, .fin n3 m3 e3 =>
        let (n, m, e) := addExact rm (n1 != n2) (m1 * m2) (e1 + e2) n3 m3 e3
        rnd n m e
      | .fin _ _ _, .fin _ _ _, .inf n => (inf32 n, 0)
      | .inf n1, .fin n2 _ _, .inf n => if (n1 != n2) = n then (inf32 n, 0) else (cNaN, fNV)
      | .fin n1 _ _, .inf n2, .inf n => if (n1 != n2) = n then (inf32 n, 0) else (cNaN, fNV)
      | .inf n1, .inf n2, .inf n => if (n1 != n2) = n then (inf32 n, 0) else (cNaN, fNV)
      | .inf n1, .fin n2 _ _, _ => (inf32 (n1 != n2), 0)
      | .fin n1 _ _, .inf n2, _ => (inf32 (n1 != n2), 0)
      | .inf n1, .inf n2, _ => (inf32 (n1 != n2), 0)
      | _, _, _ => (cNaN, 0)

/-- c + a × b in FP32 with one rounding. -/
def ffma32 (rm : Nat) (ftz : Bool) (a b c : Word32) : Word32 × Flags := ffmaR (rndF32 rm ftz) rm ftz a b c

/-- A total order of non-NaN FP32 words by value, with -0 below +0 where `zeros` says so (R148). -/
def key32 (zeros : Bool) (w : Word32) : Int :=
  let m : Nat := w.toNat % 2 ^ 31
  if neg32 w then (if zeros then -(m : Int) - 1 else -(m : Int)) else m

/-- A subnormal operand as a comparison reads it (R148). -/
def flush32 (ftz : Bool) (w : Word32) : Word32 := if ftz && fmtF32.subnormal w.toNat then zero32 (neg32 w) else w

/-- Lesser (or greater) of two FP32 values, NaNs passed through (R148, R149). -/
def fminmax32 (greater : Bool) (ftz : Bool) (a b : Word32) : Word32 × Flags :=
  match nanOf [a, b] with
  | some r => r
  | none =>
    let a := flush32 ftz a
    let b := flush32 ftz b
    let lt := decide (key32 true b < key32 true a)
    (if (lt != greater) then b else a, 0)

/-- Equality of FP32 values (R149). -/
def feq32 (ftz : Bool) (a b : Word32) : Bool × Flags :=
  if isNaN32 a || isNaN32 b then (false, if isSNaN32 a || isSNaN32 b then fNV else 0)
  else (key32 false (flush32 ftz a) == key32 false (flush32 ftz b), 0)

/-- a < b, or a ≤ b (R149). -/
def flt32 (orEq ftz : Bool) (a b : Word32) : Bool × Flags :=
  if isNaN32 a || isNaN32 b then (false, fNV)
  else
    let x := key32 false (flush32 ftz a)
    let y := key32 false (flush32 ftz b)
    (if orEq then decide (x ≤ y) else decide (x < y), 0)

/-- The one-hot class of R148. -/
def fclass32 (w : Word32) : Nat :=
  let n := neg32 w
  if isNaN32 w then (if isSNaN32 w then 8 else 9)
  else if isInf32 w then (if n then 0 else 7)
  else if isZero32 w then (if n then 3 else 4)
  else if fmtF32.subnormal w.toNat then (if n then 2 else 5)
  else if n then 1 else 6

/-- A value rounded by RM to an integer and clamped to lo … hi (R174): NV for a NaN or a clamp, else NX when inexact. -/
def toInt (rm : Nat) (lo hi : Int) (v : FVal) : Int × Flags :=
  match v with
  | .nan _ => (0, fNV)
  | .inf n => (if n then lo else hi, fNV)
  | .fin n m e =>
    let q : Nat := if 0 ≤ e then m * 2 ^ e.toNat else m / 2 ^ (-e).toNat
    let r : Nat := if 0 ≤ e then 0 else m % 2 ^ (-e).toNat
    let k : Nat := if 0 ≤ e then 0 else (-e).toNat
    let up := roundUp rm n (q % 2 == 1) (compare (2 * r) (2 ^ k)) (r != 0)
    let up := if r = 0 then false else up
    let x := sInt n (if up then q + 1 else q)
    if x < lo then (lo, fNV) else if hi < x then (hi, fNV) else (x, if r = 0 then 0 else fNX)

/-- An integer rounded to FP32 (R175, R189). -/
def ofInt (rm : Nat) (x : Int) : Word32 × Flags := roundF32 rm false (decide (x < 0)) x.natAbs 0 false

end Sys2Proof.Machine
end

