-- ==== Sys2Proof/Machine/Formats.lean ====
section
/-! DEFINITION. Number formats in memory and in registers (07 R163, R166 to R170, R173 to R179, R188): element conversions, blocks
with their scales, and the codec of converting loads, stores and engines. -/

namespace Sys2Proof.Machine

/-- Little-endian bits of a list of n-bit codes. -/
def packCodes (n : Nat) : List Nat → Nat
  | [] => 0
  | c :: cs => c % 2 ^ n + 2 ^ n * packCodes n cs

/-- Element bits of a format (R163); 7 for a BALE16 code. -/
def fcBits (fc : Nat) : Nat :=
  match fc with
  | 1 => 32
  | 2 => 16
  | 3 => 16
  | 4 => 8
  | 5 => 8
  | 6 => 6
  | 7 => 6
  | 8 => 4
  | 9 => 8
  | 10 => 8
  | 11 => 6
  | 12 => 6
  | 13 => 4
  | 14 => 8
  | 15 => 8
  | 16 => 4
  | 17 => 32
  | 18 => 7
  | _ => 8

/-- The formats whose elements are integers (R163, R166). -/
def fcInt (fc : Nat) : Bool := decide (15 ≤ fc ∧ fc ≤ 17)

/-- The block formats of R168. -/
def fcBlock (fc : Nat) : Bool := decide (9 ≤ fc ∧ fc ≤ 14)

/-- R163's table of BL, and the formats that FACC must accept (R34). -/
def fcOk (facc : Word) (fc bl : Nat) : Bool :=
  decide (fc ≤ 18) &&
  (if fc ≤ 8 then bl == 0
   else if fc ≤ 13 then decide (3 ≤ bl ∧ bl ≤ 6)
   else if fc = 14 then bl == 5 && facc.getLsbD 13
   else if fc ≤ 17 then bl == 0
   else bl == 4 && facc.getLsbD 12)

/-! ## Elements -/

/-- Decodes an element code to FP32 (R175): exact; NaNs canonical; FTZ for FP16 and BF16. -/
def decodeFloat (fc : Nat) (ftz : Bool) (code : Nat) : Word32 × Flags :=
  let f := fmtOf fc
  if fc = 1 then (BitVec.ofNat 32 code, 0)
  else
    match f.decode code with
    | .nan q => (cNaN, if q then 0 else fNV)
    | .inf n => (inf32 n, 0)
    | .fin n m e =>
      if ftz && (fc == 2 || fc == 3) && f.subnormal code then (zero32 n, 0) else roundF32 0 false n m e false

/-- Narrows an FP32 value to an element code (R173): `ftz` acts where FP32, BF16 or FP16 is involved. -/
def encodeFloat (fc rm : Nat) (sat ftz : Bool) (w : Word32) : Nat × Flags :=
  let f := fmtOf fc
  let w := flush32 ftz w
  let s := if neg32 w then f.signBit else 0
  match fmtF32.decode w.toNat with
  | .nan q =>
    match f.nan with
    | some n => (n, if q then 0 else fNV)
    | none => (0, fNV)
  | .inf _ =>
    if f.inf then (s + f.maxCode + 1, 0)
    else match f.nan with
      | some n => (if sat then s + f.maxCode else n, fNV)
      | none => (s + f.maxCode, fNV)
  | .fin n m e => f.round rm sat (ftz && (fc == 2 || fc == 3)) n m e false

/-- The range of an integer format (R166). -/
def intLo (fc : Nat) : Int := if fc = 15 then -128 else if fc = 16 then -8 else -2147483648
def intHi (fc : Nat) : Int := if fc = 15 then 127 else if fc = 16 then 7 else 2147483647

/-- Clamps an INT32 word to an integer format, NV when it clamps (R174). -/
def narrowInt (fc : Nat) (w : Word32) : Nat × Flags :=
  let x := w.toInt
  let y := max (intLo fc) (min (intHi fc) x)
  ((y % (2 ^ fcBits fc : Nat)).toNat, if x = y then 0 else fNV)

/-- Sign-extends an integer element code to INT32 (R175). -/
def widenInt (fc code : Nat) : Word32 :=
  let n := fcBits fc
  let c := code % 2 ^ n
  BitVec.ofInt 32 (if 2 ^ (n - 1) ≤ c then (c : Int) - (2 ^ n : Nat) else c)

/-- An element code to the register form: FP32, or INT32 for the integer formats. -/
def decodeElem (fc : Nat) (ftz : Bool) (code : Nat) : Word32 × Flags :=
  if fcInt fc then (widenInt fc code, 0) else decodeFloat fc ftz code

/-- The register form to an element code; FC 1 and 17 are copied. -/
def encodeElem (fc rm : Nat) (sat ftz : Bool) (w : Word32) : Nat × Flags :=
  if fc = 1 ∨ fc = 17 then (w.toNat, 0) else if fcInt fc then narrowInt fc w else encodeFloat fc rm sat ftz w

/-! ## Blocks -/

/-- The terms of a DS8 code before scaling (R169), in units of 2^-6. -/
def ds8Value (code : Nat) : Int :=
  let t (s k : Nat) : Int := if k = 7 then 0 else sInt (s == 1) (2 ^ (6 - k))
  t (code / 128) (code / 16 % 8) + t (code / 8 % 2) (code % 8)

/-- An element of a block with its E8M0 scale, decoded to FP32 (R165, R168, R175): only overflow raises a flag. -/
def decodeScaled (fc scale code : Nat) : Word32 × Flags :=
  if scale = 0xFF then (cNaN, 0)
  else
    let sc : Int := (scale : Int) - 127
    if fc = 14 then
      let v := ds8Value code
      let (w, fl) := roundF32 0 false (decide (v < 0)) v.natAbs (sc - 6) false
      (w, fl &&& fOF)
    else
      match (fmtOf fc).decode code with
      | .nan _ => (cNaN, 0)
      | .inf n => (inf32 n, 0)
      | .fin n m e => let (w, fl) := roundF32 0 false n m (e + sc) false; (w, fl &&& fOF)

/-- emax of R178. -/
def emaxOf (fc : Nat) : Int :=
  match fc with
  | 9 => 8
  | 10 => 15
  | 11 => 4
  | 12 => 2
  | 13 => 2
  | _ => 0

/-- The distance of a DS8 code's value from num/2^den (in units of 2^-6), as a comparison key: distance, magnitude, code. -/
def ds8Nearest (neg : Bool) (m : Nat) (e : Int) : Nat × Bool :=
  -- the value in units of 2^-(6 + 30) when e ≥ -36, exact; smaller parts are kept by scaling both sides
  let k := (-(e + 6)).toNat
  let x : Int := if 0 ≤ e + 6 then sInt neg (m * 2 ^ (e + 6).toNat) else sInt neg m
  let best := (List.range 256).foldl (fun (b : Option (Nat × Int × Nat)) c =>
    let v := ds8Value c * (2 ^ k : Nat)
    let d := (x - v).natAbs
    match b with
    | none => some (c, (d : Int), v.natAbs)
    | some (_, bd, bm) =>
      if (d : Int) < bd ∨ ((d : Int) = bd ∧ v.natAbs < bm) then some (c, (d : Int), v.natAbs) else b) none
  match best with
  | some (c, d, _) => (if ds8Value c = 0 then 0x77 else c, d != 0)
  | none => (0x77, false)

/-- Quantises the values of one block (R178, R179): scale, codes, NV and NX. The list holds the real elements; `n` positions are
coded. -/
def quantBlock (fc n : Nat) (ws : List Word32) : Nat × List Nat × Flags :=
  if ws.any fun w => isNaN32 w || isInf32 w then (0xFF, List.replicate n 0, fNV)
  else
    let amax := ws.foldl (fun a w => max a (w.toNat % 2 ^ 31)) 0
    let zeroCode := if fc = 14 then 0x77 else 0
    if amax = 0 then (0, List.replicate n zeroCode, 0)
    else
      let lead : Int := match fmtF32.decode amax with
        | .fin _ m e => e + Nat.log2 m
        | _ => 0
      let x := max (lead - emaxOf fc) (-127)
      let enc (w : Word32) : Nat × Flags := match fmtF32.decode w.toNat with
        | .fin neg m e =>
          if fc = 14 then
            if m = 0 then (0x77, 0) else let (c, i) := ds8Nearest neg m (e - x); (c, if i then fNX else 0)
          else let (c, fl) := (fmtOf fc).round 0 true false neg m (e - x) false; (c, if fl = 0 then 0 else fNX)
        | _ => (0, 0)
      let cs := ws.map enc
      ((x + 127).toNat, cs.map (·.1) ++ List.replicate (n - ws.length) zeroCode, cs.foldl (fun a c => a ||| c.2) 0)

/-- Encodes a BALE16 block of up to 16 values (R170): E, the 16 codes, and the flags of the instructions that raise them. -/
def baleBlock (ws : List Word32) : Nat × List Nat × Flags :=
  let bs := ws.map fun w => (encodeFloat 2 0 false false w).1
  if bs.any fun b => decide (0x7F80 ≤ b % 2 ^ 15) then (0xFF, List.replicate 16 0, fNV)
  else
    let e : Nat := bs.foldl (fun (a b : Nat) => max a (b / 128 % 256)) 0
    let enc (x : Word32 × Nat) : Nat × Bool :=
      match fmtBF16.decode x.2 with
      | .fin n m ex =>
        let (k, _) := toInt 0 0 63 (.fin false m (ex - ((e : Int) - 132)))
        let k := k.toNat
        let exact : Bool := match fmtF32.decode x.1.toNat with
          | .fin n1 m1 e1 =>
            let lo := min e1 ((e : Int) - 132)
            decide (sInt n1 (m1 * 2 ^ (e1 - lo).toNat) = sInt n (k * 2 ^ (((e : Int) - 132) - lo).toNat))
          | _ => false
        ((if n then 64 else 0) + k, !exact)
      | _ => (0, true)
    let cs := (ws.zip bs).map enc
    (e, cs.map (·.1) ++ List.replicate (16 - ws.length) 0, if cs.any (·.2) then fNX else 0)

/-- Decodes a BALE16 code under E (R170). -/
def baleDecode (e code : Nat) : Word32 :=
  if e = 0xFF then cNaN else (roundF32 0 false (code / 64 % 2 == 1) (code % 64) ((e : Int) - 132) false).1

/-! ## Memory layout -/

/-- Bytes that n elements cover (R188); raw is counted in bytes (R266). -/
def fcBytes (fc bl n : Nat) : Nat :=
  if fc = 0 then n
  else if fcBlock fc then
    let b := 2 ^ bl
    let bb := fcBits fc * b / 8
    let g := 8 * b
    n / g * (8 + 8 * bb) + (if n % g = 0 then 0 else 8 + (n % g + b - 1) / b * bb)
  else if fc = 18 then 16 * ((n + 15) / 16)
  else if fc = 6 ∨ fc = 7 then 3 * ((n + 3) / 4)
  else if fc = 8 ∨ fc = 16 then (n + 1) / 2
  else fcBits fc / 8 * n

/-- Alignment of a format's first byte (R188). -/
def fcAlign (fc : Nat) : Nat :=
  if fcBlock fc then 8 else if fc = 18 then 16 else if fc = 1 ∨ fc = 17 then 4 else if fc = 2 ∨ fc = 3 then 2 else 1

/-- The bits lo to lo + n - 1 of little-endian bytes. -/
def bitsOf (bs : List Byte) (lo n : Nat) : Nat :=
  (List.range ((lo % 8 + n + 7) / 8)).foldl (fun a i => a + (bs.getD (lo / 8 + i) 0).toNat * 2 ^ (8 * i)) 0 / 2 ^ (lo % 8) % 2 ^ n

/-- The code and the scale (or E) of element i in the bytes of a tensor of n elements (R167, R168, R170). -/
def elemCode (fc bl : Nat) (bs : List Byte) (i : Nat) : Nat × Nat :=
  if fcBlock fc then
    let b := 2 ^ bl
    let bb := fcBits fc * b / 8
    let g := i / (8 * b) * (8 + 8 * bb)
    let j := i / b % 8
    (bitsOf bs (8 * (g + 8 + bb * j) + fcBits fc * (i % b)) (fcBits fc), (bs.getD (g + j) 0).toNat)
  else if fc = 18 then
    (bitsOf bs (8 * (16 * (i / 16) + 1) + 7 * (i % 16)) 7, (bs.getD (16 * (i / 16)) 0).toNat)
  else (bitsOf bs (fcBits fc * i) (fcBits fc), 0)

/-- Decodes n elements from memory bytes to register form (R175, R179, R187). -/
def decodeMem (fc bl : Nat) (ftz : Bool) (bs : List Byte) (n : Nat) : List Word32 × Flags :=
  let xs := (List.range n).map fun i =>
    let (c, sc) := elemCode fc bl bs i
    if fcBlock fc then decodeScaled fc sc c
    else if fc = 18 then (baleDecode sc c, (0 : Flags))
    else decodeElem fc ftz c
  (xs.map (·.1), xs.foldl (fun a x => a ||| x.2) 0)

/-- Splits a list into runs of n. -/
def chunksOf {α : Type} (n : Nat) (l : List α) : List (List α) :=
  (List.range ((l.length + n - 1) / n)).map fun i => (l.drop (n * i)).take n

/-- Encodes elements in register form to memory bytes (R173, R174, R178, R179, R188): none for a scale byte of a last group that
no block uses, which STF leaves as it is and the engines write as zero. -/
def encodeMem (fc bl rm : Nat) (sat ftz : Bool) (ws : List Word32) : List (Option Byte) × Flags :=
  let toBytes (n x : Nat) : List (Option Byte) := (List.range n).map fun i => some (BitVec.ofNat 8 (x / 2 ^ (8 * i)))
  if fcBlock fc then
    let b := 2 ^ bl
    let bb := fcBits fc * b / 8
    let groups := chunksOf 8 ((chunksOf b ws).map (quantBlock fc b))
    let bytes := groups.flatMap fun g =>
      (List.range 8).map (fun j => (g[j]?).map fun x => BitVec.ofNat 8 x.1) ++
        g.flatMap fun x => toBytes bb (packCodes (fcBits fc) x.2.1)
    (bytes, groups.foldl (fun a g => g.foldl (fun a x => a ||| x.2.2) a) 0)
  else if fc = 18 then
    let bs := (chunksOf 16 ws).map baleBlock
    (bs.flatMap fun x => some (BitVec.ofNat 8 x.1) :: toBytes 14 (packCodes 7 x.2.1) ++ [some 0],
     bs.foldl (fun a x => a ||| x.2.2) 0)
  else
    let cs := ws.map (encodeElem fc rm sat ftz)
    (toBytes (fcBytes fc bl ws.length) (packCodes (fcBits fc) (cs.map (·.1))), cs.foldl (fun a c => a ||| c.2) 0)

/-- Bytes of an encoding with unused scale bytes written as zero (R266). -/
def fillBytes (bs : List (Option Byte)) : List Byte := bs.map (·.getD 0)

end Sys2Proof.Machine
end

