-- ==== Sys2Proof/Machine/Sums.lean ====
section
/-! DEFINITION. Sums at a numeric behaviour version (07 R180 to R186), integer sums excepted, and the special functions of VSFU
(08 R209). -/

namespace Sys2Proof.Machine

/-- Block B and window W of a level (R182). -/
def lvlBlock (l : Nat) : Nat := match l with
  | 1 => 4
  | 2 => 16
  | 3 => 32
  | _ => 64
def lvlWindow (l : Nat) : Int := match l with
  | 1 => 26
  | 2 => 28
  | 3 => 36
  | _ => 48

/-- Subnormal inputs (levels 1 and 2) and results (level 1) are flushed (R182). -/
def lvlFlushIn (l : Nat) : Bool := decide (l ≤ 2)
def lvlFlushOut (l : Nat) : Bool := decide (l ≤ 1)

/-- Add of R185: RoundNE(p + q, FP32) with the level's rule for results; NaNs canonical here (R184). -/
def addLvl (l : Nat) (a b : Word32) : Word32 × Flags :=
  if isNaN32 a || isNaN32 b then (cNaN, if isSNaN32 a || isSNaN32 b then fNV else 0)
  else
    match fmtF32.decode a.toNat, fmtF32.decode b.toNat with
    | .fin n1 m1 e1, .fin n2 m2 e2 =>
      let (n, m, e) := addExact 0 n1 m1 e1 n2 m2 e2
      roundF32 0 (lvlFlushOut l) n m e false
    | _, _ => fadd32 0 false a b

/-- An input of a sum, flushed at levels 1 and 2 (R182). -/
def inLvl (l : Nat) (w : Word32) : Word32 := flush32 (lvlFlushIn l) w

/-- A result of a sum that is added again, flushed at level 1 (R182). -/
def outLvl (l : Nat) (w : Word32) : Word32 := flush32 (lvlFlushOut l) w

/-- BlockSum of R183 over finite products (sign, magnitude, exponent): an FP32 value and whether bits were lost. -/
def blockSum (l : Nat) (q : List (Bool × Nat × Int)) : Word32 × Flags :=
  let e0 := q.foldl (fun a x => min a x.2.2) 0
  let vs := q.map fun x => sInt x.1 (x.2.1 * 2 ^ (x.2.2 - e0).toNat)
  let m := vs.foldl (fun a v => max a v.natAbs) 0
  if m = 0 then (zero32 (q.all fun x => x.1), 0)
  else
    let ue := (Nat.log2 m : Int) - lvlWindow l + 1
    if ue ≤ 0 then
      let v := vs.foldl (· + ·) 0
      if v = 0 then (0, 0) else roundF32 0 (lvlFlushOut l) (decide (v < 0)) v.natAbs e0 false
    else
      let u : Nat := 2 ^ ue.toNat
      let lost := vs.any fun v => v.natAbs % u != 0
      let (v, e) : Int × Int :=
        if l < 4 then (vs.foldl (fun a v => a + sInt (decide (v < 0)) (v.natAbs / u)) 0, e0 + ue)
        else (2 * vs.foldl (fun a v => a + v / (u : Int)) 0 + (if lost then 1 else 0), e0 + ue - 1)
      if v = 0 then (0, if lost then fNX else 0)
      else
        let (w, fl) := roundF32 0 (lvlFlushOut l) (decide (v < 0)) v.natAbs e false
        (w, if lost then fl ||| fNX else fl)

/-- Infinities of both signs meet among the products and the accumulator of a dot product (R184). -/
def dotInfs (ps : List FVal) (c : Word32) : Bool :=
  let has (n : Bool) : Bool := ps.any (fun p => decide (p = .inf n)) || (isInf32 c && neg32 c == n)
  has false && has true

/-- The dot product of R183 and R184: products as values, into FP32 c (already flushed as an input). A NaN result is canonical;
the flags are those R183 and R184 name: NX of any step, UF and OF of the result, NV where infinities of both signs meet. -/
def dotLvl (l : Nat) (ps : List FVal) (c : Word32) : Word32 × Flags :=
  let neg := ps.any fun p => decide (p = .inf true)
  let anyInf := neg || isInf32 c || ps.any fun p => decide (p = .inf false)
  let anyNan := ps.any fun p => match p with
    | .nan _ => true
    | _ => false
  let nv : Flags := if dotInfs ps c then fNV else 0
  if anyNan || isNaN32 c || dotInfs ps c then (cNaN, nv)
  else
    let pad := (lvlBlock l - ps.length % lvlBlock l) % lvlBlock l
    -- the accumulator, the flags of every step, and those of the last addition
    let (r, fl, last) := (chunksOf (lvlBlock l) (ps ++ List.replicate pad (.fin false 0 0))).foldl
      (fun (acc : Word32 × Flags × Flags) blk =>
        if isNaN32 acc.1 then acc
        else
          let q := blk.map fun p => match p with
            | .fin n m e => (n, m, e)
            | _ => (false, 0, (0 : Int))
          let (b, f1) := if blk.any (fun p => decide (p = .inf false ∨ p = .inf true)) then (inf32 neg, 0) else blockSum l q
          let (r, f2) := addLvl l acc.1 b
          (r, acc.2.1 ||| f1 ||| f2, f2)) (c, 0, 0)
    let nx := fl &&& fNX
    let tiny := fmtF32.subnormal r.toNat && nx != 0
    -- an infinite term decides the result (R184), unless a block that overflowed met it
    (r, nx ||| (fl &&& fNV) ||| (last &&& fUF) ||| (if tiny then fUF else 0) ||| (if isInf32 r && !anyInf then fl &&& fOF else 0))

/-- The exact product of two element values: NaN with NV for 0 × ∞ (R184). -/
def mulVal (a b : FVal) : FVal × Bool :=
  match a, b with
  | .fin n1 m1 e1, .fin n2 m2 e2 => (.fin (n1 != n2) (m1 * m2) (e1 + e2), false)
  | .nan q, _ => (.nan q, false)
  | _, .nan q => (.nan q, false)
  | .inf n1, .inf n2 => (.inf (n1 != n2), false)
  | .inf n1, .fin n2 m _ => if m = 0 then (.nan true, true) else (.inf (n1 != n2), false)
  | .fin n1 m _, .inf n2 => if m = 0 then (.nan true, true) else (.inf (n1 != n2), false)

/-- One pairwise level of a tree (R185). -/
def pairUp (add : Word32 → Word32 → Word32 × Flags) : List Word32 → List Word32 × Flags
  | a :: b :: r => let (s, f) := add a b; let (t, g) := pairUp add r; (s :: t, f ||| g)
  | l => (l, 0)

/-- Tree of R185 over a list whose length is at most 2^fuel. -/
def treeSum (add : Word32 → Word32 → Word32 × Flags) : Nat → List Word32 → Word32 × Flags
  | 0, l => (l.headD 0, 0)
  | n + 1, l =>
    match l with
    | [x] => (x, 0)
    | _ => let (l', f) := pairUp add l; let (r, g) := treeSum add n l'; (r, f ||| g)

/-- Sequential adds from the first element (R185). -/
def seqSum (add : Word32 → Word32 → Word32 × Flags) : List Word32 → Word32 × Flags
  | [] => (0, 0)
  | x :: xs => xs.foldl (fun (a : Word32 × Flags) y => let (r, f) := add a.1 y; (r, a.2 ||| f)) (x, 0)

/-- The sum of 256 positions in the shape of the level (R185, R184): a NaN element first, else infinities, else the adds. Infinities of
both signs raise NV beside a NaN too. -/
def reduceSum (l : Nat) (xs : List Word32) : Word32 × Flags :=
  let pos := xs.any fun w => w == 0x7F800000
  let neg := xs.any fun w => w == 0xFF800000
  match xs.find? isNaN32 with
  | some w => (quiet32 w, if xs.any isSNaN32 || (pos && neg) then fNV else 0)
  | none =>
    if pos && neg then (cNaN, fNV)
    else
      let xs := xs.map (inLvl l)
      let add := addLvl l
      match l with
      | 1 => seqSum add xs
      | 2 =>
        let bs := (chunksOf 16 xs).map (treeSum add 4)
        let (r, f) := seqSum add (bs.map (·.1))
        (r, bs.foldl (fun a b => a ||| b.2) f)
      | 3 =>
        let bs := (chunksOf 32 xs).map (treeSum add 5)
        let (r, f) := treeSum add 3 (bs.map (·.1))
        (r, bs.foldl (fun a b => a ||| b.2) f)
      | _ => treeSum add 8 xs

/-! ## Special functions -/

/-- Fraction bits of the fixed-point evaluation (log 13). -/
def sfuBits : Nat := 200

/-- Terms of a power series: Σ x^k / k! from term t, all scaled by 2^sfuBits. -/
def expSeries (x : Nat) : Nat → Nat → Nat → Nat → Nat
  | 0, _, _, acc => acc
  | n + 1, k, t, acc =>
    let t' := t * x / 2 ^ sfuBits / k
    expSeries x n (k + 1) t' (acc + t')

/-- e^x for 0 ≤ x < 1, scaled by 2^sfuBits. -/
def expFix (x : Nat) : Nat := expSeries x 60 1 (2 ^ sfuBits) (2 ^ sfuBits)

/-- Σ y^(2k+1)/(2k+1), scaled. -/
def atanhSeries (y2 : Nat) : Nat → Nat → Nat → Nat → Nat
  | 0, _, _, acc => acc
  | n + 1, k, t, acc => atanhSeries y2 n (k + 2) (t * y2 / 2 ^ sfuBits) (acc + t / k)

/-- ln((1 + y)/(1 - y)) = 2 atanh y for 0 ≤ y ≤ 1/3, scaled. -/
def lnRatio (y : Nat) : Nat := 2 * atanhSeries (y * y / 2 ^ sfuBits) 70 1 y 0

/-- ln 2, scaled: 2 atanh(1/3). -/
def ln2Fix : Nat := lnRatio (2 ^ sfuBits / 3)

/-- log2 of m·2^-k for 1 ≤ m·2^-k < 2, scaled: ln(m)/ln 2 with y = (x - 1)/(x + 1). -/
def log2Fix (m k : Nat) : Nat :=
  let one := 2 ^ k
  lnRatio ((m - one) * 2 ^ sfuBits / (m + one)) * 2 ^ sfuBits / ln2Fix

/-- A result beside its flags, flushed where FTZ says so (R209). -/
def sfuRound (ftz neg : Bool) (m : Nat) (e : Int) (sticky : Bool) : Word32 × Flags := roundF32 0 ftz neg m e sticky

/-- 2^(z / 2^sfuBits) for an integer z: the integer part scales, the fraction goes through e^(f ln 2). Exact at integers. -/
def exp2Of (ftz : Bool) (z : Int) : Word32 × Flags :=
  let n := z / (2 ^ sfuBits : Nat)
  let f := (z % (2 ^ sfuBits : Nat)).toNat
  if f = 0 then sfuRound ftz false 1 n false
  else sfuRound ftz false (expFix (f * ln2Fix / 2 ^ sfuBits)) (n - sfuBits) true

/-- A finite value scaled by 2^sfuBits, clamped to ±1024 in magnitude; the flag says that bits below the scale were lost. -/
def toFix (n : Bool) (m : Nat) (e : Int) : Int × Bool :=
  if m = 0 then (0, false)
  else if 10 < e + Nat.log2 m then (sInt n (1024 * 2 ^ sfuBits), false)
  else
    let k := e + sfuBits
    if 0 ≤ k then (sInt n (m * 2 ^ k.toNat), false) else (sInt n (m / 2 ^ (-k).toNat), true)

/-- VEXP2 and VEXPE (R209): each the exact value rounded once by RNE (log 13). -/
def sfuExp (base2 ftz : Bool) (w : Word32) : Word32 × Flags :=
  match nanOf [w] with
  | some r => r
  | none =>
    match f32 ftz w with
    | .inf n => (if n then 0 else inf32 false, 0)
    | .fin n m e =>
      if m = 0 then (0x3F800000, 0)
      else if e + Nat.log2 m < -60 then
        -- 1 plus or minus a part far below half a unit: RNE gives 1.0, inexact
        (0x3F800000, fNX)
      else
        let (x, _) := toFix n m e
        -- e^x = 2^(x / ln 2); an exponent of either function is an integer only where 2^x is exact
        let z := if base2 then x else x * (2 ^ sfuBits : Nat) / (ln2Fix : Int)
        exp2Of ftz z
    | .nan _ => (cNaN, 0)

/-- VLOG2 (R209). -/
def sfuLog2 (ftz : Bool) (w : Word32) : Word32 × Flags :=
  match nanOf [w] with
  | some r => r
  | none =>
    match f32 ftz w with
    | .inf n => if n then (cNaN, fNV) else (inf32 false, 0)
    | .fin n m e =>
      if m = 0 then (inf32 true, fDZ)
      else if n then (cNaN, fNV)
      else
        let k := Nat.log2 m
        let i := e + k
        if m = 2 ^ k then (ofInt 0 i)
        else
          let v : Int := i * (2 ^ sfuBits : Nat) + log2Fix m k
          sfuRound ftz (decide (v < 0)) v.natAbs (-(sfuBits : Int)) true
    | .nan _ => (cNaN, 0)

/-- VRCP (R209): the quotient 1/x. -/
def sfuRcp (ftz : Bool) (w : Word32) : Word32 × Flags :=
  match nanOf [w] with
  | some r => r
  | none => fdiv32 0 ftz 0x3F800000 w

/-- VRSQ (R209): 1/√x by an integer square root of 2^(2k)/m. -/
def sfuRsq (ftz : Bool) (w : Word32) : Word32 × Flags :=
  match nanOf [w] with
  | some r => r
  | none =>
    match f32 ftz w with
    | .inf n => if n then (cNaN, fNV) else (0, 0)
    | .fin n m e =>
      if m = 0 then (inf32 n, fDZ)
      else if n then (cNaN, fNV)
      else
        let odd := e % 2 = 1
        let m := if odd then 2 * m else m
        let e := if odd then e - 1 else e
        let q := 2 ^ 200 / m
        let r := isqrt q
        sfuRound ftz false r (-(e / 2) - 100) (r * r * m != 2 ^ 200)
    | .nan _ => (cNaN, 0)

end Sys2Proof.Machine
end

