-- ==== Sys2Proof/Machine/Wire.lean ====
section
/-! DEFINITION. What a collective carries and where it lands (20 R386, R389 to R391, R394, R398): wire codes, the descriptor's fields,
combination, chunks, and an abort. -/

namespace Sys2Proof.Machine

/-! ## Wire codes -/

/-- A format with a scale or E beside its elements. -/
def fcScaled (fc : Nat) : Bool := fcBlock fc || decide (fc = 18)

/-- The wire code of element i in the bytes of a tensor. -/
def wireCode (fc bl : Nat) (bs : List Byte) (i : Nat) : Word32 :=
  let (c, sc) := elemCode fc bl bs i
  BitVec.ofNat 32 (if fcScaled fc then 256 * sc + c else c)

/-- The value that a wire code stands for. -/
def wireValue (fc : Nat) (w : Word32) : Word32 :=
  let c := w.toNat % 256
  let sc := w.toNat / 256 % 256
  if fcBlock fc then (decodeScaled fc sc c).1 else if fc = 18 then baleDecode sc c else (decodeElem fc false w.toNat).1

/-- The bytes of wire codes in their own format; unused scale bytes and codes are zero (R391; a DS8 code's zero is 0x77, R169). -/
def wirePack (fc bl : Nat) (ws : List Word32) : List Byte :=
  let b : Nat := 2 ^ bl
  let zc : Nat := if fc = 14 then 0x77 else 0
  let pad (n : Nat) (xs : List Word32) : List Nat := xs.map (fun x => x.toNat % 256) ++ List.replicate (n - xs.length) zc
  let sc (xs : List Word32) : Byte := BitVec.ofNat 8 ((xs.headD 0).toNat / 256)
  if fcBlock fc then
    (chunksOf 8 (chunksOf b ws)).flatMap fun g =>
      g.map sc ++ List.replicate (8 - g.length) 0 ++ g.flatMap fun xs => leBytes (fcBits fc * b / 8) (packCodes (fcBits fc) (pad b xs))
  else if fc = 18 then (chunksOf 16 ws).flatMap fun xs => sc xs :: leBytes 14 (packCodes 7 (pad 16 xs)) ++ [0]
  else leBytes (fcBytes fc bl ws.length) (packCodes (fcBits fc) (ws.map (·.toNat)))

/-- Wire codes as bytes of DST's format (R391, R266): bit for bit where the formats are equal. -/
def wireBytes (wfc wbl dfc dbl : Nat) (ws : List Word32) : List Byte :=
  if wfc = dfc ∧ wbl = dbl then wirePack wfc wbl ws else fillBytes (encodeMem dfc dbl 0 true false (ws.map (wireValue wfc))).1

/-! ## The descriptor (R389) -/

def cdVs (d : List Word) : Nat := fld (dw d 0) 11 0
def cdKind (d : List Word) : Nat := fld (dw d 0) 15 12
def cdOp (d : List Word) : Nat := fld (dw d 0) 19 16
def cdWfc (d : List Word) : Nat := fld (dw d 0) 25 20
def cdWbl (d : List Word) : Nat := fld (dw d 0) 29 26
def cdNrank (d : List Word) : Nat := fld (dw d 0) 42 32
def cdRank (d : List Word) : Nat := fld (dw d 0) 57 48
def cdCount (d : List Word) : Nat := fld (dw d 3) 31 0
def cdChunk (d : List Word) : Nat := fld (dw d 3) 47 32
def cdFlags (d : List Word) : Nat := fld (dw d 4) 47 0

/-- NCH of R390. -/
def cdNch (d : List Word) : Nat := (cdCount d + cdChunk d - 1) / cdChunk d

/-- Elements of a rank's part of a reduce-scatter. -/
def cdPart (d : List Word) : Nat := cdCount d / cdNrank d

/-- A rank receives a result (R390). -/
def cdReceives (d : List Word) (r : Nat) : Bool := decide (cdKind d ≠ 1 ∨ r = 0)

/-- A rank sends a contribution (R390). -/
def cdSends (d : List Word) (r : Nat) : Bool := decide (cdKind d ≠ 0 ∨ r = 0)

/-- Flags of a rank's result region (R390). -/
def cdNflags (d : List Word) (r : Nat) : Nat :=
  if !cdReceives d r then 0
  else match cdKind d with
    | 3 => cdNrank d * cdNch d
    | 4 => (cdPart d + cdChunk d - 1) / cdChunk d
    | _ => cdNch d

/-- Elements of a rank's result region (R390). -/
def cdElems (d : List Word) (r : Nat) : Nat :=
  if !cdReceives d r then 0
  else match cdKind d with
    | 3 => cdNrank d * cdCount d
    | 4 => cdPart d
    | _ => cdCount d

/-- Chunk j of rank r's result: contributing rank, first element there, number of elements, and the place among DST's elements. -/
def cdChunkOf (d : List Word) (r j : Nat) : Nat × Nat × Nat × Nat :=
  let ch := cdChunk d
  match cdKind d with
  | 3 => let i := j % cdNch d * ch; (j / cdNch d, i, min ch (cdCount d - i), j / cdNch d * cdCount d + i)
  | 4 => let i := j * ch; (0, r * cdPart d + i, min ch (cdPart d - i), i)
  | _ => let i := j * ch; (0, i, min ch (cdCount d - i), i)

/-! ## Combination (R386, R391) -/

/-- Two values combined by an OP of R390; fadd adds at the level, its left operand first. -/
def combine2 (op level : Nat) (a b : Word32) : Word32 :=
  match op with
  | 1 => (addLvl level a b).1
  | 2 => a + b
  | 3 => if isNaN32 a || isNaN32 b then cNaN else (fminmax32 true false a b).1
  | 4 => if isNaN32 a || isNaN32 b then cNaN else (fminmax32 false false a b).1
  | 5 => if a.slt b then b else a
  | 6 => if b.slt a then b else a
  | _ => a

/-- The pairwise tree over the 2^h rank positions from b on (R391): an absent position has no value, and a node with one present child passes
that child's on. -/
def treeAt (add : Word32 → Word32 → Word32) (val : Nat → Option Word32) : Nat → Nat → Option Word32
  | 0, b => val b
  | h + 1, b =>
    match treeAt add val h b, treeAt add val h (b + 2 ^ h) with
    | some x, some y => some (add x y)
    | some x, none => some x
    | none, y => y

/-- The canonical tree over the values at rank positions (R391). -/
def combineAll (op level : Nat) (val : Nat → Option Word32) : Option Word32 := treeAt (combine2 op level) val 10 0

/-! ## Beats -/

def Beat.away : Beat → Bool
  | .elem away _ _ _ => away
  | .marker away _ => away
  | .digest _ _ => false
def Beat.ranks : Beat → List Nat
  | .elem _ rs _ _ => rs
  | .marker _ rs => rs
  | .digest q _ => [q]
def Beat.index : Beat → Nat
  | .elem _ _ i _ => i
  | _ => 0
def Beat.value : Beat → Option Word32
  | .elem _ _ _ v => some v
  | _ => none

def Beat.isMarker : Beat → Bool
  | .marker _ _ => true
  | _ => false

/-- A rank added to a rising list. -/
def insertRank (q : Nat) : List Nat → List Nat
  | [] => [q]
  | x :: xs => if q < x then q :: x :: xs else if q = x then x :: xs else x :: insertRank q xs

/-- The ranks of several lists, in rising order. -/
def unionRanks (xss : List (List Nat)) : List Nat := xss.flatten.foldl (fun l q => insertRank q l) []

/-- What an adder takes of a beat (R182, R186): a rank's contribution as an input of the sum, a partial sum as a result. -/
def Beat.addend (op level : Nat) (b : Beat) : Option Word32 :=
  b.value.map fun v => if op ≠ 1 then v else if b.ranks.length ≤ 1 then inLvl level v else outLvl level v

/-- What a combining point makes of the beats at its inputs, in the order given (R386): one element, of an fadd from two, or one marker where
each is a marker. -/
def joinBeats (op level : Nat) (bs : List Beat) : Option Beat :=
  let rs := unionRanks (bs.map Beat.ranks)
  match bs with
  | [] => none
  | [b] => some b
  | b :: _ =>
    match bs.mapM (Beat.addend op level) with
    | some (v :: vs) => if op = 1 ∧ vs.length ≠ 1 then none else some (.elem b.away rs b.index (vs.foldl (combine2 op level) v))
    | some [] => none
    | none => if bs.all fun b => b.value.isNone then some (.marker b.away rs) else none

/-! ## Chunks at a receiver -/

/-- The place of a byte of a rank's regions: as its core's, and whether or not the unit still runs (R398); the other-local window
through the kept keys. -/
def Rank.place (r : Rank) (s : State) (p v : Nat) : Option Nat :=
  match windowOf v with
  | .ownLocal => some (localKey r.core (v - localBase))
  | .common => some (commonKey s p (v - commonBase))
  | .global => (mfind r.tr (pageOf v)).bind fun ph => physKey s p (ph + v % 2 ^ 16)
  | .otherLocal => (mfind r.tr (pageOf v)).map fun key => key + v % 2 ^ 16
  | _ => none

/-- Writes bytes of a rank's regions. -/
def rankWrite (s : State) (p : Nat) (r : Rank) (v : Nat) : List Byte → State
  | [] => s
  | b :: bs =>
    rankWrite (match r.place s p v with
      | some key => writeKey s key b
      | none => s) p r (v + 1) bs

/-- Reads bytes of a rank's regions. -/
def rankRead (s : State) (p : Nat) (r : Rank) (v n : Nat) : List Byte :=
  (span v n).map fun a => ((r.place s p a).map (readKey s)).getD 0

/-- The key of an element in a rank's `got`. -/
def elemKey (q i : Nat) : Nat := 2 ^ 32 * q + i

/-- Every element of chunk j has been received. -/
def Rank.complete (r : Rank) (j : Nat) : Bool :=
  let (q, i, n, _) := cdChunkOf r.desc r.rank j
  (span i n).all fun x => (mfind r.got (elemKey q x)).isSome

/-- The address and bytes that chunk j writes in DST. -/
def Rank.chunkBytes (r : Rank) (j : Nat) : Nat × List Byte :=
  let (q, i, n, at_) := cdChunkOf r.desc r.rank j
  let fc := fld (dw r.desc 2) 63 58
  let bl := fld (dw r.desc 2) 57 54
  (fld (dw r.desc 2) 47 0 + fcBytes fc bl at_,
    wireBytes (cdWfc r.desc) (cdWbl r.desc) fc bl ((span i n).map fun x => mget 0 r.got (elemKey q x)))

/-- A chunk of rank r that is complete and whose flag is not written, its bytes performed or not. -/
def Rank.chunkReady (r : Rank) (performed : Bool) : Option Nat :=
  (List.range (cdNflags r.desc r.rank)).find? fun j => r.bytes.contains j == performed && !r.flags.contains j && r.complete j

/-! ## Abort (R398) -/

/-- The bytes of a complete chunk without its flag, old or new each. -/
def abortChunk (p : Nat) (r : Rank) (s : State) (j : Nat) : State :=
  let (a, bs) := r.chunkBytes j
  let old := rankRead s p r a bs.length
  let mix := (old.zip bs).zipIdx.map fun x => if Config.freeBit (s.freeCtr + x.2) then x.1.2 else x.1.1
  { rankWrite s p r a mix with freeCtr := s.freeCtr + bs.length }

/-- Aborts stream vs of partition p: its beats are discarded; chunks without flags keep old and new bytes in any mix; FEVT.ABORT
rises. -/
def abortStream (s : State) (p vs : Nat) : State :=
  match mfind (s.part p).streams vs with
  | none => s
  | some x =>
    let s := x.ranks.foldl (fun s r =>
      ((List.range (cdNflags r.desc r.rank)).filter fun j => !r.flags.contains j && r.complete j).foldl (abortChunk p r) s) s
    let q := s.part p
    let q := { q with streams := mput q.streams vs { x with aborted := true, inq := [], bank := [], out := [] },
                      fevt := putFld q.fevt 3 3 1 }
    { s.setPart p q with msix := s.msix ++ [(p, 1)] }

end Sys2Proof.Machine
end

