-- ==== Sys2Proof/Machine/Launch.lean ====
section
/-! DEFINITION. The scheduler's bookkeeping (02 R38 to R49, 03 R73, R75, 15 R349, R350): completion blocks, continuation records,
ready units, and the end or the cancel of units, routines and launches. -/

namespace Sys2Proof.Machine

/-! ## Device accesses to records -/

/-- The place of an address that a device agent accesses for a job: the Common or global window (R47, R48, R55); no TLB is used. -/
def agentKey (s : State) (p job v : Nat) : Option Nat :=
  match windowOf v with
  | .common => if v - commonBase < commonSize s p then some (commonKey s p (v - commonBase)) else none
  | .global =>
    match walk s p job v with
    | .ok l => physKey s p (l.phys + v % l.size)
    | .error _ => none
  | _ => none

/-- The doubleword at an 8-aligned address, as an agent of a job reads it: none where the address has no place or the doubleword holds an
uncorrectable error (R240, R246). -/
def agentRead (s : State) (p job v : Nat) : Option Word :=
  (agentKey s p job v).bind fun k => if s.bad k 8 then none else some (BitVec.ofNat 64 (leNat (s.bytes k 8)))

/-- An agent of a job finds an uncorrectable error in one of n doublewords from an 8-aligned address (R246). -/
def agentBad (s : State) (p job v n : Nat) : Bool :=
  (List.range n).any fun i => ((agentKey s p job (v + 8 * i)).map fun k => s.bad k 8).getD false

/-- The corrected errors in n doublewords that an agent of a job reads are counted (R240, R246). -/
def agentCount (s : State) (p job v n : Nat) : State :=
  if s.ecc.isEmpty then s
  else
    (List.range n).foldl (fun s i => match agentKey s p job (v + 8 * i) with
      | some k => s.countEcc k 8
      | none => s) s

/-- Writes a doubleword at an 8-aligned address; an address without a place keeps nothing. -/
def agentWrite (s : State) (p job v : Nat) (w : Word) : State :=
  match agentKey s p job v with
  | some k => s.setBytes k (leBytes 8 w.toNat)
  | none => s

/-- Reads n doublewords from an address. -/
def agentReads (s : State) (p job v n : Nat) : Option (List Word) :=
  (List.range n).mapM fun i => agentRead s p job (v + 8 * i)

/-! ## Completion blocks -/

/-- Which table a completion block stands in (R38). -/
inductive BKind where
  | launch | graph | phase | job
  deriving DecidableEq, Repr

def Part.blk (p : Part) (k : BKind) (i : Nat) : Block :=
  mget Block.reset (match k with
    | .launch => p.launchBlks
    | .graph => p.graphBlks
    | .phase => p.phaseBlks
    | .job => p.jobBlks) i

def Part.setBlk (p : Part) (k : BKind) (i : Nat) (b : Block) : Part :=
  match k with
  | .launch => { p with launchBlks := mput p.launchBlks i b }
  | .graph => { p with graphBlks := mput p.graphBlks i b }
  | .phase => { p with phaseBlks := mput p.phaseBlks i b }
  | .job => { p with jobBlks := mput p.jobBlks i b }

/-- A member of a block ended with a status (R42): OUT falls, and the lowest status other than 0x01 is kept. -/
def Block.ends (b : Block) (status : Nat) : Block :=
  if status = 1 then { b with out := b.out - 1 }
  else { b with out := b.out - 1, worst := if b.worst = 0 then status else min b.worst status }

/-- So many units of a launch, or launches beneath a graph, phase or job, ended with a status other than 0x01 (R40, R81; log 24). -/
def Block.fails (b : Block) (n : Nat) : Block := { b with errcnt := min (b.errcnt + n) (2 ^ 32 - 1) }

/-- A cancelled block sets DONE: the `n` units or launches beneath it that had not ended have ended (R40, R43; log 24). -/
def Block.cancelled (b : Block) (status n : Nat) : Block := { b.fails n with canc := true, done := true, status := status, out := 0 }

/-- The status a block takes when it sets DONE (R42): 0 where ERRCNT comes from rollbacks alone and no member ended with a status other
than 0x01, of which the rule gives none (log 97). -/
def Block.final (b : Block) : Nat := if b.errcnt = 0 then 1 else b.worst

/-- A block that is complete sets DONE (R42). -/
def Block.close (b : Block) : Block :=
  if b.out = 0 ∧ b.closed ∧ !b.done then { b with done := true, status := b.final } else b

/-- A phase's job sees it end. A cancelled block discards completion events (R44). -/
def jobMember (p : Part) (j status : Nat) : Part :=
  let b := p.blk .job j
  if b.canc then p else p.setBlk .job j (b.ends status)

/-- A phase block changes, and its job sees the phase end where the change sets DONE (R42). -/
def phaseStep (p : Part) (ph : Nat) (f : Block → Block) : Part :=
  let b := p.blk .phase ph
  let b' := if b.canc then f b else (f b).close
  let p := p.setBlk .phase ph b'
  if b'.done && !b.done then jobMember p b.job b'.status else p

/-- A member of a phase ends. -/
def phaseMember (p : Part) (ph status : Nat) : Part :=
  if ph = 0xFFF ∨ (p.blk .phase ph).canc then p else phaseStep p ph fun b => b.ends status

/-- A graph block changes, and its phase sees the graph end where the change sets DONE (R42). -/
def graphStep (p : Part) (g : Nat) (f : Block → Block) : Part :=
  let b := p.blk .graph g
  let b' := if b.canc then f b else (f b).close
  let p := p.setBlk .graph g b'
  if b'.done && !b.done then phaseMember p (mget 0xFFF p.graphPhase g) b'.status else p

/-- A launch of a graph ends. -/
def graphMember (p : Part) (g status : Nat) : Part :=
  if (p.blk .graph g).canc then p else graphStep p g fun b => b.ends status

/-- The graph, phase and job of a launch that ended with a status other than 0x01 count it (R40, R81), where they are open; a cancelled one
discards it (R44). -/
def launchFails (p : Part) (l : Launch) : Part :=
  let rise (k : BKind) (p : Part) (i : Nat) : Part :=
    let b := p.blk k i
    if b.opened && !b.canc && !b.done && b.job == l.job then p.setBlk k i (b.fails 1) else p
  let p := if l.graph = 0x3FFF then p else rise .graph p l.graph
  let p := if l.phase = 0xFFF then p else rise .phase p l.phase
  rise .job p l.job

/-- The levels above a launch see it end. -/
def aboveLaunch (p : Part) (l : Launch) (status : Nat) : Part :=
  let p := if status = 1 then p else launchFails p l
  if l.graph ≠ 0x3FFF then graphMember p l.graph status else phaseMember p l.phase status

/-! ## Units in queues -/

/-- Removes a launch's unit from the ready queues, deques and event waiting lists of its partition. -/
def dropUnit (s : State) (p blk rcd : Nat) : State :=
  let foldOut (x : Nat × Fold) : Nat × Fold :=
    if partOfFold s x.1 = p then
      (x.1, { x.2 with
        ready := x.2.ready.filter fun u => !(u.1 == blk && u.2 == rcd),
        evwait := x.2.evwait.filter fun w => decide (w.2 ≠ .unit_ blk rcd) })
    else x
  let coreOut (x : Nat × Core) : Nat × Core :=
    if partOfFold s (foldOf x.1) = p then
      (x.1, { x.2 with
        deque := x.2.deque.filter (· != (blk, rcd)), spill := x.2.spill.filter (· != (blk, rcd)),
        resumes := x.2.resumes.filter (· != (blk, rcd)) })
    else x
  { s with folds := s.folds.map foldOut, cores := s.cores.map coreOut }

/-- A core of a fold holds a unit or routine of a launch: one that it runs, or a persistent one that is suspended there (R79, R213). -/
def holdsOn (s : State) (p blk f : Nat) : Bool :=
  ((List.range 8).any fun i =>
    match (s.core (8 * f + i)).occ with
    | some o => o.part == p && o.blk == blk
    | none => false) ||
  ((s.launch p blk).map fun l => l.homes.any fun h => foldOf h.2 == f).getD false

/-- The load of a fold: ready-queue length plus running units (R73). -/
def foldLoad (s : State) (f : Nat) : Nat :=
  (s.fold f).ready.length + ((List.range 8).filter fun i => (s.core (8 * f + i)).occ.isSome).length

/-- The fold whose ready queue takes a unit (R73): AFF where it is valid and among the launch's folds, else the least loaded. -/
def readyFold (s : State) (p : Nat) (l : Launch) (aff : Option Nat) : Nat :=
  match aff with
  | some t => if l.fbase ≤ t ∧ t < l.fbase + l.fcount then devFold s p t else devFold s p l.fbase
  | none =>
    ((List.range l.fcount).foldl (fun best t =>
      let f := devFold s p (l.fbase + t)
      match best with
      | none => some f
      | some g => if foldLoad s f < foldLoad s g then some f else some g) none).getD 0

/-- A READY unit enters a fold's ready queue (R73); a persistent one that has run waits for its own core (R79). -/
def makeReady (s : State) (p blk rcd : Nat) (l : Launch) : State :=
  match l.homes.find? fun h => l.pers && h.1 == rcd with
  | some h => s.updCore h.2 fun k => { k with resumes := k.resumes ++ [(blk, rcd)] }
  | none =>
  let w0 := (agentRead s p l.job rcd).getD 0
  let aff := if fld w0 53 53 = 1 ∧ l.fbase ≤ fld w0 63 54 ∧ fld w0 63 54 < l.fbase + l.fcount then some (fld w0 63 54)
    else none
  s.updFold (readyFold s p l aff) fun f => { f with ready := f.ready ++ [(blk, rcd)] }

/-- Writes STATE of a record's word 0, and nothing else of it (R43, R46, R47). A word 0 that cannot be read keeps what it holds (log 116). -/
def setRecState (s : State) (p job rcd st : Nat) : State :=
  match agentRead s p job rcd with
  | some w => agentWrite s p job rcd (putFld w 50 48 st)
  | none => s

/-- A waiting unit becomes READY with AFF := fold t where one is given (R298). -/
def wakeUnit (s : State) (p blk rcd : Nat) (aff : Option Nat) : State :=
  match s.launch p blk with
  | none => s
  | some l =>
    let s := setRecState s p l.job rcd 1
    let s := match aff with
      | some t => agentWrite s p l.job rcd (putFld (putFld ((agentRead s p l.job rcd).getD 0) 63 54 t) 53 53 1)
      | none => s
    makeReady s p blk rcd l

/-- The launch whose unit of record rcd waits in JOIN on block jb (R48), of the same job or through the Common; a launch that has ended has
no units. -/
def joinWaiter (q : Part) (job jb rcd : Nat) : Option (Nat × Launch) :=
  q.launches.find? fun x => (x.2.job == job || windowOf jb == .common) && x.2.joins.contains (rcd, jb) && !(q.blk .launch x.1).done

/-- The decrement of a join block (R48, R309): COUNT falls by 1; at 0, a parent that waits in JOIN on the block becomes READY. Answers none
where the block lies outside the Common and global windows, holds a reserved bit, or COUNT is 0. -/
def joinDecrement (s : State) (p : Nat) (l : Launch) (jb : Nat) : Option (Nat × State) :=
  match agentRead s p l.job jb with
  | none => none
  | some w =>
    let n := fld w 31 0
    if fld w 63 32 ≠ 0 ∨ n = 0 then none
    else
      let s := agentWrite s p l.job jb (BitVec.ofNat 64 (n - 1))
      if n = 1 then
        let parent := ((agentRead s p l.job (jb + 8)).getD 0).toNat % 2 ^ 48
        match joinWaiter (s.part p) l.job jb parent with
        | some (b, lp) =>
          let w0 := (agentRead s p lp.job parent).getD 0
          if fld w0 50 48 = 3 ∧ fld w0 2 0 = 2 then
            let s := s.updPart p fun q =>
              { q with launches := mput q.launches b { lp with joins := lp.joins.filter (·.1 != parent) } }
            some (1, wakeUnit s p b parent none)
          else some (1, s)
        | none => some (1, s)
      else some (n, s)

/-! ## Error records -/

/-- Writes a launch's error record, once (R350). -/
def writeErr (s : State) (p blk : Nat) (r : ErrRec) : State :=
  s.updPart p fun q => if (mfind q.errs blk).isSome then q else { q with errs := mput q.errs blk r }

/-! ## The end of launches -/

/-- A node whose counter reached zero makes its accepted launch ready; its counter stays zero (R53). -/
def nodeReady (p : Part) (node : Nat) : Part :=
  let wake (x : Nat × Launch) : Nat × Launch :=
    if x.2.node = node ∧ x.2.graph ≠ 0x3FFF ∧ x.2.stage = .waiting ∧ mget 0 p.nodes node = 0
    then (x.1, { x.2 with stage := .ready }) else x
  { p with launches := p.launches.map wake }

/-- A completed launch subtracts 1 from its successors' counters (R53). The counter of a node whose launch a cancel has ended stays zero, as
R43 leaves it: that a predecessor's later completion does not lower it is the model's choice (log 24). -/
def decrementSuccs (p : Part) (graph job : Nat) (succ : List Nat) : Part :=
  succ.foldl (fun p n =>
    if p.endedNodes.contains (graph, n) then p
    else nodeReady { p with
      nodeJob := mput p.nodeJob n job, nodes := mset 0 p.nodes n (Int.bmod (mget 0 p.nodes n - 1) 65536) } n) p

/-- The initial units of the ready unflagged launches of a partition enter the ready queues (R67, R73). -/
def releaseReady (s : State) (p : Nat) : State :=
  ((s.part p).launches.filter fun x => decide (x.2.stage = .ready) && !x.2.det && !x.2.queued).foldl (fun s x =>
    let s := s.updPart p fun q => { q with launches := mput q.launches x.1 { x.2 with queued := true } }
    (List.range x.2.units).foldl (fun s i => makeReady s p x.1 (x.2.arena + 64 * i) x.2) s) s

/-- Marks a launch done with a status and lets the levels above see it (R42). A cancelled one decrements nothing (R43). -/
def launchDone (s : State) (p blk status : Nat) (cancelled : Bool) : State :=
  match s.launch p blk with
  | none => s
  | some l =>
    let s' := s.updPart p fun q =>
      let b := q.blk .launch blk
      let q := q.setBlk .launch blk { b with done := true, status := status, canc := b.canc || cancelled }
      let q := { q with launches := mput q.launches blk { l with stage := .done } }
      let q := aboveLaunch q l status
      let q := if q.hpre = some blk then { q with hpre := none, hpres := 3 } else q
      if cancelled then
        { q with deadNodes := ((l.succ.map fun n => (l.graph, n)).filter fun x => !q.endedNodes.contains x) ++ q.deadNodes }
      else decrementSuccs q l.graph l.job l.succ
    releaseReady s' p

/-- A member of a launch ended with a status; at OUT = 0 the launch sets DONE (R42). -/
def launchMember (s : State) (p blk status : Nat) : State :=
  let b := (s.part p).blk .launch blk
  if b.canc || b.done then s
  else
    let b' := (b.ends status).fails (if status = 1 then 0 else 1)
    let s := s.updPart p fun q => q.setBlk .launch blk b'
    if b'.out = 0 then launchDone s p blk b'.final false else s

/-- A request of a DRMW, which a flagged launch stages (R319). -/
def DroveOp.rmwOp (o : DroveOp) : Bool :=
  match o with
  | .rmw _ => true
  | _ => false

/-- Reinserts the contents that a capture took at its DCAP, and ends it (R318). -/
def endCapture (s : State) (c : Nat) : State :=
  match (s.core c).cap with
  | none => s
  | some k =>
    let s := match k.slot with
      | some i => { s with slots := mput s.slots i { soft := false, state := .live, key := k.key, hold := 0, words := k.orig } }
      | none => s
    s.updCore c fun v => { v with cap := none, drove := v.drove.filter fun r => !(decide (r.op = .cap ∨ r.op = .rel) && r.key == k.key) }

/-- The unit or routine that a core runs, as a mutex records its holder (R297). -/
def Core.runner (k : Core) : Nat × Nat :=
  match k.occ with
  | some o => (o.blk, if o.flagged then o.k else o.rcd)
  | none => (0, 0)

/-- A fold's mutex line. -/
def Fold.mutex (f : Fold) (m : Nat) : Mutex := mget { holder := none, waiters := [] } f.mutexes m

/-- A core's wait ends with a value. -/
def release (s : State) (c : Nat) (v : Word) : State := s.updCore c fun k => { k with wait := some (.released v) }

/-- The next waiter takes a released mutex (R297). -/
def passMutex (s : State) (f i : Nat) : State :=
  let v := s.fold f
  let m := v.mutex i
  match m.waiters with
  | [] => s.setFold f { v with mutexes := mput v.mutexes i { m with holder := none } }
  | c :: cs =>
    release (s.setFold f { v with mutexes := mput v.mutexes i { holder := some (s.core c.1).runner, waiters := cs } }) c.1 1

/-- The mutexes of a partition's folds whose holder is named are released: EXIT, and a cancel of the holder (R297). A unit that moved keeps
what it holds on another fold. -/
def releaseMutexes (s : State) (p : Nat) (held : Nat × Nat → Bool) : State :=
  s.folds.foldl (fun s x =>
    if partOfFold s x.1 = p then
      (x.2.mutexes.filter fun y => (y.2.holder.map held).getD false).foldl (fun s y => passMutex s x.1 y.1) s
    else s) s

/-- An engine entry that is being performed: a tile sent to its neighbour, or an operation that stopped at a translation fault (R226, R229,
R267). -/
def QEntry.started (e : QEntry) : Bool :=
  match e with
  | .matrix m => m.faulted.isSome || match m.op with
    | .arriving .. => true
    | _ => false
  | .copy x => x.faulted.isSome || decide (0 < x.next)

/-- The shadow regions that dropped entries held are free again (R226). -/
def freeShadows (s : State) (es : List QEntry) : State :=
  es.foldl (fun s e => match e with
    | .matrix m => if m.faulted.isSome then s.updFold m.fold fun v => { v with shadow := v.shadow - 1 } else s
    | .copy _ => s) s

/-- A new journal epoch, with JEN (R243). -/
def newEpoch (k : Core) (jen : Nat) : Core :=
  { k with journal := [], jspill := [], snapBad := false }.setCtl 0x020 (putFld (putFld (putFld (k.ctl 0x020) 20 10 0) 9 9 0) 8 8 jen)

/-- An outstanding AMO, which changes memory. -/
def LoadKind.isAmo (l : LoadKind) : Bool :=
  match l with
  | .amo .. => true
  | _ => false

def Load.isAmo (l : Load) : Bool := l.kind.isAmo

/-- An outstanding acquire AMO: no later access is performed before it (R293). -/
def Load.acquires (l : Load) : Bool :=
  match l.kind with
  | .amo _ _ _ _ acq => acq
  | _ => false

/-- The drove requests that write rd. -/
def DroveOp.returns : DroveOp → Bool
  | .board => true
  | .alight => true
  | .read => true
  | .rmw _ => true
  | _ => false

/-- The list without the entries that the current interval added at a place. -/
def Yoke.agreed {α : Type} (y : Yoke) (i : Nat) (l : List α) : List α := l.take (l.length - mget 0 y.queued i)

/-- The AMOs of a core without those that the current interval issued; no other load outlives its interval. -/
def Yoke.agreedAmos (y : Yoke) (ls : List Load) : List Load := y.agreed 11 (ls.filter Load.isAmo)

/-- Slices of an entry (R85): one where L = 0 and the instruction writes vd[0] whatever L is (VDOT, VRED), else ⌈L/32⌉. -/
def VEntry.slices (e : VEntry) : Nat :=
  if e.len = 0 then
    match e.op with
    | .arith .dot => 1
    | .red _ => 1
    | _ => 0
  else (e.len + 31) / 32

/-- The head entry of a core's sequencer, where it has issued a slice (R85, R211). -/
def Core.seqStarted (k : Core) : Option VEntry :=
  (match k.seqr with
    | .one e :: _ => some e
    | .block es i _ :: _ => es[i]?
    | [] => none).filter fun e => decide (e.left < e.slices)

/-- What the packet at pc waits for, and what it has begun, is dropped. -/
def Core.fresh (k : Core) : Core :=
  { k with wait := none, tfault := none, walkWait := none, hostFail := false, macroOp := none, aDone := false }

/-- Core c neither stands at a barrier of its fold, nor waits for a mutex or an event there. -/
def leaveLines (s : State) (c : Nat) : State :=
  s.updFold (foldOf c) fun v => { v with
    barriers := v.barriers.map fun x => (x.1, { x.2 with arrived := x.2.arrived.filter (· != c % 8) }),
    mutexes := v.mutexes.map fun x => (x.1, { x.2 with waiters := x.2.waiters.filter (·.1 != c) }),
    evwait := v.evwait.filter fun w => decide (w.2 ≠ .core c) }

/-- The unit or routine of a core stops for good (R43): sequencer and queue entries not started, outstanding loads and waits are
discarded; an entry being performed completes (R237, R289); buffered stores, AMOs and drove requests, which retired packets made, remain,
but deliver nothing. A pair's epoch ends with it (R243). -/
def clearCore (s : State) (c : Nat) : State :=
  let k := s.core c
  let s := leaveLines (endCapture s c) c
  let s := match k.occ with
    | some o => s.updPart o.part fun q => { q with contrec := q.contrec.filter fun x => !(x.core == c && x.kind == 2) }
    | none => s
  -- A vector entry that has issued a slice completes, and its last slices with it (R211).
  let live := k.seqStarted
  let s := if k.yoke.isSome then s.updCore c fun k => newEpoch k 0 else s
  s.updCore c fun k => { k.fresh with
    drove := k.drove.map fun r => { r with rd := 0 }
    occ := none, r := { k.r with vl := 256, v := if live.isSome then k.r.v else [], lanes := 0 }
    seqr := (live.map fun e => SeqItem.one { e with left := 0, again := false }).toList
    vcap := none, loads := ((k.yoke.map fun y => y.agreedAmos k.loads).getD (k.loads.filter Load.isAmo)).map fun x => { x with rd := 0 },
    fences := [],
    queues := (k.queues.map fun x => (x.1, ({ entries := x.2.entries.filter QEntry.started, err := none } : EQueue))).filter fun x =>
      !x.2.entries.isEmpty,
    orphanOf := k.occ.map fun o => (o.part, o.blk),
    preempt := none, droveErr := none, sendErr := false, streams := [], yoke := none }

/-- The other core of a pair (R371). -/
def partnerCore (c : Nat) : Nat := if c % 2 = 0 then c + 1 else c - 1

/-- The partner of the pair on core c holds what core c holds (R371, R372): both have run the same stream to the same point. Its lanes are
its own grant (R211), and its own journal stays empty. -/
def mirrorPair (s : State) (c : Nat) : State :=
  if (s.core c).yoke.isSome then
    s.updCore (partnerCore c) fun k => { k with
      r := { (s.core c).r with lanes := k.r.lanes, lastReq := k.r.lastReq }, journal := [], jspill := [] }
  else s

/-- Frees the partner of a yoked pair when its leader stops or leaves: its grant returns (R83, R211) and its epoch ends (R243). -/
def unpair (s : State) (c : Nat) : State :=
  let free (k : Core) : Core := newEpoch { k with partnerOf := none, r := { k.r with vl := 256, v := [], lanes := 0 } } 0
  { s with cores := s.cores.map fun x => if x.2.partnerOf = some c then (x.1, free x.2) else x }

/-- A matrix entry that a fold's engine performs. -/
def QEntry.onFold (e : QEntry) (f : Nat) : Bool :=
  match e with
  | .matrix m => decide (m.fold = f)
  | .copy _ => false

/-- The matrix state of a fold as instructions find it: all zero while it has no owner (R213). -/
def Fold.matrix (v : Fold) : MState := if v.owner.isNone then MState.zero else v.m

/-- Ownership of a fold's matrix state ends with the owner's last unit there and its last entry at the engine; the contents stay until
ownership begins again (R213). -/
def releaseMatrix (s : State) (f : Nat) : State :=
  match (s.fold f).owner with
  | none => s
  | some (p, blk, _) =>
    if !holdsOn s p blk f && !(s.cores.any (fun x => x.2.queues.any (fun q => q.2.entries.any (fun e => e.onFold f))))
    then s.updFold f fun v => { v with owner := none, shadow := 0 }
    else s

/-- Event counts and sync words clear when a fold passes from holding no unit or routine to holding one (R295). -/
def foldWakes (s : State) (f : Nat) : State :=
  if (List.range 8).any (fun i => (s.core (8 * f + i)).occ.isSome) then s
  else s.updFold f fun v => { v with events := [], sync := [] }

/-- The folds whose engines perform some entries. -/
def entryFolds (es : List QEntry) : List Nat :=
  es.foldl (fun fs e => match e with
    | .matrix m => if fs.contains m.fold then fs else fs ++ [m.fold]
    | .copy _ => fs) []

/-- Stops what a core runs, with its pair and its part in the ownership of engines, its own fold's and those of its remote entries (R213). -/
def stopCore (s : State) (c : Nat) : State :=
  let fs := entryFolds ((s.core c).queues.flatMap fun q => q.2.entries)
  (foldOf c :: fs).foldl releaseMatrix (unpair (clearCore s c) c)

/-- A pre-emption is over once none of its cores is still to be pre-empted (R360, R361): the launch stays away until it is resumed. -/
def preemptCheck (s : State) (p : Nat) : State :=
  match (s.part p).hpre with
  | none => s
  | some b =>
    if s.cores.any fun x => x.2.preempt.isSome && partOfFold s (foldOf x.1) == p then s
    else
      let away (x : Nat × Launch) : Nat × Launch := if x.1 = b then (x.1, { x.2 with stage := .preempted }) else x
      s.updPart p fun q => { q with hpre := none, hpres := 2, launches := q.launches.map away }

/-- A unit leaves for good (R43, R47, R297, R309, R355): its mutexes are released, its record becomes FREE, its JOIN decrement is made,
and OUT falls. Units starved of records become READY when one exits, and when a cancel frees one (R49; log 100). -/
def unitGone (s : State) (p blk rcd status : Nat) : State :=
  match s.launch p blk with
  | none => s
  | some l =>
    let s := dropUnit (releaseMutexes s p fun h => h == (blk, rcd)) p blk rcd
    let jb := ((agentRead s p l.job (rcd + 8)).getD 0).toNat
    let s := setRecState (agentCount s p l.job rcd 2) p l.job rcd 0
    let s := if jb = 0 then s else ((joinDecrement s p l jb).map (·.2)).getD s
    let starved := l.starved
    let out (x : Launch) : Launch :=
      let xs := x.homes.filter (·.1 != rcd)
      let rs := x.recvs.filter (·.1 != rcd)
      { x with starved := [], homes := xs, recvs := rs, joins := x.joins.filter (·.1 != rcd), live := x.live.filter (· != rcd) }
    let s := s.updPart p fun q => { q with launches := mput q.launches blk (out ((mfind q.launches blk).getD l)) }
    let s := (l.homes.filter (·.1 == rcd)).foldl (fun s h => releaseMatrix s (foldOf h.2)) s
    let s := starved.foldl (fun s r => if r = rcd then s else wakeUnit s p blk r none) s
    preemptCheck (launchMember s p blk status) p

/-- Cancels one unit with a status, wherever it is (R43): running, ready, waiting, or pre-empted, with its area free again (R360). -/
def cancelUnit (s : State) (p blk rcd status : Nat) : State :=
  let s := match s.cores.find? fun x => match x.2.occ with
      | some o => o.part == p && o.blk == blk && o.rcd == rcd && !o.flagged
      | none => false with
    | some x => stopCore s x.1
    | none => s.updPart p fun q => { q with ctxAreas := q.ctxAreas.filter fun a => !(a.2.blk == blk && (a.2.core.occ.map (·.rcd)) == some rcd) }
  unitGone s p blk rcd status

/-- Aborts the collectives that a launch opened (R398). -/
def abortCollectives (s : State) (p blk : Nat) : State :=
  ((s.part p).streams.filter fun x => !x.2.aborted && x.2.ranks.any fun r => r.blk == blk && !r.closed).foldl
    (fun s x => abortStream s p x.1) s

/-- Cancels one launch with a status (R43): its units and routines stop, ready and waiting units are discarded with their records
FREE, its collectives abort, and the block sets DONE. What its OUT still counts, units or, of a flagged launch, launch cores, is added to
ERRCNT: of launch cores the rule says nothing (log 24). -/
def cancelOne (s : State) (p blk status : Nat) : State :=
  match s.launch p blk with
  | none => s
  | some l =>
    if ((s.part p).blk .launch blk).done then s
    else
      let mine := s.cores.filter fun x => match x.2.occ with
        | some o => o.part == p && o.blk == blk
        | none => false
      let s := releaseMutexes (mine.foldl (fun s x => stopCore s x.1) s) p fun h => h.1 == blk
      let s := if l.det then s else
        l.live.foldl (fun s r => setRecState (dropUnit s p blk r) p l.job r 0) s
      let sweep (v : Fold) : Fold := { v with
        ready := v.ready.filter (·.1 != blk), staged := v.staged.filter (·.blk != blk), triples := v.triples.filter (·.1 != blk),
        macros := v.macros.filter fun m => !(m.2.part == p && m.2.blk == blk) }
      let s := { s with folds := s.folds.map fun x => if partOfFold s x.1 = p then (x.1, sweep x.2) else x }
      let s := abortCollectives s p blk
      let s := l.setup.foldl (fun s lc => s.updCore (devCore s p lc) fun k => { k with
        sends := [], pieces := [], xfers := [], drove := if l.det then k.drove.filter (fun r => !r.op.rmwOp) else k.drove }) s
      let s := s.updPart p fun q => { q with
        nodes := if l.stage = .waiting then mdel q.nodes l.node else q.nodes
        deadNodes := q.deadNodes.filter (· != (l.graph, l.node))
        endedNodes := if l.graph = 0x3FFF then q.endedNodes else (l.graph, l.node) :: q.endedNodes
        contrec := q.contrec.filter (·.blk != blk)
        ctxAreas := q.ctxAreas.filter (·.2.blk != blk)
        foldAreas := q.foldAreas.filter (·.2.blk != blk) }
      let b := (s.part p).blk .launch blk
      let gone (x : Launch) : Launch := { x with live := [], joins := [], starved := [], recvs := [], homes := [] }
      let s := s.updPart p fun q =>
        { q.setBlk .launch blk (b.cancelled status b.out) with launches := q.launches.map fun x => if x.1 = blk then (x.1, gone x.2) else x }
      l.homes.foldl (fun s h => releaseMatrix s (foldOf h.2)) (launchDone s p blk status true)

/-- The accepted launches that wait for a cancelled predecessor end with status 0x07, and theirs after them (R43): at most `n`. -/
def sweepDead (p : Nat) : Nat → State → State
  | 0, s => s
  | n + 1, s =>
    let q := s.part p
    match q.launches.find? fun x => decide (x.2.graph ≠ 0x3FFF ∧ x.2.stage = .waiting) && q.deadNodes.contains (x.2.graph, x.2.node) with
    | some x => sweepDead p n (cancelOne s p x.1 0x07)
    | none => s

/-- Cancels a launch with a status, and the successors that wait for it (R43). -/
def cancelLaunch (s : State) (p blk status : Nat) : State :=
  sweepDead p (s.part p).launches.length (cancelOne s p blk status)

/-- Launch blocks of accepted launches of a partition that a predicate picks and that have not set DONE. -/
def openLaunches (q : Part) (f : Launch → Bool) : List Nat :=
  (q.launches.filter (fun x => f x.2 && !(q.blk .launch x.1).done)).map (·.1)

/-- Cancels a block above the launches (R43): CANC on it and beneath it, its launches with 0x07, DONE with the status. -/
def cancelAbove (s : State) (p : Nat) (k : BKind) (i status : Nat) : State :=
  let q := s.part p
  let graphs : List Nat := match k with
    | .phase => (q.graphPhase.filter (fun x => x.2 == i && !(q.blk .graph x.1).done && (q.blk .graph x.1).opened)).map (·.1)
    | .job => (q.graphBlks.filter (fun x => x.2.job == i && x.2.opened && !x.2.done)).map (·.1)
    | _ => []
  let phases : List Nat := match k with
    | .job => (q.phaseBlks.filter (fun x => x.2.job == i && x.2.opened && !x.2.done)).map (·.1)
    | _ => []
  let mark (kk : BKind) (q : Part) (j : Nat) := q.setBlk kk j { q.blk kk j with canc := true }
  let q := mark k (phases.foldl (mark .phase) (graphs.foldl (mark .graph) q)) i
  let s := s.setPart p q
  let mine := openLaunches q fun l => match k with
    | .graph => l.graph == i
    | .phase => l.phase == i
    | .job => l.job == i
    | .launch => false
  let open_ (kk : BKind) (j : Nat) : Nat := (openLaunches q fun l => match kk with
    | .graph => l.graph == j
    | .phase => l.phase == j
    | .job => l.job == j
    | .launch => false).length
  let s := mine.foldl (fun s b => cancelLaunch s p b 0x07) s
  let fin (st : Nat) (kk : BKind) (q : Part) (j : Nat) := q.setBlk kk j ((q.blk kk j).cancelled st (open_ kk j))
  s.updPart p fun q =>
    let q := phases.foldl (fin 0x07 .phase) (graphs.foldl (fin 0x07 .graph) q)
    match k with
    | .job => fin status k q i
    | .phase => jobMember (fin status k q i) (q.blk .phase i).job status
    | _ => phaseMember (fin status k q i) (mget 0xFFF q.graphPhase i) status

/-- What a level handle names in a partition (R39): nothing; a unit of a launch; a launch; or a graph, phase or job block. -/
inductive Level where
  | nothing
  | unit_ (blk rcd : Nat)
  | launch (blk : Nat)
  | block (k : BKind) (i : Nat) (job : Nat)
  deriving DecidableEq, Repr

/-- The latest accepted launch whose record lies at an address. -/
def launchAt (q : Part) (a : Nat) : Option Nat :=
  ((q.launches.filter fun x => x.2.rcd == a).foldl (fun best x =>
    match best with
    | none => some x
    | some y => if y.2.accept ≤ x.2.accept then some x else some y) none).map (·.1)

/-- A record address names a unit when it holds the record of one that has not ended; of job `own` first, since jobs have address spaces of
their own (log 99). -/
def unitAt (s : State) (p a : Nat) (own : Option Nat) : Option Nat :=
  let us := (s.part p).launches.filter fun x => x.2.live.contains a && !((s.part p).blk .launch x.1).done
  ((us.find? fun x => some x.2.job == own).orElse fun _ => us.head?).map (·.1)

/-- The level that a handle names (R39), for a unit of job `own` or for the host. Bit 3 of a graph, phase or job handle, which the table
gives no name, must be zero like its other bits (log 98). -/
def levelOf (s : State) (p : Nat) (own : Option Nat) (h : Word) : Level :=
  let q := s.part p
  let a := fld h 47 6 * 64
  let job := fld h 15 4
  if fld h 63 48 ≠ 0 then .nothing
  else
    match fld h 2 0 with
    | 1 => if fld h 5 3 ≠ 0 then .nothing else (((unitAt s p a own).map fun b => Level.unit_ b a)).getD .nothing
    | 2 => if fld h 5 3 ≠ 0 then .nothing else ((launchAt q a).map Level.launch).getD .nothing
    | 3 => if fld h 47 30 ≠ 0 ∨ fld h 3 3 ≠ 0 then .nothing
           else if (q.blk .graph (fld h 29 16)).opened ∧ (q.blk .graph (fld h 29 16)).job = job
           then .block .graph (fld h 29 16) job else .nothing
    | 4 => if fld h 47 28 ≠ 0 ∨ fld h 3 3 ≠ 0 then .nothing
           else if (q.blk .phase (fld h 27 16)).opened ∧ (q.blk .phase (fld h 27 16)).job = job
           then .block .phase (fld h 27 16) job else .nothing
    | 5 => if fld h 47 16 ≠ 0 ∨ fld h 3 3 ≠ 0 then .nothing
           else if (mfind q.jobs job).isSome then .block .job 0 job else .nothing
    | _ => .nothing

/-- The job of a level. -/
def Level.jobOf (lv : Level) (s : State) (p : Nat) : Nat :=
  match lv with
  | .nothing => 0
  | .unit_ b _ => ((s.launch p b).map (·.job)).getD 0
  | .launch b => ((s.launch p b).map (·.job)).getD 0
  | .block _ _ j => j

/-- Requests the cancel of a level (R43, R44): 2 done, 3 already complete, 4 the handle names nothing. -/
def cancelLevel (s : State) (p : Nat) (lv : Level) : Nat × State :=
  match lv with
  | .nothing => (4, s)
  | .unit_ b r => (2, cancelUnit s p b r 0x02)
  | .launch b => if ((s.part p).blk .launch b).done then (3, s) else (2, cancelLaunch s p b 0x02)
  | .block k i j =>
    let i := if k = .job then j else i
    if ((s.part p).blk k i).done then (3, s) else (2, cancelAbove s p k i 0x02)

/-- A unit that ends on a trap without a handler, or fails (R349, R367): cancelled alone, with the error record; a routine's launch
is cancelled whole. -/
def endFailed (s : State) (c status : Nat) (cause : BitVec 8) (epc : Nat) (einfo : Word) : State :=
  match (s.core c).occ with
  | none =>
    -- A management core without a handler is reset, and the Steading logs the trap (R359).
    { s.updCore c fun k => { k.fresh with r := Regs.zero, seqr := [], loads := [] } with
      mgmtLog := s.mgmtLog ++ [(c, cause, epc, einfo)] }
  | some o =>
    let s := writeErr s o.part o.blk { core := o.k, status := status, cause := cause, epc := epc, einfo := einfo,
                                       unit_ := if o.flagged then 0 else o.rcd }
    if o.flagged then cancelLaunch s o.part o.blk status else cancelUnit s o.part o.blk o.rcd status

end Sys2Proof.Machine
end

