-- ==== Sys2Proof/Machine/Links.lean ====
section
/-! DEFINITION. What attaches to routers (01 R21, 20 R384), and the ranges of an engine entry that down links hold back (20 R402). -/

namespace Sys2Proof.Machine

/-- A Common slice is attached to the router of fold f (R21, R384). -/
def sliceRouter (f : Nat) : Bool := decide (f < 32 ∨ 23 * 32 ≤ f)

/-- A die's fabric port is attached to the router of fold f: that of the die's lowest-numbered slice (R384). -/
def fabricRouter (f : Nat) : Bool := [0, 16, 23 * 32, 23 * 32 + 16].contains f

/-- No link holds back what request i of core c accesses over some ranges, judged at each 256-byte granule. -/
def rangesUp (s : State) (c i : Nat) (tr : SMap Nat) (rs : List (Nat × Nat)) : Bool :=
  s.downLinks.isEmpty || rs.all fun r => (List.range ((r.2 + 511) / 256)).all fun j =>
    match placeOf s c tr (min (r.1 + 256 * j) (r.1 + r.2 - 1)) with
    | some key => s.mayGo c key (s.escaped c i)
    | none => true

end Sys2Proof.Machine
end

