-- ==== Sys2Proof/WellFormed.lean ====
section
/-! DEFINITION. The static checks of an instruction beyond its fixed bits (04 R102, R107 and the owning chapters): a term that
fails one is an encoding that traps with ILLEGAL before it executes. Events of the table carry no encoding and pass. -/

namespace Sys2Proof

/-- The control registers that exist (06 R135). -/
def ctlListed (n : Nat) : Bool :=
  decide (n ≤ 0x005) || (decide (0x010 ≤ n) && decide (n ≤ 0x014)) || (decide (0x020 ≤ n) && decide (n ≤ 0x027)) ||
    (decide (0x030 ≤ n) && decide (n ≤ 0x038)) || n == 0x040 || (decide (0x060 ≤ n) && decide (n ≤ 0x07F)) ||
    (decide (0x080 ≤ n) && decide (n ≤ 0x085)) || n == 0x090 || n == 0x091 || n == 0x0A0 || n == 0x0A1 ||
    (decide (0x0B0 ≤ n) && decide (n ≤ 0x0B2)) || n == 0x0C0 || n == 0x0C1 || n == 0x0D0

/-- The element formats of the scalar and vector conversions (07 R189, R190): FC 2 to 8 and 15 to 17. -/
def scalarFc (fc : Nat) : Bool := (decide (2 ≤ fc) && decide (fc ≤ 8)) || (decide (15 ≤ fc) && decide (fc ≤ 17))

/-- A block format (FC 9 to 14) with the field BL - 3 of VCVT (07 R190): 0 to 3, and 2 for DS8. -/
def blockFc (fc bl : Nat) : Bool :=
  (decide (9 ≤ fc) && decide (fc ≤ 13) && decide (bl ≤ 3)) || (fc == 14 && bl == 2)

/-- The static checks of an instruction. -/
def Instr.wf (i : Instr) : Bool :=
  match i with
  | .powerGood _ => true
  | .imageSourceWrite _ _ _ => true
  | .imglenWrite _ => true
  | .attestationRequest _ => true
  | .partitionLayoutChange _ => true
  | .faccWrite _ _ => true
  | .negotiationDone _ _ => true
  | .queueEnable _ _ => true
  | .queueDisable _ _ => true
  | .queueReset _ _ => true
  | .qkick _ _ => true
  | .recordRead _ _ => true
  | .retryWaitEnd _ _ => true
  | .blockedReread _ _ => true
  | .hcancel _ _ => true
  | .hjobrm _ _ => true
  | .jobRemovalComplete _ => true
  | .hpreempt _ _ => true
  | .corePreempt _ => true
  | .preemptForceTimeout _ => true
  | .launchResume _ _ => true
  | .ptrootApply _ _ => true
  | .svcTick _ => true
  | .unitPlace _ => true
  | .gangPlace _ _ => true
  | .noteWrite _ _ => true
  | .watchdogFire _ => true
  | .icacheFill _ _ => true
  | .loadReturn _ _ => true
  | .storeDrain _ => true
  | .translationResolve _ => true
  | .fqRetry _ _ => true
  | .fqDeliver _ _ => true
  | .vectorEntryComplete _ => true
  | .matrixEntryPerform _ _ => true
  | .tileArrival _ _ => true
  | .streamedBFaultResolved _ _ => true
  | .mxcmdRemoteAccept _ => true
  | .mxcmdAnswer _ => true
  | .copyEntryPerform _ _ => true
  | .copyFaultResolved _ _ => true
  | .streamFill _ _ => true
  | .streamDrainEntry _ _ => true
  | .messageArrival _ => true
  | .pieceAccept _ _ => true
  | .exchangeTransferWrite _ _ => true
  | .barrierRelease _ _ => true
  | .superstepRelease _ _ _ => true
  | .exchangePhaseEnd _ => true
  | .droveRequestApply _ => true
  | .droveRequestFail _ => true
  | .captureTimeout _ => true
  | .droveSlotError _ => true
  | .recvtTimeout _ => true
  | .wfiTimeout _ => true
  | .rollback _ _ => true
  | .intervalEnd _ => true
  | .thirdRunComplete _ _ => true
  | .contansContinue _ => true
  | .contansCancel _ => true
  | .phaseStop _ _ => true
  | .phaseStopWrite _ => true
  | .phaseRestore _ _ => true
  | .linkCrcError _ => true
  | .linkRetrain _ _ => true
  | .downLinkTimeout _ => true
  | .escapeMove _ _ => true
  | .routerBeat _ _ _ => true
  | .portBeatArrival _ _ _ => true
  | .hostMemoryWrite _ _ _ => true
  | .systemScopeRequest _ _ _ _ _ _ => true
  | .hostCompletionTimeout _ => true
  | .thermalSample _ _ => true
  | .wearMinutesFlush => true
  | .scrub _ _ => true
  | .registerWrite _ _ _ => true
  | .nopCSlot _ => true
  | .nopASlot => true
  | .trap _ _ => true
  | .eret _ => true
  | .exit _ => true
  | .yield _ => true
  | .pulse _ => true
  | .cancel _ _ _ => true
  | .wfi _ _ => true
  | .mfc _ _ n => decide (ctlListed n.toNat)
  | .mtc _ _ n => decide (ctlListed n.toNat)
  | .movi _ _ _ => true
  | .ldlW _ _ _ => true
  | .ldlD _ _ _ => true
  | .ldlC _ _ => true
  | .ld _ _ _ z x _ => decide (x = 0#1 ∨ z ≠ 3#2)
  | .st _ _ _ _ _ => true
  | .ldv _ _ _ z x _ => decide (z ≠ 3#2 ∧ (x = 0#1 ∨ z ≠ 2#2))
  | .stv _ _ _ z _ => decide (z ≠ 3#2)
  | .ldf _ _ _ _ => true
  | .stf _ _ _ _ => true
  | .adda _ _ _ _ => true
  | .ptag _ _ _ _ => true
  | .pfmt _ _ _ => true
  | .pbase _ _ _ => true
  | .lea _ _ _ _ _ => true
  | .br _ a b c _ => decide (c.toNat ≤ 12 ∧ (c = 12#4 → a = 0#5 ∧ b = 0#5))
  | .bbc _ a _ n _ => decide (a.toNat + n.toNat ≤ 31)
  | .bbs _ a _ n _ => decide (a.toNat + n.toNat ≤ 31)
  | .bbz _ a n _ => decide (a.toNat + n.toNat ≤ 31)
  | .bbnz _ a n _ => decide (a.toNat + n.toNat ≤ 31)
  | .j _ _ => true
  | .jl _ _ => true
  | .jr _ _ _ _ => true
  | .macroOp _ _ _ _ _ => true
  | .claim _ _ _ _ => true
  | .vsetl _ _ _ => true
  | .vsetli _ _ n => decide (n.toNat ≤ 256)
  | .vrep _ _ _ => true
  | .vdrain _ => true
  | .amoAdd _ _ _ _ _ _ _ => true
  | .amoFadd _ _ _ _ _ _ => true
  | .amoMin _ _ _ _ _ _ _ => true
  | .amoMax _ _ _ _ _ _ _ => true
  | .amoMinu _ _ _ _ _ _ _ => true
  | .amoMaxu _ _ _ _ _ _ _ => true
  | .amoFmin _ _ _ _ _ _ => true
  | .amoFmax _ _ _ _ _ _ => true
  | .amoAmax _ _ _ _ _ _ => true
  | .amoAnd _ _ _ _ _ _ _ => true
  | .amoOr _ _ _ _ _ _ _ => true
  | .amoXor _ _ _ _ _ _ _ => true
  | .amoSwap _ _ _ _ _ _ _ => true
  | .amoCas _ _ _ _ _ _ _ => true
  | .amoAmaxrst _ _ _ _ _ _ _ => true
  | .evwait _ _ => true
  | .evsig _ _ _ _ => true
  | .evcnt _ _ _ => true
  | .dqpush _ _ => true
  | .dqpop _ _ => true
  | .dqsteal _ _ _ => true
  | .fork _ _ _ _ => true
  | .join _ _ => true
  | .send _ _ _ _ => true
  | .recv _ _ _ => true
  | .recvt _ _ _ _ => true
  | .ssync _ => true
  | .bdom _ _ => true
  | .xsend _ _ _ => true
  | .xrecv _ _ _ => true
  | .dboard _ _ _ _ => true
  | .dalight _ _ _ _ => true
  | .dread _ _ _ w => decide (w ≠ 7#3)
  | .drmwAdd _ _ _ _ w => decide (w ≠ 7#3)
  | .drmwMin _ _ _ _ w => decide (w ≠ 7#3)
  | .drmwMax _ _ _ _ w => decide (w ≠ 7#3)
  | .drmwMinu _ _ _ _ w => decide (w ≠ 7#3)
  | .drmwMaxu _ _ _ _ w => decide (w ≠ 7#3)
  | .drmwFmin _ _ _ _ w => decide (w ≠ 7#3)
  | .drmwFmax _ _ _ _ w => decide (w ≠ 7#3)
  | .drmwAnd _ _ _ _ w => decide (w ≠ 7#3)
  | .drmwOr _ _ _ _ w => decide (w ≠ 7#3)
  | .drmwXor _ _ _ _ w => decide (w ≠ 7#3)
  | .drmwSwap _ _ _ _ w => decide (w ≠ 7#3)
  | .drmwCas _ _ _ _ w => decide (w ≠ 7#3)
  | .dcap _ _ => true
  | .dput _ _ _ w => decide (w ≠ 7#3)
  | .drel _ _ => true
  | .dlap _ _ => true
  | .fenceR _ _ _ => true
  | .fenceS _ _ _ => true
  | .qfence _ _ => true
  | .sbind _ d _ => decide (24 ≤ d.toNat)
  | .sunbind _ d => decide (24 ≤ d.toNat)
  | .sstat _ _ a => decide (24 ≤ a.toNat)
  | .sdrain _ d => decide (24 ≤ d.toNat)
  | .cbinit _ _ _ => true
  | .cbpop _ _ _ => true
  | .cbpush _ _ => true
  | .cbstat _ _ _ => true
  | .cpy _ _ _ _ _ _ => true
  | .cpya _ _ _ _ _ _ => true
  | .gath _ _ _ _ _ _ => true
  | .scat _ _ _ _ _ => true
  | .cpyw _ _ _ _ _ _ => true
  | .cpyz _ _ _ _ _ => true
  | .pdecl _ _ _ _ => true
  | .muster _ _ => true
  | .gwait _ _ _ => true
  | .gstat _ _ _ => true
  | .pdrop _ _ => true
  | .tld _ _ _ _ _ => true
  | .tstr _ _ _ _ _ => true
  | .amov _ _ _ _ _ => true
  | .ald _ _ _ _ _ => true
  | .mxcmd _ _ _ _ _ => true
  | .lmalloc _ _ _ => true
  | .lmfree _ _ => true
  | .lminv _ _ _ => true
  | .vsset _ _ _ _ => true
  | .vsmark _ _ => true
  | .vsdig _ _ _ => true
  | .vswait _ _ _ => true
  | .yoke _ _ => true
  | .unyoke _ => true
  | .tlbinv _ _ _ s => decide (s ≠ 3#2)
  | .tlbprobe _ _ _ => true
  | .add _ _ _ => true
  | .sub _ _ _ => true
  | .and _ _ _ => true
  | .or _ _ _ => true
  | .xor _ _ _ => true
  | .andn _ _ _ => true
  | .min _ _ _ => true
  | .max _ _ _ => true
  | .minu _ _ _ => true
  | .maxu _ _ _ => true
  | .addw _ _ _ => true
  | .subw _ _ _ => true
  | .adds _ _ _ => true
  | .subs _ _ _ => true
  | .abs _ _ => true
  | .mul _ _ _ => true
  | .mulh _ _ _ => true
  | .mulhu _ _ _ => true
  | .mulhsu _ _ _ => true
  | .div _ _ _ => true
  | .divu _ _ _ => true
  | .rem _ _ _ => true
  | .remu _ _ _ => true
  | .seq _ _ _ => true
  | .sne _ _ _ => true
  | .slt _ _ _ => true
  | .sge _ _ _ => true
  | .sltu _ _ _ => true
  | .sgeu _ _ _ => true
  | .sll _ _ _ => true
  | .srl _ _ _ => true
  | .sra _ _ _ => true
  | .rol _ _ _ => true
  | .ror _ _ _ => true
  | .popc _ a n => decide (a.toNat + n.toNat ≤ 31)
  | .clz _ _ => true
  | .ctz _ a n => decide (a.toNat + n.toNat ≤ 31)
  | .brev _ _ => true
  | .bswap _ _ => true
  | .extu _ _ _ => true
  | .exts _ _ _ => true
  | .mshl d a _ n => decide (a.toNat + n.toNat ≤ 31 ∧ d.toNat + n.toNat ≤ 31)
  | .mshr d a _ n => decide (a.toNat + n.toNat ≤ 31 ∧ d.toNat + n.toNat ≤ 31)
  | .mand d a b n => decide (a.toNat + n.toNat ≤ 31 ∧ b.toNat + n.toNat ≤ 31 ∧ d.toNat + n.toNat ≤ 31)
  | .mor d a b n => decide (a.toNat + n.toNat ≤ 31 ∧ b.toNat + n.toNat ≤ 31 ∧ d.toNat + n.toNat ≤ 31)
  | .mxor d a b n => decide (a.toNat + n.toNat ≤ 31 ∧ b.toNat + n.toNat ≤ 31 ∧ d.toNat + n.toNat ≤ 31)
  | .addi _ _ _ => true
  | .andi _ _ _ => true
  | .ori _ _ _ => true
  | .xori _ _ _ => true
  | .slli d a n s => decide ((n ≠ 0#2 ∨ s.toNat ≤ 63) ∧ a.toNat + n.toNat ≤ 31 ∧ d.toNat + n.toNat ≤ 31)
  | .srli d a n s => decide ((n ≠ 0#2 ∨ s.toNat ≤ 63) ∧ a.toNat + n.toNat ≤ 31 ∧ d.toNat + n.toNat ≤ 31)
  | .srai _ _ s => decide (s.toNat ≤ 63)
  | .roli _ _ s => decide (s.toNat ≤ 63)
  | .rori _ _ s => decide (s.toNat ≤ 63)
  | .cmpi _ _ r _ => decide (r.toNat ≤ 5)
  | .fadd _ _ _ => true
  | .fsub _ _ _ => true
  | .fmul _ _ _ => true
  | .fdiv _ _ _ => true
  | .fsqrt _ _ => true
  | .fmac _ _ _ => true
  | .fmin _ _ _ => true
  | .fmax _ _ _ => true
  | .fabs _ _ => true
  | .fneg _ _ => true
  | .feq _ _ _ => true
  | .flt _ _ _ => true
  | .fle _ _ _ => true
  | .fclass _ _ => true
  | .fcvt _ _ c r => decide (scalarFc c.toNat ∧ r.toNat ≤ 4)
  | .fext _ _ c r => decide (scalarFc c.toNat ∧ r.toNat ≤ 4)
  | .ftoi _ _ r => decide (r.toNat ≤ 4)
  | .ftou _ _ r => decide (r.toNat ≤ 4)
  | .itof _ _ r => decide (r.toNat ≤ 4)
  | .utof _ _ r => decide (r.toNat ≤ 4)
  | .vadd _ _ _ _ => true
  | .vsub _ _ _ _ => true
  | .vmul _ _ _ _ => true
  | .vdiv _ _ _ _ => true
  | .vsqrt _ _ _ => true
  | .vfma _ _ _ _ _ => true
  | .vfms _ _ _ _ _ => true
  | .vmin _ _ _ _ => true
  | .vmax _ _ _ _ => true
  | .vabs _ _ _ => true
  | .vneg _ _ _ => true
  | .vdot _ _ _ _ _ => true
  | .vaddBf2 _ _ _ _ => true
  | .vmulBf2 _ _ _ _ => true
  | .vfmaBf2 _ _ _ _ _ => true
  | .vdot2Bf _ _ _ _ _ => true
  | .viadd _ _ _ _ => true
  | .visub _ _ _ _ => true
  | .vimul _ _ _ _ => true
  | .vimulh _ _ _ _ => true
  | .viand _ _ _ _ => true
  | .vior _ _ _ _ => true
  | .vixor _ _ _ _ => true
  | .visll _ _ _ _ => true
  | .visrl _ _ _ _ => true
  | .visra _ _ _ _ => true
  | .vimin _ _ _ _ => true
  | .vimax _ _ _ _ => true
  | .viminu _ _ _ _ => true
  | .vimaxu _ _ _ _ => true
  | .viadds _ _ _ _ => true
  | .visubs _ _ _ _ => true
  | .vimac _ _ _ _ _ => true
  | .vidot4 _ _ _ _ _ => true
  | .viabs _ _ _ => true
  | .vcmpFeq _ _ d => decide (d ≠ 0#5)
  | .vcmpFne _ _ d => decide (d ≠ 0#5)
  | .vcmpFlt _ _ d => decide (d ≠ 0#5)
  | .vcmpFle _ _ d => decide (d ≠ 0#5)
  | .vcmpFun _ _ d => decide (d ≠ 0#5)
  | .vcmpIeq _ _ d => decide (d ≠ 0#5)
  | .vcmpIne _ _ d => decide (d ≠ 0#5)
  | .vcmpIlt _ _ d => decide (d ≠ 0#5)
  | .vcmpIle _ _ d => decide (d ≠ 0#5)
  | .vcmpIltu _ _ d => decide (d ≠ 0#5)
  | .vcmpIleu _ _ d => decide (d ≠ 0#5)
  | .vrsum _ _ _ => true
  | .vrmax _ _ _ => true
  | .vrmin _ _ _ => true
  | .vramax _ _ _ => true
  | .vmaxi _ _ _ => true
  | .vmini _ _ _ => true
  | .vrisum _ _ _ => true
  | .vrimax _ _ _ => true
  | .vrimin _ _ _ => true
  | .vrimaxu _ _ _ => true
  | .vriminu _ _ _ => true
  | .vrand _ _ _ => true
  | .vror _ _ _ => true
  | .vrxor _ _ _ => true
  | .vexp2 _ _ _ => true
  | .vexpe _ _ _ => true
  | .vlog2 _ _ _ => true
  | .vrcp _ _ _ => true
  | .vrsq _ _ _ => true
  | .vmov _ _ _ => true
  | .vsplat _ _ => true
  | .vmovs _ _ _ => true
  | .vsel _ _ _ _ => true
  | .viota _ _ => true
  | .vidx _ _ _ _ => true
  | .vnarrow _ _ c h r _ => decide (scalarFc (h ++ c).toNat ∧ r.toNat ≤ 4)
  | .vwiden _ _ c h r _ => decide (scalarFc (h ++ c).toNat ∧ r.toNat ≤ 4)
  | .vqrnd _ _ c h r _ => decide (scalarFc (h ++ c).toNat ∧ r.toNat ≤ 4)
  | .vmxq _ _ c h l => decide (blockFc (h ++ c).toNat l.toNat)
  | .vmxs _ _ c h l => decide (blockFc (h ++ c).toNat l.toNat)
  | .vmxc _ _ c h l => decide (blockFc (h ++ c).toNat l.toNat)
  | .vbaleq _ _ => true
  | .mma _ _ _ _ => true
  | .mmaz _ _ _ _ => true
  | .azero _ => true
  | .acopy _ _ => true
  | .aadd _ _ _ => true
  | .tzero _ => true
  | .tcopy _ _ => true
  | .ttrn _ _ => true
  | .tfwd _ _ => true
  | .ttake _ _ => true
  | .powerLoss => true
  | .functionReset _ => true
  | .linkReturn _ => true

end Sys2Proof
end

