-- ==== Sys2Proof/Machine/Ops.lean ====
section
/-! DEFINITION. Shared operations of every meaning: control registers (06 R135, R136), the packets a core fetches (04 R90 to R92,
R111), taking a trap (15 R346 to R349) and returning from one (R354), and the form in which a meaning answers (log 3). -/

namespace Sys2Proof.Machine

/-! ## Control registers -/

/-- YOKE as a core reads it (R370): in a pair, the value of the even core, which is the leader (R371). The pair's state stands on the
core whose unit executed YOKE. -/
def yokeWord (s : State) (c : Nat) : Word :=
  let k := s.core (((s.core c).partnerOf).getD c)
  let me := if k.yoke.isSome then c / 2 * 2 else c
  let partner := if me % 2 = 0 then me + 1 else me - 1
  let st := (k.yoke.map (·.state)).getD 0
  let pos := (k.yoke.map (·.ivpos)).getD 0
  BitVec.ofNat 64 ((s.core me).thirds % 2 ^ 16 * 2 ^ 48 + (s.core me).trans % 2 ^ 16 * 2 ^ 32 + pos % 2 ^ 8 * 2 ^ 8 + st * 2 ^ 3 +
    (if s.nv.quar.contains partner then 4 else 0) + (if s.nv.quar.contains me then 2 else 0) + (if k.yoke.isSome then 1 else 0))

/-- XCLK (R303): clk since the last barrier release of a flagged launch; 0 in unflagged launches. -/
def xclk (s : State) (c : Nat) : Nat := if (s.core c).inFlagged then (s.clk - (s.core c).xclkBase) % 2 ^ 32 else 0

/-- The bits of control register n that its map names; every other bit reads as zero (R8). -/
def ctlFields (n : Nat) : Word :=
  match n with
  | 0x010 => 0x7
  | 0x011 => 0x1F1F
  | 0x013 => 0xF
  | 0x014 => 0xFFFFFFFF
  | 0x020 => 0xFFFFFFFF801FFF01
  | 0x021 => 0x3
  | 0x026 => 0x8003FFFFFFFFFFFF
  | 0x027 => 0xFFFFFFFF
  | 0x038 => 0xFFFFFFFF
  | 0x040 => 0xFFFFFFFF
  | 0x080 => 0xFFFFFFFFFFF8
  | 0x081 => 0xFF
  | 0x082 => 0x00FFFFFFFFFFFFFF
  | 0x083 => 0x71F
  | 0x084 => 0xFFFFFFFFFFF9
  | 0x0A0 => 0xFFFFFFFF
  | 0x0B0 => 0xFFFFFFFFFFFF
  | 0x0B1 => 0xFFFFFFFFFFFF
  | 0x0B2 => 0xFFFFFFFFFFFF
  | 0x0C0 => 0xFFFF
  | 0x0C1 => 0xFFFFFFFFFFFF
  | 0x0D0 => 0xFFFFFFFF03FF00FF
  | _ =>
    if (0x022 ≤ n ∧ n ≤ 0x025) ∨ (0x030 ≤ n ∧ n ≤ 0x037) then 0x8000FFFFFFFFFFFF
    else if 0x060 ≤ n ∧ n ≤ 0x07F then 0xFFFFFF
    else 0xFFFFFFFFFFFFFFFF

/-- The value MFC reads from control register n of core c (R135, R136 and the owners' maps). -/
def readCtl (s : State) (c n : Nat) : Word :=
  let k := s.core c
  let lc := (k.occ.map (·.k)).getD 0
  match n with
  | 0x000 => BitVec.ofNat 64 lc
  | 0x001 => BitVec.ofNat 64 (lc / 8)
  | 0x002 => BitVec.ofNat 64 (dieOf (foldOf c))
  | 0x003 => BitVec.ofNat 64 (s.nv.dev % 256)
  | 0x004 => BitVec.ofNat 64 s.clk
  | 0x005 => BitVec.ofNat 64 (xclk s c)
  | 0x012 => BitVec.ofNat 64 (32 * k.r.lanes)
  | 0x090 => yokeWord s c
  | _ =>
    if 0x060 ≤ n ∧ n ≤ 0x07F then
      mget 0 (s.fold (foldOf c)).matrix.tsh (n - 0x060) &&& ctlFields n
    else k.ctl n &&& ctlFields n

/-! ## Code -/

/-- The 64 bytes of a code line as memory holds them, for core c (R91). -/
def lineMemory (s : State) (c a : Nat) : Option (List Byte) :=
  if isMgmt c then some (s.bytes (hbmKey s 0 a) 64)
  else (agentKey s (corePart s c) ((s.core c).job s) a).map fun _ =>
    (span a 64).map fun x => ((agentKey s (corePart s c) ((s.core c).job s) x).map s.byte).getD 0

/-- The patched line and its marked packets (R111): entries in list order, a later one winning. -/
def patchLine (s : State) (p : Nat) (l : Launch) (a : Nat) (bs : List Byte) : List Byte × List Nat :=
  l.patches.foldl (fun (acc : List Byte × List Nat) (x : Nat × Nat) =>
    let (pidx, poff) := x
    let pa := l.code + 8 * poff
    if a ≤ pa ∧ pa < a + 64 then
      let o := pa - a
      if (acc.1.getD (o + 3) 0).toNat / 128 = 1 then
        let v := (agentRead s p l.job (l.param + 8 * pidx)).getD 0
        (acc.1.take (o + 4) ++ leBytes 4 v.toNat ++ acc.1.drop (o + 8), acc.2)
      else (acc.1, o / 8 :: acc.2)
    else acc) (bs, [])

/-- The instruction cache line of a core's launch that holds an address (R91); one found in error is not used (R92). -/
def findLine (s : State) (c a : Nat) : Option ICLine :=
  match (s.core c).occ with
  | none => none
  | some o => (s.fold (foldOf c)).icache.find? fun l => l.part == o.part && l.blk == o.blk && l.addr == a / 64 * 64 && !l.bad

/-- A word of code at a 4-aligned address of a line. -/
def ICLine.word (l : ICLine) (a : Nat) : Word32 := BitVec.ofNat 32 (leNat ((l.bytes.drop (a % 64)).take 4))

/-- An address lies in the code region of the core's launch (R90). -/
def inCode (s : State) (c a n : Nat) : Bool :=
  match (s.core c).launchOf s with
  | some l => decide (l.code ≤ a ∧ a + n ≤ l.code + l.csize)
  | none => isMgmt c

/-- Word 0 of the packet that a fetch at an address would give, without a fill of its own: what ERET's rule on MACRO asks. -/
def peekWord (s : State) (c a : Nat) : Option Word32 :=
  if inCode s c a 8 then
    match findLine s c a with
    | some l => some (l.word a)
    | none => (lineMemory s c (a / 64 * 64)).map fun bs => BitVec.ofNat 32 (leNat ((bs.drop (a % 64)).take 4))
  else none

/-- The packet at an address is a MACRO (R115). -/
def isMacroAt (s : State) (c a : Nat) : Bool :=
  match peekWord s c a with
  | some w => bits w 25 6 = 0x12#6
  | none => false

/-! ## Traps -/

/-- EINFO of a trap (R347). -/
def Trap.einfo (t : Trap) (slotA : Bool) : Word :=
  BitVec.ofNat 64 (t.acc.toNat * 2 ^ 54 + (if t.val then 2 ^ 53 else 0) + ((t.deferred.filter (· < 9)).getD 0 % 8) * 2 ^ 50 +
    (if (t.deferred.filter (· < 9)).isSome then 2 ^ 49 else 0) + (if slotA then 2 ^ 48 else 0) + t.data % 2 ^ 48)

/-- Taking a deferred error clears its record (R221); for the drove, code 8, it releases the interlocks (R313). Codes 16 + b, 32 and 33
are the errors of write stream b (R279), of a message (R310) and of an ended capture (R318), which EINFO.DEF does not name. -/
def clearDeferred (k : Core) (d : Option Nat) : Core :=
  match d with
  | none => k
  | some q =>
    if q = 8 ∨ q = 33 then { k with droveErr := none }
    else if q = 32 then { k with sendErr := false }
    else if 16 ≤ q then
      match mfind k.streams (q - 16) with
      | some t => { k with streams := mput k.streams (q - 16) { t with err := none } }
      | none => k
    else { k with queues := mupd { entries := [], err := none } k.queues q fun x => { x with err := none } }

/-- Restores a line of local memory and its valid bits from a journal entry (R243, R368). -/
def restoreLine (c : Nat) (s : State) (j : JEntry) : State :=
  let s := s.setBytes (localKey c (64 * j.line)) j.bytes
  let vs := ((List.range 16).zip j.valid).foldl (fun m x => mset false m (16 * j.line + x.1) x.2) (s.core c).valid
  s.updCore c fun v => { v with valid := vs }

/-- A pair that has just formed (R371). -/
def Yoke.start : Yoke :=
  { state := 1, fp := 0, ivpos := 0, other := none, agree := none, point := none, held := [], queued := [], late := [], consumed := 0,
    close := false }

/-- What a core holds at a point to which it may be restored, beside its registers and memory (R302, R373). -/
def Core.point (k : Core) : Snap :=
  { ctl := k.r.ctl, chutes := k.chutes, streams := k.streams, amark := k.amark, padds := k.padds, occ := k.occ,
    seqr := k.seqr, vcap := k.vcap }

/-- Entry j of a list to whose end a core's packets add may act: it belongs to no interval of a pair that has yet to agree (R372). `i` is the
list's place in `Yoke.queued`. -/
def State.agreed (s : State) (c i j length : Nat) : Bool :=
  match (s.core c).yoke with
  | some y => decide (j + mget 0 y.queued i < length)
  | none => true

/-- A fence over streams that were set back: what was pushed before it is at most what their rings hold (R320). -/
def Fence.clip (f : Fence) (ts : SMap Stream) : Fence :=
  { f with pushed := f.pushed.map fun x => (x.1, min x.2 (((mfind ts x.1).map (·.ring.length)).getD 0)) }

/-- A yoked pair restores its last agreeing point (R373): registers, bindings, and local memory through the journal; what it held, and what
the interval has accepted, is discarded. Fences still order what earlier intervals accepted (R328), and a stream's fills wait only for
the stores that are still buffered (R329). -/
def yokeRestore (s : State) (c state consumed : Nat) : State :=
  let k := s.core c
  match k.yoke with
  | none => s
  | some y =>
    let s := freeShadows s (k.queues.flatMap fun q => q.2.entries.drop (q.2.entries.length - mget 0 y.queued q.1))
    let s := (k.journal ++ k.jspill).foldl (restoreLine c) s
    let awaited (x : LateRec) : Bool := x.regs != [] && x.bytes == [] && x.regs.all fun r =>
      (y.agreedAmos k.loads).any (·.rd == r) || (y.agreed 8 k.drove).any fun q => q.op.returns && q.rd == r
    let y' : Yoke := { Yoke.start with state := state, agree := y.agree, point := y.point, consumed := consumed, late := y.late.filter awaited }
    let n := y.point.getD k.point
    let ts := n.streams.map fun x => (x.1, { x.2 with behind := min x.2.behind k.stores.length })
    mirrorPair (s.updCore c fun v => { v with
      r := { y.agree.getD k.r with lanes := v.r.lanes }, chutes := n.chutes, streams := ts, amark := n.amark, padds := n.padds,
      queues := v.queues.map fun q => (q.1, { q.2 with entries := y.agreed q.1 q.2.entries })
      drove := y.agreed 8 v.drove, sends := y.agreed 9 v.sends, pieces := y.agreed 10 v.pieces
      journal := [], jspill := [], seqr := n.seqr, vcap := n.vcap, loads := y.agreedAmos v.loads, wait := none, macroOp := none, aDone := false
      fences := v.fences.map fun f => f.clip ts
      walkWait := none, hostFail := false, lodcounted := false, yoke := some y' }) c

/-- What a rollback discards at core c (R368 steps 1 and 2): stalled packets and barrier arrivals, vector entries, loads, entries not yet
performed, pushed entries of write streams, messages, transfers and pieces in flight, DRMWs, and a capture. -/
def discardWork (s : State) (c : Nat) : State :=
  let s := leaveLines (endCapture s c) c
  let still (r : DroveReq) : Option DroveReq := if r.op.rmwOp then none else some { r with rd := 0 }
  let s := freeShadows s ((s.core c).queues.flatMap fun q => q.2.entries)
  s.updCore c fun k => { k.fresh with
    seqr := [], vcap := none, loads := [], fences := [], queues := [],
    sends := [], pieces := [], xfers := [], sendErr := false, droveErr := none, drove := k.drove.filterMap still,
    streams := k.streams.map fun x => (x.1, { x.2 with ring := [], err := none }) }

/-- The cores that hold a routine of launch block b. -/
def gangHeld (s : State) (p b : Nat) : List Nat :=
  (s.cores.filter fun x => match x.2.occ with
    | some o => o.part == p && o.blk == b && o.flagged
    | none => false).map (·.1)

/-- Steps 1 and 2 of R368 for a gang; its open collectives abort (R398). -/
def stopGang (s : State) (p b : Nat) : State :=
  let s := (gangHeld s p b).foldl discardWork s
  let undo (v : Fold) : Fold :=
    let mine := v.staged.filter (·.blk == b)
    { v with
      staged := v.staged.filter (·.blk != b)
      triples := v.triples.filter fun y => !(y.1 == b && mine.any fun x => x.key == y.2.2.1 && x.word == y.2.2.2.1 && x.opr == y.2.2.2.2) }
  let drop (x : Nat × Fold) : Nat × Fold := if partOfFold s x.1 = p then (x.1, undo x.2) else x
  abortCollectives { s with folds := s.folds.map drop } p b

/-- An uncorrectable error that core c consumed (R367, R368, R373): the unit is cancelled, the gang is to be rolled back, or the
yoked interval is to be run again. With FACC bit 4 = 0 the decision waits in CONTREC (R405), unless the epoch has been rolled back three
times (R369). A management core is reset (R359). -/
def contain (s : State) (c : Nat) (t : Trap) (einfo : Word) : State :=
  let k := s.core c
  match k.occ with
  | none => endFailed s c 0x04 t.cause k.r.pc.toNat einfo
  | some o =>
    let hw := fld (s.part o.part).facc 4 4 = 1
    if o.flagged then
      let s := writeErr s o.part o.blk { core := o.k, status := 0x04, cause := t.cause, epc := k.r.pc.toNat, einfo := einfo,
                                         unit_ := 0 }
      if (s.part o.part).contrec.any fun x => x.blk == o.blk then s
      else if !hw && (gangHeld s o.part o.blk).any fun g => decide (3 ≤ (s.core g).rollbacks) then cancelLaunch s o.part o.blk 4
      else
        let e : Contain := { blk := o.blk, core := c, kind := if hw then 0 else 1 }
        let s := (stopGang s o.part o.blk).updPart o.part fun q => { q with contrec := q.contrec ++ [e] }
        if hw then s else { s with msix := s.msix ++ [(o.part, 3)] }
    else
      match k.yoke with
      | some y =>
        if 1 ≤ y.consumed then endFailed s c 0x04 t.cause k.r.pc.toNat einfo else yokeRestore s c 2 (y.consumed + 1)
      | none => endFailed s c 0x04 t.cause k.r.pc.toNat einfo

/-- Trap entry (R348): EPC, ECAUSE, EINFO and ESTAT are written and the handler's address is next; a cause that never enters a
handler is contained (R346), and without a handler the unit ends (R349). -/
def takeTrap (s : State) (t : Trap) (slotA : Bool) : State :=
  let c := s.cur
  let einfo := t.einfo slotA
  -- Code 34: the packet names the key of a slot of its partition that an uncorrectable error emptied (R27, R260).
  let own (f : Nat) : Bool := partOfFold s f == corePart s c
  let s := if t.deferred = some 34 then
      { s with folds := s.folds.map fun x =>
          if own x.1 then (x.1, { x.2 with badKeys := x.2.badKeys.filter fun w => w.toNat != t.data }) else x } else s
  -- The readings of a CRIT leaf that made the trap have been made (R364).
  let s := { s with flips := t.flips.getD s.flips }
  let s := endCapture (s.updCore c fun k => clearDeferred { k.fresh with lodcounted := false } t.deferred) c
  let k := s.core c
  let s' :=
    if t.cause = cUNCORR then contain s c t einfo
    else if fld (k.ctl 0x084) 0 0 = 0 ∨ fld (k.ctl 0x083) 8 8 = 1 then endFailed s c 0x05 t.cause k.r.pc.toNat einfo
    else
      let cap := match k.vcap with
        | some v => !v.suspended
        | none => false
      let estat := putFld (k.ctl 0x083) 8 8 1
      let estat := if cap then putFld estat 10 10 1 else estat
      let k := (((k.setCtl 0x080 (BitVec.ofNat 64 k.r.pc.toNat)).setCtl 0x081 (BitVec.ofNat 64 t.cause.toNat)).setCtl 0x082
        einfo).setCtl 0x083 estat
      let h := BitVec.ofNat 48 (fld (k.ctl 0x084) 47 3 * 8)
      let vcap := k.vcap.map fun v => { v with suspended := true }
      s.setCore c { k with vcap := vcap, r := { k.r with pc := h, npc := h } }
  { s' with issue := .trapped t.cause einfo }

/-- The return from a trap (R354). -/
def returnFromTrap (s : State) : State :=
  let k := s.me
  let epc := fld (k.ctl 0x080) 47 3 * 8
  let e := putFld (putFld (k.ctl 0x083) 8 8 0) 10 10 0
  let e := if isMacroAt s s.cur epc then e else putFld e 4 0 0
  let k := k.setCtl 0x083 e
  let vcap := k.vcap.map fun v => { v with suspended := false }
  s.setMe { k with vcap := vcap, r := { k.r with npc := BitVec.ofNat 48 epc } }

/-! ## How a meaning answers -/

/-- The next state of an attempt from `s0` (log 3): done, trap entry, held with nothing done, or stalled. -/
def settle (s0 : State) (r : Res State) : Host.Outcome State Fault Refusal :=
  match r with
  | .ok s => .next { s with issue := .done }
  | .error (.trap t) => .next (takeTrap s0 t s0.latch.isSome)
  | .error .hold => .next { s0 with issue := .held }
  | .error (.stall s) => .next { s with issue := .stalled }

/-- The next state of an event of the table: done, or unchanged where the event is not due (log 3). -/
def event (s0 : State) (due : Bool) (s : State) : Host.Outcome State Fault Refusal :=
  if due then .next { s with issue := .done } else .next { s0 with issue := .held }

end Sys2Proof.Machine
end

