-- ==== Sys2Proof/Machine/Operands.lean ====
section
/-! DEFINITION. Operand forms (04 R89, R94, R95, R103; 06 R145; 11 R277 to R279): general registers through their stream
bindings, the companion literal, mask groups, and which registers an instruction reads and writes. -/

namespace Sys2Proof.Machine

/-- The core as it stood before the packet: what a slot instruction reads its sources from (R94). -/
def State.pre (s : State) : Core :=
  match s.latch with
  | some l => l.core
  | none => s.me

/-! ## Streams -/

/-- What an unbound binding holds. -/
def Stream.unbound : Stream := { desc := 0, words := [], pos := 0, moved := 0, ring := [], err := none, behind := 0 }

/-- Fields of a stream descriptor (R278). -/
def Stream.count (t : Stream) (d : Nat) : Nat := fld (dw t.words 1) (16 * d + 15) (16 * d)
def Stream.stride (t : Stream) (d : Nat) : Int := sgn 32 (fld (dw t.words (2 + d / 2)) (32 * (d % 2) + 31) (32 * (d % 2)))
def Stream.writes (t : Stream) : Bool := fld (dw t.words 4) 0 0 == 1
def Stream.vec (t : Stream) : Bool := fld (dw t.words 4) 1 1 == 1
def Stream.rep (t : Stream) : Bool := fld (dw t.words 4) 2 2 == 1
def Stream.room (t : Stream) : Nat := 2 ^ fld (dw t.words 4) 11 8
def Stream.base (t : Stream) : Word := dw t.words 0

/-- Elements of the pattern. -/
def Stream.total (t : Stream) : Nat := t.count 0 * t.count 1 * t.count 2 * t.count 3

/-- The binding that feeds general register r (R277). -/
def boundG (k : Core) (r : Nat) : Option Stream :=
  if 24 ≤ r then
    match mfind k.streams (r - 24) with
    | some t => if t.vec then none else some t
    | none => none
  else none

/-- The binding that feeds vector register v (R277). -/
def boundV (k : Core) (v : Nat) : Option Stream :=
  if 12 ≤ v then
    match mfind k.streams (v - 8) with
    | some t => if t.vec then some t else none
    | none => none
  else none

/-- POS after n more elements: a repeating pattern restarts (R278). -/
def Stream.advance (t : Stream) (n : Nat) : Nat := if t.rep then (t.pos + n) % t.total else t.pos + n

/-- The value of a ring entry. -/
def RingEntry.word : RingEntry → Word
  | .val w _ => w
  | .err _ => 0

/-- The bindings that the packet's first instruction has popped (R95). -/
def State.popped (s : State) : List Nat := (s.latch.map (·.popped)).getD []

/-- The lesser of two optional numbers. -/
def optMin (a b : Option Nat) : Option Nat :=
  match a, b with
  | some x, some y => some (min x y)
  | some x, none => some x
  | none, b => b

/-- The lowest invalid local byte that ring entries touched (R242): trap mode takes UNINIT, and a held error its cause, at the first
such entry (R279). -/
def ringRead (trapMode : Bool) (es : List RingEntry) : Res (Option Nat) :=
  es.foldlM (fun (m : Option Nat) e =>
    match e with
    | .err d => .error (.trap { cause := d.cause, acc := d.acc, val := d.val, data := d.data, deferred := none })
    | .val _ none => .ok m
    | .val _ (some off) =>
      if trapMode then .error (trapA cUNINIT false (localBase + off / 4 * 4)) else .ok (optMin m (some off))) none

/-- LMC.UMODE selects trapping (R242), as it stood before the packet (R94). -/
def State.uninitTraps (s : State) : Bool := fld (s.pre.ctl 0x020) 0 0 == 0

/-- Pops n entries of a read stream (R279): held while the ring holds too few, STREAM past the end of a pattern without REP; the lowest
invalid byte read is answered for the instruction's one count (R242). -/
def popStream (s : State) (b n : Nat) : Res (List Word × Option Nat × State) := do
  let k := s.me
  let t := mget Stream.unbound k.streams b
  need (!t.writes) (trapC cSTREAM)
  need (t.rep || decide (t.pos + n ≤ t.total)) (trapC cSTREAM)
  need (decide (n ≤ t.ring.length)) .hold
  let es := t.ring.take n
  let m ← ringRead s.uninitTraps es
  let t' := { t with ring := t.ring.drop n, pos := t.advance n }
  .ok (es.map (·.word), m, s.setMe { k with streams := mput k.streams b t' })

/-- The count that an instruction's pops leave in count mode: one for all of them (R242). -/
def countPops (s : State) (m : Option Nat) : State :=
  match m with
  | some off => s.updMe fun k => countUninit k off
  | none => s

/-- Pushes entries into a write stream (R279). -/
def pushStream (s : State) (b : Nat) (ws : List Word) : Res State := do
  let k := s.me
  let t := mget Stream.unbound k.streams b
  need t.writes (trapC cSTREAM)
  need (t.rep || decide (t.pos + ws.length ≤ t.total)) (trapC cSTREAM)
  need (decide (t.ring.length + ws.length ≤ t.room)) .hold
  let t' := { t with ring := t.ring ++ ws.map (fun w => .val w none), pos := t.advance ws.length }
  .ok (s.setMe { k with streams := mput k.streams b t' })

/-! ## General registers -/

/-- The value of general register r: zero for g0, the front entry of a bound stream, else the register (R89). -/
def gval (s : State) (r : Nat) : Word :=
  let k := s.pre
  if r = 0 then 0
  else
    match boundG k r with
    | some t => ((t.ring.head?).map (·.word)).getD 0
    | none => mget 0 k.r.g r

/-- The companion literal, sign-extended (R103). -/
def litVal (l : Lit) : Word :=
  match l with
  | some w => w.signExtend 64
  | none => 0

/-- An rb field of the C formats: the literal where it names g0 and L = 1 (R103). -/
def rbval (s : State) (l : Lit) (b : Nat) : Word := if b = 0 then litVal l else gval s b

/-- The registers of a mask group (R145). -/
def group (first n : Nat) : List Nat := span first n

/-- Registers of a mask group for L elements (R196). -/
def maskRegs (vl : Nat) : Nat := max 1 ((vl + 63) / 64)

/-- The value of a mask group, bit i in register first + i div 64 (R145). -/
def groupVal (s : State) (first n : Nat) : Nat :=
  (List.range n).foldl (fun a j => a + (gval s (first + j)).toNat * 2 ^ (64 * j)) 0

/-- General registers that an accepted VCMP or VMOVS has yet to write (R195, R206, R210). -/
def VEntry.gdests (e : VEntry) : List Nat :=
  match e.op with
  | .cmp _ => group e.gd (maskRegs e.len)
  | .perm .movs => [e.gd]
  | _ => []

/-- The entries of a sequencer item. -/
def SeqItem.entries : SeqItem → List VEntry
  | .one e => [e]
  | .block es _ _ => es

/-- Every entry the sequencer holds, the open capture's included. -/
def Core.ventries (k : Core) : List VEntry :=
  k.seqr.flatMap (·.entries) ++ ((k.vcap.map (·.entries)).getD [])

/-- The entries that later instructions are ordered after: a capture that a trap suspended orders nothing (R199). -/
def Core.vactive (k : Core) : List VEntry :=
  k.seqr.flatMap (·.entries) ++ ((k.vcap.map fun v => if v.suspended then [] else v.entries).getD [])

/-- Register r awaits a write from the sequencer. -/
def Core.awaitsV (k : Core) (r : Nat) : Bool := r != 0 && k.vactive.any fun e => e.gdests.contains r

/-- A load or AMO writes a general register. -/
def Load.writesG (l : Load) : Bool :=
  match l.kind with
  | .plain _ => true
  | .amo .. => true
  | _ => false

/-- Register r is interlocked: an outstanding load, AMO, drove request or sequencer entry has yet to write it (R88). -/
def Core.pending (k : Core) (r : Nat) : Bool :=
  r != 0 && (k.loads.any (fun l => l.writesG && l.rd == r) || k.drove.any (fun q => q.op.returns && q.rd == r) || k.awaitsV r)

/-- The deferred drove error that a packet takes when it reads a failed or discarded request's rd (R313). -/
def Core.failedRd (k : Core) (rs : List Nat) : Option DefErr :=
  match k.droveErr with
  | some (e, ds) => if rs.any fun r => r != 0 && ds.contains r then some e else none
  | none => none

/-- A deferred error as a trap (R221). -/
def DefErr.trap (e : DefErr) (q : Nat) : Stop :=
  .trap { cause := e.cause, acc := e.acc, val := e.val, data := e.data, deferred := some q }

/-- The distinct bound streams that a list of source registers names, without those the packet's first instruction has popped (R95). -/
def srcStreams (s : State) (rs : List Nat) : List Nat :=
  (rs.filter fun r => (boundG s.pre r).isSome).foldl (fun acc r =>
    let b := r - 24
    if acc.contains b || s.popped.contains b then acc else acc ++ [b]) []

/-- Some bindings pop one entry each, with the lowest invalid byte popped. -/
def popEach (bs : List Nat) (m : Option Nat) (s : State) : Res (Option Nat × State) :=
  bs.foldlM (fun (acc : Option Nat × State) b => (popStream acc.2 b 1).map fun x => (optMin acc.1 x.2.1, x.2.2)) (m, s)

/-- An attempt that reads and writes general registers: held while one is interlocked; then the waits and the checks `chk` that come before
any source is read; then each bound source stream of `srcs` pops once. The continuation starts from the popped state, with the lowest
invalid byte popped, and reads values through `gval` of the state before; the sources `later` it reads itself, by `popLater`. -/
def withLater (s : State) (srcs later dests : List Nat) (chk : Res Unit) (f : Option Nat → State → Res State) : Res State := do
  need (!(srcs ++ later ++ dests).any fun r => s.pre.pending r) .hold
  chk
  match s.pre.failedRd srcs with
  | some e => .error (e.trap 8)
  | none =>
    let (m, s') ← popEach (srcStreams s srcs) none s
    f m s'

/-- The sources that an instruction reads after checks of its own (R151, R152): one that a failed drove request has left without a value
traps now (R313), and the bound streams that `srcs` has not popped pop. -/
def popLater (s : State) (srcs later : List Nat) (m : Option Nat) (s' : State) : Res (Option Nat × State) :=
  match s.pre.failedRd later with
  | some e => .error (e.trap 8)
  | none => popEach ((srcStreams s later).filter fun b => !(srcStreams s srcs).contains b) m s'

/-- `withLater` where every source is read at once. -/
def withPops (s : State) (srcs dests : List Nat) (chk : Res Unit) (f : Option Nat → State → Res State) : Res State :=
  withLater s srcs [] dests chk f

/-- `withPops` with the count made at once (R242). -/
def withChecked (s : State) (srcs dests : List Nat) (chk : Res Unit) (f : State → Res State) : Res State :=
  withPops s srcs dests chk fun m s' => f (countPops s' m)

/-- `withChecked` without checks before the pops. -/
def withRegs (s : State) (srcs dests : List Nat) (f : State → Res State) : Res State := withChecked s srcs dests (.ok ()) f

/-- Writes general register d: nothing for g0, a push where it is bound (R89, R279). -/
def setG (s : State) (d : Nat) (v : Word) : Res State :=
  if d = 0 then .ok s
  else
    match boundG s.pre d with
    | some _ => pushStream s (d - 24) [v]
    | none => .ok (s.updMe fun k => { k with r := { k.r with g := mset 0 k.r.g d v } })

/-- Room for a value that an agent delivers to general register d later (R88, R279): STREAM for a read stream or past the pattern's end; held
while the ring has no room. The register is interlocked until then, so nothing else is pushed before. -/
def gRoom (s s' : State) (d : Nat) : Res Unit :=
  match boundG s.pre d with
  | none => .ok ()
  | some _ => do
    let t := mget Stream.unbound s'.me.streams (d - 24)
    need (t.writes && (t.rep || decide (t.pos + 1 ≤ t.total))) (trapC cSTREAM)
    need (decide (t.ring.length + 1 ≤ t.room)) .hold

/-- A mask group must end by g31, and one of two or more registers must hold no bound stream register (R145). -/
def groupFree (s : State) (first n : Nat) : Res Unit := do
  need (decide (first + n ≤ 32)) (trapC cILLEGAL)
  need (decide (n ≤ 1) || !(group first n).any fun r => (boundG s.pre r).isSome) (trapC cSTREAM)

/-- Writes a mask group from a number (R145). -/
def setGroup (s : State) (first n v : Nat) : Res State :=
  (List.range n).foldlM (fun s j => setG s (first + j) (BitVec.ofNat 64 (v / 2 ^ (64 * j)))) s

/-- The deferred error of a stream that moves past its pattern's end without a packet to trap (R279; log 26). -/
def streamPastEnd : DefErr := { cause := cSTREAM, acc := 3, val := false, data := 0 }

/-- General register d receives a value at the end of an agent's work: none while a bound ring has no room; a push past the pattern's end
leaves the stream's deferred error (R88, R279). -/
def Core.deliverG (k : Core) (d : Nat) (v : Word) : Option Core :=
  if d = 0 then some k
  else
    match boundG k d with
    | none => some { k with r := { k.r with g := mset 0 k.r.g d v } }
    | some t =>
      if !t.writes ∨ (!t.rep ∧ t.total < t.pos + 1) then
        some { k with streams := mput k.streams (d - 24) { t with err := some (t.err.getD streamPastEnd) } }
      else if t.ring.length < t.room then
        some { k with streams := mput k.streams (d - 24) { t with ring := t.ring ++ [.val v none], pos := t.advance 1 } }
      else none

/-- `Core.deliverG` at core c. -/
def deliverG (s : State) (c d : Nat) (v : Word) : Option State := ((s.core c).deliverG d v).map (s.setCore c)

/-- The last agreeing point of a pair as a core, and a core's registers and streams put back into it. -/
def Yoke.agreedCore (y : Yoke) (k : Core) : Core :=
  { k with r := y.agree.getD k.r, streams := (y.point.map (·.streams)).getD k.streams }
def Yoke.putAgreed (y : Yoke) (k : Core) : Yoke :=
  { y with agree := y.agree.map fun _ => k.r, point := y.point.map fun n => { n with streams := k.streams } }

/-- The result of an action of a pair, which is performed once, after its interval has agreed (R372): the last agreeing point, to which a
later interval may go back, has it too. -/
def deliverAction (s : State) (c d : Nat) (v : Word) : Option State :=
  (deliverG s c d v).map fun s => s.updCore c fun k => { k with
    yoke := k.yoke.map fun y => y.putAgreed (((y.agreedCore k).deliverG d v).getD (y.agreedCore k)) }

/-- The general registers that an instruction writes, implicit ones included (R95); a VCMP's mask group depends on VL. g0 is
listed and never counted. -/
def gDests (vl : Nat) (i : Instr) : List Nat :=
  match i with
  | .powerGood _ => []
  | .imageSourceWrite _ _ _ => []
  | .imglenWrite _ => []
  | .attestationRequest _ => []
  | .partitionLayoutChange _ => []
  | .faccWrite _ _ => []
  | .negotiationDone _ _ => []
  | .queueEnable _ _ => []
  | .queueDisable _ _ => []
  | .queueReset _ _ => []
  | .qkick _ _ => []
  | .recordRead _ _ => []
  | .retryWaitEnd _ _ => []
  | .blockedReread _ _ => []
  | .hcancel _ _ => []
  | .hjobrm _ _ => []
  | .jobRemovalComplete _ => []
  | .hpreempt _ _ => []
  | .corePreempt _ => []
  | .preemptForceTimeout _ => []
  | .launchResume _ _ => []
  | .ptrootApply _ _ => []
  | .svcTick _ => []
  | .unitPlace _ => []
  | .gangPlace _ _ => []
  | .noteWrite _ _ => []
  | .watchdogFire _ => []
  | .icacheFill _ _ => []
  | .loadReturn _ _ => []
  | .storeDrain _ => []
  | .translationResolve _ => []
  | .fqRetry _ _ => []
  | .fqDeliver _ _ => []
  | .vectorEntryComplete _ => []
  | .matrixEntryPerform _ _ => []
  | .tileArrival _ _ => []
  | .streamedBFaultResolved _ _ => []
  | .mxcmdRemoteAccept _ => []
  | .mxcmdAnswer _ => []
  | .copyEntryPerform _ _ => []
  | .copyFaultResolved _ _ => []
  | .streamFill _ _ => []
  | .streamDrainEntry _ _ => []
  | .messageArrival _ => []
  | .pieceAccept _ _ => []
  | .exchangeTransferWrite _ _ => []
  | .barrierRelease _ _ => []
  | .superstepRelease _ _ _ => []
  | .exchangePhaseEnd _ => []
  | .droveRequestApply _ => []
  | .droveRequestFail _ => []
  | .captureTimeout _ => []
  | .droveSlotError _ => []
  | .recvtTimeout _ => []
  | .wfiTimeout _ => []
  | .rollback _ _ => []
  | .intervalEnd _ => []
  | .thirdRunComplete _ _ => []
  | .contansContinue _ => []
  | .contansCancel _ => []
  | .phaseStop _ _ => []
  | .phaseStopWrite _ => []
  | .phaseRestore _ _ => []
  | .linkCrcError _ => []
  | .linkRetrain _ _ => []
  | .downLinkTimeout _ => []
  | .escapeMove _ _ => []
  | .routerBeat _ _ _ => []
  | .portBeatArrival _ _ _ => []
  | .hostMemoryWrite _ _ _ => []
  | .systemScopeRequest _ _ _ _ _ _ => []
  | .hostCompletionTimeout _ => []
  | .thermalSample _ _ => []
  | .wearMinutesFlush => []
  | .scrub _ _ => []
  | .registerWrite _ _ _ => []
  | .nopCSlot _ => []
  | .nopASlot => []
  | .trap _ _ => []
  | .eret _ => []
  | .exit _ => []
  | .yield _ => []
  | .pulse _ => []
  | .cancel _ d _ => [d.toNat]
  | .wfi _ _ => []
  | .mfc _ d _ => [d.toNat]
  | .mtc _ _ _ => []
  | .movi _ d _ => [d.toNat]
  | .ldlW _ d _ => [d.toNat]
  | .ldlD _ d _ => [d.toNat]
  | .ldlC d _ => [d.toNat]
  | .ld _ d _ _ _ _ => [d.toNat]
  | .st _ _ _ _ _ => []
  | .ldv _ _ _ _ _ _ => []
  | .stv _ _ _ _ _ => []
  | .ldf _ _ _ _ => []
  | .stf _ _ _ _ => []
  | .adda _ d _ _ => [d.toNat]
  | .ptag _ d _ _ => [d.toNat]
  | .pfmt _ d _ => [d.toNat]
  | .pbase _ d _ => [d.toNat]
  | .lea _ d _ _ _ => [d.toNat]
  | .br _ _ _ _ _ => []
  | .bbc _ _ _ _ _ => []
  | .bbs _ _ _ _ _ => []
  | .bbz _ _ _ _ => []
  | .bbnz _ _ _ _ => []
  | .j _ _ => []
  | .jl _ _ => [1]
  | .jr _ d _ _ => [d.toNat]
  | .macroOp _ _ _ _ _ => []
  | .claim _ d _ _ => [d.toNat]
  | .vsetl _ d _ => [d.toNat]
  | .vsetli _ d _ => [d.toNat]
  | .vrep _ _ _ => []
  | .vdrain _ => []
  | .amoAdd _ d _ _ _ _ _ => [d.toNat]
  | .amoFadd _ d _ _ _ _ => [d.toNat]
  | .amoMin _ d _ _ _ _ _ => [d.toNat]
  | .amoMax _ d _ _ _ _ _ => [d.toNat]
  | .amoMinu _ d _ _ _ _ _ => [d.toNat]
  | .amoMaxu _ d _ _ _ _ _ => [d.toNat]
  | .amoFmin _ d _ _ _ _ => [d.toNat]
  | .amoFmax _ d _ _ _ _ => [d.toNat]
  | .amoAmax _ d _ _ _ _ => [d.toNat]
  | .amoAnd _ d _ _ _ _ _ => [d.toNat]
  | .amoOr _ d _ _ _ _ _ => [d.toNat]
  | .amoXor _ d _ _ _ _ _ => [d.toNat]
  | .amoSwap _ d _ _ _ _ _ => [d.toNat]
  | .amoCas _ d _ _ _ _ _ => [d.toNat]
  | .amoAmaxrst _ d _ _ _ _ _ => [d.toNat]
  | .evwait _ _ => []
  | .evsig _ _ _ _ => []
  | .evcnt _ d _ => [d.toNat]
  | .dqpush _ _ => []
  | .dqpop _ d => [d.toNat]
  | .dqsteal _ d _ => [d.toNat]
  | .fork _ _ _ _ => []
  | .join _ _ => []
  | .send _ _ _ _ => []
  | .recv _ d _ => [d.toNat]
  | .recvt _ d _ _ => [d.toNat]
  | .ssync _ => []
  | .bdom _ _ => []
  | .xsend _ _ _ => []
  | .xrecv _ d _ => [d.toNat]
  | .dboard _ d _ _ => [d.toNat]
  | .dalight _ d _ _ => [d.toNat]
  | .dread _ d _ _ => [d.toNat]
  | .drmwAdd _ d _ _ _ => [d.toNat]
  | .drmwMin _ d _ _ _ => [d.toNat]
  | .drmwMax _ d _ _ _ => [d.toNat]
  | .drmwMinu _ d _ _ _ => [d.toNat]
  | .drmwMaxu _ d _ _ _ => [d.toNat]
  | .drmwFmin _ d _ _ _ => [d.toNat]
  | .drmwFmax _ d _ _ _ => [d.toNat]
  | .drmwAnd _ d _ _ _ => [d.toNat]
  | .drmwOr _ d _ _ _ => [d.toNat]
  | .drmwXor _ d _ _ _ => [d.toNat]
  | .drmwSwap _ d _ _ _ => [d.toNat]
  | .drmwCas _ d _ _ _ => [d.toNat]
  | .dcap _ _ => []
  | .dput _ _ _ _ => []
  | .drel _ _ => []
  | .dlap _ d => [d.toNat]
  | .fenceR _ _ _ => []
  | .fenceS _ _ _ => []
  | .qfence _ _ => []
  | .sbind _ _ _ => []
  | .sunbind _ _ => []
  | .sstat _ d _ => [d.toNat]
  | .sdrain _ _ => []
  | .cbinit _ _ _ => []
  | .cbpop _ d _ => [d.toNat]
  | .cbpush _ _ => []
  | .cbstat _ d _ => [d.toNat]
  | .cpy _ _ _ _ _ _ => []
  | .cpya _ _ _ _ _ _ => []
  | .gath _ _ _ _ _ _ => []
  | .scat _ _ _ _ _ => []
  | .cpyw _ _ _ _ _ _ => []
  | .cpyz _ _ _ _ _ => []
  | .pdecl _ _ _ _ => []
  | .muster _ _ => []
  | .gwait _ _ _ => []
  | .gstat _ d _ => [d.toNat]
  | .pdrop _ _ => []
  | .tld _ _ _ _ _ => []
  | .tstr _ _ _ _ _ => []
  | .amov _ _ _ _ _ => []
  | .ald _ _ _ _ _ => []
  | .mxcmd _ _ _ _ _ => []
  | .lmalloc _ d _ => [d.toNat]
  | .lmfree _ _ => []
  | .lminv _ _ _ => []
  | .vsset _ d _ _ => [d.toNat]
  | .vsmark _ _ => []
  | .vsdig _ d _ => [d.toNat]
  | .vswait _ d _ => [d.toNat]
  | .yoke _ d => [d.toNat]
  | .unyoke _ => []
  | .tlbinv _ _ _ _ => []
  | .tlbprobe _ d _ => [d.toNat]
  | .add d _ _ => [d.toNat]
  | .sub d _ _ => [d.toNat]
  | .and d _ _ => [d.toNat]
  | .or d _ _ => [d.toNat]
  | .xor d _ _ => [d.toNat]
  | .andn d _ _ => [d.toNat]
  | .min d _ _ => [d.toNat]
  | .max d _ _ => [d.toNat]
  | .minu d _ _ => [d.toNat]
  | .maxu d _ _ => [d.toNat]
  | .addw d _ _ => [d.toNat]
  | .subw d _ _ => [d.toNat]
  | .adds d _ _ => [d.toNat]
  | .subs d _ _ => [d.toNat]
  | .abs d _ => [d.toNat]
  | .mul d _ _ => [d.toNat]
  | .mulh d _ _ => [d.toNat]
  | .mulhu d _ _ => [d.toNat]
  | .mulhsu d _ _ => [d.toNat]
  | .div d _ _ => [d.toNat]
  | .divu d _ _ => [d.toNat]
  | .rem d _ _ => [d.toNat]
  | .remu d _ _ => [d.toNat]
  | .seq d _ _ => [d.toNat]
  | .sne d _ _ => [d.toNat]
  | .slt d _ _ => [d.toNat]
  | .sge d _ _ => [d.toNat]
  | .sltu d _ _ => [d.toNat]
  | .sgeu d _ _ => [d.toNat]
  | .sll d _ _ => [d.toNat]
  | .srl d _ _ => [d.toNat]
  | .sra d _ _ => [d.toNat]
  | .rol d _ _ => [d.toNat]
  | .ror d _ _ => [d.toNat]
  | .popc d _ _ => [d.toNat]
  | .clz d _ => [d.toNat]
  | .ctz d _ _ => [d.toNat]
  | .brev d _ => [d.toNat]
  | .bswap d _ => [d.toNat]
  | .extu d _ _ => [d.toNat]
  | .exts d _ _ => [d.toNat]
  | .mshl d _ _ n => group d.toNat (n.toNat + 1)
  | .mshr d _ _ n => group d.toNat (n.toNat + 1)
  | .mand d _ _ n => group d.toNat (n.toNat + 1)
  | .mor d _ _ n => group d.toNat (n.toNat + 1)
  | .mxor d _ _ n => group d.toNat (n.toNat + 1)
  | .addi d _ _ => [d.toNat]
  | .andi d _ _ => [d.toNat]
  | .ori d _ _ => [d.toNat]
  | .xori d _ _ => [d.toNat]
  | .slli d _ n _ => group d.toNat (n.toNat + 1)
  | .srli d _ n _ => group d.toNat (n.toNat + 1)
  | .srai d _ _ => [d.toNat]
  | .roli d _ _ => [d.toNat]
  | .rori d _ _ => [d.toNat]
  | .cmpi d _ _ _ => [d.toNat]
  | .fadd d _ _ => [d.toNat]
  | .fsub d _ _ => [d.toNat]
  | .fmul d _ _ => [d.toNat]
  | .fdiv d _ _ => [d.toNat]
  | .fsqrt d _ => [d.toNat]
  | .fmac d _ _ => [d.toNat]
  | .fmin d _ _ => [d.toNat]
  | .fmax d _ _ => [d.toNat]
  | .fabs d _ => [d.toNat]
  | .fneg d _ => [d.toNat]
  | .feq d _ _ => [d.toNat]
  | .flt d _ _ => [d.toNat]
  | .fle d _ _ => [d.toNat]
  | .fclass d _ => [d.toNat]
  | .fcvt d _ _ _ => [d.toNat]
  | .fext d _ _ _ => [d.toNat]
  | .ftoi d _ _ => [d.toNat]
  | .ftou d _ _ => [d.toNat]
  | .itof d _ _ => [d.toNat]
  | .utof d _ _ => [d.toNat]
  | .vadd _ _ _ _ => []
  | .vsub _ _ _ _ => []
  | .vmul _ _ _ _ => []
  | .vdiv _ _ _ _ => []
  | .vsqrt _ _ _ => []
  | .vfma _ _ _ _ _ => []
  | .vfms _ _ _ _ _ => []
  | .vmin _ _ _ _ => []
  | .vmax _ _ _ _ => []
  | .vabs _ _ _ => []
  | .vneg _ _ _ => []
  | .vdot _ _ _ _ _ => []
  | .vaddBf2 _ _ _ _ => []
  | .vmulBf2 _ _ _ _ => []
  | .vfmaBf2 _ _ _ _ _ => []
  | .vdot2Bf _ _ _ _ _ => []
  | .viadd _ _ _ _ => []
  | .visub _ _ _ _ => []
  | .vimul _ _ _ _ => []
  | .vimulh _ _ _ _ => []
  | .viand _ _ _ _ => []
  | .vior _ _ _ _ => []
  | .vixor _ _ _ _ => []
  | .visll _ _ _ _ => []
  | .visrl _ _ _ _ => []
  | .visra _ _ _ _ => []
  | .vimin _ _ _ _ => []
  | .vimax _ _ _ _ => []
  | .viminu _ _ _ _ => []
  | .vimaxu _ _ _ _ => []
  | .viadds _ _ _ _ => []
  | .visubs _ _ _ _ => []
  | .vimac _ _ _ _ _ => []
  | .vidot4 _ _ _ _ _ => []
  | .viabs _ _ _ => []
  | .vcmpFeq _ _ d => group d.toNat (maskRegs vl)
  | .vcmpFne _ _ d => group d.toNat (maskRegs vl)
  | .vcmpFlt _ _ d => group d.toNat (maskRegs vl)
  | .vcmpFle _ _ d => group d.toNat (maskRegs vl)
  | .vcmpFun _ _ d => group d.toNat (maskRegs vl)
  | .vcmpIeq _ _ d => group d.toNat (maskRegs vl)
  | .vcmpIne _ _ d => group d.toNat (maskRegs vl)
  | .vcmpIlt _ _ d => group d.toNat (maskRegs vl)
  | .vcmpIle _ _ d => group d.toNat (maskRegs vl)
  | .vcmpIltu _ _ d => group d.toNat (maskRegs vl)
  | .vcmpIleu _ _ d => group d.toNat (maskRegs vl)
  | .vrsum _ _ _ => []
  | .vrmax _ _ _ => []
  | .vrmin _ _ _ => []
  | .vramax _ _ _ => []
  | .vmaxi _ _ _ => []
  | .vmini _ _ _ => []
  | .vrisum _ _ _ => []
  | .vrimax _ _ _ => []
  | .vrimin _ _ _ => []
  | .vrimaxu _ _ _ => []
  | .vriminu _ _ _ => []
  | .vrand _ _ _ => []
  | .vror _ _ _ => []
  | .vrxor _ _ _ => []
  | .vexp2 _ _ _ => []
  | .vexpe _ _ _ => []
  | .vlog2 _ _ _ => []
  | .vrcp _ _ _ => []
  | .vrsq _ _ _ => []
  | .vmov _ _ _ => []
  | .vsplat _ _ => []
  | .vmovs _ _ d => [d.toNat]
  | .vsel _ _ _ _ => []
  | .viota _ _ => []
  | .vidx _ _ _ _ => []
  | .vnarrow _ _ _ _ _ _ => []
  | .vwiden _ _ _ _ _ _ => []
  | .vqrnd _ _ _ _ _ _ => []
  | .vmxq _ _ _ _ _ => []
  | .vmxs _ _ _ _ _ => []
  | .vmxc _ _ _ _ _ => []
  | .vbaleq _ _ => []
  | .mma _ _ _ _ => []
  | .mmaz _ _ _ _ => []
  | .azero _ => []
  | .acopy _ _ => []
  | .aadd _ _ _ => []
  | .tzero _ => []
  | .tcopy _ _ => []
  | .ttrn _ _ => []
  | .tfwd _ _ => []
  | .ttake _ _ => []
  | .powerLoss => []
  | .functionReset _ => []
  | .linkReturn _ => []

/-- The register that an rb field reads: none where the literal stands for it (R103). -/
def rbReg (l : Lit) (b : BitVec 5) : List Nat := if b = 0 ∧ l.isSome then [] else [b.toNat]

/-- The general registers that an instruction reads, in field order (R88, R372). -/
def gSrcs (vl : Nat) (i : Instr) : List Nat :=
  match i with
  | .powerGood _ => []
  | .imageSourceWrite _ _ _ => []
  | .imglenWrite _ => []
  | .attestationRequest _ => []
  | .partitionLayoutChange _ => []
  | .faccWrite _ _ => []
  | .negotiationDone _ _ => []
  | .queueEnable _ _ => []
  | .queueDisable _ _ => []
  | .queueReset _ _ => []
  | .qkick _ _ => []
  | .recordRead _ _ => []
  | .retryWaitEnd _ _ => []
  | .blockedReread _ _ => []
  | .hcancel _ _ => []
  | .hjobrm _ _ => []
  | .jobRemovalComplete _ => []
  | .hpreempt _ _ => []
  | .corePreempt _ => []
  | .preemptForceTimeout _ => []
  | .launchResume _ _ => []
  | .ptrootApply _ _ => []
  | .svcTick _ => []
  | .unitPlace _ => []
  | .gangPlace _ _ => []
  | .noteWrite _ _ => []
  | .watchdogFire _ => []
  | .icacheFill _ _ => []
  | .loadReturn _ _ => []
  | .storeDrain _ => []
  | .translationResolve _ => []
  | .fqRetry _ _ => []
  | .fqDeliver _ _ => []
  | .vectorEntryComplete _ => []
  | .matrixEntryPerform _ _ => []
  | .tileArrival _ _ => []
  | .streamedBFaultResolved _ _ => []
  | .mxcmdRemoteAccept _ => []
  | .mxcmdAnswer _ => []
  | .copyEntryPerform _ _ => []
  | .copyFaultResolved _ _ => []
  | .streamFill _ _ => []
  | .streamDrainEntry _ _ => []
  | .messageArrival _ => []
  | .pieceAccept _ _ => []
  | .exchangeTransferWrite _ _ => []
  | .barrierRelease _ _ => []
  | .superstepRelease _ _ _ => []
  | .exchangePhaseEnd _ => []
  | .droveRequestApply _ => []
  | .droveRequestFail _ => []
  | .captureTimeout _ => []
  | .droveSlotError _ => []
  | .recvtTimeout _ => []
  | .wfiTimeout _ => []
  | .rollback _ _ => []
  | .intervalEnd _ => []
  | .thirdRunComplete _ _ => []
  | .contansContinue _ => []
  | .contansCancel _ => []
  | .phaseStop _ _ => []
  | .phaseStopWrite _ => []
  | .phaseRestore _ _ => []
  | .linkCrcError _ => []
  | .linkRetrain _ _ => []
  | .downLinkTimeout _ => []
  | .escapeMove _ _ => []
  | .routerBeat _ _ _ => []
  | .portBeatArrival _ _ _ => []
  | .hostMemoryWrite _ _ _ => []
  | .systemScopeRequest _ _ _ _ _ _ => []
  | .hostCompletionTimeout _ => []
  | .thermalSample _ _ => []
  | .wearMinutesFlush => []
  | .scrub _ _ => []
  | .registerWrite _ _ _ => []
  | .nopCSlot _ => []
  | .nopASlot => []
  | .trap l b => rbReg l b
  | .eret _ => []
  | .exit _ => []
  | .yield _ => []
  | .pulse _ => []
  | .cancel _ _ a => [a.toNat]
  | .wfi l b => rbReg l b
  | .mfc _ _ _ => []
  | .mtc _ a _ => [a.toNat]
  | .movi _ _ _ => []
  | .ldlW _ _ _ => []
  | .ldlD _ _ _ => []
  | .ldlC _ _ => []
  | .ld _ _ a _ _ _ => [a.toNat]
  | .st _ s a _ _ => [s.toNat] ++ [a.toNat]
  | .ldv _ _ a _ _ _ => [a.toNat]
  | .stv _ _ a _ _ => [a.toNat]
  | .ldf _ _ a _ => [a.toNat]
  | .stf _ _ a _ => [a.toNat]
  | .adda l _ a b => [a.toNat] ++ rbReg l b
  | .ptag l _ a b => [a.toNat] ++ rbReg l b
  | .pfmt _ _ a => [a.toNat]
  | .pbase _ _ a => [a.toNat]
  | .lea l _ a b _ => [a.toNat] ++ rbReg l b
  | .br l a b _ _ => [a.toNat] ++ rbReg l b
  | .bbc l a b n _ => group a.toNat (n.toNat + 1) ++ rbReg l b
  | .bbs l a b n _ => group a.toNat (n.toNat + 1) ++ rbReg l b
  | .bbz _ a n _ => group a.toNat (n.toNat + 1)
  | .bbnz _ a n _ => group a.toNat (n.toNat + 1)
  | .j _ _ => []
  | .jl _ _ => []
  | .jr l _ a b => [a.toNat] ++ rbReg l b
  | .macroOp _ _ _ _ _ => []
  | .claim _ _ a _ => [a.toNat]
  | .vsetl _ _ a => [a.toNat]
  | .vsetli _ _ _ => []
  | .vrep _ a _ => [a.toNat]
  | .vdrain _ => []
  | .amoAdd l _ a b _ _ _ => [a.toNat] ++ rbReg l b
  | .amoFadd l _ a b _ _ => [a.toNat] ++ rbReg l b
  | .amoMin l _ a b _ _ _ => [a.toNat] ++ rbReg l b
  | .amoMax l _ a b _ _ _ => [a.toNat] ++ rbReg l b
  | .amoMinu l _ a b _ _ _ => [a.toNat] ++ rbReg l b
  | .amoMaxu l _ a b _ _ _ => [a.toNat] ++ rbReg l b
  | .amoFmin l _ a b _ _ => [a.toNat] ++ rbReg l b
  | .amoFmax l _ a b _ _ => [a.toNat] ++ rbReg l b
  | .amoAmax l _ a b _ _ => [a.toNat] ++ rbReg l b
  | .amoAnd l _ a b _ _ _ => [a.toNat] ++ rbReg l b
  | .amoOr l _ a b _ _ _ => [a.toNat] ++ rbReg l b
  | .amoXor l _ a b _ _ _ => [a.toNat] ++ rbReg l b
  | .amoSwap l _ a b _ _ _ => [a.toNat] ++ rbReg l b
  | .amoCas l d a b _ _ _ => [d.toNat] ++ [a.toNat] ++ rbReg l b
  | .amoAmaxrst l _ a b _ _ _ => [a.toNat] ++ rbReg l b
  | .evwait _ _ => []
  | .evsig l a b _ => [a.toNat] ++ rbReg l b
  | .evcnt _ _ _ => []
  | .dqpush _ a => [a.toNat]
  | .dqpop _ _ => []
  | .dqsteal _ _ a => [a.toNat]
  | .fork l d a b => [d.toNat] ++ [a.toNat] ++ rbReg l b ++ span 4 5
  | .join _ a => [a.toNat]
  | .send l d a b => [d.toNat] ++ [a.toNat] ++ rbReg l b
  | .recv _ _ _ => []
  | .recvt l _ b _ => rbReg l b
  | .ssync _ => []
  | .bdom _ a => [a.toNat]
  | .xsend l a b => [a.toNat] ++ rbReg l b
  | .xrecv _ _ _ => []
  | .dboard l _ a b => [a.toNat] ++ rbReg l b
  | .dalight l _ a b => [a.toNat] ++ rbReg l b
  | .dread _ _ a _ => [a.toNat]
  | .drmwAdd l _ a b _ => [a.toNat] ++ rbReg l b
  | .drmwMin l _ a b _ => [a.toNat] ++ rbReg l b
  | .drmwMax l _ a b _ => [a.toNat] ++ rbReg l b
  | .drmwMinu l _ a b _ => [a.toNat] ++ rbReg l b
  | .drmwMaxu l _ a b _ => [a.toNat] ++ rbReg l b
  | .drmwFmin l _ a b _ => [a.toNat] ++ rbReg l b
  | .drmwFmax l _ a b _ => [a.toNat] ++ rbReg l b
  | .drmwAnd l _ a b _ => [a.toNat] ++ rbReg l b
  | .drmwOr l _ a b _ => [a.toNat] ++ rbReg l b
  | .drmwXor l _ a b _ => [a.toNat] ++ rbReg l b
  | .drmwSwap l _ a b _ => [a.toNat] ++ rbReg l b
  | .drmwCas l d a b _ => [d.toNat] ++ [a.toNat] ++ rbReg l b
  | .dcap _ a => [a.toNat]
  | .dput l a b _ => [a.toNat] ++ rbReg l b
  | .drel _ a => [a.toNat]
  | .dlap _ _ => []
  | .fenceR l a b => [a.toNat] ++ rbReg l b
  | .fenceS _ _ _ => []
  | .qfence _ _ => []
  | .sbind _ _ a => [a.toNat]
  | .sunbind _ _ => []
  | .sstat _ _ _ => []
  | .sdrain _ _ => []
  | .cbinit _ a _ => [a.toNat]
  | .cbpop _ _ _ => []
  | .cbpush _ _ => []
  | .cbstat _ _ _ => []
  | .cpy l _ a b c _ => [a.toNat] ++ rbReg l b ++ [c.toNat]
  | .cpya l _ a b c _ => [a.toNat] ++ rbReg l b ++ [c.toNat]
  | .gath l _ a b c _ => [a.toNat] ++ rbReg l b ++ [c.toNat]
  | .scat l _ a b c => [a.toNat] ++ rbReg l b ++ [c.toNat]
  | .cpyw l _ a b c _ => [a.toNat] ++ rbReg l b ++ [c.toNat]
  | .cpyz l _ a b _ => [a.toNat] ++ rbReg l b
  | .pdecl l a b _ => [a.toNat] ++ rbReg l b
  | .muster _ _ => []
  | .gwait l b _ => rbReg l b
  | .gstat _ _ _ => []
  | .pdrop _ _ => []
  | .tld l _ a b _ => [a.toNat] ++ rbReg l b
  | .tstr l _ a b _ => [a.toNat] ++ rbReg l b
  | .amov l _ a b _ => [a.toNat] ++ rbReg l b
  | .ald l _ a b _ => [a.toNat] ++ rbReg l b
  | .mxcmd l _ a b c => [a.toNat] ++ rbReg l b ++ [c.toNat]
  | .lmalloc l _ b => rbReg l b
  | .lmfree _ a => [a.toNat]
  | .lminv l a b => [a.toNat] ++ rbReg l b
  | .vsset l _ a b => [a.toNat] ++ rbReg l b
  | .vsmark _ a => [a.toNat]
  | .vsdig _ _ a => [a.toNat]
  | .vswait _ _ a => [a.toNat]
  | .yoke _ _ => []
  | .unyoke _ => []
  | .tlbinv l a b _ => [a.toNat] ++ rbReg l b
  | .tlbprobe _ _ a => [a.toNat]
  | .add _ a b => [a.toNat] ++ [b.toNat]
  | .sub _ a b => [a.toNat] ++ [b.toNat]
  | .and _ a b => [a.toNat] ++ [b.toNat]
  | .or _ a b => [a.toNat] ++ [b.toNat]
  | .xor _ a b => [a.toNat] ++ [b.toNat]
  | .andn _ a b => [a.toNat] ++ [b.toNat]
  | .min _ a b => [a.toNat] ++ [b.toNat]
  | .max _ a b => [a.toNat] ++ [b.toNat]
  | .minu _ a b => [a.toNat] ++ [b.toNat]
  | .maxu _ a b => [a.toNat] ++ [b.toNat]
  | .addw _ a b => [a.toNat] ++ [b.toNat]
  | .subw _ a b => [a.toNat] ++ [b.toNat]
  | .adds _ a b => [a.toNat] ++ [b.toNat]
  | .subs _ a b => [a.toNat] ++ [b.toNat]
  | .abs _ a => [a.toNat]
  | .mul _ a b => [a.toNat] ++ [b.toNat]
  | .mulh _ a b => [a.toNat] ++ [b.toNat]
  | .mulhu _ a b => [a.toNat] ++ [b.toNat]
  | .mulhsu _ a b => [a.toNat] ++ [b.toNat]
  | .div _ a b => [a.toNat] ++ [b.toNat]
  | .divu _ a b => [a.toNat] ++ [b.toNat]
  | .rem _ a b => [a.toNat] ++ [b.toNat]
  | .remu _ a b => [a.toNat] ++ [b.toNat]
  | .seq _ a b => [a.toNat] ++ [b.toNat]
  | .sne _ a b => [a.toNat] ++ [b.toNat]
  | .slt _ a b => [a.toNat] ++ [b.toNat]
  | .sge _ a b => [a.toNat] ++ [b.toNat]
  | .sltu _ a b => [a.toNat] ++ [b.toNat]
  | .sgeu _ a b => [a.toNat] ++ [b.toNat]
  | .sll _ a b => [a.toNat] ++ [b.toNat]
  | .srl _ a b => [a.toNat] ++ [b.toNat]
  | .sra _ a b => [a.toNat] ++ [b.toNat]
  | .rol _ a b => [a.toNat] ++ [b.toNat]
  | .ror _ a b => [a.toNat] ++ [b.toNat]
  | .popc _ a n => group a.toNat (n.toNat + 1)
  | .clz _ a => [a.toNat]
  | .ctz _ a n => group a.toNat (n.toNat + 1)
  | .brev _ a => [a.toNat]
  | .bswap _ a => [a.toNat]
  | .extu _ a b => [a.toNat] ++ [b.toNat]
  | .exts _ a b => [a.toNat] ++ [b.toNat]
  | .mshl _ a b n => group a.toNat (n.toNat + 1) ++ [b.toNat]
  | .mshr _ a b n => group a.toNat (n.toNat + 1) ++ [b.toNat]
  | .mand _ a b n => group a.toNat (n.toNat + 1) ++ group b.toNat (n.toNat + 1)
  | .mor _ a b n => group a.toNat (n.toNat + 1) ++ group b.toNat (n.toNat + 1)
  | .mxor _ a b n => group a.toNat (n.toNat + 1) ++ group b.toNat (n.toNat + 1)
  | .addi _ a _ => [a.toNat]
  | .andi _ a _ => [a.toNat]
  | .ori _ a _ => [a.toNat]
  | .xori _ a _ => [a.toNat]
  | .slli _ a n _ => group a.toNat (n.toNat + 1)
  | .srli _ a n _ => group a.toNat (n.toNat + 1)
  | .srai _ a _ => [a.toNat]
  | .roli _ a _ => [a.toNat]
  | .rori _ a _ => [a.toNat]
  | .cmpi _ a _ _ => [a.toNat]
  | .fadd _ a b => [a.toNat] ++ [b.toNat]
  | .fsub _ a b => [a.toNat] ++ [b.toNat]
  | .fmul _ a b => [a.toNat] ++ [b.toNat]
  | .fdiv _ a b => [a.toNat] ++ [b.toNat]
  | .fsqrt _ a => [a.toNat]
  | .fmac d a b => [d.toNat] ++ [a.toNat] ++ [b.toNat]
  | .fmin _ a b => [a.toNat] ++ [b.toNat]
  | .fmax _ a b => [a.toNat] ++ [b.toNat]
  | .fabs _ a => [a.toNat]
  | .fneg _ a => [a.toNat]
  | .feq _ a b => [a.toNat] ++ [b.toNat]
  | .flt _ a b => [a.toNat] ++ [b.toNat]
  | .fle _ a b => [a.toNat] ++ [b.toNat]
  | .fclass _ a => [a.toNat]
  | .fcvt _ a _ _ => [a.toNat]
  | .fext _ a _ _ => [a.toNat]
  | .ftoi _ a _ => [a.toNat]
  | .ftou _ a _ => [a.toNat]
  | .itof _ a _ => [a.toNat]
  | .utof _ a _ => [a.toNat]
  | .vadd _ _ _ k => (if k = 0#5 then [] else group k.toNat (maskRegs vl))
  | .vsub _ _ _ k => (if k = 0#5 then [] else group k.toNat (maskRegs vl))
  | .vmul _ _ _ k => (if k = 0#5 then [] else group k.toNat (maskRegs vl))
  | .vdiv _ _ _ k => (if k = 0#5 then [] else group k.toNat (maskRegs vl))
  | .vsqrt _ _ k => (if k = 0#5 then [] else group k.toNat (maskRegs vl))
  | .vfma _ _ _ _ k => (if k = 0#5 then [] else group k.toNat (maskRegs vl))
  | .vfms _ _ _ _ k => (if k = 0#5 then [] else group k.toNat (maskRegs vl))
  | .vmin _ _ _ k => (if k = 0#5 then [] else group k.toNat (maskRegs vl))
  | .vmax _ _ _ k => (if k = 0#5 then [] else group k.toNat (maskRegs vl))
  | .vabs _ _ k => (if k = 0#5 then [] else group k.toNat (maskRegs vl))
  | .vneg _ _ k => (if k = 0#5 then [] else group k.toNat (maskRegs vl))
  | .vdot _ _ _ _ k => (if k = 0#5 then [] else group k.toNat (maskRegs vl))
  | .vaddBf2 _ _ _ k => (if k = 0#5 then [] else group k.toNat (maskRegs vl))
  | .vmulBf2 _ _ _ k => (if k = 0#5 then [] else group k.toNat (maskRegs vl))
  | .vfmaBf2 _ _ _ _ k => (if k = 0#5 then [] else group k.toNat (maskRegs vl))
  | .vdot2Bf _ _ _ _ k => (if k = 0#5 then [] else group k.toNat (maskRegs vl))
  | .viadd _ _ _ k => (if k = 0#5 then [] else group k.toNat (maskRegs vl))
  | .visub _ _ _ k => (if k = 0#5 then [] else group k.toNat (maskRegs vl))
  | .vimul _ _ _ k => (if k = 0#5 then [] else group k.toNat (maskRegs vl))
  | .vimulh _ _ _ k => (if k = 0#5 then [] else group k.toNat (maskRegs vl))
  | .viand _ _ _ k => (if k = 0#5 then [] else group k.toNat (maskRegs vl))
  | .vior _ _ _ k => (if k = 0#5 then [] else group k.toNat (maskRegs vl))
  | .vixor _ _ _ k => (if k = 0#5 then [] else group k.toNat (maskRegs vl))
  | .visll _ _ _ k => (if k = 0#5 then [] else group k.toNat (maskRegs vl))
  | .visrl _ _ _ k => (if k = 0#5 then [] else group k.toNat (maskRegs vl))
  | .visra _ _ _ k => (if k = 0#5 then [] else group k.toNat (maskRegs vl))
  | .vimin _ _ _ k => (if k = 0#5 then [] else group k.toNat (maskRegs vl))
  | .vimax _ _ _ k => (if k = 0#5 then [] else group k.toNat (maskRegs vl))
  | .viminu _ _ _ k => (if k = 0#5 then [] else group k.toNat (maskRegs vl))
  | .vimaxu _ _ _ k => (if k = 0#5 then [] else group k.toNat (maskRegs vl))
  | .viadds _ _ _ k => (if k = 0#5 then [] else group k.toNat (maskRegs vl))
  | .visubs _ _ _ k => (if k = 0#5 then [] else group k.toNat (maskRegs vl))
  | .vimac _ _ _ _ k => (if k = 0#5 then [] else group k.toNat (maskRegs vl))
  | .vidot4 _ _ _ _ k => (if k = 0#5 then [] else group k.toNat (maskRegs vl))
  | .viabs _ _ k => (if k = 0#5 then [] else group k.toNat (maskRegs vl))
  | .vcmpFeq _ _ _ => []
  | .vcmpFne _ _ _ => []
  | .vcmpFlt _ _ _ => []
  | .vcmpFle _ _ _ => []
  | .vcmpFun _ _ _ => []
  | .vcmpIeq _ _ _ => []
  | .vcmpIne _ _ _ => []
  | .vcmpIlt _ _ _ => []
  | .vcmpIle _ _ _ => []
  | .vcmpIltu _ _ _ => []
  | .vcmpIleu _ _ _ => []
  | .vrsum _ _ k => (if k = 0#5 then [] else group k.toNat (maskRegs vl))
  | .vrmax _ _ k => (if k = 0#5 then [] else group k.toNat (maskRegs vl))
  | .vrmin _ _ k => (if k = 0#5 then [] else group k.toNat (maskRegs vl))
  | .vramax _ _ k => (if k = 0#5 then [] else group k.toNat (maskRegs vl))
  | .vmaxi _ _ k => (if k = 0#5 then [] else group k.toNat (maskRegs vl))
  | .vmini _ _ k => (if k = 0#5 then [] else group k.toNat (maskRegs vl))
  | .vrisum _ _ k => (if k = 0#5 then [] else group k.toNat (maskRegs vl))
  | .vrimax _ _ k => (if k = 0#5 then [] else group k.toNat (maskRegs vl))
  | .vrimin _ _ k => (if k = 0#5 then [] else group k.toNat (maskRegs vl))
  | .vrimaxu _ _ k => (if k = 0#5 then [] else group k.toNat (maskRegs vl))
  | .vriminu _ _ k => (if k = 0#5 then [] else group k.toNat (maskRegs vl))
  | .vrand _ _ k => (if k = 0#5 then [] else group k.toNat (maskRegs vl))
  | .vror _ _ k => (if k = 0#5 then [] else group k.toNat (maskRegs vl))
  | .vrxor _ _ k => (if k = 0#5 then [] else group k.toNat (maskRegs vl))
  | .vexp2 _ _ k => (if k = 0#5 then [] else group k.toNat (maskRegs vl))
  | .vexpe _ _ k => (if k = 0#5 then [] else group k.toNat (maskRegs vl))
  | .vlog2 _ _ k => (if k = 0#5 then [] else group k.toNat (maskRegs vl))
  | .vrcp _ _ k => (if k = 0#5 then [] else group k.toNat (maskRegs vl))
  | .vrsq _ _ k => (if k = 0#5 then [] else group k.toNat (maskRegs vl))
  | .vmov _ _ k => (if k = 0#5 then [] else group k.toNat (maskRegs vl))
  | .vsplat _ s => [s.toNat]
  | .vmovs _ _ _ => []
  | .vsel _ _ _ k => (if k = 0#5 then [] else group k.toNat (maskRegs vl))
  | .viota _ k => (if k = 0#5 then [] else group k.toNat (maskRegs vl))
  | .vidx _ _ _ k => (if k = 0#5 then [] else group k.toNat (maskRegs vl))
  | .vnarrow _ _ _ _ _ k => (if k = 0#5 then [] else group k.toNat (maskRegs vl))
  | .vwiden _ _ _ _ _ k => (if k = 0#5 then [] else group k.toNat (maskRegs vl))
  | .vqrnd _ _ _ _ _ k => (if k = 0#5 then [] else group k.toNat (maskRegs vl))
  | .vmxq _ _ _ _ _ => []
  | .vmxs _ _ _ _ _ => []
  | .vmxc _ _ _ _ _ => []
  | .vbaleq _ _ => []
  | .mma _ _ b s => (if s = 1#1 then [b.toNat] else [])
  | .mmaz _ _ b s => (if s = 1#1 then [b.toNat] else [])
  | .azero _ => []
  | .acopy _ _ => []
  | .aadd _ _ _ => []
  | .tzero _ => []
  | .tcopy _ _ => []
  | .ttrn _ _ => []
  | .tfwd _ _ => []
  | .ttake _ _ => []
  | .powerLoss => []
  | .functionReset _ => []
  | .linkReturn _ => []

end Sys2Proof.Machine
end

