-- ==== Sys2Proof/Machine/Flags.lean ====
section
/-! DEFINITION. FPC and its flags (07 R171, R172; 04 R95), and the conditions of comparisons and branches (06 R142, R158). -/

namespace Sys2Proof.Machine

/-- FPC (R171): 0x011. -/
def fpcRm (k : Core) : Nat := fld (k.ctl 0x011) 2 0
def fpcSat (k : Core) : Bool := fld (k.ctl 0x011) 3 3 == 1
def fpcFtz (k : Core) : Bool := fld (k.ctl 0x011) 4 4 == 1

/-- NBV.LEVEL (R180): 0x010. -/
def nbvLevel (k : Core) : Nat := fld (k.ctl 0x010) 2 0

/-- ORs flags into FPC bits 12:8 (R172, R95). -/
def orFlags (k : Core) (fl : Flags) : Core := k.setCtl 0x011 (k.ctl 0x011 ||| (fl.zeroExtend 64 <<< 8))

/-- The rounding of a conversion's field (R189): 0 FPC.RM, 1 to 4 RNE, RTZ, RUP, RDN. -/
def rmField (k : Core) (r : Nat) : Nat := if r = 0 then fpcRm k else r - 1

/-- The relations of ICMP and CMPI (R142, R144): SEQ, SNE, SLT, SGE, SLTU, SGEU. -/
inductive Rel where
  | eq | ne | lt | ge | ltu | geu
  deriving DecidableEq, Repr

/-- A relation between two doublewords. -/
def Rel.holds (r : Rel) (a b : Word) : Bool :=
  match r with
  | .eq => a == b
  | .ne => a != b
  | .lt => a.slt b
  | .ge => !a.slt b
  | .ltu => a.ult b
  | .geu => !a.ult b

/-- The relation of a CMPI code; codes 6 and 7 are none (R144). -/
def relOf (c : Nat) : Option Rel :=
  match c with
  | 0 => some .eq
  | 1 => some .ne
  | 2 => some .lt
  | 3 => some .ge
  | 4 => some .ltu
  | 5 => some .geu
  | _ => none

/-- Whether a BR condition holds (R158); codes 13 to 15 are none. -/
def brTaken (cc : Nat) (a b : Word) : Option Bool :=
  match cc with
  | 0x0 => some (a == b)
  | 0x1 => some (a != b)
  | 0x2 => some (a.slt b)
  | 0x3 => some (!a.slt b)
  | 0x4 => some (a.ult b)
  | 0x5 => some (!a.ult b)
  | 0x6 => some (b.slt a)
  | 0x7 => some (!b.slt a)
  | 0x8 => some (b.ult a)
  | 0x9 => some (!b.ult a)
  | 0xA => some (a &&& b != 0)
  | 0xB => some (a &&& b == 0)
  | 0xC => some true
  | _ => none

/-- A truth value as a doubleword (R142). -/
def boolWord (b : Bool) : Word := if b then 1 else 0

/-- A signed result clamped to 64 bits (R140). -/
def clamp64 (x : Int) : Word := BitVec.ofInt 64 (max (-(2 ^ 63)) (min (2 ^ 63 - 1) x))

/-- The control registers that a unit's MTC may not write (R135): PRIVILEGED. -/
def ctlPrivileged (n : Nat) : Bool :=
  decide (n ≤ 0x005) || n == 0x012 || n == 0x040 || n == 0x081 || n == 0x082 || n == 0x090 || n == 0x091 || n == 0x0A0 ||
    (decide (0x0B0 ≤ n) && decide (n ≤ 0x0B2)) || n == 0x0C0 || n == 0x0C1 || n == 0x0D0

end Sys2Proof.Machine
end

