-- ==== Sys2Proof/Machine/Control.lean ====
section
/-! DEFINITION. Constants, fat pointers, literal loads, branches and macros (04 R108 to R117, 06 R139, R150, R151, R157 to R162). -/

namespace Sys2Proof.Machine

/-! ## Reading code -/

/-- A trap at an address with an access kind of EINFO (R347): 2 fetch, 3 other. -/
def trapAt (c : BitVec 8) (acc : BitVec 2) (a : Nat) : Stop :=
  .trap { cause := c, acc := acc, val := true, data := a % 2 ^ 48, deferred := none }

/-- The place of an address that core c reads as code (R91, R92): TRANSLATION after R365, PERMISSION outside the Common and global
windows, UNCORRECTABLE for n bytes in error. Held while a down link keeps the request back (R402). -/
def codeKey (s : State) (c a n : Nat) : Res (Nat × State) := do
  let (key, s) ← (match windowOf a with
    | .common =>
      let p := corePart s c
      if a - commonBase + n ≤ commonSize s p then .ok (commonKey s p (a - commonBase), s)
      else .error (trapAt cPERMISSION 2 a)
    | .global => do
      let (e, s) ← translate s c a 2
      match physKey s (corePart s c) (e.key + (a - e.base)) with
      | some k => .ok (k, s)
      | none => .error (trapAt cTRANSLATION 2 a)
    | _ => .error (trapAt cPERMISSION 2 a))
  need (s.mayGo c key (s.escaped c reqFetch)) .hold
  need (!(s.bad key n)) (trapAt cUNCORR 2 a)
  .ok (key, s)

/-- Reads n doublewords of code from an 8-aligned address. -/
def readCode (s : State) (c a n : Nat) : Res (List Byte × State) :=
  (List.range n).foldlM (fun (acc : List Byte × State) i => do
    let (key, s) ← codeKey acc.2 c (a + 8 * i) 8
    .ok (acc.1 ++ s.bytes key 8, s)) ([], s)

/-- Code bytes through the fold's instruction cache: held until the line is filled (R88, R109). -/
def cachedCode (s : State) (a n : Nat) : Res Nat :=
  if isMgmt s.cur then .ok (leNat (s.bytes (hbmKey s 0 a) n))
  else
    match findLine s s.cur a with
    | some l => .ok (leNat ((l.raw.drop (a % 64)).take n))
    | none => .error .hold

/-! ## Constants -/

/-- C-slot NOP changes nothing but the PC (R108). -/
def execNopCSlot (_ : Lit) (s : State) : Host.Outcome State Fault Refusal := settle s (.ok s)

/-- MOVI: a signed 20-bit constant (R139). -/
def execMovi (_ : Lit) (d : BitVec 5) (i : BitVec 20) (s : State) : Host.Outcome State Fault Refusal :=
  settle s (withRegs s [] [d.toNat] fun s' => setG s' d.toNat (i.signExtend 64))

/-- A packet-relative address (R109, R158). -/
def relAddr (s : State) (scale : Int) (disp : Int) : Int := (s.pre.r.pc.toNat : Int) + scale * disp

/-- LDL from a pool (R109, R157): n bytes at pc + 4·disp18, MISALIGN before the region check. -/
def ldlPool (s : State) (d : Nat) (p : BitVec 18) (n : Nat) (ext : Nat → Word) : Host.Outcome State Fault Refusal :=
  settle s (withRegs s [] [d] fun s' => do
    let v := relAddr s 4 p.toInt
    need (decide (v % n = 0)) (trapA cMISALIGN false (v % (2 ^ 48 : Nat)).toNat)
    need (decide (0 ≤ v) && inCode s s.cur v.toNat n) (trapA cPERMISSION false (v % (2 ^ 48 : Nat)).toNat)
    let x ← cachedCode s v.toNat n
    setG s' d (ext x))

/-- LDL of a word, sign-extended (R157). -/
def execLdlW (_ : Lit) (d : BitVec 5) (p : BitVec 18) (s : State) : Host.Outcome State Fault Refusal :=
  ldlPool s d.toNat p 4 fun x => (BitVec.ofNat 32 x).signExtend 64

/-- LDL of a doubleword (R157). -/
def execLdlD (_ : Lit) (d : BitVec 5) (p : BitVec 18) (s : State) : Host.Outcome State Fault Refusal :=
  ldlPool s d.toNat p 8 fun x => BitVec.ofNat 64 x

/-- LDL of the companion literal, sign-extended (R104, R157). -/
def execLdlC (d : BitVec 5) (lit : Word32) (s : State) : Host.Outcome State Fault Refusal :=
  settle s (withRegs s [] [d.toNat] fun s' => setG s' d.toNat (lit.signExtend 64))

/-! ## Fat pointers -/

/-- A pointer plus a signed offset with its tag kept (R150). -/
def addPtr (p : Word) (off : Int) : Res Word := do
  let v ← ptrAdd p off
  .ok (BitVec.ofNat 64 (fld p 63 48 * 2 ^ 48 + v))

/-- ADDA (R150). -/
def execAdda (l : Lit) (d a b : BitVec 5) (s : State) : Host.Outcome State Fault Refusal :=
  settle s (withRegs s [a.toNat, b.toNat] [d.toNat] fun s' => do
    setG s' d.toNat (← addPtr (gval s a.toNat) (rbval s l b.toNat).toInt))

/-- LEA: as ADDA with the offset scaled by 2^sh (R151). -/
def execLea (l : Lit) (d a b : BitVec 5) (h : BitVec 3) (s : State) : Host.Outcome State Fault Refusal :=
  settle s (withRegs s [a.toNat, b.toNat] [d.toNat] fun s' => do
    setG s' d.toNat (← addPtr (gval s a.toNat) ((rbval s l b.toNat).toInt * 2 ^ h.toNat)))

/-- PTAG: forms a tag from an operand of FC and BL, which is judged before the pointer is read (R151). -/
def execPtag (l : Lit) (d a b : BitVec 5) (s : State) : Host.Outcome State Fault Refusal :=
  settle s (withLater s [b.toNat] [a.toNat] [d.toNat] (.ok ()) fun m s' => do
    let t := rbval s l b.toNat
    need (decide (fld t 63 10 = 0 ∧ fld t 5 0 < 19)) (trapC cTAG)
    let (m, s') ← popLater s [b.toNat] [a.toNat] m s'
    let p := gval s a.toNat
    need (decide (fld p 53 48 = 0)) (trapC cTAG)
    setG (countPops s' m) d.toNat (BitVec.ofNat 64 (fld t 5 0 * 2 ^ 58 + fld t 9 6 * 2 ^ 54 + fld p 47 0)))

/-- PFMT: FC and BL of a pointer (R151). -/
def execPfmt (_ : Lit) (d a : BitVec 5) (s : State) : Host.Outcome State Fault Refusal :=
  settle s (withRegs s [a.toNat] [d.toNat] fun s' =>
    setG s' d.toNat (BitVec.ofNat 64 (ptrFc (gval s a.toNat) + ptrBl (gval s a.toNat) * 2 ^ 6)))

/-- PBASE: the address of a pointer (R151). -/
def execPbase (_ : Lit) (d a : BitVec 5) (s : State) : Host.Outcome State Fault Refusal :=
  settle s (withRegs s [a.toNat] [d.toNat] fun s' => setG s' d.toNat (BitVec.ofNat 64 (ptrAddr (gval s a.toNat))))

/-! ## Branches and jumps -/

/-- The next packet is at a target (R158, R160). -/
def State.jump (s : State) (t : Int) : State := s.updMe fun k => { k with r := { k.r with npc := BitVec.ofInt 48 t } }

/-- Jumps by a displacement in packets where a condition holds. -/
def branchIf (s s' : State) (b : Bool) (disp : Int) : State := if b then s'.jump (relAddr s 8 disp) else s'

/-- BR: compare and branch (R158). -/
def execBr (l : Lit) (a b : BitVec 5) (c : BitVec 4) (p : BitVec 11) (s : State) : Host.Outcome State Fault Refusal :=
  settle s (withRegs s [a.toNat, b.toNat] [] fun s' =>
    match brTaken c.toNat (gval s a.toNat) (rbval s l b.toNat) with
    | some t => .ok (branchIf s s' t p.toInt)
    | none => .error (trapC cILLEGAL))

/-- BBIT on one bit: the bit of a group that rb numbers, 0 from 64·N on (R159). -/
def bbitOne (s : State) (l : Lit) (a b n : Nat) (p : BitVec 11) (want : Bool) : Host.Outcome State Fault Refusal :=
  settle s (withChecked s (group a n ++ [b]) [] (groupFree s a n) fun s' => do
    let i := (rbval s l b).toNat
    .ok (branchIf s s' ((decide (i < 64 * n) && (groupVal s a n).testBit i) == want) p.toInt))

/-- BBIT on a whole group (R159). -/
def bbitAll (s : State) (a n : Nat) (p : BitVec 11) (zero : Bool) : Host.Outcome State Fault Refusal :=
  settle s (withChecked s (group a n) [] (groupFree s a n) fun s' =>
    .ok (branchIf s s' (decide (groupVal s a n = 0) == zero) p.toInt))

/-- BBC: branch if the bit is 0 (R159). -/
def execBbc (l : Lit) (a b : BitVec 5) (n : BitVec 2) (p : BitVec 11) (s : State) : Host.Outcome State Fault Refusal :=
  bbitOne s l a.toNat b.toNat (n.toNat + 1) p false

/-- BBS: branch if the bit is 1 (R159). -/
def execBbs (l : Lit) (a b : BitVec 5) (n : BitVec 2) (p : BitVec 11) (s : State) : Host.Outcome State Fault Refusal :=
  bbitOne s l a.toNat b.toNat (n.toNat + 1) p true

/-- BBZ: branch if every bit is 0 (R159). -/
def execBbz (_ : Lit) (a : BitVec 5) (n : BitVec 2) (p : BitVec 11) (s : State) : Host.Outcome State Fault Refusal :=
  bbitAll s a.toNat (n.toNat + 1) p true

/-- BBNZ: branch if some bit is 1 (R159). -/
def execBbnz (_ : Lit) (a : BitVec 5) (n : BitVec 2) (p : BitVec 11) (s : State) : Host.Outcome State Fault Refusal :=
  bbitAll s a.toNat (n.toNat + 1) p false

/-- J (R160). -/
def execJ (_ : Lit) (p : BitVec 20) (s : State) : Host.Outcome State Fault Refusal :=
  settle s (.ok (s.jump (relAddr s 8 p.toInt)))

/-- The address after the packet, as a link register holds it (R160, R161). -/
def linkVal (s : State) : Word := BitVec.ofNat 64 (s.pre.r.pc.toNat + 8)

/-- JL: links in g1 (R160). -/
def execJl (_ : Lit) (p : BitVec 20) (s : State) : Host.Outcome State Fault Refusal :=
  settle s (withRegs s [] [1] fun s' => (setG s' 1 (linkVal s)).map fun t => t.jump (relAddr s 8 p.toInt))

/-- JR: through a register, with a link (R161). -/
def execJr (l : Lit) (d a b : BitVec 5) (s : State) : Host.Outcome State Fault Refusal :=
  settle s (withRegs s [a.toNat, b.toNat] [d.toNat] fun s' => do
    let p := gval s a.toNat
    let t : Int := (fld p 47 0 : Nat) + (rbval s l b.toNat).toInt
    need (decide (fld p 63 48 = 0 ∧ 0 ≤ t ∧ t < 2 ^ 48)) (trapC cTAG)
    need (decide (t % 8 = 0)) (trapAt cMISALIGN 3 t.toNat)
    (setG s' d.toNat (linkVal s)).map fun u => u.jump t)

/-! ## Macros -/

/-- A MACRO_STORE trap, which names the entry (R346). -/
def trapMacro (e : Nat) : Stop := .trap { cause := cMACRO, acc := 3, val := false, data := e, deferred := none }

/-- Substitution of R114: mark i of MARKS puts a register number at a bit position. -/
def substitute (pkt marks : Word) (x y z : Nat) : Word :=
  [24, 19, 14, 57, 52, 47, 41].zipIdx.foldl (fun w (hi, i) =>
    match fld marks (2 * i + 1) (2 * i) with
    | 1 => putFld w hi (hi - 4) x
    | 2 => putFld w hi (hi - 4) y
    | 3 => putFld w hi (hi - 4) z
    | _ => w) pkt

/-- An operation that may not stand in a macro, as it stands after substitution (R117). -/
def macroBarred (pkt : Word) : Bool :=
  let major := fld pkt 30 25
  let fn := fld pkt 9 0
  (major == 0 && fld pkt 24 0 != 0) || [0x0D, 0x0E, 0x0F, 0x10, 0x12, 0x19, 0x23].contains major ||
    (major == 0x16 && fn / 2 ^ 8 == 0) || (major == 0x17 && (fn == 3 || fn == 4)) || (major == 0x18 && fn % 4 == 1)

/-- Macro store entry e of the running launch (R112, R113): cached under its launch block, or filled and checked by R117
with the registers that the MACRO substitutes. -/
def macroEntry (s : State) (e rx ry rz : Nat) : Res (List (Word × Word) × State) :=
  match s.me.occ, s.me.launchOf s with
  | some o, some l =>
    let f := foldOf s.cur
    let cached := match mfind (s.fold f).macros e with
      | some m => if m.part = o.part ∧ m.blk = o.blk then some m.ops else none
      | none => none
    if l.nmacro ≤ e then .error (trapMacro e)
    else
      match cached with
      | some ops => .ok (ops, s)
      | none => do
        let base := l.mstore + 528 * e
        let (hd, s) ← readCode s s.cur base 2
        let h := BitVec.ofNat 64 (leNat (hd.take 8))
        let n := fld h 13 8
        need (decide (fld h 63 14 = 0 ∧ fld h 7 0 = e ∧ 1 ≤ n ∧ n ≤ 32 ∧ leNat (hd.drop 8) = 0)) (trapMacro e)
        let (bs, s) ← readCode s s.cur (base + 16) (2 * n)
        let d (i : Nat) : Word := BitVec.ofNat 64 (leNat ((bs.drop (8 * i)).take 8))
        let ops := (List.range n).map fun j => (d (2 * j), d (2 * j + 1))
        need (ops.all fun x => fld x.2 63 14 == 0 && !macroBarred (substitute x.1 x.2 rx ry rz)) (trapMacro e)
        let m : MacroEntry := { part := o.part, blk := o.blk, ops := ops }
        .ok (ops, s.updFold f fun v => { v with macros := mput v.macros e m })
  | _, _ => .error (trapMacro e)

/-- MACRO (R115, R116): operation ESTAT.MSTEP of the entry, substituted, is the next packet to issue; PC stays at the MACRO. -/
def execMacroOp (x y z : BitVec 5) (e : BitVec 8) (_ : Word32) (s : State) : Host.Outcome State Fault Refusal :=
  settle s (do
    let (ops, s') ← macroEntry s e.toNat x.toNat y.toNat z.toNat
    let j := fld (s.me.ctl 0x083) 4 0
    match ops[j]? with
    | none => .error (trapMacro e.toNat)
    | some op =>
      let w := substitute op.1 op.2 x.toNat y.toNat z.toNat
      .ok (s'.updMe fun k => { k with
        macroOp := some (BitVec.ofNat 32 w.toNat, BitVec.ofNat 32 (w.toNat / 2 ^ 32), decide (j + 1 = ops.length))
        r := { k.r with npc := k.r.pc } }))

end Sys2Proof.Machine
end

