-- ==== Sys2Proof/Machine/Entries.lean ====
section
/-! DEFINITION. The router entries of a virtual stream (20 R384 to R387): the entry's fields, the ROUTE image and its trace, and the entries that
the Steading computes. -/

namespace Sys2Proof.Machine

/-! ## Entries -/

/-- Fields of an entry. -/
abbrev RouterEntry := Word × Word × Word
def RouterEntry.nset (e : RouterEntry) : Nat := fld e.1 1 0 + 1
def RouterEntry.cur (e : RouterEntry) : Nat := fld e.1 3 2
def RouterEntry.op (e : RouterEntry) : Nat := fld e.1 7 4
def RouterEntry.set (e : RouterEntry) (i : Nat) : Word :=
  let w := if i < 2 then e.2.1 else e.2.2
  BitVec.ofNat 64 (fld w (32 * (i % 2) + 31) (32 * (i % 2)))
def setInputs (w : Word) : List Nat := (List.range 10).filter fun p => w.getLsbD p
def setOutputs (w : Word) : List Nat := (List.range 10).filter fun p => w.getLsbD (10 + p)
def setLeft (w : Word) : Nat := fld w 23 20

/-- The records of a ROUTE image (R387): fold and entry, or none where a reserved bit is set or a record names a fold outside the
partition. -/
def routeRecords (s : State) (p : Nat) (ws : List Word) : Option (SMap RouterEntry) :=
  (chunksOf 4 ws).foldlM (fun (m : SMap RouterEntry) r =>
    let f := fld (dw r 0) 9 0
    let e : RouterEntry := (dw r 1, dw r 2, dw r 3)
    let ok := fld (dw r 0) 63 10 == 0 && fld (dw r 1) 63 21 == 0 && decide (f < 768) && (partDies s.layout p).contains (dieOf f) &&
      (List.range 4).all fun i => fld (e.set i) 31 24 == 0
    if ok then some (mput m f e) else none) []

/-! ## The trace of a ROUTE image (R387) -/

/-- The union of a left and a right range of ranks is one internal node of the canonical tree, the left part its lower range (R391). -/
def treeNode (nrank : Nat) (l r : Nat × Nat) : Bool :=
  (List.range 10).any fun h => decide (l.1 % 2 ^ (h + 1) = 0 ∧ l.2 = l.1 + 2 ^ h ∧ r.1 = l.2 ∧ r.2 = min (l.1 + 2 ^ (h + 1)) nrank)

/-- A range is that of a node of the canonical tree, leaves included. -/
def treeRange (nrank : Nat) (r : Nat × Nat) : Bool :=
  (List.range 11).any fun h => decide (r.1 % 2 ^ h = 0 ∧ r.1 < nrank ∧ r.2 = min (r.1 + 2 ^ h) nrank)

/-- The range that the canonical tree combines with a range (R391). -/
def sibling (nrank : Nat) (a : Nat × Nat) : Option (Nat × Nat) :=
  ((List.range 10).flatMap fun h => [(a.2, min (a.2 + 2 ^ h) nrank), (a.1 - 2 ^ h, a.1)]).find? fun b =>
    decide (b.1 < b.2) && (treeNode nrank a b || treeNode nrank b a)

/-- The set of an entry that is in use after i markers. -/
def RouterEntry.phase (e : RouterEntry) (i : Nat) : Word := e.set (i % e.nset)

/-- What the trace knows of the ranks that a partial sum covers: a range, or, of one that another device formed, nothing. -/
abbrev Known := Option (Nat × Nat)

/-- The key of input port `port` of the router at fold f after i markers. -/
def inputKey (i f port : Nat) : Nat := 16 * (768 * i + f) + port

/-- The ranks of an fadd's combination of a left and a right operand: none where the point is wrong. An operand of another device is taken
to be what the canonical tree combines with the other one (log 69). -/
def combineKnown (nrank : Nat) (l r : Known) : Option Known :=
  match l, r with
  | some l, some r => if treeNode nrank l r then some (some (l.1, r.2)) else none
  | some l, none => (sibling nrank l).bind fun r => if l.1 < r.1 then some (some (l.1, r.2)) else none
  | none, some r => (sibling nrank r).bind fun l => if l.1 < r.1 then some (some (l.1, r.2)) else none
  | none, none => some none

/-- The ranks that a set of the router at fold f sends on after i markers, once all its inputs are known; no answer where it combines what an
fadd may not combine there. -/
def setKnown (nrank : Nat) (known : SMap Known) (i f : Nat) (w : Word) : Option (Option Known) :=
  match setInputs w with
  | [] => some none
  | [d] => some (mfind known (inputKey i f d))
  | [d0, d1] =>
    match mfind known (inputKey i f d0), mfind known (inputKey i f d1) with
    | some a, some b =>
      if (setInputs w).contains (setLeft w) then (if setLeft w = d0 then combineKnown nrank a b else combineKnown nrank b a).map some else none
    | _, _ => some none
  | _ => none

/-- Ranges in rising order follow each other without a gap. -/
def adjoining : List (Nat × Nat) → Bool
  | a :: b :: r => decide (a.2 = b.1) && adjoining (b :: r)
  | _ => true

/-- The ranks that the Common bank at a router combines (R391), from each set that sends to it: ranges of the canonical tree that make up
another one. -/
def bankKnown (nrank : Nat) (known : SMap Known) (x : Nat × RouterEntry) : Option (Option Known) :=
  (((List.range x.2.nset).filter fun j => (setOutputs (x.2.set j)).contains 7).mapM fun j => setKnown nrank known j x.1 (x.2.set j)).bind fun ins =>
    match ins.mapM id with
    | none => some none
    | some [] => some none
    | some [a] => some (some a)
    | some vs =>
      match vs.mapM id with
      | none => some (some none)
      | some rs =>
        let rs := rs.foldl (fun (m : SMap Nat) r => mput m r.1 r.2) []
        let all := ((rs.head?.map (·.1)).getD 0, (rs.getLast?.map (·.2)).getD 0)
        if rs.length = vs.length ∧ rs.all (treeRange nrank) ∧ adjoining rs ∧ treeRange nrank all then some (some (some all)) else none

/-- One pass of the Steading's trace (R387), for each of 12 numbers of markers, a multiple of every number of sets: what is known at router
inputs goes on to the inputs beyond, and a bank's combination back to its router. -/
def tracePass (nrank : Nat) (entries : SMap RouterEntry) (known : SMap Known) : Option (SMap Known) :=
  entries.foldlM (fun (m : SMap Known) x => do
    let m ← (List.range 12).foldlM (fun (m : SMap Known) i =>
      (setKnown nrank m i x.1 (x.2.phase i)).map fun v =>
        match v with
        | none => m
        | some r => (setOutputs (x.2.phase i)).foldl (fun m d =>
          match nextRouter x.1 d with
          | some g => mput m (inputKey i g (farPort d)) r
          | none => m) m) m
    (bankKnown nrank m x).map fun v => match v with
      | none => m
      | some r => (List.range 12).foldl (fun m i => mput m (inputKey i x.1 7) r) m) known

/-- Every combining point takes inputs that the trace has reached. -/
def traceReached (entries : SMap RouterEntry) (known : SMap Known) : Bool :=
  entries.all fun x => (List.range 12).all fun i =>
    let ins := setInputs (x.2.phase i)
    decide (ins.length < 2) || ins.all fun d => (mfind known (inputKey i x.1 d)).isSome

/-- The trace from every rank (R387), those of other devices at the fabric ports: for fadd, every combining point is an internal node. -/
def traceOk (s : State) (p : Nat) (d : List Word) (table : List Word) (entries : SMap RouterEntry) : Bool :=
  let n := cdNrank d
  let far := table.any fun t => fld t 7 0 != s.nv.dev
  let start : List (Nat × Known) :=
    (if far then (entries.filter fun x => fabricRouter x.1).map fun x => (16 * x.1 + 8, none) else []) ++
    ((List.range n).filter fun q => fld (table.getD q 0) 7 0 == s.nv.dev).map fun q => (16 * devFold s p (fld (table.getD q 0) 17 8) + 6, some (q, q + 1))
  let known : SMap Known := (List.range 12).foldl (fun m i => start.foldl (fun m y => mput m (inputKey i 0 0 + y.1) y.2) m) []
  decide (cdOp d ≠ 1) ||
    (((List.range (entries.length + 1)).foldl (fun (m : Option (SMap Known)) _ => m.bind (tracePass n entries)) (some known)).map
      (traceReached entries)).getD false

/-! ## Entries that the Steading computes (R387; log 48) -/

/-- The hops of the fixed route from the router at fold f, entered by port d, to that at fold g, left by port e: each router with its port of
entry and its port of exit (R20). -/
def hops : Nat → Nat → Nat → Nat → Nat → List (Nat × Nat × Nat)
  | 0, f, d, _, e => [(f, d, e)]
  | n + 1, f, d, g, e =>
    match fixedHop f g with
    | none => [(f, d, e)]
    | some h => (f, d, h) :: hops n ((nextRouter f h).getD f) (farPort h) g e

/-- Where the elements of some ranks are: a router, the port by which they came there, and the ranks. -/
abbrev PartSum := Nat × Nat × List Nat

/-- Port e becomes an output of the set at router f that takes the beats of ranks rs from port d, or, with port 9, that combines them. -/
def addOutput (away : Bool) (rs : List Nat) (m : SMap (List Flow)) (y : Nat × Nat × Nat) : SMap (List Flow) :=
  let (f, d, e) := y
  let fs := mget [] m f
  let here (w : Flow) : Bool := w.away == away && (if d = 9 then unionRanks (w.ins.map (·.2)) == rs else w.ins == [(d, rs)])
  mput m f (if fs.any here then fs.map fun w => if here w && !w.outs.contains e then { w with outs := w.outs ++ [e] } else w
    else fs ++ [{ away := away, ins := [(d, rs)], outs := [e] }])

/-- The sets that carry elements from one place to several others, along the fixed routes. -/
def multicast (away : Bool) (x : PartSum) (dests : List (Nat × Nat)) (m : SMap (List Flow)) : SMap (List Flow) :=
  dests.foldl (fun m g => (hops 64 x.1 x.2.1 g.1 g.2).foldl (addOutput away x.2.2) m) m

/-- The sets that bring a partial sum to router r, and the port by which it arrives there. -/
def carry (x : PartSum) (r : Nat) (m : SMap (List Flow)) : SMap (List Flow) × Nat :=
  if x.1 = r then (if x.2.1 = 9 then addOutput false x.2.2 m (r, 9, 9) else m, x.2.1)
  else
    let hs := hops 64 x.1 x.2.1 r 9
    (hs.dropLast.foldl (addOutput false x.2.2) m, (hs.getLast?.map (·.2.1)).getD 6)

/-- The combining point of two subtrees: on the route from the upper to the lower one, the router nearest to the lower one that is not yet
a combining point, or else the lower one's; its first input is the lower one's, LEFT. -/
def combineAt (used : List Nat) (m : SMap (List Flow)) (lo hi : PartSum) : List Nat × SMap (List Flow) × PartSum :=
  let r := (((hops 64 hi.1 6 lo.1 9).map (·.1)).reverse.find? fun f => !used.contains f).getD lo.1
  let (m, dl) := carry lo r m
  let (m, dh) := carry hi r m
  (r :: used, mput m r (mget [] m r ++ [{ away := false, ins := [(dl, lo.2.2), (dh, hi.2.2)], outs := [] }]), (r, 9, unionRanks [lo.2.2, hi.2.2]))

/-- One level of the canonical tree over partial sums (R391). -/
def combineLevel : List PartSum → List Nat × SMap (List Flow) → List PartSum × List Nat × SMap (List Flow)
  | a :: b :: r, (used, m) =>
    let (used, m, x) := combineAt used m a b
    let (xs, st) := combineLevel r (used, m)
    (x :: xs, st)
  | xs, st => (xs, st)

/-- All levels of the tree. -/
def combineTree : Nat → List PartSum → List Nat × SMap (List Flow) → List PartSum × SMap (List Flow)
  | 0, xs, st => (xs, st.2)
  | n + 1, xs, st => let (ys, st) := combineLevel xs st; combineTree n ys st

/-- The sets of an exact operation: the ranks' routes to the router at fold `root` meet, and combine where they meet. -/
def gather (xs : List (Nat × PartSum)) (root : Nat) : SMap (List Flow) :=
  let add (q : Nat) (m : SMap (SMap (List Nat))) (h : (Nat × Nat × Nat) × Nat) : SMap (SMap (List Nat)) :=
    let at_ := 2048 * h.1.2.1 + (if h.2 = 0 then 1 + q else 0)
    mput m h.1.1 (mput (mget [] m h.1.1) at_ (mget [] (mget [] m h.1.1) at_ ++ [q]))
  let ins : SMap (SMap (List Nat)) := xs.foldl (fun m x => (hops 64 x.2.1 x.2.2.1 root 9).zipIdx.foldl (add x.1) m) []
  ins.map fun y => (y.1, [{ away := false, ins := y.2.map fun z => (z.1 / 2048, z.2), outs := (fixedHop y.1 root).toList }])

/-- The router of a die's fabric port (R384). -/
def fabricFold (die : Nat) : Nat := [0, 16, 23 * 32, 23 * 32 + 16].getD die 0

/-- The die of partition p with a port to a device; its first one where no port has that peer. -/
def peerDie (s : State) (p dev : Nat) : Nat :=
  (((partPorts s p).find? fun k => fld (mget 0 s.ports k) 63 56 == dev).map (· / 9)).getD ((partDies s.layout p).headD 0)

/-- Where the elements of a rank enter the partition's routers, and leave them for it: its fold's interface, or a fabric port for one on another
device. -/
def rankPort (s : State) (p : Nat) (t : Word) : Nat × Nat :=
  if fld t 7 0 = s.nv.dev then (devFold s p (fld t 17 8), 6) else (fabricFold (peerDie s p (fld t 7 0)), 8)

/-- The sets that the Steading computes for a stream from its rank table (R387): an fadd's contributions meet in the canonical tree, those of
another operation where their routes to the first receiver meet, and the result goes on to every receiver; without an operation, each
contribution goes to every receiver. What this device's ranks contribute also goes to the devices of other receivers. -/
def steadingFlows (s : State) (p : Nat) (d table : List Word) : SMap (List Flow) :=
  let t (q : Nat) : Word := table.getD q 0
  let here (q : Nat) : Bool := fld (t q) 7 0 == s.nv.dev
  let qs := List.range (cdNrank d)
  let at_ (q : Nat) : PartSum := ((rankPort s p (t q)).1, (rankPort s p (t q)).2, [q])
  let ports (xs : List Nat) : List (Nat × Nat) := xs.map fun q => rankPort s p (t q)
  let near := qs.filter fun q => cdReceives d q && here q
  let far := qs.filter fun q => cdReceives d q && !here q
  let m : SMap (List Flow) :=
    match near, cdOp d with
    | [], _ => []
    | _, 0 => (qs.filter (cdSends d)).foldl (fun m q => multicast false (at_ q) (ports (near.filter fun r => r != q)) m) []
    | _, 1 =>
      let (xs, m) := combineTree 10 (qs.map at_) ([], [])
      xs.foldl (fun m x => multicast false x (ports near) m) m
    | r :: _, _ => multicast false ((at_ r).1, 9, qs) (ports near) (gather (qs.map fun q => (q, at_ q)) (at_ r).1)
  ((qs.filter fun q => cdSends d q && here q).foldl fun m q => multicast true (at_ q) (ports far) m) m

/-- The entry of a router as the Steading writes it (R385): its first four sets. -/
def flowEntry (d : List Word) (level : Nat) (fs : List Flow) : RouterEntry :=
  let mask (ds : List Nat) : Nat := (List.range 9).foldl (fun n e => if ds.contains e then n + 2 ^ e else n) 0
  let set (i : Nat) : Nat := match fs[i]? with
    | some w => mask (w.ins.map (·.1)) + mask w.outs * 2 ^ 10 + (if cdOp d = 1 ∧ w.ins.length = 2 then (w.ins.headD (0, [])).1 else 0) * 2 ^ 20
    | none => 0
  (BitVec.ofNat 64 (min 4 fs.length - 1 + cdOp d * 2 ^ 4 + cdWfc d * 2 ^ 8 + cdWbl d * 2 ^ 14 + level * 2 ^ 18),
    BitVec.ofNat 64 (set 0 + set 1 * 2 ^ 32), BitVec.ofNat 64 (set 2 + set 3 * 2 ^ 32))

end Sys2Proof.Machine
end

