-- ==== Sys2Proof/Machine/Order.lean ====
section
/-! DEFINITION. What an access of a core must wait for (R98): byte ranges of accepted work and the same-byte rules (06 R156, 08 R201,
09 R220, 11 R269, R329, 12 R306, R310), the access classes and fences of 12 R320 and R321, and joins (13 R328). -/

namespace Sys2Proof.Machine

/-- A range of bytes: address and count. -/
abbrev Span := Nat × Nat

/-- Two ranges share a byte. -/
def meets (a b : Span) : Bool := decide (a.1 < b.1 + b.2 ∧ b.1 < a.1 + a.2)

/-- The names of a range's bytes: its own, and the own-window addresses of those that it names in the core's window among those of the launch's
cores (R239, R323). -/
def homes (k : Core) (r : Span) : List Span :=
  match k.occ with
  | none => [r]
  | some o =>
    let lo := peerBase + o.k * 2 ^ 19
    let a := max r.1 lo
    let b := min (r.1 + r.2) (lo + 2 ^ 18)
    if a < b then [r, (localBase + (a - lo), b - a)] else [r]

/-- Two ranges of a core share a byte, under whichever name. -/
def sameBytes (k : Core) (a b : Span) : Bool := (homes k a).any fun x => (homes k b).any (meets x)

/-- A range lies in another. -/
def within (a b : Span) : Bool := decide (b.1 ≤ a.1 ∧ a.1 + a.2 ≤ b.1 + b.2)

/-! ## Ranges of entries -/

/-- The bytes of element position p of a packed tensor, as an offset and a count (R167). -/
def elemSpan (fc p : Nat) : Span := (fcBits fc * p / 8, (fcBits fc * p + fcBits fc + 7) / 8 - fcBits fc * p / 8)

/-- The bytes of positions lo to hi of a packed tensor at an address. -/
def elemsSpan (a fc lo hi : Nat) : Span :=
  (a + (elemSpan fc lo).1, (elemSpan fc hi).1 + (elemSpan fc hi).2 - (elemSpan fc lo).1)

/-- Counts of a pattern descriptor (R271). -/
def patCount (desc : List Word) (d : Nat) : Nat := fld (dw desc 0) (16 * d + 15) (16 * d)

/-- Stride d of the pair of doublewords from `at_` (R271): 1 source, 3 destination. -/
def patStride (desc : List Word) (at_ d : Nat) : Int :=
  sgn 32 (fld (dw desc (at_ + d / 2)) (32 * (d % 2) + 31) (32 * (d % 2)))

/-- The least and the greatest position of a pattern (R271). -/
def patBounds (desc : List Word) (at_ : Nat) : Int × Int :=
  (List.range 4).foldl (fun (b : Int × Int) d =>
    let x := patStride desc at_ d * ((patCount desc d : Int) - 1)
    (b.1 + min 0 x, b.2 + max 0 x)) (0, 0)

/-- Input rows (or columns) that a convolution window reads in one dimension: o·S − P + i·D inside 0 … I − 1 (R273). -/
def winReads (o k s p d i : Nat) : List Nat :=
  (List.range o).flatMap fun a => (List.range k).filterMap fun b =>
    let y : Int := (a * s : Nat) - (p : Int) + (b * d : Nat)
    if 0 ≤ y ∧ y < i then some y.toNat else none

/-- Fields of a window descriptor (R273). -/
structure WinDesc where
  ih : Nat
  iw : Nat
  c : Nat
  kh : Nat
  kw : Nat
  sh : Nat
  sw : Nat
  dh : Nat
  dw : Nat
  pt : Nat
  pl : Nat
  oh : Nat
  ow : Nat
  pad : Word32
  deriving DecidableEq, Repr

/-- Reads a window descriptor. -/
def winDesc (desc : List Word) : WinDesc :=
  let a := Machine.dw desc 0
  let b := Machine.dw desc 1
  let e := Machine.dw desc 2
  { ih := fld a 15 0, iw := fld a 31 16, c := fld a 47 32, kh := fld b 7 0, kw := fld b 15 8, sh := fld b 23 16, sw := fld b 31 24,
    dh := fld b 39 32, dw := fld b 47 40, pt := fld b 55 48, pl := fld b 63 56, oh := fld e 15 0, ow := fld e 31 16,
    pad := BitVec.ofNat 32 (fld (Machine.dw desc 3) 31 0) }

/-- The destination range of a copy; empty for a chute and for GATH and SCAT (R267, R275). -/
def CEntry.writes (e : CEntry) : List Span :=
  let fc := ptrFc e.dst
  let a := ptrAddr e.dst
  if e.chute then []
  else
    match e.op with
    | .cpy => [(a, fcBytes fc (ptrBl e.dst) e.n)]
    | .cpyz => [(a, fcBytes fc (ptrBl e.dst) e.n)]
    | .cpya => let w := patBounds e.desc 3; [elemsSpan a fc w.1.toNat w.2.toNat]
    | .cpyw => let d := winDesc e.desc; [elemsSpan a fc 0 (d.oh * d.ow * d.kh * d.kw * d.c - 1)]
    | _ => []

/-- The source range of a copy; empty for CPYZ, and for GATH and SCAT (R267). -/
def CEntry.reads (e : CEntry) : List Span :=
  let fc := ptrFc e.src
  let a := ptrAddr e.src
  match e.op with
  | .cpy => [(a, fcBytes fc (ptrBl e.src) e.n)]
  | .cpya => let r := patBounds e.desc 1; [elemsSpan a fc r.1.toNat r.2.toNat]
  | .cpyw =>
    let d := winDesc e.desc
    let ys := winReads d.oh d.kh d.sh d.pt d.dh d.ih
    let xs := winReads d.ow d.kw d.sw d.pl d.dw d.iw
    let lo (l : List Nat) := l.foldl Nat.min (l.headD 0)
    let hi (l : List Nat) := l.foldl Nat.max 0
    if ys = [] ∨ xs = [] then []
    else [elemsSpan a fc ((lo ys * d.iw + lo xs) * d.c) ((hi ys * d.iw + hi xs) * d.c + d.c - 1)]
  | _ => []

/-- The bounding ranges of a copy in memory (R269). -/
def CEntry.spans (e : CEntry) : List Span := e.writes ++ e.reads

/-- The translations that a core's TLB or its job's tables give for a range of the global window, as an access would take them now. -/
def peekTr (s : State) (c : Nat) (r : Span) : SMap Nat :=
  if windowOf r.1 ≠ .global then []
  else
    let job := (s.core c).job s
    (parts (2 ^ 16) r.1 r.2).foldl (fun m x =>
      match tlbFind (s.core c).tlb job x.1, walk s (corePart s c) job x.1 with
      | some e, _ => mput m (pageOf x.1) (e.key + (pageOf x.1 * 2 ^ 16 - e.base))
      | none, .ok l => mput m (pageOf x.1) (l.phys + pageOf x.1 * 2 ^ 16 % l.size)
      | none, .error _ => m) []

/-- The element addresses of a GATH or SCAT, by the indices that memory holds (R272, R321). -/
def CEntry.scattered (e : CEntry) (s : State) (c : Nat) : List Span :=
  let n := fld (dw e.desc 0) 31 0
  let ix := fld (dw e.desc 1) 47 0
  let tr := peekTr s c (ix, 4 * n)
  let idx (i : Nat) := leNat (readRange s c tr (ix + 4 * i) 4)
  let el (a fc i : Nat) : Span := (a + (elemSpan fc i).1, (elemSpan fc i).2)
  match e.op with
  | .gath => (ix, 4 * n) :: (List.range n).flatMap fun i =>
      [el (ptrAddr e.src) (ptrFc e.src) (idx i), el (ptrAddr e.dst) (ptrFc e.dst) i]
  | .scat => (ix, 4 * n) :: (List.range n).flatMap fun i =>
      [el (ptrAddr e.src) (ptrFc e.src) i, el (ptrAddr e.dst) (ptrFc e.dst) (idx i)]
  | _ => []

/-- Fields of a tile shape register (R214). -/
def tshFc (t : Word) : Nat := fld t 5 0
def tshBl (t : Word) : Nat := fld t 9 6
def tshRows (t : Word) : Nat := fld t 15 10 + 1
def tshCols (t : Word) : Nat := fld t 23 16 + 1

/-- Bytes of one accumulator element in a pointer's format; 0 where R232 rejects it. -/
def accBytes (fc : Nat) : Nat :=
  if fc = 0 ∨ fc = 1 ∨ fc = 17 then 4 else if fc = 2 ∨ fc = 3 then 2 else if fc = 4 ∨ fc = 5 ∨ fc = 15 then 1 else 0

/-- Address of row r from a base with a signed stride. -/
def rowAddr (a : Nat) (stride : Int) (r : Nat) : Int := (a : Int) + r * stride

/-- The ranges of a tile's rows in memory (R231). -/
def tileSpans (tsh ptr stride : Word) : List Span :=
  (List.range (tshRows tsh)).map fun r =>
    ((rowAddr (ptrAddr ptr) stride.toInt r).toNat, fcBytes (tshFc tsh) (tshBl tsh) (tshCols tsh))

/-- The ranges of an accumulator region's rows in memory (R232). -/
def accSpans (ptr shape : Word) : List Span :=
  (List.range (fld shape 37 32 + 1)).map fun r =>
    ((rowAddr (ptrAddr ptr) (sgn 32 (fld shape 31 0)) r).toNat, accBytes (ptrFc ptr) * (fld shape 45 40 + 1))

/-- The rows of a streamed B operand (R226). -/
def streamedSpans (tshA ptr : Word) : List Span :=
  let n := fcBytes (ptrFc ptr) (ptrBl ptr) (tshCols tshA)
  (List.range 64).map fun j => (ptrAddr ptr + j * n, n)

/-- The memory ranges of a TLD, TSTR, AMOV or ALD (R220). -/
def MEntry.spans (e : MEntry) : List Span :=
  match e.op with
  | .tld p st => tileSpans e.tshA p st
  | .tstr p st => tileSpans e.tshA p st
  | .amov p sh => accSpans p sh
  | .ald p sh => accSpans p sh
  | _ => []

/-- The memory ranges of an engine entry that same-byte order covers. -/
def QEntry.spans (e : QEntry) : List Span :=
  match e with
  | .matrix m => m.spans
  | .copy c => c.spans

/-- The memory range of a queued STV or STF (R201). -/
def VEntry.spans (e : VEntry) : List Span :=
  match e.op with
  | .stv n => if e.len = 0 then [] else [(e.addr, n * e.len)]
  | .stf fc bl => if e.len = 0 then [] else [(e.addr, fcBytes fc bl e.len)]
  | _ => []

/-- Every engine entry accepted and not yet performed. -/
def Core.qentries (k : Core) : List QEntry := k.queues.flatMap fun q => q.2.entries

/-- The position of pattern element i of a stream (R278). -/
def Stream.elemPos (t : Stream) (i : Nat) : Int :=
  let i0 := i % t.count 0
  let i1 := i / t.count 0 % t.count 1
  let i2 := i / (t.count 0 * t.count 1) % t.count 2
  let i3 := i / (t.count 0 * t.count 1 * t.count 2) % t.count 3
  i0 * t.stride 0 + i1 * t.stride 1 + i2 * t.stride 2 + i3 * t.stride 3

/-- The address of pattern element i of a stream. -/
def Stream.elemAddr (t : Stream) (i : Nat) : Int :=
  let fc := ptrFc t.base
  (ptrAddr t.base : Int) + (if fc = 0 then t.elemPos i else (fcBits fc : Int) * t.elemPos i / 8)

/-- The bytes of pattern element i, the place of its first bit in them, and its bits (R278). -/
def Stream.elemBits (t : Stream) (i : Nat) : Nat × Nat × Nat :=
  let fc := ptrFc t.base
  if fc = 0 then (8, 0, 64)
  else
    let b := fcBits fc
    let sh := ((b : Int) * t.elemPos i % 8).toNat
    ((sh + b + 7) / 8, sh, b)

/-- The bytes of pattern element i. -/
def Stream.elemSpanOf (t : Stream) (i : Nat) : Span := ((t.elemAddr i).toNat, (t.elemBits i).1)

/-- The bytes of entries pushed into a write stream and not yet drained (R329). -/
def Stream.spans (t : Stream) : List Span :=
  if t.writes then (List.range t.ring.length).map fun i => t.elemSpanOf ((t.moved + i) % t.total) else []

/-- The bytes of a SEND under way (R310). -/
def Msg.span (m : Msg) : Span := (ptrAddr m.src, fcBytes (ptrFc m.src) (ptrBl m.src) m.n)

/-! ## Exchange schedules (R299) -/

/-- One transfer entry. -/
structure SchedEntry where
  slot : Nat
  src : Nat
  dst : Nat
  chan : Nat
  doff : Nat
  nline : Nat
  deriving DecidableEq, Repr

/-- NDOM of a schedule. -/
def schedNdom (x : List Word) : Nat := fld (dw x 0) 15 0

/-- The superstep record s (R299). -/
def schedRec (x : List Word) (s : Nat) : Word := dw x (1 + schedNdom x + s)

/-- The index of the first transfer entry of superstep s. -/
def schedFirst (x : List Word) (nss s : Nat) : Nat :=
  (List.range s).foldl (fun a i => a + 2 * fld (schedRec x i) 63 32) (1 + schedNdom x + nss)

/-- The transfer entries of superstep s. -/
def schedEntries (x : List Word) (nss s : Nat) : List SchedEntry :=
  let f := schedFirst x nss s
  (List.range (fld (schedRec x s) 63 32)).map fun i =>
    let a := dw x (f + 2 * i)
    let b := dw x (f + 2 * i + 1)
    { slot := fld a 15 0, src := fld a 28 16, dst := fld a 44 32, chan := fld a 51 48, doff := fld b 17 0, nline := fld b 28 24 + 1 }

/-- The transfers of the core's current superstep (R303). -/
def Core.schedule (k : Core) (s : State) : List SchedEntry :=
  match k.launchOf s with
  | some l => schedEntries l.sched l.nss (fld (k.ctl 0x0C1) 47 32)
  | none => []

/-- Scheduled transfers to the core, in increasing slot, that are not written yet; only in an exchange phase (R306). -/
def Core.awaited (k : Core) (s : State) : List SchedEntry :=
  match k.occ with
  | some o => if o.flagged && decide (2 ≤ o.stage) then
      (k.schedule s).filter fun e => e.dst == o.k && !k.xwritten.contains (2 ^ 16 * o.ss + e.slot) else []
  | none => []

/-! ## Access classes and fences -/

/-- Class bits of R320. -/
def clsR : Nat := 1
def clsW : Nat := 2
def clsCR : Nat := 4
def clsCW : Nat := 8
def clsMR : Nat := 16
def clsMW : Nat := 32

/-- A drove request changes a slot, a capture by taking it HELD (R318, R320). -/
def DroveOp.changes : DroveOp → Bool
  | .read => false
  | _ => true

/-- Bytes of launch core j's local memory as core c addresses them: its own window too where it is that core (R239). -/
def peerSpan (k : Core) (j off n : Nat) : List Span :=
  (peerBase + j * 2 ^ 19 + off, n) :: (if (k.occ.map (·.k)) = some j then [(localBase + off, n)] else [])

/-- All slots of a chute (R274). -/
def Chute.slots (x : Chute) : Span := (x.addr + 64, x.nslot * x.ssize)

/-- The slot that the next delivery to a chute fills (R276). -/
def Chute.tailSlot (x : Chute) (n : Nat) : Span := (x.addr + 64 + x.ssize * x.tail, n)

/-- The bytes that the delivery of a SEND writes: the slot at its channel's TAIL (R310). -/
def Msg.dest (m : Msg) (k : Core) (s : State) : List Span :=
  match (s.launch m.part m.blk).bind fun l => mfind (s.core (launchCore s m.part l m.core)).chutes m.chan with
  | some x => let r := x.tailSlot (fcBytes m.fc m.bl m.n); peerSpan k m.core r.1 r.2
  | none => []

/-- The bytes that the acceptance of a piece writes, once its receiver's window is bound (R255). -/
def PieceMsg.dest (m : PieceMsg) (k : Core) (s : State) : List Span :=
  match mfind k.padds m.win, s.launch m.part m.blk with
  | some p, some l =>
    match (s.core (launchCore s m.part l m.peer)).padds.find? fun x => x.2.decl == m.decl with
    | some (_, q) =>
      let box := pdBox q.words q.block
      let w := pdBytes q.words
      (p.pieceCells m.peer m.face).flatMap fun x => peerSpan k m.peer (q.box + boxIndex box x.1 * w) w
    | none => []
  | _, _ => []

/-- The chute whose control block an address of the core names (R275). -/
def Core.chuteAt (k : Core) (s : State) (v : Nat) : Option Chute :=
  let named (x : Core) (off : Nat) : Option Chute := (x.chutes.find? fun h => h.2.addr == off).map (·.2)
  match windowOf v, k.occ.bind (fun o => (s.launch o.part o.blk).map fun l => (o.part, l)) with
  | .ownLocal, _ => named k (v - localBase)
  | .otherLocal, some (p, l) => named (s.core (launchCore s p l ((v - peerBase) / 2 ^ 19))) ((v - peerBase) % 2 ^ 19)
  | _, _ => none

/-- The slot that a copy into a chute fills (R275). -/
def CEntry.slotSpan (e : CEntry) (k : Core) (s : State) : List Span :=
  match if e.chute then k.chuteAt s (ptrAddr e.dst) else none with
  | some x => [(ptrAddr e.dst + 64 + x.ssize * x.tail, x.ssize)]
  | none => []

/-- Outstanding accesses of a core as class and ranges; an empty list of ranges meets no FENCE.R. -/
def Core.accesses (k : Core) (s : State) (c : Nat) : List (Nat × List Span) :=
  k.loads.map (fun l => (match l.kind with
    | .amo .. => clsR + clsW
    | _ => clsR, [(l.va, l.size)])) ++
  k.stores.map (fun b => (clsW, [(b.va, b.bytes.length)])) ++
  ((k.yoke.map fun y => y.held.map fun b => (clsW, [(b.va, b.bytes.length)])).getD []) ++
  (k.ventries.filter fun e => e.spans != []).map (fun e => (clsW, e.spans)) ++
  k.streams.flatMap (fun x => if x.2.writes && x.2.ring != [] then [(clsW, x.2.spans)] else []) ++
  k.drove.map (fun r => ((if r.op.returns then clsR else 0) + (if r.op.changes then clsW else 0),
    if r.op = .alight then [(r.v.toNat % 2 ^ 48, 56)] else [])) ++
  k.qentries.map (fun e => match e with
    | .copy m => (clsCR + clsCW, m.spans ++ m.scattered s c ++ m.slotSpan k s)
    | .matrix m => (match m.op with
      | .tld .. => clsMR
      | .ald .. => clsMR
      | .mmaStreamed .. => clsMR
      | .tstr .. => clsMW
      | .amov .. => clsMW
      | _ => 0, match m.op with
      | .mmaStreamed _ p => streamedSpans m.tshA p
      | _ => m.spans)) ++
  k.sends.map (fun m => (clsCR + clsCW, m.span :: m.dest k s)) ++
  k.xfers.map (fun x => (clsCW, peerSpan k x.dst x.doff x.bytes.length)) ++
  k.pieces.map (fun m => (clsCW, m.dest k s))

/-- Where a SEND to channel `chan` of launch core j may be delivered, as its issue waits for a FENCE.R (R310, R321): any slot of the chute; the
whole of that core's memory while its chute is not loaded. -/
def sendRange (k : Core) (s : State) (c j chan : Nat) : List Span :=
  match ((k.launchOf s).map fun l => s.core (launchCore s (corePart s c) l j)).bind fun v => mfind v.chutes chan with
  | some x => peerSpan k j x.slots.1 x.slots.2
  | none => peerSpan k j 0 (2 ^ 18)

/-- The slots that a copy into a chute may fill, as its issue waits for a FENCE.R (R275, R321). -/
def CEntry.slotRange (e : CEntry) (k : Core) (s : State) : List Span :=
  if e.chute then
    match k.chuteAt s (ptrAddr e.dst) with
    | some x => [(ptrAddr e.dst + 64, x.nslot * x.ssize)]
    | none => [(ptrAddr e.dst, 2 ^ 18)]
  else []

/-- Two class masks share a class. -/
def clsMeet (a b : Nat) : Bool := Nat.land a b != 0

/-- The entries that each write binding's ring holds. -/
def Core.pushed (k : Core) : SMap Nat :=
  (k.streams.filter fun x => x.2.writes && !x.2.ring.isEmpty).map fun x => (x.1, x.2.ring.length)

/-- The core with only so many of the entries that each write binding's ring holds: those pushed before some instruction. -/
def Core.asOf (k : Core) (pushed : SMap Nat) : Core :=
  { k with streams := k.streams.map fun x => (x.1, { x.2 with ring := x.2.ring.take (mget 0 pushed x.1) }) }

/-- The core with only the pushed entries that a fence is ordered after. -/
def Fence.view (f : Fence) (k : Core) : Core := k.asOf f.pushed

/-- One entry of binding b's ring has drained, the oldest: whatever counts the entries pushed before it has one fewer to wait for. -/
def Core.drained (k : Core) (b : Nat) : Core :=
  let less (m : SMap Nat) : SMap Nat := mset 0 m b (mget 0 m b - 1)
  let entry (e : QEntry) : QEntry := match e with
    | .copy x => if x.chute then .copy { x with pushed := less x.pushed } else e
    | .matrix _ => e
  { k with
    fences := k.fences.map fun f => { f with pushed := less f.pushed }
    loads := k.loads.map fun l => if l.pushed.isEmpty then l else { l with pushed := less l.pushed }
    sends := k.sends.map fun m => { m with pushed := less m.pushed }
    xfers := k.xfers.map fun x => { x with pushed := less x.pushed }
    queues := k.queues.map fun q => (q.1, { q.2 with entries := q.2.entries.map entry }) }

/-- A fence still has an earlier access to order (R320, R321). -/
def Fence.pending (f : Fence) (k : Core) (s : State) (c : Nat) : Bool :=
  ((f.view k).accesses s c).any fun x => clsMeet x.1 f.pred &&
    match f.range with
    | some r => x.2.any fun y => sameBytes k y r
    | none => true

/-- Drops the fences that order nothing any more. -/
def Core.sweepFences (k : Core) (s : State) (c : Nat) : Core := { k with fences := k.fences.filter fun f => f.pending k s c }

/-- A new access of some classes over ranges waits for a fence, or for an acquire AMO (R293, R320, R321). -/
def Core.fenced (k : Core) (cls : Nat) (rs : List Span) : Bool :=
  k.fences.any (fun f => clsMeet cls f.succ && match f.range with
    | some r => rs.any fun y => sameBytes k y r
    | none => true) ||
  k.loads.any Load.acquires

/-! ## Same-byte order -/

/-- The physical bytes of a range of the global window, page by page, by the core's TLB or its job's tables (R323). -/
def physSpans (s : State) (c : Nat) (r : Span) : List Span :=
  if windowOf r.1 ≠ .global then []
  else
    let k := s.core c
    let job := k.job s
    (parts (2 ^ 16) r.1 r.2).filterMap fun x =>
      match tlbFind k.tlb job x.1 with
      | some e => some (e.key + (x.1 - e.base), x.2)
      | none =>
        match walk s (corePart s c) job x.1 with
        | .ok l => some (l.phys + x.1 % l.size, x.2)
        | .error _ => none

/-- Two ranges may lie on one physical page at the same bytes: pages are multiples of 64 KiB (R247). -/
def mayAlias (a b : Span) : Bool :=
  let d := (b.1 + 2 ^ 16 - a.1 % 2 ^ 16) % 2 ^ 16
  decide (d < a.2 ∨ 2 ^ 16 < d + b.2)

/-- Two accesses of core c share a byte: by address, or by the place that two addresses name (R323, R326). -/
def shares (s : State) (c : Nat) (a b : Span) : Bool :=
  sameBytes (s.core c) a b ||
  (windowOf a.1 == .global && windowOf b.1 == .global && mayAlias a b &&
    (physSpans s c a).any fun x => (physSpans s c b).any (meets x))

/-- A scalar or vector access at a range waits for accepted work on the same bytes (R201, R220, R269, R306, R310, R329). -/
def Core.blocked (k : Core) (s : State) (c : Nat) (r : Span) : Bool :=
  k.vactive.any (fun e => e.spans.any (shares s c r)) ||
  k.qentries.any (fun e => e.spans.any (shares s c r)) ||
  k.sends.any (fun m => shares s c r m.span) ||
  k.streams.any (fun x => x.2.spans.any (shares s c r)) ||
  (k.awaited s).any fun e => meets r (localBase + e.doff, 64 * e.nline)

/-- Outstanding loads on the same bytes, which come first (R326). -/
def Core.loadsMeet (k : Core) (s : State) (c : Nat) (r : Span) : Bool := k.loads.any fun l => shares s c r (l.va, l.size)

/-- Buffered stores on the same bytes, held ones of a yoked pair included (R156, R372). -/
def Core.buffered (k : Core) : List BufStore := k.stores ++ (k.yoke.map (·.held)).getD []

/-- The youngest buffered store that shares a byte with a range. -/
def Core.lastStore (k : Core) (s : State) (c : Nat) (r : Span) : Option BufStore :=
  k.buffered.reverse.find? fun b => shares s c r (b.va, b.bytes.length)

/-- An engine or vector access waits for buffered stores and queued vector stores on the same bytes (R201, R220, R269). -/
def Core.storesMeet (k : Core) (s : State) (c : Nat) (rs : List Span) : Bool :=
  rs.any fun r => (k.lastStore s c r).isSome || k.vactive.any fun e => e.spans.any (shares s c r)

/-- The core without the stores that its pair holds: a vector access need not wait for them, since a load sees them laid over memory and a
store joins them in order (R201, R372). -/
def Core.unheld (k : Core) : Core := { k with yoke := k.yoke.map fun y => { y with held := [] } }

/-! ## Joins -/

/-- Every earlier load and store of the core has been performed (R328): classes R and W. -/
def Core.rwDone (k : Core) (s : State) (c : Nat) : Bool := (k.accesses s c).all fun x => !clsMeet x.1 (clsR + clsW)

/-- Every earlier load and store has been performed of those issued before an instruction that found `pushed` entries in the rings of write
bindings (R332): later stores of the core are either performed already or wait for it, but later pushed entries may stand behind it. -/
def Core.rwBefore (k : Core) (pushed : SMap Nat) (s : State) (c : Nat) : Bool := (k.asOf pushed).rwDone s c

/-- Every earlier load of the core has been performed: class R. -/
def Core.readsDone (k : Core) (s : State) (c : Nat) : Bool := (k.accesses s c).all fun x => !clsMeet x.1 clsR

/-- Every earlier store of the core has been performed (R344): class W. -/
def Core.storesDone (k : Core) (s : State) (c : Nat) : Bool := (k.accesses s c).all fun x => !clsMeet x.1 clsW

/-- Every entry of the core's engine queues has been performed (R264). -/
def Core.queuesDone (k : Core) : Bool := k.queues.all fun q => q.2.entries.isEmpty

/-- The first deferred error that a join takes (R221): the lowest queue among `qs` that holds one, as a trap. -/
def Core.deferredOf (k : Core) (qs : List Nat) : Option Stop :=
  (qs.find? fun q => ((mfind k.queues q).bind (·.err)).isSome).bind fun q =>
    ((mfind k.queues q).bind (·.err)).map fun e => e.trap q

/-- The deferred error of a write stream (R279), as a trap that SDRAIN, SUNBIND and suspension points take. -/
def Core.streamErr (k : Core) : Option Stop :=
  (k.streams.find? fun x => x.2.err.isSome).bind fun x => x.2.err.map fun e =>
    .trap { cause := e.cause, acc := e.acc, val := e.val, data := e.data, deferred := some (16 + x.1) }

/-- Every agent of a core has finished (R328): vector entries, loads and stores, engine queues, drove requests, and what the network
interface delivers, SENDs, transfers and pieces. -/
def Core.joined (k : Core) (s : State) (c : Nat) : Bool :=
  k.seqr.isEmpty && k.rwDone s c && k.queuesDone && k.sends.isEmpty && k.xfers.isEmpty && k.pieces.isEmpty && k.drove.isEmpty

end Sys2Proof.Machine
end

