-- ==== Sys2Proof/Machine/LoadStore.lean ====
section
/-! DEFINITION. LD and ST (06 R152 to R156), the event unit's lines (12 R295 to R297), atomics (12 R290 to R294), and the events that
perform loads, stores and barrier releases. -/

namespace Sys2Proof.Machine

/-! ## The event unit -/

/-- A fold's barrier line and event count. -/
def Fold.barrier (f : Fold) (b : Nat) : Barrier := mget Barrier.reset f.barriers b
def Fold.event (f : Fold) (e : Nat) : Nat := mget 0 f.events e

/-- A barrier configuration as a load reads it (R296). -/
def Barrier.word (b : Barrier) : Word := BitVec.ofNat 64 (b.dom * 2 ^ 16 + b.gen % 256 * 2 ^ 8 + b.memb.toNat)

/-- Waiters of event line e are served in order of arrival while the count lasts (R297, R298). -/
def serveEvents (s : State) (f e : Nat) : Nat → State
  | 0 => s
  | n + 1 =>
    let v := s.fold f
    let cnt := v.event e
    match v.evwait.find? fun w => w.1 == e with
    | some w =>
      if cnt = 0 then s
      else
        let s := s.setFold f { v with events := mset 0 v.events e (cnt - 1), evwait := v.evwait.erase w }
        let s := match w.2 with
          | .core c => release s c (BitVec.ofNat 64 cnt)
          | .unit_ blk rcd =>
            let p := partOfFold s f
            wakeUnit s p blk rcd (some (logFold s p f))
        serveEvents s f e n
    | none => s

/-- A count is added to an event line, saturating; waiting WFIs of the fold end (R295, R298, R358). -/
def addEvent (s : State) (f e n : Nat) : State :=
  let v := s.fold f
  let s := s.setFold f { v with events := mset 0 v.events e (min (v.event e + n) (2 ^ 32 - 1)) }
  let s := (List.range 8).foldl (fun s i =>
    match (s.core (8 * f + i)).wait with
    | some (.deadline _) => s.updCore (8 * f + i) fun k => { k with wait := some .expired }
    | some .forever => s.updCore (8 * f + i) fun k => { k with wait := some .expired }
    | _ => s) s
  serveEvents s f e v.evwait.length

/-- A core joins a mutex line's waiters: in order of arrival, those of one clk in increasing core index (R297). -/
def joinWaiters (now c : Nat) : List (Nat × Nat) → List (Nat × Nat)
  | [] => [(c, now)]
  | w :: ws => if w.2 = now ∧ c < w.1 then (c, now) :: w :: ws else w :: joinWaiters now c ws

/-- A D load of the event unit at offset o (R295, R297): the value, once its wait has ended. -/
def eventLoad (s : State) (o : Nat) : Res (Word × State) :=
  let c := s.cur
  let k := s.me
  let f := foldOf c
  let v := s.fold f
  let i := o % 0x100 / 8
  let stop (w : Option Wait) (s : State) : Res (Word × State) := .error (.stall (s.updCore c fun k => { k with wait := w }))
  match k.wait with
  | some (.released w) => .ok (w, s.setMe { k with wait := none })
  | some w => stop (some w) s
  | none =>
    if o < 0x80 then do
      let b := v.barrier i
      need (b.memb.getLsbD (c % 8)) (trapA cPERMISSION false (eventBase + o))
      if k.rwDone s c then
        stop (some (.barrier i b.gen)) (s.setFold f { v with barriers := mput v.barriers i { b with arrived := b.arrived ++ [c % 8] } })
      else stop none s
    else if 0x100 ≤ o ∧ o < 0x180 then
      let m := v.mutex i
      if m.holder.isNone then
        .ok (1, s.setFold f { v with mutexes := mput v.mutexes i { m with holder := some k.runner } })
      else
        let ws := joinWaiters s.clk c m.waiters
        stop (some (.mutex i)) (s.setFold f { v with mutexes := mput v.mutexes i { m with waiters := ws } })
    else if 0x200 ≤ o ∧ o < 0x300 then
      let cnt := v.event i
      if 0 < cnt ∧ !(v.evwait.any fun w => w.1 == i) then
        .ok (BitVec.ofNat 64 cnt, s.setFold f { v with events := mset 0 v.events i (cnt - 1) })
      else stop (some (.event i)) (s.setFold f { v with evwait := v.evwait ++ [(i, .core c)] })
    else if 0x1000 ≤ o ∧ o < 0x1080 then .ok ((v.barrier i).word, s)
    else if 0x2000 ≤ o ∧ o < 0x3000 then .ok (mget 0 v.sync ((o - 0x2000) / 8), s)
    else .error (trapA cPERMISSION false (eventBase + o))

/-- A D store to the event unit at offset o (R295 to R297). A release and an added count follow every earlier access (R332). -/
def eventStore (s : State) (o : Nat) (w : Word) : Res State :=
  let c := s.cur
  let k := s.me
  let f := foldOf c
  let v := s.fold f
  let i := o % 0x100 / 8
  if 0x100 ≤ o ∧ o < 0x180 then do
    need (decide ((v.mutex i).holder = some k.runner)) (trapA cPERMISSION true (eventBase + o))
    need (k.rwDone s c) (.stall s)
    .ok (passMutex s f i)
  else if 0x200 ≤ o ∧ o < 0x300 then do
    need (k.rwDone s c) (.stall s)
    .ok (addEvent s f i w.toNat)
  else if 0x1000 ≤ o ∧ o < 0x1080 then do
    let b := v.barrier i
    need (k.stores.isEmpty && b.arrived.isEmpty) (.stall s)
    .ok (s.setFold f { v with barriers := mput v.barriers i { b with dom := fld w 31 16, memb := BitVec.ofNat 8 (fld w 7 0) } })
  else if 0x2000 ≤ o ∧ o < 0x3000 then do
    need k.stores.isEmpty (.stall s)
    .ok (s.setFold f { v with sync := mset 0 v.sync ((o - 0x2000) / 8) w })
  else .error (trapA cPERMISSION true (eventBase + o))

/-- Every member of a line has arrived. -/
def Barrier.full (b : Barrier) : Bool := (List.range 8).all fun i => !b.memb.getLsbD i || b.arrived.contains i

/-- The folds whose line b a release of fold f's line takes with it (R297): f alone for DOM 0, else the folds of the arrived members' launch
whose configuration b holds the same DOM. -/
def barrierFolds (s : State) (f b : Nat) : List Nat :=
  let dom := ((s.fold f).barrier b).dom
  if dom = 0 then [f]
  else
    match ((s.fold f).barrier b).arrived.findSome? fun i => (s.core (8 * f + i)).occ with
    | none => [f]
    | some o =>
      match s.launch o.part o.blk with
      | none => [f]
      | some l =>
        f :: ((List.range (l.fcount)).map (fun t => devFold s o.part (l.fbase + t))).filter fun g =>
          g != f && ((s.fold g).barrier b).dom == dom

/-- BARRIER_RELEASE is due: every member of the line, and of its chained folds, has arrived (R297). -/
def barrierDue (s : State) (f b : Nat) : Bool :=
  decide (((s.fold f).barrier b).arrived ≠ []) && (barrierFolds s f b).all fun g => ((s.fold g).barrier b).full

/-- BARRIER_RELEASE: GEN rises and every waiting load returns it (R297). -/
def execBarrierRelease (f b : Nat) (s : State) : Host.Outcome State Fault Refusal :=
  event s (barrierDue s f b) ((barrierFolds s f b).foldl (fun s g =>
    let v := s.fold g
    let x := v.barrier b
    let gen := (x.gen + 1) % 256
    let s := s.setFold g { v with barriers := mput v.barriers b { x with gen := gen, arrived := [] } }
    x.arrived.foldl (fun s i => release s (8 * g + i) (BitVec.ofNat 64 gen)) s) s)

/-! ## Loads and stores -/

/-- A loaded value as rd holds it: zero- or sign-extended (R152). -/
def extLoad (sx : Bool) (bs : List Byte) : Word :=
  if sx then BitVec.ofInt 64 (sgn (8 * bs.length) (leNat bs)) else BitVec.ofNat 64 (leNat bs)

/-- The core runs a compute routine of a flagged launch: order 1 of R154 applies. -/
def State.det (s : State) : Bool := s.me.inCompute

/-- Bytes of a range as memory holds them with a yoked pair's held stores laid over (R372). -/
def overlay (k : Core) (v : Nat) (bs : List Byte) : List Byte :=
  (span v bs.length).zipWith (fun a b =>
    match ((k.yoke.map (·.held)).getD []).reverse.find? fun h => decide (h.va ≤ a ∧ a < h.va + h.bytes.length) with
    | some h => h.bytes.getD (a - h.va) b
    | none => b) bs

/-- The waits of a load of n bytes at v before it issues (R98, R156, R201, R220, R269, R329): a sixteenth outstanding load holds any further
one, and a buffered store that covers the bytes only in part drains first. -/
def loadWait (s : State) (v n : Nat) : Res Unit := do
  let c := s.cur
  let r : Span := (v, n)
  need (decide (s.me.loads.length < 16)) .hold
  need (!(s.me.blocked s c r) && !(s.me.fenced clsR [r])) .hold
  match s.me.lastStore s c r with
  | some b => need (within r (b.va, b.bytes.length) || !(s.me.stores.any fun x => shares s c r (x.va, x.bytes.length))) .hold
  | none => .ok ()

/-- A load of n bytes at v into rd (R152 to R156), after the tag and range checks; `s0` is the state before the packet's pops. -/
def doLoad (s0 s : State) (v n d : Nat) (sx : Bool) : Res State := do
  let c := s.cur
  let r : Span := (v, n)
  loadWait s v n
  need (decide (v % n = 0)) (trapA cMISALIGN false v)
  if windowOf v = .eventUnit then do
    need (!s.me.inFlagged) (trapA cDETERM false v)
    need (decide (n = 8)) (trapA cPERMISSION false v)
    let (w, s) ← eventLoad s (v - eventBase)
    setG s d w
  else do
    let (tr, s) ← checkAccess s c v n false s.det
    if windowOf v = .ownLocal then
      let bs := localBytes s c (v - localBase) n
      setG (countRead s c [r]) d (extLoad sx bs)
    else
      match s.me.lastStore s c r with
      | some b =>
        if within r (b.va, b.bytes.length) then setG s d (extLoad sx ((b.bytes.drop (v - b.va)).take n))
        else
          let bs := overlay s.me v (readRange s c tr v n)
          setG s d (extLoad sx bs)
      | none => do
        gRoom s0 s d
        let l : Load := { kind := .plain sx, va := v, key := (placeOf s c tr v).getD 0, tr := tr, size := n, rd := d, escape := false, since := s.clk }
        .ok (s.updMe fun k => { k with loads := k.loads ++ [l] })

/-- A wait at the address that a pointer and an offset give; an address with a bad tag, or out of 48 bits, names no bytes to wait for. -/
def atPtr (p : Word) (off : Int) (w : Nat → Res Unit) : Res Unit :=
  match ptrAdd p off with
  | .ok v => w v
  | .error _ => .ok ()

/-- LD (R152): n bytes at ra plus a scaled offset. -/
def execLd (_ : Lit) (d a : BitVec 5) (z : BitVec 2) (x : BitVec 1) (o : BitVec 12) (s : State) :
    Host.Outcome State Fault Refusal :=
  settle s (do
    let n : Nat := 2 ^ z.toNat
    need (decide (x = 0 ∨ n ≠ 8)) (trapC cILLEGAL)
    withChecked s [a.toNat] [d.toNat] (atPtr (gval s a.toNat) (o.toInt * (n : Int)) fun v => loadWait s v n) fun s' => do
      let v ← ptrAdd (gval s a.toNat) (o.toInt * (n : Int))
      doLoad s s' v n d.toNat (x == 1))

/-- The waits of a store of n bytes at v before it issues (R98, R156, R201, R220, R269, R329): a store to own local memory follows the buffered
ones (R326), and another needs a place in the buffer, or among those that a yoked pair holds (R372). -/
def storeWait (s : State) (v n : Nat) : Res Unit := do
  let c := s.cur
  let r : Span := (v, n)
  need (!(s.me.blocked s c r) && !(s.me.fenced clsW [r]) && !(s.me.loadsMeet s c r)) .hold
  match windowOf v, s.me.yoke with
  | .eventUnit, _ => .ok ()
  | .ownLocal, _ => need s.me.stores.isEmpty .hold
  | _, some y => need (decide (y.held.length < 16)) .hold
  | _, none => need (decide (s.me.stores.length < 16)) .hold

/-- A store of bytes at v (R152 to R156): own local memory at once, other places through the store buffer, held until the end of
the interval in a yoked pair (R372). `pop` reads the stored register, after every check (R152); a stall of its own begins only then (R98). -/
def doStore (s : State) (v : Nat) (bs : List Byte) (pop : State → Res State) : Res State := do
  let c := s.cur
  let n := bs.length
  storeWait s v n
  need (decide (v % n = 0)) (trapA cMISALIGN true v)
  if windowOf v = .eventUnit then do
    need (!s.me.inFlagged) (trapA cDETERM true v)
    need (decide (n = 8)) (trapA cPERMISSION true v)
    match eventStore s (v - eventBase) (BitVec.ofNat 64 (leNat bs)) with
    | .error (.trap t) => .error (.trap t)
    | _ => do
      let s ← pop s
      eventStore s (v - eventBase) (BitVec.ofNat 64 (leNat bs))
  else
    match checkAccess s c v n true s.det with
    | .error (.stall s1) => do
      if lentRange s c v n then let _ ← pop s; .error (.stall s1) else .error (.stall s1)
    | .error e => .error e
    | .ok (tr, s) => do
      let s ← pop s
      if windowOf v = .ownLocal then .ok (writeRange s c tr v bs)
      else
        let b : BufStore := { va := v, key := (placeOf s c tr v).getD 0, bytes := bs }
        match s.me.yoke with
        | some y => .ok (s.updMe fun k => { k with yoke := some { y with held := y.held ++ [b] } })
        | none => .ok (s.updMe fun k => { k with stores := k.stores ++ [b] })

/-- ST (R152): the low bytes of rs, which is read last. -/
def execSt (_ : Lit) (r a : BitVec 5) (z : BitVec 2) (o : BitVec 12) (s : State) : Host.Outcome State Fault Refusal :=
  let n : Nat := 2 ^ z.toNat
  let off : Int := o.toInt * (n : Int)
  settle s (withLater s [a.toNat] [r.toNat] [] (atPtr (gval s a.toNat) off fun v => storeWait s v n) fun m s' => do
    let v ← ptrAdd (gval s a.toNat) off
    doStore s' v (leBytes n (gval s r.toNat).toNat) fun s' => do
      let (m, s') ← popLater s [a.toNat] [r.toNat] m s'
      .ok (countPops s' m))

/-! ## Atomics -/

/-- Signed or unsigned readings of an AMO operand of n bytes (R291). -/
def amoInt (n : Nat) (x : Nat) : Int := sgn (8 * n) x

/-- The lesser or greater of two FP32 words; the canonical NaN where either is a NaN (R291, R314). -/
def amoFp (greater : Bool) (a b : Word32) : Word32 :=
  if isNaN32 a || isNaN32 b then cNaN else (fminmax32 greater false a b).1

/-- The larger magnitude (R291). -/
def amoAmax (a b : Word32) : Word32 :=
  let a := a &&& 0x7FFFFFFF
  let b := b &&& 0x7FFFFFFF
  if isNaN32 a || isNaN32 b then cNaN else if a.ult b then b else a

/-- The new value of AMO operation op on n bytes (R291). -/
def amoNew (op n old v cmp : Nat) : Nat :=
  let w := 2 ^ (8 * n)
  let o := old % w
  let x := v % w
  let f (g : Word32 → Word32 → Word32) : Nat := (g (BitVec.ofNat 32 o) (BitVec.ofNat 32 x)).toNat
  match op with
  | 0 => (o + x) % w
  | 1 => f fun a b => if isNaN32 a || isNaN32 b then cNaN else (fadd32 0 false a b).1
  | 2 => if amoInt n x < amoInt n o then x else o
  | 3 => if amoInt n o < amoInt n x then x else o
  | 4 => min o x
  | 5 => max o x
  | 6 => f (amoFp false)
  | 7 => f (amoFp true)
  | 8 => f amoAmax
  | 9 => Nat.land o x
  | 10 => Nat.lor o x
  | 11 => Nat.xor o x
  | 12 => x
  | 13 => if o = cmp % w then x else o
  | _ => x

/-- The checks of an AMO as a load beside those as a store (R292): UNINIT and UNCORRECTABLE of own local memory, UNCORRECTABLE
elsewhere, at the first failing word (R347). -/
def amoReadChecks (s : State) (c v n : Nat) (tr : SMap Nat) : Res Unit := do
  let local_ := decide (windowOf v = .ownLocal)
  match if local_ && fld ((s.core c).ctl 0x020) 0 0 == 0 then firstInvalid (s.core c) (v - localBase) n else none with
  | some a => .error (trapA cUNINIT false (localBase + a / 4 * 4))
  | none =>
    match (parts 4 v n).find? fun x => ((placeOf s c tr x.1).map fun key => s.bad key x.2).getD false with
    | some x => .error (trapA cUNCORR false (x.1 / 4 * 4))
    | none => .ok ()

/-- The waits of an AMO of n bytes at v before it issues (R98, R156, R293): `sc` SCOPE, `ord` ORD. A release AMO follows every earlier load
and store. -/
def amoWait (s : State) (v n sc ord : Nat) : Res Unit := do
  let c := s.cur
  let k := s.me
  let r : Span := (v, n)
  need (decide (k.loads.length < 16)) .hold
  need (!(k.blocked s c r) && !(k.fenced (clsR + clsW) [r]) && !(k.loadsMeet s c r)) .hold
  need (decide (ord / 2 % 2 = 0) || k.rwDone s c) .hold
  need (decide (sc < 2) || (k.lastStore s c r).isNone) .hold

/-- AMO (R290 to R293): `sc` SCOPE, `ord` ORD, n bytes. Scopes L and F act at issue; D and S when the request returns. -/
def amo (s : State) (l : Lit) (op d a b sc ord n : Nat) : Host.Outcome State Fault Refusal :=
  settle s (do
    need (decide (n = 4 ∨ ¬(op = 1 ∨ op = 6 ∨ op = 7 ∨ op = 8))) (trapC cILLEGAL)
    withChecked s ([a, b] ++ if op = 13 then [d] else []) [d] (atPtr (gval s a) 0 fun v => amoWait s v n sc ord) fun s' => do
      let c := s.cur
      let p := gval s a
      need (decide (fld p 53 48 = 0)) (trapC cTAG)
      let v := fld p 47 0
      let r : Span := (v, n)
      let k := s'.me
      need (decide (v % n = 0)) (trapA cMISALIGN true v)
      need (!(k.inFlagged && decide (sc ≠ 0))) (trapA cDETERM true v)
      let x := rbval s l b
      let cmp := gval s d
      match sc with
      | 0 => do
        need (decide (windowOf v = .ownLocal)) (trapA cPERMISSION true v)
        let (tr, s1) ← checkAccess s' c v n true s.det
        amoReadChecks s1 c v n tr
        let old := leNat (localBytes s1 c (v - localBase) n)
        let s2 := countUninitRead (countEccRanges s1 c tr [r]) c [r]
        let s3 := writeRange s2 c tr v (leBytes n (amoNew op n old x.toNat cmp.toNat))
        setG s3 d (BitVec.ofNat 64 old)
      | 1 => do
        need (decide (eventBase + 0x2000 ≤ v ∧ v < eventBase + 0x3000)) (trapA cPERMISSION true v)
        let f := foldOf c
        let i := (v - eventBase - 0x2000) / 8
        let w := mget 0 (s'.fold f).sync i
        let lo := 8 * (v % 8)
        let old := fld w (lo + 8 * n - 1) lo
        let w' := putFld w (lo + 8 * n - 1) lo (amoNew op n old x.toNat cmp.toNat)
        let s2 := s'.updFold f fun g => { g with sync := mset 0 g.sync i w' }
        setG s2 d (BitVec.ofNat 64 old)
      | _ => do
        let win := windowOf v
        need (decide (win = .global ∨ (win = .common ∧ sc = 2))) (trapA cPERMISSION true v)
        need (decide (sc = 2 ∨ fld (s.part (corePart s c)).facc 19 16 ≠ 0)) (trapA cPERMISSION true v)
        let (tr, s1) ← checkAccess s' c v n true s.det
        amoReadChecks s1 c v n tr
        gRoom s s1 d
        let ld : Load := { kind := .amo op x cmp sc (ord % 2 == 1), va := v, key := (placeOf s1 c tr v).getD 0, tr := tr, size := n,
                           rd := d, escape := false, since := s.clk, pushed := if ord % 2 = 1 then s1.me.pushed else [] }
        .ok (s1.updMe fun k => { k with loads := k.loads ++ [ld] }))

/-- Bytes of an AMO's SZ (R290). -/
def amoSize (z : BitVec 1) : Nat := if z = 1 then 8 else 4

/-- AMO: wrapping add (R291). -/
def execAmoAdd (l : Lit) (d a b : BitVec 5) (sc o : BitVec 2) (z : BitVec 1) (s : State) : Host.Outcome State Fault Refusal :=
  amo s l 0 d.toNat a.toNat b.toNat sc.toNat o.toNat (amoSize z)

/-- AMO: FP32 add, RNE, subnormals kept (R291). -/
def execAmoFadd (l : Lit) (d a b : BitVec 5) (sc o : BitVec 2) (s : State) : Host.Outcome State Fault Refusal :=
  amo s l 1 d.toNat a.toNat b.toNat sc.toNat o.toNat 4

/-- AMO: signed minimum (R291). -/
def execAmoMin (l : Lit) (d a b : BitVec 5) (sc o : BitVec 2) (z : BitVec 1) (s : State) : Host.Outcome State Fault Refusal :=
  amo s l 2 d.toNat a.toNat b.toNat sc.toNat o.toNat (amoSize z)

/-- AMO: signed maximum (R291). -/
def execAmoMax (l : Lit) (d a b : BitVec 5) (sc o : BitVec 2) (z : BitVec 1) (s : State) : Host.Outcome State Fault Refusal :=
  amo s l 3 d.toNat a.toNat b.toNat sc.toNat o.toNat (amoSize z)

/-- AMO: unsigned minimum (R291). -/
def execAmoMinu (l : Lit) (d a b : BitVec 5) (sc o : BitVec 2) (z : BitVec 1) (s : State) : Host.Outcome State Fault Refusal :=
  amo s l 4 d.toNat a.toNat b.toNat sc.toNat o.toNat (amoSize z)

/-- AMO: unsigned maximum (R291). -/
def execAmoMaxu (l : Lit) (d a b : BitVec 5) (sc o : BitVec 2) (z : BitVec 1) (s : State) : Host.Outcome State Fault Refusal :=
  amo s l 5 d.toNat a.toNat b.toNat sc.toNat o.toNat (amoSize z)

/-- AMO: FP32 minimum (R291). -/
def execAmoFmin (l : Lit) (d a b : BitVec 5) (sc o : BitVec 2) (s : State) : Host.Outcome State Fault Refusal :=
  amo s l 6 d.toNat a.toNat b.toNat sc.toNat o.toNat 4

/-- AMO: FP32 maximum (R291). -/
def execAmoFmax (l : Lit) (d a b : BitVec 5) (sc o : BitVec 2) (s : State) : Host.Outcome State Fault Refusal :=
  amo s l 7 d.toNat a.toNat b.toNat sc.toNat o.toNat 4

/-- AMO: the larger FP32 magnitude (R291). -/
def execAmoAmax (l : Lit) (d a b : BitVec 5) (sc o : BitVec 2) (s : State) : Host.Outcome State Fault Refusal :=
  amo s l 8 d.toNat a.toNat b.toNat sc.toNat o.toNat 4

/-- AMO: AND (R291). -/
def execAmoAnd (l : Lit) (d a b : BitVec 5) (sc o : BitVec 2) (z : BitVec 1) (s : State) : Host.Outcome State Fault Refusal :=
  amo s l 9 d.toNat a.toNat b.toNat sc.toNat o.toNat (amoSize z)

/-- AMO: OR (R291). -/
def execAmoOr (l : Lit) (d a b : BitVec 5) (sc o : BitVec 2) (z : BitVec 1) (s : State) : Host.Outcome State Fault Refusal :=
  amo s l 10 d.toNat a.toNat b.toNat sc.toNat o.toNat (amoSize z)

/-- AMO: XOR (R291). -/
def execAmoXor (l : Lit) (d a b : BitVec 5) (sc o : BitVec 2) (z : BitVec 1) (s : State) : Host.Outcome State Fault Refusal :=
  amo s l 11 d.toNat a.toNat b.toNat sc.toNat o.toNat (amoSize z)

/-- AMO: swap (R291). -/
def execAmoSwap (l : Lit) (d a b : BitVec 5) (sc o : BitVec 2) (z : BitVec 1) (s : State) : Host.Outcome State Fault Refusal :=
  amo s l 12 d.toNat a.toNat b.toNat sc.toNat o.toNat (amoSize z)

/-- AMO: compare and swap against rd (R291). -/
def execAmoCas (l : Lit) (d a b : BitVec 5) (sc o : BitVec 2) (z : BitVec 1) (s : State) : Host.Outcome State Fault Refusal :=
  amo s l 13 d.toNat a.toNat b.toNat sc.toNat o.toNat (amoSize z)

/-- AMO: the reset value is stored, the old maximum returned (R291). -/
def execAmoAmaxrst (l : Lit) (d a b : BitVec 5) (sc o : BitVec 2) (z : BitVec 1) (s : State) : Host.Outcome State Fault Refusal :=
  amo s l 14 d.toNat a.toNat b.toNat sc.toNat o.toNat (amoSize z)

/-! ## Loads returning, stores draining -/

/-- Bytes of an outstanding access at its place. -/
def Load.bytes (l : Load) (s : State) : List Byte := s.bytes l.key l.size

/-- The AMO at place i among a core's outstanding accesses may act (R372). -/
def amoAgreed (s : State) (c i : Nat) : Bool :=
  let amos (ls : List Load) : Nat := (ls.filter Load.isAmo).length
  s.agreed c 11 (amos ((s.core c).loads.take i)) (amos (s.core c).loads)

/-- LOAD_RETURN is due: entry i exists, 4 clk have passed since its issue (log 118), no earlier access of the core to the same bytes is
outstanding (R326), no down link holds it back (R402), and the interval of a pair's AMO has agreed (R372). -/
def loadDue (s : State) (c i : Nat) : Bool :=
  match (s.core c).loads[i]? with
  | none => false
  | some l => decide (l.since + 4 ≤ s.clk) && s.mayGo c l.key l.moved && (!l.isAmo || amoAgreed s c i) &&
      !((s.core c).loads.take i).any fun m => shares s c (l.va, l.size) (m.va, m.size)

/-- Vector register elements of a core. -/
def Core.elem (k : Core) (r i : Nat) : Word32 := mget 0 k.r.v (256 * r + i)

/-- Writes elements 0, 1, … of vector register r; those of a `none` keep their value. -/
def Core.setElems (k : Core) (r : Nat) (ws : List (Option Word32)) : Core :=
  let v := ws.zipIdx.foldl (fun m x => match x.1 with
    | some w => mset 0 m (256 * r + x.2) w
    | none => m) k.r.v
  { k with r := { k.r with v := v } }

/-- Vector register r of core c receives written elements 0, 1, … with effective length len (R192); a bound write stream takes
elements 0 to len − 1 instead (R277, R279), none while its ring has no room. -/
def deliverV (s : State) (c r len : Nat) (ws : List (Option Word32)) : Option State :=
  let k := s.core c
  match boundV k r with
  | none => some (s.setCore c (k.setElems r ws))
  | some t =>
    if !t.writes ∨ (!t.rep ∧ t.total < t.pos + len) then
      some (s.setCore c { k with streams := mput k.streams (r - 8) { t with err := some (t.err.getD streamPastEnd) } })
    else if t.ring.length + len ≤ t.room then
      let xs := (List.range len).map fun i => ((ws[i]?).bind id).getD (Config.freeElem s.freeCtr (256 * r + i))
      let ring := t.ring ++ xs.map (fun w => RingEntry.val (w.zeroExtend 64) none)
      let t' : Stream := { t with ring := ring, pos := t.advance len }
      some ({ s with freeCtr := s.freeCtr + 1 }.setCore c { k with streams := mput k.streams (r - 8) t' })
    else none

/-- The elements that an LDV delivers (R200). -/
def ldvElems (n : Nat) (sx : Bool) (bs : List Byte) : List (Option Word32) :=
  (chunksOf n bs).map fun x => some ((extLoad sx x).truncate 32)

/-- LOAD_RETURN (R156, R292): the access is performed at its place, with the held stores of a pair laid over, and its data written
to rd; an uncorrectable error is contained (R367, R368). -/
def performLoad (s : State) (c i : Nat) : Option State :=
  match (s.core c).loads[i]? with
  | none => none
  | some l =>
    let s1 := s.updCore c fun k => { k with loads := k.loads.eraseIdx i }
    let range := fun (s : State) => overlay (s.core c) l.va (readRange s c l.tr l.va l.size)
    let fail := (span l.va l.size).find? fun a => match placeOf s c l.tr a with
      | some key => s.bad key 1
      | none => false
    match fail with
    | some a =>
      let t : Trap := { cause := cUNCORR, acc := 0, val := true, data := a / 4 * 4, deferred := none }
      some (contain { s1 with cur := c } c t (t.einfo false))
    | none =>
      let s1 := countEccRanges s1 c l.tr [(l.va, l.size)]
      match l.kind with
      | .plain sx => deliverG s1 c l.rd (extLoad sx (range s1))
      | .amo op x cmp _ _ =>
        let old := leNat (range s1)
        let s2 := writeRange s1 c l.tr l.va (leBytes l.size (amoNew op l.size old x.toNat cmp.toNat))
        deliverAction s2 c l.rd (BitVec.ofNat 64 old)
      | .vec n sx len => deliverV s1 c l.rd len (ldvElems n sx (range s1))
      | .vecf fc bl len ftz =>
        let (ws, fl) := decodeMem fc bl ftz (range s1) len
        deliverV (s1.updCore c fun k => orFlags k fl) c l.rd len (ws.map some)

/-- LOAD_RETURN of entry i of core c. -/
def execLoadReturn (c i : Nat) (s : State) : Host.Outcome State Fault Refusal :=
  match performLoad s c i with
  | some s' => event s (loadDue s c i) s'
  | none => event s false s

/-- STORE_DRAIN is due: the core's store buffer holds a store, no earlier load of the same bytes is
outstanding, and no down link holds it back. -/
def drainDue (s : State) (c : Nat) : Bool :=
  match (s.core c).stores with
  | b :: _ => s.mayGo c b.key (s.escaped c reqStore) && !(s.core c).loadsMeet s c (b.va, b.bytes.length)
  | [] => false

/-- The oldest buffered store is performed at its place (R156); bindings made after it count it done (R329). -/
def drainOne (s : State) (c : Nat) : State :=
  match (s.core c).stores with
  | b :: bs => (s.setBytes b.key b.bytes).updCore c fun k => { k.landed reqStore with
      stores := bs, streams := k.streams.map fun x => (x.1, { x.2 with behind := x.2.behind - 1 }) }
  | [] => s

/-- STORE_DRAIN of core c. -/
def execStoreDrain (c : Nat) (s : State) : Host.Outcome State Fault Refusal := event s (drainDue s c) (drainOne s c)

end Sys2Proof.Machine
end

