-- ==== Sys2Proof/Machine/Vector.lean ====
section
/-! DEFINITION. The vector sequencer and the vector instructions (08 R191 to R212, 07 R187, R190, 03 R82, R85): acceptance of
entries with what they capture, the computations of the A-V majors, and their completion in order. -/

namespace Sys2Proof.Machine

/-! ## Elements -/

/-- The half of an element as the FP32 value of its BF16 code, and back (R203). -/
def bfLo (w : Word32) : Word32 := w <<< 16
def bfHi (w : Word32) : Word32 := w &&& 0xFFFF0000
def bfPair (lo hi : Word32) : Word32 := (hi &&& 0xFFFF0000) ||| (lo >>> 16)

/-- Rounding to BF16, as an FP32 word (R203). -/
def rndBF (rm : Nat) (ftz : Bool) : Rnd := fun n m e =>
  let (c, fl) := fmtBF16.round rm false ftz n m e false
  (BitVec.ofNat 32 (c * 2 ^ 16), fl)

/-- An operation on both halves of elements (R203). -/
def bf2 (f : Word32 → Word32 → Word32 → Word32 × Flags) (a b c : Word32) : Word32 × Flags :=
  let (x, f1) := f (bfLo a) (bfLo b) (bfLo c)
  let (y, f2) := f (bfHi a) (bfHi b) (bfHi c)
  (bfPair x y, f1 ||| f2)

/-- va × vb − vc with one rounding; a NaN operand keeps its own sign (R203, R204). -/
def ffms32 (rm : Nat) (ftz : Bool) (a b c : Word32) : Word32 × Flags :=
  if isNaN32 c then ffma32 rm ftz a b c else ffma32 rm ftz a b (fneg32 c)

/-- One element of the VARITH forms that work element by element (R203, R204). -/
def VArith.elem (o : VArith) (rm : Nat) (ftz : Bool) (a b c : Word32) : Word32 × Flags :=
  match o with
  | .add => fadd32 rm ftz a b
  | .sub => fsub32 rm ftz a b
  | .mul => fmul32 rm ftz a b
  | .div => fdiv32 rm ftz a b
  | .sqrt => fsqrt32 rm ftz a
  | .fma => ffma32 rm ftz a b c
  | .fms => ffms32 rm ftz a b c
  | .min => fminmax32 false ftz a b
  | .max => fminmax32 true ftz a b
  | .abs => (a &&& 0x7FFFFFFF, 0)
  | .neg => (fneg32 a, 0)
  | .addBf2 => bf2 (fun x y _ => faddR (rndBF rm ftz) rm ftz x y) a b c
  | .mulBf2 => bf2 (fun x y _ => fmulR (rndBF rm ftz) ftz x y) a b c
  | .fmaBf2 => bf2 (fun x y z => ffmaR (rndBF rm ftz) rm ftz x y z) a b c
  | .dot => (a, 0)
  | .dot2Bf => (a, 0)

/-- A dot product of FP32 operand pairs into c at a level (R183, R184, R203, R204): the first NaN of c, a0, b0, …, quieted; NX also
where the level flushes a subnormal operand. -/
def vecDot (l : Nat) (ps : List (Word32 × Word32)) (c : Word32) : Word32 × Flags :=
  let seen := c :: ps.flatMap fun p => [p.1, p.2]
  let vs := ps.map fun p => mulVal (f32 (lvlFlushIn l) p.1) (f32 (lvlFlushIn l) p.2)
  let nv : Flags := if seen.any isSNaN32 || vs.any (·.2) then fNV else 0
  let nx : Flags := if lvlFlushIn l && seen.any (fun w => fmtF32.subnormal w.toNat) then fNX else 0
  match seen.find? isNaN32 with
  | some w => (quiet32 w, nv ||| nx ||| (if dotInfs (vs.map (·.1)) (inLvl l c) then fNV else 0))
  | none =>
    let (r, fl) := dotLvl l (vs.map (·.1)) (inLvl l c)
    (r, fl ||| nv ||| nx)

/-- One element of VDOT2.BF: the two products of its halves into vc[i] (R203). A BF16 code is the FP32 code with zeros below. -/
def vecDot2 (l : Nat) (a b c : Word32) : Word32 × Flags := vecDot l [(bfLo a, bfLo b), (bfHi a, bfHi b)] c

/-- Signed clamp to 32 bits. -/
def clamp32 (x : Int) : Word32 := BitVec.ofInt 32 (max (-(2 ^ 31)) (min (2 ^ 31 - 1) x))

/-- Signed byte j of a word. -/
def sbyte (w : Word32) (j : Nat) : Int := sgn 8 (w.toNat / 2 ^ (8 * j) % 256)

/-- One element of VINT (R205). -/
def VIntOp.elem (o : VIntOp) (a b c : Word32) : Word32 :=
  let sh := b.toNat % 32
  match o with
  | .add => a + b
  | .sub => a - b
  | .mul => a * b
  | .mulh => BitVec.ofInt 32 (a.toInt * b.toInt / 2 ^ 32)
  | .and => a &&& b
  | .or => a ||| b
  | .xor => a ^^^ b
  | .sll => a <<< sh
  | .srl => a >>> sh
  | .sra => a.sshiftRight sh
  | .min => if b.slt a then b else a
  | .max => if a.slt b then b else a
  | .minu => if b.ult a then b else a
  | .maxu => if a.ult b then b else a
  | .adds => clamp32 (a.toInt + b.toInt)
  | .subs => clamp32 (a.toInt - b.toInt)
  | .mac => a * b + c
  | .dot4 => c + BitVec.ofInt 32 (sbyte a 0 * sbyte b 0 + sbyte a 1 * sbyte b 1 + sbyte a 2 * sbyte b 2 + sbyte a 3 * sbyte b 3)
  | .abs => clamp32 (a.toInt.natAbs : Int)

/-- One relation of VCMP, with its flags (R206). -/
def VCmpOp.holds (o : VCmpOp) (ftz : Bool) (a b : Word32) : Bool × Flags :=
  match o with
  | .feq => feq32 ftz a b
  | .fne => let (r, fl) := feq32 ftz a b; (!r, fl)
  | .flt => flt32 false ftz a b
  | .fle => flt32 true ftz a b
  | .fun => (isNaN32 a || isNaN32 b, (feq32 ftz a b).2)
  | .ieq => (a == b, 0)
  | .ine => (a != b, 0)
  | .ilt => (a.slt b, 0)
  | .ile => (!b.slt a, 0)
  | .iltu => (a.ult b, 0)
  | .ileu => (!b.ult a, 0)

/-- The extreme of FP32 values with their indices (R207, R208): the first NaN, quieted, else the greatest or least with the lowest
index; none where no position remains. -/
def vecExtreme (greater : Bool) (xs : List (Word32 × Nat)) : Option (Word32 × Nat) :=
  match xs.find? fun x => isNaN32 x.1 with
  | some x => some (quiet32 x.1, x.2)
  | none => xs.foldl (fun best x =>
      match best with
      | none => some x
      | some y =>
        let better := if greater then decide (key32 true y.1 < key32 true x.1) else decide (key32 true x.1 < key32 true y.1)
        some (if better then x else y)) none

/-- The results of a reduction for vd[0] and, with an index, vd[1] (R207, R208); `xs` holds the positions read, with their indices. -/
def VRedOp.result (o : VRedOp) (lvl : Nat) (ftz : Bool) (xs : List (Word32 × Nat)) : List Word32 × Flags :=
  let ws := xs.map (·.1)
  let fs := xs.map fun x => (flush32 ftz x.1, x.2)
  let nv : Flags := if ws.any isSNaN32 then fNV else 0
  let ix (d : Word32) (r : Option (Word32 × Nat)) : List Word32 :=
    match r with
    | some x => [x.1, BitVec.ofNat 32 x.2]
    | none => [d, 0xFFFFFFFF]
  match o with
  | .sum =>
    let (r, fl) := reduceSum lvl ((List.range 256).map fun i => ((xs.find? fun x => x.2 == i).map (·.1)).getD 0)
    ([r], fl)
  | .max => ([((vecExtreme true fs).map (·.1)).getD 0xFF800000], nv)
  | .min => ([((vecExtreme false fs).map (·.1)).getD 0x7F800000], nv)
  | .amax => ([((vecExtreme true (fs.map fun x => (x.1 &&& 0x7FFFFFFF, x.2))).map (·.1)).getD 0], nv)
  | .maxi => (ix 0xFF800000 (vecExtreme true fs), nv)
  | .mini => (ix 0x7F800000 (vecExtreme false fs), nv)
  | .isum => ([ws.foldl (· + ·) 0], 0)
  | .imax => ([ws.foldl (fun x y => VIntOp.max.elem x y 0) 0x80000000], 0)
  | .imin => ([ws.foldl (fun x y => VIntOp.min.elem x y 0) 0x7FFFFFFF], 0)
  | .imaxu => ([ws.foldl (fun x y => VIntOp.maxu.elem x y 0) 0], 0)
  | .iminu => ([ws.foldl (fun x y => VIntOp.minu.elem x y 0) 0xFFFFFFFF], 0)
  | .and => ([ws.foldl (· &&& ·) 0xFFFFFFFF], 0)
  | .or => ([ws.foldl (· ||| ·) 0], 0)
  | .xor => ([ws.foldl (· ^^^ ·) 0], 0)

/-- One element of VSFU (R209). -/
def VSfuOp.elem (o : VSfuOp) (ftz : Bool) (a : Word32) : Word32 × Flags :=
  match o with
  | .exp2 => sfuExp true ftz a
  | .expe => sfuExp false ftz a
  | .log2 => sfuLog2 ftz a
  | .rcp => sfuRcp ftz a
  | .rsq => sfuRsq ftz a

/-- A code of an integer format sign-extended, of a float format zero-extended (R189, R190). -/
def extCode (fc code : Nat) : Word32 := if fcInt fc then widenInt fc code else BitVec.ofNat 32 code

/-- INT formats decoded to FP32, as `fext` decodes them (R189, R175). -/
def fextCode (fc rm : Nat) (ftz : Bool) (code : Nat) : Word32 × Flags :=
  if fcInt fc then ofInt rm (widenInt fc code).toInt else decodeFloat fc ftz code

/-- FP32 converted to a format's code, as `fcvt` converts it (R189, R173, R174). -/
def fcvtCode (fc rm : Nat) (sat ftz : Bool) (w : Word32) : Nat × Flags :=
  if fcInt fc then
    let (x, fl) := toInt rm (intLo fc) (intHi fc) (f32 ftz w)
    ((x % (2 ^ fcBits fc : Nat)).toNat, fl)
  else encodeFloat fc rm sat ftz w

/-- The element-by-element forms of VCVT (R190). -/
def cvtElem (o : VCvtOp) (fc rm : Nat) (sat ftz : Bool) (w : Word32) : Word32 × Flags :=
  match o with
  | .widen => fextCode fc rm ftz (w.toNat % 2 ^ fcBits fc)
  | .qrnd =>
    let (c, f1) := fcvtCode fc rm sat ftz w
    let (x, f2) := fextCode fc rm ftz c
    (x, f1 ||| f2)
  | _ => let (c, fl) := fcvtCode fc rm sat ftz w; (extCode fc c, fl)

/-- The block forms of VCVT over elements 0 to L − 1 (R190, R178, R170). -/
def cvtBlocks (o : VCvtOp) (fc bl : Nat) (ws : List Word32) : List Word32 × Flags :=
  match o with
  | .baleq =>
    let bs := (chunksOf 16 ws).map baleBlock
    ((bs.flatMap fun x => x.2.1.map fun c => baleDecode x.1 c).take ws.length, bs.foldl (fun a x => a ||| x.2.2) 0)
  | _ =>
    let b := 2 ^ bl
    let bs := (chunksOf b ws).map (quantBlock fc b)
    let fl := bs.foldl (fun a x => a ||| x.2.2) (0 : Flags)
    match o with
    | .mxs =>
      let sc := bs.map fun x => BitVec.ofNat 32 x.1
      (sc ++ List.replicate (ws.length - sc.length) 0, fl)
    | .mxc => ((bs.flatMap fun x => x.2.1.map fun c => BitVec.ofNat 32 c).take ws.length, fl)
    | _ =>
      let ds := (bs.flatMap fun x => x.2.1.map fun c => decodeScaled fc x.1 c).take ws.length
      (ds.map (·.1), ds.foldl (fun a x => a ||| x.2) fl)

/-! ## Entries -/

/-- The vector registers that an entry reads. -/
def VEntry.vsrcs (e : VEntry) : List Nat :=
  match e.op with
  | .arith o => match o with
    | .sqrt => [e.va]
    | .abs => [e.va]
    | .neg => [e.va]
    | .fma => [e.va, e.vb, e.vc]
    | .fms => [e.va, e.vb, e.vc]
    | .dot => [e.va, e.vb, e.vc]
    | .fmaBf2 => [e.va, e.vb, e.vc]
    | .dot2Bf => [e.va, e.vb, e.vc]
    | _ => [e.va, e.vb]
  | .int o => match o with
    | .mac => [e.va, e.vb, e.vc]
    | .dot4 => [e.va, e.vb, e.vc]
    | .abs => [e.va]
    | _ => [e.va, e.vb]
  | .cmp _ => [e.va, e.vb]
  | .red _ => [e.va]
  | .sfu _ => [e.va]
  | .perm o => match o with
    | .mov => [e.va]
    | .splat => []
    | .movs => [e.va]
    | .sel => [e.va, e.vb]
    | .iota => []
    | .idx => [e.va, e.vb]
  | .cvt _ _ _ => [e.va]
  | .stv _ => [e.va]
  | .stf _ _ => [e.va]

/-- The vector register that an entry writes. -/
def VEntry.vdest (e : VEntry) : Option Nat :=
  match e.op with
  | .cmp _ => none
  | .perm .movs => none
  | .stv _ => none
  | .stf _ _ => none
  | _ => some e.vd

/-- The vector registers an entry names. -/
def VEntry.vregs (e : VEntry) : List Nat :=
  match e.vdest with
  | some d => d :: e.vsrcs
  | none => e.vsrcs

/-- A sequencer entry names vector register r. -/
def Core.vnames (k : Core) (r : Nat) : Bool := k.vactive.any fun e => e.vregs.contains r

/-- An outstanding vector load writes one of these registers. -/
def Core.vloading (k : Core) (rs : List Nat) : Bool :=
  k.loads.any fun l => !l.writesG && rs.contains l.rd

/-- A capture is open and not suspended by a trap (R199). -/
def Core.capOpen (k : Core) : Bool :=
  match k.vcap with
  | some v => !v.suspended
  | none => false

/-- Elements that an entry pushes into the stream of vector register r. -/
def VEntry.pushes (e : VEntry) (r : Nat) : Nat := if e.vdest = some r then e.len else 0

/-- Elements that a place of the sequencer has yet to push into that stream; `all` counts every repetition left of a block. -/
def SeqItem.pushes (all : Bool) (r : Nat) : SeqItem → Nat
  | .one e => e.pushes r
  | .block es next left => (es.zipIdx.map fun x =>
      x.1.pushes r * (if all then (if x.2 < next then left - 1 else left) else 1)).foldl (· + ·) 0

/-- Elements that the sequencer and outstanding vector loads have yet to push into the stream of vector register r (R279). -/
def Core.pushing (k : Core) (all : Bool) (r : Nat) : Nat :=
  (k.seqr.map (SeqItem.pushes all r)).foldl (· + ·) 0 +
  (k.loads.map fun l => match l.kind with
    | .vec _ _ len => if l.rd = r then len else 0
    | .vecf _ _ len _ => if l.rd = r then len else 0
    | _ => 0).foldl (· + ·) 0

/-- Elements that the entries of an open capture push; a capture that a trap has suspended is no part of what runs (R199). -/
def Core.capturing (k : Core) (r : Nat) : Nat :=
  match k.vcap with
  | some v => if v.suspended then 0 else (v.entries.map (·.pushes r)).foldl (· + ·) 0
  | none => 0

/-- Room for a write of vector register r with effective length len, where it is bound (R279): STREAM for a read stream, a length
over the ring or past the end; held while the ring has too little room. The entries of an open capture take room only as the block runs. -/
def vroom (s s' : State) (r len : Nat) : Res Unit :=
  match boundV s.pre r with
  | none => .ok ()
  | some _ => do
    let t := mget Stream.unbound s'.me.streams (r - 8)
    let k := s'.me
    need (t.writes && decide (len ≤ t.room) && (t.rep || decide (t.pos + k.pushing true r + k.capturing r + len ≤ t.total))) (trapC cSTREAM)
    need (decide (t.ring.length + k.pushing false r + len ≤ t.room)) .hold

/-- Pops len entries of every bound stream that feeds a vector register of a list (R279), each once for the packet (R95), with the lowest
invalid byte popped. -/
def vpops (s s' : State) (m : Option Nat) (len : Nat) (rs : List Nat) : Res (SMap (List Word) × Option Nat × State) :=
  rs.foldlM (fun (acc : SMap (List Word) × Option Nat × State) r =>
    match boundV s.pre r, mfind acc.1 r with
    | some t, none => do
      need (decide (len ≤ t.room)) (trapC cSTREAM)
      if s.popped.contains (r - 8) then .ok (mput acc.1 r ((t.ring.take len).map (·.word)), acc.2)
      else do
        let (ws, inv, s'') ← popStream acc.2.2 (r - 8) len
        .ok (mput acc.1 r ws, optMin acc.2.1 inv, s'')
    | _, _ => .ok acc) ([], m, s')

/-- A sequencer entry is accepted (R193, R199): into the open capture, which its n-th entry closes, or at the end of the queue. -/
def Core.accept (k : Core) (e : VEntry) : Core :=
  match k.vcap with
  | some v =>
    if v.suspended then { k with seqr := k.seqr ++ [.one e] }
    else if v.left ≤ 1 then { k with seqr := k.seqr ++ [.block (v.entries ++ [e]) 0 v.count], vcap := none }
    else { k with vcap := some { v with left := v.left - 1, entries := v.entries ++ [e] } }
  | none => { k with seqr := k.seqr ++ [.one e] }

/-- The entry of an instruction with what every entry captures (R193). -/
def entryOf (k : Core) (op : VOp) (d a b c : Nat) : VEntry :=
  { op := op, vd := d, va := a, vb := b, vc := c, len := k.r.vl, mask := none, rm := fpcRm k, sat := fpcSat k, ftz := fpcFtz k,
    nbv := nbvLevel k, gd := 0, val := 0, addr := 0, tr := [], pops := [], again := false, left := 0, since := 0 }

/-- The queue of 16 has room for an entry (R193). -/
def Core.vroomy (k : Core) : Bool := decide (k.ventries.length < 16)

/-- Acceptance of an entry (R193): held while the queue is full, ILLEGAL with G = 0; its streams pop, and its destination has room. `m`
is the lowest invalid byte the instruction has popped already (R242). -/
def acceptPopped (s s' : State) (m : Option Nat) (e : VEntry) : Res State := do
  need s'.me.vroomy .hold
  need (decide (s.pre.r.lanes ≠ 0)) (trapC cILLEGAL)
  let (ps, m, s1) ← vpops s s' m e.len e.vsrcs
  match e.vdest with
  | some d => vroom s s1 d e.len
  | none => .ok ()
  .ok ((countPops s1 m).updMe fun k => k.accept { e with pops := ps, left := e.slices, since := s.clk })

/-- `acceptPopped` for an instruction that popped no other stream. -/
def acceptEntry (s s' : State) (e : VEntry) : Res State := acceptPopped s s' none e

/-- An A-V instruction with a mask field k (R196, R202): field 0 means unmasked. The group is judged once the queue has room (R98). -/
def vecOp (s : State) (op : VOp) (d a b c k : Nat) (f : VEntry → VEntry) : Host.Outcome State Fault Refusal :=
  settle s (do
    let n := maskRegs s.pre.r.vl
    let srcs := if k = 0 then [] else group k n
    let chk : Res Unit := do
      need s.me.vroomy .hold
      if k = 0 then .ok () else groupFree s k n
    withPops s srcs [] chk fun m s' =>
      let e := f (entryOf s.pre op d a b c)
      acceptPopped s s' m (if k = 0 then e else { e with mask := some (groupVal s k n) }))

/-- VCMP (R206): the group from gd is written through the sequencer's return path; gd = 0 and a group past g31 are ILLEGAL, a bound
register in it STREAM, and an open capture ILLEGAL (R199). -/
def vecCmp (s : State) (o : VCmpOp) (a b gd : Nat) : Host.Outcome State Fault Refusal :=
  settle s (do
    let n := maskRegs s.pre.r.vl
    withRegs s [] (group gd n) fun s' => do
      need s'.me.vroomy .hold
      need (decide (gd ≠ 0) && decide (gd + n ≤ 32) && !s'.me.capOpen) (trapC cILLEGAL)
      need (!(group gd n).any fun r => (boundG s.pre r).isSome) (trapC cSTREAM)
      acceptEntry s s' { entryOf s.pre (.cmp o) 0 a b 0 with gd := gd })

/-! ## Completion -/

/-- Element i of vector register r as an entry reads it: what it popped where r is bound (R277), else the register. -/
def VEntry.src (e : VEntry) (k : Core) (ctr r i : Nat) : Word32 :=
  match mfind e.pops r with
  | some ws =>
    match ws[i]? with
    | some w => w.truncate 32
    | none => Config.freeElem ctr (256 * r + i)
  | none => k.elem r i

/-- Element i is active: below L and not masked off (R196). -/
def VEntry.active (e : VEntry) (i : Nat) : Bool :=
  decide (i < e.len) && match e.mask with
    | some m => m.testBit i
    | none => true

/-- What an entry writes: elements of vd, a number for its general registers, bytes of memory, and flags (R194). -/
structure VResult where
  elems : List (Option Word32)
  greg : Option Nat
  bytes : List (Option Byte)
  flags : Flags
  deriving DecidableEq, Repr

/-- Elements computed one by one under the mask (R196). -/
def VEntry.each (e : VEntry) (f : Nat → Word32 × Flags) : VResult :=
  let xs := (List.range e.len).map fun i => if e.active i then let (w, fl) := f i; (some w, fl) else (none, (0 : Flags))
  { elems := xs.map (·.1), greg := none, bytes := [], flags := xs.foldl (fun a x => a ||| x.2) 0 }

/-- The result of an entry on the registers of a core (R203 to R210, R190, R200, R187). -/
def VEntry.result (e : VEntry) (k : Core) (ctr : Nat) : VResult :=
  let a := e.src k ctr e.va
  let b := e.src k ctr e.vb
  let c := e.src k ctr e.vc
  let first (ws : List Word32) (fl : Flags) : VResult := { elems := ws.map some, greg := none, bytes := [], flags := fl }
  match e.op with
  | .arith .dot =>
    let (w, fl) := vecDot e.nbv ((List.range e.len).map fun i => if e.active i then (a i, b i) else (0, 0)) (c 0)
    first [w] fl
  | .arith .dot2Bf => e.each fun i => vecDot2 e.nbv (a i) (b i) (c i)
  | .arith o => e.each fun i => o.elem e.rm e.ftz (a i) (b i) (c i)
  | .int o => e.each fun i => (o.elem (a i) (b i) (c i), 0)
  | .cmp o =>
    let xs := (List.range e.len).map fun i => o.holds e.ftz (a i) (b i)
    let n := xs.zipIdx.foldl (fun n x => if x.1.1 then n + 2 ^ x.2 else n) 0
    { elems := [], greg := some n, bytes := [], flags := xs.foldl (fun f x => f ||| x.2) 0 }
  | .red o =>
    let xs := ((List.range e.len).filter e.active).map fun i => (a i, i)
    let (ws, fl) := o.result e.nbv e.ftz xs
    first ws fl
  | .sfu o => e.each fun i => o.elem e.ftz (a i)
  | .perm .mov => e.each fun i => (a i, 0)
  | .perm .splat => e.each fun _ => (e.val.truncate 32, 0)
  | .perm .movs => { elems := [], greg := some (a e.val.toNat).toNat, bytes := [], flags := 0 }
  | .perm .sel => { e with mask := none }.each fun i => (if e.active i then a i else b i, 0)
  | .perm .iota => e.each fun i => (BitVec.ofNat 32 i, 0)
  | .perm .idx => e.each fun i => (a ((b i).toNat % 256), 0)
  | .cvt o fc bl =>
    if fcBlock fc || fc == 18 then
      let (ws, fl) := cvtBlocks o fc bl ((List.range e.len).map a)
      first ws fl
    else e.each fun i => cvtElem o fc e.rm e.sat e.ftz (a i)
  | .stv n => { elems := [], greg := none, bytes := (List.range e.len).flatMap fun i => (leBytes n (a i).toNat).map some, flags := 0 }
  | .stf fc bl =>
    let (bs, fl) := encodeMem fc bl e.rm e.sat e.ftz ((List.range e.len).map a)
    { elems := [], greg := none, bytes := bs, flags := fl }

/-- Writes the bytes that are some at consecutive addresses. -/
def writeSome (s : State) (c : Nat) (tr : SMap Nat) (v : Nat) : List (Option Byte) → State
  | [] => s
  | b :: bs =>
    let s := match b with
      | some x => writeRange s c tr v [x]
      | none => s
    writeSome s c tr (v + 1) bs

/-- The runs of bytes that are some, split where places stop being consecutive, as held stores of a yoked pair (R372). -/
def heldRuns (s : State) (c : Nat) (tr : SMap Nat) (v : Nat) (bs : List (Option Byte)) : List BufStore :=
  (bs.zipIdx.foldl (fun (acc : List BufStore) x =>
    match x.1, placeOf s c tr (v + x.2) with
    | some b, some key =>
      match acc with
      | h :: t => if h.key + h.bytes.length = key ∧ h.va + h.bytes.length = v + x.2
          then { h with bytes := h.bytes ++ [b] } :: t else { va := v + x.2, key := key, bytes := [b] } :: acc
      | [] => [{ va := v + x.2, key := key, bytes := [b] }]
    | _, _ => acc) []).reverse

/-- The head entry of the sequencer. -/
def Core.vhead (k : Core) : Option VEntry :=
  match k.seqr with
  | .one e :: _ => some e
  | .block es i _ :: _ => es[i]?
  | [] => none

/-- Changes the head entry. -/
def updHead (f : VEntry → VEntry) : List SeqItem → List SeqItem
  | .one e :: r => .one (f e) :: r
  | .block es i left :: r => .block ((es.zipIdx).map fun x => if x.2 = i then f x.1 else x.1) i left :: r
  | [] => []

/-- The sequencer without its head entry; a block goes on to its next entry or repetition (R199). -/
def dropHead : List SeqItem → List SeqItem
  | .block es i left :: r =>
    if i + 1 < es.length then .block es (i + 1) left :: r
    else if 1 < left then .block (es.map fun e => { e with pops := [], again := true, left := e.slices }) 0 (left - 1) :: r
    else r
  | _ :: r => r
  | [] => []

/-- The pops of a later repetition of a block (R199): none while a ring holds too few entries; past the end of a pattern, or at an
entry that a pop would trap on, the stream keeps the error as a deferred one and the elements have no stated value (log 26). In count mode
the lowest invalid byte is counted once (R242). -/
def popsAgain (s : State) (c : Nat) (e : VEntry) : Option (SMap (List Word) × State) :=
  if !e.again then some (e.pops, s)
  else
    let trapMode := fld ((s.core c).ctl 0x020) 0 0 == 0
    (e.vsrcs.foldlM (fun (acc : SMap (List Word) × Option Nat × State) r =>
      let k := acc.2.2.core c
      match boundV k r, mfind acc.1 r with
      | some t, none =>
        let fail (d : DefErr) : SMap (List Word) × Option Nat × State :=
          (mput acc.1 r [], acc.2.1,
            acc.2.2.setCore c { k with streams := mput k.streams (r - 8) { t with err := some (t.err.getD d) } })
        if !t.rep ∧ t.total < t.pos + e.len then some (fail streamPastEnd)
        else if t.ring.length < e.len then none
        else
          let es : List RingEntry := t.ring.take e.len
          match ringRead trapMode es with
          | .ok m =>
            let t' : Stream := { t with ring := t.ring.drop e.len, pos := t.advance e.len }
            some (mput acc.1 r (es.map RingEntry.word), optMin acc.2.1 m, acc.2.2.setCore c { k with streams := mput k.streams (r - 8) t' })
          | .error (.trap x) => some (fail { cause := x.cause, acc := x.acc, val := x.val, data := x.data })
          | .error _ => none
      | _, _ => some acc) ([], none, s)).map fun (x : SMap (List Word) × Option Nat × State) =>
        (x.1, match x.2.1 with
          | some off => x.2.2.updCore c fun k => countUninit k off
          | none => x.2.2)

/-- Fingerprint record of a vector result that reaches memory (R211, R372); one that reaches general registers is recorded with the writes
of its packet. -/
def vecRecords (e : VEntry) (r : VResult) : List Byte :=
  let bs := r.bytes.filterMap id
  if bs = [] then [] else [3#8] ++ leBytes 8 e.addr ++ [BitVec.ofNat 8 bs.length] ++ bs

/-- CRC-64/ECMA-182 (R372): one bit, one byte most significant bit first, and a list of bytes. -/
def crcBit (r : Nat) : Nat :=
  if 2 ^ 63 ≤ r then Nat.xor (r * 2 % 2 ^ 64) 0x42F0E1EBA9EA3693 else r * 2
def crcByte (r : Nat) (b : Nat) : Nat := (List.range 8).foldl (fun r _ => crcBit r) (Nat.xor r (b * 2 ^ 56))
def crcBytes (r : Word) (bs : List Byte) : Word := BitVec.ofNat 64 (bs.foldl (fun r b => crcByte r b.toNat) r.toNat)

/-- Adds records to a pair's fingerprint, and to the partner's where a soft error made it differ. -/
def Yoke.record (y : Yoke) (bs : List Byte) : Yoke :=
  { y with fp := crcBytes y.fp bs, other := y.other.map fun w => crcBytes w bs }

/-- The bytes of a register write (R372). -/
def regBytes (k : Core) (r : Nat) : List Byte := [1#8, BitVec.ofNat 8 r] ++ leBytes 8 (mget 0 k.r.g r).toNat

/-- A record whose register writes have landed takes their values, before a later packet can write the registers. -/
def LateRec.settle (k : Core) (x : LateRec) : LateRec :=
  if x.regs.any k.pending then x else { x with regs := [], bytes := x.regs.flatMap (regBytes k) ++ x.bytes }

/-- Records the retired packets of a pair whose register writes and vector stores have all landed, oldest first (R211, R372). -/
def Core.flushLate (k : Core) : Core :=
  match k.yoke with
  | none => k
  | some y =>
    let xs := y.late.map (LateRec.settle k)
    let open_ (x : LateRec) : Bool := x.store || !x.regs.isEmpty
    { k with yoke := some { (xs.takeWhile fun x => !open_ x).foldl (fun y x => y.record x.bytes) y with late := xs.dropWhile fun x => !open_ x } }

/-- The i-th queued vector store that a record waits for has written its bytes, for the last time or not: they join its packet's record (R211). -/
def Yoke.stored (y : Yoke) (i : Nat) (last : Bool) (bs : List Byte) : Yoke :=
  match ((y.late.zipIdx.filter (·.1.store)).map (·.2))[i]? with
  | some j => { y with late := y.late.modify j fun x => { x with bytes := x.bytes ++ bs, store := !last } }
  | none => y

/-- An entry is a vector store. -/
def VEntry.isStore (e : VEntry) : Bool :=
  match e.op with
  | .stv _ => true
  | .stf _ _ => true
  | _ => false

/-- The vector stores that a core has accepted and not completed. -/
def Core.vstores (k : Core) : Nat := (k.ventries.filter VEntry.isStore).length

/-- The head of the sequencer, a vector store, has written its bytes. Stores that were accepted before the core was paired come first, and no
packet of the pair records them. -/
def Core.headStored (k : Core) (y : Yoke) (bs : List Byte) : Yoke :=
  let old := k.vstores - (y.late.filter (·.store)).length
  let (i, last) := match k.seqr.head? with
    | some (.block es n left) => (((es.take n).filter VEntry.isStore).length, decide (left ≤ 1))
    | _ => (0, true)
  if i < old then y else y.stored (i - old) last bs

/-- The current interval of a pair is over (R372). -/
def Yoke.ends (y : Yoke) : Bool := y.close || decide (256 ≤ y.ivpos ∨ 16 ≤ y.held.length)

/-- The head entry of core c's sequencer completes (R193, R194): none while it waits for a vector load, a ring or a lent cell. In a
yoked pair its stores outside own local memory are held, and an interval whose buffer lacks room ends first (R372). -/
def completeHead (s : State) (c : Nat) : Option State := do
  let k := s.core c
  let e ← k.vhead
  if k.vloading e.vregs then none
  else do
    let (ps, s1) ← popsAgain s c e
    let e' := { e with pops := ps }
    let r := e'.result (s1.core c) s1.freeCtr
    let lent := !r.bytes.isEmpty && windowOf e.addr == .ownLocal &&
      (span (e.addr - localBase) r.bytes.length).any fun a => k.lentAt a
    if lent then none
    else do
      let s2 := if ps.isEmpty then s1 else { s1 with freeCtr := s1.freeCtr + 1 }
      let s3 ← match e'.vdest with
        | some d => deliverV s2 c d e.len r.elems
        | none => some s2
      let s4 ← match e'.op, r.greg with
        | .perm .movs, some n => deliverG s3 c e.gd (BitVec.ofNat 64 n)
        | _, some n => e.gdests.zipIdx.foldlM (fun s x => deliverG s c x.1 (BitVec.ofNat 64 (n / 2 ^ (64 * x.2)))) s3
        | _, none => some s3
      let done (s : State) : State := s.updCore c fun k =>
        { orFlags k r.flags with
          -- After an entry without a slice, the next is eligible in the following clk (R85).
          seqr := if e.slices = 0 then updHead (fun x => { x with since := s.clk }) (dropHead k.seqr) else dropHead k.seqr
          yoke := k.yoke.map fun y => if e.isStore then k.headStored y (vecRecords e' r) else y }
      if r.bytes.isEmpty then some (done s4)
      else
        match (s4.core c).yoke with
        | some y =>
          if windowOf e.addr = .ownLocal then some (done (writeSome s4 c e.tr e.addr r.bytes))
          else
            let runs := heldRuns s4 c e.tr e.addr r.bytes
            if y.held.isEmpty ∨ y.held.length + runs.length ≤ 16 then
              some (done (s4.updCore c fun k => { k with yoke := some { y with held := y.held ++ runs } }))
            else if y.close then none
            else some (s.updCore c fun k => { k with yoke := k.yoke.map fun y => { y with close := true } })
        | none => some (done (writeSome s4 c e.tr e.addr r.bytes))

/-! ## The arbiter (R84, R85) -/

/-- The lanes that govern the slices of clk t: a CLAIM changes them from the clk after its own (R197). -/
def Core.lanesAt (k : Core) (now t : Nat) : Nat := if t ≤ now then k.lanesWas.getD k.r.lanes else k.r.lanes

/-- The head entry of core c has a slice that may issue by clk t at the latest: it was accepted before t, the core holds lanes, and nothing
that the entry waits for is missing. -/
def sliceReady (s : State) (c t : Nat) : Bool :=
  let k := s.core c
  match k.vhead with
  | some e => decide (0 < e.left ∧ e.since < t ∧ 0 < k.lanesAt s.clk t) && !k.vloading e.vregs && (popsAgain s c e).isSome
  | none => false

/-- Inserts a core into an order by credit, highest first, after those of equal credit. -/
def byCredit (key : Nat → Int) (c : Nat) : List Nat → List Nat
  | [] => [c]
  | d :: ds => if key d < key c then c :: d :: ds else d :: byCredit key c ds

/-- One clk of fold f's arbiter (R85): credits rise, the order is made, groups are taken down it, and the winner pays. -/
def arbiterClk (s : State) (f : Nat) : State :=
  let v := s.fold f
  let el := (span (8 * f) 8).filter fun c => sliceReady s c s.clk
  let w (c : Nat) : Nat := fld ((s.core c).ctl 0x013) 3 0 + 1
  let credit (c : Nat) : Int := (mget 0 v.credits (c % 8) : Int) + Int.ofNat (w c)
  let late := el.filter fun c => decide (127 ≤ mget 0 v.lagging (c % 8))
  let order := late ++ (el.filter fun c => !late.contains c).foldl (fun o c => byCredit credit c o) []
  let total := (el.map w).foldl (· + ·) 0
  let first := order.head?
  let pay (c : Nat) : Int := credit c - (if some c = first then Int.ofNat total else 0)
  let s := (order.foldl (fun (acc : Nat × State) c =>
    let k := acc.2.core c
    let n := min (min (k.lanesAt s.clk s.clk) ((k.vhead.map (·.left)).getD 0)) acc.1
    (acc.1 - n, acc.2.setCore c { k with seqr := updHead (fun e => { e with left := e.left - n }) k.seqr })) (8, s)).2
  s.setFold f { s.fold f with
    credits := el.foldl (fun m c => mset 0 m (c % 8) (pay c)) v.credits
    lagging := el.foldl (fun m c => if some c = first then m else mput m (c % 8) (mget 0 v.lagging (c % 8) + 1)) [] }

/-- The folds whose arbiter has work by clk t. -/
def busyFolds (s : State) (t : Nat) : List Nat :=
  (s.cores.filter fun x => sliceReady s x.1 t).foldl (fun fs x => if fs.contains (foldOf x.1) then fs else fs ++ [foldOf x.1]) []

/-- A fold whose arbiter finds no core eligible: no core has been eligible without being first (R85). -/
def restFolds (s : State) (busy : List Nat) : State :=
  { s with folds := s.folds.map fun x => if busy.contains x.1 then x else (x.1, { x.2 with lagging := [] }) }

/-- Clk that pass: CLAIMs of the present one govern the next (R197), and cores issue anew. -/
def State.tick (s : State) (n : Nat) : State :=
  { s with clk := s.clk + n, issued := [], cores := s.cores.map fun x => if x.2.lanesWas.isNone then x else (x.1, { x.2 with lanesWas := none }) }

/-- A core may issue by itself: it runs a unit or routine, it is no partner of a pair, its pair awaits no decision, and its gang is not
being rolled back (R368, R373). A management core holds none: it issues when the agenda names it (log 23). -/
def mayIssue (s : State) (c : Nat) : Bool :=
  let k := s.core c
  match k.occ with
  | none => false
  | some o => o.running && k.partnerOf.isNone && !(o.flagged && (s.part o.part).contrec.any fun x => x.blk == o.blk) &&
    (match k.yoke with
      | some y => decide (y.state ≠ 3) && !y.ends
      | none => true)

/-- Core c has had its turn in this clk: it has issued a packet or tried to, or it may not issue (R88). -/
def State.hadTurn (s : State) (c : Nat) : Bool := s.issued.contains c || !mayIssue s c

/-- At most `n` clk pass: until the arbiters have issued the last slice of some entry, which then completes (R85), else all of them. At most
`fuel` clk are worked out one by one. -/
def passClks : Nat → Nat → State → State
  | 0, n, s => s.tick n
  | _, 0, s => s
  | fuel + 1, n + 1, s =>
    if (busyFolds s (s.clk + 1)).isEmpty then
      (restFolds s []).tick (n + 1)
    else
      let fs := busyFolds s s.clk
      let s := (fs.foldl arbiterClk (restFolds s fs)).tick 1
      if s.cores.any fun x => x.2.vhead.any fun e => decide (e.left = 0) then s else passClks fuel n s

/-- Time passes, at most n clk. In each clk some arbiter issues a slice, or one is ready in the next, or none is until an event: the slices
that are left bound the clk to be worked out. -/
def State.advance (s : State) (n : Nat) : State :=
  let left := s.cores.foldl (fun a x => a + ((x.2.vhead.map (·.left)).getD 0)) 0
  passClks (left + 1) n s

/-- VECTOR_ENTRY_COMPLETE of core c: every slice of its head entry has issued (R85). In each clk the packet comes first, so that one
that needs the entry's result stalls and is counted, at every relative speed (R195, R379). -/
def execVectorEntryComplete (c : Nat) (s : State) : Host.Outcome State Fault Refusal :=
  match completeHead s c with
  | some s' => event s (s.hadTurn c && (s.core c).vhead.any fun e => decide (e.left = 0)) s'
  | none => event s false s

/-! ## Lanes and vector length -/

/-- Other cores of the fold that hold lanes (R82). -/
def otherHolders (s : State) (c : Nat) : Nat :=
  ((span (8 * foldOf c) 8).filter fun x => x != c && decide (1 ≤ (s.core x).r.lanes)).length

/-- The grant for a request of r lanes (R82, R83). -/
def grantOf (s : State) (c r : Nat) : Nat := min ((r + 31) / 32) (8 - otherHolders s c)

/-- A partner that joins a pair has a grant of its own for the request copied to it (R83, R211, R371). -/
def grantPartner (s : State) (c r : Nat) : State :=
  if (s.core c).yoke.isSome then
    let d := partnerCore c
    s.updCore d fun k => { k with r := { k.r with lanes := grantOf s d r, lastReq := r } }
  else s

/-- Core c claims lanes for r elements, which govern its slices from the next clk (R197). -/
def claimLanes (r : Nat) (s : State) (c : Nat) : State :=
  s.updCore c fun k => { k with lanesWas := some (k.lanesWas.getD k.r.lanes), r := { k.r with lanes := grantOf s c r, lastReq := r } }

/-- The cores that execute a CLAIM of core c: both of a pair, in increasing core index (R197, R211). -/
def claimers (s : State) (c : Nat) : List Nat := if (s.core c).yoke.isSome then [c / 2 * 2, c / 2 * 2 + 1] else [c]

/-- CLAIM (R197): lanes for the core; in a compute routine rd gets the request rounded up, not the grant. The request is read as signed
(log 106). In a pair each core claims for itself (R211). -/
def execClaim (_ : Lit) (d a : BitVec 5) (i : BitVec 15) (s : State) : Host.Outcome State Fault Refusal :=
  settle s (withRegs s [a.toNat] [d.toNat] fun s' => do
    need (!s.pre.capOpen) (trapC cILLEGAL)
    let r := (gval s a.toNat + i.signExtend 64).toInt
    need (decide (1 ≤ r ∧ r ≤ 256)) (trapC cILLEGAL)
    let s2 := (claimers s' s.cur).foldl (claimLanes r.toNat) s'
    let v := if s.me.inCompute then 32 * min ((r.toNat + 31) / 32) 8 else 32 * s2.me.r.lanes
    setG s2 d.toNat (BitVec.ofNat 64 v))

/-- VSETL (R198): VL := ra as signed, clamped to 0 … 256. -/
def execVsetl (_ : Lit) (d a : BitVec 5) (s : State) : Host.Outcome State Fault Refusal :=
  settle s (withRegs s [a.toNat] [d.toNat] fun s' => do
    need (!s.pre.capOpen) (trapC cILLEGAL)
    let n := (max 0 (min 256 (gval s a.toNat).toInt)).toNat
    setG (s'.updMe fun k => { k with r := { k.r with vl := n } }) d.toNat (BitVec.ofNat 64 n))

/-- VSETLI (R198): VL := n. -/
def execVsetli (_ : Lit) (d : BitVec 5) (n : BitVec 9) (s : State) : Host.Outcome State Fault Refusal :=
  settle s (withRegs s [] [d.toNat] fun s' => do
    need (decide (n.toNat ≤ 256) && !s.pre.capOpen) (trapC cILLEGAL)
    setG (s'.updMe fun k => { k with r := { k.r with vl := n.toNat } }) d.toNat (n.zeroExtend 64))

/-- VREP (R198, R199): opens a capture of the next n + 1 vector instructions, to run ra times. A suspended capture is open too
(log 28). -/
def execVrep (_ : Lit) (a : BitVec 5) (n : BitVec 4) (s : State) : Host.Outcome State Fault Refusal :=
  settle s (withRegs s [a.toNat] [] fun s' => do
    let c := (gval s a.toNat).toNat
    need (decide (1 ≤ c ∧ c < 2 ^ 32) && s.pre.vcap.isNone) (trapC cILLEGAL)
    .ok (s'.updMe fun k => { k with vcap := some { left := n.toNat + 1, count := c, entries := [], suspended := false } }))

/-- VDRAIN (R198): waits until every accepted entry has completed. In a yoked pair an STV or STF has completed once its bytes are held for the
end of the interval (log 121). -/
def execVdrain (_ : Lit) (s : State) : Host.Outcome State Fault Refusal :=
  settle s (do
    need (!s.pre.capOpen) (trapC cILLEGAL)
    need s.me.seqr.isEmpty (.stall s)
    .ok s)

/-! ## Vector loads and stores -/

/-- The address of a vector access (R200, R187): TAG for a set tag bit or a range that leaves 48 bits; with L = 0 no range check
(R192). -/
def vecAddr (p : Word) (off : Int) (bytes : Nat) : Res Int :=
  let v : Int := ((fld p 47 0 : Nat) : Int) + off
  if fld p 53 48 ≠ 0 ∨ (bytes ≠ 0 ∧ (v < 0 ∨ (2 : Int) ^ 48 < v + (bytes : Int))) then .error (trapC cTAG) else .ok v

/-- MISALIGN of a vector access (R200). -/
def vecAlign (v : Int) (al : Nat) (write : Bool) : Res Unit :=
  need (decide (v % (al : Int) = 0)) (trapA cMISALIGN write (v % 2 ^ 48).toNat)

/-- A wait at the bytes of a vector access; an address with a set tag bit or out of 48 bits, and L = 0, name none (R98, R192). -/
def atVec (p : Word) (off : Int) (bytes : Nat) (w : Nat → Res Unit) : Res Unit :=
  match vecAddr p off bytes with
  | .ok v => if bytes = 0 then .ok () else w v.toNat
  | .error _ => .ok ()

/-- The waits of a vector load of `bytes` bytes at v into vd before it issues (R98, R156, R193, R201, R220, R269, R329). -/
def vecLoadWait (s : State) (d v bytes : Nat) : Res Unit := do
  let c := s.cur
  let k := s.me
  let r : Span := (v, bytes)
  need (decide (k.loads.length < 16)) .hold
  need (!(k.vnames d) && !(k.vloading [d]) && !(k.blocked s c r) && !(k.fenced clsR [r]) && !(k.unheld.storesMeet s c [r])) .hold

/-- A vector load of `bytes` bytes at v into vd (R200, R187): own local memory at once, other places as an outstanding load. `deliver`
gives the elements and flags of the bytes read. -/
def vecLoad (s s' : State) (d : Nat) (v bytes : Nat) (kind : LoadKind) (deliver : List Byte → List (Option Word32) × Flags) :
    Res State := do
  let c := s.cur
  let r : Span := (v, bytes)
  vecLoadWait s' d v bytes
  let (tr, s1) ← checkRange s' c v bytes false s.det
  vroom s s1 d s.pre.r.vl
  if windowOf v = .ownLocal then
    let (ws, fl) := deliver (localBytes s1 c (v - localBase) bytes)
    let s2 := countRead s1 c [r]
    match deliverV (s2.updMe fun k => orFlags k fl) c d s.pre.r.vl ws with
    | some s3 => .ok s3
    | none => .error .hold
  else
    let l : Load := { kind := kind, va := v, key := (placeOf s1 c tr v).getD 0, tr := tr, size := bytes, rd := d, escape := false, since := s.clk }
    .ok (s1.updMe fun k => { k with loads := k.loads ++ [l] })

/-- LDV (R200). -/
def execLdv (_ : Lit) (d : BitVec 4) (a : BitVec 5) (z : BitVec 2) (x : BitVec 1) (o : BitVec 12) (s : State) :
    Host.Outcome State Fault Refusal :=
  settle s (do
    let n : Nat := 2 ^ z.toNat
    let len := s.pre.r.vl
    need (decide (z ≠ 3 ∧ (x = 0 ∨ z ≠ 2))) (trapC cILLEGAL)
    withChecked s [a.toNat] [] (do
      atVec (gval s a.toNat) (o.toInt * (n : Int)) (n * len) fun v => vecLoadWait s d.toNat v (n * len)
      need (!s.pre.capOpen) (trapC cILLEGAL)) fun s' => do
      let v ← vecAddr (gval s a.toNat) (o.toInt * (n : Int)) (n * len)
      vecAlign v n false
      if len = 0 then .ok s'
      else vecLoad s s' d.toNat v.toNat (n * len) (.vec n (x == 1) len) fun bs => (ldvElems n (x == 1) bs, 0))

/-- The format of an LDF or STF pointer (R187): TAG for raw or a format R163 rejects. -/
def vecFmt (s : State) (p : Word) : Res Unit :=
  need (decide (fld p 53 48 = 0) && decide (ptrFc p ≠ 0) && fcOk (s.part (corePart s s.cur)).facc (ptrFc p) (ptrBl p)) (trapC cTAG)

/-- LDF (R187). -/
def execLdf (_ : Lit) (d : BitVec 4) (a : BitVec 5) (o : BitVec 12) (s : State) : Host.Outcome State Fault Refusal :=
  settle s (do
    let len := s.pre.r.vl
    let p := gval s a.toNat
    withChecked s [a.toNat] [] (do
      atVec p (o.toInt * 4) (fcBytes (ptrFc p) (ptrBl p) len) fun v => vecLoadWait s d.toNat v (fcBytes (ptrFc p) (ptrBl p) len)
      need (!s.pre.capOpen) (trapC cILLEGAL)) fun s' => do
      vecFmt s p
      let fc := ptrFc p
      let bl := ptrBl p
      let n := fcBytes fc bl len
      let v ← vecAddr p (o.toInt * 4) n
      vecAlign v (fcAlign fc) false
      if len = 0 then .ok s'
      else vecLoad s s' d.toNat v.toNat n (.vecf fc bl len (fpcFtz s.pre)) fun bs =>
        let (ws, fl) := decodeMem fc bl (fpcFtz s.pre) bs len
        (ws.map some, fl))

/-- The waits of a vector store of `bytes` bytes at v before it issues (R98, R156, R193, R201, R220, R269, R326, R329). -/
def vecStoreWait (s : State) (v bytes : Nat) : Res Unit := do
  let c := s.cur
  let k := s.me
  let sp : Span := (v, bytes)
  need (!(k.blocked s c sp) && !(k.fenced clsW [sp]) && !(k.unheld.storesMeet s c [sp]) && !(k.loadsMeet s c sp)) .hold

/-- A vector store of bytes at v becomes an entry (R200, R187): every check at issue, the bytes at the head of the queue. -/
def vecStore (s s' : State) (op : VOp) (r : Nat) (v : Int) (bytes : Nat) : Res State := do
  let c := s.cur
  let e := entryOf s.pre op 0 r 0 0
  if bytes = 0 then acceptEntry s s' e
  else do
    let v := v.toNat
    vecStoreWait s' v bytes
    let (tr, s1) ← checkRange s' c v bytes true s.det
    acceptEntry s s1 { e with addr := v, tr := tr }

/-- STV (R200). -/
def execStv (_ : Lit) (r : BitVec 4) (a : BitVec 5) (z : BitVec 2) (o : BitVec 12) (s : State) : Host.Outcome State Fault Refusal :=
  settle s (do
    let n : Nat := 2 ^ z.toNat
    need (decide (z ≠ 3)) (trapC cILLEGAL)
    withChecked s [a.toNat] [] (do
      need s.me.vroomy .hold
      atVec (gval s a.toNat) (o.toInt * (n : Int)) (n * s.pre.r.vl) fun v => vecStoreWait s v (n * s.pre.r.vl)
      need (decide (s.pre.r.lanes ≠ 0) && !s.pre.capOpen) (trapC cILLEGAL)) fun s' => do
      let v ← vecAddr (gval s a.toNat) (o.toInt * (n : Int)) (n * s.pre.r.vl)
      vecAlign v n true
      vecStore s s' (.stv n) r.toNat v (n * s.pre.r.vl))

/-- STF (R187). -/
def execStf (_ : Lit) (r : BitVec 4) (a : BitVec 5) (o : BitVec 12) (s : State) : Host.Outcome State Fault Refusal :=
  settle s (do
    let p := gval s a.toNat
    let bytes := fcBytes (ptrFc p) (ptrBl p) s.pre.r.vl
    withChecked s [a.toNat] [] (do
      need s.me.vroomy .hold
      atVec p (o.toInt * 4) bytes fun v => vecStoreWait s v bytes
      need (decide (s.pre.r.lanes ≠ 0) && !s.pre.capOpen) (trapC cILLEGAL)) fun s' => do
      vecFmt s p
      let n := fcBytes (ptrFc p) (ptrBl p) s.pre.r.vl
      let v ← vecAddr p (o.toInt * 4) n
      vecAlign v (fcAlign (ptrFc p)) true
      vecStore s s' (.stf (ptrFc p) (ptrBl p)) r.toNat v n)

/-! ## The A-slot vector instructions -/

/-- VADD: va + vb (R203). -/
def execVadd (d a b : BitVec 4) (k : BitVec 5) (s : State) : Host.Outcome State Fault Refusal :=
  vecOp s (.arith .add) d.toNat a.toNat b.toNat 0 k.toNat id

/-- VSUB: va − vb (R203). -/
def execVsub (d a b : BitVec 4) (k : BitVec 5) (s : State) : Host.Outcome State Fault Refusal :=
  vecOp s (.arith .sub) d.toNat a.toNat b.toNat 0 k.toNat id

/-- VMUL: va × vb (R203). -/
def execVmul (d a b : BitVec 4) (k : BitVec 5) (s : State) : Host.Outcome State Fault Refusal :=
  vecOp s (.arith .mul) d.toNat a.toNat b.toNat 0 k.toNat id

/-- VDIV: va / vb (R203). -/
def execVdiv (d a b : BitVec 4) (k : BitVec 5) (s : State) : Host.Outcome State Fault Refusal :=
  vecOp s (.arith .div) d.toNat a.toNat b.toNat 0 k.toNat id

/-- VSQRT: √va (R203). -/
def execVsqrt (d a : BitVec 4) (k : BitVec 5) (s : State) : Host.Outcome State Fault Refusal :=
  vecOp s (.arith .sqrt) d.toNat a.toNat 0 0 k.toNat id

/-- VFMA: va × vb + vc (R203). -/
def execVfma (d a b c : BitVec 4) (k : BitVec 5) (s : State) : Host.Outcome State Fault Refusal :=
  vecOp s (.arith .fma) d.toNat a.toNat b.toNat c.toNat k.toNat id

/-- VFMS: va × vb − vc (R203). -/
def execVfms (d a b c : BitVec 4) (k : BitVec 5) (s : State) : Host.Outcome State Fault Refusal :=
  vecOp s (.arith .fms) d.toNat a.toNat b.toNat c.toNat k.toNat id

/-- VMIN: lesser (R203). -/
def execVmin (d a b : BitVec 4) (k : BitVec 5) (s : State) : Host.Outcome State Fault Refusal :=
  vecOp s (.arith .min) d.toNat a.toNat b.toNat 0 k.toNat id

/-- VMAX: greater (R203). -/
def execVmax (d a b : BitVec 4) (k : BitVec 5) (s : State) : Host.Outcome State Fault Refusal :=
  vecOp s (.arith .max) d.toNat a.toNat b.toNat 0 k.toNat id

/-- VABS: sign cleared (R203). -/
def execVabs (d a : BitVec 4) (k : BitVec 5) (s : State) : Host.Outcome State Fault Refusal :=
  vecOp s (.arith .abs) d.toNat a.toNat 0 0 k.toNat id

/-- VNEG: sign inverted (R203). -/
def execVneg (d a : BitVec 4) (k : BitVec 5) (s : State) : Host.Outcome State Fault Refusal :=
  vecOp s (.arith .neg) d.toNat a.toNat 0 0 k.toNat id

/-- VDOT: dot product into vd[0] (R203). -/
def execVdot (d a b c : BitVec 4) (k : BitVec 5) (s : State) : Host.Outcome State Fault Refusal :=
  vecOp s (.arith .dot) d.toNat a.toNat b.toNat c.toNat k.toNat id

/-- VADDBF2: sum of halves (R203). -/
def execVaddBf2 (d a b : BitVec 4) (k : BitVec 5) (s : State) : Host.Outcome State Fault Refusal :=
  vecOp s (.arith .addBf2) d.toNat a.toNat b.toNat 0 k.toNat id

/-- VMULBF2: product of halves (R203). -/
def execVmulBf2 (d a b : BitVec 4) (k : BitVec 5) (s : State) : Host.Outcome State Fault Refusal :=
  vecOp s (.arith .mulBf2) d.toNat a.toNat b.toNat 0 k.toNat id

/-- VFMABF2: fused sum of halves (R203). -/
def execVfmaBf2 (d a b c : BitVec 4) (k : BitVec 5) (s : State) : Host.Outcome State Fault Refusal :=
  vecOp s (.arith .fmaBf2) d.toNat a.toNat b.toNat c.toNat k.toNat id

/-- VDOT2BF: dot product of halves (R203). -/
def execVdot2Bf (d a b c : BitVec 4) (k : BitVec 5) (s : State) : Host.Outcome State Fault Refusal :=
  vecOp s (.arith .dot2Bf) d.toNat a.toNat b.toNat c.toNat k.toNat id

/-- VIADD: sum (R205). -/
def execViadd (d a b : BitVec 4) (k : BitVec 5) (s : State) : Host.Outcome State Fault Refusal :=
  vecOp s (.int .add) d.toNat a.toNat b.toNat 0 k.toNat id

/-- VISUB: difference (R205). -/
def execVisub (d a b : BitVec 4) (k : BitVec 5) (s : State) : Host.Outcome State Fault Refusal :=
  vecOp s (.int .sub) d.toNat a.toNat b.toNat 0 k.toNat id

/-- VIMUL: low product (R205). -/
def execVimul (d a b : BitVec 4) (k : BitVec 5) (s : State) : Host.Outcome State Fault Refusal :=
  vecOp s (.int .mul) d.toNat a.toNat b.toNat 0 k.toNat id

/-- VIMULH: high signed product (R205). -/
def execVimulh (d a b : BitVec 4) (k : BitVec 5) (s : State) : Host.Outcome State Fault Refusal :=
  vecOp s (.int .mulh) d.toNat a.toNat b.toNat 0 k.toNat id

/-- VIAND: AND (R205). -/
def execViand (d a b : BitVec 4) (k : BitVec 5) (s : State) : Host.Outcome State Fault Refusal :=
  vecOp s (.int .and) d.toNat a.toNat b.toNat 0 k.toNat id

/-- VIOR: OR (R205). -/
def execVior (d a b : BitVec 4) (k : BitVec 5) (s : State) : Host.Outcome State Fault Refusal :=
  vecOp s (.int .or) d.toNat a.toNat b.toNat 0 k.toNat id

/-- VIXOR: XOR (R205). -/
def execVixor (d a b : BitVec 4) (k : BitVec 5) (s : State) : Host.Outcome State Fault Refusal :=
  vecOp s (.int .xor) d.toNat a.toNat b.toNat 0 k.toNat id

/-- VISLL: left shift (R205). -/
def execVisll (d a b : BitVec 4) (k : BitVec 5) (s : State) : Host.Outcome State Fault Refusal :=
  vecOp s (.int .sll) d.toNat a.toNat b.toNat 0 k.toNat id

/-- VISRL: right shift, zeros in (R205). -/
def execVisrl (d a b : BitVec 4) (k : BitVec 5) (s : State) : Host.Outcome State Fault Refusal :=
  vecOp s (.int .srl) d.toNat a.toNat b.toNat 0 k.toNat id

/-- VISRA: right shift, sign in (R205). -/
def execVisra (d a b : BitVec 4) (k : BitVec 5) (s : State) : Host.Outcome State Fault Refusal :=
  vecOp s (.int .sra) d.toNat a.toNat b.toNat 0 k.toNat id

/-- VIMIN: signed minimum (R205). -/
def execVimin (d a b : BitVec 4) (k : BitVec 5) (s : State) : Host.Outcome State Fault Refusal :=
  vecOp s (.int .min) d.toNat a.toNat b.toNat 0 k.toNat id

/-- VIMAX: signed maximum (R205). -/
def execVimax (d a b : BitVec 4) (k : BitVec 5) (s : State) : Host.Outcome State Fault Refusal :=
  vecOp s (.int .max) d.toNat a.toNat b.toNat 0 k.toNat id

/-- VIMINU: unsigned minimum (R205). -/
def execViminu (d a b : BitVec 4) (k : BitVec 5) (s : State) : Host.Outcome State Fault Refusal :=
  vecOp s (.int .minu) d.toNat a.toNat b.toNat 0 k.toNat id

/-- VIMAXU: unsigned maximum (R205). -/
def execVimaxu (d a b : BitVec 4) (k : BitVec 5) (s : State) : Host.Outcome State Fault Refusal :=
  vecOp s (.int .maxu) d.toNat a.toNat b.toNat 0 k.toNat id

/-- VIADDS: clamped sum (R205). -/
def execViadds (d a b : BitVec 4) (k : BitVec 5) (s : State) : Host.Outcome State Fault Refusal :=
  vecOp s (.int .adds) d.toNat a.toNat b.toNat 0 k.toNat id

/-- VISUBS: clamped difference (R205). -/
def execVisubs (d a b : BitVec 4) (k : BitVec 5) (s : State) : Host.Outcome State Fault Refusal :=
  vecOp s (.int .subs) d.toNat a.toNat b.toNat 0 k.toNat id

/-- VIMAC: va × vb + vc (R205). -/
def execVimac (d a b c : BitVec 4) (k : BitVec 5) (s : State) : Host.Outcome State Fault Refusal :=
  vecOp s (.int .mac) d.toNat a.toNat b.toNat c.toNat k.toNat id

/-- VIDOT4: dot product of bytes into vc (R205). -/
def execVidot4 (d a b c : BitVec 4) (k : BitVec 5) (s : State) : Host.Outcome State Fault Refusal :=
  vecOp s (.int .dot4) d.toNat a.toNat b.toNat c.toNat k.toNat id

/-- VIABS: magnitude, clamped (R205). -/
def execViabs (d a : BitVec 4) (k : BitVec 5) (s : State) : Host.Outcome State Fault Refusal :=
  vecOp s (.int .abs) d.toNat a.toNat 0 0 k.toNat id

/-- VCMP.FEQ (R206). -/
def execVcmpFeq (a b : BitVec 4) (d : BitVec 5) (s : State) : Host.Outcome State Fault Refusal :=
  vecCmp s .feq a.toNat b.toNat d.toNat

/-- VCMP.FNE (R206). -/
def execVcmpFne (a b : BitVec 4) (d : BitVec 5) (s : State) : Host.Outcome State Fault Refusal :=
  vecCmp s .fne a.toNat b.toNat d.toNat

/-- VCMP.FLT (R206). -/
def execVcmpFlt (a b : BitVec 4) (d : BitVec 5) (s : State) : Host.Outcome State Fault Refusal :=
  vecCmp s .flt a.toNat b.toNat d.toNat

/-- VCMP.FLE (R206). -/
def execVcmpFle (a b : BitVec 4) (d : BitVec 5) (s : State) : Host.Outcome State Fault Refusal :=
  vecCmp s .fle a.toNat b.toNat d.toNat

/-- VCMP.FUN (R206). -/
def execVcmpFun (a b : BitVec 4) (d : BitVec 5) (s : State) : Host.Outcome State Fault Refusal :=
  vecCmp s .fun a.toNat b.toNat d.toNat

/-- VCMP.IEQ (R206). -/
def execVcmpIeq (a b : BitVec 4) (d : BitVec 5) (s : State) : Host.Outcome State Fault Refusal :=
  vecCmp s .ieq a.toNat b.toNat d.toNat

/-- VCMP.INE (R206). -/
def execVcmpIne (a b : BitVec 4) (d : BitVec 5) (s : State) : Host.Outcome State Fault Refusal :=
  vecCmp s .ine a.toNat b.toNat d.toNat

/-- VCMP.ILT (R206). -/
def execVcmpIlt (a b : BitVec 4) (d : BitVec 5) (s : State) : Host.Outcome State Fault Refusal :=
  vecCmp s .ilt a.toNat b.toNat d.toNat

/-- VCMP.ILE (R206). -/
def execVcmpIle (a b : BitVec 4) (d : BitVec 5) (s : State) : Host.Outcome State Fault Refusal :=
  vecCmp s .ile a.toNat b.toNat d.toNat

/-- VCMP.ILTU (R206). -/
def execVcmpIltu (a b : BitVec 4) (d : BitVec 5) (s : State) : Host.Outcome State Fault Refusal :=
  vecCmp s .iltu a.toNat b.toNat d.toNat

/-- VCMP.ILEU (R206). -/
def execVcmpIleu (a b : BitVec 4) (d : BitVec 5) (s : State) : Host.Outcome State Fault Refusal :=
  vecCmp s .ileu a.toNat b.toNat d.toNat

/-- VRSUM: FP32 sum in the shape of the level (R207, R208). -/
def execVrsum (d a : BitVec 4) (k : BitVec 5) (s : State) : Host.Outcome State Fault Refusal :=
  vecOp s (.red .sum) d.toNat a.toNat 0 0 k.toNat id

/-- VRMAX: greatest (R207, R208). -/
def execVrmax (d a : BitVec 4) (k : BitVec 5) (s : State) : Host.Outcome State Fault Refusal :=
  vecOp s (.red .max) d.toNat a.toNat 0 0 k.toNat id

/-- VRMIN: least (R207, R208). -/
def execVrmin (d a : BitVec 4) (k : BitVec 5) (s : State) : Host.Outcome State Fault Refusal :=
  vecOp s (.red .min) d.toNat a.toNat 0 0 k.toNat id

/-- VRAMAX: greatest magnitude (R207, R208). -/
def execVramax (d a : BitVec 4) (k : BitVec 5) (s : State) : Host.Outcome State Fault Refusal :=
  vecOp s (.red .amax) d.toNat a.toNat 0 0 k.toNat id

/-- VMAXI: greatest and its index (R207, R208). -/
def execVmaxi (d a : BitVec 4) (k : BitVec 5) (s : State) : Host.Outcome State Fault Refusal :=
  vecOp s (.red .maxi) d.toNat a.toNat 0 0 k.toNat id

/-- VMINI: least and its index (R207, R208). -/
def execVmini (d a : BitVec 4) (k : BitVec 5) (s : State) : Host.Outcome State Fault Refusal :=
  vecOp s (.red .mini) d.toNat a.toNat 0 0 k.toNat id

/-- VRISUM: wrapping sum (R207, R208). -/
def execVrisum (d a : BitVec 4) (k : BitVec 5) (s : State) : Host.Outcome State Fault Refusal :=
  vecOp s (.red .isum) d.toNat a.toNat 0 0 k.toNat id

/-- VRIMAX: signed greatest (R207, R208). -/
def execVrimax (d a : BitVec 4) (k : BitVec 5) (s : State) : Host.Outcome State Fault Refusal :=
  vecOp s (.red .imax) d.toNat a.toNat 0 0 k.toNat id

/-- VRIMIN: signed least (R207, R208). -/
def execVrimin (d a : BitVec 4) (k : BitVec 5) (s : State) : Host.Outcome State Fault Refusal :=
  vecOp s (.red .imin) d.toNat a.toNat 0 0 k.toNat id

/-- VRIMAXU: unsigned greatest (R207, R208). -/
def execVrimaxu (d a : BitVec 4) (k : BitVec 5) (s : State) : Host.Outcome State Fault Refusal :=
  vecOp s (.red .imaxu) d.toNat a.toNat 0 0 k.toNat id

/-- VRIMINU: unsigned least (R207, R208). -/
def execVriminu (d a : BitVec 4) (k : BitVec 5) (s : State) : Host.Outcome State Fault Refusal :=
  vecOp s (.red .iminu) d.toNat a.toNat 0 0 k.toNat id

/-- VRAND: AND (R207, R208). -/
def execVrand (d a : BitVec 4) (k : BitVec 5) (s : State) : Host.Outcome State Fault Refusal :=
  vecOp s (.red .and) d.toNat a.toNat 0 0 k.toNat id

/-- VROR: OR (R207, R208). -/
def execVror (d a : BitVec 4) (k : BitVec 5) (s : State) : Host.Outcome State Fault Refusal :=
  vecOp s (.red .or) d.toNat a.toNat 0 0 k.toNat id

/-- VRXOR: XOR (R207, R208). -/
def execVrxor (d a : BitVec 4) (k : BitVec 5) (s : State) : Host.Outcome State Fault Refusal :=
  vecOp s (.red .xor) d.toNat a.toNat 0 0 k.toNat id

/-- VEXP2 (R209). -/
def execVexp2 (d a : BitVec 4) (k : BitVec 5) (s : State) : Host.Outcome State Fault Refusal :=
  vecOp s (.sfu .exp2) d.toNat a.toNat 0 0 k.toNat id

/-- VEXPE (R209). -/
def execVexpe (d a : BitVec 4) (k : BitVec 5) (s : State) : Host.Outcome State Fault Refusal :=
  vecOp s (.sfu .expe) d.toNat a.toNat 0 0 k.toNat id

/-- VLOG2 (R209). -/
def execVlog2 (d a : BitVec 4) (k : BitVec 5) (s : State) : Host.Outcome State Fault Refusal :=
  vecOp s (.sfu .log2) d.toNat a.toNat 0 0 k.toNat id

/-- VRCP (R209). -/
def execVrcp (d a : BitVec 4) (k : BitVec 5) (s : State) : Host.Outcome State Fault Refusal :=
  vecOp s (.sfu .rcp) d.toNat a.toNat 0 0 k.toNat id

/-- VRSQ (R209). -/
def execVrsq (d a : BitVec 4) (k : BitVec 5) (s : State) : Host.Outcome State Fault Refusal :=
  vecOp s (.sfu .rsq) d.toNat a.toNat 0 0 k.toNat id

/-- VMOV (R210). -/
def execVmov (d a : BitVec 4) (k : BitVec 5) (s : State) : Host.Outcome State Fault Refusal :=
  vecOp s (.perm .mov) d.toNat a.toNat 0 0 k.toNat id

/-- VSPLAT (R210): the value of gs is captured. -/
def execVsplat (d : BitVec 4) (g : BitVec 5) (s : State) : Host.Outcome State Fault Refusal :=
  settle s (withRegs s [g.toNat] [] fun s' =>
    acceptEntry s s' { entryOf s.pre (.perm .splat) d.toNat 0 0 0 with val := gval s g.toNat })

/-- VMOVS (R210): va[idx] to gd through the sequencer's return path; ILLEGAL in an open capture (R199), STREAM past the end of a
write stream, held while its ring is full (R279). -/
def execVmovs (a : BitVec 4) (i : BitVec 8) (g : BitVec 5) (s : State) : Host.Outcome State Fault Refusal :=
  settle s (withRegs s [] [g.toNat] fun s' => do
    need s'.me.vroomy .hold
    need (!s'.me.capOpen) (trapC cILLEGAL)
    match boundG s.pre g.toNat with
    | some t =>
      need (t.writes && (t.rep || decide (t.pos + 1 ≤ t.total))) (trapC cSTREAM)
      need (decide (t.ring.length + 1 ≤ t.room)) .hold
    | none => .ok ()
    acceptEntry s s' { entryOf s.pre (.perm .movs) 0 a.toNat 0 0 with gd := g.toNat, val := i.zeroExtend 64 })

/-- VSEL (R210). -/
def execVsel (d a b : BitVec 4) (k : BitVec 5) (s : State) : Host.Outcome State Fault Refusal :=
  vecOp s (.perm .sel) d.toNat a.toNat b.toNat 0 k.toNat id

/-- VIOTA (R210). -/
def execViota (d : BitVec 4) (k : BitVec 5) (s : State) : Host.Outcome State Fault Refusal :=
  vecOp s (.perm .iota) d.toNat 0 0 0 k.toNat id

/-- VIDX (R210). -/
def execVidx (d a b : BitVec 4) (k : BitVec 5) (s : State) : Host.Outcome State Fault Refusal :=
  vecOp s (.perm .idx) d.toNat a.toNat b.toNat 0 k.toNat id

/-- FC of a VCVT: bits 3:0 and bit 4 (R190). -/
def cvtFc (c : BitVec 4) (h : BitVec 1) : Nat := c.toNat + 16 * h.toNat

/-- An element conversion of VCVT (R190): ILLEGAL for an FC or a rounding outside its set. -/
def vecCvt (s : State) (o : VCvtOp) (d a fc r k : Nat) : Host.Outcome State Fault Refusal :=
  if (decide (2 ≤ fc ∧ fc ≤ 8) || fcInt fc) && decide (r ≤ 4) then
    vecOp s (.cvt o fc 0) d a 0 0 k fun e => { e with rm := rmField s.pre r }
  else settle s (.error (trapC cILLEGAL))

/-- A block conversion of VCVT (R190): ILLEGAL for a format that R163 or FACC rejects. -/
def vecCvtBlock (s : State) (o : VCvtOp) (d a fc bl : Nat) : Host.Outcome State Fault Refusal :=
  if fcOk (s.part (corePart s s.cur)).facc fc bl && (fcBlock fc || fc == 18) then vecOp s (.cvt o fc bl) d a 0 0 0 id
  else settle s (.error (trapC cILLEGAL))

/-- VNARROW (R190). -/
def execVnarrow (d a c : BitVec 4) (h : BitVec 1) (r : BitVec 3) (k : BitVec 5) (s : State) : Host.Outcome State Fault Refusal :=
  vecCvt s .narrow d.toNat a.toNat (cvtFc c h) r.toNat k.toNat

/-- VWIDEN (R190). -/
def execVwiden (d a c : BitVec 4) (h : BitVec 1) (r : BitVec 3) (k : BitVec 5) (s : State) : Host.Outcome State Fault Refusal :=
  vecCvt s .widen d.toNat a.toNat (cvtFc c h) r.toNat k.toNat

/-- VQRND (R190). -/
def execVqrnd (d a c : BitVec 4) (h : BitVec 1) (r : BitVec 3) (k : BitVec 5) (s : State) : Host.Outcome State Fault Refusal :=
  vecCvt s .qrnd d.toNat a.toNat (cvtFc c h) r.toNat k.toNat

/-- VMXQ (R190). -/
def execVmxq (d a c : BitVec 4) (h : BitVec 1) (l : BitVec 3) (s : State) : Host.Outcome State Fault Refusal :=
  vecCvtBlock s .mxq d.toNat a.toNat (cvtFc c h) (l.toNat + 3)

/-- VMXS (R190). -/
def execVmxs (d a c : BitVec 4) (h : BitVec 1) (l : BitVec 3) (s : State) : Host.Outcome State Fault Refusal :=
  vecCvtBlock s .mxs d.toNat a.toNat (cvtFc c h) (l.toNat + 3)

/-- VMXC (R190). -/
def execVmxc (d a c : BitVec 4) (h : BitVec 1) (l : BitVec 3) (s : State) : Host.Outcome State Fault Refusal :=
  vecCvtBlock s .mxc d.toNat a.toNat (cvtFc c h) (l.toNat + 3)

/-- VBALEQ (R190). -/
def execVbaleq (d a : BitVec 4) (s : State) : Host.Outcome State Fault Refusal := vecCvtBlock s .baleq d.toNat a.toNat 18 4

end Sys2Proof.Machine
end

