-- ==== Sys2Proof/Machine/Engines.lean ====
section
/-! DEFINITION. Engine queues and the accesses of engines (09 R218, R221, 11 R263, R264, R267): bindings, acceptance, deferred
errors, what an engine may address and read, and the resolution of its translation faults (15 R365). -/

namespace Sys2Proof.Machine

/-! ## Queues -/

/-- An empty queue. -/
def EQueue.none_ : EQueue := { entries := [], err := none }

/-- Queue q of a core. -/
def Core.queue (k : Core) (q : Nat) : EQueue := mget EQueue.none_ k.queues q

/-- ENGq of QMAP (R263): 0 unbound, 1 and 2 the copy engines, 3 the matrix engine. -/
def qmapEng (k : Core) (q : Nat) : Nat := fld (k.ctl 0x038) (4 * q + 3) (4 * q)

/-- A queue is full (R218): the spec gives no depth; a queue takes at least two entries (log 29). -/
def EQueue.full (e : EQueue) : Bool := decide (2 ≤ e.entries.length) && decide (Config.queueRoom + 2 ≤ e.entries.length)

/-- The wait for room in queue q, which comes before any trap of the instruction's own (R98). -/
def queueWait (s : State) (q : Nat) : Res Unit := need (!(s.me.queue q).full) .hold

/-- An instruction may enter queue q: held while it is full; a recorded cause is taken as a trap (R221, R264). -/
def enterQueue (s : State) (q : Nat) : Res Unit := do
  queueWait s q
  match (s.me.queue q).err with
  | some e => .error (e.trap q)
  | none => .ok ()

/-- An entry is accepted into queue q of the current core. -/
def pushEntry (s : State) (q : Nat) (e : QEntry) : State :=
  s.updMe fun k => { k with queues := mput k.queues q { k.queue q with entries := (k.queue q).entries ++ [e] } }

/-- The head entry of queue q of core c. -/
def headEntry (s : State) (c q : Nat) : Option QEntry := ((s.core c).queue q).entries.head?

/-- Sets the entries of queue q of core c. -/
def setEntries (s : State) (c q : Nat) (es : List QEntry) : State :=
  s.updCore c fun k => { k with queues := mput k.queues q { k.queue q with entries := es } }

/-- The head entry of queue q of core c has been performed. -/
def popEntry (s : State) (c q : Nat) : State :=
  (setEntries s c q ((s.core c).queue q).entries.tail).updCore c fun k => k.landed (reqQueue q)

/-- The head entry of queue q fails (R221): it and every later one are discarded, and the queue records the cause; ownership of an engine
may end with them (R213). -/
def failQueue (s : State) (c q : Nat) (d : DefErr) : State :=
  let es := ((s.core c).queue q).entries
  (entryFolds es).foldl releaseMatrix
    (s.updCore c fun k => { k.landed (reqQueue q) with queues := mput k.queues q { entries := [], err := some d } })

/-! ## Accesses -/

/-- How an engine's access fails: a translation fault, an error that ends the entry, or a wait for a lent cell (R256) or a down link (R402). -/
inductive EngFail where
  | fault (va : Nat) (write : Bool)
  | err (d : DefErr)
  | wait
  deriving DecidableEq, Repr

/-- An error at an address: its word (R347). -/
def engErr (cause : BitVec 8) (write : Bool) (v : Nat) : EngFail :=
  .err { cause := cause, acc := if write then 1 else 0, val := true, data := v / 4 * 4 % 2 ^ 48 }

/-- The cores of a launch (R50). -/
def Launch.ncores (l : Launch) : Nat := if l.map = [] then 8 * l.fcount else l.map.length

/-- The device core and offset that an address of the other-local window names for core c, where R239 allows it. -/
def otherLocal (s : State) (c v : Nat) : Option (Nat × Nat) :=
  match (s.core c).launchOf s with
  | none => none
  | some l =>
    let k := (v - peerBase) / 2 ^ 19
    let off := (v - peerBase) % 2 ^ 19
    if k < l.ncores ∧ off < l.lmem then some (launchCore s (corePart s c) l k, off) else none

/-- The window, range and store checks that a copy makes outside the global window (R267): `det` bars all but own local memory, `hit` are
the own local bytes that a store writes. -/
def copyWindow (s : State) (c v n : Nat) (write det : Bool) (hit : Nat → Bool) : Except EngFail Unit :=
  match windowOf v with
  | .ownLocal =>
    let k := s.core c
    let off := v - localBase
    if k.lmem s < off + n then .error (engErr cPERMISSION write v)
    else if write && (span off n).any fun a => hit a && k.marginAt a then .error (engErr cGHOST true (v / 4 * 4))
    else .ok ()
  | .common =>
    if det then .error (engErr cDETERM write v)
    else if commonSize s (corePart s c) < v - commonBase + n then .error (engErr cPERMISSION write v) else .ok ()
  | .otherLocal =>
    if det then .error (engErr cDETERM write v)
    else
      match otherLocal s c v, otherLocal s c (v + n - 1) with
      | some (d, off), some _ =>
        -- The core's own margins, under their name in this window.
        if write && d == c && (span off n).any fun a => hit a && (s.core c).marginAt a then .error (engErr cGHOST true (v / 4 * 4)) else .ok ()
      | _, _ => .error (engErr cPERMISSION write v)
  | .global => if det then .error (engErr cDETERM write v) else .ok ()
  | _ => .error (engErr (if det then cDETERM else cPERMISSION) write v)

/-- A failure of an engine check as the instruction's own trap at issue. -/
def EngFail.stop (s : State) (f : EngFail) : Stop :=
  match f with
  | .err d => .trap { cause := d.cause, acc := d.acc, val := d.val, data := d.data, deferred := none }
  | .fault _ _ => .hold
  | .wait => .stall s

/-- The checks of a copy's range at issue, with the translations kept (R267): the first failing word in address order decides. -/
def copyRange (s : State) (c v n : Nat) (write det : Bool) (hit : Nat → Bool) (tr : SMap Nat) : Res (SMap Nat × State) :=
  (parts 4 v n).foldlM (fun (acc : SMap Nat × State) (x : Nat × Nat) =>
    match copyWindow acc.2 c x.1 x.2 write det hit with
    | .error f => .error (f.stop acc.2)
    | .ok () =>
      if windowOf x.1 = .global then do
        let (e, s) ← translate acc.2 c (x.1 / 4 * 4) (if write then 1 else 0)
        need (e.w || !write) (trapA cPERMISSION true (x.1 / 4 * 4))
        need (physKey s (corePart s c) (e.key + (x.1 - e.base))).isSome (trapA cTRANSLATION write (x.1 / 4 * 4))
        .ok (mput acc.1 (pageOf x.1) (e.key + (pageOf x.1 * 2 ^ 16 - e.base)), s)
      else .ok acc) (tr, s)

/-- What an engine notes while it performs an entry: the translations of pages, the leaves it found for them, the readings of CRIT leaves
still to come, and TLB entries found with bad parity (R267, R364). -/
structure EngNotes where
  tr : SMap Nat
  leaves : SMap TlbEntry
  flips : List Bool
  bad : List TlbEntry
  deriving DecidableEq, Repr

/-- Steps of an engine that make notes and may fail. -/
abbrev EngM := ExceptT EngFail (StateM EngNotes)

/-- The notes of an entry that keeps some translations. -/
def EngNotes.start (s : State) (tr : SMap Nat) : EngNotes := { tr := tr, leaves := [], flips := s.flips, bad := [] }

/-- The state with what the notes of an entry of core c say done: bad TLB entries invalidated and counted, readings made (R364). -/
def EngNotes.apply (n : EngNotes) (s : State) (c : Nat) : State :=
  { s.updCore c fun k => { k with tlb := k.tlb.filter fun e => !n.bad.contains e } with
    flips := n.flips, tlbBad := s.tlbBad + n.bad.length }

/-- The leaf of a global address for the engine of core c, whose queue's request is i (R226, R267): from the core's TLB, else by a fresh walk,
whose result the engine keeps for the page while it performs the entry. -/
def engLeaf (s : State) (c i v : Nat) (write : Bool) : EngM TlbEntry := do
  let n ← get
  let k := s.core c
  let job := k.job s
  match mfind n.leaves (pageOf v) with
  | some e => return e
  | none =>
    match tlbFind (k.tlb.filter fun e => !n.bad.contains e) job v with
    | some e =>
      if !e.parity then
        set { n with leaves := mput n.leaves (pageOf v) e }
        return e
      else set { n with bad := e :: n.bad }
    | none => pure ()
    if !walkUp s c i v then throw .wait
    let (r, s') := critWalk { s with flips := n.flips } (corePart s c) job v
    modify fun n => { n with flips := s'.flips }
    match r with
    | .ok l =>
      let e := l.entry job v
      modify fun n => { n with leaves := mput n.leaves (pageOf v) e }
      return e
    | .error .unmapped => throw (.fault v write)
    | .error .uncorrectable => throw (engErr cUNCORR write v)

/-- The translation of a global address that an engine takes while it performs an entry (R226, R267), kept in its notes. -/
def engTranslate (s : State) (c i v : Nat) (write : Bool) : EngM Unit := do
  let p := corePart s c
  if isMgmt c then modify fun n => { n with tr := mput n.tr (pageOf v) (pageOf v * 2 ^ 16) }
  else
    let e ← engLeaf s c i v write
    if write && !e.w then throw (engErr cPERMISSION true v)
    match physKey s p (e.key + (v - e.base)) with
    | none => throw (engErr cTRANSLATION write v)
    | some key =>
      if !(s.mayGo c key (s.escaped c i)) then throw .wait
      modify fun n => { n with tr := mput n.tr (pageOf v) (e.key + (pageOf v * 2 ^ 16 - e.base)) }

/-- The local memory, core and offset, that an address names for core c. -/
def localOf (s : State) (c v : Nat) : Option (Nat × Nat) :=
  match windowOf v with
  | .ownLocal => some (c, v - localBase)
  | .otherLocal => otherLocal s c v
  | _ => none

/-- The judgement of the bytes of one word read at v (R267, R226): staleness under PDC mode `pm`, an invalid word under LMC mode `um`, the
check code; an error names the word (R347). -/
def engJudge (s : State) (c um pm : Nat) (tr : SMap Nat) (v n : Nat) : Except EngFail Unit :=
  let err (cause : BitVec 8) : Except EngFail Unit := .error (engErr cause false (v / 4 * 4))
  let stale := match localOf s c v with
    | some (d, off) => pm == 2 && (span off n).any fun a => ((s.core d).staleAt a).isSome
    | none => false
  let uninit := match localOf s c v with
    | some (d, off) => um == 0 && (firstInvalid (s.core d) off n).isSome
    | none => false
  if stale then err cSTALE
  else if uninit then err cUNINIT
  else if (placeOf s c tr v).any fun key => s.bad key n then err cUNCORR
  else .ok ()

/-- The judgement of every word of some ranges, in address order within each. -/
def engJudgeAll (s : State) (c um pm : Nat) (tr : SMap Nat) (ranges : List Span) : Except EngFail Unit :=
  (ranges.flatMap fun r => parts 4 r.1 r.2).foldlM (fun _ x => engJudge s c um pm tr x.1 x.2) ()

/-- The counts that an engine's completed reads leave with the issuing core in count mode: one for the entry, at the lowest byte (R242,
R257). -/
def engCount (s : State) (c um pm : Nat) (ranges : List Span) : State :=
  let vs := ranges.flatMap fun r => span r.1 r.2
  let stale (v : Nat) : Option Nat := (localOf s c v).bind fun x => (s.core x.1).staleAt x.2
  let s' := match if pm = 1 then leastOf vs fun v => (stale v).isSome else none with
    | some v => s.updCore c fun k => countStale k ((stale v).getD 0) (((localOf s c v).map (·.2)).getD 0)
    | none => s
  match if um = 1 then leastOf vs fun v => (localOf s c v).any fun x => !(s.core x.1).validAt x.2 else none with
  | some v => s'.updCore c fun k => countUninit k (((localOf s c v).map (·.2)).getD 0)
  | none => s'

/-- An engine's completed reads: the counts of the entry and the corrected errors (R240, R246). -/
def engRead (s : State) (c um pm : Nat) (tr : SMap Nat) (ranges : List Span) : State :=
  engCount (countEccRanges s c tr ranges) c um pm ranges

/-- A write of an engine touches a lent cell of its core (R256). -/
def engLent (s : State) (c : Nat) (ranges : List Span) : Bool :=
  ranges.any fun r => (span r.1 r.2).any fun v => (localOf s c v).any fun x => x.1 == c && (s.core c).lentAt x.2

/-- LMC.UMODE and PDC.MODE of a core. -/
def umodeOf (k : Core) : Nat := fld (k.ctl 0x020) 0 0
def pmodeOf (k : Core) : Nat := fld (k.ctl 0x021) 1 0

/-! ## Translation faults of entries -/

/-- The translation fault that stopped an entry. -/
def QEntry.fault (e : QEntry) : Option TransFault :=
  match e with
  | .matrix m => m.faulted
  | .copy x => x.faulted

/-- An entry with its fault set. -/
def QEntry.withFault (e : QEntry) (f : Option TransFault) : QEntry :=
  match e with
  | .matrix m => .matrix { m with faulted := f }
  | .copy x => .copy { x with faulted := f }

/-- The head entry of queue q stops at a translation fault (R365). -/
def stopEntry (s : State) (c q va : Nat) (e : QEntry) (acc : BitVec 2) : State :=
  let (f, s) := beginFault s c va acc
  setEntries s c q (e.withFault (some f) :: ((s.core c).queue q).entries.tail)

/-- The fault of the head entry of queue q resolved (R365, R404): none while it waits for the host, some false where TRANSLATION is
delivered. A fault that found the host's queue full is posted once there is room. -/
def faultAnswer (s : State) (c : Nat) (f : TransFault) : Option Bool :=
  let p := corePart s c
  match f.answer with
  | some b => some b
  | none =>
    if fld (s.part p).facc 1 1 = 1 then
      some (match walk s p ((s.core c).job s) f.va with
        | .ok _ => true
        | .error _ => false)
    else none

/-- A fault without a number in the host's queue, which now has room. -/
def mayPost (s : State) (c : Nat) (f : TransFault) : Bool :=
  let q := s.part (corePart s c)
  f.seq.isNone && f.answer.isNone && fld q.facc 1 1 == 0 && decide (fqOpen s (corePart s c) < 2 ^ q.fqLog)

/-- The resolution of the head entry's fault: the entry may be performed again, or fails (R226, R267). -/
def resolveEntry (s : State) (c q : Nat) (e : QEntry) : Option State :=
  e.fault.bind fun f =>
    match faultAnswer s c f with
    | some true => some (setEntries s c q (e.withFault none :: ((s.core c).queue q).entries.tail))
    | some false => some (failQueue s c q { cause := cTRANSLATION, acc := f.acc, val := true, data := f.va })
    | none => if mayPost s c f then some (stopEntry s c q f.va e f.acc) else none

end Sys2Proof.Machine
end

