-- ==== Sys2Proof/Machine/Matrix.lean ====
section
/-! DEFINITION. The matrix engine (09 R213 to R237): ownership, tiles and accumulators, the checks and the acceptance of matrix
instructions, what the engine performs, tile arrivals, and commands for another fold's engine. -/

namespace Sys2Proof.Machine

/-! ## Ownership -/

/-- The launch of a core as the matrix owner of a fold (R213): none while the engine belongs to a launch with another TAG. When
ownership begins everything reads zero. -/
def ownMatrix (s : State) (f p blk : Nat) (tag : Word) : Option State :=
  match (s.fold f).owner with
  | none => some (s.updFold f fun v => { v with owner := some (p, blk, tag), m := MState.zero, shadow := 0 })
  | some (q, _, t) => if q = p ∧ t = tag then some s else none

/-- A matrix instruction of the current core uses fold f's engine (R213): MX_CAPABILITY while another launch owns it. -/
def useEngine (s : State) : Res State :=
  match s.me.occ with
  | none => .error (trapC cILLEGAL)
  | some o =>
    match ownMatrix s (foldOf s.cur) o.part o.blk (s.me.ctl 0x040) with
    | some s' => .ok s'
    | none => .error (trapC cMXCAP)

/-- In a flagged launch a core names only its own quarter tiles and accumulator (R235). -/
def ownPart (k : Core) (tiles accs : List Nat) : Res Unit :=
  match k.occ with
  | some o =>
    let j := o.k % 8
    need (!o.flagged || (tiles.all (fun t => t / 4 == j) && accs.all (fun a => a == j))) (trapC cDETERM)
  | none => .ok ()

/-! ## Tiles and accumulators -/

/-- TSHn as an instruction reads it: as it stood before the packet (R94, R214), 0 on a fold without an owner (R213). -/
def tshOf (s : State) (n : Nat) : Word :=
  match s.latch with
  | some l => mget 0 l.m.tsh n
  | none => mget 0 (s.fold (foldOf s.cur)).matrix.tsh n

/-- Row bytes RB of a shape (R214). -/
def tshRB (t : Word) : Nat := (tshCols t * fcBits (tshFc t) + 7) / 8

/-- Byte x of tile n, scale byte x of tile n, and element (i, j) of accumulator a (R215, R216). -/
def MState.tile (m : MState) (n x : Nat) : Byte := mget 0 m.tiles (4096 * n + x)
def MState.scale (m : MState) (n x : Nat) : Byte := mget 0 m.scales (1024 * n + x)
def MState.el (m : MState) (a i j : Nat) : Word32 := mget 0 m.acc (4096 * a + 64 * i + j)
def MState.setTile (m : MState) (n x : Nat) (b : Byte) : MState := { m with tiles := mset 0 m.tiles (4096 * n + x) b }
def MState.setScale (m : MState) (n x : Nat) (b : Byte) : MState := { m with scales := mset 0 m.scales (1024 * n + x) b }
def MState.setEl (m : MState) (a i j : Nat) (w : Word32) : MState := { m with acc := mset 0 m.acc (4096 * a + 64 * i + j) w }

/-- Pairs (i, j) below two bounds, row by row. -/
def grid (r c : Nat) : List (Nat × Nat) := (List.range r).flatMap fun i => (List.range c).map fun j => (i, j)

/-- The exact value of an element code under its scale (R224, R165, R169): a subnormal input code is flushed at levels 1 and 2 before
its scale is applied (R182). -/
def elemVal (l fc scale code : Nat) : FVal :=
  let e : Int := if fcBlock fc then (scale : Int) - 127 else 0
  if fcBlock fc && scale == 0xFF then .nan true
  else if fc = 14 then let v := ds8Value code; .fin (decide (v < 0)) v.natAbs (e - 6)
  else if fcInt fc then let v := (widenInt fc code).toInt; .fin (decide (v < 0)) v.natAbs 0
  else
    match (fmtOf fc).decode code with
    | .fin n m x => if lvlFlushIn l && (fmtOf fc).subnormal code then .fin n 0 0 else .fin n m (x + e)
    | v => v

/-- Element (i, k) of tile n under a shape: its code and its block's scale. -/
def MState.code (m : MState) (n : Nat) (t : Word) (i k : Nat) : Nat × Nat :=
  let b := fcBits (tshFc t)
  let bit := b * k
  let bs := (List.range ((bit % 8 + b + 7) / 8)).map fun x => m.tile n (i * tshRB t + bit / 8 + x)
  (bitsOf bs (bit % 8) b, (m.scale n (16 * i + k / 2 ^ tshBl t)).toNat)

/-- Row i of tile n as exact values. -/
def MState.rowVals (m : MState) (l n : Nat) (t : Word) (i : Nat) : List FVal :=
  (List.range (tshCols t)).map fun k => let (c, sc) := m.code n t i k; elemVal l (tshFc t) sc c

/-- Row of a streamed B operand as exact values, from its bytes in memory (R226). -/
def streamVals (l fc bl k : Nat) (bs : List Byte) : List FVal :=
  (List.range k).map fun i => let (c, sc) := elemCode fc bl bs i; elemVal l fc sc c

/-- The integer of an exact integer value. -/
def FVal.int (v : FVal) : Int :=
  match v with
  | .fin n m _ => sInt n m
  | _ => 0

/-- MMA (R224, R225): rows of A against rows of B into accumulator d. -/
def MState.mma (m : MState) (l : Nat) (isInt zero : Bool) (d : Nat) (a b : List (List FVal)) : MState :=
  (grid a.length b.length).foldl (fun (m : MState) x =>
    let ps := (a.getD x.1 []).zip (b.getD x.2 [])
    let old : Word32 := if zero then 0 else m.el d x.1 x.2
    let w : Word32 :=
      if isInt then old + BitVec.ofInt 32 (ps.foldl (fun t p => t + p.1.int * p.2.int) 0)
      else (dotLvl l (ps.map fun p => (mulVal p.1 p.2).1) (inLvl l old)).1
    m.setEl d x.1 x.2 w) m

/-- The sum of two FP32 accumulator elements (R227): inputs and result follow the level; NaNs are canonical (R225). -/
def accAdd (l : Nat) (x y : Word32) : Word32 := (addLvl l (inLvl l x) (inLvl l y)).1

/-- Applies a function to every element of an accumulator. -/
def MState.mapAcc (m : MState) (d : Nat) (f : Nat → Nat → Word32) : MState :=
  (grid 64 64).foldl (fun (m : MState) x => m.setEl d x.1 x.2 (f x.1 x.2)) m

/-- A table without its entries from a to a + n − 1, and those of another table from b on moved to a. -/
def moveBlock {α : Type} (m : SMap α) (src : SMap α) (a b n : Nat) : SMap α :=
  let keep := m.filter fun x => !(decide (a ≤ x.1 ∧ x.1 < a + n))
  ((src.filter fun x => decide (b ≤ x.1 ∧ x.1 < b + n)).foldl (fun m x => mput m (x.1 - b + a) x.2) keep)

/-- Writes tile n's bytes and scale bytes from tables that hold tile k's (R215). -/
def MState.loadTile (m : MState) (n : Nat) (tiles scales : SMap Byte) (k : Nat) : MState :=
  { m with tiles := moveBlock m.tiles tiles (4096 * n) (4096 * k) 4096
           scales := moveBlock m.scales scales (1024 * n) (1024 * k) 1024 }

/-- TTRN (R228): element (i, j) of Ta := element (j, i) of Tb, for whole-byte formats. -/
def MState.transpose (m : MState) (a b : Nat) (ta tb : Word) : MState :=
  let w := fcBits (tshFc ta) / 8
  (grid (tshRows ta) (tshCols ta)).foldl (fun (r : MState) x =>
    (List.range w).foldl (fun (r : MState) y =>
      r.setTile a (x.1 * tshRB ta + x.2 * w + y) (m.tile b (x.2 * tshRB tb + x.1 * w + y))) r) m

/-- Where byte x of tile row data and the scale of block c lie in a memory row (R168, R215): offsets from the row's start. -/
def rowByte (t : Word) (x : Nat) : Nat :=
  if fcBlock (tshFc t) then
    let bb := fcBits (tshFc t) * 2 ^ tshBl t / 8
    let j := x / bb
    j / 8 * (8 + 8 * bb) + 8 + bb * (j % 8) + x % bb
  else x
def rowScale (t : Word) (c : Nat) : Nat := c / 8 * (8 + 8 * (fcBits (tshFc t) * 2 ^ tshBl t / 8)) + c % 8

/-- Blocks of a row; none for formats without scales. -/
def tshBlocks (t : Word) : Nat := if fcBlock (tshFc t) then tshCols t / 2 ^ tshBl t else 0

/-- Row r of tile n from the bytes of a memory row (R231). -/
def MState.rowIn (m : MState) (n : Nat) (t : Word) (r : Nat) (bs : List Byte) : MState :=
  let m := (List.range (tshRB t)).foldl (fun (m : MState) x => m.setTile n (r * tshRB t + x) (bs.getD (rowByte t x) 0)) m
  (List.range (tshBlocks t)).foldl (fun (m : MState) c => m.setScale n (16 * r + c) (bs.getD (rowScale t c) 0)) m

/-- The bytes of a memory row from row r of tile n; scale bytes that no block uses are zero (R231). -/
def MState.rowOut (m : MState) (n : Nat) (t : Word) (r : Nat) : List Byte :=
  let bs := List.replicate (fcBytes (tshFc t) (tshBl t) (tshCols t)) (0 : Byte)
  let bs := (List.range (tshRB t)).foldl (fun bs x => lset bs (rowByte t x) (m.tile n (r * tshRB t + x))) bs
  (List.range (tshBlocks t)).foldl (fun bs c => lset bs (rowScale t c) (m.scale n (16 * r + c))) bs

/-! ## Commands of the A-slot -/

/-- An MMA, ACC or TILE instruction that an engine performs by itself. -/
inductive MCmd where
  | mma (zero sb : Bool) (d a b : Nat)
  | azero (d : Nat)
  | acopy (d a : Nat)
  | aadd (d a : Nat) (int : Bool)
  | tzero (a : Nat)
  | tcopy (a b : Nat)
  | ttrn (a b : Nat)
  deriving DecidableEq, Repr

/-- Tiles and accumulators that a command names. -/
def MCmd.tiles (m : MCmd) : List Nat :=
  match m with
  | .mma _ sb _ a b => if sb then [a] else [a, b]
  | .tzero a => [a]
  | .tcopy a b => [a, b]
  | .ttrn a b => [a, b]
  | _ => []
def MCmd.accs (m : MCmd) : List Nat :=
  match m with
  | .mma _ _ d _ _ => [d]
  | .azero d => [d]
  | .acopy d a => [d, a]
  | .aadd d a _ => [d, a]
  | _ => []

/-- The command that a word encodes (R222, R227, R228); none for TFWD, TTAKE and every other word (R233). -/
def mcmdOf (w : Word32) : Option MCmd :=
  let n := w.toNat
  let major := n / 2 ^ 26
  let d := n / 2 ^ 23 % 8
  let a := n / 2 ^ 18 % 32
  let b := n / 2 ^ 13 % 32
  let fl := n / 2 ^ 8 % 32
  let fn := n % 256
  match major with
  | 0x18 => if fn ≤ 1 ∧ fl ≤ 1 then some (.mma (fn == 1) (fl == 1) d a b) else none
  | 0x19 =>
    if a / 8 ≠ 0 ∨ b ≠ 0 ∨ 1 < fl then none
    else match fn with
      | 0 => if a = 0 ∧ fl = 0 then some (.azero d) else none
      | 1 => if fl = 0 then some (.acopy d a) else none
      | 2 => some (.aadd d a (fl == 1))
      | _ => none
  | 0x1A =>
    if d ≠ 0 ∨ fl ≠ 0 then none
    else match fn with
      | 0 => if b = 0 then some (.tzero a) else none
      | 1 => some (.tcopy a b)
      | 2 => some (.ttrn a b)
      | _ => none
  | _ => none

/-- The class of a pair of formats (R223): some true integer, some false float. -/
def mmaClass (x y : Nat) : Option Bool :=
  let flt (f : Nat) := decide (2 ≤ f ∧ f ≤ 14)
  let int (f : Nat) := f == 15 || f == 16
  if flt x && flt y then some false else if int x && int y then some true else none

/-- The issue checks of a streamed B operand for core c (R226): format, rows, alignment, windows and order 1 of R154. -/
def streamedCheck (s : State) (c : Nat) (p : Word) (k : Nat) (det : Bool) : Res Unit := do
  let fc := ptrFc p
  need (decide (fld p 53 48 = 0) && decide (fc ≠ 0 ∧ fc ≠ 18) && fcOk (s.part (corePart s c)).facc fc (ptrBl p)) (trapC cTAG)
  let n := fcBytes fc (ptrBl p) k
  need (decide (ptrAddr p + 64 * n ≤ 2 ^ 48)) (trapC cTAG)
  match (List.range 64).find? fun j => decide ((ptrAddr p + j * n) % fcAlign fc ≠ 0) with
  | some j => .error (trapA cMISALIGN false (ptrAddr p + j * n))
  | none => .ok ()
  (parts 4 (ptrAddr p) (64 * n)).foldlM (fun (_ : Unit) x =>
    match windowOf x.1 with
    | .otherLocal => .error (trapA (if det then cDETERM else cPERMISSION) false (x.1 / 4 * 4))
    | _ => match copyWindow s c x.1 x.2 false det fun _ => true with
      | .error f => .error (f.stop s)
      | .ok () => .ok ()) ()

/-- The checks of a command against tile shapes and inbound marks, and what the engine will do (R224, R227, R228, R229). -/
def MCmd.resolve (m : MCmd) (s : State) (c : Nat) (tsh : Nat → Word) (arrived : List Nat) (ptr : Word) (det : Bool) :
    Res (MOp × Nat × Nat × Nat × Word × Word) := do
  match m with
  | .mma zero sb d a b =>
    let ta := tsh a
    if sb then do
      streamedCheck s c ptr (tshCols ta) det
      need (mmaClass (tshFc ta) (ptrFc ptr)).isSome (trapC cILLEGAL)
      .ok (.mmaStreamed zero ptr, d, a, 0, ta, 0)
    else do
      need (decide (tshCols (tsh b) = tshCols ta) && (mmaClass (tshFc ta) (tshFc (tsh b))).isSome) (trapC cILLEGAL)
      .ok (.mma zero, d, a, b, ta, tsh b)
  | .azero d => .ok (.azero, d, 0, 0, 0, 0)
  | .acopy d a => .ok (.acopy, d, a, 0, 0, 0)
  | .aadd d a i => .ok (.aadd i, d, a, 0, 0, 0)
  | .tzero a =>
    need (decide (tshFc (tsh a) ≠ 0) && !arrived.contains a) (trapC cILLEGAL)
    .ok (.tzero, 0, a, 0, tsh a, 0)
  | .tcopy a b =>
    need (decide (tshFc (tsh a) ≠ 0 ∧ tsh a = tsh b) && !arrived.contains a) (trapC cILLEGAL)
    .ok (.tcopy, 0, a, b, tsh a, tsh b)
  | .ttrn a b =>
    let x := tsh a
    let y := tsh b
    let f := tshFc x
    need (decide (f = tshFc y ∧ ((1 ≤ f ∧ f ≤ 5) ∨ f = 15 ∨ f = 17) ∧ tshRows x = tshCols y ∧ tshCols x = tshRows y ∧ a ≠ b) &&
      !arrived.contains a) (trapC cILLEGAL)
    .ok (.ttrn, 0, a, b, x, y)

/-- The lowest-numbered queue that QMAP binds to the matrix engine (R218). -/
def matrixQueue (k : Core) : Res Nat :=
  match (List.range 8).find? fun q => qmapEng k q == 3 with
  | some q => .ok q
  | none => .error (trapC cILLEGAL)

/-- A matrix entry of core c, the current one, for the engine of fold f, with the acceptance number it gets and the controls as they stood
before the packet (R94). -/
def matrixEntry (s : State) (c f : Nat) (op : MOp) (d a b : Nat) (ta tb : Word) : MEntry :=
  { op := op, fold := f, d := d, a := a, b := b, tshA := ta, tshB := tb, lvl := nbvLevel s.pre, umode := umodeOf s.pre,
    pmode := pmodeOf s.pre, tr := [], seq := (s.fold (foldOf c)).accepted, faulted := none }

/-- A matrix entry is accepted into queue q of the current core. -/
def acceptMatrix (s : State) (q : Nat) (e : MEntry) : State :=
  (pushEntry s q (.matrix e)).updFold (foldOf s.cur) fun v => { v with accepted := v.accepted + 1 }

/-- An MMA, ACC or TILE instruction in the A-slot (R218, R222 to R228). -/
def matrixOp (s : State) (m : MCmd) (gB : Option Nat) : Host.Outcome State Fault Refusal :=
  let p := match gB with
    | some r => gval s r
    | none => 0
  let wait : Res Unit := do
    match matrixQueue s.pre with
    | .ok q => queueWait s q
    | .error _ => .ok ()
    match m with
    | .mma _ true _ a _ => need (!(s.me.fenced clsMR (streamedSpans (tshOf s a) p))) .hold
    | _ => .ok ()
  settle s (withChecked s gB.toList [] wait fun s' => do
    let q ← matrixQueue s.pre
    enterQueue s' q
    let c := s.cur
    let s1 ← useEngine s'
    ownPart s.me m.tiles m.accs
    let (op, d, a, b, ta, tb) ← m.resolve s1 c (tshOf s) (s1.fold (foldOf c)).m.arrived p s.det
    let e := matrixEntry s1 c (foldOf c) op d a b ta tb
    .ok (acceptMatrix s1 q e))

/-- MMA (R222); SB = 1 streams B through general register b. -/
def execMma (d : BitVec 3) (a b : BitVec 5) (sb : BitVec 1) (s : State) : Host.Outcome State Fault Refusal :=
  matrixOp s (.mma false (sb == 1) d.toNat a.toNat b.toNat) (if sb = 1 then some b.toNat else none)

/-- MMAZ (R222): from zero. -/
def execMmaz (d : BitVec 3) (a b : BitVec 5) (sb : BitVec 1) (s : State) : Host.Outcome State Fault Refusal :=
  matrixOp s (.mma true (sb == 1) d.toNat a.toNat b.toNat) (if sb = 1 then some b.toNat else none)

/-- AZERO (R227). -/
def execAzero (d : BitVec 3) (s : State) : Host.Outcome State Fault Refusal := matrixOp s (.azero d.toNat) none

/-- ACOPY (R227). -/
def execAcopy (d a : BitVec 3) (s : State) : Host.Outcome State Fault Refusal := matrixOp s (.acopy d.toNat a.toNat) none

/-- AADD and AADD.I (R227). -/
def execAadd (d a : BitVec 3) (i : BitVec 1) (s : State) : Host.Outcome State Fault Refusal :=
  matrixOp s (.aadd d.toNat a.toNat (i == 1)) none

/-- TZERO (R228). -/
def execTzero (a : BitVec 5) (s : State) : Host.Outcome State Fault Refusal := matrixOp s (.tzero a.toNat) none

/-- TCOPY (R228). -/
def execTcopy (a b : BitVec 5) (s : State) : Host.Outcome State Fault Refusal := matrixOp s (.tcopy a.toNat b.toNat) none

/-- TTRN (R228). -/
def execTtrn (a b : BitVec 5) (s : State) : Host.Outcome State Fault Refusal := matrixOp s (.ttrn a.toNat b.toNat) none

/-- The fold that a neighbour link leads to (R18, R28, R229): 0 north, 1 east, 2 south, 3 west; none where the link is absent: at the
edge of the mesh, facing a fused-off fold, or out of the partition (R27). -/
def neighbour (s : State) (f dir : Nat) : Option Nat :=
  let x := f % 32
  let y := f / 32
  let g := match dir with
    | 0 => if y = 0 then none else some (f - 32)
    | 1 => if x = 31 then none else some (f + 1)
    | 2 => if y = 23 then none else some (f + 32)
    | _ => if x = 0 then none else some (f - 1)
  g.filter fun g => !s.nv.fused.contains g && partOfFold s g == partOfFold s f

/-- TFWD and TTAKE (R229): DETERMINISM in a flagged launch. -/
def tileMove (s : State) (tiles : List Nat) (op : MOp) (a b : Nat) (chk : State → Res Unit) : Host.Outcome State Fault Refusal :=
  settle s (withRegs s [] [] fun s' => do
    let q ← matrixQueue s.pre
    enterQueue s' q
    let s1 ← useEngine s'
    need (!s.me.inFlagged) (trapC cDETERM)
    chk s1
    ownPart s.me tiles []
    .ok (acceptMatrix s1 q (matrixEntry s1 s.cur (foldOf s.cur) op 0 a b (tshOf s a) (tshOf s b))))

/-- TFWD (R229): PERMISSION where the neighbour link is absent. -/
def execTfwd (a : BitVec 5) (r : BitVec 2) (s : State) : Host.Outcome State Fault Refusal :=
  tileMove s [a.toNat] (.tfwd r.toNat) a.toNat 0 fun s1 =>
    need (neighbour s1 (foldOf s.cur) r.toNat).isSome (trapC cPERMISSION)

/-- TTAKE (R229): ILLEGAL where Ta is inbound. -/
def execTtake (a b : BitVec 5) (s : State) : Host.Outcome State Fault Refusal :=
  tileMove s [a.toNat, b.toNat] .ttake a.toNat b.toNat fun s1 =>
    need (!(s1.fold (foldOf s.cur)).m.arrived.contains a.toNat) (trapC cILLEGAL)

/-! ## MXC -/

/-- The waits of a tile or accumulator transfer before it issues, over the rows that name bytes (R98, R220, R321, R326). -/
def rowsWait (s : State) (p : Word) (stride : Int) (rows n : Nat) (write : Bool) : Res Unit :=
  let c := s.cur
  let k := s.me
  let rs : List Span := (List.range rows).filterMap fun r =>
    let v := rowAddr (ptrAddr p) stride r
    if 0 ≤ v ∧ v + n ≤ 2 ^ 48 then some (v.toNat, n) else none
  need (!(k.storesMeet s c rs) && !(k.fenced (if write then clsMW else clsMR) rs) && !(write && rs.any fun r => k.loadsMeet s c r)) .hold

/-- Every row's range in row order (R231): TAG for a row that leaves 48 bits, MISALIGN for its start; then R153 and R154. -/
def matrixRows (s s' : State) (p : Word) (stride : Int) (rows n al : Nat) (write : Bool) : Res (SMap Nat × State) := do
  let c := s.cur
  let at_ (r : Nat) : Int := rowAddr (ptrAddr p) stride r
  (List.range rows).foldlM (fun (_ : Unit) r => do
    need (decide (0 ≤ at_ r ∧ at_ r + n ≤ 2 ^ 48)) (trapC cTAG)
    need (decide ((at_ r) % (al : Int) = 0)) (trapA cMISALIGN write (at_ r).toNat)) ()
  let rs : List Span := (List.range rows).map fun r => ((at_ r).toNat, n)
  rs.foldlM (fun (acc : SMap Nat × State) r => do
    let (tr, s1) ← checkRange acc.2 c r.1 r.2 write s.det
    .ok (tr.foldl (fun m x => mput m x.1 x.2) acc.1, s1)) ([], s')

/-- The wait for room in a queue that an MXC instruction may enter (R98, R218). -/
def mxcWait (s : State) (q : Nat) : Res Unit := if qmapEng s.pre q = 3 then queueWait s q else .ok ()

/-- The checks that open every MXC instruction (R218, R230). -/
def mxcQueue (s s' : State) (q : Nat) : Res Unit := do
  need (decide (qmapEng s.pre q = 3)) (trapC cILLEGAL)
  enterQueue s' q

/-- TLD and TSTR (R231). -/
def tileMem (s : State) (l : Lit) (q a b t : Nat) (write : Bool) : Host.Outcome State Fault Refusal :=
  let sh := tshOf s t
  let n := fcBytes (tshFc sh) (tshBl sh) (tshCols sh)
  let wait : Res Unit := do
    mxcWait s q
    if tshFc sh = 0 then .ok () else rowsWait s (gval s a) (rbval s l b).toInt (tshRows sh) n write
  settle s (withChecked s [a, b] [] wait fun s' => do
    mxcQueue s s' q
    let c := s.cur
    let s1 ← useEngine s'
    ownPart s.me [t] []
    need (decide (tshFc sh ≠ 0) && (write || !(s1.fold (foldOf c)).m.arrived.contains t)) (trapC cILLEGAL)
    let p := gval s a
    let st := rbval s l b
    need (decide (fld p 53 48 = 0 ∧ (ptrFc p = 0 ∨ (ptrFc p = tshFc sh ∧ ptrBl p = tshBl sh)))) (trapC cTAG)
    let (tr, s2) ← matrixRows s s1 p st.toInt (tshRows sh) n (fcAlign (tshFc sh)) write
    let e := matrixEntry s2 c (foldOf c) (if write then .tstr p st else .tld p st) 0 t 0 sh 0
    .ok (acceptMatrix s2 q { e with tr := tr }))

/-- TLD: tile rc from memory. -/
def execTld (l : Lit) (q : BitVec 3) (a b c : BitVec 5) (s : State) : Host.Outcome State Fault Refusal :=
  tileMem s l q.toNat a.toNat b.toNat c.toNat false

/-- TSTR: tile rc to memory. -/
def execTstr (l : Lit) (q : BitVec 3) (a b c : BitVec 5) (s : State) : Host.Outcome State Fault Refusal :=
  tileMem s l q.toNat a.toNat b.toNat c.toNat true

/-- AMOV and ALD (R232). -/
def accMem (s : State) (l : Lit) (q a b d : Nat) (write : Bool) : Host.Outcome State Fault Refusal :=
  let p := gval s a
  let sh := rbval s l b
  let fc := ptrFc p
  let nrow := fld sh 37 32 + 1
  let ncol := fld sh 45 40 + 1
  let wait : Res Unit := do
    mxcWait s q
    rowsWait s p (sgn 32 (fld sh 31 0)) nrow (accBytes fc * ncol) write
  settle s (withChecked s [a, b] [] wait fun s' => do
    mxcQueue s s' q
    let c := s.cur
    need (decide (Nat.land sh.toNat 0xC0C0C0C000000000 = 0 ∧ fld sh 53 48 + nrow ≤ 64 ∧ fld sh 61 56 + ncol ≤ 64)) (trapC cILLEGAL)
    let s1 ← useEngine s'
    ownPart s.me [] [d]
    need (decide (fld p 53 48 = 0 ∧ accBytes fc ≠ 0 ∧ ptrBl p = 0 ∧ (write ∨ ¬(fc = 4 ∨ fc = 5)))) (trapC cTAG)
    let (tr, s2) ← matrixRows s s1 p (sgn 32 (fld sh 31 0)) nrow (accBytes fc * ncol) (accBytes fc) write
    let e := matrixEntry s2 c (foldOf c) (if write then .amov p sh else .ald p sh) d 0 0 0 0
    .ok (acceptMatrix s2 q { e with tr := tr }))

/-- AMOV: a region of accumulator rc to memory. -/
def execAmov (l : Lit) (q : BitVec 3) (a b : BitVec 5) (c : BitVec 3) (s : State) : Host.Outcome State Fault Refusal :=
  accMem s l q.toNat a.toNat b.toNat c.toNat true

/-- ALD: a region of accumulator rc from memory. -/
def execAld (l : Lit) (q : BitVec 3) (a b : BitVec 5) (c : BitVec 3) (s : State) : Host.Outcome State Fault Refusal :=
  accMem s l q.toNat a.toNat b.toNat c.toNat false

/-- A command streams its B operand (R226, R233). -/
def streamed (w : Word32) : Bool :=
  match mcmdOf w with
  | some (.mma _ sb _ _ _) => sb
  | _ => false

/-- MXCMD (R233): the command travels to the engine of launch fold t; the packet waits for the answer and retires or traps on it. Only a
streamed command reads rc. The issuing fold's owner is judged too (R213). -/
def execMxcmd (l : Lit) (q : BitVec 3) (a b c : BitVec 5) (s : State) : Host.Outcome State Fault Refusal :=
  let w : Word32 := (rbval s l b.toNat).truncate 32
  let wait : Res Unit := if s.me.wait.isNone then mxcWait s q.toNat else .ok ()
  let popPtr (m : Option Nat) (s' : State) : Res (Option Nat × State) :=
    if streamed w then popLater s [a.toNat, b.toNat] [c.toNat] m s' else .ok (m, s')
  settle s (withLater s [a.toNat, b.toNat] [c.toNat] [] wait fun m s' => do
    match s.me.wait with
    | some (.released x) =>
      let cause : BitVec 8 := x.truncate 8
      if cause = 0 then do
        let (m, s') ← popPtr m s'
        .ok ((countPops s' m).updMe fun k => { k with wait := none })
      else if cause = cMISALIGN then .error (trapA cMISALIGN false (x.toNat / 256))
      else .error (trapC cause)
    | some _ => .error (.stall s)
    | none => do
      mxcQueue s s' q.toNat
      let s1 ← useEngine s
      need (!s.me.inFlagged) (trapC cDETERM)
      let t := (gval s a.toNat).toNat
      need (decide (t < ((s.me.launchOf s).map (·.fcount)).getD 0)) (trapC cILLEGAL)
      need ((mcmdOf w).isSome && (streamed w || c == 0)) (trapC cILLEGAL)
      let _ ← popPtr m s'
      let ptr := if streamed w then gval s c.toNat else 0
      .error (.stall (s1.updMe fun k => { k with wait := some (.mxcmd q.toNat t w ptr none) })))

/-- The fold that an MXCMD of core c names by its logical number in the launch. -/
def mxcmdFold (s : State) (c t : Nat) : Nat :=
  (((s.core c).launchOf s).map fun l => foldOf (launchCore s (corePart s c) l (8 * t))).getD (foldOf c)

/-- MXCMD_REMOTE_ACCEPT (R233): the target engine applies R213 with the presented TAG, then the command's checks against its own
shapes, and answers 0 or a trap cause, with the address of a MISALIGN above it. An accepted entry joins the issuer's queue, once no fence
holds its reads (R338); a pair performs it once the interval agrees (R237, R372). A queue that has recorded a cause accepts nothing: the packet
takes the cause (R221). -/
def execMxcmdRemoteAccept (c : Nat) (s : State) : Host.Outcome State Fault Refusal :=
  let k := s.core c
  match k.wait, k.occ, k.launchOf s with
  | some (.mxcmd q t w ptr none), some o, some _ =>
    let f := mxcmdFold s c t
    let up := (downOn s (foldOf c) f false).isNone
    let answer (s : State) (a : Word) : State := s.updCore c fun k => { k with wait := some (.mxcmd q t w ptr (some a)) }
    let bad (x : Stop) : Word := match x with
      | .trap t => BitVec.ofNat 64 (t.cause.toNat + 256 * t.data)
      | _ => BitVec.ofNat 64 cILLEGAL.toNat
    if (k.queue q).err.isSome then event s up (s.updCore c fun k => { k with wait := none })
    else
    match ownMatrix s f o.part o.blk (k.ctl 0x040), mcmdOf w with
    | some s1, some m =>
      match m.resolve s1 c (fun n => mget 0 (s1.fold f).m.tsh n) (s1.fold f).m.arrived ptr false with
      | .ok (op, d, a, b, ta, tb) =>
        let s2 := { s1 with cur := c, latch := none }
        let free := match op with
          | .mmaStreamed _ p => !(k.fenced clsMR (streamedSpans ta p))
          | _ => true
        let s3 := (acceptMatrix s2 q (matrixEntry s2 c f op d a b ta tb)).updCore c fun k => { k with
          yoke := k.yoke.map fun y => { y with queued := mset 0 y.queued q (mget 0 y.queued q + 1) } }
        event s (up && free) { answer s3 0 with cur := s.cur, latch := s.latch }
      | .error x => event s up (answer s (bad x))
    | _, _ => event s up (answer s (BitVec.ofNat 64 cMXCAP.toNat))
  | _, _, _ => event s false s

/-- MXCMD_ANSWER (R233): the answer reaches the issuer. -/
def execMxcmdAnswer (c : Nat) (s : State) : Host.Outcome State Fault Refusal :=
  match (s.core c).wait with
  | some (.mxcmd _ t _ _ (some a)) => event s (downOn s (foldOf c) (mxcmdFold s c t) false).isNone (release s c a)
  | _ => event s false s

/-! ## What the engine performs -/

/-- The matrix entries of core c accepted before number n, or the joins among them (R232). -/
def earlierMatrix (k : Core) (n : Nat) (joins : Bool) : Bool :=
  k.qentries.any fun e => match e with
    | .matrix m => decide (m.seq < n) && (!joins || match m.op with
      | .amov _ _ => true
      | .ald _ _ => true
      | _ => false)
    | .copy _ => false

/-- An AMOV or ALD waits for every earlier matrix entry of its core, and every later one for it (R232). -/
def matrixTurn (k : Core) (e : MEntry) : Bool :=
  match e.op with
  | .amov _ _ => !earlierMatrix k e.seq false
  | .ald _ _ => !earlierMatrix k e.seq false
  | _ => !earlierMatrix k e.seq true

/-- An element of a pointer's format as AMOV writes it (R232): fixed controls of R176. -/
def accOut (fc : Nat) (w : Word32) : List Byte :=
  leBytes (accBytes fc) (if fc = 0 then w.toNat else (encodeElem fc 0 true false w).1)

/-- An element of memory as ALD reads it. -/
def accIn (fc : Nat) (bs : List Byte) : Word32 :=
  if fc = 0 then BitVec.ofNat 32 (leNat bs) else (decodeElem fc false (leNat bs)).1

/-- The rows of a streamed B operand (R226), read by the engine of queue q: the first failing piece in address order decides. -/
def streamedRead (s : State) (c q : Nat) (e : MEntry) (p : Word) : EngM (List (List Byte)) := do
  let n := fcBytes (ptrFc p) (ptrBl p) (tshCols e.tshA)
  for x in parts 4 (ptrAddr p) (64 * n) do
    if windowOf x.1 = .global ∧ (mfind (← get).tr (pageOf x.1)).isNone then engTranslate s c (reqQueue q) x.1 false
    engJudge s c e.umode e.pmode (← get).tr x.1 x.2
  let tr := (← get).tr
  return (List.range 64).map fun j => readRange s c tr (ptrAddr p + j * n) n

/-- The head entry of queue q of core c is performed by the matrix engine: none while it waits (R219). -/
def performMatrix (s : State) (c q : Nat) (e : MEntry) : Option State :=
  let k := s.core c
  let f := e.fold
  let m := (s.fold f).m
  let done (m : MState) (s : State) : Option State := some (popEntry (s.updFold f fun v => { v with m := m }) c q)
  let rows := e.spans
  if !matrixTurn k e || e.faulted.isSome then none
  else
    match e.op with
    | .mma zero =>
      let isInt := (mmaClass (tshFc e.tshA) (tshFc e.tshB)).getD false
      let a := (List.range (tshRows e.tshA)).map fun i => m.rowVals e.lvl e.a e.tshA i
      let b := (List.range (tshRows e.tshB)).map fun j => m.rowVals e.lvl e.b e.tshB j
      done (m.mma e.lvl isInt zero e.d a b) s
    | .mmaStreamed zero p =>
      if 2 ≤ (s.fold f).shadow then none
      else
        let (r, n) := (streamedRead s c q e p).run (EngNotes.start s [])
        let s := n.apply s c
        match r with
        | .error (.fault va _) => some ((stopEntry s c q va (.matrix e) 0).updFold f fun v => { v with shadow := v.shadow + 1 })
        | .error (.err d) => some (failQueue s c q d)
        | .error .wait => none
        | .ok rs =>
          let isInt := (mmaClass (tshFc e.tshA) (ptrFc p)).getD false
          let a := (List.range (tshRows e.tshA)).map fun i => m.rowVals e.lvl e.a e.tshA i
          let b := rs.map fun bs => streamVals e.lvl (ptrFc p) (ptrBl p) (tshCols e.tshA) bs
          let bytes := 64 * fcBytes (ptrFc p) (ptrBl p) (tshCols e.tshA)
          done (m.mma e.lvl isInt zero e.d a b) (engRead s c e.umode e.pmode n.tr [(ptrAddr p, bytes)])
    | .azero => done { m with acc := moveBlock m.acc [] (4096 * e.d) 0 4096 } s
    | .acopy => done { m with acc := if e.d = e.a then m.acc else moveBlock m.acc m.acc (4096 * e.d) (4096 * e.a) 4096 } s
    | .aadd int =>
      done (m.mapAcc e.d fun i j => if int then m.el e.d i j + m.el e.a i j else accAdd e.lvl (m.el e.d i j) (m.el e.a i j)) s
    | .tzero => done (m.loadTile e.a [] [] 0) s
    | .tcopy => done (if e.a = e.b then m else m.loadTile e.a m.tiles m.scales e.b) s
    | .ttrn => done (m.transpose e.a e.b e.tshA e.tshB) s
    | .tfwd dir =>
      let (part, blk) := (k.occ.map fun o => (o.part, o.blk)).getD (0, 0)
      let op : MOp := .arriving dir part blk (k.ctl 0x040) e.tshA (moveBlock [] m.tiles 0 (4096 * e.a) 4096)
        (moveBlock [] m.scales 0 (1024 * e.a) 1024)
      let e' : MEntry := { e with op := op }
      some (setEntries s c q (.matrix e' :: (k.queue q).entries.tail))
    | .arriving .. => none
    | .ttake =>
      if m.inbound.contains e.b then
        let m' := if e.a = e.b then m else m.loadTile e.a m.tiles m.scales e.b
        let m2 : MState := { m' with tsh := mset 0 m.tsh e.a (mget 0 m.tsh e.b), inbound := m.inbound.filter (· != e.b) }
        done m2 s
      else none
    | .tld _ _ =>
      match engJudgeAll s c e.umode e.pmode e.tr rows with
      | .error (.err d) => some (failQueue s c q d)
      | .error _ => none
      | .ok () =>
        let m' := rows.zipIdx.foldl (fun (m : MState) x => m.rowIn e.a e.tshA x.2 (readRange s c e.tr x.1.1 x.1.2)) m
        done m' (engRead s c e.umode e.pmode e.tr rows)
    | .tstr _ _ =>
      if engLent s c rows then none
      else done m (rows.zipIdx.foldl (fun s x => writeRange s c e.tr x.1.1 (m.rowOut e.a e.tshA x.2)) s)
    | .amov p sh =>
      if engLent s c rows then none
      else
        let ncol := fld sh 45 40 + 1
        done m (rows.zipIdx.foldl (fun s x => writeRange s c e.tr x.1.1
          ((List.range ncol).flatMap fun j => accOut (ptrFc p) (m.el e.d (fld sh 53 48 + x.2) (fld sh 61 56 + j)))) s)
    | .ald p sh =>
      match engJudgeAll s c e.umode e.pmode e.tr rows with
      | .error (.err d) => some (failQueue s c q d)
      | .error _ => none
      | .ok () =>
        let n := accBytes (ptrFc p)
        let m' := rows.zipIdx.foldl (fun (m : MState) x =>
          (chunksOf n (readRange s c e.tr x.1.1 x.1.2)).zipIdx.foldl (fun (m : MState) y =>
            m.setEl e.d (fld sh 53 48 + x.2) (fld sh 61 56 + y.2) (accIn (ptrFc p) y.1)) m) m
        done m' (engRead s c e.umode e.pmode e.tr rows)

/-- The head matrix entry of a queue. -/
def headMatrix (s : State) (c q : Nat) : Option MEntry :=
  match headEntry s c q with
  | some (.matrix e) => some e
  | _ => none

/-- MATRIX_ENTRY_PERFORM of queue q of core c; the fold's ownership may end with it (R213). -/
def execMatrixEntryPerform (c q : Nat) (s : State) : Host.Outcome State Fault Refusal :=
  match (headMatrix s c q).bind fun e =>
      if s.agreed c q 0 ((s.core c).queue q).entries.length && rangesUp s c (reqQueue q) e.tr (match e.op with
        | .mmaStreamed _ p => streamedSpans e.tshA p
        | _ => e.spans) then (performMatrix s c q e).map fun s' => (s', e.fold) else none with
  | some (s', f) => event s true (releaseMatrix s' f)
  | none => event s false s

/-- TILE_ARRIVAL of the head of queue q of core c (R229): due when the receiving tile's flag is clear; rejected with a deferred
MX_CAPABILITY where the receiving fold belongs to another launch. Ownership of either fold may end with it (R213). -/
def execTileArrival (c q : Nat) (s : State) : Host.Outcome State Fault Refusal :=
  match headMatrix s c q with
  | some e =>
    match e.op with
    | .arriving dir part blk tag tsh bytes scales =>
      match neighbour s e.fold dir with
      | none => event s false s
      | some g =>
        match ownMatrix s g part blk tag with
        | none => event s true (failQueue s c q { cause := cMXCAP, acc := 3, val := false, data := 0 })
        | some s1 =>
          let m := (s1.fold g).m
          if m.inbound.contains e.a then event s false s
          else
            let m' := m.loadTile e.a bytes scales 0
            let came := if m.arrived.contains e.a then m.arrived else e.a :: m.arrived
            let shapes := mset 0 m.tsh e.a tsh
            let m' : MState := { m' with tsh := shapes, inbound := e.a :: m.inbound, arrived := came }
            event s true (releaseMatrix (releaseMatrix (popEntry (s1.updFold g fun v => { v with m := m' }) c q) e.fold) g)
    | _ => event s false s
  | none => event s false s

/-- STREAMED_B_FAULT_RESOLVED of the head of queue q of core c (R226): the whole operation runs again, or fails with TRANSLATION; its
shadow region is free again. -/
def execStreamedBFaultResolved (c q : Nat) (s : State) : Host.Outcome State Fault Refusal :=
  match headMatrix s c q with
  | some e =>
    match resolveEntry s c q (.matrix e) with
    | some s' =>
      let still := match headMatrix s' c q with
        | some e' => e'.faulted.isSome
        | none => false
      event s true (if still then s' else s'.updFold e.fold fun v => { v with shadow := v.shadow - 1 })
    | none => event s false s
  | none => event s false s

end Sys2Proof.Machine
end

