-- ==== Sys2Proof/Machine/Copy.lean ====
section
/-! DEFINITION. Copy engines (11 R263 to R275): the CPY group's checks and acceptance, what an engine performs, and the slots of
chutes that copies and messages fill. -/

namespace Sys2Proof.Machine

/-! ## Descriptors in own local memory -/

/-- The address of a 64-byte descriptor (R265, R278): TAG, then MISALIGN. -/
def descAddr (w : Word) : Res Nat := do
  need (decide (fld w 53 48 = 0)) (trapC cTAG)
  need (decide (ptrAddr w % 64 = 0)) (trapA cMISALIGN false (ptrAddr w))
  .ok (ptrAddr w)

/-- The wait of a descriptor's read for accepted work on its bytes (R98), where the pointer names n doublewords of own local memory. -/
def descWait (s : State) (p : Word) (n : Nat) : Res Unit :=
  let a := ptrAddr p
  need (!(windowOf a == .ownLocal && decide (a - localBase + 8 * n ≤ s.me.lmem s) && s.me.blocked s s.cur (a, 8 * n))) .hold

/-- Doublewords of the current core's own local memory read at issue, with orders 2, 7 and 8 of R154. -/
def descRead (s : State) (a n : Nat) : Res (List Word × State) := do
  let c := s.cur
  let k := s.me
  need (windowOf a == .ownLocal && decide (a - localBase + 8 * n ≤ k.lmem s)) (trapA cPERMISSION false a)
  need (!(k.blocked s c (a, 8 * n))) .hold
  match if umodeOf k = 0 then firstInvalid k (a - localBase) (8 * n) else none with
  | some o => .error (trapA cUNINIT false (localBase + o / 4 * 4))
  | none =>
    match (span (a - localBase) (8 * n)).find? fun o => s.bad (localKey c o) 1 with
    | some o => .error (trapA cUNCORR false (localBase + o / 4 * 4))
    | none =>
      let ws : List Word := (chunksOf 8 (localBytes s c (a - localBase) (8 * n))).map fun b => BitVec.ofNat 64 (leNat b)
      .ok (ws, countUninitRead (countEccRanges s c [] [(a, 8 * n)]) c [(a, 8 * n)])

/-! ## Chute slots -/

/-- A chute context of core c. -/
def State.chute (s : State) (c ch : Nat) : Option Chute := mfind (s.core c).chutes ch
def State.setChute (s : State) (c ch : Nat) (x : Chute) : State := s.updCore c fun k => { k with chutes := mput k.chutes ch x }

/-- The context's counters written to its block (R274). -/
def writeChute (s : State) (c : Nat) (x : Chute) : State :=
  setLocal s c x.addr (leBytes 2 x.nslot ++ leBytes 2 x.ssize ++ leBytes 2 x.free ++ leBytes 2 x.filled ++ leBytes 2 x.head ++
    leBytes 2 x.tail)

/-- The context, as device core and number, whose control block a pointer of core c names (R275). -/
def findChute (s : State) (c v : Nat) : Option (Nat × Nat) :=
  (localOf s c v).bind fun x => ((s.core x.1).chutes.find? fun h => h.2.addr == x.2).map fun h => (x.1, h.1)

/-- Slot TAIL is taken: FREE falls and TAIL advances (R275). -/
def takeSlot (s : State) (c ch : Nat) : State :=
  match s.chute c ch with
  | some x => s.setChute c ch { x with free := x.free - 1, tail := (x.tail + 1) % x.nslot }
  | none => s

/-- FILLED rises (R250, R275); a unit that waits in RECV on the channel becomes READY for its own core (R311). The block of a core
that runs nothing is kept equal to its context. -/
def fillSlot (s : State) (c ch : Nat) : State :=
  match s.chute c ch with
  | none => s
  | some x =>
    let x := { x with filled := x.filled + 1 }
    let s := s.setChute c ch x
    let s := if (s.core c).occ.isNone then writeChute s c x else s
    let p := corePart s c
    let mine (b : Nat) : Bool := match (s.core c).occ with
      | some o => o.blk == b
      | none => true
    match (s.part p).launches.find? fun l => mine l.1 && l.2.recvs.any fun r => r.2.1 == c && r.2.2 == ch with
    | none => s
    | some (b, l) =>
      match l.recvs.find? fun r => r.2.1 == c && r.2.2 == ch with
      | none => s
      | some r =>
        let s := s.updPart p fun q => { q with launches := mput q.launches b { l with recvs := l.recvs.erase r } }
        let s := setRecState s p l.job r.1 1
        s.updCore c fun k => { k with resumes := k.resumes ++ [(b, r.1)] }

/-! ## Issue -/

/-- The class of a format (R266): raw, float or integer. -/
def fcClass (fc : Nat) : Nat := if fc = 0 then 0 else if fcInt fc then 2 else 1

/-- A copy's pointer (R265, R266): TAG for bits 53:48, a format that R163 or FACC rejects, or a block format where it is not allowed. -/
def copyPtr (s : State) (op : COp) (p : Word) : Res Unit :=
  let fc := ptrFc p
  need (decide (fld p 53 48 = 0) && fcOk (s.part (corePart s s.cur)).facc fc (ptrBl p) &&
    (decide (op = .cpy ∨ op = .cpyz) || !(fcBlock fc || decide (fc = 18)))) (trapC cTAG)

/-- The fields of a captured descriptor (R271 to R273): ILLEGAL for a reserved bit or a zero where the least value is 1. -/
def copyFields (op : COp) (d : List Word) : Bool :=
  let w := dw d
  let rest (n : Nat) := (List.range (8 - n)).all fun i => w (n + i) == 0
  match op with
  | .cpya => rest 5 && (List.range 4).all fun i => patCount d i != 0
  | .gath => fld (w 0) 63 32 == 0 && fld (w 1) 63 48 == 0 && rest 2
  | .scat => fld (w 0) 63 32 == 0 && fld (w 1) 63 48 == 0 && rest 2
  | .cpyw =>
    let x := winDesc d
    [x.ih, x.iw, x.c, x.kh, x.kw, x.sh, x.sw, x.dh, x.dw, x.oh, x.ow].all (· != 0) &&
      fld (w 0) 63 48 == 0 && fld (w 2) 63 32 == 0 && fld (w 3) 63 32 == 0 && rest 4
  | _ => true

/-- Positions of a CPYA (R271): TAG below zero or beyond 2^48 − 1. -/
def copyPositions (e : CEntry) : Bool :=
  match e.op with
  | .cpya =>
    let r := patBounds e.desc 1
    let w := patBounds e.desc 3
    decide (0 ≤ r.1 ∧ r.2 < 2 ^ 48 ∧ 0 ≤ w.1 ∧ w.2 < 2 ^ 48)
  | _ => true

/-- Alignment of a copy's pointer (R188, R266). -/
def copyAlign (p : Word) (write : Bool) : Res Unit :=
  need (decide (ptrAddr p % fcAlign (ptrFc p) = 0)) (trapA cMISALIGN write (ptrAddr p))

/-- A chute's control block (R275): own local memory or that of a launch core (R239). -/
def chuteWindow (s : State) (p : Word) (det : Bool) : Res Unit :=
  let v := ptrAddr p
  match windowOf v with
  | .ownLocal => need (decide (v - localBase + 64 ≤ s.me.lmem s)) (trapA cPERMISSION true v)
  | .otherLocal => do
    need (!det) (trapA cDETERM true v)
    need ((otherLocal s s.cur v).isSome && (otherLocal s s.cur (v + 63)).isSome) (trapA cPERMISSION true v)
  | _ => .error (trapA (if det then cDETERM else cPERMISSION) true v)

/-- The moves of a CPYA or CPYW in transfer order (R271, R273): the source position, none where PAD is written, and the
destination position. -/
def CEntry.moves (e : CEntry) : List (Option Nat × Nat) :=
  match e.op with
  | .cpya =>
    let n := patCount e.desc
    (List.range (n 0 * n 1 * n 2 * n 3)).map fun t =>
      let i : List Nat := [t % n 0, t / n 0 % n 1, t / (n 0 * n 1) % n 2, t / (n 0 * n 1 * n 2)]
      let pos (at_ : Nat) : Int := (List.range 4).foldl (fun (x : Int) d => x + (i.getD d 0 : Nat) * patStride e.desc at_ d) 0
      (some (pos 1).toNat, (pos 3).toNat)
  | .cpyw =>
    let d := winDesc e.desc
    let taps := d.kh * d.kw * d.c
    (List.range (d.oh * d.ow * taps)).map fun t =>
      let o := t / taps
      let r := t % taps
      let y : Int := (o / d.ow * d.sh + r / (d.kw * d.c) * d.dh : Nat) - (d.pt : Int)
      let x : Int := (o % d.ow * d.sw + r / d.c % d.kw * d.dw : Nat) - (d.pl : Int)
      (if 0 ≤ y ∧ y < d.ih ∧ 0 ≤ x ∧ x < d.iw then some ((y.toNat * d.iw + x.toNat) * d.c + r % d.c) else none, t)
  | _ => []

/-- The bytes that a copy writes: of a CPYA, those of its elements only (R267, R271). -/
def CEntry.written (e : CEntry) : List Span :=
  match e.op, e.chute with
  | .cpya, false => e.moves.map fun m => (ptrAddr e.dst + (elemSpan (ptrFc e.dst) m.2).1, (elemSpan (ptrFc e.dst) m.2).2)
  | _, _ => e.writes

/-- The ranges of a copy, as CPY checks them at issue (R267): windows and stores in address order, translations kept. -/
def copyWindows (s : State) (e : CEntry) (det : Bool) : Res (SMap Nat × State) := do
  let hit (off : Nat) : Bool := e.written.any fun r => sameBytes s.me r (localBase + off, 1)
  let (tr, s) ← e.writes.foldlM (fun (x : SMap Nat × State) r => copyRange x.2 s.cur r.1 r.2 true det hit x.1) ([], s)
  e.reads.foldlM (fun (x : SMap Nat × State) r => copyRange x.2 s.cur r.1 r.2 false det (fun _ => true) x.1) (tr, s)

/-- A copy as it would enter its queue. -/
def copyEntry (op : COp) (ch : Bool) (dst src : Word) (n : Nat) (desc : List Word) (pushed : SMap Nat) : CEntry :=
  { op := op, chute := ch, dst := dst, src := src, n := n, desc := desc, tr := [], next := 0, got := [], seen := [], faulted := none,
    pushed := if ch then pushed else [] }

/-- The waits of a copy before it issues (R98): for room in its queue, for accesses to its descriptor, for buffered and queued stores and
outstanding loads over its bounding ranges (R269, R326), and for a fence that covers what it may touch (R321). A descriptor or ranges that are not
well-formed name nothing to wait for. -/
def copyWait (s : State) (q : Nat) (op : COp) (ch : Bool) (dst src x : Word) : Res Unit := do
  let c := s.cur
  let k := s.me
  let a := ptrAddr x
  let counted := decide (op = .cpy ∨ op = .cpyz)
  let read := windowOf a == .ownLocal && decide (a - localBase + 64 ≤ k.lmem s)
  if qmapEng s.pre q = 1 ∨ qmapEng s.pre q = 2 then queueWait s q else .ok ()
  if counted then .ok () else descWait s x 8
  let desc : List Word := if counted || !read then []
    else (chunksOf 8 (localBytes s c (a - localBase) 64)).map fun b => BitVec.ofNat 64 (leNat b)
  let e := copyEntry op ch dst src x.toNat desc []
  if (counted || read) && copyFields op desc && copyPositions e then
    need (!(k.storesMeet s c e.spans) && !(e.writes.any fun r => k.loadsMeet s c r) &&
      !(k.fenced (clsCR + clsCW) (e.spans ++ e.scattered s c ++ e.slotRange k s))) .hold
  else .ok ()

/-- The CPY group (R265 to R275). -/
def copyOp (s : State) (l : Lit) (q a b c : Nat) (op : COp) (ch : Bool) : Host.Outcome State Fault Refusal :=
  let x := rbval s l b
  let dst := gval s a
  let src := if op = .cpyz then 0 else gval s c
  settle s (withChecked s (if op = .cpyz then [a, b] else [a, b, c]) [] (copyWait s q op ch dst src x) fun s' => do
    need (decide (qmapEng s.pre q = 1 ∨ qmapEng s.pre q = 2)) (trapC cILLEGAL)
    enterQueue s' q
    let det := s.me.inFlagged
    let counted := decide (op = .cpy ∨ op = .cpyz)
    need (!counted || decide (x.toNat < 2 ^ 32)) (trapC cILLEGAL)
    copyPtr s op dst
    if op = .cpyz then .ok ()
    else do
      copyPtr s op src
      need (decide (fcClass (ptrFc dst) = fcClass (ptrFc src))) (trapC cTAG)
    let da ← if counted then .ok 0 else descAddr x
    copyAlign dst true
    copyAlign src false
    let (desc, s1) ← if counted then .ok ([], s') else descRead s' da 8
    need (copyFields op desc) (trapC cILLEGAL)
    let e := copyEntry op ch dst src (if counted then x.toNat else 0) desc s1.me.pushed
    need (copyPositions e && e.spans.all fun r => decide (r.1 + r.2 ≤ 2 ^ 48)) (trapC cTAG)
    let scattered := decide (op = .gath ∨ op = .scat)
    let ix := fld (dw desc 1) 47 0
    need (!scattered || decide (ix % 4 = 0)) (trapA cMISALIGN false ix)
    if ch then chuteWindow s1 dst det else .ok ()
    let (tr, s2) ← copyWindows s1 e det
    .ok (pushEntry s2 q (.copy { e with tr := tr })))

/-- CPY (R270). -/
def execCpy (l : Lit) (q : BitVec 3) (a b c : BitVec 5) (h : BitVec 1) (s : State) : Host.Outcome State Fault Refusal :=
  copyOp s l q.toNat a.toNat b.toNat c.toNat .cpy (h == 1)

/-- CPYA (R271). -/
def execCpya (l : Lit) (q : BitVec 3) (a b c : BitVec 5) (h : BitVec 1) (s : State) : Host.Outcome State Fault Refusal :=
  copyOp s l q.toNat a.toNat b.toNat c.toNat .cpya (h == 1)

/-- GATH (R272). -/
def execGath (l : Lit) (q : BitVec 3) (a b c : BitVec 5) (h : BitVec 1) (s : State) : Host.Outcome State Fault Refusal :=
  copyOp s l q.toNat a.toNat b.toNat c.toNat .gath (h == 1)

/-- SCAT (R272). -/
def execScat (l : Lit) (q : BitVec 3) (a b c : BitVec 5) (s : State) : Host.Outcome State Fault Refusal :=
  copyOp s l q.toNat a.toNat b.toNat c.toNat .scat false

/-- CPYW (R273). -/
def execCpyw (l : Lit) (q : BitVec 3) (a b c : BitVec 5) (h : BitVec 1) (s : State) : Host.Outcome State Fault Refusal :=
  copyOp s l q.toNat a.toNat b.toNat c.toNat .cpyw (h == 1)

/-- CPYZ (R270). -/
def execCpyz (l : Lit) (q : BitVec 3) (a b : BitVec 5) (h : BitVec 1) (s : State) : Host.Outcome State Fault Refusal :=
  copyOp s l q.toNat a.toNat b.toNat 0 .cpyz (h == 1)

/-! ## What an engine writes -/

/-- Where a copy writes: the address that its positions count from, the bytes it may write there, and the chute slot it takes. -/
structure CopyDest where
  base : Nat
  lim : Nat
  slot : Option (Nat × Nat)
  deriving DecidableEq, Repr

/-- The destination of the head entry: none while its chute's context is not loaded or FREE = 0 (R275). -/
def copyDest (s : State) (c : Nat) (chute : Bool) (dst : Word) : Option CopyDest :=
  if chute then
    (findChute s c (ptrAddr dst)).bind fun x => (s.chute x.1 x.2).bind fun h =>
      if h.free = 0 then none
      else some { base := ptrAddr dst + 64 + h.ssize * h.tail, lim := h.ssize, slot := some x }
  else some { base := ptrAddr dst, lim := 2 ^ 48, slot := none }

/-- What is written: whole bytes from the base, or element codes at positions in transfer order. -/
inductive CopyOut where
  | bytes (bs : List Byte)
  | codes (cs : List (Nat × Nat))
  deriving DecidableEq, Repr

/-- Writes an element code at a position, the other bits of a shared byte kept (R167). -/
def putCode (s : State) (c : Nat) (tr : SMap Nat) (d : CopyDest) (fc p code : Nat) : State :=
  let b := fcBits fc
  let off := b * p / 8
  let sh := b * p % 8
  let n := (sh + b + 7) / 8
  let old := leNat (readRange s c tr (d.base + off) n)
  let new := old - old / 2 ^ sh % 2 ^ b * 2 ^ sh + code % 2 ^ b * 2 ^ sh
  writeRange s c tr (d.base + off) ((leBytes n new).take (d.lim - off))

/-- Writes a copy's output in transfer order (R268). -/
def putOut (s : State) (c : Nat) (tr : SMap Nat) (d : CopyDest) (fc : Nat) (o : CopyOut) : State :=
  match o with
  | .bytes bs => writeRange s c tr d.base (bs.take d.lim)
  | .codes cs => cs.foldl (fun s x => putCode s c tr d fc x.1 x.2) s

/-- The addresses that an output covers, as a count from the base. -/
def CopyOut.extent (o : CopyOut) (fc : Nat) : Nat :=
  match o with
  | .bytes bs => bs.length
  | .codes cs => cs.foldl (fun n x => max n ((elemSpan fc x.1).1 + (elemSpan fc x.1).2)) 0

/-- An element's code of a destination format from a code of a source format (R266). -/
def copyCode (sfc dfc code : Nat) : Nat :=
  if sfc = dfc then code else (encodeElem dfc 0 true false (decodeElem sfc false code).1).1

/-- Bytes of n elements of one tensor format from the bytes of another (R266): bit for bit where FC and BL are equal. -/
def convertBytes (sp dp : Word) (bs : List Byte) (n : Nat) : List Byte :=
  if ptrFc sp = ptrFc dp ∧ ptrBl sp = ptrBl dp then bs
  else fillBytes (encodeMem (ptrFc dp) (ptrBl dp) 0 true false (decodeMem (ptrFc sp) (ptrBl sp) false bs n).1).1

/-- The code at a position of a source tensor. -/
def readElem (s : State) (c : Nat) (tr : SMap Nat) (p : Word) (i : Nat) : Nat :=
  let b := fcBits (ptrFc p)
  bitsOf (readRange s c tr (ptrAddr p + b * i / 8) ((b * i % 8 + b + 7) / 8)) (b * i % 8) b

/-- The span of the source element at a position. -/
def codeSpan (p : Word) (i : Nat) : Span := (ptrAddr p + (elemSpan (ptrFc p) i).1, (elemSpan (ptrFc p) i).2)

/-- An entry fails (R221): a chute slot that it took stays taken. -/
def failCopy (s : State) (c q : Nat) (d : CopyDest) (e : DefErr) : State :=
  failQueue (match d.slot with
    | some x => takeSlot s x.1 x.2
    | none => s) c q e

/-- An entry's output is written and the entry ends (R268, R275): a slot is taken and filled, and bytes beyond SSIZE end the entry with
a deferred STREAM error. -/
def finishCopy (s : State) (c q : Nat) (e : CEntry) (d : CopyDest) (o : CopyOut) (ranges : List Span) : State :=
  let k := s.core c
  let fc := ptrFc e.dst
  let s := engRead s c (umodeOf k) (pmodeOf k) e.tr ranges
  match d.slot with
  | none => popEntry (putOut s c e.tr d fc o) c q
  | some x =>
    match copyWindow s c d.base (min d.lim (o.extent fc)) true k.inFlagged fun _ => true with
    | .error (.err f) => failCopy s c q d f
    | _ =>
      let s := fillSlot (takeSlot (putOut s c e.tr d fc o) x.1 x.2) x.1 x.2
      if d.lim < o.extent fc then failQueue s c q streamPastEnd else popEntry s c q

/-! ## GATH and SCAT -/

/-- One access of an element when the entry is performed (R267): range, window and translation word by word, and a read's judgement. -/
def copyAccess (s : State) (c q : Nat) (r : Span) (write : Bool) : EngM Unit := do
  let k := s.core c
  if 2 ^ 48 < r.1 + r.2 then throw (.err { cause := cTAG, acc := 3, val := false, data := 0 })
  for x in parts 4 r.1 r.2 do
    copyWindow s c x.1 x.2 write k.inFlagged fun _ => true
    if windowOf x.1 = .global then engTranslate s c (reqQueue q) x.1 write
  if write then
    if engLent s c [r] then throw .wait
  else engJudgeAll s c (umodeOf k) (pmodeOf k) (← get).tr [r]

/-- Index i of a GATH or SCAT (R272). -/
def CEntry.index (e : CEntry) (s : State) (c : Nat) (tr : SMap Nat) (i : Nat) : Nat :=
  leNat (readRange s c tr (fld (dw e.desc 1) 47 0 + 4 * i) 4)

/-- Source and destination positions of element i. -/
def CEntry.element (e : CEntry) (s : State) (c : Nat) (tr : SMap Nat) (i : Nat) : Nat × Nat :=
  if e.op = .gath then (e.index s c tr i, i) else (i, e.index s c tr i)

/-- The checks of element i: its index, its source and its destination. -/
def elementCheck (s : State) (c q : Nat) (e : CEntry) (d : CopyDest) (i : Nat) : EngM Unit := do
  copyAccess s c q (fld (dw e.desc 1) 47 0 + 4 * i, 4) false
  let (x, y) := e.element s c (← get).tr i
  copyAccess s c q (codeSpan e.src x) false
  let w := elemSpan (ptrFc e.dst) y
  if d.slot.isNone then copyAccess s c q (d.base + w.1, w.2) true

/-- An entry with element i read: what it will write, and the ranges read (R268). -/
def CEntry.take (e : CEntry) (s : State) (c i : Nat) (tr : SMap Nat) : CEntry :=
  let (x, y) := e.element s c tr i
  { e with tr := tr, next := i + 1, got := e.got ++ [(y, copyCode (ptrFc e.src) (ptrFc e.dst) (readElem s c tr e.src x))],
           seen := e.seen ++ [(fld (dw e.desc 1) 47 0 + 4 * i, 4), codeSpan e.src x] }

/-- The entry once the elements from `next` on that pass their checks are read, and the failure of the first that does not (R267). -/
def elementWalk (s : State) (c q : Nat) (d : CopyDest) : Nat → CEntry → EngNotes → CEntry × Option EngFail × EngNotes
  | 0, e, n => (e, none, n)
  | fuel + 1, e, n =>
    match (elementCheck s c q e d e.next).run n with
    | (.ok (), n) => elementWalk s c q d fuel (e.take s c e.next n.tr) n
    | (.error f, n) => (e, some f, n)

/-- An entry ends at an element that failed (R221, R267): the elements before it are written, their reads counted. -/
def failElements (s : State) (c q : Nat) (e : CEntry) (d : CopyDest) (x : DefErr) : State :=
  let k := s.core c
  failCopy (putOut (engRead s c (umodeOf k) (pmodeOf k) e.tr e.seen) c e.tr d (ptrFc e.dst) (.codes e.got)) c q d x

/-- GATH or SCAT at its queue's head: performed, stopped at a translation fault, ended by an error with the elements before it written,
or waiting. -/
def performElements (s : State) (c q : Nat) (e : CEntry) (d : CopyDest) : Option State :=
  let (e, f, n) := elementWalk s c q d (fld (dw e.desc 0) 31 0 - e.next) e (EngNotes.start s e.tr)
  let s := n.apply s c
  match f with
  | none => some (finishCopy s c q e d (.codes e.got) e.seen)
  | some (.fault va w) => some (stopEntry s c q va (.copy e) (if w then 1 else 0))
  | some (.err x) => some (failElements s c q e d x)
  | some .wait => none

/-! ## The engine -/

/-- Judges a list of reads, in order. -/
def judgeAll (s : State) (c : Nat) (tr : SMap Nat) (rs : List Span) : Except EngFail Unit :=
  engJudgeAll s c (umodeOf (s.core c)) (pmodeOf (s.core c)) tr rs

/-- The output of a CPY, CPYZ, CPYA or CPYW (R266, R270, R271, R273), and the reads it rests on. PAD has no raw encoding: its byte is a
free value. -/
def copyOutput (s : State) (c : Nat) (e : CEntry) : CopyOut × List Span :=
  let sfc := ptrFc e.src
  let dfc := ptrFc e.dst
  match e.op with
  | .cpy => (.bytes (convertBytes e.src e.dst (readRange s c e.tr (ptrAddr e.src) (fcBytes sfc (ptrBl e.src) e.n)) e.n), e.reads)
  | .cpyz =>
    (.bytes (if dfc = 0 then List.replicate e.n 0
      else fillBytes (encodeMem dfc (ptrBl e.dst) 0 true false (List.replicate e.n 0)).1), [])
  | _ =>
    let pad := (winDesc e.desc).pad
    let cs := e.moves.map fun m => (m.2, match m.1 with
      | some i => copyCode sfc dfc (readElem s c e.tr e.src i)
      | none => if dfc = 0 then (Config.freeElem s.freeCtr m.2).toNat else (encodeElem dfc 0 true false pad).1)
    (.codes cs, (e.moves.filterMap (·.1)).map (codeSpan e.src))

/-- The head copy entry of queue q of core c is performed: none while it waits (R275, R256); a fill of a chute also waits for the core's
loads and stores that were issued before it (R332). -/
def performCopy (s : State) (c q : Nat) (e : CEntry) : Option State :=
  if e.faulted.isSome || (e.chute && !((s.core c).rwBefore e.pushed s c)) || !(rangesUp s c (reqQueue q) e.tr (e.spans ++ e.scattered s c)) then none
  else
    (copyDest s c e.chute e.dst).bind fun d =>
      if e.op = .gath ∨ e.op = .scat then performElements s c q e d
      else if engLent s c e.written then none
      else
        let (o, rs) := copyOutput s c e
        match judgeAll s c e.tr rs with
        | .error (.err f) => some (failCopy s c q d f)
        | .error _ => none
        | .ok () => some (finishCopy { s with freeCtr := s.freeCtr + 1 } c q e d o rs)

/-- The head copy entry of a queue. -/
def headCopy (s : State) (c q : Nat) : Option CEntry :=
  match headEntry s c q with
  | some (.copy e) => some e
  | _ => none

/-- What COPY_ENTRY_PERFORM of queue q of core c would make, apart from turns. -/
def copyReady (s : State) (c q : Nat) : Option State :=
  (headCopy s c q).bind fun e => if s.agreed c q 0 ((s.core c).queue q).entries.length then performCopy s c q e else none

/-- Queue q of core c comes next at its copy engine (R264): no other queue of the engine that could go on stands nearer after the one
served last. -/
def copyTurnOf (s : State) (c q : Nat) : Bool :=
  let f := foldOf c
  let eng := qmapEng (s.core c) q
  let last := mget 63 (s.fold f).copyTurn eng
  let dist (x q : Nat) : Nat := (8 * (x % 8) + q + 63 - last) % 64
  (span (8 * f) 8).all fun x => (s.core x).queues.all fun y =>
    y.2.entries.isEmpty || qmapEng (s.core x) y.1 != eng || decide (dist c q ≤ dist x y.1) || (copyReady s x y.1).isNone

/-- COPY_ENTRY_PERFORM of queue q of core c: its copy engine serves its queues in turn (R264). -/
def execCopyEntryPerform (c q : Nat) (s : State) : Host.Outcome State Fault Refusal :=
  match copyReady s c q with
  | some s' => event s (copyTurnOf s c q)
      (s'.updFold (foldOf c) fun v => { v with copyTurn := mput v.copyTurn (qmapEng (s.core c) q) (8 * (c % 8) + q) })
  | none => event s false s

/-- The resolution of a GATH's or SCAT's fault (R267): it goes on at its element, or ends with TRANSLATION and the elements before
it written. -/
def resolveCopy (s : State) (c q : Nat) (e : CEntry) : Option State :=
  match e.faulted.bind fun f => faultAnswer s c f, copyDest s c e.chute e.dst, resolveEntry s c q (.copy e) with
  | some false, some d, some s' =>
    some (failElements s c q e d (((s'.core c).queue q).err.getD streamPastEnd))
  | _, _, r => r

/-- COPY_FAULT_RESOLVED of queue q of core c. -/
def execCopyFaultResolved (c q : Nat) (s : State) : Host.Outcome State Fault Refusal :=
  match (headCopy s c q).bind (resolveCopy s c q) with
  | some s' => event s true s'
  | none => event s false s

end Sys2Proof.Machine
end

