-- ==== Sys2Proof/Machine/Feed.lean ====
section
/-! DEFINITION. Chutes, streams and the allocation mark (11 R274, R276 to R281), with the fills and drains of the stream unit (R279,
13 R329). -/

namespace Sys2Proof.Machine

/-! ## Chutes -/

/-- LMEM − STACK of a core's launch. -/
def Core.heap (k : Core) (s : State) : Nat := k.lmem s - k.stackBytes s

/-- A chute block's limits (R274, R276). -/
def chuteLoads (ws : List Word) (off top : Nat) : Bool :=
  let a := dw ws 0
  let b := dw ws 1
  let n := fld a 15 0
  let z := fld a 31 16
  (span 1 10).any (fun i => 2 ^ i == n) && decide (64 ≤ z ∧ z % 64 = 0 ∧ fld b 15 0 < n ∧ fld b 31 16 < n ∧
    fld a 47 32 + fld a 63 48 ≤ n ∧ fld b 63 32 = 0 ∧ off + 64 + n * z ≤ top) && (span 2 6).all fun i => dw ws i == 0

/-- What CBINIT asks of a block (R276): no slot is held. -/
def chuteOk (ws : List Word) (off top : Nat) : Bool :=
  chuteLoads ws off top && decide (fld (dw ws 0) 47 32 + fld (dw ws 0) 63 48 = fld (dw ws 0) 15 0)

/-- The context that a block gives. Slots neither free nor filled are held (R274). -/
def chuteOf (ws : List Word) (off : Nat) : Chute :=
  let a := dw ws 0
  let b := dw ws 1
  { addr := off, nslot := fld a 15 0, ssize := fld a 31 16, free := fld a 47 32, filled := fld a 63 48, head := fld b 15 0,
    tail := fld b 31 16, held := fld a 15 0 - fld a 47 32 - fld a 63 48 }

/-- CBINIT (R276): fills are single steps, so none is in progress. -/
def execCbinit (_ : Lit) (a : BitVec 5) (c : BitVec 4) (s : State) : Host.Outcome State Fault Refusal :=
  settle s (withChecked s [a.toNat] [] (descWait s (gval s a.toNat) 8) fun s' => do
    let p := gval s a.toNat
    need (decide (fld p 53 48 = 0)) (trapC cTAG)
    let v := ptrAddr p
    need (decide (v % 64 = 0 ∧ windowOf v = .ownLocal ∧ v - localBase + 64 ≤ s.me.lmem s)) (trapC cILLEGAL)
    let (ws, s1) ← descRead s' v 8
    need (chuteOk ws (v - localBase) (s.me.heap s)) (trapC cILLEGAL)
    .ok (s1.setChute s.cur c.toNat (chuteOf ws (v - localBase))))

/-- The address of slot HEAD, with the slot popped and held (R276). -/
def popSlot (s : State) (ch : Nat) (x : Chute) : Nat × State :=
  (localBase + x.addr + 64 + x.ssize * x.head,
   s.setChute s.cur ch { x with filled := x.filled - 1, head := (x.head + 1) % x.nslot, held := x.held + 1 })

/-- CBPOP (R276). -/
def execCbpop (_ : Lit) (d : BitVec 5) (c : BitVec 4) (s : State) : Host.Outcome State Fault Refusal :=
  settle s (withRegs s [] [d.toNat] fun s' => do
    match s'.chute s.cur c.toNat with
    | none => .error (trapC cSTREAM)
    | some x => do
      need (decide (1 ≤ x.filled)) (.stall s)
      let (v, s1) := popSlot s' c.toNat x
      setG s1 d.toNat (BitVec.ofNat 64 v))

/-- The bytes of the oldest held slot. -/
def Chute.oldest (x : Chute) : Span := (localBase + x.addr + 64 + x.ssize * ((x.head + x.nslot - x.held % x.nslot) % x.nslot), x.ssize)

/-- CBPUSH (R276): waits for the core's earlier loads from the slot. -/
def execCbpush (_ : Lit) (c : BitVec 4) (s : State) : Host.Outcome State Fault Refusal :=
  settle s (do
    match s.chute s.cur c.toNat with
    | none => .error (trapC cSTREAM)
    | some x => do
      need (decide (1 ≤ x.held)) (trapC cSTREAM)
      need (!(s.me.loadsMeet s s.cur x.oldest)) (.stall s)
      .ok (s.setChute s.cur c.toNat { x with free := x.free + 1, held := x.held - 1 }))

/-- CBSTAT (R276). -/
def execCbstat (_ : Lit) (d : BitVec 5) (c : BitVec 4) (s : State) : Host.Outcome State Fault Refusal :=
  settle s (withRegs s [] [d.toNat] fun s' =>
    setG s' d.toNat (match s'.chute s.cur c.toNat with
      | some x => BitVec.ofNat 64 (x.free + 2 ^ 16 * x.filled + 2 ^ 32 * x.head + 2 ^ 48 * x.held)
      | none => 0))

/-! ## Streams -/

/-- Bytes of a ring entry (R278). -/
def Stream.entryBytes (t : Stream) : Nat := if t.vec then 4 else 8

/-- A stream descriptor's limits (R278) for binding b, at local offset off. A vector stream of FC 0 is accepted, and each of its elements keeps
the low 32 bits of the doubleword read (log 122). -/
def streamOk (t : Stream) (b off top : Nat) : Bool :=
  let w := dw t.words
  let fc := ptrFc t.base
  let ring := fld (w 4) 33 16
  let size := t.room * t.entryBytes
  (decide (fc ≤ 8 ∨ fcInt fc)) && ptrBl t.base == 0 && fld t.base 53 48 == 0 &&
  (List.range 4).all (fun d => t.count d != 0 && (fc != 0 || t.stride d % 8 == 0)) &&
  (!t.vec || decide (4 ≤ b)) && decide (1 ≤ fld (w 4) 11 8 ∧ fld (w 4) 11 8 ≤ 10) && ring % 64 == 0 &&
  fld (w 4) 7 3 == 0 && fld (w 4) 15 12 == 0 && fld (w 4) 63 34 == 0 && fld (w 5) 63 32 == 0 && w 6 == 0 && w 7 == 0 &&
  decide (ring + size ≤ top ∧ (ring + size ≤ off ∨ off + 64 ≤ ring))

/-- The pattern stays in own local memory below LMEM (R279). -/
def streamLocal (t : Stream) (lmem : Nat) : Bool :=
  let b := (List.range 4).foldl (fun (b : Int × Int) d =>
    let x := t.stride d * ((t.count d : Int) - 1)
    (b.1 + min 0 x, b.2 + max 0 x)) (0, 0)
  let fc := ptrFc t.base
  let lo : Int := (ptrAddr t.base : Int) + (if fc = 0 then b.1 else (fcBits fc : Int) * b.1 / 8)
  let hi : Int := (ptrAddr t.base : Int) + (if fc = 0 then b.2 + 8 else ((fcBits fc : Int) * (b.2 + 1) + 7) / 8)
  decide ((localBase : Int) ≤ lo ∧ hi ≤ (localBase + lmem : Nat))

/-- The binding that a descriptor makes, at its POS (R280). -/
def streamOf (ws : List Word) (v : Nat) : Stream :=
  let pos := fld (dw ws 5) 31 0
  { desc := v, words := ws, pos := pos, moved := pos, ring := [], err := none, behind := 0 }

/-- Binding b of core c becomes active: STMb and BOUND (R277, R280). -/
def bindStream (s : State) (c b : Nat) (t : Stream) : State :=
  s.updCore c fun k => { k with streams := mput k.streams b t }.setCtl (0x030 + b) (BitVec.ofNat 64 (2 ^ 63 + t.desc))

/-- The stores that SBIND does not count in `Stream.behind` come before it: queued vector stores, AMOs, and entries pushed into write streams
(R329). -/
def bindWait (s : State) : Res Unit :=
  let k := s.me
  need (!((k.seqr.flatMap (·.entries)).any fun e => e.spans != []) && !(k.loads.any Load.isAmo) && k.pushed.isEmpty) .hold

/-- SBIND (R280). -/
def execSbind (_ : Lit) (d a : BitVec 5) (s : State) : Host.Outcome State Fault Refusal :=
  let wait : Res Unit := do
    bindWait s
    descWait s (gval s a.toNat) 8
  settle s (withChecked s [a.toNat] [] wait fun s' => do
    let b := d.toNat - 24
    need (decide (24 ≤ d.toNat)) (trapC cILLEGAL)
    need (mfind s'.me.streams b).isNone (trapC cSTREAM)
    let p := gval s a.toNat
    need (decide (fld p 53 48 = 0)) (trapC cTAG)
    let v := ptrAddr p
    need (decide (v % 64 = 0 ∧ windowOf v = .ownLocal ∧ v - localBase + 64 ≤ s.me.lmem s)) (trapC cILLEGAL)
    let (ws, s1) ← descRead s' v 8
    let t := streamOf ws v
    need (streamOk t b (v - localBase) (s.me.heap s)) (trapC cILLEGAL)
    need (!s.me.inFlagged || streamLocal t (s.me.lmem s)) (trapC cDETERM)
    .ok (bindStream s1 s.cur b { t with behind := s'.me.buffered.length }))

/-- A binding ends: POS goes to the descriptor and BOUND is cleared (R280). -/
def endStream (s : State) (c b : Nat) : State :=
  match mfind (s.core c).streams b with
  | none => s
  | some t =>
    let s := setLocal s c (t.desc - localBase + 40) (leBytes 4 t.pos)
    s.updCore c fun k => { k.landed (reqStream b) with streams := mdel k.streams b }.setCtl (0x030 + b) (BitVec.ofNat 64 (fld (k.ctl (0x030 + b)) 47 0))

/-- The deferred error of one write stream (R279). -/
def streamErrOf (t : Stream) (b : Nat) : Res Unit :=
  match t.err with
  | some e => .error (.trap { cause := e.cause, acc := e.acc, val := e.val, data := e.data, deferred := some (16 + b) })
  | none => .ok ()

/-- SUNBIND (R280). -/
def execSunbind (_ : Lit) (d : BitVec 5) (s : State) : Host.Outcome State Fault Refusal :=
  settle s (do
    let b := d.toNat - 24
    need (decide (24 ≤ d.toNat)) (trapC cILLEGAL)
    match mfind s.me.streams b with
    | none => .error (trapC cSTREAM)
    | some t => do
      need (!t.writes || t.ring.isEmpty) (.stall s)
      streamErrOf t b
      .ok (endStream s s.cur b))

/-- SSTAT (R280). -/
def execSstat (_ : Lit) (d a : BitVec 5) (s : State) : Host.Outcome State Fault Refusal :=
  settle s (withRegs s [] [d.toNat] fun s' => do
    need (decide (24 ≤ a.toNat)) (trapC cILLEGAL)
    setG s' d.toNat (match mfind s'.me.streams (a.toNat - 24) with
      | some t => BitVec.ofNat 64 (2 ^ 63 + (if t.pos = t.total then 2 ^ 62 else 0) + t.ring.length % 2 ^ 11 * 2 ^ 32 + t.pos % 2 ^ 32)
      | none => 0))

/-- SDRAIN (R280). -/
def execSdrain (_ : Lit) (d : BitVec 5) (s : State) : Host.Outcome State Fault Refusal :=
  settle s (do
    let b := d.toNat - 24
    need (decide (24 ≤ d.toNat)) (trapC cILLEGAL)
    match mfind s.me.streams b with
    | none => .error (trapC cSTREAM)
    | some t => do
      need t.writes (trapC cSTREAM)
      need t.ring.isEmpty (.stall s)
      streamErrOf t b
      .ok s)

/-! ## The stream unit -/

/-- Alignment of a stream element: 8 for a raw doubleword (R278). -/
def streamAlign (fc : Nat) : Nat := if fc = 0 then 8 else fcAlign fc

/-- The checks of a fill or drain of n bytes at v by core c (R154, R279), a read of an invalid own word passing: UNINIT and its
count are the pop's (R242). A stale read counts once for each element filled (R257; log 119). -/
def streamAccess (s : State) (c : Nat) (v : Int) (n al : Nat) (write : Bool) : Res (SMap Nat × State) := do
  need (decide (0 ≤ v ∧ v + n ≤ 2 ^ 48)) (trapC cTAG)
  let a := v.toNat
  need (decide (a % al = 0)) (trapA cMISALIGN write a)
  let k := s.core c
  if !write && windowOf a == .ownLocal then do
    let off := a - localBase
    need (decide (off + n ≤ k.lmem s)) (trapA cPERMISSION false a)
    match if pmodeOf k = 2 then (span off n).find? (fun x => (k.staleAt x).isSome) else none with
    | some x => .error (trapA cSTALE false (localBase + x))
    | none =>
      if s.bad (localKey c off) n then .error (trapA cUNCORR false a) else .ok ([], countStaleRead s c [(a, n)])
  else checkRange s c a n write k.inCompute

/-- A register's value from the code of an element (R278); a NaN, of FP32 too, decodes to the canonical one (R175). -/
def streamValue (fc code : Nat) : Word :=
  if fc = 0 then BitVec.ofNat 64 code
  else if fcInt fc then (widenInt fc code).signExtend 64
  else
    let w := (decodeElem fc false code).1
    (if isNaN32 w then cNaN else w).zeroExtend 64

/-- A code from a pushed value (R278, R176). -/
def streamCode (fc : Nat) (w : Word) : Nat := if fc = 0 then w.toNat else (encodeElem fc 0 true false (w.truncate 32)).1

/-- One more element fetched or drained. -/
def Stream.step (t : Stream) : Nat := if t.rep then (t.moved + 1) % t.total else t.moved + 1

/-- A stop of a stream access as an error held with an entry (R279). -/
def Trap.held (t : Trap) : DefErr := { cause := t.cause, acc := t.acc, val := t.val, data := t.data }

/-- A fill waits (R329): for room, for the stores issued before the SBIND, for an outstanding AMO on its bytes (R326), for a fence, and for
another fault's resolution. A later store does not hold it. -/
def fillDue (s : State) (c : Nat) (t : Stream) : Bool :=
  let k := s.core c
  let v := t.elemAddr t.moved
  let r : Span := (v.toNat, (t.elemBits t.moved).1)
  !t.writes && (t.rep || decide (t.moved < t.total)) && decide (t.ring.length < t.room) && t.behind == 0 &&
    !(k.fenced clsR [r]) && !(k.loads.any fun l => l.isAmo && shares s c r (l.va, l.size)) &&
    (match k.tfault with
      | some f => decide ((f.va : Int) = v)
      | none => true)

/-- No down link holds the stream's next element back (R402). -/
def streamUp (s : State) (c b : Nat) (t : Stream) : Bool :=
  s.downLinks.isEmpty || (match streamAccess s c (t.elemAddr t.moved) (t.elemBits t.moved).1 1 t.writes with
    | .ok (tr, s') => rangesUp s' c (reqStream b) tr [((t.elemAddr t.moved).toNat, (t.elemBits t.moved).1)]
    | .error _ => true)

/-- A filled entry joins binding b's ring (R279). It goes to ring place (element mod ring entries) of local memory too (log 30). -/
def putFill (s : State) (c b : Nat) (t : Stream) (e : RingEntry) : State :=
  let size := t.entryBytes
  let at_ := fld (dw t.words 4) 33 16 + size * (t.moved % t.room)
  let s := setLocal s c at_ (leBytes size e.word.toNat)
  s.updCore c fun k => { k.landed (reqStream b) with streams := mput k.streams b { t with ring := t.ring ++ [e], moved := t.step } }

/-- The next fill of binding b of core c (R279): none while it waits for a translation's resolution. -/
def fillStream (s : State) (c b : Nat) (t : Stream) : Option State :=
  let v := t.elemAddr t.moved
  let (n, sh, w) := t.elemBits t.moved
  let put (s : State) (e : RingEntry) : State := putFill s c b t e
  match streamAccess s c v n (streamAlign (ptrFc t.base)) false with
  | .error (.trap x) => some (put s (.err x.held))
  | .error .hold => none
  | .error (.stall s') => if (s'.core c).tfault = (s.core c).tfault then none else some s'
  | .ok (tr, s') =>
    let bs := overlay (s.core c) v.toNat (readRange s' c tr v.toNat n)
    let inv := if windowOf v.toNat = .ownLocal then firstInvalid (s.core c) (v.toNat - localBase) n else none
    some (put (countEccRanges s' c tr [(v.toNat, n)]) (.val (streamValue (ptrFc t.base) (bitsOf bs sh w)) inv))

/-- STREAM_FILL of binding b of core c. -/
def execStreamFill (c b : Nat) (s : State) : Host.Outcome State Fault Refusal :=
  match (mfind (s.core c).streams b).bind fun t => if fillDue s c t && streamUp s c b t then fillStream s c b t else none with
  | some s' => event s true s'
  | none => event s false s

/-- A drain waits for earlier accesses of its bytes, for a fence or an acquire AMO that came before its push (R293, R320), for a lent cell and
for another fault's resolution. -/
def drainEntryDue (s : State) (c b : Nat) (t : Stream) : Bool :=
  let k := s.core c
  let v := t.elemAddr t.moved
  let r : Span := (v.toNat, (t.elemBits t.moved).1)
  t.writes && !t.ring.isEmpty && !(k.storesMeet s c [r]) && !(k.loadsMeet s c r) && !(engLent s c [r]) &&
    !(k.fences.any fun f => clsMeet clsW f.succ && mget 0 f.pushed b == 0 && f.pending k s c) &&
    !(k.loads.any fun l => l.acquires && mget 0 l.pushed b == 0) &&
    (match k.tfault with
      | some f => decide ((f.va : Int) = v)
      | none => true)

/-- The oldest pushed entry of binding b goes to memory (R279): one that fails a check is not written and leaves the stream's deferred
error. -/
def drainEntry (s : State) (c b : Nat) (t : Stream) : Option State :=
  let v := t.elemAddr t.moved
  let (n, sh, w) := t.elemBits t.moved
  let next : Stream := { t with ring := t.ring.tail, moved := t.step }
  let put (s : State) (x : Stream) : State := s.updCore c fun k => { (k.drained b).landed (reqStream b) with streams := mput k.streams b x }
  match streamAccess s c v n (streamAlign (ptrFc t.base)) true with
  | .error (.trap x) => some (put s { next with err := some (t.err.getD x.held) })
  | .error .hold => none
  | .error (.stall s') => if (s'.core c).tfault = (s.core c).tfault then none else some s'
  | .ok (tr, s') =>
    let old := leNat (readRange s' c tr v.toNat n)
    let code := streamCode (ptrFc t.base) (((t.ring.head?).map (·.word)).getD 0)
    let new := old - old / 2 ^ sh % 2 ^ w * 2 ^ sh + code % 2 ^ w * 2 ^ sh
    some (put (writeRange s' c tr v.toNat (leBytes n new)) next)

/-- STREAM_DRAIN_ENTRY of binding b of core c. -/
def execStreamDrainEntry (c b : Nat) (s : State) : Host.Outcome State Fault Refusal :=
  match (mfind (s.core c).streams b).bind fun t => if drainEntryDue s c b t && streamUp s c b t then drainEntry s c b t else none with
  | some s' => event s true s'
  | none => event s false s

/-! ## Allocation (R281) -/

/-- The end of the highest region that R58 prepared. -/
def declFloor (ds : List Decl) : Nat :=
  ds.foldl (fun m d => max m (if d.kind = 1 then d.loff + 64 else if d.kind = 2 then d.loff + 64 + d.nslot * d.ssize else 0)) 0

/-- LMALLOC (R281). -/
def execLmalloc (l : Lit) (d b : BitVec 5) (s : State) : Host.Outcome State Fault Refusal :=
  settle s (withRegs s [b.toNat] [d.toNat] fun s' => do
    let n := ((rbval s l b.toNat).toNat + 63) / 64 * 64
    let k := s'.me
    let floor := declFloor (((k.launchOf s).map (·.decls)).getD [])
    if k.amark < n + floor then setG s' d.toNat 0
    else
      let at_ := k.amark - n
      let s1 := invalidate (s'.updMe fun k => { k with amark := at_ }) s.cur at_ n
      setG s1 d.toNat (BitVec.ofNat 64 (localBase + at_)))

/-- LMFREE (R281). -/
def execLmfree (_ : Lit) (a : BitVec 5) (s : State) : Host.Outcome State Fault Refusal :=
  settle s (withRegs s [a.toNat] [] fun s' => do
    let v := (gval s a.toNat).toNat
    need (decide (v % 64 = 0 ∧ localBase + s'.me.amark ≤ v ∧ v ≤ localBase + s'.me.heap s')) (trapC cILLEGAL)
    .ok (s'.updMe fun k => { k with amark := v - localBase }))

/-- LMINV (R281). -/
def execLminv (l : Lit) (a b : BitVec 5) (s : State) : Host.Outcome State Fault Refusal :=
  settle s (withRegs s [a.toNat, b.toNat] [] fun s' => do
    let p := gval s a.toNat
    let n := (rbval s l b.toNat).toNat
    need (decide (fld p 53 48 = 0)) (trapC cTAG)
    let v := ptrAddr p
    let k := s'.me
    need (decide (v % 4 = 0 ∧ n % 4 = 0)) (trapA cMISALIGN true v)
    need (decide (localBase ≤ v ∧ v + n ≤ localBase + k.lmem s')) (trapA cPERMISSION true v)
    need (!(k.blocked s' s.cur (v, n)) && !(k.loadsMeet s' s.cur (v, n))) .hold
    match (span (v - localBase) n).find? fun o => k.marginAt o with
    | some o => .error (trapA cGHOST true (localBase + o))
    | none => do
      need (!(engLent s' s.cur [(v, n)])) (.stall s)
      .ok (invalidate s' s.cur (v - localBase) n))

end Sys2Proof.Machine
end

