-- ==== Sys2Proof/Machine/Margins.lean ====
section
/-! DEFINITION. Paddock windows (11 R282 to R287) and the arrival of pieces (10 R255, R256). -/

namespace Sys2Proof.Machine

/-- The current core's launch core index. -/
def Core.lk (k : Core) : Nat := (k.occ.map (·.k)).getD 0

/-- A declaration meets R251. -/
def declOk (ws : List Word) : Bool :=
  let w := dw ws
  let fc := fld (w 0) 5 0
  let n := pdNdim ws
  let used (d : Nat) := decide (d < n)
  [1, 2, 3, 4, 5, 15, 17].contains fc && decide (n ≤ 3) && fld (w 0) 15 11 == 0 && fld (w 0) 31 28 == 0 &&
  fld (w 1) 63 48 == 0 && fld (w 2) 63 22 == 0 && w 3 == 0 && (span 29 3).all (fun i => w i == 0) &&
  (List.range 3).all fun d =>
    let x := pdDim ws d
    let split (j : Nat) := fld (w (4 + 8 * d + j / 4)) (16 * (j % 4) + 15) (16 * (j % 4))
    if used d then
      decide (x.mrg ≤ 8 ∧ 1 ≤ x.ext ∧ 1 ≤ x.nblk ∧ x.nblk ≤ 32) && fld (w 2) (8 * d + 7) (8 * d + 6) == 0 && split 0 == 0 &&
      (List.range 32).all fun j =>
        if j = 0 then true else if j < x.nblk then decide (split (j - 1) < split j ∧ split j < x.ext) else split j == 0
    else
      x.mrg == 0 && fld (w 0) (8 + d) (8 + d) == 0 && x.ext == 0 && fld (w 2) (8 * d + 7) (8 * d) == 0 &&
      (List.range 8).all (fun j => w (4 + 8 * d + j) == 0) && fld (w 28) (16 * d + 31) (16 * d + 16) == 0

/-- The owners are distinct launch cores, and core k is one (R283). -/
def ownersOk (ws : List Word) (ncores k : Nat) : Bool :=
  let os := (pdBlocks ws).map (pdOwner ws)
  os.all (fun o => decide (o < ncores)) && os.Nodup && os.contains k

/-- Bytes of the box of a core. -/
def boxBytes (ws : List Word) (k : Nat) : Nat := boxCells (pdBox ws ((pdBlock ws k).getD [])) * pdBytes ws

/-- A sub-box record of a face table (R284). -/
def subBoxOf (ws : List Word) (i : Nat) : SubBox :=
  let w (j : Nat) := dw ws (1 + 4 * i + j)
  let v (j : Nat) : List Nat := [fld (w j) 15 0, fld (w j) 31 16, fld (w j) 47 32]
  { peer := fld (w 0) 12 0, face := fld (w 0) 20 16, sends := fld (w 0) 24 24 == 1, gorg := v 1, borg := v 2, ext := v 3 }

/-- The faces of a paddock of n dimensions are the numbers below 3^n but for the owned block's (R253). -/
def isFace (n f : Nat) : Bool := decide (f < 3 ^ n ∧ f ≠ (3 ^ n - 1) / 2)

/-- A face table's record is well formed (R284): reserved bits, ranges, and the receiver's box. -/
def subBoxOk (decl tab : List Word) (i me ncores : Nat) : Bool :=
  let w (j : Nat) := dw tab (1 + 4 * i + j)
  let n := pdNdim decl
  let r := subBoxOf tab i
  let recv := if r.sends then r.peer else me
  let box := pdBox decl ((pdBlock decl recv).getD [])
  fld (w 0) 15 13 == 0 && fld (w 0) 23 21 == 0 && fld (w 0) 63 25 == 0 &&
  [w 1, w 2, w 3].all (fun x => x.toNat / 2 ^ (16 * n) == 0) &&
  decide (r.peer < ncores) && (pdBlock decl r.peer).isSome && isFace n r.face &&
  (List.range n).all fun d =>
    decide (1 ≤ r.ext.getD d 0 ∧ r.borg.getD d 0 + r.ext.getD d 0 ≤ box.getD d 0 ∧
      r.gorg.getD d 0 + r.ext.getD d 0 ≤ (pdDim decl d).ext)

/-- Ghost and boundary cells at binding (R283): boundary cells take BVAL; words made wholly of ghost cells become invalid. -/
def bindCells (s : State) (c : Nat) (ws : List Word) (b : List Nat) (box : Nat) : State :=
  let w := pdBytes ws
  let val := fld (dw ws 0) 63 32
  let cells := (pdPositions ws b).map fun pos => (box + boxIndex (pdBox ws b) pos * w, pdCell ws b pos)
  let s := cells.foldl (fun s x => match x.2 with
    | .boundary _ => setLocal s c x.1 (leBytes w val)
    | _ => s) s
  let n := cells.length * w
  (List.range (n / 4)).foldl (fun s i =>
    let ghost := (List.range (4 / w)).all fun j => match (cells[i * (4 / w) + j]?).map (fun x => x.2) with
      | some (Cell.ghost _ _ _) => true
      | _ => false
    if ghost then invalidate s c (box + 4 * i) 4 else s) s

/-- PDECL (R283, R284). The declaration is read from the Common as it stands at issue, without the core's buffered stores (log 88). -/
def execPdecl (l : Lit) (a b : BitVec 5) (w : BitVec 2) (s : State) : Host.Outcome State Fault Refusal :=
  settle s (withRegs s [a.toNat, b.toNat] [] fun s' => do
    let c := s.cur
    let k := s'.me
    let p := corePart s c
    let win := w.toNat
    need (mfind k.padds win).isNone (trapC cILLEGAL)
    let da := fld (k.ctl (0x022 + win)) 47 0
    need (windowOf da == .common && decide (da % 64 = 0 ∧ da - commonBase + 256 ≤ commonSize s p)) (trapC cILLEGAL)
    need (!(s'.bad (commonKey s p (da - commonBase)) 256)) (trapA cUNCORR false da)
    let ws : List Word := (List.range 32).map fun i =>
      BitVec.ofNat 64 (leNat ((span (da - commonBase + 8 * i) 8).map fun o => s'.byte (commonKey s p o)))
    let ncores := ((k.launchOf s).map (·.ncores)).getD 0
    need (declOk ws && ownersOk ws ncores k.lk) (trapC cILLEGAL)
    let v := gval s a.toNat
    need (decide (fld v 53 48 = 0)) (trapC cTAG)
    let box := ptrAddr v - localBase
    let n := boxBytes ws k.lk
    need (windowOf (ptrAddr v) == .ownLocal && decide (box % 64 = 0 ∧ box + n ≤ k.heap s)) (trapC cILLEGAL)
    need (!k.padds.any fun x => meets (x.2.box, boxBytes x.2.words x.2.k) (box, n)) (trapC cILLEGAL)
    let t := rbval s l b.toNat
    let (subs, s1) ←
      if fld (s.part p).facc 3 3 = 1 then do
        need (decide (t = 0)) (trapC cILLEGAL)
        .ok ([], s')
      else do
        need (decide (fld t 53 48 = 0)) (trapC cTAG)
        need (decide (ptrAddr t % 8 = 0)) (trapA cMISALIGN false (ptrAddr t))
        let (h, s1) ← descRead s' (ptrAddr t) 1
        let cnt := (dw h 0).toNat
        need (decide (1 ≤ cnt ∧ cnt ≤ 1024)) (trapC cILLEGAL)
        let (tab, s2) ← descRead s1 (ptrAddr t) (1 + 4 * cnt)
        need ((List.range cnt).all fun i => subBoxOk ws tab i k.lk ncores) (trapC cILLEGAL)
        .ok ((List.range cnt).map (subBoxOf tab), s2)
    let pd : Paddock := { k := k.lk, decl := da, words := ws, box := box, gen := 0, subs := subs, stamps := [] }
    let s1 := countEccRanges s1 c [] [(da, 256)]
    let s2 := bindCells s1 c ws ((pdBlock ws k.lk).getD []) box
    .ok (s2.updMe fun k => { k with padds := mput k.padds win pd }.setCtl (0x022 + win) (BitVec.ofNat 64 (2 ^ 63 + da))))

/-- The pieces that a window's core sends (R254, R284): receiver and the receiver's face. -/
def Paddock.sent (p : Paddock) : List (Nat × Nat) :=
  let all :=
    if p.subs.isEmpty then
      (pdBlocks p.words).flatMap fun b =>
        (pdPositions p.words b).filterMap fun pos => match pdCell p.words b pos with
          | .ghost f o _ => if o = p.k then some (pdOwner p.words b, f) else none
          | _ => none
    else (p.subs.filter (·.sends)).map fun r => (r.peer, r.face)
  all.foldl (fun acc x => if acc.contains x then acc else acc ++ [x]) []

/-- The binding of window w of the current core, or ILLEGAL (R285 to R287). -/
def boundPad (s : State) (w : Nat) : Res Paddock :=
  match mfind s.me.padds w with
  | some p => .ok p
  | none => .error (trapC cILLEGAL)

/-- MUSTER (R255, R285): it stalls until every message of the previous generation has read its cells (R256) and every store before it
has been performed (R344). Its pieces may go anywhere in the launch, so any fence of class CW holds it (R321). -/
def execMuster (_ : Lit) (w : BitVec 2) (s : State) : Host.Outcome State Fault Refusal :=
  settle s (do
    let k := s.me
    need (!(k.fences.any fun f => clsMeet clsCW f.succ) && !(k.loads.any Load.acquires)) .hold
    need (!k.inCompute) (trapC cDETERM)
    let p ← boundPad s w.toNat
    need (!(k.pieces.any fun m => m.win == w.toNat) && k.storesDone s s.cur) (.stall s)
    let g := p.gen + 1
    let (part, blk) := ((k.occ.map fun o => (o.part, o.blk)).getD (0, 0))
    let new : List PieceMsg := p.sent.map fun x => { part := part, blk := blk, win := w.toNat, decl := p.decl, peer := x.1, face := x.2, tag := g }
    .ok (s.setMe { k with padds := mput k.padds w.toNat { p with gen := g }, pieces := k.pieces ++ new }))

/-- Face f of the current core's window is fresh (R257). -/
def faceFresh (p : Paddock) (f : Nat) : Bool := p.fresh p.block f

/-- GWAIT (R286). -/
def execGwait (l : Lit) (b : BitVec 5) (w : BitVec 2) (s : State) : Host.Outcome State Fault Refusal :=
  settle s (withRegs s [b.toNat] [] fun s' => do
    let p ← boundPad s' w.toNat
    let m := rbval s l b.toNat
    let fs := (List.range 64).filter fun f => m.getLsbD f
    need (fs.all fun f => isFace (pdNdim p.words) f) (trapC cILLEGAL)
    need (fs.all fun f => faceFresh p f) (.stall s)
    .ok s')

/-- GSTAT (R286). -/
def execGstat (_ : Lit) (d : BitVec 5) (w : BitVec 2) (s : State) : Host.Outcome State Fault Refusal :=
  settle s (withRegs s [] [d.toNat] fun s' =>
    let k := s'.me
    setG s' d.toNat (match mfind k.padds w.toNat with
      | none => 0
      | some p =>
        let fs := (List.range 27).filter fun f => isFace (pdNdim p.words) f
        let bits (g : Nat → Bool) := (fs.filter g).foldl (fun n f => n + 2 ^ f) 0
        BitVec.ofNat 64 (bits (faceFresh p) + p.gen % 32 * 2 ^ 27 + bits (fun f => !faceFresh p f) * 2 ^ 32)))

/-- PDROP (R287). -/
def execPdrop (_ : Lit) (w : BitVec 2) (s : State) : Host.Outcome State Fault Refusal :=
  settle s (do
    let k := s.me
    let p ← boundPad s w.toNat
    let fs := (List.range 27).filter fun f => isFace (pdNdim p.words) f
    need (!(k.pieces.any fun m => m.win == w.toNat) && fs.all fun f => faceFresh p f) (.stall s)
    .ok (s.setMe ({ k with padds := mdel k.padds w.toNat }.setCtl (0x022 + w.toNat) (BitVec.ofNat 64 p.decl))))

/-! ## Arrivals -/

/-- The receiver of a piece, with its window: it has bound the declaration and made its own muster (R255). -/
def pieceTarget (s : State) (c : Nat) (m : PieceMsg) : Option (Nat × Nat × Paddock) :=
  (s.launch m.part m.blk).bind fun l =>
    let d := launchCore s m.part l m.peer
    if !l.setup.contains (l.lcore m.peer) || (downOn s (foldOf c) (foldOf d) false).isSome then none
    else ((s.core d).padds.find? fun x => x.2.decl == m.decl && decide (m.tag ≤ x.2.gen)).map fun x => (d, x.1, x.2)

/-- The cells of a piece are written and its stamp set (R255, R256, R284), once the sender's loads have been performed (R332), as the stores
before the MUSTER have been (R344): the message reads the cells from the sender now. -/
def acceptPiece (s : State) (c i : Nat) (m : PieceMsg) : Option State :=
  (if (s.core c).readsDone s c then pieceTarget s c m else none).bind fun (d, w, p) =>
    (mfind (s.core c).padds m.win).map fun from_ =>
      let n := pdBytes p.words
      let cells := from_.pieceCells m.peer m.face
      let box := pdBox p.words p.block
      let moves := cells.map fun x => (p.box + boxIndex box x.1 * n, localBytes s c (from_.homeOf x.2) n)
      let s := countEccRanges s c [] (cells.map fun x => (localBase + from_.homeOf x.2, n))
      let s := moves.foldl (fun s x => setLocal s d x.1 x.2) s
      let stamps := (from_.k, m.face, m.tag) :: p.stamps.filter fun x => !(x.1 == from_.k && x.2.1 == m.face)
      let s := s.updCore d fun k => { k with padds := mput k.padds w { p with stamps := stamps } }
      s.updCore c fun k => { k with pieces := k.pieces.eraseIdx i }

/-- PIECE_ACCEPT of piece i of sending core c. -/
def execPieceAccept (c i : Nat) (s : State) : Host.Outcome State Fault Refusal :=
  match ((s.core c).pieces[i]?).bind (acceptPiece s c i) with
  | some s' => event s (s.agreed c 10 i (s.core c).pieces.length) s'
  | none => event s false s

end Sys2Proof.Machine
end

