-- ==== Sys2Proof/Machine/Units.lean ====
section
/-! DEFINITION. Units and routines on a core (02 R47, R59, R62, R63, 03 R73 to R79, R83, 11 R274, R280): set-up, start, suspension
and end, and the supersteps of a gang. -/

namespace Sys2Proof.Machine

/-! ## Set-up and start -/

/-- Control registers at launch (R62, R217, R263; the fields marked 'launch' are zero otherwise). YFP is no launch register. -/
def setupCtl (k : Core) (l : Launch) : SMap Word :=
  let ws : List (Nat × Nat) := [(0x010, l.nbv), (0x020, if l.det then 0x100 else 0), (0x038, 0x2133), (0x040, l.tag % 2 ^ 32),
    (0x091, (k.ctl 0x091).toNat), (0x0A0, l.wdog), (0x0B1, l.rcd), (0x0B2, l.param), (0x0C0, l.bdom)]
  ws.foldl (fun m x => mset 0 m x.1 (BitVec.ofNat 64 x.2)) []

/-- One declaration prepared in a core's reserved local memory (R58). A template that cannot be read is copied as zeros (log 102). -/
def prepareDecl (p job c : Nat) (s : State) (d : Decl) : State :=
  match d.kind with
  | 1 =>
    let ws := (agentReads s p job d.srca 8).getD []
    let s := agentCount s p job d.srca 8
    let s := setLocal s c d.loff ((List.range 8).flatMap fun i => leBytes 8 (dw ws i).toNat)
    s.updCore c fun k => k.setCtl (0x030 + d.idx) (BitVec.ofNat 64 (localBase + d.loff))
  | 2 => setLocal s c d.loff (leBytes 2 d.nslot ++ leBytes 2 d.ssize ++ leBytes 2 d.nslot ++ List.replicate 58 0)
  | _ => s.updCore c fun k => k.setCtl (0x022 + d.idx) (BitVec.ofNat 64 d.srca)

/-- The launch unit sets up core c for a launch (R62, R281). A core set up for another launch since is set up again. -/
def setupCore (s : State) (p blk c : Nat) (l : Launch) : State :=
  let lc := 8 * logFold s p (foldOf c) + c % 8
  if l.setup.contains lc then s
  else
    let k := s.core c
    let k : Core := { k with
      valid := k.valid.filter (fun x => l.lmem / 4 ≤ x.1), r := { k.r with ctl := [], lanes := 0, lastReq := 0 }, chutes := [],
      streams := [], padds := [], pieces := [], journal := [], jspill := [], xused := [], xtaken := [], xwritten := [], snap := none,
      snapBad := false, rollbacks := 0, amark := l.lmem - l.stack, sendErr := false, droveErr := none, queues := [], fences := [] }
    let old := s.core c
    let s := l.decls.foldl (prepareDecl p l.job c) (s.setCore c k)
    let ctl := (setupCtl old l).foldl (fun m x => mset 0 m x.1 x.2) (s.core c).r.ctl
    let s := s.updCore c fun k => { k with r := { k.r with ctl := ctl } }
    let s := s.updFold (foldOf c) fun f => { f with credits := mset 0 f.credits (c % 8) 0 }
    let other (x : Nat × Launch) : Nat × Launch :=
      if x.1 = blk then (x.1, { x.2 with setup := lc :: x.2.setup }) else (x.1, { x.2 with setup := x.2.setup.filter (· != lc) })
    s.updPart p fun q => { q with launches := q.launches.map other }

/-- Doublewords of own local memory at an offset. -/
def localDws (s : State) (c off n : Nat) : List Word := (chunksOf 8 (localBytes s c off (8 * n))).map fun b => BitVec.ofNat 64 (leNat b)

/-- The 64 bytes that a start reads for a declaration hold an uncorrectable error (R240). -/
def declBad (s : State) (c : Nat) (d : Decl) : Bool := s.bad (localKey c d.loff) 64

/-- The binding of stream declaration d of a core, where its descriptor can be read and keeps to R278. -/
def declStream (s : State) (c : Nat) (l : Launch) (d : Decl) : Option Stream :=
  let t := streamOf (localDws s c d.loff 8) (localBase + d.loff)
  if decide (d.kind = 1) && streamOk t d.idx d.loff (l.lmem - l.stack) && !(declBad s c d) then some t else none

/-- A declared stream of a flagged launch leaves own local memory (R279). -/
def declsLeave (s : State) (c : Nat) (l : Launch) : Bool :=
  l.det && l.decls.any fun d => match declStream s c l d with
    | some t => !streamLocal t l.lmem
    | none => false

/-- The declared chutes and streams of a core are loaded and bound at a start (R58, R274, R280), held slots included; a block or descriptor
that breaks its limits, or cannot be read (log 116), loads nothing. Where a pattern of a flagged launch leaves own local memory, the start
takes DETERMINISM at its first packet (R279). -/
def bindDecls (c : Nat) (l : Launch) (s : State) : State :=
  let leaves := declsLeave s c l
  let s := l.decls.foldl (fun s d =>
    let ws := localDws s c d.loff 8
    let s := if d.kind = 1 ∨ d.kind = 2 then countEccRanges s c [] [(localBase + d.loff, 64)] else s
    match d.kind with
    | 1 => match declStream s c l d with
      | some t => if l.det && !streamLocal t l.lmem then s else bindStream s c d.idx t
      | none => s
    | 2 => if chuteLoads ws d.loff (l.lmem - l.stack) && !(declBad s c d) then s.setChute c d.idx (chuteOf ws d.loff)
           else s.updCore c fun k => { k with chutes := mdel k.chutes d.idx }
    | _ => s) s
  if leaves then
    { takeTrap { s with cur := c } { cause := cDETERM, acc := 3, val := false, data := 0, deferred := none } false with cur := s.cur }
  else s

/-- General registers at a start (R63): g2 and the values given for g3 on. -/
def startRegs (l : Launch) (vs : List Word) : SMap Word :=
  vs.zipIdx.foldl (fun m x => mset 0 m (3 + x.2) x.1) (mset 0 [] 2 (BitVec.ofNat 64 (localBase + l.lmem)))

/-- Core c begins to run at an address (R63, R191, R192). -/
def beginRun (s : State) (c : Nat) (l : Launch) (o : Occ) (pc : Nat) (vs : List Word) : State :=
  let s := foldWakes s (foldOf c)
  let s := s.updCore c fun k => { k.fresh with
    occ := some o
    r := { k.r with g := startRegs l vs, pc := BitVec.ofNat 48 pc, npc := BitVec.ofNat 48 pc, vl := 256, v := [] }
    seqr := [], vcap := none, lodcounted := false }
  let s := s.updCore c fun k => k.setCtl 0x0B0 (BitVec.ofNat 64 o.rcd)
  bindDecls c l s

/-- The launch core whose partition-logical core is lc. -/
def Launch.indexOf (l : Launch) (lc : Nat) : Nat := if l.map = [] then lc - 8 * l.fbase else l.map.findIdx (· == lc)

/-- The launch block of the persistent launch that core c holds a unit of, running or suspended (R79, R81), with the unit's record. -/
def persistentOn (s : State) (c : Nat) : Option (Nat × Nat) :=
  let q := s.part (partOfFold s (foldOf c))
  let lc := 8 * logFold s (partOfFold s (foldOf c)) (foldOf c) + c % 8
  q.launches.findSome? fun x =>
    if x.2.pers && x.2.setup.contains lc && !(q.blk .launch x.1).done then (x.2.homes.find? fun h => h.2 == c).map fun h => (x.1, h.1) else none

/-- A record that a core may take (R45 to R47): READY, no reserved value in SUSP or a reserved bit, and no reserved word of one that was
pre-empted. -/
def recordOk (ws : List Word) : Bool :=
  let w0 := dw ws 0
  fld w0 50 48 == 1 && fld w0 2 0 != 7 && fld w0 52 51 == 0 && (fld w0 2 0 != 5 || (span 3 5).all fun i => dw ws i == 0)

/-- Core c takes the unit whose record lies at rcd (R47, R63): cancelled with status 0x08 where the record's state is invalid, and with 0x04
where the record cannot be read (log 116). -/
def takeUnit (s : State) (p blk c rcd : Nat) (l : Launch) : State :=
  let ws := (List.range 8).map fun i => (agentRead s p l.job (rcd + 8 * i)).getD 0
  let w0 := dw ws 0
  let susp := fld w0 2 0
  let s := agentCount s p l.job rcd 8
  let fail (status : Nat) (cause : BitVec 8) : State :=
    let k := l.indexOf (8 * logFold s p (foldOf c) + c % 8)
    let e : ErrRec := { core := k, status := status, cause := cause, epc := fld w0 47 3 * 8, einfo := 0, unit_ := rcd }
    cancelUnit (writeErr s p blk e) p blk rcd status
  if agentBad s p l.job rcd 8 then fail 0x04 cUNCORR
  else if !recordOk ws then fail 0x08 0
  else
    let s := setupCore s p blk c l
    let s := agentWrite s p l.job rcd (putFld w0 50 48 2)
    let vs := ws.drop 2
    let o : Occ := { part := p, blk := blk, k := l.indexOf (8 * logFold s p (foldOf c) + c % 8), rcd := rcd, flagged := false, ss := 0,
                     pos := 0, stage := 0, running := true, xrout := false, since := s.clk }
    let s := beginRun s c l o (fld w0 47 3 * 8) vs
    let s := if susp = 0 then s.updCore c fun k => { k with wdogBase := s.clk } else s
    s.updPart p fun q => match mfind q.launches blk with
      | some l => { q with launches := mput q.launches blk { l with
          stage := .placed, homes := if l.pers && !(l.homes.any fun h => h.1 == rcd) then (rcd, c) :: l.homes else l.homes } }
      | none => q

/-! ## Suspension -/

/-- What a suspension point does before it suspends (R328, R355): joins every agent of the core, waiting in state `s0`, and takes any
deferred error, of the lowest queue first, then the drove's, a write stream's and a message's. A collective's contribution has been
read by its VSSET (R398). -/
def joinAgents (s0 s : State) : Res Unit := do
  let c := s.cur
  let k := s.me
  need (!s.pre.capOpen) (trapC cILLEGAL)
  need (k.joined s c && k.streams.all (fun x => !x.2.writes || x.2.ring.isEmpty)) (.stall s0)
  match k.deferredOf (List.range 8) with
  | some e => .error e
  | none =>
    match k.droveErr with
    | some (e, _) => .error (e.trap 8)
    | none =>
      match k.streamErr with
      | some e => .error e
      | none => need (!k.sendErr) (.trap { cause := cCHANNEL, acc := 3, val := false, data := 0, deferred := some 32 })

/-- Bindings end with POS in their descriptors, chutes go to their blocks (R274, R280). -/
def putAway (s : State) (c : Nat) : State :=
  let s := (s.core c).streams.foldl (fun s x => endStream s c x.1) s
  (s.core c).chutes.foldl (fun s x => writeChute s c x.2) s

/-- Core c no longer holds its unit or routine (R83, R191): its general registers keep their last values. -/
def leaveCore (s : State) (c : Nat) : State :=
  let s := mirrorPair (putAway (endCapture s c) c) c
  let pair := (s.core c).yoke.isSome
  let idle (k : Core) : Core := { k with r := { k.r with vl := 256, v := [], lanes := 0 } }
  let s := unpair (if pair then s.updCore (partnerCore c) idle else s) c
  let s := s.updCore c fun k => { k with
    occ := none, r := (idle k).r, seqr := [], vcap := none, wait := none, tfault := none,
    macroOp := none, aDone := false, preempt := none, yoke := none }
  releaseMatrix s (foldOf c)

/-- The unit of core c suspends (R47, R73): words 0 and 2 to 7 of its record are written, and a READY unit goes to be placed again. -/
def suspendUnit (s : State) (c st susp pc : Nat) : State :=
  let k := s.core c
  match k.occ, k.launchOf s with
  | some o, some l =>
    let t := logFold s o.part (foldOf c)
    let w0 : Word := BitVec.ofNat 64 (t * 2 ^ 54 + 2 ^ 53 + st * 2 ^ 48 + pc / 8 * 8 + susp)
    let s := agentWrite s o.part l.job o.rcd w0
    let s := (List.range 6).foldl (fun s i => agentWrite s o.part l.job (o.rcd + 16 + 8 * i) (mget 0 k.r.g (3 + i))) s
    let s := (leaveCore s c).updCore c fun v => { v with preempt := k.preempt }
    if st = 1 then makeReady s o.part o.blk o.rcd l else s
  | _, _ => s

/-- The current unit, for an instruction that only a unit of an unflagged launch may execute; DETERMINISM in a flagged one. -/
def unitOf (s : State) : Res (Occ × Launch) :=
  match s.me.occ, s.me.launchOf s with
  | some o, some l => if o.flagged then .error (trapC cDETERM) else .ok (o, l)
  | _, _ => .error (trapC cILLEGAL)

/-! ## Routines and supersteps (R59) -/

/-- Superstep, X and offset of a routine entry. -/
def routSs (w : Word) : Nat := fld w 47 32
def routX (w : Word) : Bool := fld w 48 48 == 1
def routOff (w : Word) : Nat := fld w 31 0

/-- The routine list of launch core k. -/
def Launch.routine (l : Launch) (k : Nat) : List Word := l.routines.getD k []

/-- A member arrives at its barrier (R302): it waits idle for the release. -/
def arrive (s : State) (c : Nat) : State := s.updCore c fun k => { k with occ := k.occ.map fun o => { o with stage := 1, running := false } }

/-- The next routine of a gang member starts, or it arrives at its barrier, or its exchange routines have ended (R59). -/
def nextRoutine (s : State) (c : Nat) : State :=
  let k := s.core c
  match k.occ, k.launchOf s with
  | some o, some l =>
    let rs := l.routine o.k
    let x := decide (2 ≤ o.stage)
    let go (w : Word) : Bool := routSs w == o.ss && routX w == x
    match (rs[o.pos]?).filter go with
    | some w =>
      let first := rs.findIdx fun v => routSs v == o.ss
      let o' : Occ := { o with pos := o.pos + 1, running := true, xrout := x }
      beginRun s c l o' (l.code + routOff w)
        [BitVec.ofNat 64 o.ss, BitVec.ofNat 64 o.k, BitVec.ofNat 64 (o.pos - first)]
    | none =>
      if x then s.updCore c fun k => { k with occ := some { o with stage := 3, running := false } } else arrive s c
  | _, _ => s

/-- The routine of core c ends (R355): its bindings and chutes are put away, and the next one starts. -/
def endRoutine (s : State) (c : Nat) : State :=
  let s := putAway (endCapture s c) c
  let s := s.updCore c fun k => { k with r := { k.r with lanes := 0 }, seqr := [], vcap := none, wait := none }
  nextRoutine s c

/-- The routine that runs is the last compute routine of its superstep (R59). -/
def lastCompute (s : State) (k : Core) : Bool :=
  match k.occ, k.launchOf s with
  | some o, some l => !o.xrout && !(((l.routine o.k)[o.pos]?).any fun w => routSs w == o.ss && !routX w)
  | _, _ => false

end Sys2Proof.Machine
end

