-- ==== Sys2Proof/Machine/Sync.lean ====
section
/-! DEFINITION. Event lines from instructions (12 R298), deques, fork and join (12 R307 to R309, 02 R48, R49), and message channels
(12 R310, R311). -/

namespace Sys2Proof.Machine

/-! ## EVT -/

/-- Instructions that a flagged launch bars (R298, R307). -/
def unflagged (s : State) : Res Unit := need (!s.me.inFlagged) (trapC cDETERM)

/-- EVWAIT (R298). -/
def execEvwait (_ : Lit) (e : BitVec 5) (s : State) : Host.Outcome State Fault Refusal :=
  settle s (do
    unflagged s
    need (!s.pre.capOpen) (trapC cILLEGAL)
    let (o, _) ← unitOf s
    let c := s.cur
    let f := foldOf c
    let v := s.fold f
    let i := e.toNat
    if 0 < v.event i ∧ !(v.evwait.any fun w => w.1 == i) then
      .ok (s.setFold f { v with events := mset 0 v.events i (v.event i - 1) })
    else do
      joinAgents s s
      let s1 := s.updFold f fun v => { v with evwait := v.evwait ++ [(i, .unit_ o.blk o.rcd)] }
      .ok (suspendUnit s1 c 3 4 s.me.r.npc.toNat))

/-- EVSIG (R298): after every earlier load and store of the core. Its message takes the fixed route, and waits while a link of it is down
(R35, R402). -/
def execEvsig (l : Lit) (a b e : BitVec 5) (s : State) : Host.Outcome State Fault Refusal :=
  settle s (withRegs s [a.toNat, b.toNat] [] fun s' => do
    unflagged s
    let (o, la) ← unitOf s
    let t := (gval s a.toNat).toNat
    let n := (rbval s l b.toNat).toNat
    need (decide (t < la.fcount ∧ 1 ≤ n ∧ n < 2 ^ 32)) (trapC cILLEGAL)
    need (s'.me.rwDone s' s.cur) (.stall s)
    let f := devFold s o.part (la.fbase + t)
    need (routeUp s (foldOf s.cur) f (false, false)) (.stall (s.updMe fun k => { k with wait := some (.evsig f) }))
    .ok (addEvent (s'.updMe fun k => { k with wait := none }) f e.toNat n))

/-- EVCNT (R298). -/
def execEvcnt (_ : Lit) (d e : BitVec 5) (s : State) : Host.Outcome State Fault Refusal :=
  settle s (withRegs s [] [d.toNat] fun s' => do
    unflagged s
    setG s' d.toNat (BitVec.ofNat 64 ((s'.fold (foldOf s.cur)).event e.toNat)))

/-! ## Deques (R75, R307) -/

/-- An entry that leaves a deque enters its fold's ready queue (R75). -/
def toReady (s : State) (c : Nat) (x : Nat × Nat) : State := s.updFold (foldOf c) fun f => { f with ready := f.ready ++ [x] }

/-- An entry goes to the next place of the spill area, the top 8 KiB of local memory (R75; log 110). -/
def spillEntry (s : State) (c : Nat) (x : Nat × Nat) : State :=
  let k := s.core c
  (setLocal s c (0x3E000 + 8 * k.spillNext) (leBytes 8 x.2)).updCore c fun k =>
    { k with spill := x :: k.spill, spillNext := (k.spillNext + 1) % 1024 }

/-- A record on the head of a core's own deque: the oldest hardware entry of a full one spills; where the spill area is unavailable, that
entry goes to the fold's ready queue, and where it is full, the oldest entry of all does (R75). Lists hold the newest entry first. -/
def pushDeque (s : State) (c blk rcd : Nat) : State :=
  let k := s.core c
  if k.deque.length < 64 then s.setCore c { k with deque := (blk, rcd) :: k.deque }
  else
    let old := k.deque.getLast?.getD (0, 0)
    let s := s.setCore c { k with deque := (blk, rcd) :: k.deque.dropLast }
    if 253952 < k.lmem s then toReady s c old
    else if k.spill.length < 1024 then spillEntry s c old
    else
      spillEntry (toReady (s.updCore c fun k => { k with spill := k.spill.dropLast }) c (k.spill.getLast?.getD (0, 0))) c old

/-- The newest entry of a core's deque, and the core without it. -/
def popDeque (k : Core) : Option ((Nat × Nat) × Core) :=
  match k.deque, k.spill with
  | r :: rs, _ => some (r, { k with deque := rs })
  | [], r :: rs => some (r, { k with spill := rs, spillNext := (k.spillNext + 1023) % 1024 })
  | [], [] => none

/-- The oldest entry of a core's deque, and the core without it. -/
def stealDeque (k : Core) : Option ((Nat × Nat) × Core) :=
  match k.spill.getLast?, k.deque.getLast? with
  | some r, _ => some (r, { k with spill := k.spill.dropLast })
  | none, some r => some (r, { k with deque := k.deque.dropLast })
  | none, none => none

/-- A doubleword of a record or a join block that an instruction reads (R246): UNCORRECTABLE to the reader, as a failed
completion of the host link is (R403), or its corrected errors counted. -/
def agentWord (s : State) (p job v : Nat) : Res (Word × State) := do
  need (!(agentBad s p job v 1 || (s.me.hostFail && (agentKey s p job v).any isHost))) (trapA cUNCORR false v)
  .ok ((agentRead s p job v).getD 0, agentCount s p job v 1)

/-- DQPUSH (R307). The record's STATE is read after the core's own earlier stores to it (13 R326). -/
def execDqpush (_ : Lit) (a : BitVec 5) (s : State) : Host.Outcome State Fault Refusal :=
  let v := (gval s a.toNat).toNat
  settle s (withChecked s [a.toNat] [] (need (!(s.me.storesMeet s s.cur [(v, 8)])) .hold) fun s' => do
    let (o, la) ← unitOf s
    need (decide (v % 64 = 0 ∧ la.arena ≤ v ∧ v < la.arena + 64 * la.anum)) (trapA cPERMISSION true v)
    let (w, s1) ← agentWord s' o.part la.job v
    need (decide (fld w 50 48 = 1)) (trapC cILLEGAL)
    .ok (pushDeque s1 s.cur o.blk v))

/-- DQPOP (R307). -/
def execDqpop (_ : Lit) (d : BitVec 5) (s : State) : Host.Outcome State Fault Refusal :=
  settle s (withRegs s [] [d.toNat] fun s' => do
    let _ ← unitOf s
    match popDeque s'.me with
    | some (x, k) => setG (s'.setMe k) d.toNat (BitVec.ofNat 64 x.2)
    | none => setG s' d.toNat 0)

/-- DQSTEAL (R307). -/
def execDqsteal (_ : Lit) (d a : BitVec 5) (s : State) : Host.Outcome State Fault Refusal :=
  settle s (withRegs s [a.toNat] [d.toNat] fun s' => do
    let (o, la) ← unitOf s
    let t := (gval s a.toNat).toNat
    need (decide (t < 8 * la.fcount)) (trapC cILLEGAL)
    let c := launchCore s o.part la t
    match stealDeque (s'.core c) with
    | some (x, k) => setG (s'.setCore c k) d.toNat (BitVec.ofNat 64 x.2)
    | none => setG s' d.toNat 0)

/-! ## Fork and join -/

/-- A join block's address (R48, R308): TAG, MISALIGN, PERMISSION, and the checks of a 16-byte store. R308 names TAG for FORK; JOIN takes it
too (log 101). -/
def joinBlock (s : State) (w : Word) : Res State := do
  need (decide (fld w 63 48 = 0)) (trapC cTAG)
  let j := w.toNat
  need (decide (j % 16 = 0)) (trapA cMISALIGN true j)
  need (windowOf j == .common || windowOf j == .global) (trapA cPERMISSION true j)
  let (_, s) ← checkRange s s.cur j 16 true false
  .ok s

/-- The first FREE record of an arena (log 31); one that cannot be read is not free (log 116). -/
def freeRecord (s : State) (p : Nat) (l : Launch) : Option Nat :=
  ((List.range l.anum).map fun i => l.arena + 64 * i).find? fun r => ((agentRead s p l.job r).map fun w => fld w 50 48 == 0).getD false

/-- No record of the arena is free and every unit of the launch waits for one: the launch is cancelled with status 0x06 (R49). -/
def arenaCheck (s : State) (p blk : Nat) : State :=
  match s.launch p blk with
  | none => s
  | some l =>
    if (freeRecord s p l).isNone && l.live.all fun r =>
        let w := (agentRead s p l.job r).getD 0
        fld w 50 48 == 3 && fld w 2 0 == 6
    then cancelLaunch s p blk 0x06 else s

/-- FORK (R308, R49): it acts after every earlier load and store of the unit (13 R332). One that finds a free record does not suspend, and runs
in an open capture too (log 120). -/
def execFork (l : Lit) (d a b : BitVec 5) (s : State) : Host.Outcome State Fault Refusal :=
  settle s (withRegs s [d.toNat, a.toNat, b.toNat, 4, 5, 6, 7, 8] [] fun s' => do
    let (o, la) ← unitOf s
    let j := gval s d.toNat
    let pc := gval s a.toNat
    need (decide (fld pc 63 48 = 0 ∧ (j = 0 ∨ fld j 63 48 = 0))) (trapC cTAG)
    need (decide (pc.toNat % 8 = 0)) (trapA cMISALIGN false pc.toNat)
    let s1 ← if j = 0 then .ok s' else joinBlock s' j
    need (s1.me.rwDone s1 s.cur) (.stall s)
    let (blkw, s1) ← if j = 0 then .ok (0, s1) else agentWord s1 o.part la.job j.toNat
    need (decide (j = 0 ∨ fld blkw 63 32 = 0)) (trapC cILLEGAL)
    match freeRecord s1 o.part la with
    | none => do
      joinAgents s s1
      let s2 := suspendUnit s1 s.cur 3 6 s.me.r.pc.toNat
      let s3 := s2.updPart o.part fun q => match mfind q.launches o.blk with
        | some l => { q with launches := mput q.launches o.blk { l with starved := l.starved ++ [o.rcd] } }
        | none => q
      .ok (arenaCheck s3 o.part o.blk)
    | some r =>
      let s2 := if j = 0 then s1 else agentWrite s1 o.part la.job j.toNat (blkw + 1)
      let ws : List Word := [BitVec.ofNat 64 (2 ^ 48 + pc.toNat), j, rbval s l b.toNat] ++ (span 4 5).map (gval s)
      let s3 := ws.zipIdx.foldl (fun s x => agentWrite s o.part la.job (r + 8 * x.2) x.1) s2
      let s4 := s3.updPart o.part fun q =>
        let x := q.blk .launch o.blk
        let q := q.setBlk .launch o.blk { x with out := x.out + 1 }
        { q with launches := mput q.launches o.blk { la with live := r :: la.live.filter (· != r) } }
      .ok (pushDeque s4 s.cur o.blk r))

/-- JOIN (R309, R48): it acts after every earlier load and store of the unit (13 R332). -/
def execJoin (_ : Lit) (a : BitVec 5) (s : State) : Host.Outcome State Fault Refusal :=
  settle s (withRegs s [a.toNat] [] fun s' => do
    need (!s.pre.capOpen) (trapC cILLEGAL)
    let (o, la) ← unitOf s
    let j := gval s a.toNat
    let s1 ← joinBlock s' j
    need (s1.me.rwDone s1 s.cur) (.stall s)
    let (w, s1) ← agentWord s1 o.part la.job j.toNat
    let n := fld w 31 0
    need (decide (fld w 63 32 = 0 ∧ n ≠ 0)) (trapC cILLEGAL)
    if n = 1 then do
      let s2 := agentWrite s1 o.part la.job (j.toNat + 8) (BitVec.ofNat 64 o.rcd)
      .ok (agentWrite s2 o.part la.job j.toNat 0)
    else do
      joinAgents s s1
      let s2 := agentWrite s1 o.part la.job (j.toNat + 8) (BitVec.ofNat 64 o.rcd)
      let s3 := agentWrite s2 o.part la.job j.toNat (BitVec.ofNat 64 (n - 1))
      let s4 := s3.updPart o.part fun q => match mfind q.launches o.blk with
        | some l => { q with launches := mput q.launches o.blk { l with joins := l.joins ++ [(o.rcd, j.toNat)] } }
        | none => q
      .ok (suspendUnit s4 s.cur 3 2 s.me.r.npc.toNat))

/-! ## Channels -/

/-- A recorded CHANNEL error of an earlier message is taken (R310). -/
def sendError (s : State) : Res Unit :=
  need (!s.me.sendErr) (.trap { cause := cCHANNEL, acc := 3, val := false, data := 0, deferred := some 32 })

/-- The destination word of a SEND as a pointer that carries its format. -/
def msgDst (m : Msg) : Word := BitVec.ofNat 64 (m.fc * 2 ^ 58 + m.bl * 2 ^ 54)

/-- The waits of a SEND before it issues (R98): buffered and queued stores on its source (R310), and fences that cover its source or where it may
be delivered (R321). -/
def sendWait (s : State) (r : Span) (j chan : Nat) : Res Unit :=
  let k := s.me
  need (!(k.storesMeet s s.cur [r]) && !(k.fenced clsCR [r]) && !(k.fenced clsCW (sendRange k s s.cur j chan))) .hold

/-- SEND (R310). Its source is judged as a read at issue; no queue could hold a later error. -/
def execSend (l : Lit) (d a b : BitVec 5) (s : State) : Host.Outcome State Fault Refusal :=
  let c := s.cur
  let w := gval s d.toNat
  let n := (rbval s l b.toNat).toNat
  let src := gval s a.toNat
  let wait := sendWait s (ptrAddr src, fcBytes (ptrFc src) (ptrBl src) n) (fld w 12 0) (fld w 19 16)
  settle s (withChecked s [d.toNat, a.toNat, b.toNat] [] wait fun s' => do
    sendError s
    let la := s.me.launchOf s
    need (decide (fld w 53 20 = 0 ∧ fld w 15 13 = 0 ∧ fld w 12 0 < 8 * (la.map (·.fcount)).getD 0 ∧ 1 ≤ n ∧ n < 2 ^ 32)) (trapC cILLEGAL)
    copyPtr s .cpy src
    need (fcOk (s.part (corePart s c)).facc (ptrFc w) (ptrBl w) && decide (fcClass (ptrFc w) = fcClass (ptrFc src))) (trapC cTAG)
    unflagged s
    let bytes := fcBytes (ptrFc src) (ptrBl src) n
    let r : Span := (ptrAddr src, bytes)
    need (decide (r.1 + bytes ≤ 2 ^ 48)) (trapC cTAG)
    copyAlign src false
    let k := s'.me
    let (tr, s1) ← copyRange s' c r.1 bytes false false (fun _ => true) []
    match judgeAll s1 c tr [r] with
    | .error f => .error (f.stop s)
    | .ok () =>
      let m : Msg := { part := corePart s c, blk := (s.me.occ.map (·.blk)).getD 0, core := fld w 12 0, chan := fld w 19 16, fc := ptrFc w,
                       bl := ptrBl w, src := src, n := n, tr := tr, pushed := s1.me.pushed }
      let s2 := engCount s1 c (umodeOf k) (pmodeOf k) [r]
      .ok (s2.updMe fun k => { k with sends := k.sends ++ [m] }))

/-- MESSAGE_ARRIVAL is due: the receiver's context is loaded and has a free slot (R310), and the sender's accesses have been performed
(R332; log 111). -/
def messageTarget (s : State) (c : Nat) (m : Msg) : Option (Nat × Chute) :=
  (s.launch m.part m.blk).bind fun l =>
    let d := launchCore s m.part l m.core
    (s.chute d m.chan).bind fun x =>
      if !l.setup.contains (l.lcore m.core) ∨ x.free = 0 ∨ !(s.core c).rwBefore m.pushed s c ∨ (downOn s (foldOf c) (foldOf d) false).isSome
        then none else some (d, x)

/-- The oldest message of core c arrives (R310): bytes beyond SSIZE are not written and leave the sender's CHANNEL error. -/
def arriveMessage (s : State) (c : Nat) (m : Msg) : Option State :=
  (messageTarget s c m).map fun (d, x) =>
    let src := readRange s c m.tr m.span.1 m.span.2
    let s := countEccRanges s c m.tr [m.span]
    let bs := convertBytes m.src (msgDst m) src m.n
    let s := setLocal s d (x.addr + 64 + x.ssize * x.tail) (bs.take x.ssize)
    let s := fillSlot (takeSlot s d m.chan) d m.chan
    s.updCore c fun k => { k with sends := k.sends.tail, sendErr := k.sendErr || decide (x.ssize < bs.length) }

/-- MESSAGE_ARRIVAL from sending core c. -/
def execMessageArrival (c : Nat) (s : State) : Host.Outcome State Fault Refusal :=
  match ((s.core c).sends.head?).bind fun m => arriveMessage s c m with
  | some s' => event s (s.agreed c 9 0 (s.core c).sends.length) s'
  | none => event s false s

/-- The receive channel's context, or CHANNEL (R311). -/
def recvContext (s : State) (ch : Nat) : Res Chute := do
  sendError s
  match s.chute s.cur ch with
  | some x => .ok x
  | none => .error (trapC cCHANNEL)

/-- RECV (R311). A routine cannot suspend: DETERMINISM where it would. -/
def execRecv (_ : Lit) (d : BitVec 5) (c : BitVec 4) (s : State) : Host.Outcome State Fault Refusal :=
  settle s (withRegs s [] [d.toNat] fun s' => do
    need (!s.pre.capOpen) (trapC cILLEGAL)
    let x ← recvContext s' c.toNat
    if 1 ≤ x.filled then
      let (v, s1) := popSlot s' c.toNat x
      setG s1 d.toNat (BitVec.ofNat 64 v)
    else do
      let (o, _) ← unitOf s
      joinAgents s s'
      let s1 := suspendUnit s' s.cur 3 3 s.me.r.pc.toNat
      .ok (s1.updPart o.part fun q => match mfind q.launches o.blk with
        | some l => { q with launches := mput q.launches o.blk { l with recvs := l.recvs ++ [(o.rcd, s.cur, c.toNat)] } }
        | none => q))

/-- RECVT (R311): DEADLINE when no slot has filled within the time, whatever fills later. -/
def execRecvt (l : Lit) (d b : BitVec 5) (c : BitVec 4) (s : State) : Host.Outcome State Fault Refusal :=
  settle s (withRegs s [b.toNat] [d.toNat] fun s' => do
    let x ← recvContext s' c.toNat
    let n := (rbval s l b.toNat).toNat
    let late := match s.me.wait with
      | some .expired => true
      | some (.recvt u) => decide (u < s.clk)
      | _ => false
    need (!late) (trapC cDEADLINE)
    if 1 ≤ x.filled then
      let (v, s1) := popSlot s' c.toNat x
      setG (s1.updMe fun k => { k with wait := none }) d.toNat (BitVec.ofNat 64 v)
    else
      match s.me.wait with
      | some _ => .error (.stall s)
      | none => do
        need (decide (n ≠ 0)) (trapC cDEADLINE)
        .error (.stall (s.updMe fun k => { k with wait := some (.recvt (s.clk + n)) })))

/-- RECVT_TIMEOUT of core c: the time of its RECVT has passed. -/
def execRecvtTimeout (c : Nat) (s : State) : Host.Outcome State Fault Refusal :=
  match (s.core c).wait with
  | some (.recvt u) => event s (decide (u ≤ s.clk)) (s.updCore c fun k => { k with wait := some .expired })
  | _ => event s false s

end Sys2Proof.Machine
end

