-- ==== Sys2Proof/Machine/Drove.lean ====
section
/-! DEFINITION. The drove (10 R259 to R262, 12 R312 to R319): requests, what a stop does with the slot that passes, captures and
staged operations. -/

namespace Sys2Proof.Machine

/-! ## The ring -/

/-- The stop position of a device fold (R261). -/
def stopPos (f : Nat) : Nat :=
  let y := f / 32
  let n := 32 * y + (if y % 2 = 0 then f % 32 else 31 - f % 32)
  n + n / 3

/-- Ring time (R259). -/
def ringTime (s : State) : Nat := s.clk - s.ringStart

/-- The first clk from `t` on in which slot i passes the stop of fold f (R259). -/
def passAt (s : State) (f i t : Nat) : Nat := t + (stopPos f + 2 * 1024 - i - (t - s.ringStart) % 1024) % 1024

/-- A slot's LAP at the present clk (R259). -/
def lapOf (s : State) (i : Nat) : Nat := (i + ringTime s) / 1024 % 256

/-- Slot i. -/
def State.slot (s : State) (i : Nat) : DSlot := mget DSlot.empty s.slots i
def State.setSlot (s : State) (i : Nat) (x : DSlot) : State := { s with slots := mset DSlot.empty s.slots i x }

/-- The slots of partition p (R26). -/
def partSlots (s : State) (p : Nat) : List Nat := (List.range 1024).filter fun i => i % nparts s.layout == p

/-- The key of a slot leaves the ring: a request of the partition for it has seen it aboard until now (R313). -/
def keyLeaves (s : State) (i : Nat) : State :=
  let x := s.slot i
  let p := i % nparts s.layout
  let mark (k : Core) : Core := { k with drove := k.drove.map fun r => if r.key = x.key then { r with seen := s.clk } else r }
  { s with cores := s.cores.map fun y => if partOfFold s (foldOf y.1) = p then (y.1, mark y.2) else y }

/-- The slot of partition p that holds a key. -/
def slotOf (s : State) (p : Nat) (key : Word32) : Option Nat :=
  (partSlots s p).find? fun i => decide ((s.slot i).state ≠ .empty ∧ (s.slot i).key = key)

/-- The home fold of a key, partition-logical (R260). -/
def keyHome (key : Word32) : Nat := key.toNat / 2 ^ 22

/-! ## Operations on a word (R314) -/

/-- DRMW's new word. -/
def drmwNew (opr : Nat) (old v cmp : Word) : Word :=
  let fp (g : Bool) : Word := (amoFp g (old.truncate 32) (v.truncate 32)).zeroExtend 64
  match opr with
  | 0 => old + v
  | 1 => if v.toInt < old.toInt then v else old
  | 2 => if old.toInt < v.toInt then v else old
  | 3 => if v.toNat < old.toNat then v else old
  | 4 => if old.toNat < v.toNat then v else old
  | 5 => fp false
  | 6 => fp true
  | 7 => old &&& v
  | 8 => old ||| v
  | 9 => old ^^^ v
  | 10 => v
  | 11 => if old = cmp then v else old
  | _ => v

/-! ## Completion -/

/-- A request of core c has completed (R316): COUNT rises; SLOT and LAP follow where it acted on a slot. -/
def droveDone (s : State) (c : Nat) (slot : Option Nat) : State :=
  s.updCore c fun k =>
    let w := k.ctl 0x0D0
    let w := putFld w 63 32 (fld w 63 32 + 1)
    k.setCtl 0x0D0 (match slot with
      | some i => putFld (putFld w 25 16 i) 7 0 (lapOf s i)
      | none => w)

/-! ## Issue -/

/-- The checks that open every drove instruction with a key (R312, R313): the key, a deferred error, and a key whose slot an
uncorrectable error emptied (R260). -/
def droveKey (s : State) (a : Nat) : Res Word32 := do
  match s.me.droveErr with
  | some (e, _) => .error (e.trap 8)
  | none => do
    let w := gval s a
    need (decide (fld w 63 32 = 0)) (trapC cILLEGAL)
    let key : Word32 := w.truncate 32
    let f := devFold s (corePart s s.cur) (keyHome key)
    need (!((s.fold f).badKeys.contains key))
      (.trap { cause := cUNCORR, acc := 3, val := false, data := key.toNat, deferred := some 34 })
    .ok key

/-- A request enters the core's FIFO (R313): held while eight are outstanding, behind a fence, or while a bound rd has no room for its value
(R279). -/
def droveAccept (s : State) (r : DroveReq) : Res State := do
  let k := s.me
  if r.op.returns then gRoom s s r.rd else .ok ()
  let cls := (if r.op.returns then clsR else 0) + (if r.op.changes then clsW else 0)
  need (decide (k.drove.length < 8) && !(k.fenced cls (if r.op = .alight then [(r.v.toNat % 2 ^ 48, 56)] else []))) .hold
  .ok (s.setMe { k with drove := k.drove ++ [r] })

/-- A request of the current core. -/
def droveReq (s : State) (op : DroveOp) (key : Word32) (d : Nat) (v cmp : Word) (word : Nat) : DroveReq :=
  { op := op, key := key, rd := d, v := v, cmp := cmp, word := word, tr := [], since := s.clk, seen := s.clk }

/-- The core's capture of a key (R318): held at issue until its DCAP has taken the slot, and after a DREL until it has been applied. -/
def heldKey (k : Core) (key : Word32) : Res (Option Capture) :=
  match k.cap.filter fun x => x.key == key with
  | none => .ok none
  | some x => do
    need (x.slot.isSome && !(k.drove.any fun r => decide (r.op = .rel) && r.key == key)) .hold
    .ok (some x)

/-- The core of a key's home fold (R262), or PERMISSION (R312). -/
def needHome (s : State) (key : Word32) : Res Unit :=
  need (decide (logFold s (corePart s s.cur) (foldOf s.cur) = keyHome key)) (trapC cPERMISSION)

/-- DBOARD (R312). -/
def execDboard (l : Lit) (d a b : BitVec 5) (s : State) : Host.Outcome State Fault Refusal :=
  settle s (withRegs s [a.toNat, b.toNat] [d.toNat] fun s' => do
    let key ← droveKey s a.toNat
    unflagged s
    needHome s key
    droveAccept s' (droveReq s .board key d.toNat (rbval s l b.toNat) 0 0))

/-- DALIGHT (R312): checked as a 56-byte store. -/
def execDalight (l : Lit) (d a b : BitVec 5) (s : State) : Host.Outcome State Fault Refusal :=
  settle s (withRegs s [a.toNat, b.toNat] [d.toNat] fun s' => do
    let key ← droveKey s a.toNat
    unflagged s
    needHome s key
    let w := rbval s l b.toNat
    need (decide (fld w 53 48 = 0)) (trapC cTAG)
    let v := ptrAddr w
    need (decide (v + 56 ≤ 2 ^ 48)) (trapC cTAG)
    need (decide (v % 8 = 0)) (trapA cMISALIGN true v)
    need (windowOf v == .common || windowOf v == .global) (trapA cPERMISSION true v)
    let (tr, s1) ← checkRange s' s.cur v 56 true false
    droveAccept s1 { droveReq s .alight key d.toNat (BitVec.ofNat 64 v) 0 0 with tr := tr })

/-- DREAD (R312): from the buffer of the core's own capture (R318). -/
def execDread (_ : Lit) (d a : BitVec 5) (w : BitVec 3) (s : State) : Host.Outcome State Fault Refusal :=
  settle s (withRegs s [a.toNat] [d.toNat] fun s' => do
    need (decide (w ≠ 7)) (trapC cILLEGAL)
    let key ← droveKey s a.toNat
    match ← heldKey s'.me key with
    | some x => setG (droveDone s' s.cur x.slot) d.toNat (x.buf.getD w.toNat 0)
    | none => droveAccept s' (droveReq s .read key d.toNat 0 0 w.toNat))

/-- DRMW (R312, R314): on the buffer of the core's own capture (R318). In a flagged launch only the integer commutative operations;
the request carries the domain that BDOM names (R319). -/
def drmw (s : State) (l : Lit) (opr d a b w : Nat) : Host.Outcome State Fault Refusal :=
  settle s (withRegs s ([a, b] ++ if opr = 11 then [d] else []) [d] fun s' => do
    need (decide (w ≠ 7)) (trapC cILLEGAL)
    let key ← droveKey s a
    need (!(s.me.inFlagged && [5, 6, 10, 11].contains opr)) (trapC cDETERM)
    let v := rbval s l b
    let cmp := gval s d
    match ← heldKey s'.me key with
    | some x =>
      let old := x.buf.getD w 0
      let s1 := s'.updMe fun k => { k with cap := some { x with buf := x.buf.set w (drmwNew opr old v cmp) } }
      setG (droveDone s1 s.cur x.slot) d old
    | none =>
      let cmp := if s.me.inFlagged then BitVec.ofNat 64 (fld (s.me.ctl 0x0C0) 15 0) else cmp
      droveAccept s' (droveReq s (.rmw opr) key d v cmp w))

/-- DRMW add (R314). -/
def execDrmwAdd (l : Lit) (d a b : BitVec 5) (w : BitVec 3) (s : State) : Host.Outcome State Fault Refusal :=
  drmw s l 0 d.toNat a.toNat b.toNat w.toNat

/-- DRMW signed minimum (R314). -/
def execDrmwMin (l : Lit) (d a b : BitVec 5) (w : BitVec 3) (s : State) : Host.Outcome State Fault Refusal :=
  drmw s l 1 d.toNat a.toNat b.toNat w.toNat

/-- DRMW signed maximum (R314). -/
def execDrmwMax (l : Lit) (d a b : BitVec 5) (w : BitVec 3) (s : State) : Host.Outcome State Fault Refusal :=
  drmw s l 2 d.toNat a.toNat b.toNat w.toNat

/-- DRMW unsigned minimum (R314). -/
def execDrmwMinu (l : Lit) (d a b : BitVec 5) (w : BitVec 3) (s : State) : Host.Outcome State Fault Refusal :=
  drmw s l 3 d.toNat a.toNat b.toNat w.toNat

/-- DRMW unsigned maximum (R314). -/
def execDrmwMaxu (l : Lit) (d a b : BitVec 5) (w : BitVec 3) (s : State) : Host.Outcome State Fault Refusal :=
  drmw s l 4 d.toNat a.toNat b.toNat w.toNat

/-- DRMW FP32 minimum (R314). -/
def execDrmwFmin (l : Lit) (d a b : BitVec 5) (w : BitVec 3) (s : State) : Host.Outcome State Fault Refusal :=
  drmw s l 5 d.toNat a.toNat b.toNat w.toNat

/-- DRMW FP32 maximum (R314). -/
def execDrmwFmax (l : Lit) (d a b : BitVec 5) (w : BitVec 3) (s : State) : Host.Outcome State Fault Refusal :=
  drmw s l 6 d.toNat a.toNat b.toNat w.toNat

/-- DRMW AND (R314). -/
def execDrmwAnd (l : Lit) (d a b : BitVec 5) (w : BitVec 3) (s : State) : Host.Outcome State Fault Refusal :=
  drmw s l 7 d.toNat a.toNat b.toNat w.toNat

/-- DRMW OR (R314). -/
def execDrmwOr (l : Lit) (d a b : BitVec 5) (w : BitVec 3) (s : State) : Host.Outcome State Fault Refusal :=
  drmw s l 8 d.toNat a.toNat b.toNat w.toNat

/-- DRMW XOR (R314). -/
def execDrmwXor (l : Lit) (d a b : BitVec 5) (w : BitVec 3) (s : State) : Host.Outcome State Fault Refusal :=
  drmw s l 9 d.toNat a.toNat b.toNat w.toNat

/-- DRMW swap (R314). -/
def execDrmwSwap (l : Lit) (d a b : BitVec 5) (w : BitVec 3) (s : State) : Host.Outcome State Fault Refusal :=
  drmw s l 10 d.toNat a.toNat b.toNat w.toNat

/-- DRMW compare and swap against rd (R314). -/
def execDrmwCas (l : Lit) (d a b : BitVec 5) (w : BitVec 3) (s : State) : Host.Outcome State Fault Refusal :=
  drmw s l 11 d.toNat a.toNat b.toNat w.toNat

/-- DCAP (R318). -/
def execDcap (_ : Lit) (a : BitVec 5) (s : State) : Host.Outcome State Fault Refusal :=
  settle s (withRegs s [a.toNat] [] fun s' => do
    let key ← droveKey s a.toNat
    unflagged s
    need s'.me.cap.isNone (trapC cILLEGAL)
    let s1 ← droveAccept s' (droveReq s .cap key 0 0 0 0)
    .ok (s1.updMe fun k => { k with cap := some { key := key, slot := none, buf := [], orig := [], since := s.clk } }))

/-- DPUT (R318). -/
def execDput (l : Lit) (a b : BitVec 5) (w : BitVec 3) (s : State) : Host.Outcome State Fault Refusal :=
  settle s (withRegs s [a.toNat, b.toNat] [] fun s' => do
    need (decide (w ≠ 7)) (trapC cILLEGAL)
    let key ← droveKey s a.toNat
    unflagged s
    match ← heldKey s'.me key with
    | none => .error (trapC cILLEGAL)
    | some x =>
      let s1 := s'.updMe fun k => { k with cap := some { x with buf := x.buf.set w.toNat (rbval s l b.toNat) } }
      .ok (droveDone s1 s.cur x.slot))

/-- DREL (R318). -/
def execDrel (_ : Lit) (a : BitVec 5) (s : State) : Host.Outcome State Fault Refusal :=
  settle s (withRegs s [a.toNat] [] fun s' => do
    let key ← droveKey s a.toNat
    unflagged s
    match ← heldKey s'.me key with
    | none => .error (trapC cILLEGAL)
    | some _ => droveAccept s' (droveReq s .rel key 0 0 0 0))

/-- DLAP (R316): waits for every earlier request of the core. -/
def execDlap (_ : Lit) (d : BitVec 5) (s : State) : Host.Outcome State Fault Refusal :=
  settle s (withRegs s [] [d.toNat] fun s' => do
    need (!s.me.inCompute) (trapC cDETERM)
    match s'.me.droveErr with
    | some (e, _) => .error (e.trap 8)
    | none => do
      need s'.me.drove.isEmpty (.stall s)
      setG s' d.toNat (s'.me.ctl 0x0D0))

/-! ## The stop -/

/-- What a request meets: a slot that passes at a clk, an answer without a slot at a clk, a failure at a clk, or a wait. -/
inductive Meet where
  | slot (i at_ : Nat)
  | answer (v : Word) (at_ : Nat)
  | fail (cause : BitVec 8) (at_ : Nat)
  | wait
  deriving DecidableEq, Repr

/-- The first clk in which the stop of fold f may act on a request (R313): one request a clk, and not in the clk of acceptance. -/
def actFrom (s : State) (f : Nat) (r : DroveReq) : Nat := max (max s.clk (r.since + 1)) (s.fold f).stopNext

/-- The first of some slots to pass, with its clk. -/
def firstPass (s : State) (f : Nat) (r : DroveReq) (is : List Nat) : Option (Nat × Nat) :=
  is.foldl (fun best i =>
    let t := passAt s f i (actFrom s f r)
    match best with
    | some (_, u) => if t < u then some (i, t) else best
    | none => some (i, t)) none

/-- A DRMW of a flagged launch may be staged at the stop: its triple is one of this superstep's, or they are fewer than 64 (R319). -/
def stageRoom (s : State) (f : Nat) (o : Occ) (r : DroveReq) (opr : Nat) : Bool :=
  let ts := (s.fold f).triples.filter fun x => x.1 == o.blk && x.2.1 == o.ss
  decide (ts.length < 64) || ts.contains (o.blk, o.ss, r.key, r.word, opr)

/-- What request r of core c meets next (R312, R313, R319). -/
def droveMeet (s : State) (c : Nat) (r : DroveReq) : Meet :=
  let f := foldOf c
  let p := corePart s c
  let home := (s.fold (devFold s p (keyHome r.key)))
  let found := slotOf s p r.key
  let pass (i : Nat) : Meet := .slot i (passAt s f i (actFrom s f r))
  -- A full revolution without a slot of the key (R313).
  let lost := max r.since r.seen + 1024
  if home.badKeys.contains r.key then .fail cUNCORR s.clk
  else
    match r.op with
    | .board =>
      if found.isSome then .answer 2 s.clk
      else if 8 ≤ ((partSlots s p).filter fun i => decide ((s.slot i).state ≠ .empty ∧ keyHome (s.slot i).key = keyHome r.key)).length
      then .answer 3 s.clk
      else
        match firstPass s f r ((partSlots s p).filter fun i => decide ((s.slot i).state = .empty)) with
        | some (i, t) => if t ≤ r.since + 2048 then .slot i t else .answer 1 (r.since + 2048)
        | none => .answer 1 (r.since + 2048)
    | .rel =>
      match found with
      | some i => pass i
      | none => .fail cDROVE lost
    | op =>
      match found with
      | some i =>
        if (s.slot i).state = .live then
          match op, (s.core c).occ with
          | .rmw opr, some o => if !o.flagged || stageRoom s f o r opr then pass i else .fail cDROVE s.clk
          | _, _ => pass i
        else .wait
      | none => if op = .alight then .answer 2 lost else .fail cDROVE lost

/-- The clk at which a meeting takes place. -/
def Meet.at (m : Meet) (s : State) : Option Nat :=
  match m with
  | .slot _ t => some t
  | .answer _ t => some (max s.clk t)
  | .fail _ t => some (max s.clk t)
  | .wait => none

/-- The request of core c that acts next, with its place in the FIFO: of each key the oldest, and among keys the first to pass
(R315). -/
def droveNext (s : State) (c : Nat) : Option (Nat × DroveReq × Meet) :=
  let rs := (s.core c).drove
  let firsts := rs.zipIdx.filter fun x => !((rs.take x.2).any fun r => r.key == x.1.key)
  (firsts.foldl (fun (best : Option (Nat × Nat × DroveReq × Meet)) x =>
    let m := droveMeet s c x.1
    match m.at s, best with
    | some t, some (u, _) => if t < u then some (t, x.2, x.1, m) else best
    | some t, none => some (t, x.2, x.1, m)
    | none, _ => best) none).map (·.2)

/-- Removes request i of core c. -/
def dropRequest (s : State) (c i : Nat) : State := s.updCore c fun k => { k with drove := k.drove.eraseIdx i }

/-- A DRMW of a flagged launch is staged at the stop, combined per key, word, operation and domain (R319); its triple counts in superstep
`ss`, and those of supersteps whose barrier every member has passed no longer do. -/
def stageOp (s : State) (f ss : Nat) (x : Stage) : State :=
  s.updFold f fun v =>
    let t := (x.blk, ss, x.key, x.word, x.opr)
    let ts := v.triples.filter fun y => !(y.1 == x.blk && decide (y.2.1 + 2 ≤ ss))
    let v := { v with triples := if ts.contains t then ts else ts ++ [t] }
    let same (y : Stage) : Bool := y.blk == x.blk && y.dom == x.dom && y.key == x.key && y.word == x.word && y.opr == x.opr
    if v.staged.any same then
      { v with staged := v.staged.map fun y => if same y then { y with v := drmwNew x.opr y.v x.v 0 } else y }
    else { v with staged := v.staged ++ [x] }

/-- The stop reads the slot (R260): a soft error that its check code corrects is counted. -/
def readSlot (s : State) (i : Nat) : State :=
  if (s.slot i).soft then { s.setSlot i { s.slot i with soft := false } with eccCount := s.eccCount + 1 } else s

/-- Request r acts on slot i, which passes now (R312 to R319): none while rd cannot take its value. A DALIGHT leaves its slot ALIGHTING while
the 56 bytes are written, and EMPTY from that pass on (R378). -/
def actOnSlot (s : State) (c i : Nat) (r : DroveReq) : Option State :=
  let s := readSlot s i
  let x := s.slot i
  let f := foldOf c
  match r.op with
  | .board =>
    deliverAction (s.setSlot i { soft := false, state := .live, key := r.key, hold := 0, words := r.v :: List.replicate 6 0 }) c r.rd 0
  | .alight =>
    let s1 := writeRange (s.setSlot i { x with state := .alighting }) c r.tr r.v.toNat
      ((List.range 7).flatMap fun j => leBytes 8 (x.words.getD j 0).toNat)
    deliverAction ((keyLeaves s1 i).setSlot i DSlot.empty) c r.rd 0
  | .read => deliverAction s c r.rd (x.words.getD r.word 0)
  | .rmw opr =>
    let old := x.words.getD r.word 0
    match (s.core c).occ with
    | some o =>
      if o.flagged then
        deliverAction (stageOp s f o.ss { blk := o.blk, dom := r.cmp.toNat, key := r.key, word := r.word, opr := opr, v := r.v }) c r.rd old
      else deliverAction (s.setSlot i { x with words := x.words.set r.word (drmwNew opr old r.v r.cmp) }) c r.rd old
    | none => deliverAction (s.setSlot i { x with words := x.words.set r.word (drmwNew opr old r.v r.cmp) }) c r.rd old
  | .cap =>
    let lc := 8 * logFold s (corePart s c) f + c % 8
    let s1 := s.setSlot i { x with state := .held, hold := lc }
    some (s1.updCore c fun k => { k with cap := k.cap.map fun y => { y with slot := some i, buf := x.words, orig := x.words, since := s.clk } })
  | .put => some s
  | .rel =>
    match (s.core c).cap with
    | some y => some ((s.setSlot i { soft := false, state := .live, key := r.key, hold := 0, words := y.buf }).updCore c fun k => { k with cap := none })
    | none => some s

/-- DROVE_REQUEST_APPLY of core c: the slot passes in this clk, or the answer is due, and the request completes. -/
def execDroveRequestApply (c : Nat) (s : State) : Host.Outcome State Fault Refusal :=
  let due (j : Nat) : Bool := s.agreed c 8 j (s.core c).drove.length
  match droveNext s c with
  | some (j, r, .slot i t) =>
    match actOnSlot (dropRequest s c j) c i r with
    | some s2 => event s (due j && decide (t ≤ s.clk)) ((droveDone s2 c (some i)).updFold (foldOf c) fun v => { v with stopNext := s.clk + 1 })
    | none => event s false s
  | some (j, r, .answer v t) =>
    match deliverAction (dropRequest s c j) c r.rd v with
    | some s2 => event s (due j && decide (t ≤ s.clk)) (droveDone s2 c none)
    | none => event s false s
  | _ => event s false s

/-- DROVE_REQUEST_FAIL of core c (R313): a deferred error; the requests behind it are discarded, and their rd wait for it, with those of an
earlier error that is still to be taken. A pending capture of a discarded DCAP ends. -/
def execDroveRequestFail (c : Nat) (s : State) : Host.Outcome State Fault Refusal :=
  match droveNext s c with
  | some (j, r, .fail cause t) =>
    let due := decide (t ≤ s.clk)
    let s0 := s
    let gone := (s.core c).drove.drop j
    let rds := (gone.filter (·.op.returns)).map (·.rd)
    let e : DefErr := { cause := cause, acc := 3, val := false, data := r.key.toNat }
    let s := s.updCore c fun k => { k with
      drove := k.drove.take j, droveErr := some (((k.droveErr.map (·.1)).getD e), ((k.droveErr.map (·.2)).getD []) ++ rds),
      cap := if gone.any fun q => decide (q.op = .cap) then none else k.cap }
    let home := devFold s (corePart s c) (keyHome r.key)
    event s0 due (s.updFold home fun v => { v with badKeys := v.badKeys.filter (· != r.key) })
  | _ => event s false s

/-- CAPTURE_TIMEOUT of core c (R318): 16 revolutions after the DCAP took the slot; the next packet of the holder takes DROVE. -/
def execCaptureTimeout (c : Nat) (s : State) : Host.Outcome State Fault Refusal :=
  match (s.core c).cap with
  | some x =>
    let e : DefErr := { cause := cDROVE, acc := 3, val := false, data := x.key.toNat }
    let s1 := (endCapture s c).updCore c fun k => { k with droveErr := some (e, 32 :: (k.droveErr.map (·.2)).getD []) }
    event s (x.slot.isSome && decide (x.since + 16 * 1024 ≤ s.clk)) s1
  | none => event s false s

/-- DROVE_SLOT_ERROR of slot i (R260): an uncorrectable error empties the slot; the next drove instruction that names its key traps. -/
def execDroveSlotError (i : Nat) (s : State) : Host.Outcome State Fault Refusal :=
  let x := s.slot i
  let p := i % nparts s.layout
  let home := devFold s p (keyHome x.key)
  let s1 := (keyLeaves s i).setSlot i DSlot.empty
  event s (decide (i < 1024)) (if x.state = .empty then s else
    s1.updFold home fun v => { v with badKeys := if v.badKeys.contains x.key then v.badKeys else x.key :: v.badKeys })

end Sys2Proof.Machine
end

