-- ==== Sys2Proof/Machine/Exchange.lean ====
section
/-! DEFINITION. Supersteps (12 R299 to R304) and scheduled exchange (12 R305, R306). -/

namespace Sys2Proof.Machine

/-! ## Barrier domains -/

/-- The launch cores of domain d (R299); none where the schedule names no such domain. -/
def domainCores (l : Launch) (d : Nat) : List Nat :=
  if d = 0 then List.range l.ncores
  else
    match (List.range (schedNdom l.sched)).find? fun i => fld (dw l.sched (1 + i)) 15 0 == d with
    | some i => let w := dw l.sched (1 + i); span (8 * fld w 25 16) (8 * fld w 41 32)
    | none => []

/-- The current launch of a flagged gang, or ILLEGAL (R301, R302, R305, R306). -/
def flaggedOf (s : State) : Res (Occ × Launch) :=
  match s.me.occ, s.me.launchOf s with
  | some o, some l => if o.flagged then .ok (o, l) else .error (trapC cILLEGAL)
  | _, _ => .error (trapC cILLEGAL)

/-- BDOM (R301). -/
def execBdom (_ : Lit) (a : BitVec 5) (s : State) : Host.Outcome State Fault Refusal :=
  settle s (withRegs s [a.toNat] [] fun s' => do
    let (o, l) ← flaggedOf s
    let v := gval s a.toNat
    need (decide (v.toNat < 2 ^ 16) && (domainCores l v.toNat).contains o.k) (trapC cILLEGAL)
    need (!s.me.inCompute) (trapC cDETERM)
    .ok (s'.updMe fun k => k.setCtl 0x0C0 v))

/-- SSYNC (R302, R59): joins every agent, and arrives at the barrier of domain BDOM; it ends the compute phase. -/
def execSsync (_ : Lit) (s : State) : Host.Outcome State Fault Refusal :=
  settle s (do
    let _ ← flaggedOf s
    need (lastCompute s s.me) (trapC cDETERM)
    joinAgents s s
    .ok (arrive (putAway (endCapture s s.cur) s.cur) s.cur))

/-! ## The release -/

/-- One stage applied to the slot of its key (R319): discarded where the key is no longer aboard. -/
def applyStage (p : Nat) (s : State) (x : Stage) : State :=
  match slotOf s p x.key with
  | some i =>
    let t := s.slot i
    s.setSlot i { t with words := t.words.set x.word (drmwNew x.opr (t.words.getD x.word 0) x.v 0) }
  | none => s

/-- The stages of a launch block and domain, of every stop, grouped in increasing OPR (R319). -/
def stagesOf (s : State) (p blk d : Nat) : List Stage :=
  let all := s.folds.flatMap fun x => x.2.staged.filter fun y => y.blk == blk && y.dom == d && partOfFold s x.1 == p
  (List.range 12).flatMap fun opr => all.filter fun y => y.opr == opr

/-- The staged operations of a domain are applied and leave their stops (R302 step 1). -/
def applyStages (s : State) (p blk d : Nat) : State :=
  let s := (stagesOf s p blk d).foldl (applyStage p) s
  let drop (x : Nat × Fold) : Nat × Fold :=
    if partOfFold s x.1 = p then (x.1, { x.2 with staged := x.2.staged.filter fun y => !(y.blk == blk && y.dom == d) }) else x
  { s with folds := s.folds.map drop }

/-- Steps 3 to 5 of R302 at core c: a journal epoch begins, XCLK is 0, XSLOT holds the superstep's record, and lanes are granted
again (R83). The exchange phase begins. -/
def openPhase (s : State) (c : Nat) : State :=
  let k := s.core c
  match k.occ, k.launchOf s with
  | some o, some l =>
    let r := schedRec l.sched o.ss
    let xslot := BitVec.ofNat 64 (o.ss * 2 ^ 32 + fld r 15 0 * 2 ^ 16 + fld r 31 16)
    let lmc := putFld (putFld (putFld (k.ctl 0x020) 20 10 0) 9 9 0) 8 8 1
    let k := (k.setCtl 0x0C1 xslot).setCtl 0x020 lmc
    s.setCore c { k with
      occ := some { o with stage := 2, running := false }
      journal := [], jspill := [], xclkBase := s.clk, xused := [], xtaken := []
      r := { k.r with lanes := grantOf s c k.r.lastReq } }
  | _, _ => s

/-- The snapshot of core c at a release (R288, R302 step 2), and of its fold's matrix state (R236). -/
def takeSnap (s : State) (c : Nat) : State :=
  let k := s.core c
  let s := s.setCore c { k with snap := some k.point, snapBad := false, rollbacks := 0 }
  s.updFold (foldOf c) fun f => { f with msnap := some f.m }

/-- A released core goes on with its exchange routines; one that is to be pre-empted waits for it here (R361). -/
def goOn (s : State) (c : Nat) : State := if (s.core c).preempt.isSome then s else nextRoutine s c

/-- The cores of domain d of a launch, as device cores. -/
def domainMembers (s : State) (p : Nat) (l : Launch) (d : Nat) : List Nat := (domainCores l d).map (launchCore s p l)

/-- SUPERSTEP_RELEASE is due: every core of the domain has arrived naming it (R302), no rollback decision is owed, and no staged
operation waits for a captured slot. -/
def releaseDue (s : State) (p b d : Nat) : Bool :=
  match s.launch p b with
  | none => false
  | some l =>
    let cs := domainMembers s p l d
    l.det && !cs.isEmpty && !((s.part p).contrec.any fun x => x.blk == b) &&
    cs.all (fun c => match (s.core c).occ with
      | some o => o.part == p && o.blk == b && o.stage == 1 && fld ((s.core c).ctl 0x0C0) 15 0 == d
      | none => false) &&
    (stagesOf s p b d).all fun x => match slotOf s p x.key with
      | some i => decide ((s.slot i).state ≠ .held)
      | none => true

/-- The release of domain d (R302). -/
def superstepRelease (s : State) (p b d : Nat) : State :=
  match s.launch p b with
  | none => s
  | some l =>
    let cs := domainMembers s p l d
    let s := applyStages s p b d
    let s := cs.foldl takeSnap s
    let s := cs.foldl openPhase s
    cs.foldl goOn s

/-- SUPERSTEP_RELEASE of domain d of launch block b. -/
def execSuperstepRelease (p b d : Nat) (s : State) : Host.Outcome State Fault Refusal :=
  event s (releaseDue s p b d) (superstepRelease s p b d)

/-- The exchange phase of core c has ended (R304). -/
def phaseOver (s : State) (c : Nat) : Bool :=
  let k := s.core c
  match k.occ with
  | some o => o.flagged && decide (o.stage = 3 ∧ 16 * fld (k.ctl 0x0C1) 31 16 ≤ xclk s c) && (k.awaited s).isEmpty &&
      !((s.part o.part).contrec.any fun x => x.blk == o.blk)
  | none => false

/-- The next superstep begins, or the core is finished after the last (R304, R42). -/
def nextSuperstep (s : State) (c : Nat) : State :=
  let k := s.core c
  match k.occ, k.launchOf s with
  | some o, some l =>
    if o.ss + 1 < l.nss then
      nextRoutine (s.setCore c { k with occ := some { o with ss := o.ss + 1, stage := 0, running := false } }) c
    else launchMember (leaveCore s c) o.part o.blk 1
  | _, _ => s

/-- EXCHANGE_PHASE_END of core c. -/
def execExchangePhaseEnd (c : Nat) (s : State) : Host.Outcome State Fault Refusal := event s (phaseOver s c) (nextSuperstep s c)

/-! ## Scheduled transfers -/

/-- The slot that an XSEND names, and the entry of the superstep's schedule for it (R305). -/
def xsendEntry (s : State) (l : Lit) (b k : Nat) : Nat × Option SchedEntry :=
  let t := (fld (s.me.ctl 0x0C1) 15 0 + (rbval s l b).toNat) % 2 ^ 16
  (t, (s.me.schedule s).find? fun e => e.src == k && e.slot == t)

/-- The waits of an XSEND before it issues (R98): queued work on its source, and fences that cover its source or what it writes (R321). -/
def xsendWait (s : State) (l : Lit) (v : Word) (b : Nat) : Res Unit :=
  match (xsendEntry s l b ((s.me.occ.map (·.k)).getD 0)).2 with
  | some e => do
    let n := 64 * e.nline
    descWait s v (n / 8)
    need (!(s.me.fenced clsCR [(ptrAddr v, n)]) && !(s.me.fenced clsCW (peerSpan s.me e.dst e.doff n))) .hold
  | none => .ok ()

/-- XSEND (R305). -/
def execXsend (l : Lit) (a b : BitVec 5) (s : State) : Host.Outcome State Fault Refusal :=
  settle s (withChecked s [a.toNat, b.toNat] [] (xsendWait s l (gval s a.toNat) b.toNat) fun s' => do
    let (o, _) ← flaggedOf s
    need o.xrout (trapC cDETERM)
    let k := s'.me
    let (t, entry) := xsendEntry s l b.toNat o.k
    match entry with
    | none => .error (trapC cSLOT)
    | some e => do
      need (!k.xused.contains t) (trapC cSLOT)
      need (decide (xclk s s.cur / 16 ≤ t)) (trapC cLATE)
      let v := gval s a.toNat
      let n := 64 * e.nline
      need (decide (fld v 53 48 = 0)) (trapC cTAG)
      need (decide (ptrAddr v % 64 = 0)) (trapA cMISALIGN false (ptrAddr v))
      let (_, s1) ← descRead s' (ptrAddr v) (n / 8)
      need (decide (xclk s s.cur / 16 = t)) (.stall s)
      let x : Xfer := { dst := e.dst, doff := e.doff, bytes := localBytes s1 s.cur (ptrAddr v - localBase) n, chan := e.chan,
                        slot := 2 ^ 16 * o.ss + t, pushed := k.pushed }
      .ok (s1.updMe fun k => { k with xused := t :: k.xused, xfers := k.xfers ++ [x] }))

/-- Transfer i of sending core c is written at its receiver (R305), with valid bits and journal. -/
def writeTransfer (s : State) (c i : Nat) : Option State :=
  let k := s.core c
  (k.xfers[i]?).bind fun x => (k.launchOf s).map fun l =>
    let d := launchCore s (corePart s c) l x.dst
    let s := setLocal s d x.doff x.bytes
    let s := s.updCore d fun r => { r with xwritten := x.slot :: r.xwritten }
    s.updCore c fun r => { r with xfers := r.xfers.eraseIdx i }

/-- Transfer i can be written: the sender's accesses have been performed (R332; log 111), no down link holds it back (R402), and its receiver
is not away (R363). -/
def transferUp (s : State) (c i : Nat) : Bool :=
  match (s.core c).xfers[i]?, (s.core c).launchOf s with
  | some x, some l => (s.core c).rwBefore x.pushed s c && l.setup.contains (l.lcore x.dst) &&
      (downOn s (foldOf c) (foldOf (launchCore s (corePart s c) l x.dst)) false).isNone
  | _, _ => false

/-- EXCHANGE_TRANSFER_WRITE of transfer i of core c. -/
def execExchangeTransferWrite (c i : Nat) (s : State) : Host.Outcome State Fault Refusal :=
  match writeTransfer s c i with
  | some s' => event s (transferUp s c i) s'
  | none => event s false s

/-- XRECV (R306). -/
def execXrecv (_ : Lit) (d : BitVec 5) (c : BitVec 4) (s : State) : Host.Outcome State Fault Refusal :=
  settle s (withRegs s [] [d.toNat] fun s' => do
    let (o, _) ← flaggedOf s
    need (!s.me.inCompute) (trapC cDETERM)
    let k := s'.me
    match (k.schedule s).find? fun e => e.dst == o.k && e.chan == c.toNat && !k.xtaken.contains e.slot with
    | none => .error (trapC cCHANNEL)
    | some e => do
      need (k.xwritten.contains (2 ^ 16 * o.ss + e.slot)) (.stall s)
      setG (s'.updMe fun k => { k with xtaken := e.slot :: k.xtaken }) d.toNat (BitVec.ofNat 64 (localBase + e.doff)))

end Sys2Proof.Machine
end

