-- ==== Sys2Proof/Machine/Fences.lean ====
section
/-! DEFINITION. The fence group (12 R320 to R322). A fence is recorded in the core and orders what later packets issue. -/

namespace Sys2Proof.Machine

/-- A fence is recorded while an earlier access of the core is still to be ordered. -/
def addFence (s : State) (f : Fence) : State :=
  if f.pending s.me s s.cur then s.updMe fun k => { k with fences := k.fences ++ [f] } else s

/-- FENCE.R (R321). -/
def execFenceR (l : Lit) (a b : BitVec 5) (s : State) : Host.Outcome State Fault Refusal :=
  settle s (withRegs s [a.toNat, b.toNat] [] fun s' => do
    let w := gval s a.toNat
    let n := (rbval s l b.toNat).toNat
    need (decide (fld w 53 48 = 0 ∧ ptrAddr w + n ≤ 2 ^ 48)) (trapC cTAG)
    .ok (if n = 0 then s' else addFence s' { pred := 63, succ := 63, range := some (ptrAddr w, n), pushed := s'.me.pushed }))

/-- FENCE.S (R320). -/
def execFenceS (_ : Lit) (p u : BitVec 6) (s : State) : Host.Outcome State Fault Refusal :=
  settle s (.ok (addFence s { pred := p.toNat, succ := u.toNat, range := none, pushed := s.me.pushed }))

/-- QFENCE (R322): waits for the masked queues, then takes the cause of the lowest that holds one. -/
def execQfence (_ : Lit) (m : BitVec 8) (s : State) : Host.Outcome State Fault Refusal :=
  settle s (do
    let qs := (List.range 8).filter fun q => m.getLsbD q
    need (qs.all fun q => ((mfind s.me.queues q).map fun x => x.entries.isEmpty).getD true) (.stall s)
    match s.me.deferredOf qs with
    | some e => .error e
    | none => .ok s)

end Sys2Proof.Machine
end

