-- ==== Sys2Proof/Machine/Coll.lean ====
section
/-! DEFINITION. Collectives (20 R384 to R398): VSSET, VSMARK, VSWAIT and VSDIG, and the beats. -/

namespace Sys2Proof.Machine

/-! ## Descriptors -/

/-- What VSSET reads beside a pointer is judged as an engine's reading is, and its corrected errors are counted (R246); a completion of the
host link that failed is UNCORRECTABLE (R403). -/
def collJudge (s : State) (tr : SMap Nat) (v n : Nat) : Res State := do
  need (!(s.me.hostFail && (span v n).any fun a => (placeOf s s.cur tr a).any isHost)) (trapA cUNCORR false v)
  match judgeAll s s.cur tr [(v, n)] with
  | .error f => .error (f.stop s)
  | .ok () => .ok (countEccRanges s s.cur tr [(v, n)])

/-- The descriptor at G[ra] (R393, R389): TAG, MISALIGN, the windows of R389, and the checks of a load. -/
def collDesc (s : State) (w : Word) : Res (List Word × State) := do
  need (decide (fld w 63 48 = 0)) (trapC cTAG)
  let v := w.toNat
  need (decide (v % 64 = 0)) (trapA cMISALIGN false v)
  need (windowOf v == .common || windowOf v == .global) (trapA cPERMISSION false v)
  let k := s.me
  need (!(k.blocked s s.cur (v, 64)) && !(k.storesMeet s s.cur [(v, 64)]) && !(k.fenced clsR [(v, 64)])) .hold
  let (tr, s) ← checkRange s s.cur v 64 false false
  let s ← collJudge s tr v 64
  let bs := readRange s s.cur tr v 64
  .ok ((chunksOf 8 bs).map fun b => BitVec.ofNat 64 (leNat b), s)

/-- U of R389. -/
def cdUnit (fc bl : Nat) : Nat :=
  if fcBlock fc then 8 * 2 ^ bl else if fc = 18 then 16 else if fc = 6 ∨ fc = 7 then 4 else if fc = 8 ∨ fc = 16 then 2 else 1

/-- The fields of a descriptor meet R389 and R390. -/
def collValid (facc : Word) (d : List Word) : Bool :=
  let w := dw d
  let op := cdOp d
  let fc := cdWfc d
  let u := cdUnit (fld (w 2) 63 58) (fld (w 2) 57 54)
  fld (w 0) 31 30 == 0 && fld (w 0) 47 43 == 0 && fld (w 0) 63 58 == 0 && fld (w 3) 63 48 == 0 &&
  [w 4, w 5, w 6, w 7].all (fun x => fld x 63 48 == 0) &&
  decide (cdKind d ≤ 4 ∧ op ≤ 6 ∧ (op = 0 ↔ cdKind d = 0 ∨ cdKind d = 3)) &&
  (match op with
    | 0 => decide (1 ≤ fc ∧ fc ≤ 18)
    | 1 => fc == 1
    | 3 => fc == 1
    | 4 => fc == 1
    | _ => fc == 17) &&
  decide (2 ≤ cdNrank d ∧ cdNrank d ≤ 1024 ∧ cdRank d < cdNrank d ∧ 1 ≤ cdCount d ∧ 1 ≤ cdChunk d) &&
  decide (cdChunk d % (if fcBlock fc then 2 ^ cdWbl d else if fc = 18 then 16 else 1) = 0) &&
  ((fld facc 2 2 == 1) == (fld (w 6) 47 0 == 0)) &&
  decide (cdKind d = 4 → cdCount d % cdNrank d = 0) &&
  decide (cdChunk d % u = 0 ∧ (cdKind d = 3 → cdCount d % u = 0) ∧ (cdKind d = 4 → cdPart d % u = 0))

/-- n bytes at an address, as an operand that VSSET reads beside its descriptor. -/
def collRead (s : State) (v n : Nat) : Res (List Byte × State) := do
  need (!(s.me.storesMeet s s.cur [(v, n)])) .hold
  let (tr, s) ← copyRange s s.cur v n false false (fun _ => true) []
  let s ← collJudge s tr v n
  .ok (readRange s s.cur tr v n, s)

/-- The words of the rank table (R389). -/
def collTable (s : State) (d : List Word) : Res (List Word × State) := do
  let (bs, s) ← collRead s (fld (dw d 5) 47 0) (4 * cdNrank d)
  .ok ((chunksOf 4 bs).map fun b => BitVec.ofNat 64 (leNat b), s)

/-- What the ranks of one collective share (R389): the fields but for RANK, COUNT and CHUNK, and the rank table. -/
def collShared (d table : List Word) : List Word := putFld (dw d 0) 57 48 0 :: putFld (dw d 3) 63 48 0 :: table

/-- DEV of a rank, by the shared words. -/
def VStream.dev (x : VStream) (q : Nat) : Nat := fld (x.shared.getD (2 + q) 0) 7 0

/-- The number of ranks, and the operation. -/
def VStream.nrank (x : VStream) : Nat := fld (x.shared.getD 0 0) 42 32
def VStream.op (x : VStream) : Nat := fld (x.shared.getD 0 0) 19 16

/-- The open rank record of a number. -/
def VStream.rankOf (x : VStream) (q : Nat) : Option Rank := x.ranks.find? fun r => r.rank == q

/-! ## The entries of a new stream -/

/-- The entries that a new stream takes (R387): computed by the Steading with FACC bit 2 = 1, else from the ROUTE image. -/
def collEntries (s : State) (d table : List Word) : Res (SMap RouterEntry × State) := do
  let p := corePart s s.cur
  if fld (s.part p).facc 2 2 = 1 then
    .ok ((steadingFlows s p d table).map fun y => (y.1, flowEntry d (fld (s.me.ctl 0x010) 2 0) y.2), s)
  else do
    let a := fld (dw d 6) 47 0
    let (h, s) ← collRead s a 8
    let n := leNat h
    need (decide (1 ≤ n ∧ n ≤ 8192)) (trapC cILLEGAL)
    let (bs, s) ← collRead s (a + 8) (32 * n)
    match routeRecords s p ((chunksOf 8 bs).map fun b => BitVec.ofNat 64 (leNat b)) with
    | none => .error (trapC cILLEGAL)
    | some es => do
      need (traceOk s p d table es) (trapC cILLEGAL)
      .ok (es, s)

/-! ## VSSET -/

/-- A region of a rank (R393): its range as CPY checks it (R267), DETERMINISM in a routine of a flagged launch among its causes, and the keys
of its other-local pages. -/
def rankRange (s : State) (v n al : Nat) (write : Bool) (tr : SMap Nat) : Res (SMap Nat × State) := do
  need (decide (v + n ≤ 2 ^ 48)) (trapC cTAG)
  need (decide (v % al = 0)) (trapA cMISALIGN write v)
  let (tr, s) ← copyRange s s.cur v n write s.me.inFlagged (fun _ => true) tr
  let pages := (List.range (pageOf (v + n - 1) - pageOf v + 1)).map (pageOf v + ·)
  .ok (if n = 0 ∨ windowOf v ≠ .otherLocal then tr else pages.foldl (fun m pg =>
    match otherLocal s s.cur (pg * 2 ^ 16) with
    | some (c, o) => mput m pg (localKey c o)
    | none => m) tr, s)

/-- A rank's chunk is performed with its flag (R394). -/
def ownChunk (p : Nat) (x : State × Rank) (j : Nat) : State × Rank :=
  let (a, bs) := x.2.chunkBytes j
  let s := rankWrite x.1 p x.2 a bs
  (rankWrite s p x.2 (cdFlags x.2.desc + 8 * j) (leBytes 8 x.2.epoch.toNat), { x.2 with flags := j :: x.2.flags, bytes := j :: x.2.bytes })

/-- The chunks of a rank's result that its own contribution fills at VSSET (R394). -/
def ownChunks (d : List Word) : List Nat :=
  match cdKind d with
  | 0 => if cdRank d = 0 then List.range (cdNch d) else []
  | 3 => span (cdRank d * cdNch d) (cdNch d)
  | _ => []

/-- Beats enter a router's input. -/
def pushBeats (x : VStream) (key : Nat) (bs : List Beat) : VStream := { x with inq := mput x.inq key (mget [] x.inq key ++ bs) }

/-- Which sets of the router at fold f take the beats of ranks rs from a port: for this device's ranks, for other devices' (R386, R387). -/
def VStream.takes (x : VStream) (f port : Nat) (rs : List Nat) : List Bool :=
  if x.direct then [false, true].filter fun away => (mget [] x.flows f).any fun w => w.away == away && w.ins.contains (port, rs) else [false]

/-- What the interface of fold f sends for a rank enters its router (R384, R393). -/
def VStream.sendFrom (x : VStream) (f q : Nat) (bs : Bool → List Beat) : VStream :=
  (x.takes f 6 [q]).foldl (fun x away => pushBeats x (16 * f + 6) (bs away)) x

/-- The elements of a contribution that the wire carries: the padding positions of a ragged last block too (R391, R417). -/
def cdCarried (d : List Word) : Nat :=
  let b := if fcBlock (cdWfc d) then 2 ^ cdWbl d else if cdWfc d = 18 then 16 else 1
  (cdCount d + b - 1) / b * b

/-- The rank's part is opened (R393): its contribution read, its own chunks written with their flags, and its beats sent. On a stream that
was aborted nothing more is written or sent (R398). -/
def openRank (s : State) (d : List Word) (tr : SMap Nat) (epoch : Word) (x : VStream) : State :=
  let c := s.cur
  let p := corePart s c
  let k := s.me
  let src := dw d 1
  let wire : Word := BitVec.ofNat 64 (cdWfc d * 2 ^ 58 + cdWbl d * 2 ^ 54)
  let n := cdCount d
  let q := cdRank d
  let bytes := fcBytes (ptrFc src) (ptrBl src) n
  let bs := convertBytes src wire (readRange s c tr (ptrAddr src) bytes) n
  let codes := if cdSends d q then (List.range (cdCarried d)).map (wireCode (cdWfc d) (cdWbl d) bs) else []
  let s := if cdSends d q then engRead s c (umodeOf k) (pmodeOf k) tr [(ptrAddr src, bytes)] else s
  let from_ := if cdKind d = 3 then q else 0
  let r : Rank := { rank := q, fold := foldOf c, core := c, blk := (k.occ.map (·.blk)).getD 0, epoch := epoch, desc := d, tr := tr,
                    got := (codes.take n).zipIdx.foldl (fun m y => mput m (elemKey from_ y.2) y.1) [], bytes := [], flags := [], ndig := 0, closed := false }
  let (s, r) := (if x.aborted then [] else ownChunks d).foldl (ownChunk p) (s, r)
  let x := { x with ranks := { r with got := [] } :: x.ranks.filter fun y => y.rank != q }
  let x := if x.aborted then x else x.sendFrom (foldOf c) q fun away => codes.zipIdx.map fun y => Beat.elem away [q] y.2 y.1
  s.updPart p fun v => { v with streams := mput v.streams (cdVs d) x }

/-- VSSET (R393). The contribution is read when the rank opens. -/
def execVsset (l : Lit) (d a b : BitVec 5) (s : State) : Host.Outcome State Fault Refusal :=
  settle s (withRegs s [a.toNat, b.toNat] [d.toNat] fun s' => do
    need (!s.me.inCompute) (trapC cDETERM)
    let p := corePart s s.cur
    let facc := (s.part p).facc
    let (ds, s1) ← collDesc s' (gval s a.toNat)
    need (collValid facc ds) (trapC cILLEGAL)
    let src := dw ds 1
    let dst := dw ds 2
    need (fcOk facc (cdWfc ds) (cdWbl ds)) (trapC cTAG)
    copyPtr s .cpy src
    copyPtr s .cpy dst
    need (decide (fcClass (ptrFc src) = fcClass (cdWfc ds) ∧ fcClass (ptrFc dst) = fcClass (cdWfc ds))) (trapC cTAG)
    let (table, s2) ← collTable s1 ds
    need (table.all (fun t => fld t 7 0 == s.nv.dev) || decide (fld facc 19 16 ≠ 0)) (trapC cPERMISSION)
    let sb := if cdSends ds (cdRank ds) then fcBytes (ptrFc src) (ptrBl src) (cdCount ds) else 0
    let db := fcBytes (ptrFc dst) (ptrBl dst) (cdElems ds (cdRank ds))
    let (tr, s3) ← if sb = 0 then .ok ([], s2) else rankRange s2 (ptrAddr src) sb (fcAlign (ptrFc src)) false []
    let (tr, s4) ← if db = 0 then .ok (tr, s3) else rankRange s3 (ptrAddr dst) db (fcAlign (ptrFc dst)) true tr
    let (tr, s5) ← if db = 0 then .ok (tr, s4) else rankRange s4 (cdFlags ds) (8 * cdNflags ds (cdRank ds)) 8 true tr
    need (s5.me.rwDone s5 s.cur) (.stall s)
    let shared := collShared ds table
    let lvl := fld (s.me.ctl 0x010) 2 0
    let open_ := mfind (s5.part p).streams (cdVs ds)
    if (open_.map fun x => decide (x.shared ≠ shared ∨ x.level ≠ lvl)).getD false then setG s5 d.toNat 1
    else if (open_.bind fun x => x.rankOf (cdRank ds)).any fun r => !r.closed then setG s5 d.toNat 2
    else do
      match if sb = 0 then .ok () else judgeAll s5 s.cur tr [(ptrAddr src, sb)] with
      | .error f => .error (f.stop s)
      | .ok () => do
        need (!(engLent s5 s.cur (if ownChunks ds = [] then [] else [(ptrAddr dst, db)]))) (.stall s)
        let (es, s6) ← match open_ with
          | some _ => .ok ([], s5)
          | none => collEntries s5 ds table
        let direct := fld facc 2 2 == 1
        let x := open_.getD { level := lvl, shared := shared, ranks := [], aborted := false, direct := direct, routers := es,
                              flows := if direct then steadingFlows s6 p ds table else [], inq := [], bank := [], out := [], sent := [], digests := [] }
        setG (openRank s6 ds tr (rbval s l b.toNat) x) d.toNat 0)

/-- The open rank of fold f whose marker core c sends. -/
def VStream.marking (x : VStream) (f c : Nat) : Option Rank :=
  let rs := x.ranks.filter fun r => r.fold == f && !r.closed
  (rs.find? fun r => r.core == c).orElse fun _ => rs.head?

/-- VSMARK (R395): the marker of the fold's open rank, this core's first. -/
def execVsmark (_ : Lit) (a : BitVec 5) (s : State) : Host.Outcome State Fault Refusal :=
  settle s (withRegs s [a.toNat] [] fun s' => do
    need (!s.me.inCompute) (trapC cDETERM)
    let w := gval s a.toNat
    need (decide (fld w 63 12 = 0)) (trapC cILLEGAL)
    let p := corePart s s.cur
    let f := foldOf s.cur
    match (mfind (s'.part p).streams w.toNat).bind fun x => (x.marking f s.cur).map fun r => (x, r.rank) with
    | none => .error (trapC cILLEGAL)
    | some (x, q) =>
      .ok (if x.aborted then s' else s'.updPart p fun v =>
        { v with streams := mput v.streams w.toNat (x.sendFrom f q fun away => [.marker away [q]]) }))

/-! ## Waiting for the result -/

/-- The current core's open rank for the descriptor at G[ra], or CHANNEL; the checks on the descriptor are VSSET's (R396, R393). -/
def openPart (s : State) (w : Word) : Res (List Word × VStream × Rank × State) := do
  let (ds, s) ← collDesc s w
  need (collValid (s.part (corePart s s.cur)).facc ds) (trapC cILLEGAL)
  let (table, s) ← collTable s ds
  match (mfind (s.part (corePart s s.cur)).streams (cdVs ds)).filter fun x => x.shared == collShared ds table with
  | none => .error (trapC cCHANNEL)
  | some x =>
    match (x.rankOf (cdRank ds)).filter fun r => !r.closed with
    | none => .error (trapC cCHANNEL)
    | some r => .ok (ds, x, r, s)

/-- Every flag of a rank's result region holds the epoch (R396). -/
def flagsHold (s : State) (p : Nat) (r : Rank) : Bool :=
  (List.range (cdNflags r.desc r.rank)).all fun j => leNat (rankRead s p r (cdFlags r.desc + 8 * j) 8) == r.epoch.toNat

/-- No beat of a rank's contribution remains in the device (R396): at a router, in a Common bank, at a fabric port, or at a receiving interface,
where a combination holds every rank's; a digest that it sends is one. -/
def beatsGone (x : VStream) (r : Rank) : Bool :=
  let d := r.desc
  let gone (m : SMap (List Beat)) : Bool := m.all fun y => y.2.all fun b => b.isMarker || !b.ranks.contains r.rank
  !cdSends d r.rank || (gone x.inq && gone x.bank && gone x.out &&
    x.ranks.all fun t => t.got.all fun y => decide (cdOp d = 0 ∧ y.1 / 2 ^ 32 ≠ if cdKind d = 3 then r.rank else 0))

/-- VSWAIT and VSDIG go on (R396): the result is there, or the collective was aborted. -/
def partDone (s : State) (x : VStream) (r : Rank) : Bool := x.aborted || (flagsHold s (corePart s s.cur) r && beatsGone x r)

/-- Closes a rank's part (R393, R396): the stream is closed with its last one. -/
def closeRank (s : State) (p vs : Nat) (x : VStream) (q : Nat) : State :=
  let x := { x with ranks := x.ranks.map fun r => if r.rank = q then { r with closed := true } else r }
  s.updPart p fun v => { v with streams := if x.ranks.all (·.closed) then mdel v.streams vs else mput v.streams vs x }

/-- VSWAIT (R396, R398). -/
def execVswait (_ : Lit) (d a : BitVec 5) (s : State) : Host.Outcome State Fault Refusal :=
  settle s (withRegs s [a.toNat] [d.toNat] fun s' => do
    need (!s.me.inCompute) (trapC cDETERM)
    let (ds, x, r, s1) ← openPart s' (gval s a.toNat)
    need (partDone s1 x r) (.stall s)
    setG (closeRank s1 (corePart s s.cur) (cdVs ds) x r.rank) d.toNat (if x.aborted then 1 else 0))

/-- CRC-64/GO-ISO (R397): reflected, all ones in and out. -/
def goIso (bs : List Byte) : Nat :=
  let bit (r : Nat) : Nat := if r % 2 = 1 then Nat.xor (r / 2) 0xD800000000000000 else r / 2
  let byte (r : Nat) (b : Byte) : Nat := (List.range 8).foldl (fun r _ => bit r) (Nat.xor r b.toNat)
  Nat.xor (bs.foldl byte (2 ^ 64 - 1)) (2 ^ 64 - 1)

/-- The digest of a result region (R397): CRC-64/ECMA-182 below CRC-64/GO-ISO. -/
def digestOf (bs : List Byte) : Nat := (crcBytes 0 bs).toNat + 2 ^ 64 * goIso bs

/-- The n-th digest that a rank sent. -/
def VStream.digest (x : VStream) (q n : Nat) : Option Nat := (((x.digests.filter fun y => y.1 == q)[n]?).map (·.2))

/-- A rank's digest, for this device's ranks and, through the fabric ports, for those of other devices (R397). -/
def VStream.addDigest (s : State) (p q v : Nat) (x : VStream) : VStream :=
  let far := (List.range x.nrank).filter fun t => x.dev t != s.nv.dev
  { x with
    digests := x.digests ++ [(q, v)]
    out := ((far.map fun t => peerDie s p (x.dev t)).foldl (fun ds i => if ds.contains i then ds else ds ++ [i]) []).foldl
      (fun m i => mput m i (mget [] m i ++ [.digest q v])) x.out }

/-- VSDIG (R397): forms the rank's digest once the result is there, and waits for every rank's. -/
def execVsdig (_ : Lit) (d a : BitVec 5) (s : State) : Host.Outcome State Fault Refusal :=
  settle s (withRegs s [a.toNat] [d.toNat] fun s' => do
    need (!s.me.inCompute) (trapC cDETERM)
    let p := corePart s s.cur
    let (ds, x, r, s1) ← openPart s' (gval s a.toNat)
    need (decide (cdKind ds ≠ 1 ∧ cdKind ds ≠ 4)) (trapC cILLEGAL)
    let dig := fld (dw ds 7) 47 0
    let (tr, s2) ← if dig = 0 then .ok ([], s1) else copyRange s1 s.cur dig 16 true false (fun _ => true) []
    need (partDone s2 x r) (.stall s)
    if x.aborted then setG s2 d.toNat 1
    else do
      let n := r.ndig
      let dst := dw r.desc 2
      match x.digest r.rank n with
      | none =>
        let mine := digestOf (rankRead s2 p r (ptrAddr dst) (fcBytes (ptrFc dst) (ptrBl dst) (cdElems r.desc r.rank)))
        .error (.stall (s.updPart p fun v =>
          { v with streams := mput v.streams (cdVs ds) (VStream.addDigest s p r.rank mine x) }))
      | some mine => do
        let all := (List.range (cdNrank ds)).map fun q => x.digest q n
        need (all.all (·.isSome)) (.stall s)
        let first := (all.headD none).getD 0
        let bad := (List.range (cdNrank ds)).find? fun q => decide ((all.getD q none).getD 0 ≠ first)
        let s3 := if dig = 0 then s2 else writeRange s2 s.cur tr dig (leBytes 16 mine)
        let x := { x with ranks := x.ranks.map fun t => if t.rank = r.rank then { t with ndig := n + 1 } else t }
        let s4 := s3.updPart p fun v => { v with streams := mput v.streams (cdVs ds) x }
        match bad with
        | none => setG s4 d.toNat 0
        | some q =>
          let s5 := s4.updPart p fun v => { v with fevt := putFld v.fevt 2 2 1 }
          setG { s5 with msix := s5.msix ++ [(p, 1)] } d.toNat (BitVec.ofNat 64 (1 + q)))

/-! ## Beats -/

/-- The number of the chunk of rank r that holds element i of contributing rank q (R390). -/
def Rank.chunkNo (r : Rank) (q i : Nat) : Nat :=
  match cdKind r.desc with
  | 3 => q * cdNch r.desc + i / cdChunk r.desc
  | 4 => (i - r.rank * cdPart r.desc) / cdChunk r.desc
  | _ => i / cdChunk r.desc

/-- The rank under which a rank's record of what it has received keeps a beat's element: the contributing one of an all-gather. -/
def Rank.source (r : Rank) (b : Beat) : Nat := if cdKind r.desc = 3 then b.ranks.headD 0 else 0

/-- A beat's element belongs to a rank's result (R390): padding, the rank's own contribution, and another part of a reduce-scatter do not. -/
def Rank.uses (r : Rank) (b : Beat) : Bool :=
  let d := r.desc
  let i := b.index
  b.value.isSome && cdReceives d r.rank && decide (i < cdCount d) && (cdOp d != 0 || !b.ranks.contains r.rank) &&
  (cdKind d != 4 || decide (r.rank * cdPart d ≤ i ∧ i < (r.rank + 1) * cdPart d))

/-- The rank's interface has room for a beat's element: it has not received it since the rank was opened. -/
def Rank.wants (r : Rank) (b : Beat) : Bool :=
  !r.flags.contains (r.chunkNo (r.source b) b.index) && (mfind r.got (elemKey (r.source b) b.index)).isNone

/-- Changes a rank record of a stream. -/
def VStream.setRank (x : VStream) (r : Rank) : VStream := { x with ranks := x.ranks.map fun t => if t.rank = r.rank then r else t }

/-- The open ranks on a fold. -/
def VStream.openOn (x : VStream) (f : Nat) : List Rank := x.ranks.filter fun r => r.fold == f && !r.closed

/-- An output port can take a beat (R384, R394): an open rank is on the fold that has room for it or no use for it; or the link is there and
up. -/
def portReady (s : State) (x : VStream) (f : Nat) (b : Beat) (d : Nat) : Bool :=
  match d with
  | 6 => !(x.openOn f).isEmpty && (x.openOn f).all fun r => !r.uses b || r.wants b
  | 7 => sliceRouter f
  | 8 => fabricRouter f
  | 9 => x.direct
  | _ => match nextRouter f d with
    | some _ => !s.down (linkOf f d)
    | none => false

/-- How many contributions the Common bank at router f combines to one (R391): one for each set that sends to it, where the stream has an
operation (log 69). -/
def bankInputs (x : VStream) (f : Nat) : Nat :=
  match mfind x.routers f with
  | some e => if RouterEntry.op e = 0 then 1
    else max 1 ((List.range (RouterEntry.nset e)).filter fun j => (setOutputs (RouterEntry.set e j)).contains 7).length
  | none => 1

/-- What a Common bank makes of several beats (R391): an fadd's partial sums by the canonical tree, each at the position of its lowest rank;
others as a router combines them. -/
def bankCombine (op level : Nat) (bs : List Beat) : List Beat :=
  match bs with
  | [b] => [b]
  | .elem away _ i _ :: _ =>
    if op = 1 then
      let val (q : Nat) : Option Word32 := (bs.find? fun b => b.ranks.head? == some q).bind (Beat.addend 1 level)
      ((combineAll 1 level val).map fun v => Beat.elem away (unionRanks (bs.map Beat.ranks)) i v).toList
    else (joinBeats op level bs).toList
  | _ => (joinBeats op level bs).toList

/-- A beat reaches the Common bank at router f (R391): the bank holds it until all n contributions to its element are there, or all n
markers, and sends the combination back to the router. -/
def toBank (f : Nat) (b : Beat) (x : VStream) : VStream :=
  let n := bankInputs x f
  let same (y : Beat) : Bool := y.value.isSome == b.value.isSome && y.index == b.index
  let held := mget [] x.bank f ++ [b]
  let group := held.filter same
  if group.length < n then { x with bank := mput x.bank f held }
  else
    pushBeats { x with bank := mput x.bank f (held.filter fun y => !same y) } (16 * f + 7)
      (bankCombine ((mfind x.routers f).map RouterEntry.op |>.getD 0) x.level group)

/-- A beat leaves router f by port d (R384): to the next router, the interfaces of the fold's ranks, the Common bank, the fabric port, or
back to the router. -/
def sendBeat (f : Nat) (b : Beat) (x : VStream) (d : Nat) : VStream :=
  match d with
  | 6 => (x.openOn f).foldl (fun x r => match b.value with
    | some v => if r.uses b && r.wants b then x.setRank { r with got := mput r.got (elemKey (r.source b) b.index) v } else x
    | none => x) x
  | 7 => toBank f b x
  | 8 => { x with out := mput x.out (dieOf f) (mget [] x.out (dieOf f) ++ [b]) }
  | 9 => pushBeats x (16 * f + 9) [b]
  | _ => match nextRouter f d with
    | some g => pushBeats x (16 * g + farPort d) [b]
    | none => x

/-- A router combines the beats at the inputs of a set and sends the combination to its outputs; a marker advances CUR (R386). -/
def routerSends (s : State) (f : Nat) (x : VStream) (op : Nat) (heads : List (Nat × Beat)) (outs : List Nat) : Option VStream :=
  (joinBeats op x.level (heads.map (·.2))).bind fun b =>
    if outs.all (portReady s x f b) then
      let x := heads.foldl (fun x h => { x with inq := mput x.inq (16 * f + h.1) ((mget [] x.inq (16 * f + h.1)).erase h.2) }) x
      let x := outs.foldl (sendBeat f b) x
      some (match mfind x.routers f, b.value with
        | some e, none => { x with routers := mput x.routers f (putFld e.1 3 2 ((RouterEntry.cur e + 1) % RouterEntry.nset e), e.2) }
        | _, _ => x)
    else none

/-- A router's action on its current set (R386): the next beat of every input, in increasing port number, or for fadd LEFT's first. -/
def routerStep (s : State) (f : Nat) (x : VStream) : Option VStream :=
  (mfind x.routers f).bind fun (e : RouterEntry) =>
    let w := e.set e.cur
    let ins := if e.op = 1 ∧ (setInputs w).contains (setLeft w) then setLeft w :: (setInputs w).erase (setLeft w) else setInputs w
    let heads := ins.filterMap fun d => ((mget [] x.inq (16 * f + d)).head?).map fun b => (d, b)
    if heads.length = ins.length then routerSends s f x e.op heads (setOutputs w) else none

/-- A router's action on a set that the Steading computed: the oldest beats of the set's ranks at its inputs (R386; log 48). -/
def flowStep (s : State) (f : Nat) (x : VStream) (w : Flow) : Option VStream :=
  let heads := w.ins.filterMap fun y =>
    ((mget [] x.inq (16 * f + y.1)).find? fun b => b.away == w.away && b.ranks == y.2).map fun b => (y.1, b)
  if heads.length = w.ins.length then routerSends s f x x.op heads w.outs else none

/-- A router's next action on a stream. -/
def VStream.beat (s : State) (f : Nat) (x : VStream) : Option VStream :=
  if x.aborted then none else if x.direct then (mget [] x.flows f).findSome? (flowStep s f x) else routerStep s f x

/-- The ports by which routers send a stream's beats on. -/
def VStream.exits (x : VStream) : List (Nat × Nat) :=
  if x.direct then x.flows.flatMap fun y => y.2.flatMap fun w => w.outs.map fun d => (y.1, d)
  else x.routers.flatMap fun y => (List.range (RouterEntry.nset y.2)).flatMap fun i => (setOutputs (RouterEntry.set y.2 i)).map fun d => (y.1, d)

/-- ROUTER_BEAT of stream vs at the router of fold f. -/
def execRouterBeat (p f vs : Nat) (s : State) : Host.Outcome State Fault Refusal :=
  match (mfind (s.part p).streams vs).bind (VStream.beat s f) with
  | some x => event s true (s.updPart p fun v => { v with streams := mput v.streams vs x })
  | none => event s false s

/-- The interface of a rank performs a complete chunk's bytes, and once they are performed writes its flag (R394, R337). -/
def chunkArrives (s : State) (p : Nat) (r : Rank) : Option (State × Rank) :=
  match r.chunkReady true with
  | some j =>
    let (q, i, n, _) := cdChunkOf r.desc r.rank j
    let got := (span i n).foldl (fun m y => mdel m (elemKey q y)) r.got
    some (rankWrite s p r (cdFlags r.desc + 8 * j) (leBytes 8 r.epoch.toNat), { r with flags := j :: r.flags, got := got })
  | none =>
    (r.chunkReady false).map fun j =>
      let (a, bs) := r.chunkBytes j
      (rankWrite s p r a bs, { r with bytes := j :: r.bytes })

/-- Port k of the partition is up, and leads to the device of one of the stream's ranks (R399). -/
def VStream.peerPort (s : State) (p : Nat) (x : VStream) (k : Nat) : Bool :=
  let peer := fld (mget 0 s.ports k) 63 56
  (partPorts s p).contains k && linkUp s k && peer != s.nv.dev && (List.range x.nrank).any fun q => x.dev q == peer

/-- A beat that another device sends through port k enters at the die's fabric port (R384), once a rank is open that receives (R394). -/
def VStream.enters (s : State) (p : Nat) (x : VStream) (k : Nat) (b : Beat) : Option VStream :=
  let f := fabricFold (k / 9)
  if x.peerPort s p k && x.ranks.any (fun r => !r.closed) && b.ranks != [] && b.ranks.all (fun q => decide (q < x.nrank)) &&
      (x.takes f 8 b.ranks).contains false then some (pushBeats x (16 * f + 8) [b]) else none

/-- What arrives at an interface of stream vs, beside a chunk of a rank: what other devices send, and what leaves for them, the oldest first,
under their credits (R394, R397; log 69). -/
def VStream.arrives (s : State) (p : Nat) (x : VStream) (a : Arrival) : Option VStream :=
  match a with
  | .chunk _ => none
  | .elem k rs i v => x.enters s p k (.elem false rs i v)
  | .marker k rs => x.enters s p k (.marker false rs)
  | .digest k q v => if x.peerPort s p k && decide (q < x.nrank) && x.dev q != s.nv.dev then some { x with digests := x.digests ++ [(q, v)] } else none
  | .sent die =>
    match mget [] x.out die with
    | b :: bs => if (span (9 * die) 9).any (x.peerPort s p) then some { x with out := mput x.out die bs, sent := x.sent ++ [(die, b)] } else none
    | [] => none

/-- PORT_BEAT_ARRIVAL of stream vs. -/
def execPortBeatArrival (p vs : Nat) (a : Arrival) (s : State) : Host.Outcome State Fault Refusal :=
  match ((mfind (s.part p).streams vs).filter fun x => !x.aborted).bind fun x =>
      match a with
      | .chunk i => (x.ranks[i]?).bind fun r => (chunkArrives s p r).map fun y => (x.setRank y.2, y.1)
      | _ => (x.arrives s p a).map fun y => (y, s) with
  | some (x, s') => event s true (s'.updPart p fun v => { v with streams := mput v.streams vs x })
  | none => event s false s

end Sys2Proof.Machine
end

