-- ==== Sys2Proof/Machine/Yoke.lean ====
section
/-! DEFINITION. Yoked pairs (15 R370 to R373), and TLBINV and TLBPROBE (15 R366). -/

namespace Sys2Proof.Machine

/-! ## YOKE and UNYOKE -/

/-- A core holds a unit of a persistent launch, which may be suspended (R79). -/
def holdsPersistent (s : State) (c : Nat) : Bool := (persistentOn s c).isSome

/-- YOKE is accepted (R371, R34): not in a flagged launch, and FACC.YOKE is 1. -/
def yokeAllowed (s : State) : Res Unit :=
  need (!s.me.inFlagged && fld (s.part (corePart s s.cur)).facc 7 7 == 1) (trapC cILLEGAL)

/-- Both cores of a pair begin a journal epoch with JEN (R243, R371); the partner's registers and control registers are the core's. -/
def pairEpoch (s : State) (c jen : Nat) : State := mirrorPair (s.updCore c fun k => newEpoch k jen) c

/-- YOKE (R371): stalls until the partner holds no unit. The sequencer that runs stands for both cores'; the partner's lanes are a grant of
its own for the request copied to it (R83, R211). -/
def execYoke (_ : Lit) (d : BitVec 5) (s : State) : Host.Outcome State Fault Refusal :=
  settle s (withRegs s [] [d.toNat] fun s' => do
    yokeAllowed s
    let c := s.cur
    let o := partnerCore c
    if s.me.yoke.isSome then setG s' d.toNat 0
    else if s.nv.quar.contains c && s.nv.quar.contains o then setG s' d.toNat 2
    else if holdsPersistent s o then setG (s'.updMe fun k => { k with wait := none }) d.toNat 1
    else do
      need (s.core o).occ.isNone (.stall (s.updMe fun k => { k with wait := some .yoke }))
      let s1 := s'.updMe fun k => { k with wait := none, yoke := some Yoke.start }
      let s2 := pairEpoch (s1.updCore o fun k => { k with partnerOf := some c }) c 1
      setG (grantPartner s2 c s2.me.r.lastReq) d.toNat 0)

/-- A pair ends in agreement (R371): the partner becomes idle, and both journals close. -/
def dissolve (s : State) (c : Nat) : State :=
  let s := pairEpoch s c 0
  let s := s.updCore c fun k => { k with yoke := none }
  s.updCore (partnerCore c) fun k => { k with partnerOf := none, r := { k.r with vl := 256, v := [], lanes := 0 } }

/-- UNYOKE (R371): the current interval closes first. -/
def execUnyoke (_ : Lit) (s : State) : Host.Outcome State Fault Refusal :=
  settle s (do
    yokeAllowed s
    match s.me.yoke with
    | none => .ok s
    | some y =>
      if y.ivpos = 0 ∧ y.held = [] then .ok (dissolve s s.cur)
      else .error (.stall (s.updMe fun k => { k with yoke := some { y with close := true } })))

/-! ## Intervals -/

/-- A record holds nothing but the result of an AMO or a drove request that is on its way. -/
def LateRec.awaited (x : LateRec) (k : Core) : Bool :=
  x.bytes.isEmpty && !x.store && x.regs.all fun r => k.loads.any (fun l => l.isAmo && l.rd == r) || k.drove.any fun q => q.op.returns && q.rd == r

/-- INTERVAL_END is due (R372): the interval is over, nothing of it is on its way, and its records have entered the fingerprint, but for the
result of an AMO or a drove request, which waits for the agreement; the sequencer may wait for room in the buffer of held stores. -/
def intervalDue (s : State) (c : Nat) : Bool :=
  let k := s.core c
  match k.yoke with
  | some y => decide (y.state = 1 ∨ y.state = 2) && y.ends && k.loads.all Load.isAmo && k.stores.isEmpty &&
      (if k.seqr.isEmpty then (k.flushLate.yoke.map (·.late)).all fun xs => xs.all fun x => x.awaited k else decide (16 ≤ y.held.length))
  | none => false

/-- Both cores of the pair on core c. -/
def pairUpd (s : State) (c : Nat) (g : Core → Core) : State := (s.updCore c g).updCore (partnerCore c) g

/-- The interval agrees (R372, R373): YFP takes the fingerprint, held stores are performed, and a journal epoch begins, on both cores. -/
def intervalAgrees (s : State) (c : Nat) (y : Yoke) : State :=
  let k := s.core c
  let k := newEpoch ({ k with stores := k.stores ++ y.held }.setCtl 0x091 y.fp) 1
  let y' : Yoke := { Yoke.start with agree := some k.r, point := some k.point, late := y.late }
  let s := mirrorPair (s.setCore c { k with yoke := some y' }) c
  if y.state = 2 then pairUpd s c fun k => { k with trans := k.trans + 1 } else s

/-- Another core of the fold could make the third run: not one of the pair, and not holding a persistent unit (R373). -/
def thirdPossible (s : State) (c : Nat) : Bool :=
  (List.range 8).any fun i =>
    let o := 8 * foldOf c + i
    o != c && o != partnerCore c && !(holdsPersistent s o)

/-- The interval disagrees (R373): the last agreeing point is restored; a second time, a third run is made, for which the pair keeps what
its run gave, or the unit is stopped as pre-empted at the last agreeing point and the host decides. -/
def intervalDisagrees (s : State) (c : Nat) (y : Yoke) : State :=
  if y.state = 1 then yokeRestore s c 2 0
  else
    let p := corePart s c
    if fld (s.part p).facc 4 4 = 1 ∧ thirdPossible s c then
      s.updCore c fun k => { k with yoke := some { y with state := 3, close := true } }
    else
      let blk := (((s.core c).occ).map (·.blk)).getD 0
      let s1 := (yokeRestore s c 1 0).updCore c fun k => { k with occ := k.occ.map fun o => { o with running := false } }
      let s2 := s1.updPart p fun q => { q with contrec := q.contrec ++ [{ blk := blk, core := c, kind := 2 }] }
      { s2 with msix := s2.msix ++ [(p, 3)] }

/-- INTERVAL_END of the pair whose unit runs on core c. -/
def execIntervalEnd (c : Nat) (s : State) : Host.Outcome State Fault Refusal :=
  let due := intervalDue s c
  let s0 := s
  let s := s.updCore c Core.flushLate
  match (s.core c).yoke with
  | some y => event s0 due (if y.other.isNone then intervalAgrees s c y else intervalDisagrees s c y)
  | none => event s false s

/-- The pair runs on from its last agreeing point (R405). -/
def resumePair (s : State) (c : Nat) : State :=
  s.updCore c fun k => { k with occ := k.occ.map fun o => { o with running := true } }

/-- THIRD_RUN_COMPLETE is due (R373): another core of the fold is idle. -/
def thirdDue (s : State) (c : Nat) : Bool :=
  match (s.core c).yoke with
  | some y => decide (y.state = 3) && !((s.part (corePart s c)).contrec.any fun x => x.core == c && x.kind == 2) &&
      (List.range 8).any fun i =>
        let o := 8 * foldOf c + i
        o != c && o != partnerCore c && (s.core o).occ.isNone && (s.core o).partnerOf.isNone
  | none => false

/-- THIRD_RUN_COMPLETE with the third run's fingerprint (R373): it quarantines the core that it disagrees with, and the pair goes on
from the agreeing state, whose fingerprint is the interval's (log 114). Agreeing with neither, it delivers YOKE_MISMATCH at the last agreeing
point. -/
def execThirdRunComplete (c : Nat) (fp : Word) (s : State) : Host.Outcome State Fault Refusal :=
  match (s.core c).yoke with
  | some y =>
    let lead := c / 2 * 2
    let quarantine (s : State) (b : Nat) : State :=
      let s2 := { s with nv := { s.nv with quar := if s.nv.quar.contains b then s.nv.quar else b :: s.nv.quar } }
      pairUpd s2 c fun k => { k with thirds := k.thirds + 1 }
    let s' :=
      if fp = y.fp then quarantine (intervalAgrees s c { y with state := 1 }) (if c % 2 = 0 then lead + 1 else lead)
      else if some fp = y.other then quarantine (intervalAgrees s c { y with state := 1, fp := fp }) (if c % 2 = 0 then lead else lead + 1)
      else
        let t : Trap := { cause := cYOKE, acc := 3, val := false, data := 0, deferred := none }
        let s1 := yokeRestore s c 1 0
        { takeTrap { s1 with cur := c } t false with cur := s1.cur }
    event s (thirdDue s c) s'
  | none => event s false s

/-! ## TLB -/

/-- The cores of a TLBINV's scope (R366). -/
def tlbScope (s : State) (c scope : Nat) : List Nat :=
  match scope with
  | 0 => [c]
  | 1 => span (8 * foldOf c) 8
  | _ => (s.cores.map (·.1)).filter fun x => corePart s x == corePart s c

/-- TLBINV (R366). -/
def execTlbinv (l : Lit) (a b : BitVec 5) (u : BitVec 2) (s : State) : Host.Outcome State Fault Refusal :=
  settle s (withRegs s [a.toNat, b.toNat] [] fun s' => do
    need (decide (u ≠ 3)) (trapC cILLEGAL)
    need (!s.me.inCompute) (trapC cDETERM)
    let w := gval s a.toNat
    let n := (rbval s l b.toNat).toNat
    need (decide (fld w 53 48 = 0 ∧ ptrAddr w + n ≤ 2 ^ 48)) (trapC cTAG)
    need (s'.me.rwDone s' s.cur) (.stall s)
    let job := s.me.job s
    let hit (e : TlbEntry) : Bool := e.job == job && (n == 0 || meets (e.base, e.size) (ptrAddr w, n))
    .ok ((tlbScope s s.cur u.toNat).foldl (fun s c => s.updCore c fun k => { k with tlb := k.tlb.filter fun e => !hit e }) s'))

/-- SIZE of R366. -/
def leafSize (n : Nat) : Nat := if n = 2 ^ 30 then 2 else if n = 2 ^ 21 then 1 else 0

/-- TLBPROBE's answer (R366): ERR where the readings of a CRIT leaf differ (R364). A table word that cannot be read leaves no valid leaf. -/
def probeWord (s : State) (c v : Nat) : Word :=
  if windowOf v ≠ .global then 0
  else
    match (critWalk s (corePart s c) ((s.core c).job s) v).1, walk s (corePart s c) ((s.core c).job s) v with
    | .ok l, _ => BitVec.ofNat 64 ((if isMgmt c then l.phys % 2 ^ 48 / 2 ^ 12 * 2 ^ 12 else 0) + (if l.crit then 2 ^ 6 else 0) +
        leafSize l.size * 2 ^ 4 + l.tgt * 2 ^ 2 + (if l.w then 2 else 0) + 1)
    | .error .uncorrectable, .ok _ => 0x80
    | _, _ => 0

/-- A probe walks as a load does, and reads a CRIT leaf as often (R364). -/
def probeRead (s : State) (v : Nat) : State :=
  if windowOf v ≠ .global then s else (critWalk s (corePart s s.cur) (s.me.job s) v).2

/-- TLBPROBE (R366). -/
def execTlbprobe (_ : Lit) (d a : BitVec 5) (s : State) : Host.Outcome State Fault Refusal :=
  settle s (withRegs s [a.toNat] [d.toNat] fun s' => do
    need (!s.me.inCompute) (trapC cDETERM)
    let w := gval s a.toNat
    need (decide (fld w 53 48 = 0)) (trapC cTAG)
    setG (probeRead s' (ptrAddr w)) d.toNat (probeWord s s.cur (ptrAddr w)))

end Sys2Proof.Machine
end

