-- ==== Sys2Proof/Machine/System.lean ====
section
/-! DEFINITION. The SYS instructions (15 R352 to R358) and the control registers as MFC and MTC read and write them (06 R135 to R138,
15 R359, and the owners' field maps). -/

namespace Sys2Proof.Machine

/-! ## Traps and ends -/

/-- TRAP (R353): BREAK with the low 48 bits of rb. -/
def execTrap (l : Lit) (b : BitVec 5) (s : State) : Host.Outcome State Fault Refusal :=
  settle s (withRegs s [b.toNat] [] fun _ =>
    .error (.trap { cause := cBREAK, acc := 3, val := false, data := fld (rbval s l b.toNat) 47 0, deferred := none }))

/-- ERET (R354). -/
def execEret (_ : Lit) (s : State) : Host.Outcome State Fault Refusal := settle s (.ok (returnFromTrap s))

/-- The join block that a unit's record names can take its decrement (R48, R309); a unit without a parent has none. -/
def exitBlock (s : State) (o : Occ) (l : Launch) : Res State := do
  let (r, s) ← agentWord s o.part l.job (o.rcd + 8)
  let j := r.toNat
  if j = 0 then .ok s
  else do
    need (windowOf j == .common || windowOf j == .global) (trapA cPERMISSION true j)
    need (decide (j % 16 = 0)) (trapA cMISALIGN true j)
    let (_, s1) ← checkRange s s.cur j 16 true false
    let (w, s1) ← agentWord s1 o.part l.job j
    need (decide (fld w 63 32 = 0 ∧ fld w 31 0 ≠ 0)) (trapC cILLEGAL)
    .ok s1

/-- EXIT (R355). -/
def execExit (_ : Lit) (s : State) : Host.Outcome State Fault Refusal :=
  settle s (match s.me.occ, s.me.launchOf s with
    | some o, some l => do
      joinAgents s s
      if o.flagged then .ok (endRoutine s s.cur)
      else do
        let s1 ← exitBlock s o l
        .ok (unitGone (leaveCore s1 s.cur) o.part o.blk o.rcd 1)
    | _, _ => .error (trapC cILLEGAL))

/-- YIELD (R355). -/
def execYield (_ : Lit) (s : State) : Host.Outcome State Fault Refusal :=
  settle s (do
    let _ ← unitOf s
    joinAgents s s
    .ok (suspendUnit s s.cur 1 1 s.me.r.npc.toNat))

/-- PULSE (R356). -/
def execPulse (_ : Lit) (s : State) : Host.Outcome State Fault Refusal :=
  settle s (.ok (s.updMe fun k => { k.setCtl 0x0A1 (k.ctl 0x0A1 + 1) with wdogBase := s.clk }))

/-- CANCEL (R357): the answer is written before the level's units stop. A management core, which has no job, names the level of any (R359;
log 23). -/
def execCancel (_ : Lit) (d a : BitVec 5) (s : State) : Host.Outcome State Fault Refusal :=
  settle s (withRegs s [a.toNat] [d.toNat] fun s' => do
    need (!s.me.inCompute) (trapC cDETERM)
    let p := corePart s s.cur
    let unit_ := s.me.occ.isSome
    let lv := levelOf s p (if unit_ then some (s.me.job s) else none) (gval s a.toNat)
    need (decide (lv ≠ .nothing)) (trapC cILLEGAL)
    need (!unit_ || decide (lv.jobOf s p = s.me.job s)) (trapC cPERMISSION)
    let s1 ← setG s' d.toNat (BitVec.ofNat 64 (cancelLevel s' p lv).1)
    .ok (cancelLevel s1 p lv).2)

/-! ## WFI (R358) -/

/-- A deferred error is recorded in one of the core's queues. -/
def Core.anyQueueErr (k : Core) : Bool := k.queues.any fun q => q.2.err.isSome

/-- WFI: an error already recorded ends it at once. -/
def execWfi (l : Lit) (b : BitVec 5) (s : State) : Host.Outcome State Fault Refusal :=
  settle s (withRegs s [b.toNat] [] fun s' => do
    need (!s.me.inCompute) (trapC cDETERM)
    let n := (rbval s l b.toNat).toNat
    let ended := s.me.anyQueueErr || decide (s.me.wait = some .expired)
    if ended then .ok (s'.updMe fun k => { k with wait := none })
    else
      .error (.stall (match s.me.wait with
        | some _ => s
        | none => s.updMe fun k => { k with wait := some (if n = 0 then .forever else .deadline (s.clk + n)) })))

/-- WFI_TIMEOUT of core c: the limit of its WFI has passed. -/
def execWfiTimeout (c : Nat) (s : State) : Host.Outcome State Fault Refusal :=
  match (s.core c).wait with
  | some (.deadline u) => event s (decide (u ≤ s.clk)) (s.updCore c fun k => { k with wait := some .expired })
  | _ => event s false s

/-! ## MFC -/

/-- The registers whose MFC in a compute routine traps with DETERMINISM (R138, R316). -/
def mfcBarred (n : Nat) : Bool := [0x002, 0x004, 0x005, 0x012, 0x014, 0x0D0].contains n

/-- The launch core that the even core of a pair has or would have. -/
def evenIndex (s : State) (c : Nat) : Nat :=
  match (s.core c).occ, (s.core c).launchOf s with
  | some o, some l => l.indexOf (8 * logFold s o.part (foldOf c) + c % 8 / 2 * 2)
  | _, _ => 0

/-- What MFC reads (R137): in a pair that runs on the odd core, the even core's value of the registers of R136 (R138). -/
def mfcValue (s : State) (n : Nat) : Word :=
  if s.me.yoke.isSome then
    match n with
    | 0x000 => BitVec.ofNat 64 (evenIndex s s.cur)
    | 0x001 => BitVec.ofNat 64 (evenIndex s s.cur / 8)
    | _ => readCtl s s.cur n
  else readCtl s s.cur n

/-- TSHn as MFC reads it (R213): 0 on a fold without an owner. -/
def mfcTsh (s : State) (n : Nat) : Res Word := do
  ownPart s.me [n] []
  match (s.fold (foldOf s.cur)).owner, s.me.occ with
  | some (p, _, t), some o =>
    if p = o.part ∧ t = s.me.ctl 0x040 then .ok (tshOf s n) else .error (trapC cMXCAP)
  | _, _ => .ok 0

/-- An outstanding vector load whose decoding raises flags (R187). -/
def Load.flagging (l : Load) : Bool :=
  match l.kind with
  | .vecf .. => true
  | _ => false

/-- FPC waits for the sequencer (R95, R195), and for an LDF whose flags are still to come (R187, R194). -/
def fpcWait (s : State) : Res Unit := need (s.me.seqr.isEmpty && !s.me.loads.any Load.flagging) .hold

/-- FPC cannot be named while a capture is open (R199), nor before it is whole. -/
def fpcFree (s : State) : Res Unit := do
  fpcWait s
  need (!s.me.capOpen) (trapC cILLEGAL)

/-- MFC (R137). -/
def execMfc (_ : Lit) (d : BitVec 5) (n : BitVec 12) (s : State) : Host.Outcome State Fault Refusal :=
  settle s (withRegs s [] [d.toNat] fun s' => do
    let n := n.toNat
    if n = 0x011 then fpcWait s else .ok ()
    need (ctlListed n) (trapC cILLEGAL)
    need (!(s.me.inCompute && mfcBarred n)) (trapC cDETERM)
    if n = 0x011 then fpcFree s else .ok ()
    if 0x060 ≤ n ∧ n ≤ 0x07F then do
      let v ← mfcTsh s (n - 0x060)
      setG s' d.toNat v
    else setG s' d.toNat (mfcValue s n))

/-! ## MTC -/

/-- The fields that MTC writes in control register n, as masks of its RW and W1C bits (R10, R135 and the owners' maps). The registers of
R135 marked PRIVILEGED have RO fields only, which a write in system mode leaves (R359). -/
def ctlMask (n : Nat) : Word × Word :=
  if ctlPrivileged n then (0, 0)
  else
    match n with
    | 0x020 => (0xFFFF000000000001, 0x80000000)
    | 0x026 => (0, 0x8000000000000000)
    | 0x083 => (0x11F, 0x200)
    | _ =>
      if (0x022 ≤ n ∧ n ≤ 0x025) ∨ (0x030 ≤ n ∧ n ≤ 0x037) then (0xFFFFFFFFFFFF, 0) else (ctlFields n, 0)

/-- A register's new value under its masks: RW bits written, W1C bits cleared where a 1 is written, all others kept. -/
def maskWrite (m : Word × Word) (old v : Word) : Word := ((old &&& ~~~m.1) ||| (v &&& m.1)) &&& ~~~(m.2 &&& v)

/-- A value of TSHn that names a shape (R214), or zero. -/
def tshOk (v : Word) : Bool :=
  let fc := tshFc v
  let v := v &&& 0xFFFFFF
  v == 0 || (decide (1 ≤ fc ∧ fc ≤ 17) && fcOk 0xFFFFFFFFFFFFFFFF fc (tshBl v) &&
    decide (tshCols v % (if fcBlock fc then 2 ^ tshBl v else if fcBits fc = 4 then 2 else if fcBits fc = 6 then 4 else 1) = 0 ∧
      tshRows v * tshRB v ≤ 4096 ∧ tshBlocks v ≤ 16))

/-- An accepted entry names tile t. -/
def MEntry.names (e : MEntry) (t : Nat) : Bool :=
  match e.op with
  | .mma _ => e.a == t || e.b == t
  | .mmaStreamed _ _ => e.a == t
  | .tzero => e.a == t
  | .tcopy => e.a == t || e.b == t
  | .ttrn => e.a == t || e.b == t
  | .tfwd _ => e.a == t
  | .arriving .. => e.a == t
  | .ttake => e.a == t || e.b == t
  | .tld _ _ => e.a == t
  | .tstr _ _ => e.a == t
  | _ => false

/-- MTC to TSHn (R213, R214, R235). -/
def mtcTsh (s s' : State) (t : Nat) (v : Word) : Res State := do
  let f := foldOf s.cur
  let s1 ← useEngine s'
  ownPart s.me [t] []
  need (tshOk v && !(s1.fold f).m.arrived.contains t) (trapC cILLEGAL)
  .ok (s1.updFold f fun x => { x with m := { x.m with tsh := mset 0 x.m.tsh t (v &&& 0xFFFFFF) } })

/-- What an MTC of v to register n waits for before it issues (R98): FPC as `fpcWait`; a queue that QMAP binds anew until it is empty (R263);
a TSH register until every accepted entry that names its tile has been performed (R214). -/
def mtcWait (s : State) (n : Nat) (v : Word) : Res Unit :=
  let k := s.me
  if n = 0x011 then fpcWait s
  else if n = 0x038 then need ((List.range 8).all fun q => fld v (4 * q + 3) (4 * q) == qmapEng k q || (k.queue q).entries.isEmpty) .hold
  else if 0x060 ≤ n ∧ n ≤ 0x07F then
    need (!(s.cores.any fun x => x.2.queues.any fun q => q.2.entries.any fun e => match e with
      | .matrix m => m.fold == foldOf s.cur && m.names (n - 0x060)
      | .copy _ => false)) .hold
  else .ok ()

/-- The registers that not even system mode writes (R359). -/
def mgmtBarred (n : Nat) : Bool := [0x000, 0x001, 0x002, 0x004, 0x005, 0x012].contains n

/-- What an MTC to register n checks before it reads its value (R137, R180, R359). -/
def mtcAccess (s : State) (n : Nat) : Res Unit := do
  need (ctlListed n) (trapC cILLEGAL)
  need (if isMgmt s.cur then !mgmtBarred n else !ctlPrivileged n) (trapC cPRIVILEGED)
  need (!(decide (n = 0x010) && s.me.inCompute)) (trapC cDETERM)

/-- The owners' checks of a value that MTC writes to register n. NBV takes a level that FACC accepts; a management core, which belongs to no
partition's negotiation, takes any (log 123). -/
def mtcCheck (s : State) (n : Nat) (v : Word) : Res Unit := do
  let k := s.me
  match n with
  | 0x010 => do
    let l := fld v 2 0
    need (decide (1 ≤ l ∧ l ≤ 4) && (isMgmt s.cur || (s.part (corePart s s.cur)).facc.getLsbD (7 + l))) (trapC cILLEGAL)
  | 0x011 => do
    fpcFree s
    need (decide (fld v 2 0 < 4)) (trapC cILLEGAL)
  | 0x021 => need (decide (fld v 1 0 ≠ 3)) (trapC cILLEGAL)
  | 0x038 => do
    need ((List.range 8).all fun q => decide (fld v (4 * q + 3) (4 * q) < 4)) (trapC cILLEGAL)
  | _ =>
    if (0x022 ≤ n ∧ n ≤ 0x025) ∨ (0x030 ≤ n ∧ n ≤ 0x037) then need (decide (fld (k.ctl n) 63 63 = 0)) (trapC cILLEGAL) else .ok ()

/-- MTC (R137, R359): bits outside the fields that it writes keep their values. -/
def execMtc (_ : Lit) (a : BitVec 5) (n : BitVec 12) (s : State) : Host.Outcome State Fault Refusal :=
  let n := n.toNat
  let v := gval s a.toNat
  let chk : Res Unit := do
    mtcWait s n v
    mtcAccess s n
  settle s (withChecked s [a.toNat] [] chk fun s' => do
    mtcCheck s n v
    if 0x060 ≤ n ∧ n ≤ 0x07F then mtcTsh s s' (n - 0x060) v
    else .ok (s'.updMe fun k => k.setCtl n (maskWrite (ctlMask n) (k.ctl n) v)))

end Sys2Proof.Machine
end

