-- ==== Sys2Proof/Machine/FrontEnd.lean ====
section
/-! DEFINITION. Feature negotiation (01 R31 to R34), launch queues (03 R64 to R66), the checks of a record (02 R50 to R60, 12 R299, R300)
and its acceptance (02 R42, R53, R420, 03 R67). -/

namespace Sys2Proof.Machine

/-! ## Negotiation -/

/-- A partition of the layout whose window the host can reach: the Steading has reached READY (R409). -/
def windowUp (s : State) (p : Nat) : Bool := s.powered && decide (fld s.boot 3 0 = 7 ∧ p < nparts s.layout)

/-- The features that a write of FACC leaves accepted (R32, R33): unoffered bits cleared first, then only the highest SUREV bit. -/
def faccValue (feat v : Word) : Word :=
  let w := v &&& feat &&& 0x000F7FFF
  let r := fld w 19 16
  let top := if 8 ≤ r then 8 else if 4 ≤ r then 4 else if 2 ≤ r then 2 else r
  putFld w 19 16 top

/-- A queue that stands in IDLE with a pending kick starts a read, once negotiation is done (R33, R66). -/
def Queue.start (x : Queue) (done : Bool) : Queue :=
  if done ∧ x.st = .idle ∧ x.kick then { x with st := .fetch, kick := false, first := true, count := 0 } else x

/-- Negotiation of a partition is done. -/
def Part.done (q : Part) : Bool := fld q.facc 63 63 == 1

/-- A negotiated revision brings a partition's ports up (R32, R400). -/
def bringPorts (s : State) (p : Nat) (facc : Word) : State :=
  let r := fld facc 19 16
  let rev := if r = 8 then 3 else if r = 4 then 2 else if r = 2 then 1 else 0
  if r = 0 then s
  else
    let up (m : SMap Word) (k : Nat) : SMap Word :=
      if s.down k then m
      else mset 0 m k (putFld (putFld (putFld (mget 0 m k) 63 56 (Config.peer k % 256)) 3 2 rev) 0 0 1)
    { s with ports := (partPorts s p).foldl up s.ports }

/-- FACC_WRITE of a value with DONE = 0 (R33). -/
def execFaccWrite (p : Nat) (v : Word) (s : State) : Host.Outcome State Fault Refusal :=
  event s (windowUp s p && fld v 63 63 == 0)
    (if (s.part p).done then s else s.updPart p fun q => { q with facc := faccValue s.nv.feat v })

/-- NEGOTIATION_DONE: a write of FACC with DONE = 1 (R33). The Steading keeps the training bit (R30), one for the device, of the latest
negotiation of any partition (log 108); the ports come up, and the front end
acts on held kicks. -/
def execNegotiationDone (p : Nat) (v : Word) (s : State) : Host.Outcome State Fault Refusal :=
  let w := faccValue s.nv.feat v
  let s1 := { s with nv := { s.nv with trainBit := fld w 5 5 == 1 } }
  let s2 := s1.updPart p fun q =>
    { q with facc := w ||| 0x8000000000000000, queues := q.queues.map fun x => (x.1, x.2.start true) }
  event s (windowUp s p && fld v 63 63 == 1) (if (s.part p).done then s else bringPorts s2 p w)

/-- FUNCTION_RESET (R32): FACC is writable again. -/
def execFunctionReset (p : Nat) (s : State) : Host.Outcome State Fault Refusal :=
  event s (windowUp s p) (s.updPart p fun q => { q with facc := putFld q.facc 63 63 0 })

/-! ## Queue control -/

/-- A partition's share of a table (R38, R64). -/
def share (s : State) (n : Nat) : Nat := n / nparts s.layout

def Part.queue (q : Part) (i : Nat) : Queue := mget Queue.reset q.queues i
def Part.setQueue (q : Part) (i : Nat) (x : Queue) : Part := { q with queues := mput q.queues i x }

/-- LOG2N of a queue. -/
def Queue.log (x : Queue) : Nat := fld x.cfg 4 0

/-- A host write to queue i of partition p. -/
def queueWrite (s : State) (p i : Nat) (f : Part → Queue → Queue) : Host.Outcome State Fault Refusal :=
  event s (windowUp s p && decide (i < share s 64))
    (s.updPart p fun q => q.setQueue i ((f q (q.queue i)).start q.done))

/-- QUEUE_ENABLE (R64). -/
def execQueueEnable (p q : Nat) (s : State) : Host.Outcome State Fault Refusal :=
  queueWrite s p q fun _ x =>
    if x.st = .disabled ∧ 1 ≤ x.log ∧ x.log ≤ 16 then { x with en := true, st := .idle } else x

/-- QUEUE_DISABLE (R64). -/
def execQueueDisable (p q : Nat) (s : State) : Host.Outcome State Fault Refusal :=
  queueWrite s p q fun _ x =>
    match x.st with
    | .disabled => x
    | .halted => { x with en := false }
    | _ => { x with en := false, st := .disabled }

/-- QUEUE_RESET (R64). -/
def execQueueReset (p q : Nat) (s : State) : Host.Outcome State Fault Refusal :=
  queueWrite s p q fun _ x => { x with en := false, kick := false, st := .disabled }

/-- QKICK (R66): a kick that arrives in DISABLED is not kept. -/
def execQkick (p q : Nat) (s : State) : Host.Outcome State Fault Refusal :=
  queueWrite s p q fun _ x => if x.st = .disabled then x else { x with kick := true }

/-! ## Reading -/

/-- The place of n bytes at a ring address (R65): the Common window or HBM, untranslated; none partly outside. -/
def ringKey (s : State) (p a n : Nat) : Option Nat :=
  if windowOf a = .common then
    if a - commonBase + n ≤ commonSize s p then some (commonKey s p (a - commonBase)) else none
  else if a + n ≤ hbmSize s p then some (hbmKey s p a) else none

/-- The address of record QSEQ (R65). -/
def Queue.recordAddr (x : Queue) : Nat := fld x.base 47 7 * 128 + 128 * (x.seq.toNat % 2 ^ x.log)

/-- Doublewords of a byte list. -/
def toDws (bs : List Byte) : List Word := (chunksOf 8 bs).map fun b => BitVec.ofNat 64 (leNat b)

/-- The record that the front end reads (R65): from the ring, or from the window slot in host-assisted mode; none where the ring cannot be
read. -/
def readRecord (s : State) (p i : Nat) : Option (List Word) :=
  let q := s.part p
  let x := q.queue i
  if fld q.facc 0 0 = 1 then
    (ringKey s p x.recordAddr 128).bind fun k => if s.bad k 128 then none else some (toDws (s.bytes k 128))
  else some (mget (List.replicate 16 0) q.slotsHA (16 * i + x.seq.toNat % 16))

/-- A record is complete (R51). -/
def sealed (x : Queue) (w : List Word) : Bool := decide (fld (dw w 15) 47 32 = 0xC5EA ∧ fld (dw w 15) 31 0 = x.seq.toNat)

/-- Bytes that the front end reads for a job (R60 code 0x07): none where a translation, a permission or an uncorrectable error strikes. -/
def feBytes (s : State) (p job a n : Nat) : Option (List Byte) :=
  (List.range n).mapM fun i => (agentKey s p job (a + i)).bind fun k => if s.bad k 1 then none else some (s.byte k)

/-- Entries of m bytes that the front end reads for a job, each on its own: one that cannot be read is none. -/
def feEntries (s : State) (p job a m n : Nat) : List (Option (List Byte)) := (List.range n).map fun i => feBytes s p job (a + m * i) m

/-- Doublewords that the front end reads for a job. -/
def feReads (s : State) (p job a n : Nat) : List (Option Word) := (feEntries s p job a 8 n).map fun x => x.map fun b => BitVec.ofNat 64 (leNat b)

/-- Halfword and word i of a list of doublewords. -/
def hw (ws : List Word) (i : Nat) : Nat := fld (dw ws (i / 4)) (16 * (i % 4) + 15) (16 * (i % 4))
def w32 (ws : List Word) (i : Nat) : Nat := fld (dw ws (i / 2)) (32 * (i % 2) + 31) (32 * (i % 2))

/-- Everything the front end reads of a launch: record, header, map, successors, patches, declarations, routine table and lists,
schedule. A header that cannot be read whole is none (log 103). Of the tables, the entries that can be read are kept, those of the schedule
in their places, so that a fault in one of them has its own code (R60); `whole`: everything could be read. -/
structure Tables where
  w : List Word
  h : Option (List Word)
  map : List Nat
  succ : List Nat
  patch : List Word
  decl : List (List Word)
  rout : List Word
  lists : List (List Word)
  sched : List (Option Word)
  whole : Bool

/-- Every entry of a table could be read. -/
def allRead {α : Type} (l : List (Option α)) : Bool := l.all Option.isSome

/-- MAGIC and HVER of a header are right (R56; code 0x01 of R60). -/
def headerOk (hd : List Word) : Bool := decide (fld (dw hd 0) 31 0 = 0x4B474D45 ∧ fld (dw hd 0) 39 32 = 4)

/-- Reads the tables that a record and its header name, each up to its limit of entries; one with another MAGIC or HVER names none, as its
code is 0x01 whatever they hold. -/
def readTables (s : State) (p : Nat) (w : List Word) : Tables :=
  let job := fld (dw w 2) 55 44
  let khdr := fld (dw w 0) 47 0
  let h := if khdr % 64 = 0 then (feReads s p job khdr 16).mapM id else some []
  let hd := (h.filter headerOk).getD []
  let map := if fld (dw w 6) 47 0 = 0 then [] else feEntries s p job (fld (dw w 6) 47 0) 2 (8 * fld (dw w 5) 25 16)
  let succ := feEntries s p job (fld (dw w 3) 47 0) 4 (min 1024 (fld (dw w 3) 63 48))
  let patch := feReads s p job (fld (dw hd 4) 47 0) (min 64 (fld (dw hd 4) 55 48))
  let decl := feEntries s p job (fld (dw hd 5) 47 0) 32 (min 32 (fld (dw hd 5) 55 48))
  let rout := feReads s p job (fld (dw hd 6) 47 0) (fld (dw hd 6) 63 48)
  let lists := (rout.filterMap id).map fun r => feReads s p job (fld r 47 0) (fld r 63 48)
  let sched := feReads s p job (fld (dw hd 7) 47 0) (fld (dw hd 7) 63 48)
  { w := w, h := h, map := (map.filterMap id).map leNat, succ := (succ.filterMap id).map leNat, patch := patch.filterMap id
    decl := (decl.filterMap id).map toDws, rout := rout.filterMap id, lists := lists.map fun l => l.filterMap id, sched := sched
    whole := h.isSome && allRead map && allRead succ && allRead patch && allRead decl && allRead rout && lists.all allRead && allRead sched }

/-- Doubleword i of the schedule could be read. -/
def Tables.has (t : Tables) (i : Nat) : Bool := ((t.sched[i]?).bind id).isSome

/-- The schedule's doublewords, zero where one could not be read. -/
def Tables.schedule (t : Tables) : List Word := t.sched.map fun x => x.getD 0

/-- The superstep records up to i could be read, and the count that places them: what lies behind record i is known. -/
def Tables.placed (t : Tables) (i : Nat) : Bool :=
  t.has 0 && (List.range (i + 1)).all fun j => t.has (1 + schedNdom t.schedule + j)

/-- The barrier domains of the schedule that could be read. -/
def Tables.domains (t : Tables) : List Word :=
  if t.has 0 then ((t.sched.drop 1).take (schedNdom t.schedule)).filterMap id else []

/-- The transfer entries of superstep i that could be read, where their places are known. -/
def Tables.entries (t : Tables) (nss i : Nat) : List SchedEntry :=
  if t.placed i then
    let f := schedFirst t.schedule nss i
    ((schedEntries t.schedule nss i).zipIdx.filter fun x => t.has (f + 2 * x.2) && t.has (f + 2 * x.2 + 1)).map (·.1)
  else []

/-- The declaration entries of a table (R58). -/
def declsOf (ds : List (List Word)) : List Decl :=
  ds.map fun d =>
    { kind := fld (dw d 0) 3 0, idx := fld (dw d 0) 7 4, loff := fld (dw d 0) 63 32, srca := fld (dw d 1) 47 0,
      nslot := fld (dw d 2) 31 16, ssize := fld (dw d 2) 15 0 }

/-! ## The cases of R60 -/

/-- Any of some bit ranges is not zero. -/
def dirty (w : Word) (rs : List (Nat × Nat)) : Bool := rs.any fun r => fld w r.1 r.2 != 0

/-- Code 0x02: reserved fields of the record, header, patches, declarations, map, and, where the header has DET, of the routine lists and the
schedule (R56, R60, R300). -/
def badReserved (t : Tables) : Bool :=
  let w := dw t.w
  let hd := t.h.getD []
  let h := dw hd
  let det := fld (h 0) 44 44 == 1
  let x := if det && t.has 0 then t.schedule else []
  let nd := schedNdom x
  let nss := fld (h 9) 31 16
  dirty (w 0) [(63, 48)] || dirty (w 1) [(63, 61)] || dirty (w 2) [(63, 56)] || dirty (w 4) [(15, 8)] || dirty (w 5) [(31, 26), (15, 10)] ||
  dirty (w 6) [(63, 48)] || dirty (w 7) [(63, 48)] || dirty (w 8) [(63, 32)] || dirty (w 9) [(63, 16)] || dirty (w 10) [(63, 48)] ||
  dirty (w 11) [(63, 56)] || (span 12 3).any (fun i => w i != 0) || dirty (w 15) [(63, 48)] ||
  dirty (h 0) [(63, 47)] || dirty (h 1) [(63, 48)] || dirty (h 4) [(63, 56)] || dirty (h 5) [(63, 56)] || dirty (h 8) [(63, 57)] ||
  dirty (h 9) [(63, 32)] || (span 10 6).any (fun i => h i != 0) ||
  t.map.any (fun m => decide (8192 ≤ m)) ||
  t.patch.any (fun v => dirty v [(63, 44)]) ||
  t.decl.any (fun ws =>
    let d := dw ws
    let k := fld (d 0) 3 0
    dirty (d 0) [(31, 8)] || k == 0 || decide (4 ≤ k) || dirty (d 1) [(63, 48)] || dirty (d 2) [(63, 32)] || d 3 != 0 ||
      (k == 3 && dirty (d 0) [(63, 32)])) ||
  (det && t.lists.any (fun l => l.any fun v => dirty v [(63, 49)])) ||
  (!x.isEmpty && (dirty (dw x 0) [(63, 16)] ||
    t.domains.any (fun d => dirty d [(31, 26), (63, 42)]) ||
    (List.range ((x.length - (1 + nd + nss)) / 2)).any fun i =>
      dirty (dw x (1 + nd + nss + 2 * i)) [(31, 29), (47, 45), (63, 52)] || dirty (dw x (1 + nd + nss + 2 * i + 1)) [(23, 18), (63, 29)]))

/-- The effective numeric behaviour version (R54). A header that cannot be read names none: then it is 4 where the record names none, and a
feature that 4 lacks is reported ahead of the header's own code (log 103). -/
def nbvOf (t : Tables) : Nat :=
  let a := fld (dw t.w 4) 7 4
  let b := fld (dw (t.h.getD []) 0) 43 40
  if a ≠ 0 then a else if b ≠ 0 then b else 4

/-- Code 0x03: features not accepted (R34). -/
def badFeature (facc : Word) (t : Tables) : Bool :=
  let h0 := dw (t.h.getD []) 0
  let v := nbvOf t
  ((fld (dw t.w 4) 0 0 == 1 || fld h0 44 44 == 1) && fld facc 6 6 == 0) ||
  (decide (1 ≤ v ∧ v ≤ 4) && !facc.getLsbD (7 + v)) ||
  (fld h0 45 45 == 1 && fld facc 12 12 == 0) || (fld h0 46 46 == 1 && fld facc 13 13 == 0)

/-- The supersteps of a list of routines keep the order of R59. -/
def routineOrder : List Word → Bool
  | a :: b :: l =>
    (decide (routSs a < routSs b) || (routSs a == routSs b && (!routX a || routX b))) && routineOrder (b :: l)
  | _ => true

/-- Code 0x04: fields out of range (R50, R53, R56 to R59, R299, R300, R38). -/
def badRange (s : State) (p : Nat) (t : Tables) : Bool :=
  let w := dw t.w
  let hd := t.h.getD []
  let h := dw hd
  let fcount := fld (w 5) 25 16
  let plen := fld (w 1) 60 48
  let csize := fld (h 2) 31 0
  let lmem := fld (h 3) 31 0
  let stack := fld (h 3) 63 32
  let nss := fld (h 9) 31 16
  let det := fld (h 0) 44 44 == 1
  let ph := fld (w 2) 43 32
  let g := fld (w 2) 31 18
  let nodes := share s 262144
  let x := t.schedule
  let nent := (List.range nss).foldl (fun a i => a + fld (schedRec x i) 63 32) 0
  let top := lmem - stack
  decide (4096 < plen) || fcount == 0 || decide (768 < fcount) || decide (nFolds s p < fld (w 5) 9 0 + fcount) ||
  decide (1024 < fld (w 3) 63 48) || decide (32767 < fld (w 4) 31 16) || decide (4 < fld (w 4) 7 4) ||
  decide (share s 4096 ≤ fld (w 2) 55 44) || (ph != 0xFFF && decide (share s 4096 ≤ ph)) ||
  (g != 0x3FFF && decide (share s 16384 ≤ g)) || decide (nodes ≤ fld (w 2) 17 0) ||
  t.succ.any (fun n => decide (nodes ≤ n)) ||
  (!hd.isEmpty && (
    decide (4 < fld (h 0) 43 40) || decide (plen < fld (h 9) 15 0) || decide (64 < fld (h 4) 55 48) || decide (32 < fld (h 5) 55 48) ||
    decide (256 < fld (h 8) 56 48) || decide (csize % 8 ≠ 0 ∨ csize < 8 ∨ fld (h 2) 63 32 % 8 ≠ 0 ∨ csize ≤ fld (h 2) 63 32) ||
    decide (stack % 16 ≠ 0 ∨ lmem < stack ∨ lmem % 64 ≠ 0 ∨ 262144 < lmem) || decide ((nss = 0) = (det = true)) ||
    t.patch.any (fun v => decide (plen ≤ fld v 43 32 ∨ csize / 8 ≤ fld v 31 0)) ||
    (declsOf t.decl).any (fun d =>
      (d.kind != 3 && decide (d.loff % 64 ≠ 0 ∨ top ≤ d.loff)) || (d.kind == 1 && decide (8 ≤ d.idx)) ||
      (d.kind == 3 && decide (4 ≤ d.idx)) || (d.kind == 2 && d.srca != 0) ||
      (if d.kind = 2 then !([2, 4, 8, 16, 32, 64, 128, 256, 512, 1024].contains d.nslot) || d.ssize % 64 != 0 || d.ssize == 0
       else d.nslot != 0 || d.ssize != 0)) ||
    (det && t.rout.any (fun r => fld r 63 48 == 0)) ||
    (det && t.lists.any (fun l => !routineOrder l ||
      l.any fun v => decide (nss ≤ routSs v ∨ routOff v % 8 ≠ 0 ∨ csize ≤ routOff v))) ||
    (det && ((t.has 0 && decide (255 < schedNdom x)) ||
      (t.placed (nss - 1) && x.length != 1 + schedNdom x + nss + 2 * nent) ||
      t.domains.any (fun d =>
        fld d 15 0 == 0 || decide (fld d 41 32 = 0 ∨ 768 < fld d 41 32 ∨ fcount < fld d 25 16 + fld d 41 32)) ||
      (List.range nss).any fun i => (t.entries nss i).any fun e =>
        decide (fld (schedRec x i) 15 0 ≤ e.slot ∨ 8 * fcount ≤ e.src ∨ 8 * fcount ≤ e.dst ∨ e.doff % 64 ≠ 0 ∨
          top < e.doff + 64 * e.nline)))))

/-- Two different entries of a list are in a relation. -/
def anyPair {α : Type} (r : α → α → Bool) : List α → Bool
  | [] => false
  | a :: l => l.any (r a) || anyPair r l

/-- The region that a declaration occupies (R58). -/
def Decl.region (d : Decl) : Option (Nat × Nat) :=
  match d.kind with
  | 1 => some (d.loff, 64)
  | 2 => some (d.loff, 64 + d.nslot * d.ssize)
  | _ => none

/-- A completion block as the window shows it (R40): its low and its high doubleword. -/
def Block.words (b : Block) : Word × Word :=
  let bit (x : Bool) (n : Nat) : Nat := if x then 2 ^ n else 0
  (BitVec.ofNat 64 (b.out % 2 ^ 32 + bit b.closed 32 + bit b.done 33 + bit b.canc 34 + bit (b.errcnt != 0) 35 + b.status % 2 ^ 8 * 2 ^ 36),
   BitVec.ofNat 64 (b.errcnt % 2 ^ 32))

/-- A block above the launches is open (R42): a cancelled one until its last member has been accepted as cancelled. -/
def Block.isOpen (b : Block) : Bool := b.opened && (!b.done || (b.canc && !b.closed))

/-- Code 0x05: inconsistencies (R50, R52, R54, R56, R58, R60, R300). -/
def badConsistency (s : State) (p : Nat) (t : Tables) : Bool :=
  let q := s.part p
  let w := dw t.w
  let hd := t.h.getD []
  let h := dw hd
  let det := fld (w 4) 0 0 == 1
  let units := fld (w 5) 63 32
  let fcount := fld (w 5) 25 16
  let lo := 8 * fld (w 5) 9 0
  let job := fld (w 2) 55 44
  let ph := fld (w 2) 43 32
  let g := fld (w 2) 31 18
  let map := t.map
  let gb := q.blk .graph g
  let pb := q.blk .phase ph
  let ds := declsOf t.decl
  let hdet := fld (h 0) 44 44 == 1
  let nss := fld (h 9) 31 16
  (if det then units != 0 || fld (w 7) 47 0 != 0 || fld (w 8) 31 0 != 0 || fld (w 4) 1 1 == 1
   else units == 0 || decide (fld (w 8) 31 0 < units)) ||
  (fld (w 4) 63 32 != 0 && fld (w 4) 1 1 == 0) ||
  map.any (fun m => decide (m % 8192 < lo ∨ lo + 8 * fcount ≤ m % 8192)) || !(map.map (· % 8192)).Nodup ||
  (g == 0x3FFF && (fld (w 2) 17 0 != 0 || fld (w 3) 63 48 != 0 || fld (w 4) 31 16 != 0 || fld (w 4) 2 2 == 1)) ||
  (ph == 0xFFF && fld (w 4) 3 3 == 1) ||
  (g != 0x3FFF && gb.isOpen && (gb.job != job || mget 0xFFF q.graphPhase g != ph)) ||
  (ph != 0xFFF && pb.isOpen && pb.job != job) ||
  (mget Job.reset q.jobs job).weight == 0 ||
  (!hd.isEmpty && (
    det != hdet || (hdet && fld (h 6) 63 48 != 8 * fcount) || (!hdet && (h 6 != 0 || h 7 != 0)) ||
    (fld (w 4) 7 4 != 0 && fld (h 0) 43 40 != 0 && fld (w 4) 7 4 != fld (h 0) 43 40) ||
    anyPair (fun (a b : Decl) => a.kind == b.kind && a.idx == b.idx) ds ||
    anyPair (fun (a b : Nat × Nat) => decide (a.1 < b.1 + b.2 ∧ b.1 < a.1 + a.2)) (ds.filterMap (·.region)) ||
    (hdet && (!(t.domains.map fun d => fld d 15 0).Nodup || (List.range nss).any fun i =>
      let es := t.entries nss i
      anyPair (fun (a b : SchedEntry) => decide (b.slot < a.slot) || (a.src == b.src && a.slot == b.slot) ||
        (a.dst == b.dst && (a.slot == b.slot || decide (a.doff < b.doff + 64 * b.nline ∧ b.doff < a.doff + 64 * a.nline)))) es))))

/-- Code 0x06: alignment (R60). -/
def badAlign (t : Tables) : Bool :=
  let w := dw t.w
  let hd := t.h.getD []
  let h := fun i => fld (dw hd i) 47 0
  decide (fld (w 0) 47 0 % 64 ≠ 0 ∨ fld (w 1) 47 0 % 8 ≠ 0 ∨ fld (w 7) 47 0 % 64 ≠ 0 ∨ fld (w 3) 47 0 % 4 ≠ 0 ∨
    fld (w 10) 47 0 % 8 ≠ 0 ∨ h 1 % 64 ≠ 0 ∨ h 5 % 32 ≠ 0 ∨ h 4 % 8 ≠ 0 ∨ h 6 % 8 ≠ 0 ∨ h 7 % 8 ≠ 0 ∨ h 8 % 16 ≠ 0)

/-- Code 0x07: what could not be read (R60). -/
def badRead (t : Tables) : Bool := !t.whole

/-- The lowest code of R60 that a complete record falls under. -/
def recordCode (s : State) (p : Nat) (t : Tables) : Option Nat :=
  let hd := t.h.getD []
  if !hd.isEmpty && !headerOk hd then some 1
  else if badReserved t then some 2
  else if badFeature (s.part p).facc t then some 3
  else if badRange s p t then some 4
  else if badConsistency s p t then some 5
  else if badAlign t then some 6
  else if badRead t then some 7
  else none

/-! ## Acceptance -/

/-- A launch block is free (R38): never taken, or its launch has set DONE and its NOTE is made, failed, or absent. -/
def blockFree (q : Part) (b : Nat) : Bool :=
  match mfind q.launches b with
  | none => true
  | some l => decide (l.stage = .noted ∨ (l.stage = .done ∧ l.note = 0))

/-- The launch block that the front end takes next (R38). -/
def nextBlock (s : State) (q : Part) : Option Nat :=
  let n := share s 16384
  ((List.range n).find? fun i => blockFree q ((q.lbNext + i) % n)).map fun i => (q.lbNext + i) % n

/-- In host-assisted mode the record home position still holds a launch that has not set DONE (R65). -/
def homeHeld (q : Part) (a : Nat) : Bool :=
  fld q.facc 0 0 == 0 && q.launches.any fun x => x.2.rcd == a && !(q.blk .launch x.1).done

/-- The launch that a record describes. -/
def launchOf (t : Tables) (rcd accept tag : Nat) (stage : LStage) : Launch :=
  let w := dw t.w
  let hd := t.h.getD []
  let h := dw hd
  { rcd := rcd, record := t.w, plen := fld (w 1) 60 48, param := fld (w 1) 47 0, job := fld (w 2) 55 44, phase := fld (w 2) 43 32,
    graph := fld (w 2) 31 18, node := fld (w 2) 17 0, succ := t.succ, wdog := fld (w 4) 63 32, pers := fld (w 4) 1 1 == 1,
    det := fld (w 4) 0 0 == 1, nbv := nbvOf t, units := fld (w 5) 63 32, fcount := fld (w 5) 25 16, fbase := fld (w 5) 9 0,
    map := t.map, arena := fld (w 7) 47 0, anum := fld (w 8) 31 0, bdom := fld (w 9) 15 0, note := fld (w 10) 47 0,
    nval := BitVec.ofNat 64 (fld (w 11) 55 0), code := fld (h 1) 47 0, entry := fld (h 1) 47 0 + fld (h 2) 63 32, csize := fld (h 2) 31 0,
    stack := fld (h 3) 63 32, lmem := fld (h 3) 31 0, patches := t.patch.map fun v => (fld v 43 32, fld v 31 0),
    decls := declsOf t.decl, routines := t.lists, sched := t.schedule, nmacro := fld (h 8) 56 48,
    mstore := fld (h 8) 47 0, nss := fld (h 9) 31 16, stage := stage, queued := false, accept := accept, tag := tag, setup := [], homes := [],
    live := (List.range (fld (w 5) 63 32)).map fun i => fld (w 7) 47 0 + 64 * i, starved := [], joins := [], recvs := [] }

/-- A block opens for a job (R42). -/
def Block.openFor (job : Nat) : Block := { Block.reset with job := job, opened := true }

/-- The graph, phase and job blocks see a record accepted (R42). -/
def joinLevels (q : Part) (l : Launch) (glast plast : Bool) : Part :=
  let j := q.blk .job l.job
  let q := if j.opened then q else q.setBlk .job l.job (Block.openFor l.job)
  let pb := q.blk .phase l.phase
  let q := if l.phase ≠ 0xFFF ∧ (!pb.opened ∨ pb.done) then
      let q := q.setBlk .phase l.phase (Block.openFor l.job)
      let j := q.blk .job l.job
      q.setBlk .job l.job { j with out := j.out + 1 }
    else q
  let phaseIn (q : Part) : Part :=
    if l.phase = 0xFFF then q
    else let b := q.blk .phase l.phase; q.setBlk .phase l.phase { b with out := b.out + 1 }
  let q :=
    if l.graph = 0x3FFF then phaseIn q
    else
      let gb := q.blk .graph l.graph
      let q := if !gb.opened ∨ gb.done then
          { phaseIn (q.setBlk .graph l.graph (Block.openFor l.job)) with
            graphPhase := mput q.graphPhase l.graph l.phase
            deadNodes := q.deadNodes.filter (·.1 != l.graph), endedNodes := q.endedNodes.filter (·.1 != l.graph) }
        else q
      let gb := q.blk .graph l.graph
      q.setBlk .graph l.graph { gb with out := gb.out + 1, closed := gb.closed || glast }
  if plast then let b := q.blk .phase l.phase; q.setBlk .phase l.phase { b with closed := true } else q

/-- A record is accepted as cancelled (R420). -/
def asCancelled (q : Part) (l : Launch) : Bool :=
  (q.blk .job l.job).canc ||
  (l.graph != 0x3FFF && (q.blk .graph l.graph).canc && !(q.blk .graph l.graph).closed) ||
  (l.phase != 0xFFF && (q.blk .phase l.phase).canc && !(q.blk .phase l.phase).closed)

/-- Jobs that become active take the least SVC of their priority (R71). -/
def touchSvc (q : Part) : Part :=
  let busy (j : Nat) : Bool := q.launches.any fun x => x.2.job == j && decide (x.2.stage = .ready ∨ x.2.stage = .placed ∨ x.2.stage = .preempted)
  let least (j : Nat) (v : Job) : Nat :=
    ((q.jobs.filter fun x => x.1 != j && x.2.active && x.2.prio == v.prio && busy x.1).foldl (fun (m : Option Nat) x =>
      match m with
      | none => some x.2.svc
      | some y => some (min y x.2.svc)) none).getD v.svc
  { q with jobs := q.jobs.map fun x =>
      if busy x.1 then (if x.2.active then x else (x.1, { x.2 with active := true, svc := max x.2.svc (least x.1 x.2) }))
      else (x.1, { x.2 with active := false }) }

/-- The initial continuation records (R67). -/
def initialRecord (l : Launch) (i : Nat) : List Word :=
  [BitVec.ofNat 64 ((l.fbase + i % l.fcount) * 2 ^ 54 + 2 ^ 53 + 2 ^ 48 + l.entry % 2 ^ 48 / 8 * 8), 0, BitVec.ofNat 64 i,
   BitVec.ofNat 64 l.units, 0, 0, 0, 0]

/-- The ring home of an accepted host-assisted record receives its copy (R65). -/
def copyHome (s : State) (p i : Nat) (w : List Word) : State :=
  match ringKey s p ((s.part p).queue i).recordAddr 128 with
  | some k => s.setBytes k (w.flatMap fun v => leBytes 8 v.toNat)
  | none => s

/-- GLAST or PLAST of a record accepted as cancelled closes the block that it names (R420), which completes where no member is left (R42). One
that was never opened has no completion to make (log 109). -/
def closeLevel (q : Part) (k : BKind) (i : Nat) : Part :=
  let shut (b : Block) : Block := { b with closed := true }
  if !(q.blk k i).opened then q.setBlk k i (shut (q.blk k i))
  else if k = .graph then graphStep q i shut else phaseStep q i shut

/-- Acceptance of the record of queue i into launch block b (R67, R420). A launch block that is taken again holds no stage or triple of the
launch before (R319). -/
def acceptRecord (s : State) (p i b : Nat) (t : Tables) : State :=
  let s := if fld (s.part p).facc 0 0 = 0 then copyHome s p i t.w else s
  let old (x : Nat × Fold) : Nat × Fold :=
    let here := partOfFold s x.1 == p
    (x.1, { x.2 with icache := x.2.icache.filter (fun y => !(y.part == p && y.blk == b)),
                     macros := x.2.macros.filter (fun y => !(y.2.part == p && y.2.blk == b)),
                     staged := x.2.staged.filter (fun y => !(here && y.blk == b)),
                     triples := x.2.triples.filter fun y => !(here && y.1 == b) })
  let s := { s with folds := s.folds.map old }
  let q := s.part p
  let x := q.queue i
  let l := launchOf t x.recordAddr q.accepts q.tags .waiting
  let glast := fld (dw t.w 4) 2 2 == 1
  let plast := fld (dw t.w 4) 3 3 == 1
  let n := share s 16384
  let q := { touchSvc q with
    lbNext := (b + 1) % n, accepts := q.accepts + 1, tags := q.tags + 1, owners := mput q.owners b x.recordAddr, errs := mdel q.errs b }
  let q := q.setQueue i { x with st := .fetch, first := false, seq := x.seq + 1 }
  if asCancelled q l then
    let q := launchFails q l
    let q := if l.graph ≠ 0x3FFF ∧ glast then closeLevel q .graph l.graph else q
    let q := if l.phase ≠ 0xFFF ∧ plast then closeLevel q .phase l.phase else q
    let q := q.setBlk .launch b { Block.reset with closed := true, done := true, canc := true, status := 7, job := l.job, opened := true }
    s.setPart p { q with
      launches := mput q.launches b { l with stage := .done, live := [] }
      deadNodes := q.deadNodes.filter (· != (l.graph, l.node)) }
  else
    let q := joinLevels q l glast plast
    let q := { q with endedNodes := q.endedNodes.filter (· != (l.graph, l.node)) }
    let out := if l.det then 8 * l.fcount else l.units
    let q := q.setBlk .launch b { Block.reset with out := out, closed := true, job := l.job, opened := true }
    let q := if l.graph = 0x3FFF then q
      else { q with nodeJob := mput q.nodeJob l.node l.job, nodes := mset 0 q.nodes l.node (Int.bmod (mget 0 q.nodes l.node + (fld (dw t.w 4) 31 16 : Nat)) 65536) }
    let q := { q with launches := mput q.launches b { l with stage := if l.graph = 0x3FFF then .ready else .waiting } }
    let q := touchSvc (if l.graph = 0x3FFF then q else nodeReady q l.node)
    let s := s.setPart p q
    let s := (List.range l.units).foldl (fun s j =>
      (initialRecord l j).zipIdx.foldl (fun s v => agentWrite s p l.job (l.arena + 64 * j + 8 * v.2) v.1) s) s
    sweepDead p q.launches.length (releaseReady s p)

/-- Queue i of partition p halts (R66). -/
def haltQueue (s : State) (p i code : Nat) : State :=
  s.updPart p fun q => let x := q.queue i; q.setQueue i { x with st := .halted, code := code, hseq := x.seq }

/-- The front end's decision on a complete record (R66, R60, R65). -/
def decideRecord (s : State) (p i : Nat) (w : List Word) : State :=
  let q := s.part p
  let x := q.queue i
  let t := readTables s p w
  match recordCode s p t with
  | some c => haltQueue s p i c
  | none =>
    match nextBlock s q with
    | none => s.setPart p (q.setQueue i { x with st := .blocked })
    | some b =>
      if homeHeld q x.recordAddr then s.setPart p (q.setQueue i { x with st := .blocked })
      else if fld q.facc 0 0 = 0 ∧ (ringKey s p x.recordAddr 128).isNone then haltQueue s p i 7
      else acceptRecord s p i b t

/-- The job of a record is stopped (R415): the front end does not accept it. -/
def jobStopped (q : Part) (w : List Word) : Bool := (mget Job.reset q.jobs (fld (dw w 2) 55 44)).stopped

/-- A completed read of record QSEQ (R66): `miss` is what an incomplete seal leads to. -/
def finishRead (s : State) (p i : Nat) (miss : Queue → Queue) : State :=
  let q := s.part p
  match readRecord s p i with
  | none => haltQueue s p i 7
  | some w =>
    if sealed (q.queue i) w then decideRecord s p i w
    else s.setPart p (q.setQueue i ((miss (q.queue i)).start q.done))

/-- A read of queue i finds the record of a stopped job, which waits (R415). -/
def readWaits (s : State) (p i : Nat) : Bool :=
  match readRecord s p i with
  | some w => sealed ((s.part p).queue i) w && jobStopped (s.part p) w
  | none => false

/-- The queue whose read the front end makes next (R66): the first at or after the turn, in increasing number, that is in FETCH, or in
RETRY with its wait over. It reads none while negotiation is not done (R33). -/
def queueTurn (s : State) (p : Nat) : Option Nat :=
  let q := s.part p
  let due (x : Nat × Queue) : Bool :=
    (decide (x.2.st = .fetch) || decide (x.2.st = .retry ∧ x.2.waitEnd ≤ s.clk)) && !readWaits s p x.1
  let is := (q.queues.filter due).map (·.1)
  if !q.done then none else (is.find? fun i => decide (q.qturn ≤ i)).orElse fun _ => is.head?

/-- Queue i has been served: the turn goes to the queues after it (R66). -/
def served (p i : Nat) (s : State) : State := s.updPart p fun q => { q with qturn := i + 1 }

/-- RECORD_READ (R66). -/
def execRecordRead (p q : Nat) (s : State) : Host.Outcome State Fault Refusal :=
  event s (decide (queueTurn s p = some q) && decide (((s.part p).queue q).st = .fetch))
    (served p q (finishRead s p q fun x =>
      if x.first then { x with st := .retry, count := 1, waitEnd := s.clk + 256 } else { x with st := .idle }))

/-- RETRY_WAIT_END (R66). -/
def execRetryWaitEnd (p q : Nat) (s : State) : Host.Outcome State Fault Refusal :=
  let x := (s.part p).queue q
  event s (decide (queueTurn s p = some q) && decide (x.st = .retry))
    (served p q (finishRead s p q fun x =>
      if x.count < 4 then { x with count := x.count + 1, waitEnd := s.clk + 256 } else { x with st := .idle }))

/-- BLOCKED_REREAD (R66): a launch block and the record home position are free. -/
def execBlockedReread (p q : Nat) (s : State) : Host.Outcome State Fault Refusal :=
  let v := s.part p
  let x := v.queue q
  event s (v.done && decide (x.st = .blocked) && (nextBlock s v).isSome && !homeHeld v x.recordAddr)
    (s.setPart p (v.setQueue q { x with st := .fetch, first := false }))

/-- A job's page tables have a new root: no core of the partition keeps a walk of the old ones (R61, R247). -/
def newRoot (s : State) (p j root : Nat) : State :=
  let keep (x : Nat × Core) : Nat × Core :=
    if partOfFold s (foldOf x.1) = p then (x.1, { x.2 with tlb := x.2.tlb.filter (·.job != j) }) else x
  let s := { s with cores := s.cores.map keep }
  s.updPart p fun q => { q with jobs := mupd Job.reset q.jobs j fun v => { v with ptroot := root, heldRoot := none } }

/-- PTROOT_APPLY (R61): no launch of the job is placed. -/
def execPtrootApply (p j : Nat) (s : State) : Host.Outcome State Fault Refusal :=
  let q := s.part p
  let v := mget Job.reset q.jobs j
  match v.heldRoot with
  | some r =>
    event s (!(q.launches.any fun x => x.2.job == j && decide (x.2.stage = .placed)))
      (newRoot s p j r)
  | none => event s false s

end Sys2Proof.Machine
end

