-- ==== Sys2Proof/Machine/Sched.lean ====
section
/-! DEFINITION. The scheduler (03 R69 to R79, 02 R43, R55): host cancels, job removal, service counts, the placement of units and gangs, NOTE
writes, and the watchdog (R81, 15 R374). -/

namespace Sys2Proof.Machine

/-! ## Host cancels and removal -/

/-- HCANCEL (R69). -/
def execHcancel (p : Nat) (h : Word) (s : State) : Host.Outcome State Fault Refusal :=
  let r := cancelLevel s p (levelOf s p none h)
  event s (windowUp s p)
    (if (s.part p).hcres = 1 then s else r.2.updPart p fun q => { q with hcres := r.1 })

/-- HJOBRM (R70): WEIGHT becomes 0 and every open level of the job is cancelled. -/
def execHjobrm (p : Nat) (v : Word) (s : State) : Host.Outcome State Fault Refusal :=
  let j := fld v 11 0
  let s' :=
    if (s.part p).hjres = 1 then s
    else if share s 4096 ≤ j then s.updPart p fun q => { q with hjres := 3 }
    else
      let s1 := s.updPart p fun q =>
        { q with hjres := 1, hjob := j, jobs := mupd Job.reset q.jobs j fun x => { x with weight := 0 } }
      cancelAbove s1 p .job j 0x02
  event s (windowUp s p) s'

/-- Cores that hold a unit or routine of a job, a suspended unit of a persistent launch included (R71, R79). -/
def jobCores (s : State) (p j : Nat) : List Nat :=
  let ofJob (b : Nat) : Bool := ((s.launch p b).map (·.job)) == some j
  (s.cores.filter fun x => match x.2.occ with
    | some o => o.part == p && ofJob o.blk
    | none => partOfFold s (foldOf x.1) == p && (persistentOn s x.1).any fun h => ofJob h.1).map (·.1)

/-- Everything of job j leaves the scheduler's tables (R70 step 3). -/
def clearJob (q : Part) (j : Nat) : Part :=
  let graphs := (q.graphBlks.filter fun x => x.2.opened && x.2.job == j).map (·.1)
  let mine := (q.nodeJob.filter fun x => x.2 == j).map (·.1)
  let blks := (q.launches.filter fun x => x.2.job == j).map (·.1)
  { q with
    jobs := mdel q.jobs j, jobBlks := mdel q.jobBlks j
    graphBlks := q.graphBlks.filter fun x => !(x.2.opened && x.2.job == j)
    phaseBlks := q.phaseBlks.filter fun x => !(x.2.opened && x.2.job == j)
    graphPhase := q.graphPhase.filter fun x => !graphs.contains x.1
    nodes := q.nodes.filter fun x => !mine.contains x.1
    nodeJob := q.nodeJob.filter fun x => x.2 != j
    deadNodes := q.deadNodes.filter fun n => !graphs.contains n.1
    endedNodes := q.endedNodes.filter fun n => !graphs.contains n.1
    errs := q.errs.filter fun x => !blks.contains x.1 }

/-- JOB_REMOVAL_COMPLETE (R70). -/
def execJobRemovalComplete (p : Nat) (s : State) : Host.Outcome State Fault Refusal :=
  let q := s.part p
  event s (decide (q.hjres = 1) && q.launches.all (fun x => x.2.job != q.hjob || (q.blk .launch x.1).done) &&
      (jobCores s p q.hjob).isEmpty)
    (s.setPart p { clearJob q q.hjob with hjres := 2 })

/-! ## Order among launches -/

/-- Folds that a job holds (R71). -/
def jobFolds (s : State) (p j : Nat) : List Nat :=
  (jobCores s p j).foldl (fun fs c => if fs.contains (foldOf c) then fs else foldOf c :: fs) []

/-- SVC_TICK (R71). -/
def execSvcTick (p : Nat) (s : State) : Host.Outcome State Fault Refusal :=
  let q := touchSvc (s.part p)
  let rise (x : Nat × Job) : Nat × Job :=
    let h := (jobFolds s p x.1).length
    let d := if x.2.weight = 0 then (if h = 0 then 0 else Config.svcRise h) else h * 65536 / x.2.weight
    (x.1, { x.2 with svc := min (2 ^ 48 - 1) (x.2.svc + d) })
  event s (decide (q.svcNext ≤ s.clk)) (s.setPart p { q with jobs := q.jobs.map rise, svcNext := q.svcNext + 1024 })

/-- Launch a comes before launch b (R72). -/
def ahead (q : Part) (a b : Launch) : Bool :=
  let x := mget Job.reset q.jobs a.job
  let y := mget Job.reset q.jobs b.job
  if x.prio ≠ y.prio then decide (y.prio < x.prio)
  else if x.svc ≠ y.svc then decide (x.svc < y.svc)
  else if a.job ≠ b.job then decide (a.job < b.job)
  else decide (a.accept < b.accept)

/-- A job's QUOTA lets a launch have some folds at once (R72, R61). -/
def quotaFits (s : State) (p : Nat) (l : Launch) (fs : List Nat) : Bool :=
  let n := (mget Job.reset (s.part p).jobs l.job).quota
  let hs := jobFolds s p l.job
  let more := fs.filter fun f => !hs.contains f
  n == 0 || more.isEmpty || decide (hs.length + more.length ≤ n)

/-- A job's QUOTA lets a launch have fold f (R72, R61). -/
def quotaOk (s : State) (p f : Nat) (l : Launch) : Bool := quotaFits s p l [f]

/-- The device folds of a launch. -/
def launchFolds (s : State) (p : Nat) (l : Launch) : List Nat := (span l.fbase l.fcount).map (devFold s p)

/-- The launches that wait to be placed as gangs (R77): flagged ones, and pre-empted ones, which resume as gangs (R363). -/
def waitingGangs (q : Part) : List (Nat × Launch) :=
  q.launches.filter fun x => (x.2.det && decide (x.2.stage = .ready)) || decide (x.2.stage = .preempted)

/-- The first launch of a list in R72 order. -/
def firstOf (q : Part) (ls : List (Nat × Launch)) : Option (Nat × Launch) :=
  ls.foldl (fun best x => match best with
    | none => some x
    | some y => if ahead q x.2 y.2 then some x else some y) none

/-- The launch blocks of a partition that have a READY unit in some queue or deque (R74). -/
def readyBlocks (s : State) (p : Nat) : List Nat :=
  (s.folds.flatMap fun x => if partOfFold s x.1 = p then x.2.ready.map (·.1) else []) ++
  s.cores.flatMap fun x => if partOfFold s (foldOf x.1) = p then (x.2.deque ++ x.2.spill ++ x.2.resumes).map (·.1) else []

/-- The launch that is first in R72 order among those that wait to be placed or have a READY unit, its job's QUOTA permitting. -/
def firstReady (s : State) (p : Nat) : Option (Nat × Launch) :=
  let q := s.part p
  let gangs := (waitingGangs q).filter fun x => quotaFits s p x.2 (launchFolds s p x.2)
  let bs := readyBlocks s p
  firstOf q (gangs ++ q.launches.filter fun x => !x.2.det && decide (x.2.stage = .ready ∨ x.2.stage = .placed) && bs.contains x.1)

/-- Device folds that a waiting flagged launch, or a pre-empted one, reserves while it is first in R72 order, and its block (R77). -/
def reserved (s : State) (p : Nat) : Option (Nat × List Nat) :=
  (firstReady s p).bind fun x =>
    if x.2.det && decide (x.2.stage = .ready) || decide (x.2.stage = .preempted) then some (x.1, launchFolds s p x.2) else none

/-! ## Pre-emption under way (R360, R361) -/

/-- Core c holds a unit or routine of a launch: one runs there, or a persistent one is suspended there (R79). -/
def holdsUnit (s : State) (p b c : Nat) : Bool :=
  (match (s.core c).occ with
    | some o => o.part == p && o.blk == b
    | none => false) || (partOfFold s (foldOf c) == p && (persistentOn s c).map (·.1) == some b)

/-- Core c stands where it may be pre-empted (R361): its unit has suspended, or was stopped at a forced boundary; a gang member after its
release. -/
def preemptPoint (k : Core) : Bool :=
  match k.occ with
  | none => true
  | some o => !o.running && (if o.flagged then decide (o.stage = 2) else true)

/-- No other core of fold f holds launch block b. -/
def lastOfFold (s : State) (p b c : Nat) : Bool :=
  (List.range 8).all fun i => let d := 8 * foldOf c + i; d == c || !holdsUnit s p b d

/-- The launch block owns fold f's matrix state. -/
def ownsFold (s : State) (p b f : Nat) : Bool := ((s.fold f).owner.map fun o => o.1 == p && o.2.1 == b).getD false

/-- An area is left for core c, and one for its fold where it is the fold's last, beside those in use and those that the cores `waits` take
(R360). -/
def areaBeside (s : State) (p b c : Nat) (waits : List Nat) : Bool :=
  let q := s.part p
  let last (d : Nat) : Bool := lastOfFold s p b d && ownsFold s p b (foldOf d)
  decide (q.ctxAreas.length + waits.length < q.ctxn.toNat) &&
  (!(last c) || decide (q.foldAreas.length + (waits.filter last).length < q.ctxfn.toNat))

/-- The cores of partition p that stand where they may be pre-empted, and wait for it. -/
def preemptWaits (s : State) (p : Nat) : List Nat :=
  (s.cores.filter fun x => x.2.preempt.isSome && preemptPoint x.2 && partOfFold s (foldOf x.1) == p).map (·.1)

/-- An area is left for core c: a core that has stopped and waits to be saved counts as using one (R360). -/
def areaLeft (s : State) (p b c : Nat) : Bool := areaBeside s p b c (preemptWaits s p)

/-- Core c is to be pre-empted, but no area is left for it beside those of the waiting cores before it: it goes on with its launch's units
(R360). -/
def noArea (s : State) (p b c : Nat) : Bool := !areaBeside s p b c ((preemptWaits s p).filter (· < c))

/-- The launch that is being pre-empted gives no unit to a core, but to one of its own for which no area is left; such a core takes no other
unit (R360). -/
def notAway (s : State) (p c b : Nat) : Bool :=
  let mine := decide ((s.part p).hpre = some b)
  match (s.core c).preempt with
  | some _ => mine && noArea s p b c
  | none => !mine

/-! ## Units -/

/-- A core may take a unit: it is idle with nothing of an earlier unit left to perform (R55), enabled, not quarantined (R371), not a partner nor
waited for as one, and no pair of its fold is in a third run (R373). -/
def coreFree (s : State) (c : Nat) : Bool :=
  let f := foldOf c
  let k := s.core c
  let other := s.core (partnerCore c)
  k.occ.isNone && k.stores.isEmpty && k.drove.isEmpty && k.loads.isEmpty && k.seqr.isEmpty && k.queuesDone && k.sends.isEmpty && k.xfers.isEmpty &&
  k.pieces.isEmpty && k.partnerOf.isNone && decide (c < 6144) && !s.nv.fused.contains f && !s.nv.quar.contains c &&
  decide (other.wait ≠ some .yoke) &&
  (List.range 8).all fun i => match (s.core (8 * f + i)).yoke with
    | some y => decide (y.state ≠ 3)
    | none => true

/-- The launch of a unit in a deque, while it has not ended. -/
def unitLaunch (q : Part) (b : Nat) : Option (Nat × Launch) :=
  (mfind q.launches b).bind fun l => if (q.blk .launch b).done then none else some (b, l)

/-- A launch's units may be placed on core c: it is ready or placed and not being pre-empted, its folds include the core's, its job has
quota, and the core is not bound to another persistent launch (R79). -/
def mayPlace (s : State) (p c b : Nat) (l : Launch) : Bool :=
  decide (l.stage = .ready ∨ l.stage = .placed) && notAway s p c b && (launchFolds s p l).contains (foldOf c) &&
  quotaOk s p (foldOf c) l &&
  match persistentOn s c with
  | some x => x.1 == b
  | none => true

/-- A launch has a core that reads the launch core's index of core c. -/
def spans (s : State) (c : Nat) (l : Launch) (p : Nat) : Bool := (launchFolds s p l).contains (foldOf c)

/-- The unit that fold g's ready queue gives core c (R74): of the first launch in R72 order that may be placed there. `far`: a steal,
which leaves persistent units alone. -/
def fromReady (s : State) (p c g : Nat) (far : Bool) : Option (Nat × Nat) :=
  let q := s.part p
  let us := (s.fold g).ready.filterMap fun u => (mfind q.launches u.1).map fun l => (u, l)
  let ok := us.filter fun x => mayPlace s p c x.1.1 x.2 && !(far && x.2.pers)
  (firstOf q (ok.map fun x => (x.1.1, x.2))).bind fun y => (ok.find? fun x => x.1.1 == y.1).map (·.1)

/-- The oldest entry of core d's deque, where core c may steal it (R74, R79). -/
def fromTail (s : State) (p c d : Nat) : Option (Nat × Nat) :=
  (stealDeque (s.core d)).bind fun x => (unitLaunch (s.part p) x.1.1).bind fun l =>
    if mayPlace s p c l.1 l.2 && !l.2.pers then some x.1 else none

/-- Mesh distance of two folds (R74). -/
def meshDist (f g : Nat) : Nat :=
  let d (a b : Nat) := if a < b then b - a else a - b
  d (f / 32) (g / 32) + d (f % 32) (g % 32)

/-- Folds of the launches that span fold f, in increasing distance, then logical number (R74). -/
def farFolds (s : State) (p c : Nat) : List Nat :=
  let f := foldOf c
  let ls := (s.part p).launches.filter fun x => !x.2.det && decide (x.2.stage = .ready ∨ x.2.stage = .placed) && spans s c x.2 p
  let gs := (partFolds s p).filter fun g => g != f && ls.any fun x => (launchFolds s p x.2).contains g
  (List.range 64).flatMap fun d => gs.filter fun g => meshDist f g == d

/-- Where a unit comes from: the record leaves that place. -/
inductive Source where
  | resume (rcd : Nat)
  | head (rcd : Nat)
  | ready (g rcd : Nat)
  | tail (d rcd : Nat)
  deriving DecidableEq, Repr

/-- The next unit of idle core c, in R74's order; a persistent unit that became READY again resumes on its own core first (R79).-/
def nextUnit (s : State) (c : Nat) : Option (Nat × Source) :=
  let f := foldOf c
  let p := partOfFold s f
  let k := s.core c
  let q := s.part p
  let free := match reserved s p with
    | some x => !x.2.contains f
    | none => true
  match k.resumes.head? with
  | some r => (unitLaunch q r.1).bind fun l => if mayPlace s p c l.1 l.2 then some (l.1, .resume r.2) else none
  | none =>
    if !free then none
    else
      let own := (popDeque k).bind fun x => (unitLaunch q x.1.1).bind fun l =>
        if mayPlace s p c l.1 l.2 then some (l.1, Source.head x.1.2) else none
      let near := (span 1 7).map fun i => 8 * f + (c % 8 + i) % 8
      let steal (d : Nat) := (fromTail s p c d).map fun x => (x.1, Source.tail d x.2)
      let queue (g : Nat) (far : Bool) := (fromReady s p c g far).map fun x => (x.1, Source.ready g x.2)
      own.orElse fun _ => (queue f false).orElse fun _ => (near.findSome? steal).orElse fun _ =>
        (farFolds s p c).findSome? fun g => (queue g true).orElse fun _ => ((span (8 * g) 8).findSome? steal)

/-- The record leaves where it was taken from. -/
def takeFrom (s : State) (c blk : Nat) (x : Source) : State × Nat :=
  match x with
  | .resume r => (s.updCore c fun k => { k with resumes := k.resumes.tail }, r)
  | .head r => (s.updCore c fun k => ((popDeque k).map (·.2)).getD k, r)
  | .ready g r => (s.updFold g fun f => { f with ready := f.ready.erase (blk, r) }, r)
  | .tail d r => (s.updCore d fun k => ((stealDeque k).map (·.2)).getD k, r)

/-- UNIT_PLACE of core c (R74 to R76). -/
def execUnitPlace (c : Nat) (s : State) : Host.Outcome State Fault Refusal :=
  let p := partOfFold s (foldOf c)
  match if coreFree s c then nextUnit s c else none with
  | some (b, x) =>
    match s.launch p b with
    | some l =>
      let t := takeFrom s c b x
      event s true (takeUnit (t.1.updPart p touchSvc) p b c t.2 l)
    | none => event s false s
  | none => event s false s

/-! ## Gangs -/

/-- The device cores of a launch, in order of launch core. -/
def gangCores (s : State) (p : Nat) (l : Launch) : List Nat := (List.range l.ncores).map (launchCore s p l)

/-- A schedule routes a transfer over a link that is down for good (R402). -/
def routesDown (s : State) (p : Nat) (l : Launch) : Bool :=
  (List.range l.nss).any fun i => (schedEntries l.sched l.nss i).any fun e =>
    (fixedLinks (foldOf (launchCore s p l e.src)) (foldOf (launchCore s p l e.dst))).any fun k => mfind s.downLinks k == some true

/-- GANG_PLACE is due (R77): none of its cores holds work, nothing else is reserved there, no READY unit of a launch ahead of it in R72 order
waits for one of its cores, its job has quota for all its folds, and its engines have no owner. -/
def gangDue (s : State) (p b : Nat) (l : Launch) : Bool :=
  l.det && decide (l.stage = .ready) && quotaFits s p l (launchFolds s p l) &&
  (gangCores s p l).all (fun c => coreFree s c && (s.core c).preempt.isNone && (persistentOn s c).isNone && match (nextUnit s c).bind fun x => s.launch p x.1 with
    | some l' => !(ahead (s.part p) l' l)
    | none => true) &&
  (launchFolds s p l).all (fun f => (s.fold f).owner.isNone &&
    match reserved s p with
    | some x => x.1 == b || !x.2.contains f
    | none => true)

/-- A launch that a down link stops ends with status 0x04 (R402). -/
def cancelForLink (s : State) (p b : Nat) : State :=
  cancelLaunch (writeErr s p b { core := 0, status := 4, cause := cUNCORR, epc := 0, einfo := 0x00C0000000000000, unit_ := 0 }) p b 4

/-- The gang of launch block b starts its first superstep (R59, R77). -/
def placeGang (s : State) (p b : Nat) (l : Launch) : State :=
  let cs := gangCores s p l
  let s := s.updPart p fun q =>
    let q := touchSvc q
    { q with launches := mput q.launches b { l with stage := .placed } }
  let own (s : State) (f : Nat) : State := ((ownMatrix s f p b (BitVec.ofNat 64 (l.tag % 2 ^ 32)))).getD s
  let s := (launchFolds s p l).foldl own s
  let start (s : State) (x : Nat × Nat) : State :=
    let s := setupCore s p b x.1 ((s.launch p b).getD l)
    let s := foldWakes s (foldOf x.1)
    let o : Occ := { part := p, blk := b, k := x.2, rcd := 0, flagged := true, ss := 0, pos := 0, stage := 0, running := false,
                     xrout := false, since := s.clk }
    s.updCore x.1 fun k => { k with occ := some o, xclkBase := s.clk }
  let s := cs.zipIdx.foldl start s
  cs.foldl nextRoutine s

/-- GANG_PLACE of launch block b (R77, R402). -/
def execGangPlace (p b : Nat) (s : State) : Host.Outcome State Fault Refusal :=
  match s.launch p b with
  | some l => event s (gangDue s p b l) (if routesDown s p l then cancelForLink s p b else placeGang s p b l)
  | none => event s false s

/-! ## NOTE -/

/-- Every store, engine entry and message of a launch's units has been performed (R55): a core that they used takes no other unit before. -/
def launchQuiet (s : State) (p b : Nat) (l : Launch) : Bool :=
  (l.setup.all fun lc =>
    let k := s.core (devCore s p lc)
    k.stores.isEmpty && k.drove.isEmpty && k.seqr.isEmpty && k.queuesDone && k.xfers.isEmpty && k.pieces.isEmpty) &&
  !(s.cores.any fun x => x.2.sends.any fun m => m.part == p && m.blk == b)

/-- The NOTE write's place, or the cause that fails it (R55). -/
def notePlace (s : State) (p : Nat) (l : Launch) : Except (BitVec 8) Nat :=
  match windowOf l.note with
  | .common => if l.note - commonBase < commonSize s p then .ok (commonKey s p (l.note - commonBase)) else .error cPERMISSION
  | .global =>
    match walk s p l.job l.note with
    | .ok e =>
      if !e.w then .error cPERMISSION
      else
        match physKey s p (e.phys + l.note % e.size) with
        | some k => .ok k
        | none => .error cTRANSLATION
    | .error .uncorrectable => .error cUNCORR
    | .error .unmapped => .error cTRANSLATION
  | _ => .error cPERMISSION

/-- The NOTE write of launch block b (R55). -/
def writeNote (s : State) (p b : Nat) (l : Launch) : State :=
  let st := ((s.part p).blk .launch b).status
  let s := match notePlace s p l with
    | .ok k => s.setBytes k (leBytes 8 (st * 2 ^ 56 + l.nval.toNat))
    | .error c =>
      writeErr s p b { core := 0, status := st, cause := c, epc := 0, einfo := BitVec.ofNat 64 (2 ^ 54 + 2 ^ 53 + l.note), unit_ := 0 }
  s.updPart p fun q => { q with launches := mput q.launches b { l with stage := .noted } }

/-- NOTE_WRITE of launch block b. -/
def execNoteWrite (p b : Nat) (s : State) : Host.Outcome State Fault Refusal :=
  match s.launch p b with
  | some l => event s (decide (l.stage = .done ∧ l.note ≠ 0) && launchQuiet s p b l) (writeNote s p b l)
  | none => event s false s

/-! ## The watchdog -/

/-- The watchdog of core c has reached its interval (R81): the launch block and the record of the unit it holds. -/
def watchdogDue (s : State) (c : Nat) : Option (Nat × Nat) :=
  (persistentOn s c).bind fun x =>
    let k := s.core c
    let n := fld (k.ctl 0x0A0) 31 0
    if n ≠ 0 ∧ k.wdogBase + 1024 * n ≤ s.clk then some x else none

/-- The clk at which the watchdog of core c fires. -/
def watchdogAt (s : State) (c : Nat) : Nat := (s.core c).wdogBase + 1024 * fld ((s.core c).ctl 0x0A0) 31 0

/-- The launch core of a launch block whose watchdog fires first, the lowest of those that fire in one clk (R374). -/
def firing (s : State) (p b : Nat) (l : Launch) : Option Nat :=
  ((List.range l.ncores).filter fun k => ((watchdogDue s (launchCore s p l k)).map (·.1)) == some b).foldl (fun best k =>
    match best with
    | some j => if watchdogAt s (launchCore s p l k) < watchdogAt s (launchCore s p l j) then some k else best
    | none => some k) none

/-- WATCHDOG_FIRE (R81, R374): the lowest launch core that fires is recorded, with its unit's next packet. In the clk in which the count runs out
the core's packet comes first, since a PULSE that retires in it restarts the count. -/
def execWatchdogFire (c : Nat) (s : State) : Host.Outcome State Fault Refusal :=
  let p := partOfFold s (foldOf c)
  match watchdogDue s c with
  | some (b, _) =>
    match s.launch p b with
    | some l =>
      let k := (firing s p b l).getD 0
      let d := launchCore s p l k
      let r := ((watchdogDue s d).map (·.2)).getD 0
      let pc := if (s.core d).occ.isSome then (s.core d).r.pc.toNat else fld ((agentRead s p l.job r).getD 0) 47 3 * 8
      let e : ErrRec := { core := k, status := 3, cause := cWATCHDOG, epc := pc, einfo := 0, unit_ := r }
      event s (s.hadTurn c) (cancelLaunch (writeErr s p b e) p b 3)
    | none => event s false s
  | none => event s false s

end Sys2Proof.Machine
end

