-- ==== Sys2Proof/Machine/Preempt.lean ====
section
/-! DEFINITION. Pre-emption (15 R360 to R363): the request, the save of cores and folds to the context pool, and the resumption. -/

namespace Sys2Proof.Machine

/-! ## The context pool (R360, R362) -/

/-- Writes and reads bytes at an HBM physical address of a partition. -/
def setPhys (s : State) (p a : Nat) : List Byte → State
  | [] => s
  | b :: bs => setPhys (s.setByte (hbmKey s p a) b) p (a + 1) bs

def getPhys (s : State) (p a n : Nat) : List Byte := (span a n).map fun x => s.byte (hbmKey s p x)

/-- Doublewords as bytes, and doublewords read from the pool. -/
def dwBytes (ws : List Word) : List Byte := ws.flatMap fun w => leBytes 8 w.toNat
def physDws (s : State) (p a n : Nat) : List Word := (chunksOf 8 (getPhys s p a (8 * n))).map fun b => BitVec.ofNat 64 (leNat b)

/-- Places of core area i and fold area i. -/
def coreArea (q : Part) (i : Nat) : Nat := q.ctxBase.toNat + 0x74000 * i
def foldArea (q : Part) (i : Nat) : Nat := q.ctxBase.toNat + 0x74000 * q.ctxn.toNat + 0x49000 * i

/-- The lowest area that is not in use. -/
def freeCtx (q : Part) : Option Nat := (List.range (min q.ctxn.toNat (q.ctxAreas.length + 1))).find? fun i => (mfind q.ctxAreas i).isNone
def freeFoldCtx (q : Part) : Option Nat := (List.range (min q.ctxfn.toNat (q.foldAreas.length + 1))).find? fun i => (mfind q.foldAreas i).isNone

/-- A launch handle (R39). -/
def Launch.handle (l : Launch) : Word := BitVec.ofNat 64 (l.rcd / 64 * 64 + 2)

/-- A stream binding's image (R362): its descriptor with POS, and BOUND. -/
def Stream.image (t : Stream) : List Word :=
  let d5 := putFld (dw t.words 5) 31 0 t.pos
  let d7 := putFld (dw t.words 7) 63 63 1
  (List.range 8).map fun i => if i = 5 then d5 else if i = 7 then d7 else dw t.words i

/-- A chute context as its control block (R274). -/
def Chute.image (x : Chute) : List Byte :=
  leBytes 2 x.nslot ++ leBytes 2 x.ssize ++ leBytes 2 x.free ++ leBytes 2 x.filled ++ leBytes 2 x.head ++ leBytes 2 x.tail

/-- A sub-box as the 32 bytes of R284, with the stamp of its piece. -/
def SubBox.image (r : SubBox) (stamp : Nat) : List Byte :=
  let v (l : List Nat) : Nat := l.getD 0 0 + l.getD 1 0 * 2 ^ 16 + l.getD 2 0 * 2 ^ 32
  leBytes 8 (r.peer + r.face * 2 ^ 16 + (if r.sends then 2 ^ 24 else 0) + stamp * 2 ^ 32) ++ leBytes 8 (v r.gorg) ++ leBytes 8 (v r.borg) ++
    leBytes 8 (v r.ext)

/-- The stamp of a face: the least of its pieces (R254). -/
def Paddock.faceStamp (p : Paddock) (b : List Nat) (f : Nat) : Nat :=
  ((p.facePieces b f).foldl (fun (m : Option Nat) o => some (min (m.getD (p.stamp o f)) (p.stamp o f))) none).getD 0

/-- The entries of a core's spill area that a launch block owns: place in the area, launch block and record address (R75). -/
def Core.spilled (k : Core) (b : Nat) : List (Nat × Nat × Nat) :=
  (k.spill.zipIdx.filter fun x => x.1.1 == b).map fun x => ((k.spillNext + 1023 - x.2 % 1024) % 1024, x.1)

/-- Repetitions that remain (R211, R362): of an open capture all, else those of the first block in the sequencer (log 113). -/
def Core.repsLeft (k : Core) : Nat :=
  match k.vcap with
  | some v => v.count
  | none => (k.seqr.findSome? fun x => match x with
    | .block _ _ n => some n
    | .one _ => none).getD 0

/-- Entries held (R362): those of the sequencer, and those of an open capture. -/
def Core.entriesHeld (k : Core) : Nat :=
  k.seqr.foldl (fun n x => match x with
    | .one _ => n + 1
    | .block es _ _ => n + es.length) ((k.vcap.map (·.entries.length)).getD 0)

/-- The image of the sequencer's entries, which only the device writes and reads: free bytes (log 113). -/
def seqImage (s : State) (k : Core) : List Byte :=
  (List.range 960).map fun i => if k.seqr.isEmpty ∧ k.vcap.isNone then 0 else Config.seqByte (s.freeCtr + i)

/-- Uncorrectable words of n places are carried along with a copy of their bytes: place `src o` was copied to `dst o` (R240; log 116). -/
def copyMarks (s : State) (src dst : Nat → Nat) (n : Nat) : State :=
  if s.ecc.isEmpty then s
  else (List.range ((n + 3) / 4)).foldl (fun t i => if s.bad (src (4 * i)) 1 then { t with ecc := mput t.ecc (codeIx (dst (4 * i))) true } else t) s

/-- Corrected errors of n places that are read are counted (R240). -/
def countPlaces (s : State) (src : Nat → Nat) (n : Nat) : State :=
  if s.ecc.isEmpty then s
  else
    let ks := (List.range ((n + 3) / 4)).map fun i => codeIx (src (4 * i))
    { s with eccCount := s.eccCount + (s.ecc.filter fun e => !e.2 && ks.contains e.1).length }

/-- What core c's area receives, by offset (R362); `run`: a unit was running. -/
def coreImage (s : State) (c b : Nat) (l : Launch) (run : Bool) : List (Nat × List Byte) :=
  let k := s.core c
  let mine := k.deque.filter (·.1 == b)
  let spills := k.spilled b
  let lc := l.indexOf (8 * logFold s (partOfFold s (foldOf c)) (foldOf c) + c % 8)
  let head : List Word := [BitVec.ofNat 64 (0x58544330 + if run then 2 ^ 32 else 0), l.handle, BitVec.ofNat 64 lc, BitVec.ofNat 64 k.r.pc.toNat,
    0, 0, 0, 0]
  let cap : List Nat := [if k.vcap.isSome then 1 else 0, k.repsLeft, k.entriesHeld]
  let vs := (List.range 4096).flatMap fun i => leBytes 4 (k.elem (i / 256) (i % 256)).toNat
  let nums := (k.r.vl :: k.r.lastReq :: cap).flatMap fun n => leBytes 8 n
  let pad (x : Nat × Paddock) : List (Nat × List Byte) :=
    let b := x.2.block
    [(0x5A00 + 256 * x.1, dwBytes [BitVec.ofNat 64 (2 ^ 63 + x.2.decl), BitVec.ofNat 64 x.2.gen, BitVec.ofNat 64 (localBase + x.2.box),
      BitVec.ofNat 64 x.2.subs.length] ++ (List.range 27).flatMap fun f => leBytes 4 (x.2.faceStamp b f)),
     (0x50000 + 0x9000 * x.1 + 0x400, x.2.subs.flatMap fun r => r.image (if r.sends then 0 else x.2.stamp r.peer r.face))]
  let bits := (List.range 8192).map fun i =>
    BitVec.ofNat 8 ((List.range 8).foldl (fun n j => n + if mget false k.valid (8 * i + j) then 2 ^ j else 0) 0)
  [(0, dwBytes head), (0x40, dwBytes ((List.range 32).map fun r => if r = 0 then 0 else mget 0 k.r.g r)),
   (0x800, dwBytes ((List.range 256).map fun n => if ctlListed n then readCtl s c n else 0)), (0x1000, vs), (0x5000, nums),
   (0x5040, seqImage s k)] ++
  (k.streams.map fun x => (0x5400 + 64 * x.1, dwBytes x.2.image)) ++
  ((List.range 8).filter fun b => (mfind k.streams b).isNone).map (fun b => (0x5400 + 64 * b, List.replicate 64 (0#8))) ++
  (List.range 16).map (fun i => (0x5600 + 64 * i, ((mfind k.chutes i).map (fun x => x.image ++ List.replicate 52 (0#8))).getD (List.replicate 64 (0#8)))) ++
  ((List.range 4).filter fun w => (mfind k.padds w).isNone).map (fun w => (0x5A00 + 256 * w, List.replicate 256 (0#8))) ++
  k.padds.flatMap pad ++
  [(0x5E00, leBytes 8 k.amark ++ leBytes 8 (mine.length + spills.length * 2 ^ 16)),
   (0x6000, mine.reverse.flatMap fun r => leBytes 8 r.2),
   (0x6200, (List.range 8).flatMap fun q => match (k.queue q).err with
     | some e =>
       let t : Trap := { cause := e.cause, acc := e.acc, val := e.val, data := e.data, deferred := some q }
       leBytes 8 e.cause.toNat ++ leBytes 8 (t.einfo false).toNat ++ List.replicate 16 0
     | none => List.replicate 32 (0#8)),
   (0x8000, bits), (0x10000, (List.range l.lmem).map fun a => s.byte (localKey c a)),
   (0x4E000, if spills.isEmpty then [] else s.bytes (localKey c 0x3E000) 0x2000)]

/-- What fold f's area receives, by offset (R362). -/
def foldImage (m : MState) (tag : Word) : List (Nat × List Byte) :=
  [(0, (List.range 0x20000).map fun i => mget 0 m.tiles i), (0x20000, (List.range 0x8000).map fun i => mget 0 m.scales i),
   (0x28000, (List.range 32768).flatMap fun i => leBytes 4 (mget 0 m.acc i).toNat),
   (0x48000, dwBytes ((List.range 32).map fun n => mget 0 m.tsh n)),
   (0x48100, leBytes 8 ((List.range 32).foldl (fun a n => a + if m.inbound.contains n then 2 ^ n else 0) 0) ++ leBytes 8 tag.toNat)]

/-- Writes an image at a place of the pool. -/
def writeImage (s : State) (p a : Nat) (im : List (Nat × List Byte)) : State := im.foldl (fun s x => setPhys s p (a + x.1) x.2) s

/-! ## The request -/

/-- HPREEMPT (R360). -/
def execHpreempt (p : Nat) (h : Word) (s : State) : Host.Outcome State Fault Refusal :=
  let q := s.part p
  let s' :=
    if q.hpres = 1 then s
    else
      match levelOf s p none h with
      | .launch b =>
        let cs := (s.cores.map (·.1)).filter (holdsUnit s p b)
        if cs = [] then s.setPart p { q with hpres := 3 }
        else
          let s1 := s.setPart p { q with hpres := 1, hpre := some b }
          cs.foldl (fun s c => s.updCore c fun k => { k with preempt := some s.clk }) s1
      | _ => s.setPart p { q with hpres := 4 }
  event s (windowUp s p) s'

/-! ## Saving -/

/-- What a pre-emption waits for (R361): the core's agents are joined and its pair stands at an agreeing point. Sequencer entries that
have not started are saved, stores among them (R211); messages and pieces that wait for their receivers are saved with the core. -/
def preemptReady (s : State) (c : Nat) : Bool :=
  let k := s.core c
  { k with seqr := [] }.rwDone s c && k.seqStarted.isNone && k.queuesDone && k.drove.isEmpty &&
  k.streams.all (fun x => !x.2.writes || x.2.ring.isEmpty) && k.tfault.isNone &&
  (match k.yoke with
    | some y => decide (y.state = 1 ∧ y.ivpos = 0) && y.held.isEmpty && y.other.isNone
    | none => true)

/-- A stream as it is saved (R289): a read ring is fetched again from POS. -/
def Stream.saved (t : Stream) : Stream := if t.writes then t else { t with ring := [], moved := t.pos }

/-- Saves core c of launch block b in area i, and clears the core (R361, R362): a pair's epoch ends (R243), and fences stay for what is saved
unperformed (R328). -/
def saveCore (s : State) (p b c i : Nat) (l : Launch) : State :=
  let s := mirrorPair (endCapture s c) c
  let k := s.core c
  let k := if k.yoke.isSome then newEpoch k 0 else k
  let run := (k.occ.map fun o => !o.flagged).getD false
  let mine : Nat × Nat → Bool := fun r => r.1 == b
  let keep : Core := { k with
    streams := k.streams.map (fun x => (x.1, x.2.saved)), deque := k.deque.filter mine, resumes := k.resumes.filter mine, preempt := none,
    yoke := none, wdogBase := s.clk - k.wdogBase, fences := (k.sweepFences s c).fences, journal := [], jspill := [] }
  let s := s.setCore c keep
  let a := coreArea (s.part p) i
  let image (off : Nat) : Nat := localKey c off
  let n := if (k.spilled b).isEmpty then l.lmem else 0x40000
  let s := countPlaces s image n
  let s := copyMarks (writeImage s p a (coreImage s c b l run)) image (fun off => hbmKey s p (a + 0x10000 + off)) n
  let t := logFold s p (foldOf c)
  let lc := 8 * t + c % 8
  let s := match k.occ with
    | some o =>
      if o.flagged then s
      else
        let w0 := BitVec.ofNat 64 (t * 2 ^ 54 + 2 ^ 53 + 2 ^ 48 + k.r.pc.toNat / 8 * 8 + 5)
        agentWrite (agentWrite s p l.job o.rcd w0) p l.job (o.rcd + 16) (BitVec.ofNat 64 (coreArea (s.part p) i))
    | none => s
  let area : CtxArea := { blk := b, k := l.indexOf lc, core := keep, running := run }
  let off (x : Nat × Launch) : Nat × Launch := if x.1 = b then (x.1, { x.2 with setup := x.2.setup.filter (· != lc) }) else x
  let s := s.updPart p fun q => { q with ctxAreas := mput q.ctxAreas i area, launches := q.launches.map off }
  let s := leaveLines s c
  ({ unpair s c with freeCtr := s.freeCtr + 960 }).setCore c { Core.idle with
    r := { Regs.zero with ctl := mset 0 [] 0x091 (k.ctl 0x091) }, deque := k.deque.filter (fun r => !mine r),
    spill := k.spill.filter (fun r => !mine r), spillNext := k.spillNext,
    resumes := k.resumes.filter (fun r => !mine r), tlb := k.tlb, thirds := k.thirds, trans := k.trans }

/-- Saves the matrix state of fold f, which launch block b owns, in fold area i (R362). -/
def saveFold (s : State) (p b f i : Nat) : State :=
  let v := s.fold f
  let tag := (v.owner.map (·.2.2)).getD 0
  let s := writeImage s p (foldArea (s.part p) i) (foldImage v.m tag)
  let a : FoldArea := { blk := b, fold := f, m := v.m, owner := v.owner }
  let s := s.updPart p fun q => { q with foldAreas := mput q.foldAreas i a }
  s.updFold f fun v => { v with owner := none, m := MState.zero, shadow := 0, msnap := none }

/-- A watchdog of the launch being pre-empted has fired: its cancel comes before the pre-emption (R351). -/
def cancelPending (s : State) (p : Nat) : Bool :=
  ((s.part p).hpre.bind fun b => (s.launch p b).bind fun l => firing s p b l).isSome

/-- CORE_PREEMPT of core c (R361, R362): it waits for a free core area, and for a fold area where it is the last of its fold. -/
def execCorePreempt (c : Nat) (s : State) : Host.Outcome State Fault Refusal :=
  let k := s.core c
  let p := partOfFold s (foldOf c)
  let q := s.part p
  let due := k.preempt.isSome && preemptPoint k && preemptReady s c && !(cancelPending s p)
  match q.hpre.bind fun b => (s.launch p b).map fun l => (b, l), freeCtx q with
  | some (b, l), some i =>
    if lastOfFold s p b c && ownsFold s p b (foldOf c) then
      match freeFoldCtx q with
      | some j => event s due (preemptCheck (saveFold (saveCore s p b c i l) p b (foldOf c) j) p)
      | none => event s false s
    else event s due (preemptCheck (saveCore s p b c i l) p)
  | _, _ => event s false s

/-! ## Force -/

/-- PREEMPT_FORCE_TIMEOUT is due (R361): 16,384 clk after the request the unit still runs. A load that a release has already served, and an
MXCMD on its way, complete first; without an area for it the core goes on (R360), and a cancel comes before (R351). -/
def forceDue (s : State) (c : Nat) : Bool :=
  let k := s.core c
  match k.occ, k.preempt with
  | some o, some t => !o.flagged && o.running && decide (t + 16384 ≤ s.clk) && k.partnerOf.isNone &&
    areaLeft s o.part o.blk c && !(cancelPending s o.part) &&
    (match k.wait with
      | some (.released _) => false
      | some (.mxcmd ..) => false
      | _ => true)
  | _, _ => false

/-- The unit stops at its packet boundary (R361): a stalled packet is abandoned, a barrier arrival withdrawn, and a pair's interval closes. -/
def forceStop (s : State) (c : Nat) : State :=
  let s := leaveLines s c
  s.updCore c fun k => { k with
    wait := none, tfault := none, occ := k.occ.map fun o => { o with running := false },
    yoke := k.yoke.map fun y => if y.ivpos = 0 ∧ y.held = [] then y else { y with close := true } }

/-- PREEMPT_FORCE_TIMEOUT of core c. -/
def execPreemptForceTimeout (c : Nat) (s : State) : Host.Outcome State Fault Refusal := event s (forceDue s c) (forceStop s c)

/-! ## Resumption (R363) -/

/-- The launch's areas, as area number and device core. -/
def areasOf (s : State) (p b : Nat) (l : Launch) : List (Nat × Nat × CtxArea) :=
  ((s.part p).ctxAreas.filter fun x => x.2.blk == b).map fun x => (x.1, launchCore s p l x.2.k, x.2)

/-- LAUNCH_RESUME is due: its cores hold no work, no launch ahead of it waits for their folds as a gang, and no other launch owns an engine
that it owned. -/
def resumeDue (s : State) (p b : Nat) (l : Launch) : Bool :=
  decide (l.stage = .preempted) && quotaFits s p l (launchFolds s p l) &&
  (areasOf s p b l).all (fun x => coreFree s x.2.1 && (s.core x.2.1).preempt.isNone && (persistentOn s x.2.1).isNone &&
    match reserved s p with
    | some y => y.1 == b || !y.2.contains (foldOf x.2.1)
    | none => true) &&
  (s.part p).foldAreas.all fun x => x.2.blk != b || (s.fold x.2.fold).owner.isNone

/-- The bits of a stream descriptor's doublewords that R277 names; reserved ones read as zero (R8). -/
def streamFields (i : Nat) : Word := [0xFC00FFFFFFFFFFFF, -1, -1, -1, 0x3FFFF0F07, 0xFFFFFFFF].getD i 0

/-- A doubleword table that a control register image restores: what R135 lists, but for values that other state gives. -/
def ctlFrom (ws : List Word) (old : SMap Word) : SMap Word :=
  (List.range 256).foldl (fun m n =>
    if ctlListed n ∧ !([0x000, 0x001, 0x002, 0x003, 0x004, 0x005, 0x012, 0x090].contains n) ∧ !(0x060 ≤ n ∧ n ≤ 0x07F) then
      mset 0 m n (dw ws n &&& ctlFields n) else m) old

/-- Core c is restored from its area (R363): what software may read there from the pool, the device's own parts as it kept them. -/
def restoreCore (s : State) (p : Nat) (l : Launch) (x : Nat × Nat × CtxArea) : State :=
  let c := x.2.1
  let k := x.2.2.core
  let cur := s.core c
  let a := coreArea (s.part p) x.1
  let gs := physDws s p (a + 0x40) 32
  let nums := physDws s p (a + 0x5000) 2
  let mark := physDws s p (a + 0x5E00) 2
  let nd := fld (dw mark 1) 6 0
  let b := x.2.2.blk
  let spills := (k.spilled b).take (fld (dw mark 1) 26 16)
  let spilt (i : Nat) : Nat := leNat (getPhys s p (a + 0x4E000 + 8 * i) 8)
  let vreg := (chunksOf 4 (getPhys s p (a + 0x1000) 16384)).zipIdx.foldl (fun m y => mset 0 m y.2 (BitVec.ofNat 32 (leNat y.1))) []
  let bit (i : Nat) : Bool := (s.byte (hbmKey s p (a + 0x8000 + i / 8))).getLsbD (i % 8)
  let valid := (List.range 65536).foldl (fun m i => mset false m i (bit i)) []
  let stream (y : Nat × Stream) : Nat × Stream :=
    let ws := physDws s p (a + 0x5400 + 64 * y.1) 8
    let pos := fld (dw ws 5) 31 0
    (y.1, { y.2 with words := (List.range 8).map (fun i => dw ws i &&& streamFields i), pos := pos, moved := pos })
  let bound (y : Nat × Stream) : Bool := fld (dw (physDws s p (a + 0x5400 + 64 * y.1) 8) 7) 63 63 == 1
  let padd (y : Nat × Paddock) : Nat × Paddock :=
    let ws := physDws s p (a + 0x5A00 + 256 * y.1) 3
    (y.1, { y.2 with decl := fld (dw ws 0) 47 0, gen := fld (dw ws 1) 31 0, box := fld (dw ws 2) 47 0 - localBase })
  let h (i j : Nat) : Nat := leNat (getPhys s p (a + 0x5600 + 64 * i + 2 * j) 2)
  let chute (y : Nat × Chute) : Nat × Chute := (y.1, { y.2 with free := h y.1 2, filled := h y.1 3, head := h y.1 4, tail := h y.1 5 })
  let ctl := putFld (dw (physDws s p (a + 0x800) 256) 0x083) 9 9 1
  let pc := fld (dw (physDws s p (a + 0x18) 1) 0) 47 3 * 8
  let regs : Regs := { k.r with
    g := (List.range 32).foldl (fun m r => if r = 0 then m else mset 0 m r (dw gs r)) []
    pc := BitVec.ofNat 48 pc, npc := BitVec.ofNat 48 pc
    ctl := mset 0 (ctlFrom (physDws s p (a + 0x800) 256) []) 0x083 ctl
    vl := (dw nums 0).toNat, lastReq := (dw nums 1).toNat, v := vreg, lanes := 0 }
  let recs := ((physDws s p (a + 0x6000) nd).map fun w => (b, w.toNat)).reverse
  let occ := k.occ.map fun o => { o with running := x.2.2.running }
  let k' : Core := { k with
    occ := occ, r := regs, valid := valid, streams := (k.streams.filter bound).map stream,
    chutes := k.chutes.map chute, padds := k.padds.map padd, amark := (dw mark 0).toNat,
    deque := recs ++ cur.deque, spill := spills.map (fun y => (b, spilt y.1)) ++ cur.spill,
    spillNext := if cur.spill.isEmpty then k.spillNext else cur.spillNext, resumes := k.resumes ++ cur.resumes, tlb := cur.tlb,
    thirds := cur.thirds, trans := cur.trans, wdogBase := s.clk - k.wdogBase, wait := none, tfault := none }
  let s := foldWakes s (foldOf c)
  let s := s.setCore c k'
  let held (off : Nat) : Nat := hbmKey s p (a + 0x10000 + off)
  let s := countPlaces s held l.lmem
  let s := copyMarks (s.setBytes (localKey c 0) (getPhys s p (a + 0x10000) l.lmem)) held (fun off => localKey c off) l.lmem
  let s := spills.foldl (fun s y => s.setBytes (localKey c (0x3E000 + 8 * y.1)) (leBytes 8 (spilt y.1))) s
  let s := s.updCore c fun v => { v with r := { v.r with lanes := if occ.isSome then grantOf s c v.r.lastReq else 0 } }
  let s := match occ with
    | some o => if o.flagged then s.updCore c fun v => { v with xclkBase := s.clk }
      else agentWrite s p l.job o.rcd (putFld ((agentRead s p l.job o.rcd).getD 0) 50 48 2)
    | none => s
  let lc := 8 * logFold s p (foldOf c) + c % 8
  let on (y : Nat × Launch) : Nat × Launch :=
    if y.2.rcd = l.rcd ∧ y.2.accept = l.accept then (y.1, { y.2 with setup := lc :: y.2.setup })
    else (y.1, { y.2 with setup := y.2.setup.filter (· != lc) })
  s.updPart p fun q => { q with ctxAreas := mdel q.ctxAreas x.1, launches := q.launches.map on }

/-- A fold's matrix state is restored from its area. -/
def restoreFold (p : Nat) (s : State) (x : Nat × FoldArea) : State :=
  let a := foldArea (s.part p) x.1
  let bytes (off n : Nat) : SMap Byte := (getPhys s p (a + off) n).zipIdx.foldl (fun m y => mset 0 m y.2 y.1) []
  let acc := (chunksOf 4 (getPhys s p (a + 0x28000) 131072)).zipIdx.foldl (fun m y => mset 0 m y.2 (BitVec.ofNat 32 (leNat y.1))) []
  let tsh := (physDws s p (a + 0x48000) 32).zipIdx.foldl (fun m y => mset 0 m y.2 (y.1 &&& 0xFFFFFF)) []
  let fl := dw (physDws s p (a + 0x48100) 2) 0
  let m : MState := { tiles := bytes 0 0x20000, scales := bytes 0x20000 0x8000, acc := acc, tsh := tsh,
                      inbound := (List.range 32).filter fun n => fl.getLsbD n, arrived := x.2.m.arrived }
  let tag := dw (physDws s p (a + 0x48100) 2) 1
  let s := s.updFold x.2.fold fun v => { v with m := m, owner := x.2.owner.map (fun o => (o.1, o.2.1, tag)), msnap := some m }
  s.updPart p fun q => { q with foldAreas := mdel q.foldAreas x.1 }

/-- LAUNCH_RESUME of launch block b: the folds first, then every core, and the gang goes on. -/
def resumeLaunch (s : State) (p b : Nat) (l : Launch) : State :=
  let xs := areasOf s p b l
  let s := ((s.part p).foldAreas.filter fun x => x.2.blk == b).foldl (restoreFold p) s
  let s := xs.foldl (fun s x => restoreCore s p l x) s
  let s := s.updPart p fun q => match mfind q.launches b with
    | some l => touchSvc { q with launches := mput q.launches b { l with stage := .placed } }
    | none => q
  if l.det then xs.foldl (fun s x => nextRoutine s x.2.1) s else s

/-- LAUNCH_RESUME (R363). -/
def execLaunchResume (p b : Nat) (s : State) : Host.Outcome State Fault Refusal :=
  match s.launch p b with
  | some l => event s (resumeDue s p b l) (resumeLaunch s p b l)
  | none => event s false s

end Sys2Proof.Machine
end

