-- ==== Sys2Proof/Machine/Recover.lean ====
section
/-! DEFINITION. Fills, the resolution of translation faults, and recovery (04 R91, R92, 10 R240, 15 R365, R368, R369, 20 R403 to R405). -/

namespace Sys2Proof.Machine

/-- A trap that an event delivers to the packet at which core c stands. -/
def deliverTrap (s : State) (c : Nat) (t : Trap) : Host.Outcome State Fault Refusal :=
  .next { takeTrap { s with cur := c } t false with cur := s.cur }

/-! ## The instruction cache -/

/-- The addresses of the parameter words that a line's patches read (R111). -/
def patchWords (l : Launch) (line : Nat) : List Nat :=
  (l.patches.filter fun x => decide (line ≤ l.code + 8 * x.2 ∧ l.code + 8 * x.2 < line + 64)).map fun x => l.param + 8 * x.1

/-- The parameter word of a patch that lies in a line cannot be read: the cause (R92, R111). -/
def patchFault (s : State) (p : Nat) (l : Launch) (line : Nat) : Option Trap :=
  (patchWords l line).findSome? fun v =>
    let t (cause : BitVec 8) : Option Trap := some { cause := cause, acc := 2, val := true, data := v, deferred := none }
    match windowOf v, agentKey s p l.job v with
    | _, some key => if s.bad key 8 then t cUNCORR else none
    | .global, none => match walk s p l.job v with
      | .error .uncorrectable => t cUNCORR
      | _ => t cTRANSLATION
    | _, none => t cPERMISSION

/-- The line that core c waits for: its packet's, or that of the packet's pool read, an LDL of a word or doubleword (R91, R109). -/
def neededLine (s : State) (c : Nat) : Option Nat :=
  let k := s.core c
  let pc := k.r.pc.toNat
  let word : Option Word32 := match k.macroOp with
    | some (w, _, _) => some w
    | none => (findLine s c pc).map fun l => l.word pc
  match word with
  | none => some (pc / 64 * 64)
  | some w =>
    let v := ((pc : Int) + 4 * (bits w 0 18).toInt).toNat
    if bits w 25 6 = 4#6 ∧ (bits w 18 2).toNat < 2 ∧ (findLine s c v).isNone then some (v / 64 * 64) else none

/-- The fold's cache with a line filled last: a line of the same tag in error leaves, and of 1,024 lines the one filled first (R91, R92;
log 104). -/
def putLine (ls : List ICLine) (x : ICLine) : List ICLine :=
  (x :: ls.filter fun y => !(y.part == x.part && y.blk == x.blk && y.addr == x.addr)).take 1024

/-- ICACHE_FILL of the line at address `line` for core c (R91, R92): a failure traps the packet that is fetched, so it is delivered where
that packet needs the line. A line found in error is replaced, and the event counted. A walk that begins a fault, or that a down link holds
back, is due once. -/
def execIcacheFill (c line : Nat) (s : State) : Host.Outcome State Fault Refusal :=
  let k := s.core c
  match k.occ, k.launchOf s with
  | some o, some l =>
    let waits := match k.tfault with
      | some f => f.answer.isNone && (f.seq.isSome || fld (s.part o.part).facc 1 1 == 1)
      | none => false
    let inside := decide (line % 64 = 0 ∧ line < l.code + l.csize ∧ l.code < line + 64)
    let needed := neededLine s c == some line
    if !o.running || waits || !inside || (findLine s c line).isSome then event s false s
    else
      match codeKey s c line 64 with
      | .error (.trap t) => if needed then deliverTrap s c t else event s false s
      | .error .hold => event s false s
      | .error (.stall s1) => event s (needed && decide ((s1.core c).tfault ≠ k.tfault ∨ (s1.core c).walkWait ≠ k.walkWait)) s1
      | .ok (key, s1) =>
        match patchFault s1 o.part l line with
        | some t => if needed then deliverTrap s1 c t else event s false s
        | none =>
          let s1 := (patchWords l line).foldl (fun s v => agentCount s o.part l.job v 1) ((s1.countEcc key 64).updCore c fun k => k.landed reqFetch)
          let raw := s1.bytes key 64
          let pt := patchLine s1 o.part l line raw
          let x : ICLine :=
            { part := o.part, blk := o.blk, addr := line, raw := raw, bytes := pt.1, marked := pt.2, bad := false }
          let was := (s1.fold (foldOf c)).icache.filter fun y => y.part == o.part && y.blk == o.blk && y.addr == line && y.bad
          event s true ({ s1 with lineBad := s1.lineBad + was.length }.updFold (foldOf c) fun f => { f with icache := putLine f.icache x })
  | _, _ => event s false s

/-! ## Translation faults -/

/-- TRANSLATION_RESOLVE of core c (R365): the Steading's fresh walk; a valid leaf is installed. An uncorrectable table read, or a CRIT leaf
whose readings differ (R364), is met again by the access. -/
def execTranslationResolve (c : Nat) (s : State) : Host.Outcome State Fault Refusal :=
  let k := s.core c
  match k.tfault with
  | some f =>
    let p := corePart s c
    let (ok, s1) : Bool × State := match critWalk s p (k.job s) f.va with
      | (.error .unmapped, _) => (false, s)
      | (.error .uncorrectable, _) => (true, s)
      | (.ok l, s1) => (true, s1.updCore c fun v => { v with tlb := l.entry (k.job s) f.va :: v.tlb })
    event s (f.answer.isNone && f.seq.isNone && fld (s.part p).facc 1 1 == 1)
      (s1.updCore c fun k => { k with tfault := some { f with answer := some ok } })
  | none => event s false s

/-- A fault with a number takes the host's answer. -/
def answerFault (n : Nat) (a : Bool) (f : Option TransFault) : Option TransFault :=
  f.map fun f => if f.seq = some n ∧ f.answer.isNone then { f with answer := some a } else f

/-- Some fault of partition p with number n is still unanswered. -/
def faultOpen (s : State) (p n : Nat) : Bool :=
  let one (f : Option TransFault) : Bool := (f.map fun f => decide (f.seq = some n) && f.answer.isNone).getD false
  s.cores.any fun x => corePart s x.1 == p && (one x.2.tfault || x.2.queues.any fun q => q.2.entries.any fun e => one e.fault)

/-- The host's answer to the entry of its fault queue with number n (R404). -/
def answerFaults (s : State) (p n : Nat) (a : Bool) : State :=
  let entry (e : QEntry) : QEntry := e.withFault (answerFault n a e.fault)
  let queue (q : Nat × EQueue) : Nat × EQueue := (q.1, { q.2 with entries := q.2.entries.map entry })
  let core (x : Nat × Core) : Nat × Core :=
    if corePart s x.1 = p then (x.1, { x.2 with tfault := answerFault n a x.2.tfault, queues := x.2.queues.map queue }) else x
  { s with cores := s.cores.map core }

/-- FQ_RETRY (R404). -/
def execFqRetry (p : Nat) (sq : Word32) (s : State) : Host.Outcome State Fault Refusal :=
  event s (windowUp s p && faultOpen s p sq.toNat) (answerFaults s p sq.toNat true)

/-- FQ_DELIVER (R404). -/
def execFqDeliver (p : Nat) (sq : Word32) (s : State) : Host.Outcome State Fault Refusal :=
  event s (windowUp s p && faultOpen s p sq.toNat) (answerFaults s p sq.toNat false)

/-! ## Rollback (R368, R369) -/

/-- Steps 3 and 4 at core c: local memory from the journal, and the snapshot of its last release. -/
def restoreSnap (s : State) (c : Nat) : State :=
  let k := s.core c
  let s := (k.journal ++ k.jspill).foldl (restoreLine c) s
  match k.snap with
  | none => s
  | some n =>
    let ss := (n.occ.map (·.ss)).getD 0
    let s := s.updCore c fun k => { k with
      r := { k.r with ctl := n.ctl }, chutes := n.chutes, streams := n.streams, amark := n.amark, padds := n.padds, occ := n.occ,
      xwritten := k.xwritten.filter fun w => w / 2 ^ 16 != ss }
    s.updFold (foldOf c) fun f => match f.msnap with
      | some m => { f with m := m }
      | none => f

/-- A member that had no release yet starts again as the gang's placement started it (R62). -/
def restartCore (s : State) (p b c : Nat) : State :=
  let n := (s.core c).rollbacks
  let lc := 8 * logFold s p (foldOf c) + c % 8
  let s := s.updPart p fun q => match mfind q.launches b with
    | some l => { q with launches := mput q.launches b { l with setup := l.setup.filter (· != lc) } }
    | none => q
  let s := match s.launch p b with
    | some l => setupCore s p b c l
    | none => s
  let s := s.updFold (foldOf c) fun f => { f with m := MState.zero, shadow := 0 }
  s.updCore c fun k => { k with
    occ := k.occ.map (fun o => { o with ss := 0, pos := 0, stage := 0, running := false }), xclkBase := s.clk, rollbacks := n }

/-- Steps 3 to 5 of R368, or the cancel of R369: a fourth error in one epoch, or an uncorrectable one that the restore meets. -/
def rollBack (s : State) (p b : Nat) : State :=
  let cs := gangHeld s p b
  let s := s.updPart p fun q => { q with contrec := q.contrec.filter (·.blk != b) }
  if cs.any fun c => decide (3 ≤ (s.core c).rollbacks) || (s.core c).snapBad then cancelLaunch s p b 4
  else
    let s := cs.foldl restoreSnap s
    let s := s.updPart p fun q =>
      let x := q.blk .launch b
      q.setBlk .launch b { x with errcnt := min (x.errcnt + 1) (2 ^ 32 - 1) }
    let s := cs.foldl (fun s c => s.updCore c fun k => { k with rollbacks := k.rollbacks + 1 }) s
    let s := cs.foldl (fun s c => if (s.core c).snap.isSome then openPhase s c else restartCore s p b c) s
    cs.foldl nextRoutine s

/-- A decision of a kind waits for launch block b. -/
def owed (s : State) (p b kind : Nat) : Bool := (s.part p).contrec.any fun x => x.blk == b && x.kind == kind

/-- ROLLBACK of launch block b, with FACC bit 4 = 1 (R368). -/
def execRollback (p b : Nat) (s : State) : Host.Outcome State Fault Refusal := event s (owed s p b 0) (rollBack s p b)

/-! ## The host's decisions (R405) -/

/-- The oldest decision that the host owes. -/
def nextDecision (s : State) (p : Nat) : Option Contain := (s.part p).contrec.find? fun x => x.kind != 0

/-- CONTANS 1 (R405): steps 3 to 5 of R368, or the pair runs on from its last agreeing point. -/
def execContansContinue (p : Nat) (s : State) : Host.Outcome State Fault Refusal :=
  match nextDecision s p with
  | some x =>
    event s (windowUp s p)
      (if x.kind = 1 then rollBack s p x.blk
       else (resumePair s x.core).updPart p fun q => { q with contrec := q.contrec.filter fun y => !(y.core == x.core && y.kind == 2) })
  | none => event s false s

/-- CONTANS 2 (R405): the launch is cancelled with status 0x04. -/
def execContansCancel (p : Nat) (s : State) : Host.Outcome State Fault Refusal :=
  match nextDecision s p with
  | some x =>
    let k := s.core x.core
    let e : ErrRec := { core := (k.occ.map (·.k)).getD 0, status := 4, cause := cYOKE, epc := k.r.pc.toNat, einfo := 0,
                        unit_ := (k.occ.map (·.rcd)).getD 0 }
    event s (windowUp s p) (cancelLaunch (if x.kind = 2 then writeErr s p x.blk e else s) p x.blk 4)
  | none => event s false s

/-! ## Host completions (R403) -/

/-- The first queue of core c whose head entry works on host memory, with that address. -/
def hostEntry (s : State) (c : Nat) : Option (Nat × Nat) :=
  (List.range 8).findSome? fun q => (headEntry s c q).bind fun e =>
    let tr := match e with
      | .matrix m => m.tr
      | .copy m => m.tr
    (e.spans.flatMap fun r => span r.1 r.2).findSome? fun v =>
      (placeOf s c tr v).bind fun key => if isHost key then some (q, v) else none

/-- The first stream of core c whose next fill reads host memory, with its address. -/
def hostStream (s : State) (c : Nat) : Option (Nat × Stream × Nat) :=
  (s.core c).streams.findSome? fun x =>
    let t := x.2
    if !fillDue s c t then none
    else
      match streamAccess s c (t.elemAddr t.moved) (t.elemBits t.moved).1 (streamAlign (ptrFc t.base)) false with
      | .ok (tr, s') => ((placeOf s' c tr (t.elemAddr t.moved).toNat).bind fun key =>
          if isHost key then some (x.1, t, (t.elemAddr t.moved).toNat) else none)
      | .error _ => none

/-- The line that core c fetches from host memory. -/
def hostLine (s : State) (c : Nat) : Option Nat :=
  (neededLine s c).filter fun a => match codeKey s c a 64 with
    | .ok (key, _) => isHost key
    | .error _ => false

/-- The host access of core c that waits for a completion, other than a load or an AMO: its request, and what an error does to it (R403). -/
def hostRequest (s : State) (c : Nat) : Option (Nat × State) :=
  let err (v : Nat) : Trap := { cause := cUNCORR, acc := 0, val := true, data := v, deferred := none }
  match hostEntry s c, hostStream s c, hostLine s c with
  | some (q, v), _, _ => some (reqQueue q, failQueue s c q (err v).held)
  | _, some (b, t, v), _ => some (reqStream b, putFill s c b t (.err (err v).held))
  | _, _, some a => some (reqFetch, { takeTrap { s with cur := c } { err a with acc := 2 } false with cur := s.cur })
  | none, none, none =>
    if ((s.core c).occ.map (·.running)).getD false then some (reqPacket, s.updCore c fun k => { k with hostFail := true }) else none

/-- The Steading reads the runtime image from host memory (R410). -/
def imageReading (s : State) : Bool := s.powered && decide (fld s.boot 3 0 = 5 ∧ fld (dw s.nv.image 0) 1 0 = 1) && !s.bootPlan.isEmpty

/-- The completion timeout of the host link: 50 ms (R403). -/
def hostTimeout : Nat := 100000000

/-- HOST_COMPLETION_TIMEOUT of core c (R403): its oldest access to host memory, a load or AMO first, ends with UNCORRECTABLE, at once where
the completion brings an error (`err`), else when 50 ms have passed: from the issue of a load, or, for another access, from the first
such event that found it waiting (log 84). A management core's access is the Steading's read of a runtime image from host memory (R410). -/
def execHostCompletionTimeout (w : HostWait) (s : State) : Host.Outcome State Fault Refusal :=
  let c := w.core
  let err := w.err
  if isMgmt c then event s (imageReading s) { s with imgBad := true }
  else
    match (s.core c).loads.find? fun l => isHost l.key with
    | some l =>
      let s1 := s.updCore c fun k => { k with loads := k.loads.erase l }
      if err || decide (l.since + hostTimeout ≤ s.clk) then
        deliverTrap s1 c { cause := cUNCORR, acc := 0, val := true, data := l.va, deferred := none }
      else event s false s
    | none =>
      match hostRequest s c with
      | some (i, s1) =>
        match mfind (s.core c).hostSince i with
        | some t => event s (err || decide (t + hostTimeout ≤ s.clk)) (s1.updCore c fun k => k.landed i)
        | none => event s true (if err then s1.updCore c fun k => k.landed i else
            s.updCore c fun k => { k with hostSince := mput k.hostSince i s.clk })
      | none => event s false s

/-! ## Scrub (R240) -/

/-- SCRUB of word w of core c's local memory: a corrected word is rewritten, and the correction counted. -/
def execScrub (c w : Nat) (s : State) : Host.Outcome State Fault Refusal :=
  let at_ := localKey c (4 * w) / 4
  event s (decide (w < 65536) && (mfind s.ecc at_ == some false)) { s with ecc := mdel s.ecc at_, eccCount := s.eccCount + 1 }

end Sys2Proof.Machine
end

