-- ==== Sys2Proof/Machine/Checkpoint.lean ====
section
/-! DEFINITION. Stopping and restoring a job (20 R414, R415). spec/ gives the device-state area's size, not its layout: the layout here is the
model's (log 82). -/

namespace Sys2Proof.Machine

/-- What a phase stop writes to the device-state area beside the Common image (R415): the job's drove slots aboard, its graph, phase and job
blocks, its node counters, and the records and blocks of the launches that wait on a counter. -/
structure SavedJob where
  job : Nat
  jobBlk : Block
  slots : List DSlot
  graphs : List (Nat × Nat × Block)
  phases : List (Nat × Block)
  nodes : List (Nat × Int)
  /-- Launch block, the record's address and doublewords, and the block. -/
  waiting : List (Nat × Nat × List Word × Block)
  deriving DecidableEq, Repr

/-- The place of byte a of a host or tier-2 physical address (R414): tier 2 where the partition's space has it. -/
def outerKey (s : State) (p a : Nat) : Nat :=
  match if fld (s.part p).facc 14 14 = 1 then t2Key s p a else none with
  | some k => k
  | none => place 3 a

/-- Doublewords at such an address. -/
def outerDws (s : State) (p a n : Nat) : List Word :=
  (chunksOf 8 ((span a (8 * n)).map fun x => s.byte (outerKey s p x))).map fun b => BitVec.ofNat 64 (leNat b)

/-- The records of a checkpoint list: device address, outer address, length. A count above 1,023, for which the rule gives no outcome, is read as
1,023 (log 125). -/
def checkpointList (s : State) (p a : Nat) : List (Nat × Nat × Nat) :=
  let n := min 1023 (dw (outerDws s p a 1) 0).toNat
  let ws := outerDws s p (a + 8) (3 * n)
  (List.range n).map fun i => ((dw ws (3 * i)).toNat, (dw ws (3 * i + 1)).toNat, (dw ws (3 * i + 2)).toNat)

/-- The outer physical address of a place, if it is host or tier-2 memory of the partition. -/
def outerAddr (s : State) (p key : Nat) : Option Nat :=
  let a := key % 2 ^ 64
  if key / 2 ^ 64 = 3 then some a
  else if key / 2 ^ 64 = 2 then
    ((t2space s p).find? fun x => decide (x.1 = a / 2 ^ 44 ∧ a % 2 ^ 44 < x.2.2 * 2 ^ 30)).map fun x => x.2.1 * 2 ^ 30 + a % 2 ^ 44
  else none

/-- The device-state area of a checkpoint list: its address, and its bytes (R414). -/
def areaBase (list : Nat) : Nat := list + 24576
def areaBytes : Nat := 2 ^ 29

/-- The offset in an area of a place, if it lies there. -/
def areaOffset (s : State) (p list key : Nat) : Option Nat :=
  (outerAddr s p key).bind fun a =>
    if areaBase list ≤ a ∧ a < areaBase list + areaBytes ∧ outerKey s p a = key then some (a - areaBase list) else none

/-- The area with nothing in it. -/
def clearArea (s : State) (p list : Nat) : State :=
  { s with mem := s.mem.filter (fun c => (areaOffset s p list c.1).isNone), ecc := s.ecc.filter fun e => (areaOffset s p list (4 * e.1)).isNone }

/-- Byte o of the area holds the complement of byte o of the Common image, so that what nothing has written is zero in both; the scheduler's
doublewords begin at 256 MiB (log 82). -/
def schedAt : Nat := 2 ^ 28

/-- Every byte of the listed ranges, as device place and outer place. -/
def listedBytes (s : State) (p list : Nat) : List (Nat × Nat) :=
  (checkpointList s p list).flatMap fun r => (List.range r.2.2).filterMap fun i =>
    (ringKey s p (r.1 + i) 1).map fun k => (k, outerKey s p (r.2.1 + i))

/-- The partition's Common image by window offset: the bytes that differ from what an unwritten one reads as. -/
def commonImage (s : State) (p : Nat) : SMap Byte :=
  (s.mem.filter fun c => c.1 / 2 ^ 64 == 1).filterMap fun c =>
    let a := c.1 % 2 ^ 64
    let i := (partDies s.layout p).findIdx (· == a / 2 ^ 26)
    if i < (partDies s.layout p).length then some (i * 2 ^ 26 + a % 2 ^ 26, c.2) else none

/-- The drove slots that the partition has aboard. -/
def aboard (s : State) (p : Nat) : List DSlot :=
  (partSlots s p).filterMap fun i => let x := s.slot i; if x.state = .live then some x else none

/-- A launch of the job still has work to do. -/
def jobBusy (s : State) (p j : Nat) : Bool :=
  let q := s.part p
  q.launches.any fun x => x.2.job == j &&
    (decide (x.2.stage = .ready ∨ x.2.stage = .placed ∨ x.2.stage = .preempted) || (decide (x.2.stage = .done) && !launchQuiet s p x.1 x.2))

/-- What the device-state area holds for a job. -/
def saveJob (s : State) (p j : Nat) : SavedJob :=
  let q := s.part p
  let mine (b : Block) : Bool := b.opened && b.job == j
  { job := j
    jobBlk := q.blk .job j
    slots := aboard s p
    graphs := (q.graphBlks.filter fun x => mine x.2).map fun x => (x.1, mget 0xFFF q.graphPhase x.1, x.2)
    phases := q.phaseBlks.filter fun x => mine x.2
    nodes := q.nodes.filter fun x => mfind q.nodeJob x.1 == some j
    waiting := (q.launches.filter fun x => x.2.job == j && decide (x.2.stage = .waiting)).map fun x =>
      (x.1, x.2.rcd, x.2.record, q.blk .launch x.1) }

/-- A block as three doublewords: its own two (R40), of which the second carries the lowest failing status of its members in bits 63:32, and
its job with the bit that says it has been opened. -/
def Block.dws (b : Block) : List Word :=
  [b.words.1, b.words.2 ||| BitVec.ofNat 64 (b.worst * 2 ^ 32), BitVec.ofNat 64 (b.job + if b.opened then 2 ^ 32 else 0)]

/-- The block that three doublewords describe. -/
def blockOf (ws : List Word) : Block :=
  let bit (n : Nat) : Bool := fld (dw ws 0) n n == 1
  { out := fld (dw ws 0) 31 0, closed := bit 32, done := bit 33, canc := bit 34, errcnt := fld (dw ws 1) 31 0, status := fld (dw ws 0) 43 36,
    job := fld (dw ws 2) 31 0, opened := fld (dw ws 2) 32 32 == 1, worst := fld (dw ws 1) 63 32 }

/-- The mark that a written area begins with. -/
def areaMark : Word := 0x5341564544

/-- A saved job as doublewords: the mark, the job and the counts of its lists, then the job's block and the lists, each entry of a fixed length. -/
def SavedJob.dws (x : SavedJob) : List Word :=
  let n (i : Nat) : Word := BitVec.ofNat 64 i
  [areaMark, n x.job, n x.slots.length, n x.graphs.length, n x.phases.length, n x.nodes.length, n x.waiting.length] ++ x.jobBlk.dws ++
  x.slots.flatMap (fun y => n (y.key.toNat + if y.soft then 2 ^ 32 else 0) :: (List.range 7).map fun i => y.words.getD i 0) ++
  x.graphs.flatMap (fun y => n y.1 :: n y.2.1 :: y.2.2.dws) ++ x.phases.flatMap (fun y => n y.1 :: y.2.dws) ++
  x.nodes.flatMap (fun y => [n y.1, BitVec.ofInt 64 y.2]) ++
  x.waiting.flatMap fun y => n y.1 :: n y.2.1 :: ((List.range 16).map fun i => y.2.2.1.getD i 0) ++ y.2.2.2.dws

/-- The saved job that doublewords describe, by number; none without the mark. -/
def savedOf (w : Nat → Word) : Option SavedJob :=
  if w 0 ≠ areaMark then none
  else
    let n (i : Nat) : Nat := (w i).toNat
    let rows (at_ count size : Nat) : List (List Word) := (List.range count).map fun i => (span (at_ + size * i) size).map w
    let a := 10 + 8 * n 2
    let b := a + 5 * n 3
    let c := b + 4 * n 4
    let d := c + 2 * n 5
    let num (r : List Word) (i : Nat) : Nat := (dw r i).toNat
    some {
      job := n 1, jobBlk := blockOf [w 7, w 8, w 9]
      slots := (rows 10 (n 2) 8).map fun r =>
        { soft := fld (dw r 0) 32 32 == 1, state := .live, key := BitVec.ofNat 32 (fld (dw r 0) 31 0), hold := 0, words := r.drop 1 }
      graphs := (rows a (n 3) 5).map fun r => (num r 0, num r 1, blockOf (r.drop 2))
      phases := (rows b (n 4) 4).map fun r => (num r 0, blockOf (r.drop 1))
      nodes := (rows c (n 5) 2).map fun r => (num r 0, (dw r 1).toInt)
      waiting := (rows d (n 6) 21).map fun r => (num r 0, num r 1, (r.drop 2).take 16, blockOf (r.drop 18)) }

/-- Writes the device-state area (R415 step 3). -/
def writeArea (s : State) (p list : Nat) (im : SMap Byte) (ws : List Word) : State :=
  let t := im.foldl (fun t x => t.setByte (outerKey s p (areaBase list + x.1)) (~~~x.2)) (clearArea s p list)
  (ws.flatMap fun w => leBytes 8 w.toNat).zipIdx.foldl (fun t x => t.setByte (outerKey s p (areaBase list + schedAt + x.2)) x.1) t

/-- The Common image that an area holds, by window offset. -/
def areaImage (s : State) (p list : Nat) : SMap Byte :=
  s.mem.filterMap fun c => ((areaOffset s p list c.1).filter fun o => decide (o < commonSize s p)).map fun o => (o, ~~~c.2)

/-- The saved job that an area holds. -/
def areaJob (s : State) (p list : Nat) : Option SavedJob :=
  savedOf fun i => dw (outerDws s p (areaBase list + schedAt + 8 * i) 1) 0

/-- A phase-stop write's fields (R414). -/
def psWord (v : Word) : Nat × Nat := (fld v 11 0, fld v 63 13 * 8192)

/-- The job of a phase-stop write is in the job table, and no stop is in progress. -/
def psAllowed (s : State) (p : Nat) (v : Word) : Bool :=
  let q := s.part p
  !q.psBusy && (mfind q.jobs (psWord v).1).isSome && decide ((psWord v).1 < share s 4096)

/-- PHASE_STOP (R414, R415): acceptance for the job ends, and it drains. -/
def execPhaseStop (p : Nat) (v : Word) (s : State) : Host.Outcome State Fault Refusal :=
  let q := s.part p
  let w := psWord v
  event s (windowUp s p && fld v 12 12 == 0)
    (if psAllowed s p v then
      s.setPart p { q with psres := 1, psBusy := true, psJob := w.1, psList := w.2,
                           jobs := mupd Job.reset q.jobs w.1 fun x => { x with stopped := true } }
     else s.setPart p { q with psres := 4 })

/-- The device-state area and the listed ranges of partition p's stopped job are written (R415 step 3). -/
def phaseWritten (s : State) (p : Nat) : State :=
  let q := s.part p
  (listedBytes s p q.psList).foldl (fun t x => t.setByte x.2 (s.byte x.1)) (writeArea s p q.psList (commonImage s p) (saveJob s p q.psJob).dws)

/-- PHASE_STOP_WRITE (R415 steps 3 and 4): once the job has drained, PSRES shows that the device writes; then the area and the listed ranges
are written, and the stop is done. -/
def execPhaseStopWrite (p : Nat) (s : State) : Host.Outcome State Fault Refusal :=
  let q := s.part p
  event s (q.psBusy && !jobBusy s p q.psJob)
    (if q.psres = 2 then (phaseWritten s p).updPart p fun q => { q with psres := 3, psBusy := false } else s.updPart p fun q => { q with psres := 2 })

/-- The Common window takes a saved image. -/
def restoreCommon (s : State) (p : Nat) (im : SMap Byte) : State :=
  let now := (commonImage s p).foldl (fun t x => t.setByte (commonKey s p x.1) (unlisted (commonKey s p x.1))) s
  im.foldl (fun t x => t.setByte (commonKey s p x.1) x.2) now

/-- Saved slots come aboard at the partition's EMPTY positions, or replace what their key names. -/
def restoreSlots (s : State) (p : Nat) (xs : List DSlot) : State :=
  xs.foldl (fun s x =>
    match slotOf s p x.key with
    | some i => s.setSlot i { x with hold := 0 }
    | none =>
      match (partSlots s p).find? fun i => decide ((s.slot i).state = .empty) with
      | some i => s.setSlot i { x with hold := 0 }
      | none => s) s

/-- A waiting launch is accepted again from its record, whose tables are read again: in its own block where that is free, else in the next
(R38). -/
def restoreWaiting (s : State) (p : Nat) (q : Part) (x : Nat × Nat × List Word × Block) : Part :=
  let b := if blockFree q x.1 then some x.1 else nextBlock s q
  match b with
  | none => q
  | some b =>
    let l := launchOf (readTables s p x.2.2.1) x.2.1 q.accepts q.tags .waiting
    let q := q.setBlk .launch b x.2.2.2
    nodeReady { q with launches := mput q.launches b l, accepts := q.accepts + 1, tags := q.tags + 1, owners := mput q.owners b l.rcd,
                       errs := mdel q.errs b } l.node

/-- The scheduler's tables take a saved job. -/
def restoreJob (s : State) (p : Nat) (q : Part) (x : SavedJob) : Part :=
  let q := x.graphs.foldl (fun q g => { q.setBlk .graph g.1 g.2.2 with graphPhase := mput q.graphPhase g.1 g.2.1 }) q
  let q := x.phases.foldl (fun q g => q.setBlk .phase g.1 g.2) q
  let q := q.setBlk .job x.job x.jobBlk
  let q := x.nodes.foldl (fun q n => { q with nodes := mset 0 q.nodes n.1 n.2, nodeJob := mput q.nodeJob n.1 x.job }) q
  let q := x.waiting.foldl (restoreWaiting s p) q
  { q with jobs := mupd Job.reset q.jobs x.job fun y => { y with stopped := false } }

/-- PHASE_RESTORE (R415). -/
def execPhaseRestore (p : Nat) (v : Word) (s : State) : Host.Outcome State Fault Refusal :=
  let q := s.part p
  let w := psWord v
  let placed := q.launches.any fun x => decide (x.2.stage = .placed)
  event s (windowUp s p && fld v 12 12 == 1)
    (match if psAllowed s p v && !placed then areaJob s p w.2 else none with
     | some x =>
       if x.job = w.1 then
         let s1 := restoreSlots (restoreCommon s p (areaImage s p w.2)) p x.slots
         let s2 := (listedBytes s p w.2).foldl (fun t y => t.setByte y.1 (s.byte y.2)) s1
         releaseReady (s2.updPart p fun q => { restoreJob s2 p q x with psres := 3 }) p
       else s.setPart p { q with psres := 4 }
     | none => s.setPart p { q with psres := 4 })

end Sys2Proof.Machine
end

