-- ==== Sys2Proof/Machine/Fabric.lean ====
section
/-! DEFINITION. Link errors and down links (20 R399 to R402, R388), and what the host and other devices do to device memory (13 R335, R336). -/

namespace Sys2Proof.Machine

/-! ## Links -/

/-- The partition whose FEVT records the link's events: of its port's die, or of its fold. -/
def linkPart (s : State) (k : Nat) : Nat :=
  if k < 36 then ((List.range (nparts s.layout)).find? fun p => (partDies s.layout p).contains (k / 9)).getD 0
  else partOfFold s ((k - 36) / 6)

/-- A fabric event raises its bit and MSI-X vector 1 (R401). -/
def raiseFevt (s : State) (p bit : Nat) : State :=
  let s := s.updPart p fun q => { q with fevt := putFld q.fevt bit bit 1 }
  { s with msix := s.msix ++ [(p, 1)] }

/-- A field of a port's LINKST; mesh links have none. -/
def setPort (s : State) (k hi lo v : Nat) : State :=
  if k < 36 then { s with ports := mset 0 s.ports k (putFld (mget 0 s.ports k) hi lo v) } else s

/-- LINK_CRC_ERROR (R399, R400): the flit is sent again from the replay buffer. `again`: it is the flit whose replay failed last, so that its
replays add up; another flit's error means that the one before has passed. -/
def execLinkCrcError (e : FlitError) (s : State) : Host.Outcome State Fault Refusal :=
  let k := e.link
  let s1 := setPort s k 39 24 (min 65535 (fld (mget 0 s.ports k) 39 24 + 1))
  event s (s.powered && linkUp s k && decide (mget 0 s.replays k < 8))
    { s1 with replays := mset 0 s1.replays k (if e.again then mget 0 s1.replays k + 1 else 1) }

/-- LINK_RETRAIN with the lanes that are good of four (R399): full width, half width, or down. RETRAIN and REPLAY stay (R400). -/
def execLinkRetrain (k good : Nat) (s : State) : Host.Outcome State Fault Refusal :=
  let p := linkPart s k
  let s1 := setPort { s with replays := mset 0 s.replays k 0 } k 23 16 (min 255 (fld (mget 0 s.ports k) 23 16 + 1))
  let s2 :=
    if 4 ≤ good then setPort s1 k 1 1 0
    else if 2 ≤ good then raiseFevt (setPort s1 k 1 1 1) p 0
    else
      let s2 := setPort (setPort s1 k 1 1 0) k 0 0 0
      raiseFevt { s2 with downLinks := mput s2.downLinks k false, downSince := mput s2.downSince k s2.clk } p 1
  event s (linkUp s k && decide (8 ≤ mget 0 s.replays k)) s2

/-- LINK_RETURN (R402): the packets that waited go on. -/
def execLinkReturn (k : Nat) (s : State) : Host.Outcome State Fault Refusal :=
  let s1 := setPort s k 0 0 1
  event s (s.down k) { s1 with downLinks := mdel s1.downLinks k, downSince := mdel s1.downSince k, linkWaits := s1.linkWaits.filter fun w => w.link != k }

/-! ## Down links (R402) -/

/-- The down link that holds a packet between two folds is k. -/
def heldBy (s : State) (k f g : Nat) : Bool := downOn s f g false == some k

/-- A request of core c to a place waits at link k. -/
def placeHeld (s : State) (k c i key : Nat) : Bool := s.heldAt c key (s.escaped c i) == some k

/-- The places that an access of core c to some ranges goes to, by 256-byte granule: that of the access itself, or, where no translation is
known, those of the page walk that it needs. -/
def rangePlaces (s : State) (c : Nat) (tr : SMap Nat) (rs : List Span) : List Nat :=
  let p := corePart s c
  let job := (s.core c).job s
  rs.flatMap fun r => (List.range ((r.2 + 511) / 256)).flatMap fun j =>
    let v := min (r.1 + 256 * j) (r.1 + r.2 - 1)
    let known : SMap Nat := if windowOf v = .global ∧ (mfind tr (pageOf v)).isNone then
        (match tlbFind (s.core c).tlb job v with
          | some e => [(pageOf v, e.key + (pageOf v * 2 ^ 16 - e.base))]
          | none => [])
      else tr
    if windowOf v = .global ∧ (mfind known (pageOf v)).isNone then walkKeys s p job v else (placeOf s c known v).toList

/-- Places of an engine entry. -/
def entryPlaces (s : State) (c : Nat) (e : QEntry) : List Nat :=
  match e with
  | .matrix m => rangePlaces s c m.tr (match m.op with
    | .mmaStreamed _ p => streamedSpans m.tshA p
    | _ => m.spans)
  | .copy m => rangePlaces s c m.tr (m.spans ++ m.scattered s c)

/-- The requests of core c beside its loads, with the places that each goes to: the oldest buffered store, the walk and the fetch that its
packet waits for, the heads of its queues, and the next elements of its streams (R388, R402). -/
def requests (s : State) (c : Nat) : List (Nat × List Nat) :=
  let k := s.core c
  [(reqStore, (k.stores.head?.map (·.key)).toList),
   (reqWalk, (k.walkWait.map fun v => walkKeys s (corePart s c) (k.job s) v).getD []),
   (reqFetch, ((neededLine s c).map fun a => rangePlaces s c [] [(a, 64)]).getD [])] ++
  k.queues.map (fun q => (reqQueue q.1, (q.2.entries.head?.map (entryPlaces s c)).getD [])) ++
  k.streams.map fun x =>
    let t := x.2
    let busy := if t.writes then !t.ring.isEmpty else fillDue s c t
    (reqStream x.1, if busy then rangePlaces s c [] [t.elemSpanOf t.moved] else [])

/-- A load of core c waits at link k. -/
def loadHeld (s : State) (k c : Nat) (l : Load) : Bool := s.heldAt c l.key l.moved == some k

/-- A packet of core c waits at link k: a request of its own, an MXCMD or its answer, an event message, or what the network interface sends. -/
def coreHeld (s : State) (k c : Nat) : Bool :=
  let v := s.core c
  let l := v.launchOf s
  let p := corePart s c
  let toward (i : Nat) : Bool := (l.map fun l => heldBy s k (foldOf c) (foldOf (launchCore s p l i))).getD false
  v.loads.any (loadHeld s k c) || (requests s c).any (fun r => r.2.any (placeHeld s k c r.1)) ||
  (match v.wait with
    | some (.mxcmd _ t ..) => heldBy s k (foldOf c) (mxcmdFold s c t)
    | some (.evsig f) => heldBy s k (foldOf c) f
    | _ => false) ||
  v.sends.any (fun m => toward m.core) || v.pieces.any (fun m => toward m.peer) || v.xfers.any fun x => toward x.dst

/-- A virtual stream of a partition is routed over link k: by a router's entry, or through a port to another rank's device. -/
def streamHeld (s : State) (k : Nat) (x : VStream) : Bool :=
  !x.aborted && (
    x.exits.any (fun y => (nextRouter y.1 y.2).isSome && linkOf y.1 y.2 == k) ||
    (decide (k < 36) && (List.range x.nrank).any fun q => x.dev q != s.nv.dev && x.dev q == fld (mget 0 s.ports k) 63 56))

/-- Launch blocks of partition p that have not ended and that link k stops: with a packet waiting, with a collective over it, with a schedule
over it. -/
def launchesHeld (s : State) (k p : Nat) : List Nat :=
  ((s.part p).launches.filter fun x =>
    let l := x.2
    !((s.part p).blk .launch x.1).done && (
      l.setup.any (fun lc =>
        let c := devCore s p lc
        (((s.core c).occ.map fun o => o.part == p && o.blk == x.1).getD false || (s.core c).sends.any fun m => m.part == p && m.blk == x.1) &&
          coreHeld s k c) ||
      (s.part p).streams.any (fun y => streamHeld s k y.2 && y.2.ranks.any fun r => r.blk == x.1 && !r.closed) ||
      (l.det && (List.range l.nss).any fun i => (schedEntries l.sched l.nss i).any fun e =>
        (fixedLinks (foldOf (launchCore s p l e.src)) (foldOf (launchCore s p l e.dst))).contains k))).map (·.1)

/-- A packet waits at link k. -/
def linkWaited (s : State) (k : Nat) : Bool :=
  s.cores.any (fun x => coreHeld s k x.1) || s.parts.any fun q => q.2.streams.any fun y => streamHeld s k y.2

/-- The wait at link k is over (R402): packets are discarded, launches cancelled, and FEVT.DOWN raised. -/
def linkGone (s : State) (k : Nat) : State :=
  let ps := List.range (nparts s.layout)
  let gone := ps.map fun p => (p, launchesHeld s k p)
  let drop (x : Nat × Core) : Nat × Core :=
    let kept (q : Nat × EQueue) : Nat × EQueue :=
      (q.1, { q.2 with entries := q.2.entries.filter fun e => !(entryPlaces s x.1 e).any (placeHeld s k x.1 (reqQueue q.1)) })
    (x.1, { x.2 with
      stores := x.2.stores.filter (fun b => !placeHeld s k x.1 reqStore b.key), loads := x.2.loads.filter (fun l => !loadHeld s k x.1 l)
      queues := x.2.queues.map kept })
  let s1 := { s with cores := s.cores.map drop, downLinks := mput s.downLinks k true, linkWaits := s.linkWaits.filter fun w => w.link != k }
  let s2 := gone.foldl (fun s y => y.2.foldl (fun s b => cancelForLink s y.1 b) s) s1
  raiseFevt s2 (linkPart s k) 1

/-- DOWN_LINK_TIMEOUT (R402): the first one after a packet begins to wait starts the 2,000,000 clk; the next ends them. -/
def execDownLinkTimeout (k : Nat) (s : State) : Host.Outcome State Fault Refusal :=
  match mfind s.downLinks k with
  | none => event s false s
  | some ended =>
    match s.linkWaits.find? fun w => w.link == k with
    | some w => event s (decide (w.since + 2000000 ≤ s.clk)) (linkGone s k)
    | none => event s (linkWaited s k) (if ended then linkGone s k else { s with linkWaits := s.linkWaits ++ [{ link := k, since := s.clk }] })

/-- ESCAPE_MOVE of request i of core c (R388): the outstanding loads and AMOs come first, then `requests`. A request whose next hop has been
blocked for 64 clk leaves the fixed route for good, and so does its answer; a load has itself been under way for as long, and of another
request the link's time down counts (log 94). Requests of a deterministic launch keep the fixed route (R20). -/
def execEscapeMove (c i : Nat) (s : State) : Host.Outcome State Fault Refusal :=
  let ls := (s.core c).loads
  let moves (key : Nat) (m : Bool × Bool) : Option (Bool × Bool) := escapes s (foldOf c) (keyFold s c key) m
  let next : Option State :=
    match ls[i]? with
    | some l => (moves l.key l.moved).bind fun m =>
        if l.since + 64 ≤ s.clk then some (s.updCore c fun k => { k with loads := k.loads.set i { l with escape := m.1, back := m.2 } }) else none
    | none => ((requests s c)[i - ls.length]?).bind fun r => (r.2.findSome? fun key => moves key (s.escaped c r.1)).map fun m =>
        s.updCore c fun k => { k with escapes := (if m.1 then [2 * r.1] else []) ++ (if m.2 then [2 * r.1 + 1] else []) ++ k.escapes.filter (· / 2 != r.1) }
  match next with
  | some t => event s (!fixedOnly s c) t
  | none => event s false s

/-! ## Requests from outside -/

/-- HOST_MEMORY_WRITE (R335): bytes at a device address, the Common window or HBM untranslated. -/
def execHostMemoryWrite (p a : Nat) (data : List Byte) (s : State) : Host.Outcome State Fault Refusal :=
  let put (s : State) (x : Byte × Nat) : State := match ringKey s p (a + x.2) 1 with
    | some k => s.setByte k x.1
    | none => s
  event s (windowUp s p && (ringKey s p a data.length).isSome) (data.zipIdx.foldl put s)

/-- SYSTEM_SCOPE_REQUEST from another device (R336) through a scale-up port of the partition, which a driver has brought up and which is not down
(R399): an AMO by its operation of R291, or with any other code a read, at the home slice's bank, which counts the errors it corrects (R246). -/
def execSystemScopeRequest (w : OuterPort) (a : Nat) (op : BitVec 5) (dbl : Bool) (x cmp : Word) (s : State) :
    Host.Outcome State Fault Refusal :=
  let p := w.part
  let n := if dbl then 8 else 4
  let fp := [1, 6, 7, 8].contains op.toNat
  match ringKey s p a n with
  | some key =>
    let old := leNat (s.bytes key n)
    let s1 := s.countEcc key n
    let s' := if op.toNat ≤ 14 then s1.setBytes key (leBytes n (amoNew op.toNat n old x.toNat cmp.toNat)) else s1
    event s (windowUp s p && (partPorts s p).contains w.port && linkUp s w.port && decide (fld (s.part p).facc 19 16 ≠ 0 ∧ a % n = 0) && !(dbl && fp) &&
      !(s.bad key n)) s'
  | none => event s false s

end Sys2Proof.Machine
end

