-- ==== Sys2Proof/Machine/Scalar.lean ====
section
/-! DEFINITION. The A-slot instructions of the scalar core (06 R140 to R149, 07 R189): arithmetic, comparisons, bits and masks,
shifts, FP32, and scalar conversions. The sources are those before the packet (04 R94). -/

namespace Sys2Proof.Machine

/-! ## Shared forms -/

/-- rd from one register. -/
def alu1 (s : State) (d a : Nat) (f : Word → Word) : Host.Outcome State Fault Refusal :=
  settle s (withRegs s [a] [d] fun s' => setG s' d (f (gval s a)))

/-- rd from two registers. -/
def alu2 (s : State) (d a b : Nat) (f : Word → Word → Word) : Host.Outcome State Fault Refusal :=
  settle s (withRegs s [a, b] [d] fun s' => setG s' d (f (gval s a) (gval s b)))

/-- A group of n registers at a to the group or register at d (R145); `m` is the width of the result in registers. -/
def group1 (s : State) (d a n m : Nat) (f : Nat → Nat) : Host.Outcome State Fault Refusal :=
  settle s (withChecked s (group a n) (group d m) (groupFree s a n *> groupFree s d m) fun s' =>
    setGroup s' d m (f (groupVal s a n)))

/-- A group and a register, or two groups: `k` registers from b. -/
def group2 (s : State) (d a b n k : Nat) (f : Nat → Nat → Nat) : Host.Outcome State Fault Refusal :=
  settle s (withChecked s (group a n ++ group b k) (group d n) (groupFree s a n *> groupFree s b k *> groupFree s d n) fun s' =>
    setGroup s' d n (f (groupVal s a n) (groupVal s b k)))

/-- ORs flags into FPC of the current core (R95, R172). -/
def State.flags (s : State) (fl : Flags) : State := s.updMe fun k => orFlags k fl

/-- An FP32 operation on the low words of its sources, `f` given RM and FTZ: the result zero-extended, flags ORed into FPC (R148). -/
def fpOp (s : State) (d : Nat) (srcs : List Nat) (f : Nat → Bool → List Word32 → Word × Flags) :
    Host.Outcome State Fault Refusal :=
  settle s (withRegs s srcs [d] fun s' => do
    let (w, fl) := f (fpcRm s.pre) (fpcFtz s.pre) (srcs.map fun r => (gval s r).truncate 32)
    (setG s' d w).map fun t => t.flags fl)

/-- An FP32 result beside its flags, as a register holds it (R148). -/
def fpWord (r : Word32 × Flags) : Word × Flags := (r.1.zeroExtend 64, r.2)

/-- A truth value beside its flags. -/
def fpBool (r : Bool × Flags) : Word × Flags := (boolWord r.1, r.2)

/-- The operands of a list by position. -/
def arg (ws : List Word32) (i : Nat) : Word32 := ws.getD i 0

/-! ## IALU (R140) -/

/-- ADD: ra + rb (R140). -/
def execAdd (d a b : BitVec 5) (s : State) : Host.Outcome State Fault Refusal :=
  alu2 s d.toNat a.toNat b.toNat fun x y => x + y

/-- SUB: ra - rb (R140). -/
def execSub (d a b : BitVec 5) (s : State) : Host.Outcome State Fault Refusal :=
  alu2 s d.toNat a.toNat b.toNat fun x y => x - y

/-- AND (R140). -/
def execAnd (d a b : BitVec 5) (s : State) : Host.Outcome State Fault Refusal :=
  alu2 s d.toNat a.toNat b.toNat fun x y => x &&& y

/-- OR (R140). -/
def execOr (d a b : BitVec 5) (s : State) : Host.Outcome State Fault Refusal :=
  alu2 s d.toNat a.toNat b.toNat fun x y => x ||| y

/-- XOR (R140). -/
def execXor (d a b : BitVec 5) (s : State) : Host.Outcome State Fault Refusal :=
  alu2 s d.toNat a.toNat b.toNat fun x y => x ^^^ y

/-- ANDN: ra AND NOT rb (R140). -/
def execAndn (d a b : BitVec 5) (s : State) : Host.Outcome State Fault Refusal :=
  alu2 s d.toNat a.toNat b.toNat fun x y => x &&& ~~~y

/-- MIN, signed (R140). -/
def execMin (d a b : BitVec 5) (s : State) : Host.Outcome State Fault Refusal :=
  alu2 s d.toNat a.toNat b.toNat fun x y => if y.slt x then y else x

/-- MAX, signed (R140). -/
def execMax (d a b : BitVec 5) (s : State) : Host.Outcome State Fault Refusal :=
  alu2 s d.toNat a.toNat b.toNat fun x y => if x.slt y then y else x

/-- MINU, unsigned (R140). -/
def execMinu (d a b : BitVec 5) (s : State) : Host.Outcome State Fault Refusal :=
  alu2 s d.toNat a.toNat b.toNat fun x y => if y.ult x then y else x

/-- MAXU, unsigned (R140). -/
def execMaxu (d a b : BitVec 5) (s : State) : Host.Outcome State Fault Refusal :=
  alu2 s d.toNat a.toNat b.toNat fun x y => if x.ult y then y else x

/-- ADDW: the low word of the sum, sign-extended (R140). -/
def execAddw (d a b : BitVec 5) (s : State) : Host.Outcome State Fault Refusal :=
  alu2 s d.toNat a.toNat b.toNat fun x y => ((x + y).truncate 32 : Word32).signExtend 64

/-- SUBW: the low word of the difference, sign-extended (R140). -/
def execSubw (d a b : BitVec 5) (s : State) : Host.Outcome State Fault Refusal :=
  alu2 s d.toNat a.toNat b.toNat fun x y => ((x - y).truncate 32 : Word32).signExtend 64

/-- ADDS: the signed sum clamped (R140). -/
def execAdds (d a b : BitVec 5) (s : State) : Host.Outcome State Fault Refusal :=
  alu2 s d.toNat a.toNat b.toNat fun x y => clamp64 (x.toInt + y.toInt)

/-- SUBS: the signed difference clamped (R140). -/
def execSubs (d a b : BitVec 5) (s : State) : Host.Outcome State Fault Refusal :=
  alu2 s d.toNat a.toNat b.toNat fun x y => clamp64 (x.toInt - y.toInt)

/-- ABS: the magnitude; of -2^63, 2^63 - 1 (R140). -/
def execAbs (d a : BitVec 5) (s : State) : Host.Outcome State Fault Refusal :=
  alu1 s d.toNat a.toNat fun x => clamp64 x.toInt.natAbs

/-! ## IMUL (R141) -/

/-- MUL: the low half of the product (R141). -/
def execMul (d a b : BitVec 5) (s : State) : Host.Outcome State Fault Refusal :=
  alu2 s d.toNat a.toNat b.toNat fun x y => x * y

/-- MULH: the high half of the signed product (R141). -/
def execMulh (d a b : BitVec 5) (s : State) : Host.Outcome State Fault Refusal :=
  alu2 s d.toNat a.toNat b.toNat fun x y => BitVec.ofInt 64 (x.toInt * y.toInt / (2 ^ 64 : Nat))

/-- MULHU: the high half of the unsigned product (R141). -/
def execMulhu (d a b : BitVec 5) (s : State) : Host.Outcome State Fault Refusal :=
  alu2 s d.toNat a.toNat b.toNat fun x y => BitVec.ofNat 64 (x.toNat * y.toNat / 2 ^ 64)

/-- MULHSU: the high half of ra signed by rb unsigned (R141). -/
def execMulhsu (d a b : BitVec 5) (s : State) : Host.Outcome State Fault Refusal :=
  alu2 s d.toNat a.toNat b.toNat fun x y => BitVec.ofInt 64 (x.toInt * y.toNat / (2 ^ 64 : Nat))

/-- DIV: truncated signed quotient; all ones for a zero divisor (R141). -/
def execDiv (d a b : BitVec 5) (s : State) : Host.Outcome State Fault Refusal :=
  alu2 s d.toNat a.toNat b.toNat fun x y => if y = 0 then BitVec.allOnes 64 else BitVec.ofInt 64 (x.toInt.tdiv y.toInt)

/-- DIVU: unsigned quotient; all ones for a zero divisor (R141). -/
def execDivu (d a b : BitVec 5) (s : State) : Host.Outcome State Fault Refusal :=
  alu2 s d.toNat a.toNat b.toNat fun x y => if y = 0 then BitVec.allOnes 64 else BitVec.ofNat 64 (x.toNat / y.toNat)

/-- REM: remainder with the sign of the dividend; ra for a zero divisor (R141). -/
def execRem (d a b : BitVec 5) (s : State) : Host.Outcome State Fault Refusal :=
  alu2 s d.toNat a.toNat b.toNat fun x y => if y = 0 then x else BitVec.ofInt 64 (x.toInt.tmod y.toInt)

/-- REMU: unsigned remainder; ra for a zero divisor (R141). -/
def execRemu (d a b : BitVec 5) (s : State) : Host.Outcome State Fault Refusal :=
  alu2 s d.toNat a.toNat b.toNat fun x y => if y = 0 then x else BitVec.ofNat 64 (x.toNat % y.toNat)

/-! ## ICMP and CMPI (R142, R144) -/

/-- SEQ (R142). -/
def execSeq (d a b : BitVec 5) (s : State) : Host.Outcome State Fault Refusal :=
  alu2 s d.toNat a.toNat b.toNat fun x y => boolWord (Rel.eq.holds x y)

/-- SNE (R142). -/
def execSne (d a b : BitVec 5) (s : State) : Host.Outcome State Fault Refusal :=
  alu2 s d.toNat a.toNat b.toNat fun x y => boolWord (Rel.ne.holds x y)

/-- SLT (R142). -/
def execSlt (d a b : BitVec 5) (s : State) : Host.Outcome State Fault Refusal :=
  alu2 s d.toNat a.toNat b.toNat fun x y => boolWord (Rel.lt.holds x y)

/-- SGE (R142). -/
def execSge (d a b : BitVec 5) (s : State) : Host.Outcome State Fault Refusal :=
  alu2 s d.toNat a.toNat b.toNat fun x y => boolWord (Rel.ge.holds x y)

/-- SLTU (R142). -/
def execSltu (d a b : BitVec 5) (s : State) : Host.Outcome State Fault Refusal :=
  alu2 s d.toNat a.toNat b.toNat fun x y => boolWord (Rel.ltu.holds x y)

/-- SGEU (R142). -/
def execSgeu (d a b : BitVec 5) (s : State) : Host.Outcome State Fault Refusal :=
  alu2 s d.toNat a.toNat b.toNat fun x y => boolWord (Rel.geu.holds x y)

/-- CMPI: ra against a sign-extended 13-bit immediate; a relation of 6 or 7 traps (R144). -/
def execCmpi (d a : BitVec 5) (r : BitVec 3) (i : BitVec 13) (s : State) : Host.Outcome State Fault Refusal :=
  match relOf r.toNat with
  | none => settle s (.error (trapC cILLEGAL))
  | some r => alu1 s d.toNat a.toNat fun x => boolWord (r.holds x (i.signExtend 64))

/-! ## Immediates (R143) -/

/-- ADDI (R143). -/
def execAddi (d a : BitVec 5) (i : BitVec 16) (s : State) : Host.Outcome State Fault Refusal :=
  alu1 s d.toNat a.toNat fun x => x + i.signExtend 64

/-- ANDI (R143). -/
def execAndi (d a : BitVec 5) (i : BitVec 16) (s : State) : Host.Outcome State Fault Refusal :=
  alu1 s d.toNat a.toNat fun x => x &&& i.signExtend 64

/-- ORI (R143). -/
def execOri (d a : BitVec 5) (i : BitVec 16) (s : State) : Host.Outcome State Fault Refusal :=
  alu1 s d.toNat a.toNat fun x => x ||| i.zeroExtend 64

/-- XORI (R143). -/
def execXori (d a : BitVec 5) (i : BitVec 16) (s : State) : Host.Outcome State Fault Refusal :=
  alu1 s d.toNat a.toNat fun x => x ^^^ i.zeroExtend 64

/-! ## BITS (R146) -/

/-- SLL (R146). -/
def execSll (d a b : BitVec 5) (s : State) : Host.Outcome State Fault Refusal :=
  alu2 s d.toNat a.toNat b.toNat fun x y => x <<< (y.toNat % 64)

/-- SRL (R146). -/
def execSrl (d a b : BitVec 5) (s : State) : Host.Outcome State Fault Refusal :=
  alu2 s d.toNat a.toNat b.toNat fun x y => x >>> (y.toNat % 64)

/-- SRA (R146). -/
def execSra (d a b : BitVec 5) (s : State) : Host.Outcome State Fault Refusal :=
  alu2 s d.toNat a.toNat b.toNat fun x y => x.sshiftRight (y.toNat % 64)

/-- ROL (R146). -/
def execRol (d a b : BitVec 5) (s : State) : Host.Outcome State Fault Refusal :=
  alu2 s d.toNat a.toNat b.toNat fun x y => x.rotateLeft (y.toNat % 64)

/-- ROR (R146). -/
def execRor (d a b : BitVec 5) (s : State) : Host.Outcome State Fault Refusal :=
  alu2 s d.toNat a.toNat b.toNat fun x y => x.rotateRight (y.toNat % 64)

/-- The number of set bits among the n low bits. -/
def popCount (n v : Nat) : Nat := ((List.range n).filter fun i => v.testBit i).length

/-- The index of the lowest set bit among n; n if there is none. -/
def lowBit (n v : Nat) : Nat := ((List.range n).find? fun i => v.testBit i).getD n

/-- POPC: set bits of a group, into one register (R146). -/
def execPopc (d a : BitVec 5) (n : BitVec 2) (s : State) : Host.Outcome State Fault Refusal :=
  group1 s d.toNat a.toNat (n.toNat + 1) 1 (popCount (64 * (n.toNat + 1)))

/-- CLZ: leading zeros (R146). -/
def execClz (d a : BitVec 5) (s : State) : Host.Outcome State Fault Refusal :=
  alu1 s d.toNat a.toNat fun x => if x = 0 then 64 else BitVec.ofNat 64 (63 - Nat.log2 x.toNat)

/-- CTZ: the lowest set bit of a group, into one register (R146). -/
def execCtz (d a : BitVec 5) (n : BitVec 2) (s : State) : Host.Outcome State Fault Refusal :=
  group1 s d.toNat a.toNat (n.toNat + 1) 1 (lowBit (64 * (n.toNat + 1)))

/-- BREV: bit i to bit 63 - i (R146). -/
def execBrev (d a : BitVec 5) (s : State) : Host.Outcome State Fault Refusal :=
  alu1 s d.toNat a.toNat fun x => x.reverse

/-- BSWAP: byte j to byte 7 - j (R146). -/
def execBswap (d a : BitVec 5) (s : State) : Host.Outcome State Fault Refusal :=
  alu1 s d.toNat a.toNat fun x =>
    BitVec.ofNat 64 ((List.range 8).foldl (fun v j => v + x.toNat / 2 ^ (8 * j) % 256 * 2 ^ (8 * (7 - j))) 0)

/-- The field of EXTU and EXTS: its value and its width (R146). -/
def bitField (x y : Word) : Nat × Nat :=
  let len := y.toNat / 2 ^ 8 % 64 + 1
  (x.toNat / 2 ^ (y.toNat % 64) % 2 ^ len, len)

/-- EXTU (R146). -/
def execExtu (d a b : BitVec 5) (s : State) : Host.Outcome State Fault Refusal :=
  alu2 s d.toNat a.toNat b.toNat fun x y => BitVec.ofNat 64 (bitField x y).1

/-- EXTS (R146). -/
def execExts (d a b : BitVec 5) (s : State) : Host.Outcome State Fault Refusal :=
  alu2 s d.toNat a.toNat b.toNat fun x y => BitVec.ofInt 64 (sgn (bitField x y).2 (bitField x y).1)

/-- A group of n registers shifted left, 0 from 64 n on (R146). -/
def groupShl (n v k : Nat) : Nat := if 64 * n ≤ k then 0 else v * 2 ^ k % 2 ^ (64 * n)

/-- A group of n registers shifted right, 0 from 64 n on (R146). -/
def groupShr (n v k : Nat) : Nat := if 64 * n ≤ k then 0 else v / 2 ^ k

/-- MSHL (R146). -/
def execMshl (d a b : BitVec 5) (n : BitVec 2) (s : State) : Host.Outcome State Fault Refusal :=
  group2 s d.toNat a.toNat b.toNat (n.toNat + 1) 1 (groupShl (n.toNat + 1))

/-- MSHR (R146). -/
def execMshr (d a b : BitVec 5) (n : BitVec 2) (s : State) : Host.Outcome State Fault Refusal :=
  group2 s d.toNat a.toNat b.toNat (n.toNat + 1) 1 (groupShr (n.toNat + 1))

/-- MAND (R146). -/
def execMand (d a b : BitVec 5) (n : BitVec 2) (s : State) : Host.Outcome State Fault Refusal :=
  group2 s d.toNat a.toNat b.toNat (n.toNat + 1) (n.toNat + 1) fun x y => x &&& y

/-- MOR (R146). -/
def execMor (d a b : BitVec 5) (n : BitVec 2) (s : State) : Host.Outcome State Fault Refusal :=
  group2 s d.toNat a.toNat b.toNat (n.toNat + 1) (n.toNat + 1) fun x y => x ||| y

/-- MXOR (R146). -/
def execMxor (d a b : BitVec 5) (n : BitVec 2) (s : State) : Host.Outcome State Fault Refusal :=
  group2 s d.toNat a.toNat b.toNat (n.toNat + 1) (n.toNat + 1) fun x y => x ^^^ y

/-! ## SHI (R147) -/

/-- SLLI: a constant shift of a group; for one register an amount above 63 traps (R147). -/
def execSlli (d a : BitVec 5) (n : BitVec 2) (k : BitVec 8) (s : State) : Host.Outcome State Fault Refusal :=
  if n = 0 ∧ 63 < k.toNat then settle s (.error (trapC cILLEGAL))
  else group1 s d.toNat a.toNat (n.toNat + 1) (n.toNat + 1) fun x => groupShl (n.toNat + 1) x k.toNat

/-- SRLI: a constant shift of a group; for one register an amount above 63 traps (R147). -/
def execSrli (d a : BitVec 5) (n : BitVec 2) (k : BitVec 8) (s : State) : Host.Outcome State Fault Refusal :=
  if n = 0 ∧ 63 < k.toNat then settle s (.error (trapC cILLEGAL))
  else group1 s d.toNat a.toNat (n.toNat + 1) (n.toNat + 1) fun x => groupShr (n.toNat + 1) x k.toNat

/-- SRAI (R147). -/
def execSrai (d a : BitVec 5) (k : BitVec 8) (s : State) : Host.Outcome State Fault Refusal :=
  if 63 < k.toNat then settle s (.error (trapC cILLEGAL)) else alu1 s d.toNat a.toNat fun x => x.sshiftRight k.toNat

/-- ROLI (R147). -/
def execRoli (d a : BitVec 5) (k : BitVec 8) (s : State) : Host.Outcome State Fault Refusal :=
  if 63 < k.toNat then settle s (.error (trapC cILLEGAL)) else alu1 s d.toNat a.toNat fun x => x.rotateLeft k.toNat

/-- RORI (R147). -/
def execRori (d a : BitVec 5) (k : BitVec 8) (s : State) : Host.Outcome State Fault Refusal :=
  if 63 < k.toNat then settle s (.error (trapC cILLEGAL)) else alu1 s d.toNat a.toNat fun x => x.rotateRight k.toNat

/-! ## FP32 (R148, R149) -/

/-- FADD (R148, R149). -/
def execFadd (d a b : BitVec 5) (s : State) : Host.Outcome State Fault Refusal :=
  fpOp s d.toNat [a.toNat, b.toNat] fun rm ftz x => fpWord (fadd32 rm ftz (arg x 0) (arg x 1))

/-- FSUB (R148, R149). -/
def execFsub (d a b : BitVec 5) (s : State) : Host.Outcome State Fault Refusal :=
  fpOp s d.toNat [a.toNat, b.toNat] fun rm ftz x => fpWord (fsub32 rm ftz (arg x 0) (arg x 1))

/-- FMUL (R148, R149). -/
def execFmul (d a b : BitVec 5) (s : State) : Host.Outcome State Fault Refusal :=
  fpOp s d.toNat [a.toNat, b.toNat] fun rm ftz x => fpWord (fmul32 rm ftz (arg x 0) (arg x 1))

/-- FDIV (R148, R149). -/
def execFdiv (d a b : BitVec 5) (s : State) : Host.Outcome State Fault Refusal :=
  fpOp s d.toNat [a.toNat, b.toNat] fun rm ftz x => fpWord (fdiv32 rm ftz (arg x 0) (arg x 1))

/-- FSQRT (R148, R149). -/
def execFsqrt (d a : BitVec 5) (s : State) : Host.Outcome State Fault Refusal :=
  fpOp s d.toNat [a.toNat] fun rm ftz x => fpWord (fsqrt32 rm ftz (arg x 0))

/-- FMAC: rd + ra × rb (R148, R149). -/
def execFmac (d a b : BitVec 5) (s : State) : Host.Outcome State Fault Refusal :=
  fpOp s d.toNat [a.toNat, b.toNat, d.toNat] fun rm ftz x => fpWord (ffma32 rm ftz (arg x 0) (arg x 1) (arg x 2))

/-- FMIN (R148, R149). -/
def execFmin (d a b : BitVec 5) (s : State) : Host.Outcome State Fault Refusal :=
  fpOp s d.toNat [a.toNat, b.toNat] fun _ ftz x => fpWord (fminmax32 false ftz (arg x 0) (arg x 1))

/-- FMAX (R148, R149). -/
def execFmax (d a b : BitVec 5) (s : State) : Host.Outcome State Fault Refusal :=
  fpOp s d.toNat [a.toNat, b.toNat] fun _ ftz x => fpWord (fminmax32 true ftz (arg x 0) (arg x 1))

/-- FABS (R148, R149). -/
def execFabs (d a : BitVec 5) (s : State) : Host.Outcome State Fault Refusal :=
  fpOp s d.toNat [a.toNat] fun _ _ x => fpWord (arg x 0 &&& 0x7FFFFFFF, 0)

/-- FNEG (R148, R149). -/
def execFneg (d a : BitVec 5) (s : State) : Host.Outcome State Fault Refusal :=
  fpOp s d.toNat [a.toNat] fun _ _ x => fpWord (fneg32 (arg x 0), 0)

/-- FEQ (R148, R149). -/
def execFeq (d a b : BitVec 5) (s : State) : Host.Outcome State Fault Refusal :=
  fpOp s d.toNat [a.toNat, b.toNat] fun _ ftz x => fpBool (feq32 ftz (arg x 0) (arg x 1))

/-- FLT (R148, R149). -/
def execFlt (d a b : BitVec 5) (s : State) : Host.Outcome State Fault Refusal :=
  fpOp s d.toNat [a.toNat, b.toNat] fun _ ftz x => fpBool (flt32 false ftz (arg x 0) (arg x 1))

/-- FLE (R148, R149). -/
def execFle (d a b : BitVec 5) (s : State) : Host.Outcome State Fault Refusal :=
  fpOp s d.toNat [a.toNat, b.toNat] fun _ ftz x => fpBool (flt32 true ftz (arg x 0) (arg x 1))

/-- FCLASS (R148, R149). -/
def execFclass (d a : BitVec 5) (s : State) : Host.Outcome State Fault Refusal :=
  fpOp s d.toNat [a.toNat] fun _ _ x => (BitVec.ofNat 64 (2 ^ fclass32 (arg x 0)), 0)

/-! ## Conversions (R189) -/

/-- FCVT of one FP32 value (R173, R174): a float code zero-extended, an integer sign-extended. -/
def narrowF (fc rm : Nat) (sat ftz : Bool) (w : Word32) : Word × Flags :=
  if fcInt fc then
    let (x, fl) := toInt rm (intLo fc) (intHi fc) (f32 ftz w)
    (BitVec.ofInt 64 x, fl)
  else
    let (c, fl) := encodeFloat fc rm sat ftz w
    (BitVec.ofNat 64 c, fl)

/-- FEXT of the low bits of a register (R175): floats exactly, integers through INT32 by RM. -/
def widenF (fc rm : Nat) (ftz : Bool) (x : Nat) : Word32 × Flags :=
  let c := x % 2 ^ fcBits fc
  if fcInt fc then ofInt rm (widenInt fc c).toInt else decodeFloat fc ftz c

/-- A scalar conversion (R189): ILLEGAL for a format or rounding that it does not allow. -/
def cvtOp (s : State) (d a : Nat) (ok : Bool) (f : Word → Word × Flags) : Host.Outcome State Fault Refusal :=
  settle s (do
    need ok (trapC cILLEGAL)
    withRegs s [a] [d] fun s' => do
      let (w, fl) := f (gval s a)
      (setG s' d w).map fun t => t.flags fl)

/-- FCVT (R189). -/
def execFcvt (d a c : BitVec 5) (r : BitVec 3) (s : State) : Host.Outcome State Fault Refusal :=
  cvtOp s d.toNat a.toNat (scalarFc c.toNat && decide (r.toNat ≤ 4)) fun x =>
    narrowF c.toNat (rmField s.pre r.toNat) (fpcSat s.pre) (fpcFtz s.pre) (x.truncate 32)

/-- FEXT (R189). -/
def execFext (d a c : BitVec 5) (r : BitVec 3) (s : State) : Host.Outcome State Fault Refusal :=
  cvtOp s d.toNat a.toNat (scalarFc c.toNat && decide (r.toNat ≤ 4)) fun x =>
    fpWord (widenF c.toNat (rmField s.pre r.toNat) (fpcFtz s.pre) x.toNat)

/-- FTOI (R189). -/
def execFtoi (d a : BitVec 5) (r : BitVec 3) (s : State) : Host.Outcome State Fault Refusal :=
  cvtOp s d.toNat a.toNat (decide (r.toNat ≤ 4)) fun x =>
    let (v, fl) := toInt (rmField s.pre r.toNat) (-(2 ^ 63)) (2 ^ 63 - 1) (f32 (fpcFtz s.pre) (x.truncate 32))
    (BitVec.ofInt 64 v, fl)

/-- FTOU (R189). -/
def execFtou (d a : BitVec 5) (r : BitVec 3) (s : State) : Host.Outcome State Fault Refusal :=
  cvtOp s d.toNat a.toNat (decide (r.toNat ≤ 4)) fun x =>
    let (v, fl) := toInt (rmField s.pre r.toNat) 0 (2 ^ 64 - 1) (f32 (fpcFtz s.pre) (x.truncate 32))
    (BitVec.ofInt 64 v, fl)

/-- ITOF (R189). -/
def execItof (d a : BitVec 5) (r : BitVec 3) (s : State) : Host.Outcome State Fault Refusal :=
  cvtOp s d.toNat a.toNat (decide (r.toNat ≤ 4)) fun x => fpWord (ofInt (rmField s.pre r.toNat) x.toInt)

/-- UTOF (R189). -/
def execUtof (d a : BitVec 5) (r : BitVec 3) (s : State) : Host.Outcome State Fault Refusal :=
  cvtOp s d.toNat a.toNat (decide (r.toNat ≤ 4)) fun x => fpWord (ofInt (rmField s.pre r.toNat) x.toNat)

/-- A-slot NOP changes nothing (R108). -/
def execNopASlot (s : State) : Host.Outcome State Fault Refusal := settle s (.ok s)

end Sys2Proof.Machine
end

