-- ==== Sys2Proof/Machine/Steading.lean ====
section
/-! DEFINITION. The Steading (20 R406 to R413, 01 R25, R26): start-up, the image source, attestation, the partition layout, wear, loss of
power; and the registers of the window that have no behaviour of their own (00 R10). -/

namespace Sys2Proof.Machine

/-! ## Power -/

/-- Clk in a millisecond (log 4). -/
def clkMs : Nat := 2000000

/-- The clk for which the device has been powered so far (R408). -/
def poweredClk (s : State) : Nat := s.nv.poweredClk + if s.powered then s.clk else 0

/-- 2,000 powered hours. -/
def recordLife : Nat := 2000 * 3600000 * clkMs

/-- What a device keeps without power (R408): the non-volatile store, the boot ROM (R23), what lies in host and tier-2 memory, and what was
sent outside. -/
def State.cold (s : State) : State :=
  { State.reset with
    nv := { s.nv with poweredClk := poweredClk s }
    t2exp := s.t2exp
    mem := s.mem.filter fun c => [2, 3, 6].contains (c.1 / 2 ^ 64)
    msix := s.msix, spdm := s.spdm, agenda := s.agenda, freeCtr := s.freeCtr }

/-- POWER_LOSS (R408). -/
def execPowerLoss (s : State) : Host.Outcome State Fault Refusal := event s s.powered { State.cold s with powered := false }

/-! ## Start-up -/

/-- The items of training (log 10): the stacks 0 to 7, die-to-die links 8 to 11, scale-up ports 12 to 47; and the class of an item, which
RETR's bits name (R409). -/
def trainItems : List Nat := List.range 48
def itemClass (i : Nat) : Nat := if i < 8 then 0 else if i < 12 then 1 else 2

/-- The die whose temperature counts for an item. -/
def itemDie (i : Nat) : Nat := if i < 8 then i / 2 else if i < 12 then i - 8 else (i - 12) / 9

/-- A stored record may be used (R408). -/
def recordUsable (s : State) (i : Nat) : Bool :=
  s.nv.trainBit && s.nv.records.any fun r =>
    r.1 == i && r.2.1 && decide ((r.2.2.1 - mget 0 s.temps (itemDie i)).natAbs ≤ 25) && decide (poweredClk s < r.2.2.2 + recordLife)

/-- The items that train fully. -/
def badRecords (s : State) : List Nat := trainItems.filter fun i => !recordUsable s i

/-- The items of a class among those that train fully, and the milliseconds that their training adds (R409, log 33). -/
def classOf (is : List Nat) (c : Nat) : List Nat := is.filter fun i => itemClass i == c
def trainMs (is : List Nat) : Nat := (is.map Config.trainTime).foldl (· + ·) 0

/-- BOOTST (R409). -/
def bootWord (st retr ms : Nat) : Word := BitVec.ofNat 64 (ms % 2 ^ 32 * 2 ^ 32 + retr * 16 + st)

/-- Service counts of every partition next rise 1,024 clk from now (R71). -/
def startSvc (s : State) : State :=
  { s with parts := (List.range (nparts s.layout)).map fun p => (p, { s.part p with svcNext := s.clk + 1024 }) }

/-- Start-up enters a state at a millisecond since power-good (R409), and `later` are the states to come. READY starts the drove ring (R259) and
the service counts; nothing follows FAIL. -/
def State.enter (s : State) (st ms : Nat) (later : List (Nat × Nat)) : State :=
  let s := { s with boot := bootWord st (fld s.boot 7 4) ms, bootPlan := later }
  if st = 7 then startSvc { s with ringStart := s.clk, slots := [] } else s

/-- The items of a class that were trained fully have new records, and RETR says so (R408, R409). -/
def trained (s : State) (c : Nat) : State :=
  let is := classOf s.retrain c
  if is.isEmpty then s
  else
    let fresh := is.map fun i => (i, true, mget 0 s.temps (itemDie i), poweredClk s)
    { s with nv := { s.nv with records := (s.nv.records.filter fun r => !is.contains r.1) ++ fresh }, boot := putFld s.boot (4 + c) (4 + c) 1 }

/-- The image source record holds no reserved value (R410). -/
def imageSourceOk (ws : List Word) : Bool :=
  decide (fld (dw ws 0) 1 0 ≤ 1 ∧ fld (dw ws 0) 63 16 = 0 ∧ fld (dw ws 2) 63 32 = 0) &&
  (fld (dw ws 0) 1 0 == 1 || decide (fld (dw ws 0) 7 2 < 36))

/-- VIA and PORT of the image source record (R410). -/
def imageVia (s : State) : Nat := fld (dw s.nv.image 0) 1 0
def imagePort (s : State) : Nat := fld (dw s.nv.image 0) 7 2

/-- The scale-up port of an image source comes up at revision 1, if its link is not down; or it goes down (R399, R410). -/
def imagePortUp (s : State) (up : Bool) : State :=
  let k := imagePort s
  if imageVia s ≠ 0 ∨ (up ∧ s.down k) then s
  else { s with ports := mset 0 s.ports k (putFld (putFld (putFld (mget 0 s.ports k) 63 56 (if up then Config.peer k % 256 else 0)) 3 2 0) 0 0
      (if up then 1 else 0)) }

/-- The runtime image as the Steading reads it (R410): from what lies at ADDR of PEER over PORT (log 117), or from host memory at IMGADDR; none
where the read fails: the port down, a completion that failed, or an uncorrectable word. -/
def imageBytes (s : State) : Option (List Byte) :=
  let d := dw s.nv.image
  if s.imgBad then none
  else if imageVia s = 0 then
    if fld (mget 0 s.ports (imagePort s)) 0 0 = 1 then
      some ((List.range (fld (d 2) 31 0)).map fun i => Config.peerByte (fld (d 0) 15 8) ((d 1).toNat + i))
    else none
  else
    let at_ := place 3 ((s.imgAddr.getD 0).toNat)
    if s.bad at_ s.imgLen then none else some (s.bytes at_ s.imgLen)

/-- The image has been read by a millisecond (R407, R409, R410): it is checked, and the self-test follows, or FAIL. -/
def imageRead (s : State) (ms : Nat) : State :=
  let im := (imageBytes s).filter Config.verified
  let s := { imagePortUp s false with imgAddr := none, imgLen := 0 }
  match im with
  | some bs => { s with image := bs }.enter 6 ms [(7, ms + 800)]
  | none => s.enter 15 ms []

/-- The links have been brought up by a millisecond: the image source record decides how the image is read (R409, R410). -/
def imageStart (s : State) (ms : Nat) : State :=
  if !imageSourceOk s.nv.image then s.enter 15 ms []
  else if imageVia s = 1 then s.enter 5 ms []
  else (imagePortUp s true).enter 5 ms [(6, ms + 1200)]

/-- The next start-up state is entered, once its time has come (R409): the signature of the firmware has been checked (R407), a class of items
restored or trained, the image read, or the self-test ended. -/
def bootStep (s : State) : State :=
  match s.bootPlan with
  | [] => s
  | (st, ms) :: later =>
    if !s.powered ∨ s.clk < ms * clkMs then s
    else
      match st with
      | 2 => if Config.verified s.nv.firmware then s.enter 2 ms later else s.enter 15 ms []
      | 3 => (trained s 0).enter 3 ms later
      | 4 => (trained s 1).enter 4 ms later
      | 5 => imageStart (trained s 2) ms
      | 6 => imageRead s ms
      | st => s.enter st ms later

/-- One more for a key of a wear table. -/
def bump (m : SMap Nat) (k : Nat) : SMap Nat := mput m k (mget 0 m k + 1)

/-- What the form of supply keeps of training records and wear counters (R411): without a store for them, nothing. -/
def NV.kept (n : NV) : NV :=
  match n.form with
  | .bare false => { n with records := [], pwrDie := [], exc := [], hotm := [], pwrStack := [] }
  | _ => n

/-- The times of start-up as far as the image (R409): each class of item takes its restore, or the training of its items besides. -/
def bootTimes (bad : List Nat) : List (Nat × Nat) :=
  let t3 := 580 + trainMs (classOf bad 0)
  let t4 := t3 + 80 + trainMs (classOf bad 1)
  [(1, 30), (2, 180), (3, t3), (4, t4), (5, t4 + 900 + trainMs (classOf bad 2))]

/-- Cold power-good (R408 to R410, R412): wear is counted, the Steading's ROM starts, and the rest of start-up follows with time. -/
def powerUp (s : State) (temp : Int) : State :=
  let s := State.cold s
  let n := s.nv.kept
  let dies := List.range 4
  let nv := { n with pwrDie := dies.foldl bump n.pwrDie, pwrStack := (List.range 8).foldl bump n.pwrStack }
  let s := { s with
    nv := nv, powered := true, temps := dies.map fun d => (d, temp), therm := dies.map fun d => (d, Therm.armed temp) }
  let bad := badRecords s
  { s with retrain := bad, bootPlan := bootTimes bad }

/-- POWER_GOOD at a temperature (R409): from off, or in the state right after reset. -/
def execPowerGood (temp : Int) (s : State) : Host.Outcome State Fault Refusal :=
  event s (!s.powered || (decide (fld s.boot 3 0 = 0) && s.bootPlan.isEmpty)) (powerUp s temp)

/-- IMAGE_SOURCE_WRITE (R410). -/
def execImageSourceWrite (d0 d1 d2 : Word) (s : State) : Host.Outcome State Fault Refusal :=
  event s s.powered { s with nv := { s.nv with image := [d0, d1, d2] } }

/-- IMGLEN_WRITE (R410): after IMGADDR, while the Steading waits for the image over the host link; the read takes the image's 1.2 s (R409). -/
def execImglenWrite (len : Word32) (s : State) : Host.Outcome State Fault Refusal :=
  event s (s.powered && decide (fld s.boot 3 0 = 5) && s.bootPlan.isEmpty && s.imgAddr.isSome)
    { s with imgLen := len.toNat, imgBad := false, bootPlan := [(6, s.clk / clkMs + 1200)] }

/-- ATTESTATION_REQUEST (R407): the firmware that is held, the runtime image that has been read, and the FACC values are measured, and the answer
signed. It is given once the firmware's signature has been checked, in the states 2 to 7 (log 124). -/
def execAttestationRequest (nonce : Word) (s : State) : Host.Outcome State Fault Refusal :=
  let facc (p : Nat) : Word := Config.digest (leBytes 8 (s.part p).facc.toNat)
  let ms := Config.digest s.nv.firmware :: Config.digest s.image :: (List.range (nparts s.layout)).map facc
  event s (s.powered && decide (2 ≤ fld s.boot 3 0 ∧ fld s.boot 3 0 ≤ 7))
    { s with spdm := s.spdm ++ [nonce :: ms ++ [Config.attest nonce ms]] }

/-! ## Layout -/

/-- A launch is placed (R25): one of its units or routines runs, or the launch has been placed and has not ended. -/
def layoutBusy (s : State) : Bool :=
  s.parts.any (fun x => x.2.launches.any fun y => decide (y.2.stage = .placed)) || s.cores.any fun x => decide (x.1 < 6144) && x.2.occ.isSome

/-- PARTITION_LAYOUT_CHANGE (R25, R26, R259): refused as busy, or the partitions start anew. Stores and AMOs that cancelled units left in their
cores are still performed. The ports go down until a driver negotiates, and keep what they have counted since start-up (R400). -/
def execPartitionLayoutChange (lay : Layout) (s : State) : Host.Outcome State Fault Refusal :=
  let core (x : Nat × Core) : Nat × Core :=
    let k := x.2
    if x.1 < 6144 then
      (x.1, { Core.idle with
        stores := k.stores, loads := k.loads.filter Load.isAmo, thirds := k.thirds, trans := k.trans
        r := { Regs.zero with ctl := mset 0 [] 0x091 (k.ctl 0x091) } })
    else x
  event s (s.powered && decide (fld s.boot 3 0 = 7))
    (if layoutBusy s then { s with busy := true }
     else startSvc { s with
       busy := false, layout := lay, parts := [], folds := [], cores := s.cores.map core, slots := [], ringStart := s.clk
       ports := s.ports.map fun x => (x.1, x.2 &&& 0x000000FFFFFF0000) })

/-! ## Wear (R412) -/

/-- A die's thermal state after a sample, and whether an excursion is counted. -/
def thermNext (x : Therm) (t : Int) : Therm × Bool :=
  match x with
  | .armed l => let l := min l t; if l + 40 ≤ t then (.counted t, true) else (.armed l, false)
  | .counted h => let h := max h t; if t ≤ h - 40 then (.armed t, false) else (.counted h, false)

/-- THERMAL_SAMPLE of die d. Hot time is kept in samples of 100 ms until the minutes are flushed. -/
def execThermalSample (d : Nat) (temp : Int) (s : State) : Host.Outcome State Fault Refusal :=
  let y := thermNext (mget (.armed temp) s.therm d) temp
  let nv := if y.2 then { s.nv with exc := bump s.nv.exc d } else s.nv
  event s (s.powered && decide (d < 4))
    { s with temps := mput s.temps d temp, therm := mput s.therm d y.1, nv := nv, hotPend := if 90 < temp then bump s.hotPend d else s.hotPend }

/-- WEAR_MINUTES_FLUSH. -/
def execWearMinutesFlush (s : State) : Host.Outcome State Fault Refusal :=
  let add (m : SMap Nat) (x : Nat × Nat) : SMap Nat := mput m x.1 (mget 0 m x.1 + x.2 / 600)
  event s s.powered { s with nv := { s.nv with hotm := s.hotPend.foldl add s.nv.hotm }, hotPend := s.hotPend.map fun x => (x.1, x.2 % 600) }

/-! ## The register window (R10) -/

/-- A write to queue register `r` of queue i, while DISABLED (R64). -/
def writeQueueReg (s : State) (p i r : Nat) (v : Word) : State :=
  let x := (s.part p).queue i
  if share s 64 ≤ i ∨ x.st ≠ .disabled then s
  else
    let x' : Queue := match r with
      | 0 => { x with base := BitVec.ofNat 64 (fld v 47 7 * 128) }
      | 8 => { x with cfg := BitVec.ofNat 64 (fld v 4 0) }
      | 16 => { x with seq := BitVec.ofNat 32 (fld v 31 0) }
      | _ => x
    s.updPart p fun q => q.setQueue i x'

/-- A write to doubleword r of job table entry j (R61): PTROOT is held while a launch of the job is placed. -/
def writeJob (s : State) (p j r : Nat) (v : Word) : State :=
  if share s 4096 ≤ j then s
  else
    let upd (f : Job → Job) : State := s.updPart p fun q => { q with jobs := mupd Job.reset q.jobs j f }
    match r with
    | 0 => upd fun x => { x with prio := fld v 1 0, weight := fld v 15 8, quota := fld v 25 16 }
    | 8 =>
      if (s.part p).launches.any fun y => y.2.job == j && decide (y.2.stage = .placed) then
        upd fun x => { x with heldRoot := some (fld v 47 0) }
      else newRoot s p j (fld v 47 0)
    | _ => s

/-- A write to a host-assisted record slot of the scheduler window (R65, R68). -/
def writeSlot (s : State) (p o : Nat) (v : Word) : State :=
  let i := o / 0x800
  let at_ := o % 0x800 / 128
  if share s 64 ≤ i then s
  else s.updPart p fun q =>
    let w := mget (List.replicate 16 0) q.slotsHA (16 * i + at_)
    { q with slotsHA := mput q.slotsHA (16 * i + at_) (w.set (o % 128 / 8) v) }

/-- The context pool's registers are writable (R360). -/
def poolFree (s : State) (p : Nat) : Bool := !((s.part p).launches.any fun x => decide (x.2.stage = .placed))

/-- A write of a doubleword to a register that has no event of its own; a write to any other offset is ignored. A LOG2N outside 4 to 12
leaves the old value (log 107). -/
def writeReg (s : State) (p off : Nat) (v : Word) : State :=
  if 0x1000 ≤ off ∧ off < 0x2000 then writeQueueReg s p ((off - 0x1000) / 0x40) (off % 0x40) v
  else if 0x400000 ≤ off ∧ off < 0x420000 then writeJob s p ((off - 0x400000) / 32) (off % 32) v
  else if 0x540000 ≤ off ∧ off < 0x560000 then writeSlot s p (off - 0x540000) v
  else
    match off with
    | 0x0220 => if poolFree s p then s.updPart p fun q => { q with ctxBase := BitVec.ofNat 64 (v.toNat / 65536 * 65536) } else s
    | 0x0228 => if poolFree s p then s.updPart p fun q => { q with ctxn := BitVec.ofNat 32 (fld v 31 0) } else s
    | 0x0230 => if poolFree s p then s.updPart p fun q => { q with ctxfn := BitVec.ofNat 32 (fld v 31 0) } else s
    | 0x0300 => s.updPart p fun q => { q with fqBase := BitVec.ofNat 64 (v.toNat / 4096 * 4096) }
    | 0x0308 => s.updPart p fun q => { q with fqLog := if 4 ≤ fld v 4 0 ∧ fld v 4 0 ≤ 12 then fld v 4 0 else q.fqLog }
    | 0x0330 => s.updPart p fun q => { q with fevt := q.fevt &&& ~~~(v &&& 0xF) }
    | _ => s

/-- REGISTER_WRITE (R10); IMGADDR is written while the Steading waits for the image (R410). -/
def execRegisterWrite (p off : Nat) (v : Word) (s : State) : Host.Outcome State Fault Refusal :=
  if off = 0x0360 then event s (s.powered && decide (fld s.boot 3 0 = 5) && s.bootPlan.isEmpty) { s with imgAddr := some v }
  else event s (windowUp s p && decide (off % 8 = 0)) (writeReg s p off v)

end Sys2Proof.Machine
end

