-- ==== Sys2Proof/Machine/Dispatch.lean ====
section
/-! DEFINITION. Which meaning each step of the opcode table has: one arm per constructor. -/

namespace Sys2Proof.Machine

/-- The meaning of a step of the opcode table. -/
def exec (i : Instr) (s : State) : Host.Outcome State Fault Refusal :=
  match i with
  | .powerGood temp => Sys2Proof.Machine.execPowerGood temp s
  | .imageSourceWrite d0 d1 d2 => Sys2Proof.Machine.execImageSourceWrite d0 d1 d2 s
  | .imglenWrite len => Sys2Proof.Machine.execImglenWrite len s
  | .attestationRequest nonce => Sys2Proof.Machine.execAttestationRequest nonce s
  | .partitionLayoutChange lay => Sys2Proof.Machine.execPartitionLayoutChange lay s
  | .faccWrite p v => Sys2Proof.Machine.execFaccWrite p v s
  | .negotiationDone p v => Sys2Proof.Machine.execNegotiationDone p v s
  | .queueEnable p q => Sys2Proof.Machine.execQueueEnable p q s
  | .queueDisable p q => Sys2Proof.Machine.execQueueDisable p q s
  | .queueReset p q => Sys2Proof.Machine.execQueueReset p q s
  | .qkick p q => Sys2Proof.Machine.execQkick p q s
  | .recordRead p q => Sys2Proof.Machine.execRecordRead p q s
  | .retryWaitEnd p q => Sys2Proof.Machine.execRetryWaitEnd p q s
  | .blockedReread p q => Sys2Proof.Machine.execBlockedReread p q s
  | .hcancel p h => Sys2Proof.Machine.execHcancel p h s
  | .hjobrm p v => Sys2Proof.Machine.execHjobrm p v s
  | .jobRemovalComplete p => Sys2Proof.Machine.execJobRemovalComplete p s
  | .hpreempt p h => Sys2Proof.Machine.execHpreempt p h s
  | .corePreempt c => Sys2Proof.Machine.execCorePreempt c s
  | .preemptForceTimeout c => Sys2Proof.Machine.execPreemptForceTimeout c s
  | .launchResume p b => Sys2Proof.Machine.execLaunchResume p b s
  | .ptrootApply p j => Sys2Proof.Machine.execPtrootApply p j s
  | .svcTick p => Sys2Proof.Machine.execSvcTick p s
  | .unitPlace c => Sys2Proof.Machine.execUnitPlace c s
  | .gangPlace p b => Sys2Proof.Machine.execGangPlace p b s
  | .noteWrite p b => Sys2Proof.Machine.execNoteWrite p b s
  | .watchdogFire c => Sys2Proof.Machine.execWatchdogFire c s
  | .icacheFill c line => Sys2Proof.Machine.execIcacheFill c line s
  | .loadReturn c n => Sys2Proof.Machine.execLoadReturn c n s
  | .storeDrain c => Sys2Proof.Machine.execStoreDrain c s
  | .translationResolve c => Sys2Proof.Machine.execTranslationResolve c s
  | .fqRetry p sq => Sys2Proof.Machine.execFqRetry p sq s
  | .fqDeliver p sq => Sys2Proof.Machine.execFqDeliver p sq s
  | .vectorEntryComplete c => Sys2Proof.Machine.execVectorEntryComplete c s
  | .matrixEntryPerform c q => Sys2Proof.Machine.execMatrixEntryPerform c q s
  | .tileArrival c q => Sys2Proof.Machine.execTileArrival c q s
  | .streamedBFaultResolved c q => Sys2Proof.Machine.execStreamedBFaultResolved c q s
  | .mxcmdRemoteAccept c => Sys2Proof.Machine.execMxcmdRemoteAccept c s
  | .mxcmdAnswer c => Sys2Proof.Machine.execMxcmdAnswer c s
  | .copyEntryPerform c q => Sys2Proof.Machine.execCopyEntryPerform c q s
  | .copyFaultResolved c q => Sys2Proof.Machine.execCopyFaultResolved c q s
  | .streamFill c b => Sys2Proof.Machine.execStreamFill c b s
  | .streamDrainEntry c b => Sys2Proof.Machine.execStreamDrainEntry c b s
  | .messageArrival c => Sys2Proof.Machine.execMessageArrival c s
  | .pieceAccept c n => Sys2Proof.Machine.execPieceAccept c n s
  | .exchangeTransferWrite c n => Sys2Proof.Machine.execExchangeTransferWrite c n s
  | .barrierRelease f b => Sys2Proof.Machine.execBarrierRelease f b s
  | .superstepRelease p b d => Sys2Proof.Machine.execSuperstepRelease p b d s
  | .exchangePhaseEnd c => Sys2Proof.Machine.execExchangePhaseEnd c s
  | .droveRequestApply c => Sys2Proof.Machine.execDroveRequestApply c s
  | .droveRequestFail c => Sys2Proof.Machine.execDroveRequestFail c s
  | .captureTimeout c => Sys2Proof.Machine.execCaptureTimeout c s
  | .droveSlotError sl => Sys2Proof.Machine.execDroveSlotError sl s
  | .recvtTimeout c => Sys2Proof.Machine.execRecvtTimeout c s
  | .wfiTimeout c => Sys2Proof.Machine.execWfiTimeout c s
  | .rollback p b => Sys2Proof.Machine.execRollback p b s
  | .intervalEnd c => Sys2Proof.Machine.execIntervalEnd c s
  | .thirdRunComplete c fp => Sys2Proof.Machine.execThirdRunComplete c fp s
  | .contansContinue p => Sys2Proof.Machine.execContansContinue p s
  | .contansCancel p => Sys2Proof.Machine.execContansCancel p s
  | .phaseStop p v => Sys2Proof.Machine.execPhaseStop p v s
  | .phaseStopWrite p => Sys2Proof.Machine.execPhaseStopWrite p s
  | .phaseRestore p v => Sys2Proof.Machine.execPhaseRestore p v s
  | .linkCrcError k => Sys2Proof.Machine.execLinkCrcError k s
  | .linkRetrain k good => Sys2Proof.Machine.execLinkRetrain k good s
  | .downLinkTimeout k => Sys2Proof.Machine.execDownLinkTimeout k s
  | .escapeMove c n => Sys2Proof.Machine.execEscapeMove c n s
  | .routerBeat p f vs => Sys2Proof.Machine.execRouterBeat p f vs s
  | .portBeatArrival p vs a => Sys2Proof.Machine.execPortBeatArrival p vs a s
  | .hostMemoryWrite p a data => Sys2Proof.Machine.execHostMemoryWrite p a data s
  | .systemScopeRequest p a op dbl x cmp => Sys2Proof.Machine.execSystemScopeRequest p a op dbl x cmp s
  | .hostCompletionTimeout c => Sys2Proof.Machine.execHostCompletionTimeout c s
  | .thermalSample d temp => Sys2Proof.Machine.execThermalSample d temp s
  | .wearMinutesFlush => Sys2Proof.Machine.execWearMinutesFlush s
  | .scrub c w => Sys2Proof.Machine.execScrub c w s
  | .registerWrite p off v => Sys2Proof.Machine.execRegisterWrite p off v s
  | .nopCSlot l => Sys2Proof.Machine.execNopCSlot l s
  | .nopASlot => Sys2Proof.Machine.execNopASlot s
  | .trap l b => Sys2Proof.Machine.execTrap l b s
  | .eret l => Sys2Proof.Machine.execEret l s
  | .exit l => Sys2Proof.Machine.execExit l s
  | .yield l => Sys2Proof.Machine.execYield l s
  | .pulse l => Sys2Proof.Machine.execPulse l s
  | .cancel l d a => Sys2Proof.Machine.execCancel l d a s
  | .wfi l b => Sys2Proof.Machine.execWfi l b s
  | .mfc l d n => Sys2Proof.Machine.execMfc l d n s
  | .mtc l a n => Sys2Proof.Machine.execMtc l a n s
  | .movi l d n => Sys2Proof.Machine.execMovi l d n s
  | .ldlW l d p => Sys2Proof.Machine.execLdlW l d p s
  | .ldlD l d p => Sys2Proof.Machine.execLdlD l d p s
  | .ldlC d lit => Sys2Proof.Machine.execLdlC d lit s
  | .ld l d a z x o => Sys2Proof.Machine.execLd l d a z x o s
  | .st l u a z o => Sys2Proof.Machine.execSt l u a z o s
  | .ldv l d a z x o => Sys2Proof.Machine.execLdv l d a z x o s
  | .stv l u a z o => Sys2Proof.Machine.execStv l u a z o s
  | .ldf l d a o => Sys2Proof.Machine.execLdf l d a o s
  | .stf l u a o => Sys2Proof.Machine.execStf l u a o s
  | .adda l d a b => Sys2Proof.Machine.execAdda l d a b s
  | .ptag l d a b => Sys2Proof.Machine.execPtag l d a b s
  | .pfmt l d a => Sys2Proof.Machine.execPfmt l d a s
  | .pbase l d a => Sys2Proof.Machine.execPbase l d a s
  | .lea l d a b h => Sys2Proof.Machine.execLea l d a b h s
  | .br l a b c p => Sys2Proof.Machine.execBr l a b c p s
  | .bbc l a b n p => Sys2Proof.Machine.execBbc l a b n p s
  | .bbs l a b n p => Sys2Proof.Machine.execBbs l a b n p s
  | .bbz l a n p => Sys2Proof.Machine.execBbz l a n p s
  | .bbnz l a n p => Sys2Proof.Machine.execBbnz l a n p s
  | .j l p => Sys2Proof.Machine.execJ l p s
  | .jl l p => Sys2Proof.Machine.execJl l p s
  | .jr l d a b => Sys2Proof.Machine.execJr l d a b s
  | .macroOp x y z e lit => Sys2Proof.Machine.execMacroOp x y z e lit s
  | .claim l d a n => Sys2Proof.Machine.execClaim l d a n s
  | .vsetl l d a => Sys2Proof.Machine.execVsetl l d a s
  | .vsetli l d n => Sys2Proof.Machine.execVsetli l d n s
  | .vrep l a n => Sys2Proof.Machine.execVrep l a n s
  | .vdrain l => Sys2Proof.Machine.execVdrain l s
  | .amoAdd l d a b u o z => Sys2Proof.Machine.execAmoAdd l d a b u o z s
  | .amoFadd l d a b u o => Sys2Proof.Machine.execAmoFadd l d a b u o s
  | .amoMin l d a b u o z => Sys2Proof.Machine.execAmoMin l d a b u o z s
  | .amoMax l d a b u o z => Sys2Proof.Machine.execAmoMax l d a b u o z s
  | .amoMinu l d a b u o z => Sys2Proof.Machine.execAmoMinu l d a b u o z s
  | .amoMaxu l d a b u o z => Sys2Proof.Machine.execAmoMaxu l d a b u o z s
  | .amoFmin l d a b u o => Sys2Proof.Machine.execAmoFmin l d a b u o s
  | .amoFmax l d a b u o => Sys2Proof.Machine.execAmoFmax l d a b u o s
  | .amoAmax l d a b u o => Sys2Proof.Machine.execAmoAmax l d a b u o s
  | .amoAnd l d a b u o z => Sys2Proof.Machine.execAmoAnd l d a b u o z s
  | .amoOr l d a b u o z => Sys2Proof.Machine.execAmoOr l d a b u o z s
  | .amoXor l d a b u o z => Sys2Proof.Machine.execAmoXor l d a b u o z s
  | .amoSwap l d a b u o z => Sys2Proof.Machine.execAmoSwap l d a b u o z s
  | .amoCas l d a b u o z => Sys2Proof.Machine.execAmoCas l d a b u o z s
  | .amoAmaxrst l d a b u o z => Sys2Proof.Machine.execAmoAmaxrst l d a b u o z s
  | .evwait l e => Sys2Proof.Machine.execEvwait l e s
  | .evsig l a b e => Sys2Proof.Machine.execEvsig l a b e s
  | .evcnt l d e => Sys2Proof.Machine.execEvcnt l d e s
  | .dqpush l a => Sys2Proof.Machine.execDqpush l a s
  | .dqpop l d => Sys2Proof.Machine.execDqpop l d s
  | .dqsteal l d a => Sys2Proof.Machine.execDqsteal l d a s
  | .fork l d a b => Sys2Proof.Machine.execFork l d a b s
  | .join l a => Sys2Proof.Machine.execJoin l a s
  | .send l d a b => Sys2Proof.Machine.execSend l d a b s
  | .recv l d c => Sys2Proof.Machine.execRecv l d c s
  | .recvt l d b c => Sys2Proof.Machine.execRecvt l d b c s
  | .ssync l => Sys2Proof.Machine.execSsync l s
  | .bdom l a => Sys2Proof.Machine.execBdom l a s
  | .xsend l a b => Sys2Proof.Machine.execXsend l a b s
  | .xrecv l d c => Sys2Proof.Machine.execXrecv l d c s
  | .dboard l d a b => Sys2Proof.Machine.execDboard l d a b s
  | .dalight l d a b => Sys2Proof.Machine.execDalight l d a b s
  | .dread l d a w => Sys2Proof.Machine.execDread l d a w s
  | .drmwAdd l d a b w => Sys2Proof.Machine.execDrmwAdd l d a b w s
  | .drmwMin l d a b w => Sys2Proof.Machine.execDrmwMin l d a b w s
  | .drmwMax l d a b w => Sys2Proof.Machine.execDrmwMax l d a b w s
  | .drmwMinu l d a b w => Sys2Proof.Machine.execDrmwMinu l d a b w s
  | .drmwMaxu l d a b w => Sys2Proof.Machine.execDrmwMaxu l d a b w s
  | .drmwFmin l d a b w => Sys2Proof.Machine.execDrmwFmin l d a b w s
  | .drmwFmax l d a b w => Sys2Proof.Machine.execDrmwFmax l d a b w s
  | .drmwAnd l d a b w => Sys2Proof.Machine.execDrmwAnd l d a b w s
  | .drmwOr l d a b w => Sys2Proof.Machine.execDrmwOr l d a b w s
  | .drmwXor l d a b w => Sys2Proof.Machine.execDrmwXor l d a b w s
  | .drmwSwap l d a b w => Sys2Proof.Machine.execDrmwSwap l d a b w s
  | .drmwCas l d a b w => Sys2Proof.Machine.execDrmwCas l d a b w s
  | .dcap l a => Sys2Proof.Machine.execDcap l a s
  | .dput l a b w => Sys2Proof.Machine.execDput l a b w s
  | .drel l a => Sys2Proof.Machine.execDrel l a s
  | .dlap l d => Sys2Proof.Machine.execDlap l d s
  | .fenceR l a b => Sys2Proof.Machine.execFenceR l a b s
  | .fenceS l p u => Sys2Proof.Machine.execFenceS l p u s
  | .qfence l m => Sys2Proof.Machine.execQfence l m s
  | .sbind l d a => Sys2Proof.Machine.execSbind l d a s
  | .sunbind l d => Sys2Proof.Machine.execSunbind l d s
  | .sstat l d a => Sys2Proof.Machine.execSstat l d a s
  | .sdrain l d => Sys2Proof.Machine.execSdrain l d s
  | .cbinit l a c => Sys2Proof.Machine.execCbinit l a c s
  | .cbpop l d c => Sys2Proof.Machine.execCbpop l d c s
  | .cbpush l c => Sys2Proof.Machine.execCbpush l c s
  | .cbstat l d c => Sys2Proof.Machine.execCbstat l d c s
  | .cpy l q a b c h => Sys2Proof.Machine.execCpy l q a b c h s
  | .cpya l q a b c h => Sys2Proof.Machine.execCpya l q a b c h s
  | .gath l q a b c h => Sys2Proof.Machine.execGath l q a b c h s
  | .scat l q a b c => Sys2Proof.Machine.execScat l q a b c s
  | .cpyw l q a b c h => Sys2Proof.Machine.execCpyw l q a b c h s
  | .cpyz l q a b h => Sys2Proof.Machine.execCpyz l q a b h s
  | .pdecl l a b w => Sys2Proof.Machine.execPdecl l a b w s
  | .muster l w => Sys2Proof.Machine.execMuster l w s
  | .gwait l b w => Sys2Proof.Machine.execGwait l b w s
  | .gstat l d w => Sys2Proof.Machine.execGstat l d w s
  | .pdrop l w => Sys2Proof.Machine.execPdrop l w s
  | .tld l q a b c => Sys2Proof.Machine.execTld l q a b c s
  | .tstr l q a b c => Sys2Proof.Machine.execTstr l q a b c s
  | .amov l q a b c => Sys2Proof.Machine.execAmov l q a b c s
  | .ald l q a b c => Sys2Proof.Machine.execAld l q a b c s
  | .mxcmd l q a b c => Sys2Proof.Machine.execMxcmd l q a b c s
  | .lmalloc l d b => Sys2Proof.Machine.execLmalloc l d b s
  | .lmfree l a => Sys2Proof.Machine.execLmfree l a s
  | .lminv l a b => Sys2Proof.Machine.execLminv l a b s
  | .vsset l d a b => Sys2Proof.Machine.execVsset l d a b s
  | .vsmark l a => Sys2Proof.Machine.execVsmark l a s
  | .vsdig l d a => Sys2Proof.Machine.execVsdig l d a s
  | .vswait l d a => Sys2Proof.Machine.execVswait l d a s
  | .yoke l d => Sys2Proof.Machine.execYoke l d s
  | .unyoke l => Sys2Proof.Machine.execUnyoke l s
  | .tlbinv l a b u => Sys2Proof.Machine.execTlbinv l a b u s
  | .tlbprobe l d a => Sys2Proof.Machine.execTlbprobe l d a s
  | .add d a b => Sys2Proof.Machine.execAdd d a b s
  | .sub d a b => Sys2Proof.Machine.execSub d a b s
  | .and d a b => Sys2Proof.Machine.execAnd d a b s
  | .or d a b => Sys2Proof.Machine.execOr d a b s
  | .xor d a b => Sys2Proof.Machine.execXor d a b s
  | .andn d a b => Sys2Proof.Machine.execAndn d a b s
  | .min d a b => Sys2Proof.Machine.execMin d a b s
  | .max d a b => Sys2Proof.Machine.execMax d a b s
  | .minu d a b => Sys2Proof.Machine.execMinu d a b s
  | .maxu d a b => Sys2Proof.Machine.execMaxu d a b s
  | .addw d a b => Sys2Proof.Machine.execAddw d a b s
  | .subw d a b => Sys2Proof.Machine.execSubw d a b s
  | .adds d a b => Sys2Proof.Machine.execAdds d a b s
  | .subs d a b => Sys2Proof.Machine.execSubs d a b s
  | .abs d a => Sys2Proof.Machine.execAbs d a s
  | .mul d a b => Sys2Proof.Machine.execMul d a b s
  | .mulh d a b => Sys2Proof.Machine.execMulh d a b s
  | .mulhu d a b => Sys2Proof.Machine.execMulhu d a b s
  | .mulhsu d a b => Sys2Proof.Machine.execMulhsu d a b s
  | .div d a b => Sys2Proof.Machine.execDiv d a b s
  | .divu d a b => Sys2Proof.Machine.execDivu d a b s
  | .rem d a b => Sys2Proof.Machine.execRem d a b s
  | .remu d a b => Sys2Proof.Machine.execRemu d a b s
  | .seq d a b => Sys2Proof.Machine.execSeq d a b s
  | .sne d a b => Sys2Proof.Machine.execSne d a b s
  | .slt d a b => Sys2Proof.Machine.execSlt d a b s
  | .sge d a b => Sys2Proof.Machine.execSge d a b s
  | .sltu d a b => Sys2Proof.Machine.execSltu d a b s
  | .sgeu d a b => Sys2Proof.Machine.execSgeu d a b s
  | .sll d a b => Sys2Proof.Machine.execSll d a b s
  | .srl d a b => Sys2Proof.Machine.execSrl d a b s
  | .sra d a b => Sys2Proof.Machine.execSra d a b s
  | .rol d a b => Sys2Proof.Machine.execRol d a b s
  | .ror d a b => Sys2Proof.Machine.execRor d a b s
  | .popc d a n => Sys2Proof.Machine.execPopc d a n s
  | .clz d a => Sys2Proof.Machine.execClz d a s
  | .ctz d a n => Sys2Proof.Machine.execCtz d a n s
  | .brev d a => Sys2Proof.Machine.execBrev d a s
  | .bswap d a => Sys2Proof.Machine.execBswap d a s
  | .extu d a b => Sys2Proof.Machine.execExtu d a b s
  | .exts d a b => Sys2Proof.Machine.execExts d a b s
  | .mshl d a b n => Sys2Proof.Machine.execMshl d a b n s
  | .mshr d a b n => Sys2Proof.Machine.execMshr d a b n s
  | .mand d a b n => Sys2Proof.Machine.execMand d a b n s
  | .mor d a b n => Sys2Proof.Machine.execMor d a b n s
  | .mxor d a b n => Sys2Proof.Machine.execMxor d a b n s
  | .addi d a n => Sys2Proof.Machine.execAddi d a n s
  | .andi d a n => Sys2Proof.Machine.execAndi d a n s
  | .ori d a n => Sys2Proof.Machine.execOri d a n s
  | .xori d a n => Sys2Proof.Machine.execXori d a n s
  | .slli d a n u => Sys2Proof.Machine.execSlli d a n u s
  | .srli d a n u => Sys2Proof.Machine.execSrli d a n u s
  | .srai d a u => Sys2Proof.Machine.execSrai d a u s
  | .roli d a u => Sys2Proof.Machine.execRoli d a u s
  | .rori d a u => Sys2Proof.Machine.execRori d a u s
  | .cmpi d a r n => Sys2Proof.Machine.execCmpi d a r n s
  | .fadd d a b => Sys2Proof.Machine.execFadd d a b s
  | .fsub d a b => Sys2Proof.Machine.execFsub d a b s
  | .fmul d a b => Sys2Proof.Machine.execFmul d a b s
  | .fdiv d a b => Sys2Proof.Machine.execFdiv d a b s
  | .fsqrt d a => Sys2Proof.Machine.execFsqrt d a s
  | .fmac d a b => Sys2Proof.Machine.execFmac d a b s
  | .fmin d a b => Sys2Proof.Machine.execFmin d a b s
  | .fmax d a b => Sys2Proof.Machine.execFmax d a b s
  | .fabs d a => Sys2Proof.Machine.execFabs d a s
  | .fneg d a => Sys2Proof.Machine.execFneg d a s
  | .feq d a b => Sys2Proof.Machine.execFeq d a b s
  | .flt d a b => Sys2Proof.Machine.execFlt d a b s
  | .fle d a b => Sys2Proof.Machine.execFle d a b s
  | .fclass d a => Sys2Proof.Machine.execFclass d a s
  | .fcvt d a c r => Sys2Proof.Machine.execFcvt d a c r s
  | .fext d a c r => Sys2Proof.Machine.execFext d a c r s
  | .ftoi d a r => Sys2Proof.Machine.execFtoi d a r s
  | .ftou d a r => Sys2Proof.Machine.execFtou d a r s
  | .itof d a r => Sys2Proof.Machine.execItof d a r s
  | .utof d a r => Sys2Proof.Machine.execUtof d a r s
  | .vadd d a b k => Sys2Proof.Machine.execVadd d a b k s
  | .vsub d a b k => Sys2Proof.Machine.execVsub d a b k s
  | .vmul d a b k => Sys2Proof.Machine.execVmul d a b k s
  | .vdiv d a b k => Sys2Proof.Machine.execVdiv d a b k s
  | .vsqrt d a k => Sys2Proof.Machine.execVsqrt d a k s
  | .vfma d a b c k => Sys2Proof.Machine.execVfma d a b c k s
  | .vfms d a b c k => Sys2Proof.Machine.execVfms d a b c k s
  | .vmin d a b k => Sys2Proof.Machine.execVmin d a b k s
  | .vmax d a b k => Sys2Proof.Machine.execVmax d a b k s
  | .vabs d a k => Sys2Proof.Machine.execVabs d a k s
  | .vneg d a k => Sys2Proof.Machine.execVneg d a k s
  | .vdot d a b c k => Sys2Proof.Machine.execVdot d a b c k s
  | .vaddBf2 d a b k => Sys2Proof.Machine.execVaddBf2 d a b k s
  | .vmulBf2 d a b k => Sys2Proof.Machine.execVmulBf2 d a b k s
  | .vfmaBf2 d a b c k => Sys2Proof.Machine.execVfmaBf2 d a b c k s
  | .vdot2Bf d a b c k => Sys2Proof.Machine.execVdot2Bf d a b c k s
  | .viadd d a b k => Sys2Proof.Machine.execViadd d a b k s
  | .visub d a b k => Sys2Proof.Machine.execVisub d a b k s
  | .vimul d a b k => Sys2Proof.Machine.execVimul d a b k s
  | .vimulh d a b k => Sys2Proof.Machine.execVimulh d a b k s
  | .viand d a b k => Sys2Proof.Machine.execViand d a b k s
  | .vior d a b k => Sys2Proof.Machine.execVior d a b k s
  | .vixor d a b k => Sys2Proof.Machine.execVixor d a b k s
  | .visll d a b k => Sys2Proof.Machine.execVisll d a b k s
  | .visrl d a b k => Sys2Proof.Machine.execVisrl d a b k s
  | .visra d a b k => Sys2Proof.Machine.execVisra d a b k s
  | .vimin d a b k => Sys2Proof.Machine.execVimin d a b k s
  | .vimax d a b k => Sys2Proof.Machine.execVimax d a b k s
  | .viminu d a b k => Sys2Proof.Machine.execViminu d a b k s
  | .vimaxu d a b k => Sys2Proof.Machine.execVimaxu d a b k s
  | .viadds d a b k => Sys2Proof.Machine.execViadds d a b k s
  | .visubs d a b k => Sys2Proof.Machine.execVisubs d a b k s
  | .vimac d a b c k => Sys2Proof.Machine.execVimac d a b c k s
  | .vidot4 d a b c k => Sys2Proof.Machine.execVidot4 d a b c k s
  | .viabs d a k => Sys2Proof.Machine.execViabs d a k s
  | .vcmpFeq a b d => Sys2Proof.Machine.execVcmpFeq a b d s
  | .vcmpFne a b d => Sys2Proof.Machine.execVcmpFne a b d s
  | .vcmpFlt a b d => Sys2Proof.Machine.execVcmpFlt a b d s
  | .vcmpFle a b d => Sys2Proof.Machine.execVcmpFle a b d s
  | .vcmpFun a b d => Sys2Proof.Machine.execVcmpFun a b d s
  | .vcmpIeq a b d => Sys2Proof.Machine.execVcmpIeq a b d s
  | .vcmpIne a b d => Sys2Proof.Machine.execVcmpIne a b d s
  | .vcmpIlt a b d => Sys2Proof.Machine.execVcmpIlt a b d s
  | .vcmpIle a b d => Sys2Proof.Machine.execVcmpIle a b d s
  | .vcmpIltu a b d => Sys2Proof.Machine.execVcmpIltu a b d s
  | .vcmpIleu a b d => Sys2Proof.Machine.execVcmpIleu a b d s
  | .vrsum d a k => Sys2Proof.Machine.execVrsum d a k s
  | .vrmax d a k => Sys2Proof.Machine.execVrmax d a k s
  | .vrmin d a k => Sys2Proof.Machine.execVrmin d a k s
  | .vramax d a k => Sys2Proof.Machine.execVramax d a k s
  | .vmaxi d a k => Sys2Proof.Machine.execVmaxi d a k s
  | .vmini d a k => Sys2Proof.Machine.execVmini d a k s
  | .vrisum d a k => Sys2Proof.Machine.execVrisum d a k s
  | .vrimax d a k => Sys2Proof.Machine.execVrimax d a k s
  | .vrimin d a k => Sys2Proof.Machine.execVrimin d a k s
  | .vrimaxu d a k => Sys2Proof.Machine.execVrimaxu d a k s
  | .vriminu d a k => Sys2Proof.Machine.execVriminu d a k s
  | .vrand d a k => Sys2Proof.Machine.execVrand d a k s
  | .vror d a k => Sys2Proof.Machine.execVror d a k s
  | .vrxor d a k => Sys2Proof.Machine.execVrxor d a k s
  | .vexp2 d a k => Sys2Proof.Machine.execVexp2 d a k s
  | .vexpe d a k => Sys2Proof.Machine.execVexpe d a k s
  | .vlog2 d a k => Sys2Proof.Machine.execVlog2 d a k s
  | .vrcp d a k => Sys2Proof.Machine.execVrcp d a k s
  | .vrsq d a k => Sys2Proof.Machine.execVrsq d a k s
  | .vmov d a k => Sys2Proof.Machine.execVmov d a k s
  | .vsplat d u => Sys2Proof.Machine.execVsplat d u s
  | .vmovs a n d => Sys2Proof.Machine.execVmovs a n d s
  | .vsel d a b k => Sys2Proof.Machine.execVsel d a b k s
  | .viota d k => Sys2Proof.Machine.execViota d k s
  | .vidx d a b k => Sys2Proof.Machine.execVidx d a b k s
  | .vnarrow d a c h r k => Sys2Proof.Machine.execVnarrow d a c h r k s
  | .vwiden d a c h r k => Sys2Proof.Machine.execVwiden d a c h r k s
  | .vqrnd d a c h r k => Sys2Proof.Machine.execVqrnd d a c h r k s
  | .vmxq d a c h l => Sys2Proof.Machine.execVmxq d a c h l s
  | .vmxs d a c h l => Sys2Proof.Machine.execVmxs d a c h l s
  | .vmxc d a c h l => Sys2Proof.Machine.execVmxc d a c h l s
  | .vbaleq d a => Sys2Proof.Machine.execVbaleq d a s
  | .mma d a b u => Sys2Proof.Machine.execMma d a b u s
  | .mmaz d a b u => Sys2Proof.Machine.execMmaz d a b u s
  | .azero d => Sys2Proof.Machine.execAzero d s
  | .acopy d u => Sys2Proof.Machine.execAcopy d u s
  | .aadd d u n => Sys2Proof.Machine.execAadd d u n s
  | .tzero a => Sys2Proof.Machine.execTzero a s
  | .tcopy a b => Sys2Proof.Machine.execTcopy a b s
  | .ttrn a b => Sys2Proof.Machine.execTtrn a b s
  | .tfwd a r => Sys2Proof.Machine.execTfwd a r s
  | .ttake a b => Sys2Proof.Machine.execTtake a b s
  | .powerLoss => Sys2Proof.Machine.execPowerLoss s
  | .functionReset p => Sys2Proof.Machine.execFunctionReset p s
  | .linkReturn k => Sys2Proof.Machine.execLinkReturn k s

end Sys2Proof.Machine
end

