-- ==== Sys2Proof/Machine/Issue.lean ====
section
/-! DEFINITION. The issue of a packet (04 R87 to R99, R107, R115; 15 R359, R372): fetch, decode, the checks made at decode, both slot
instructions with their sources read before either writes, and retirement together or not at all. -/

namespace Sys2Proof.Machine

/-- The packet that the current core issues next: an operation of a MACRO, or the packet at PC (R90, R111, R115). Held while its
line is not filled. -/
def fetch (s : State) : Res (Word32 × Word32) :=
  let k := s.me
  let pc := k.r.pc.toNat
  match k.macroOp with
  | some (w0, w1, _) => .ok (w0, w1)
  | none =>
    if isMgmt s.cur then
      let bs := s.bytes (hbmKey s 0 pc) 8
      .ok (BitVec.ofNat 32 (leNat bs), BitVec.ofNat 32 (leNat (bs.drop 4)))
    else if !inCode s s.cur pc 8 then .error (trapAt cPERMISSION 2 pc)
    else
      match findLine s s.cur pc with
      | none => .error .hold
      | some l => if l.marked.contains (pc % 64 / 8) then .error (trapC cILLEGAL) else .ok (l.word pc, l.word (pc + 4))

/-- The C-slot and A-slot majors that need a fold (R359). -/
def foldMajorC (m : Nat) : Bool :=
  [0x07, 0x08, 0x13, 0x14].contains m || decide (0x17 ≤ m ∧ m ≤ 0x22 ∧ m ≠ 0x16)
def foldMajorA (m : Nat) : Bool := decide (0x10 ≤ m ∧ m ≤ 0x1A)

/-- Two slots write the same general register (R95). -/
def pairConflict (vl : Nat) (c a : Instr) : Bool := (gDests vl c).any fun r => r != 0 && (gDests vl a).contains r

/-- The vector register that an A-slot word of a vector major writes, VMOVS and VCMP apart (R100). -/
def vectorDest (w1 : Word32) : Option Nat :=
  let m := (bits w1 26 6).toNat
  if [0x10, 0x11, 0x13, 0x14, 0x16].contains m ∨ (m = 0x15 ∧ bits w1 0 5 ≠ 2#5) then some (bits w1 22 4).toNat else none

/-- Both slots push into one bound vector stream (R95). -/
def vectorConflict (k : Core) (c : Instr) (w0 w1 : Word32) : Bool :=
  let both (d : Nat) : Bool := bits w0 31 1 == 0#1 && (boundV k d).isSome && vectorDest w1 == some d
  match c with
  | .ldv _ d _ _ _ _ => both d.toNat
  | .ldf _ d _ _ => both d.toNat
  | _ => false

/-- MTC to a register of R135 that a unit may not write. -/
def privilegedMtc (c : Instr) : Bool :=
  match c with
  | .mtc _ _ n => ctlPrivileged n.toNat
  | _ => false

/-- The packet's C-slot instruction ends the run of the unit on its core, or may: the A-slot's effects come first (R97, R351). -/
def mayLeave (c : Instr) : Bool :=
  match c with
  | .exit _ => true
  | .yield _ => true
  | .cancel _ _ _ => true
  | .evwait _ _ => true
  | .recv _ _ _ => true
  | .fork _ _ _ _ => true
  | .join _ _ => true
  | .ssync _ => true
  | _ => false

/-- A trap of the A-slot as EINFO records it, taken from the state before the packet (R97). -/
def trapOf (s : State) (a : Instr) (cause : BitVec 8) (info : Word) : Trap :=
  { cause := cause, acc := BitVec.ofNat 2 (fld info 55 54), val := fld info 53 53 == 1, data := fld info 47 0,
    deferred := if fld info 49 49 = 1 then
      some (if (s.me.failedRd (gSrcs s.me.r.vl a)).isSome then 8 else fld info 52 50) else none }

/-- The bindings whose rings lost entries from one state of a core to another: those that an instruction popped (R95). -/
def poppedFrom (k k' : Core) : List Nat :=
  (k.streams.filter fun x => !x.2.writes && decide ((mget Stream.unbound k'.streams x.1).ring.length < x.2.ring.length)).map (·.1)

/-- How both slots of a packet ended. -/
inductive Pair where
  | done (s : State)
  | held
  | stalled (s : State)
  | trapped (s : State)
  | other (o : Host.Outcome State Fault Refusal)

/-- Both slots of a packet from the state before it (R94 to R98): waits before issue first, then traps of the C-slot, of the A-slot,
then a stall of the C-slot's own. A translation of the C-slot's that is being resolved may still trap, before the A-slot does. -/
def runPair (s0 : State) (c a : Instr) : Pair :=
  let l : Latch := { core := s0.me, m := (s0.fold (foldOf s0.cur)).matrix, popped := [] }
  match exec c s0 with
  | .next s1 =>
    if s1.issue = .held then .held
    else
      let base := if s1.issue = .done ∧ !mayLeave c then s1 else s0
      match exec a { base with latch := some { l with popped := poppedFrom s0.me base.me } } with
      | .next s2 =>
        match s1.issue, s2.issue with
        | .trapped _ _, .held => .held
        | .trapped _ _, _ => .trapped s1
        | _, .held => .held
        | i, .trapped cause info =>
          if i = .stalled ∧ (s1.me.tfault.isSome ∨ s1.me.walkWait.isSome) then .stalled s1 else .trapped (takeTrap s0 (trapOf s0 a cause info) true)
        | .stalled, _ => .stalled s1
        | _, .stalled => .stalled s0
        | _, _ =>
          if mayLeave c then
            match exec c { s2 with latch := some { l with popped := poppedFrom s0.me s2.me } } with
            | .next s3 => if s3.issue = .done then .done s3
              else .stalled (s2.updMe fun k => { k with aDone := true })
            | o => .other o
          else .done s2
      | o => .other o
  | o => .other o

/-! ## Fingerprints of a yoked pair (R372) -/

/-- An instruction that leaves the pair, with its event-unit accesses (R372, R398): it ends the interval. -/
def leavesPair (s : State) (c a : Instr) (w0 w1 : Word32) : Bool :=
  let m := (bits w0 25 6).toNat
  let ma := (bits w1 26 6).toNat
  let ev (b : BitVec 5) (o : BitVec 12) (n : Nat) : Bool :=
    windowOf (((fld (gval s b.toNat) 47 0 : Int) + o.toInt * n).toNat) == .eventUnit
  [0x15, 0x16, 0x17, 0x1A, 0x1B, 0x1E, 0x20, 0x22].contains m ||
  (match c with
    | .ld _ _ b z _ o => ev b o (2 ^ z.toNat)
    | .st _ _ b z o => ev b o (2 ^ z.toNat)
    | .send _ _ _ _ => true
    | .recv _ _ _ => true
    | .muster _ _ => true
    | .cancel _ _ _ => true
    | .tlbinv _ _ _ _ => true
    | .exit _ => true
    | .yield _ => true
    | .unyoke _ => true
    | _ => false) ||
  (bits w0 31 1 == 0#1 && [0x18, 0x19, 0x1A].contains ma && (match a with
    | .nopASlot => false
    | _ => true))

/-- A slot's instruction enters the fingerprint as its word: one that leaves the pair, a matrix instruction (R237), or one that feeds the
engines (R289). -/
def actsC (s : State) (c : Instr) (w0 : Word32) : Bool :=
  leavesPair s c .nopASlot w0 0 || [0x1C, 0x1D, 0x1F, 0x21].contains (bits w0 25 6).toNat
def actsA (a : Instr) (w0 w1 : Word32) : Bool :=
  bits w0 31 1 == 0#1 && [0x18, 0x19, 0x1A].contains (bits w1 26 6).toNat && (match a with
    | .nopASlot => false
    | _ => true)

/-- The general registers that an action records, in field order (R372): of an MXCMD, rc only where the command streams (R233). -/
def actionRegs (s0 : State) (i : Instr) : List Nat :=
  match i with
  | .mxcmd l _ a b _ => if streamed ((rbval s0 l b.toNat).truncate 32) then gSrcs s0.me.r.vl i else [a.toNat] ++ rbReg l b
  | _ => gSrcs s0.me.r.vl i

/-- The record of register writes, in increasing number: one for those whose values are there, and one for each that is still to come. -/
def regRecords (k : Core) (rs : List Nat) : List LateRec :=
  rs.foldr (fun r xs =>
    if k.pending r then { regs := [r], bytes := [], store := false } :: xs
    else match xs with
      | { regs := [], bytes := bs, store := st } :: ys => { regs := [], bytes := regBytes k r ++ bs, store := st } :: ys
      | _ => { regs := [], bytes := regBytes k r, store := false } :: xs) []

/-- The records of a packet that leaves core k as it retires (R372): the registers it writes, the bytes of an MTC, a store, and the actions of
both slots; and last the register that an AMO or a drove request of its own has yet to write. -/
def fpRecords (s0 : State) (k : Core) (c a : Instr) (w0 w1 : Word32) : List LateRec :=
  let k0 := s0.me
  let rs := (List.range 32).filter fun r => r != 0 && ((gDests k0.r.vl c).contains r || (gDests k0.r.vl a).contains r)
  let awaited (r : Nat) : Bool := (k.loads.drop k0.loads.length).any (fun l => l.isAmo && l.writesG && l.rd == r) ||
    (k.drove.drop k0.drove.length).any fun q => q.op.returns && q.rd == r
  let mtc := match c with
    | .mtc _ b n => [2#8] ++ leBytes 2 n.toNat ++ leBytes 8 (gval s0 b.toNat).toNat
    | _ => []
  let st := match c with
    | .st _ r b z o =>
      let n : Nat := 2 ^ z.toNat
      let v := ((fld (gval s0 b.toNat) 47 0 : Int) + o.toInt * n).toNat
      if actsC s0 c w0 then [] else [3#8] ++ leBytes 8 v ++ [BitVec.ofNat 8 n] ++ leBytes n (gval s0 r.toNat).toNat
    | _ => []
  let action (acts : Bool) (w : Word32) (i : Instr) : List Byte :=
    if acts then [4#8] ++ leBytes 4 w.toNat ++ (actionRegs s0 i).flatMap fun r => leBytes 8 (gval s0 r).toNat else []
  regRecords k (rs.filter fun r => !awaited r) ++
  [{ regs := [], bytes := mtc ++ st ++ action (actsC s0 c w0) w0 c ++ action (actsA a w0 w1) w1 a, store := decide (k0.vstores < k.vstores) }] ++
  (rs.filter awaited).map fun r => { regs := [r], bytes := [], store := false }

/-- What a packet added at the places where a pair's interval accepts work (R372). -/
def grown (k0 k : Core) (m : SMap Nat) : SMap Nat :=
  let add (m : SMap Nat) (i old new : Nat) : SMap Nat := if old < new then mset 0 m i (mget 0 m i + (new - old)) else m
  let m := (List.range 8).foldl (fun m q => add m q (k0.queue q).entries.length (k.queue q).entries.length) m
  let m := add (add (add m 8 k0.drove.length k.drove.length) 9 k0.sends.length k.sends.length) 10 k0.pieces.length k.pieces.length
  add m 11 (k0.loads.filter Load.isAmo).length (k.loads.filter Load.isAmo).length

/-! ## Retirement -/

/-- A packet retires: PC advances; inside a macro ESTAT.MSTEP does, and PC after the last operation (R115). -/
def retire (s0 s : State) (c a : Instr) (w0 w1 : Word32) : State :=
  let k0 := s0.me
  let k := s.me
  let k := { k.landed reqPacket with lodcounted := false, aDone := false, hostFail := false }
  let k := match k0.macroOp, k.macroOp with
    | some (_, _, last), _ =>
      let j := fld (k0.ctl 0x083) 4 0
      let k := k.setCtl 0x083 (putFld (k.ctl 0x083) 4 0 (if last then 0 else j + 1))
      { k with macroOp := none, r := { k.r with pc := if last then k0.r.pc + 8 else k0.r.pc } }
    | none, some _ => { k with r := { k.r with pc := k0.r.pc } }
    | none, none => { k with r := { k.r with pc := k.r.npc } }
  let isMacro := k0.macroOp.isNone && k.macroOp.isSome
  let k := match k0.yoke, k.yoke with
    | some _, some y =>
      if isMacro then k
      else
        { k with yoke := some { y with
            late := y.late ++ fpRecords s0 k c a w0 w1, queued := grown k0 k y.queued, ivpos := y.ivpos + 1,
            close := y.close || leavesPair s0 c a w0 w1 } }
    | _, _ => k
  let s' := { s.setMe k with latch := none, issue := .done }
  -- The unit left its core, which ended its pair's last interval (R372).
  match k0.yoke, k.yoke, c with
  | some _, none, .unyoke _ => s'
  | some y, none, _ =>
    let k1 := ({ k with yoke := some { y with late := y.late ++ fpRecords s0 k c a w0 w1 } }).flushLate
    let fp := (k1.yoke.map (·.fp)).getD 0
    (s'.updMe fun k => k.setCtl 0x091 fp).updCore (partnerCore s.cur) fun k => k.setCtl 0x091 fp
  | _, _, _ => s'

/-- A held packet stalls on the sequencer (R195): it counts once in LODC. -/
def countLodc (s0 : State) (c a : Instr) : State :=
  let k := s0.me
  let vl := k.r.vl
  let waits := (gSrcs vl c ++ gSrcs vl a).any (fun r => k.awaitsV r) || (match c with
    | .mfc _ _ n => n == 0x011#12 && !k.seqr.isEmpty
    | .mtc _ _ n => n == 0x011#12 && !k.seqr.isEmpty
    | _ => false)
  if waits && !k.lodcounted then
    let n := k.ctl 0x014
    s0.setMe ({ k with lodcounted := true }.setCtl 0x014 (putFld n 31 0 (min (2 ^ 32 - 1) (fld n 31 0 + 1))))
  else s0

/-- Before a packet of a yoked pair (R371, R372): the first one sets the agreeing point; what a packet that leaves the pair orders
after earlier stores finds them released, since both cores agree so far. -/
def firstPoint (leaves : Bool) (k : Core) : Core :=
  let k := k.flushLate
  match k.yoke with
  | none => k
  | some y =>
    let y := if y.agree.isNone then { y with agree := some k.r, point := some k.point } else y
    if leaves && y.other.isNone && k.stores.isEmpty then { k with yoke := some { y with held := [] }, stores := y.held }
    else { k with yoke := some y }

/-- The DROVE trap that a core's next packet takes after 16 revolutions of its capture (R318). -/
def captureOver (k : Core) : Option Trap :=
  match k.droveErr with
  | some (e, rds) =>
    if rds.contains 32 then some { cause := e.cause, acc := e.acc, val := e.val, data := e.data, deferred := some 33 } else none
  | none => none

/-- A packet of decoded instructions (R94 to R99), from the state before it. -/
def issuePair (s : State) (c a : Instr) (w0 w1 : Word32) : Host.Outcome State Fault Refusal :=
  let s := s.updMe (firstPoint (leavesPair s c a w0 w1))
  let k := s.me
  let s0 := s.setMe { k.sweepFences s s.cur with r := { k.r with npc := k.r.pc + 8 } }
  let bad := match k.yoke with
    | some y => y.other.isSome && leavesPair s c a w0 w1
    | none => false
  if let some t := captureOver k then .next (takeTrap s0 t false)
  else if bad then .next { s.setMe { k with yoke := k.yoke.map fun y => { y with close := true } } with issue := .stalled }
  else
    match runPair s0 c (if k.aDone then .nopASlot else a) with
    | .done s1 => .next (retire s0 s1 c a w0 w1)
    | .held => .next { countLodc s0 c a with latch := none, issue := .held }
    | .stalled s1 => .next { s1 with latch := none, issue := .stalled }
    | .trapped s1 => .next { s1 with latch := none }
    | .other o => o

/-- The packet of two words at the current core (R98): order 1 is fetch's; orders 2 to 5 are decided here, at decode. -/
noncomputable def issueWords (s : State) (w0 w1 : Word32) : Host.Outcome State Fault Refusal :=
  let ill (slotA : Bool) : Host.Outcome State Fault Refusal :=
    .next (takeTrap s { cause := cILLEGAL, acc := 3, val := false, data := 0, deferred := none } slotA)
  let mg := isMgmt s.cur
  match decodePacket w0 w1 with
  | .error (.word1Reserved _) =>
    match decodePacket w0 0 with
    | .ok p => ill (p.cside.wf && !(mg && foldMajorC (bits w0 25 6).toNat))
    | .error _ => ill false
  | .error _ => ill false
  | .ok p =>
    if !p.cside.wf || (mg && foldMajorC (bits w0 25 6).toNat) then ill false
    else if !p.aside.wf || (mg && foldMajorA (bits w1 26 6).toNat && bits w0 31 1 == 0#1) then ill true
    else if pairConflict s.me.r.vl p.cside p.aside || vectorConflict s.me p.cside w0 w1 then
      .next (takeTrap s { cause := cPAIR, acc := 3, val := false, data := 0, deferred := none } false)
    else if !mg && privilegedMtc p.cside then
      .next (takeTrap s { cause := cPRIVILEGED, acc := 3, val := false, data := 0, deferred := none } false)
    else issuePair s p.cside p.aside w0 w1

/-- Packet issue of core c. -/
noncomputable def issuePacket (s : State) (c : Nat) : Host.Outcome State Fault Refusal :=
  let s := { s with cur := c, latch := none }
  match fetch s with
  | .error e => settle s (.error e)
  | .ok (w0, w1) => issueWords s w0 w1

end Sys2Proof.Machine
end

