-- ==== Sys2Proof/Machine/Agents.lean ====
section
/-! DEFINITION. Which agent moves when the agenda names none (log 3): rounds of one clk in which each running core issues a
packet, and the events that are due. Events that the outside world makes (the host, other devices, errors, power) come from the
agenda alone. -/

namespace Sys2Proof.Machine

/-- The events that core c's own agents may make. -/
noncomputable def coreEvents (s : State) (c : Nat) : List Instr :=
  let k := s.core c
  let qs := k.queues.map (·.1)
  let bs := k.streams.map (·.1)
  ((neededLine s c).map (Instr.icacheFill c)).toList ++
  [.translationResolve c] ++ (List.range k.loads.length).map (Instr.loadReturn c) ++ [.storeDrain c] ++
  qs.flatMap (fun q => [.tileArrival c q, .streamedBFaultResolved c q, .copyFaultResolved c q, .matrixEntryPerform c q, .copyEntryPerform c q]) ++
  [.mxcmdRemoteAccept c, .mxcmdAnswer c] ++ bs.flatMap (fun b => [.streamFill c b, .streamDrainEntry c b]) ++
  [.messageArrival c] ++ (List.range k.pieces.length).map (Instr.pieceAccept c) ++
  (List.range k.xfers.length).map (Instr.exchangeTransferWrite c) ++
  [.droveRequestApply c, .droveRequestFail c, .captureTimeout c, .recvtTimeout c, .wfiTimeout c, .intervalEnd c] ++
  (k.yoke.map fun y => Instr.thirdRunComplete c y.fp).toList ++
  (if s.downLinks.isEmpty then [] else (List.range (k.loads.length + (requests s c).length)).map (Instr.escapeMove c)) ++
  [.exchangePhaseEnd c, .corePreempt c, .preemptForceTimeout c]

/-- The head entries of the sequencers whose last slice has issued. -/
def vectorEvents (s : State) : List Instr :=
  (s.cores.filter fun x => x.2.vhead.any fun e => decide (e.left = 0)).map fun x => Instr.vectorEntryComplete x.1

/-- Cores that a placement may serve: those of the folds of launches with units to place. -/
def placeCores (s : State) (p : Nat) : List Nat :=
  ((s.part p).launches.filter fun x => !x.2.det && decide (x.2.stage = .ready ∨ x.2.stage = .placed)).flatMap fun x =>
    (launchFolds s p x.2).flatMap fun f => span (8 * f) 8

/-- Launch blocks of a partition. -/
def launchBlocks (s : State) (p : Nat) : List Nat := (s.part p).launches.map (·.1)

/-- The domains of a launch's schedule (R299), domain 0 included. -/
def domainsOf (l : Launch) : List Nat := 0 :: (List.range (schedNdom l.sched)).map fun i => fld (dw l.sched (1 + i)) 15 0

/-- The events that a partition's scheduler and front end may make. -/
def partEvents (s : State) (p : Nat) : List Instr :=
  let q := s.part p
  let bs := launchBlocks s p
  [.svcTick p, .jobRemovalComplete p] ++ q.jobs.map (fun x => Instr.ptrootApply p x.1) ++
  q.queues.flatMap (fun x => [.recordRead p x.1, .retryWaitEnd p x.1, .blockedReread p x.1]) ++
  q.launches.flatMap (fun x => (domainsOf x.2).map (Instr.superstepRelease p x.1)) ++
  bs.flatMap (fun b => [.rollback p b, .noteWrite p b, .launchResume p b, .gangPlace p b]) ++
  (placeCores s p).map Instr.unitPlace ++ [.phaseStopWrite p]

/-- The beats of a partition's streams: routers first, then the ranks' interfaces. -/
def streamEvents (s : State) (p : Nat) : List Instr :=
  (s.part p).streams.flatMap fun x =>
    (if x.2.direct then x.2.flows.map (·.1) else x.2.routers.map (·.1)).map (fun f => Instr.routerBeat p f x.1) ++
    (List.range x.2.ranks.length).map fun i => Instr.portBeatArrival p x.1 (.chunk i)

/-- The events that may be due, in the model's order. -/
noncomputable def candidates (s : State) : List Instr :=
  let ps := List.range (nparts s.layout)
  let cs := s.cores.map (·.1)
  cs.flatMap (coreEvents s) ++ vectorEvents s ++
  s.folds.flatMap (fun x => x.2.barriers.map fun b => Instr.barrierRelease x.1 b.1) ++
  ps.flatMap (streamEvents s) ++ ps.flatMap (partEvents s) ++ s.downLinks.map fun k => Instr.downLinkTimeout k.1

/-- Event i is due: it does something when performed. -/
noncomputable def due (s : State) (i : Instr) : Bool :=
  match exec i s with
  | .next t => decide (t.issue ≠ .held)
  | _ => false

/-! ## The clk (R71, R74 to R86, R313) -/

/-- The unit placements, which take effect within 64 clk (R76). -/
def placements (s : State) : List Instr := ((List.range (nparts s.layout)).flatMap (placeCores s)).map Instr.unitPlace

/-- The releases of barrier lines and of launch domains, which take effect within 256 clk (R297, R299). -/
def releases (s : State) : List Instr :=
  s.folds.flatMap (fun x => x.2.barriers.map fun b => Instr.barrierRelease x.1 b.1) ++
  (List.range (nparts s.layout)).flatMap fun p =>
    (s.part p).launches.flatMap fun x => (domainsOf x.2).map (Instr.superstepRelease p x.1)

/-- The events of core c that come at a clk of their own: a slot passes, a time limit ends. -/
def coreTimers (c : Nat) : List Instr :=
  [.droveRequestApply c, .droveRequestFail c, .captureTimeout c, .recvtTimeout c, .wfiTimeout c, .watchdogFire c, .preemptForceTimeout c]

/-- The clk of those events that the core waits for. -/
def coreTimes (s : State) (c : Nat) : List Nat :=
  let k := s.core c
  ((droveNext s c).bind fun x => x.2.2.at s).toList ++ (k.cap.map fun x => x.since + 16 * 1024).toList ++
  (match k.wait with | some (.recvt u) => [u] | some (.deadline u) => [u] | _ => []) ++ (k.preempt.map (· + 16384)).toList ++
  (if (persistentOn s c).isSome then [watchdogAt s c] else [])

/-- Some job of partition p holds a fold, so that its service count may rise (R71). -/
def svcRuns (s : State) (p : Nat) : Bool := (s.part p).jobs.any fun x => !(jobFolds s p x.1).isEmpty

/-- The events of partition p that come at a clk of their own. -/
def partTimers (s : State) (p : Nat) : List Instr :=
  (if svcRuns s p then [.svcTick p] else []) ++ (s.part p).queues.map fun x => .retryWaitEnd p x.1

/-- The clk of those events that the partition waits for. -/
def partTimes (s : State) (p : Nat) : List Nat :=
  (if svcRuns s p then [(s.part p).svcNext] else []) ++ (s.part p).queues.map (·.2.waitEnd)

/-- The event that must happen before the present clk ends, if there is one. -/
noncomputable def forced (s : State) : Option Instr :=
  (vectorEvents s ++ s.cores.flatMap (fun x => coreTimers x.1) ++ (List.range (nparts s.layout)).flatMap (partTimers s) ++
    s.downLinks.map (fun k => Instr.downLinkTimeout k.1) ++ (if s.clk % 64 = 0 then placements s else []) ++
    (if s.clk % 256 = 0 then releases s else [])).find? (due s)

/-- How many of the next n clk may pass before an event must happen, or a core must have its turn again. -/
noncomputable def room (s : State) (n : Nat) : Nat :=
  let n := if s.cores.any fun x => mayIssue s x.1 then min 1 n else n
  let ts := s.cores.flatMap (fun x => coreTimes s x.1) ++ (List.range (nparts s.layout)).flatMap (partTimes s) ++
    s.linkWaits.map (·.since + 2000000) ++ (s.bootPlan.head?.map fun x => x.2 * clkMs).toList ++
    (if (placements s).any (due s) then [s.clk + 64 - s.clk % 64] else []) ++
    (if (releases s).any (due s) then [s.clk + 256 - s.clk % 256] else [])
  ts.foldl (fun n t => if s.clk < t then min n (t - s.clk) else n) n

/-- The service counts of a partition whose jobs hold no fold stay as they are; its ticks pass unseen (R71). -/
def skipTicks (s : State) : State :=
  { s with parts := s.parts.map fun x =>
      if svcRuns s x.1 ∨ s.clk < x.2.svcNext then x
      else (x.1, { x.2 with svcNext := x.2.svcNext + 1024 * ((s.clk - x.2.svcNext) / 1024 + 1) }) }

/-- At most n clk pass, up to the next event that must happen; the start-up goes on with them (R409). -/
noncomputable def pass (s : State) (n : Nat) : State := bootStep (skipTicks (s.advance (room s n)))

/-! ## Rounds -/

/-- The core whose turn it is: the first that may issue and has not tried to in this clk; none at the end of a round. -/
def nextCore (s : State) : Option Nat := (s.cores.map (·.1)).find? fun c => !s.hadTurn c

/-- Core c has its turn: it issues its next packet, or tries to (R88: at most one in a clk). -/
noncomputable def turnOf (s : State) (c : Nat) : Host.Outcome State Fault Refusal := issuePacket { s with issued := c :: s.issued } c

/-- The event that happens next: the first that is due, from a place in the list that moves with clk. -/
noncomputable def nextEvent (s : State) : Option Instr :=
  let cs := candidates s
  (cs.rotateLeft (s.clk % max 1 cs.length)).find? (due s)

/-- The next event, if one is due. -/
noncomputable def eventStep (s : State) : Host.Outcome State Fault Refusal :=
  match nextEvent s with
  | some i => exec i s
  | none => .next s

/-- A step that the agenda leaves to the machine. In each round, which takes one clk, every core that may issues one packet; then come the
events that must happen in this clk, and one that may happen in the next. Another happens wherever a packet waits. -/
noncomputable def autoStep (s : State) : Host.Outcome State Fault Refusal :=
  if !s.powered then .fault .unpowered
  else
    match nextCore s with
    | none =>
      match forced s with
      | some i => exec i s
      | none => eventStep (pass s 1)
    | some c =>
      match turnOf s c with
      | .next s' => if s'.issue = .held ∨ s'.issue = .stalled then eventStep s' else .next s'
      | o => o

end Sys2Proof.Machine
end

