-- ==== Sys2Proof/Machine/Step.lean ====
section
/-! DEFINITION. One step of the device (log 3), and a state whose next step runs a given instruction (logs 1, 2). -/

namespace Sys2Proof.Machine

/-- The clk that pass before a turn: a core that has issued in this one has its next turn in the next (R88). -/
def Turn.wait (t : Turn) (s : State) : Nat := if t.ev.isNone ∧ s.issued.contains t.core then max 1 t.dt else t.dt

/-- A step: the agenda's next turn, an event of the table or the packet issue of a core, once the clk before it have passed. No clk passes
before each core that may issue has had its turn in it, and the events that must happen in it have (R88, R195). With an empty agenda, what
moves next by itself. -/
noncomputable def step (s : State) : Host.Outcome State Fault Refusal :=
  match s.agenda with
  | [] => autoStep s
  | t :: ts =>
    if t.wait s = 0 then
      let s' := { s with agenda := ts }
      match t.ev with
      | some i => exec i s'
      | none => turnOf s' t.core
    else
      match nextCore s, forced s with
      | some c, _ => turnOf s c
      | none, some i => exec i s
      | none, none =>
        let s' := pass s (t.wait s)
        .next { s' with agenda := { t with dt := t.wait s - (s'.clk - s.clk) } :: ts }

/-- The launch whose code `withFetchWord` places: one page of code at address 0x10000, nothing else. -/
def probeLaunch : Launch :=
  { rcd := 0, plen := 0, param := 0, job := 0, phase := 0xFFF, graph := 0x3FFF, node := 0, succ := [], wdog := 0, pers := false,
    det := false, nbv := 4, units := 1, fcount := 1, fbase := 0, map := [], arena := 0, anum := 0, bdom := 0, note := 0, nval := 0,
    code := 0x10000, entry := 0x10000, csize := 0x1000, stack := 0, lmem := 0, patches := [], decls := [], routines := [],
    sched := [], nmacro := 0, mstore := 0, nss := 0, stage := .placed, queued := true, accept := 0, tag := 0, setup := [0], homes := [],
    starved := [], recvs := [], joins := [], record := [], live := [] }

/-- The state in which core 0 holds a unit of a launch whose next packet is the table word's, in a filled code line (log 2). -/
noncomputable def State.withFetchWord (s : State) (nbits w : Nat) : State :=
  let ws := tableWords (w % 2 ^ nbits)
  let bs := leBytes 4 ws.1.toNat ++ leBytes 4 ws.2.toNat ++ List.replicate 56 0
  let line : ICLine := { part := 0, blk := 0, addr := 0x10000, raw := bs, bytes := bs, marked := [], bad := false }
  let occ : Occ := { part := 0, blk := 0, k := 0, rcd := 0, flagged := false, ss := 0, pos := 0, stage := 0, running := true,
                     xrout := false, since := s.clk }
  let s := s.updFold 0 fun f => { f with icache := [line] }
  let s := s.updPart 0 fun p => { p with launches := mput p.launches 0 probeLaunch }
  let s := s.updCore 0 fun k => { k with occ := some occ, macroOp := none, partnerOf := none, yoke := none,
                                         r := { k.r with pc := 0x10000, npc := 0x10000 } }
  { s with agenda := { dt := 0, core := 0, ev := none } :: s.agenda, issued := [], latch := none }

end Sys2Proof.Machine
end

