-- ==== Sys2Proof/Safety.lean ====
section
/-! DEFINITION. What counts as a safe run, and the terms in which claims speak of one instruction: when its registers are free, what a
register write leaves, and that it completes. -/

namespace Sys2Proof

/-- A run of k steps from a state is safe when it ends in a state: no step of it ends in a fault or a refusal. -/
def Safe (k : Nat) (s : Machine.State) : Prop := ∃ t : Machine.State, Host.Core.run core k s = .next t

namespace Machine

/-- Registers that wait for no agent (R88) and are bound to no stream (R277). -/
def plainRegs (s : State) (rs : List Nat) : Bool := rs.all fun r => !s.pre.pending r && (boundG s.pre r).isNone

/-- Nothing holds an instruction with these source and destination registers back: they are plain, and no source is the destination of a
drove request that failed (R313). -/
abbrev Ready (s : State) (srcs dests : List Nat) : Prop := plainRegs s (srcs ++ dests) = true ∧ s.pre.failedRd srcs = none

/-- The state in which the current core's general register d holds v; g0 stays as it is (R89). -/
def State.wroteG (s : State) (d : Nat) (v : Word) : State :=
  if d = 0 then s else s.updMe fun k => { k with r := { k.r with g := mset 0 k.r.g d v } }

/-- An instruction or event completes in a state that is t but for the record of how the step ended (log 3). -/
def Completes (i : Instr) (s t : State) : Prop := exec i s = .next { t with issue := .done }

/-- An instruction traps with a cause: the next state is the trap entry of R348. -/
def Traps (i : Instr) (s : State) (cause : BitVec 8) : Prop :=
  ∃ t : Trap, t.cause = cause ∧ exec i s = .next (takeTrap s t s.latch.isSome)

end Machine

end Sys2Proof
end

