-- ==== Sys2Proof/Certificates/Slice0/Obligations.lean ====
section
/-! DEFINITION. The statements that this model's provers are asked to prove, and the tables of the spec that they read instructions from. -/

open Sys2Proof Sys2Proof.Machine

/-! ## The machine: decoding, a step, reset and memory -/

/-- Words written out from the field layouts of R100, R101, R105 and R106, one of every format: they decode to the instructions they stand
for; a word with a reserved field does not decode (R107). -/
def Obligations.WordsDecodeAsTheTablesSay : Prop :=
  -- C-I MFC g5, PARAM (0x0B2); A-R ADD g3, g1, g2
  decodePacket 0b00000010010100000000000010110010#32 0b00000100011000010001000000000000#32 =
    .ok ⟨.mfc none 5 0x0B2, .add 3 1 2⟩ ∧
  -- C-R ADDA g22, g8, g22; A-R ADD g3, g1, g2
  decodePacket 0b00010111011001000101100000000000#32 0b00000100011000010001000000000000#32 =
    .ok ⟨.adda none 22 8 22, .add 3 1 2⟩ ∧
  -- C-E TLD.q0 T2, [g3], g11, alone on its line (R233's example)
  decodePacket 0b11000000000001101011000100000000#32 0#32 = .ok ⟨.tld (some 0) 0 3 11 2, .nopASlot⟩ ∧
  -- C-X AMO.AMAXRST.W.D g5, [g3], 0, alone on its line (R290's example)
  decodePacket 0b10101010010100011000001000001110#32 0#32 = .ok ⟨.amoAmaxrst (some 0) 5 3 0 2 0 0, .nopASlot⟩ ∧
  -- C-M LD.W g6, [g5 + 3 × 4], sign-extended; A-I ADDI g7, g7, -1
  decodePacket 0b00001010011000101101000000000011#32 0b00010100111001111111111111111111#32 =
    .ok ⟨.ld none 6 5 2 1 3, .addi 7 7 0xFFFF⟩ ∧
  -- C-B BR LT g1, g2, -2 packets; A-V VFMA v1, v2, v3, v4 unmasked
  decodePacket 0b00011010000100010001011111111110#32 0b01000000010010001101000000000101#32 =
    .ok ⟨.br none 1 2 2 0x7FE, .vfma 1 2 3 4 0⟩ ∧
  -- C-J J 16; A-M MMAZ a2, T3, T4
  decodePacket 0b00011110000000000000000000010000#32 0b01100001000011001000000000000001#32 =
    .ok ⟨.j none 16, .mmaz 2 3 4 0⟩ ∧
  -- C-L LDL g2, companion literal 0x80000000
  decodePacket 0b10001000001010000000000000000000#32 0x80000000#32 = .ok ⟨.ldlC 2 0x80000000, .nopASlot⟩ ∧
  -- C-L kind 0b11 is reserved (R102); word 1 of major 0x0D is none of R106's
  decodePacket 0b00001000001011000000000000000000#32 0#32 = .error (.word0Reserved 0b00001000001011000000000000000000#32) ∧
  decodePacket 0#32 0b00110100000000000000000000000000#32 = .error (.word1Reserved 0b00110100000000000000000000000000#32)

/-- Decoding the words that encode a packet gives it back, with every field at every value (R87, R100 to R106). Every packet of a C-slot
and an A-slot instruction has such words, where a companion literal leaves the A-slot its NOP. -/
def Obligations.DecodeEncodeRoundTrip : Prop :=
  ∀ p : Packet, slotKind p.cside = .c → slotKind p.aside = .a → (literalOf p.cside = none ∨ p.aside = .nopASlot) →
    p.cside.wf = true → p.aside.wf = true →
    ∃ w0 w1, encode p = some (w0, w1) ∧ decodePacket w0 w1 = .ok p

/-- A step whose turn names an event of the table is the meaning of that event, once no clk of the turn are left. Until then no clk passes
before each core that may issue has had its turn in it (R88), and before the events that must happen in it have; else time passes, which
changes no register and no memory. That the machine's own steps are ordered so is the model's choice (log 3). -/
def Obligations.StepRunsTheEvent : Prop :=
  ∀ (s : State) (t : Turn) (ts : List Turn), s.agenda = t :: ts →
    (∀ i, t.dt = 0 → t.ev = some i → step s = exec i { s with agenda := ts }) ∧
    (∀ c, t.wait s ≠ 0 → nextCore s = some c → step s = turnOf s c) ∧
    (∀ i, t.wait s ≠ 0 → nextCore s = none → forced s = some i → step s = exec i s) ∧
    (t.wait s ≠ 0 → nextCore s = none → forced s = none → ∃ (u : State) (n : Nat), 1 ≤ n ∧ n ≤ t.wait s ∧
      (let rest : Turn := { t with dt := t.wait s - n }
       step s = .next { u with agenda := rest :: ts }) ∧
      u.clk = s.clk + n ∧ u.mem = s.mem ∧ (s.bootPlan = [] → u.slots = s.slots) ∧ ∀ c, (u.core c).r = (s.core c).r)

/-- The state in which a packet's slots execute: the fences that order nothing any more are gone, and the packet after this one is next
(R88). -/
noncomputable def Spec.beforeSlots (s : State) : State :=
  let s1 := s.updMe id
  s1.setMe { s1.me.sweepFences s1 s1.cur with r := { s1.me.r with npc := s1.me.r.pc + 8 } }

/-- A core's step runs the packet that its PC names: both slot instructions of the decoded packet, the A-slot's with the sources of the state
before the packet (R94), then the next packet's address in PC. A core issues at most one packet in a clk (R88). Outside pairs (R371), macros (R115) and the Steading's cores; an
instruction that may end the unit's run has statements of its own. -/
def Obligations.StepRunsTheDecodedPacket : Prop :=
  ∀ (s : State) (t : Turn) (ts : List Turn) (w0 w1 : Word32) (p : Packet) (s1 s2 : State),
    s.agenda = t :: ts → t.dt = 0 → t.ev = none → s.issued.contains t.core = false →
    let e : State := { s with agenda := ts, issued := t.core :: s.issued, cur := t.core, latch := none }
    e.me.macroOp = none → e.me.yoke = none → e.me.aDone = false → captureOver e.me = none → isMgmt t.core = false →
    fetch e = .ok (w0, w1) → decodePacket w0 w1 = .ok p → p.cside.wf = true → p.aside.wf = true →
    pairConflict e.me.r.vl p.cside p.aside = false → vectorConflict e.me p.cside w0 w1 = false → privilegedMtc p.cside = false → mayLeave p.cside = false →
    let b := Spec.beforeSlots e
    exec p.cside b = .next s1 → s1.issue = .done → s1.me.macroOp = none → s1.me.yoke = none →
    let l : Latch := { core := b.me, m := (b.fold (foldOf t.core)).matrix, popped := poppedFrom b.me s1.me }
    exec p.aside { s1 with latch := some l } = .next s2 → s2.issue = .done →
    s2.cur = t.core → s2.me.macroOp = none → s2.me.yoke = none →
    step s = .next { s2.setMe { s2.me.landed reqPacket with lodcounted := false, aDone := false, hostFail := false,
                                                             r := { s2.me.r with pc := s2.me.r.npc } } with
                     latch := none, issue := .done }

/-- Words that are no packet trap with ILLEGAL: word 0 first, as the C-slot's, an operand form of its instruction that the spec reserves
included, then word 1, as the A-slot's (R98, R107). -/
def Spec.UndecodableWordsTrapIllegal : Prop :=
  ∀ (s : State) (c : Nat) (w0 w1 : Word32), fetch { s with cur := c, latch := none } = .ok (w0, w1) →
    let e : State := { s with cur := c, latch := none }
    let ill : Trap := { cause := cILLEGAL, acc := 3, val := false, data := 0, deferred := none }
    (decodeC w0 w1 = none → issuePacket s c = .next (takeTrap e ill false)) ∧
    (∀ i, decodeC w0 w1 = some i → bits w0 31 1 = 0#1 → decodeA w1 = none →
      (i.wf = false → issuePacket s c = .next (takeTrap e ill false)) ∧
      (i.wf = true → isMgmt c = false → issuePacket s c = .next (takeTrap e ill true)))

/-- A fetch outside the launch's code region traps with PERMISSION at the address fetched (R90). That EINFO.SLOT then names the C-slot is the model's choice (log 90). -/
def Spec.FetchOutsideCodeTraps : Prop :=
  ∀ (s : State) (c : Nat), (s.core c).macroOp = none → isMgmt c = false → inCode s c (s.core c).r.pc.toNat 8 = false →
    issuePacket s c = .next (takeTrap { s with cur := c, latch := none }
      { cause := cPERMISSION, acc := 2, val := true, data := (s.core c).r.pc.toNat, deferred := none } false)

/-- A unit's MTC to a register that only the Steading's cores write traps with PRIVILEGED before it executes (R135, R359). -/
def Spec.PrivilegedMtcTraps : Prop :=
  ∀ (s : State) (c : Nat) (w0 w1 : Word32) (n : BitVec 12) (p : Packet) (l : Lit) (r : BitVec 5),
    isMgmt c = false → fetch { s with cur := c, latch := none } = .ok (w0, w1) → decodePacket w0 w1 = .ok p →
    p.cside = .mtc l r n → ctlPrivileged n.toNat = true → p.cside.wf = true → p.aside.wf = true →
    issuePacket s c = .next (takeTrap { s with cur := c, latch := none }
      { cause := cPRIVILEGED, acc := 3, val := false, data := 0, deferred := none } false)

/-- Packets that trap before either slot instruction executes: words that decode to nothing, code that may not be fetched, and an MTC of a privileged register. -/
def Obligations.PacketsThatNeverReachTheirSlots : Prop := Spec.UndecodableWordsTrapIllegal ∧ Spec.FetchOutsideCodeTraps ∧ Spec.PrivilegedMtcTraps

/-- After power-good no core holds a unit and none is set up; every queue is DISABLED, FACC is not negotiated, every drove slot is EMPTY,
BOOTST reads 0 and no memory is listed (R10, R33, R64, R259, R409). -/
def Spec.ResetLeavesTheDeviceIdle : Prop :=
  (∀ c, (State.reset.core c).occ = none ∧ mayIssue State.reset c = false) ∧
  (∀ p q, ((State.reset.part p).queue q).st = .disabled ∧ (State.reset.part p).facc = 0 ∧ (State.reset.part p).launches = []) ∧
  (∀ i, (State.reset.slot i).state = .empty) ∧ State.reset.boot = 0 ∧ State.reset.clk = 0 ∧ State.reset.mem = []

/-- Memory's canonical form holds after reset. -/
def Spec.ResetMemoryIsCanonical : Prop := Memory.wf State.reset.mem = true

/-- What reset leaves: an idle device whose memory is in canonical form. -/
def Obligations.ResetState : Prop := Spec.ResetLeavesTheDeviceIdle ∧ Spec.ResetMemoryIsCanonical

/-- Every step keeps memory in its canonical form: addresses strictly rising, and no byte listed that reads so anyway. -/
def Obligations.StepKeepsMemoryCanonical : Prop :=
  ∀ s t : State, Memory.wf s.mem = true → step s = .next t → Memory.wf t.mem = true

/-! ## Scalar instructions -/

/-- The two-source scalar instructions of R140, R141, R142 and R146: destination, sources, and rd as a function of the sources. -/
inductive Spec.Alu2 : Instr → BitVec 5 → BitVec 5 → BitVec 5 → (Word → Word → Word) → Prop
  | add (d a b) : Alu2 (.add d a b) d a b fun x y => BitVec.ofNat 64 (x.toNat + y.toNat)
  | sub (d a b) : Alu2 (.sub d a b) d a b fun x y => BitVec.ofInt 64 (x.toInt - y.toInt)
  | and (d a b) : Alu2 (.and d a b) d a b fun x y => x &&& y
  | or (d a b) : Alu2 (.or d a b) d a b fun x y => x ||| y
  | xor (d a b) : Alu2 (.xor d a b) d a b fun x y => x ^^^ y
  | andn (d a b) : Alu2 (.andn d a b) d a b fun x y => x &&& ~~~y
  | min (d a b) : Alu2 (.min d a b) d a b fun x y => BitVec.ofInt 64 (Min.min x.toInt y.toInt)
  | max (d a b) : Alu2 (.max d a b) d a b fun x y => BitVec.ofInt 64 (Max.max x.toInt y.toInt)
  | minu (d a b) : Alu2 (.minu d a b) d a b fun x y => BitVec.ofNat 64 (Min.min x.toNat y.toNat)
  | maxu (d a b) : Alu2 (.maxu d a b) d a b fun x y => BitVec.ofNat 64 (Max.max x.toNat y.toNat)
  | addw (d a b) : Alu2 (.addw d a b) d a b fun x y => BitVec.ofInt 64 (BitVec.ofNat 32 (x.toNat + y.toNat)).toInt
  | subw (d a b) : Alu2 (.subw d a b) d a b fun x y => BitVec.ofInt 64 (BitVec.ofInt 32 (x.toInt - y.toInt)).toInt
  | adds (d a b) : Alu2 (.adds d a b) d a b fun x y => BitVec.ofInt 64 (Max.max (-(2 ^ 63)) (Min.min (2 ^ 63 - 1) (x.toInt + y.toInt)))
  | subs (d a b) : Alu2 (.subs d a b) d a b fun x y => BitVec.ofInt 64 (Max.max (-(2 ^ 63)) (Min.min (2 ^ 63 - 1) (x.toInt - y.toInt)))
  | mul (d a b) : Alu2 (.mul d a b) d a b fun x y => BitVec.ofNat 64 (x.toNat * y.toNat)
  | mulh (d a b) : Alu2 (.mulh d a b) d a b fun x y => BitVec.ofInt 64 (x.toInt * y.toInt / 2 ^ 64)
  | mulhu (d a b) : Alu2 (.mulhu d a b) d a b fun x y => BitVec.ofNat 64 (x.toNat * y.toNat / 2 ^ 64)
  | mulhsu (d a b) : Alu2 (.mulhsu d a b) d a b fun x y => BitVec.ofInt 64 (x.toInt * (y.toNat : Int) / 2 ^ 64)
  | div (d a b) : Alu2 (.div d a b) d a b fun x y => if y = 0 then BitVec.allOnes 64 else x.sdiv y
  | divu (d a b) : Alu2 (.divu d a b) d a b fun x y => if y = 0 then BitVec.allOnes 64 else x.udiv y
  | rem (d a b) : Alu2 (.rem d a b) d a b fun x y => if y = 0 then x else x.srem y
  | remu (d a b) : Alu2 (.remu d a b) d a b fun x y => if y = 0 then x else x.umod y
  | seq (d a b) : Alu2 (.seq d a b) d a b fun x y => if x = y then 1 else 0
  | sne (d a b) : Alu2 (.sne d a b) d a b fun x y => if x = y then 0 else 1
  | slt (d a b) : Alu2 (.slt d a b) d a b fun x y => if x.toInt < y.toInt then 1 else 0
  | sge (d a b) : Alu2 (.sge d a b) d a b fun x y => if y.toInt ≤ x.toInt then 1 else 0
  | sltu (d a b) : Alu2 (.sltu d a b) d a b fun x y => if x.toNat < y.toNat then 1 else 0
  | sgeu (d a b) : Alu2 (.sgeu d a b) d a b fun x y => if y.toNat ≤ x.toNat then 1 else 0
  | sll (d a b) : Alu2 (.sll d a b) d a b fun x y => BitVec.ofNat 64 (x.toNat * 2 ^ (y.toNat % 64))
  | srl (d a b) : Alu2 (.srl d a b) d a b fun x y => BitVec.ofNat 64 (x.toNat / 2 ^ (y.toNat % 64))
  | sra (d a b) : Alu2 (.sra d a b) d a b fun x y => BitVec.ofInt 64 (x.toInt / 2 ^ (y.toNat % 64))
  | rol (d a b) : Alu2 (.rol d a b) d a b fun x y => (x <<< (y.toNat % 64)) ||| (x >>> ((64 - y.toNat % 64) % 64))
  | ror (d a b) : Alu2 (.ror d a b) d a b fun x y => (x >>> (y.toNat % 64)) ||| (x <<< ((64 - y.toNat % 64) % 64))
  | extu (d a b) : Alu2 (.extu d a b) d a b fun x y =>
      BitVec.ofNat 64 (x.toNat / 2 ^ (y.toNat % 64) % 2 ^ (y.toNat / 256 % 64 + 1))
  | exts (d a b) : Alu2 (.exts d a b) d a b fun x y =>
      BitVec.ofInt 64 (BitVec.ofNat (y.toNat / 256 % 64 + 1) (x.toNat / 2 ^ (y.toNat % 64))).toInt

/-- The one-source scalar instructions of R140, R143, R144, R146 and R147: rd as a relation between the source and the result. -/
inductive Spec.Alu1 : Instr → BitVec 5 → BitVec 5 → (Word → Word → Prop) → Prop
  | abs (d a) : Alu1 (.abs d a) d a fun x r => r.toInt = Min.min (2 ^ 63 - 1) (x.toInt.natAbs : Int)
  | clz (d a) : Alu1 (.clz d a) d a fun x r => r.toNat ≤ 64 ∧ (∀ i, i < r.toNat → x.getMsbD i = false) ∧ (r.toNat < 64 → x.getMsbD r.toNat = true)
  | brev (d a) : Alu1 (.brev d a) d a fun x r => ∀ i, i < 64 → r.getLsbD i = x.getLsbD (63 - i)
  | bswap (d a) : Alu1 (.bswap d a) d a fun x r => ∀ i, i < 64 → r.getLsbD i = x.getLsbD (8 * (7 - i / 8) + i % 8)
  | addi (d a i) : Alu1 (.addi d a i) d a fun x r => r = BitVec.ofInt 64 (x.toInt + i.toInt)
  | andi (d a i) : Alu1 (.andi d a i) d a fun x r => r = x &&& BitVec.ofInt 64 i.toInt
  | ori (d a i) : Alu1 (.ori d a i) d a fun x r => r = x ||| BitVec.ofNat 64 i.toNat
  | xori (d a i) : Alu1 (.xori d a i) d a fun x r => r = x ^^^ BitVec.ofNat 64 i.toNat
  | srai (d a k) (h : k.toNat ≤ 63) : Alu1 (.srai d a k) d a fun x r => r = BitVec.ofInt 64 (x.toInt / 2 ^ k.toNat)
  | roli (d a k) (h : k.toNat ≤ 63) : Alu1 (.roli d a k) d a fun x r => ∀ i, i < 64 → r.getLsbD ((i + k.toNat) % 64) = x.getLsbD i
  | rori (d a k) (h : k.toNat ≤ 63) : Alu1 (.rori d a k) d a fun x r => ∀ i, i < 64 → r.getLsbD i = x.getLsbD ((i + k.toNat) % 64)
  | cmpiEq (d a i) : Alu1 (.cmpi d a 0 i) d a fun x r => r = if x.toInt = i.toInt then 1 else 0
  | cmpiNe (d a i) : Alu1 (.cmpi d a 1 i) d a fun x r => r = if x.toInt = i.toInt then 0 else 1
  | cmpiLt (d a i) : Alu1 (.cmpi d a 2 i) d a fun x r => r = if x.toInt < i.toInt then 1 else 0
  | cmpiGe (d a i) : Alu1 (.cmpi d a 3 i) d a fun x r => r = if i.toInt ≤ x.toInt then 1 else 0
  | cmpiLtu (d a i) : Alu1 (.cmpi d a 4 i) d a fun x r => r = if x.toNat < (BitVec.ofInt 64 i.toInt).toNat then 1 else 0
  | cmpiGeu (d a i) : Alu1 (.cmpi d a 5 i) d a fun x r => r = if (BitVec.ofInt 64 i.toInt).toNat ≤ x.toNat then 1 else 0

/-- Every two-source scalar instruction writes its result to rd and changes nothing else: no flag, no memory, no other register (R140 to
R142, R146). A write of g0 is discarded (R89). -/
def Spec.ScalarTwoSourceResults : Prop :=
  ∀ (i : Instr) (d a b : BitVec 5) (f : Word → Word → Word) (s : State), Spec.Alu2 i d a b f → Ready s [a.toNat, b.toNat] [d.toNat] →
    Completes i s (s.wroteG d.toNat (f (gval s a.toNat) (gval s b.toNat)))

/-- Every one-source scalar instruction likewise (R140, R143, R144, R146, R147). -/
def Spec.ScalarOneSourceResults : Prop :=
  ∀ (i : Instr) (d a : BitVec 5) (R : Word → Word → Prop) (s : State), Spec.Alu1 i d a R → Ready s [a.toNat] [d.toNat] →
    ∃ r, R (gval s a.toNat) r ∧ Completes i s (s.wroteG d.toNat r)

/-- Scalar instructions write their result to rd and change nothing else: two-source and one-source forms. -/
def Obligations.ScalarResults : Prop := Spec.ScalarTwoSourceResults ∧ Spec.ScalarOneSourceResults

/-- What a plain register reads as after a write of another, and g0 in every state (R89). -/
def Obligations.RegisterReadsAfterAWrite : Prop :=
  ∀ (s : State) (d r : Nat) (v : Word), s.latch = none → boundG s.me r = none →
    gval (s.wroteG d v) r = if r = 0 then 0 else if r = d then v else gval s r

/-- Stream operands of the two-source scalar instructions: a source bound to a read stream gives the front element of its ring, which the
packet pops once, for both slots, and POS advances; a destination bound to a write stream pushes the result (R277 to R279). -/
def Obligations.ScalarStreamOperands : Prop :=
  ∀ (i : Instr) (d a b : BitVec 5) (f : Word → Word → Word) (s : State) (t : Stream), Spec.Alu2 i d a b f →
    (∀ (w : Word) (rest : List RingEntry), boundG s.pre a.toNat = some t → t.writes = false → t.ring = .val w none :: rest →
      s.pre.pending a.toNat = false → Ready s (if b = a then [] else [b.toNat]) [d.toNat] → s.pre.failedRd [a.toNat, b.toNat] = none →
      (s.popped.contains (a.toNat - 24) = false → (∀ n, mfind s.me.streams n = mfind s.pre.streams n) →
        (t.rep = true ∨ t.pos + 1 ≤ t.total) →
        Completes i s ((s.updMe fun k => { k with streams := mput k.streams (a.toNat - 24) { t with ring := rest, pos := t.advance 1 } }).wroteG
          d.toNat (f w (gval s b.toNat)))) ∧
      (s.popped.contains (a.toNat - 24) = true → Completes i s (s.wroteG d.toNat (f w (gval s b.toNat))))) ∧
    ((∀ n, mfind s.me.streams n = mfind s.pre.streams n) → boundG s.me d.toNat = some t → t.writes = true → t.ring.length < t.room → (t.rep = true ∨ t.pos + 1 ≤ t.total) →
      s.pre.pending d.toNat = false → Ready s [a.toNat, b.toNat] [] →
      let u : Stream := { t with ring := t.ring ++ [.val (f (gval s a.toNat) (gval s b.toNat)) none], pos := t.advance 1 }
      Completes i s (s.updMe fun k => { k with streams := mput k.streams (d.toNat - 24) u }))

/-- A mask group as one number (R145): bit i in register first + i div 64. -/
def Spec.groupNum (s : State) (first : Nat) : Nat → Nat
  | 0 => 0
  | n + 1 => Spec.groupNum s first n + (gval s (first + n)).toNat * 2 ^ (64 * n)

/-- A mask group written from a number (R145). -/
def Spec.groupWrote (s : State) (first v : Nat) : Nat → State
  | 0 => s
  | n + 1 => (Spec.groupWrote s first v n).wroteG (first + n) (BitVec.ofNat 64 (v / 2 ^ (64 * n)))

/-- The group instructions of R146 and R147 on groups of n registers: source group, what else is read, the registers of the result, and the
result. -/
inductive Spec.Group : Instr → (d a b n k m : Nat) → (Nat → Nat → Nat) → Prop
  | popc (d a : BitVec 5) (n : BitVec 2) : Group (.popc d a n) d.toNat a.toNat 0 (n.toNat + 1) 0 1
      fun x _ => ((List.range (64 * (n.toNat + 1))).filter fun i => x.testBit i).length
  | ctz (d a : BitVec 5) (n : BitVec 2) : Group (.ctz d a n) d.toNat a.toNat 0 (n.toNat + 1) 0 1
      fun x _ => ((List.range (64 * (n.toNat + 1))).find? fun i => x.testBit i).getD (64 * (n.toNat + 1))
  | mshl (d a b : BitVec 5) (n : BitVec 2) : Group (.mshl d a b n) d.toNat a.toNat b.toNat (n.toNat + 1) 1 (n.toNat + 1)
      fun x y => if 64 * (n.toNat + 1) ≤ y then 0 else x * 2 ^ y % 2 ^ (64 * (n.toNat + 1))
  | mshr (d a b : BitVec 5) (n : BitVec 2) : Group (.mshr d a b n) d.toNat a.toNat b.toNat (n.toNat + 1) 1 (n.toNat + 1)
      fun x y => if 64 * (n.toNat + 1) ≤ y then 0 else x / 2 ^ y
  | mand (d a b : BitVec 5) (n : BitVec 2) : Group (.mand d a b n) d.toNat a.toNat b.toNat (n.toNat + 1) (n.toNat + 1) (n.toNat + 1)
      fun x y => x &&& y
  | mor (d a b : BitVec 5) (n : BitVec 2) : Group (.mor d a b n) d.toNat a.toNat b.toNat (n.toNat + 1) (n.toNat + 1) (n.toNat + 1)
      fun x y => x ||| y
  | mxor (d a b : BitVec 5) (n : BitVec 2) : Group (.mxor d a b n) d.toNat a.toNat b.toNat (n.toNat + 1) (n.toNat + 1) (n.toNat + 1)
      fun x y => x ^^^ y
  | slli (d a : BitVec 5) (n : BitVec 2) (k : BitVec 8) (h : n ≠ 0 ∨ k.toNat ≤ 63) :
      Group (.slli d a n k) d.toNat a.toNat 0 (n.toNat + 1) 0 (n.toNat + 1)
      fun x _ => if 64 * (n.toNat + 1) ≤ k.toNat then 0 else x * 2 ^ k.toNat % 2 ^ (64 * (n.toNat + 1))
  | srli (d a : BitVec 5) (n : BitVec 2) (k : BitVec 8) (h : n ≠ 0 ∨ k.toNat ≤ 63) :
      Group (.srli d a n k) d.toNat a.toNat 0 (n.toNat + 1) 0 (n.toNat + 1)
      fun x _ => if 64 * (n.toNat + 1) ≤ k.toNat then 0 else x / 2 ^ k.toNat

/-- The mask group instructions read every source before they write any register, and change only the destination group (R145 to R147). -/
def Obligations.MaskGroupResults : Prop :=
  ∀ (i : Instr) (d a b n k m : Nat) (f : Nat → Nat → Nat) (s : State), Spec.Group i d a b n k m f →
    a + n ≤ 32 → b + k ≤ 32 → d + m ≤ 32 → Ready s (span a n ++ span b k) (span d m) →
    Completes i s (Spec.groupWrote s d (f (Spec.groupNum s a n) (Spec.groupNum s b k)) m)

/-- A mask group that runs past g31 traps with ILLEGAL, and one of two or more registers that holds a bound register with STREAM, before
any stream is popped: the source groups first, then the destination group (R145). -/
def Spec.MaskGroupTraps : Prop :=
  ∀ (i : Instr) (d a b n k m : Nat) (f : Nat → Nat → Nat) (s : State), Spec.Group i d a b n k m f →
    (span a n ++ span b k ++ span d m).any (fun r => s.pre.pending r) = false → s.pre.failedRd (span a n ++ span b k) = none →
    let bound (x y : Nat) : Prop := 2 ≤ y ∧ (span x y).any (fun r => (boundG s.pre r).isSome) = true
    let free (x y : Nat) : Prop := x + y ≤ 32 ∧ ¬ bound x y
    (32 < a + n → Traps i s cILLEGAL) ∧
    (a + n ≤ 32 → bound a n → Traps i s cSTREAM) ∧
    (free a n → 32 < b + k → Traps i s cILLEGAL) ∧
    (free a n → b + k ≤ 32 → bound b k → Traps i s cSTREAM) ∧
    (free a n → free b k → 32 < d + m → Traps i s cILLEGAL) ∧
    (free a n → free b k → d + m ≤ 32 → bound d m → Traps i s cSTREAM)

/-- A shift amount above 63 of a single register, and relations 6 and 7 of CMPI, trap with ILLEGAL (R144, R147). -/
def Spec.ShiftAndCompareCodesTrap : Prop :=
  ∀ (s : State) (d a : BitVec 5) (k : BitVec 8) (r : BitVec 3) (j : BitVec 13),
    (63 < k.toNat → Traps (.slli d a 0 k) s cILLEGAL ∧ Traps (.srli d a 0 k) s cILLEGAL ∧ Traps (.srai d a k) s cILLEGAL ∧
      Traps (.roli d a k) s cILLEGAL ∧ Traps (.rori d a k) s cILLEGAL) ∧
    (6 ≤ r.toNat → Traps (.cmpi d a r j) s cILLEGAL)

/-- Scalar forms that the spec reserves trap: mask groups past g31 or over bound registers, shift amounts above 63, and relations 6 and 7. -/
def Obligations.ReservedScalarFormsTrap : Prop := Spec.MaskGroupTraps ∧ Spec.ShiftAndCompareCodesTrap

/-! ### FP32 and conversions -/

/-- The state after flags are raised in FPC bits 12:8 (R95, R172). -/
def Spec.raised (s : State) (fl : Flags) : State := s.updMe fun k => k.setCtl 0x011 (k.ctl 0x011 ||| (fl.zeroExtend 64 <<< 8))

/-- A NaN, and a signalling one (R149). -/
def Spec.nan (w : Word32) : Bool := decide (0x7F800000 < w.toNat % 2 ^ 31)
def Spec.snan (w : Word32) : Bool := Spec.nan w && !w.getLsbD 22

/-- The one-hot class of R148. -/
def Spec.classOf (w : Word32) : Nat :=
  let e := w.toNat / 2 ^ 23 % 256
  let m := w.toNat % 2 ^ 23
  let neg := w.getLsbD 31
  if e = 255 ∧ m ≠ 0 then (if w.getLsbD 22 then 9 else 8)
  else if e = 255 then (if neg then 0 else 7)
  else if e = 0 ∧ m = 0 then (if neg then 3 else 4)
  else if e = 0 then (if neg then 2 else 5)
  else if neg then 1 else 6

/-- FP32 and conversion instructions of R148 and R189: rd and the flags as a function of the core before the packet and the operands in
order. The arithmetic is the model's rounding of exact results (R148, R172); the bit operations are the spec's own words. -/
inductive Spec.Fp : Instr → BitVec 5 → List (BitVec 5) → (Core → List Word → Word × Flags) → Prop
  | fadd (d a b) : Fp (.fadd d a b) d [a, b] fun k x => fpWord (fadd32 (fpcRm k) (fpcFtz k) ((x.getD 0 0).truncate 32) ((x.getD 1 0).truncate 32))
  | fsub (d a b) : Fp (.fsub d a b) d [a, b] fun k x => fpWord (fsub32 (fpcRm k) (fpcFtz k) ((x.getD 0 0).truncate 32) ((x.getD 1 0).truncate 32))
  | fmul (d a b) : Fp (.fmul d a b) d [a, b] fun k x => fpWord (fmul32 (fpcRm k) (fpcFtz k) ((x.getD 0 0).truncate 32) ((x.getD 1 0).truncate 32))
  | fdiv (d a b) : Fp (.fdiv d a b) d [a, b] fun k x => fpWord (fdiv32 (fpcRm k) (fpcFtz k) ((x.getD 0 0).truncate 32) ((x.getD 1 0).truncate 32))
  | fsqrt (d a) : Fp (.fsqrt d a) d [a] fun k x => fpWord (fsqrt32 (fpcRm k) (fpcFtz k) ((x.getD 0 0).truncate 32))
  | fmac (d a b) : Fp (.fmac d a b) d [a, b, d] fun k x =>
      fpWord (ffma32 (fpcRm k) (fpcFtz k) ((x.getD 0 0).truncate 32) ((x.getD 1 0).truncate 32) ((x.getD 2 0).truncate 32))
  | fmin (d a b) : Fp (.fmin d a b) d [a, b] fun k x => fpWord (fminmax32 false (fpcFtz k) ((x.getD 0 0).truncate 32) ((x.getD 1 0).truncate 32))
  | fmax (d a b) : Fp (.fmax d a b) d [a, b] fun k x => fpWord (fminmax32 true (fpcFtz k) ((x.getD 0 0).truncate 32) ((x.getD 1 0).truncate 32))
  | fabs (d a) : Fp (.fabs d a) d [a] fun _ x => (BitVec.ofNat 64 ((x.getD 0 0).toNat % 2 ^ 31), 0)
  | fneg (d a) : Fp (.fneg d a) d [a] fun _ x => ((x.getD 0 0 &&& 0xFFFFFFFF) ^^^ 0x80000000, 0)
  | feq (d a b) : Fp (.feq d a b) d [a, b] fun k x => fpBool (feq32 (fpcFtz k) ((x.getD 0 0).truncate 32) ((x.getD 1 0).truncate 32))
  | flt (d a b) : Fp (.flt d a b) d [a, b] fun k x => fpBool (flt32 false (fpcFtz k) ((x.getD 0 0).truncate 32) ((x.getD 1 0).truncate 32))
  | fle (d a b) : Fp (.fle d a b) d [a, b] fun k x => fpBool (flt32 true (fpcFtz k) ((x.getD 0 0).truncate 32) ((x.getD 1 0).truncate 32))
  | fclass (d a) : Fp (.fclass d a) d [a] fun _ x => (BitVec.ofNat 64 (2 ^ Spec.classOf ((x.getD 0 0).truncate 32)), 0)
  | fcvt (d a c r) (h : scalarFc c.toNat = true ∧ r.toNat ≤ 4) : Fp (.fcvt d a c r) d [a] fun k x =>
      narrowF c.toNat (if r = 0 then fpcRm k else r.toNat - 1) (fpcSat k) (fpcFtz k) ((x.getD 0 0).truncate 32)
  | fext (d a c r) (h : scalarFc c.toNat = true ∧ r.toNat ≤ 4) : Fp (.fext d a c r) d [a] fun k x =>
      fpWord (widenF c.toNat (if r = 0 then fpcRm k else r.toNat - 1) (fpcFtz k) (x.getD 0 0).toNat)
  | ftoi (d a r) (h : r.toNat ≤ 4) : Fp (.ftoi d a r) d [a] fun k x =>
      let v := toInt (if r = 0 then fpcRm k else r.toNat - 1) (-(2 ^ 63)) (2 ^ 63 - 1) (f32 (fpcFtz k) ((x.getD 0 0).truncate 32))
      (BitVec.ofInt 64 v.1, v.2)
  | ftou (d a r) (h : r.toNat ≤ 4) : Fp (.ftou d a r) d [a] fun k x =>
      let v := toInt (if r = 0 then fpcRm k else r.toNat - 1) 0 (2 ^ 64 - 1) (f32 (fpcFtz k) ((x.getD 0 0).truncate 32))
      (BitVec.ofInt 64 v.1, v.2)
  | itof (d a r) (h : r.toNat ≤ 4) : Fp (.itof d a r) d [a] fun k x => fpWord (ofInt (if r = 0 then fpcRm k else r.toNat - 1) (x.getD 0 0).toInt)
  | utof (d a r) (h : r.toNat ≤ 4) : Fp (.utof d a r) d [a] fun k x => fpWord (ofInt (if r = 0 then fpcRm k else r.toNat - 1) (x.getD 0 0).toNat)

/-- FP32 and conversion instructions write rd, OR their flags into FPC and change nothing else (R148, R189, R95). -/
def Spec.FloatAndConversionResults : Prop :=
  ∀ (i : Instr) (d : BitVec 5) (rs : List (BitVec 5)) (f : Core → List Word → Word × Flags) (s : State), Spec.Fp i d rs f →
    Ready s (rs.map (·.toNat)) [d.toNat] →
    let v := f s.pre (rs.map fun r => gval s r.toNat)
    Completes i s (Spec.raised (s.wroteG d.toNat v.1) v.2)

/-- The first NaN operand, in the order ra, rb, rd, is the result of the arithmetic and of FMIN and FMAX, quieted, with the invalid flag for a
signalling NaN; a comparison with a NaN gives 0, with the invalid flag for FLT and FLE, and for FEQ where a NaN signals (R149). -/
def Spec.FloatNanRules : Prop :=
  ∀ (s : State) (d a b : BitVec 5), Ready s [a.toNat, b.toNat, d.toNat] [d.toNat] →
    let x : Word32 := (gval s a.toNat).truncate 32
    let y : Word32 := (gval s b.toNat).truncate 32
    let z : Word32 := (gval s d.toNat).truncate 32
    let bad : Flags := if Spec.snan x || Spec.snan y then 1 else 0
    (∀ q : Word32, (Spec.nan x = true ∧ q = x ∨ Spec.nan x = false ∧ Spec.nan y = true ∧ q = y) →
      ∀ i ∈ [Instr.fadd d a b, .fsub d a b, .fmul d a b, .fdiv d a b, .fmin d a b, .fmax d a b],
        Completes i s (Spec.raised (s.wroteG d.toNat ((q ||| 0x400000).zeroExtend 64)) bad)) ∧
    (Spec.nan x = false → Spec.nan y = false → Spec.nan z = true →
      ∃ fl : Flags, Completes (.fmac d a b) s (Spec.raised (s.wroteG d.toNat ((z ||| 0x400000).zeroExtend 64)) fl)) ∧
    (Spec.nan x = true ∨ Spec.nan y = true →
      Completes (.feq d a b) s (Spec.raised (s.wroteG d.toNat 0) bad) ∧
      Completes (.flt d a b) s (Spec.raised (s.wroteG d.toNat 0) (1)) ∧
      Completes (.fle d a b) s (Spec.raised (s.wroteG d.toNat 0) (1)))

/-- FP32 and conversion results with their flags, and the rules for NaN operands. -/
def Obligations.FloatResults : Prop := Spec.FloatAndConversionResults ∧ Spec.FloatNanRules

/-! ## Constants, pointers, jumps and macros -/

/-- An rb field of a C-slot instruction (R103): the literal, sign-extended, where it names g0 and L = 1; zero where it names g0 and L = 0. -/
def Spec.rb (s : State) (l : Lit) (b : BitVec 5) : Word := if b = 0 then BitVec.ofInt 64 (l.getD 0).toInt else gval s b.toNat

/-- NOPs change nothing; MOVI and LDL of the literal write a sign-extended constant; PFMT and PBASE read a pointer's parts (R104, R108, R139,
R151, R157). -/
def Spec.ConstantsAndPointerParts : Prop :=
  ∀ (s : State) (l : Lit) (d a : BitVec 5) (i : BitVec 20) (w : Word32),
    Completes (.nopCSlot l) s s ∧ Completes .nopASlot s s ∧
    (Ready s [] [d.toNat] → Completes (.movi l d i) s (s.wroteG d.toNat (BitVec.ofInt 64 i.toInt)) ∧
      Completes (.ldlC d w) s (s.wroteG d.toNat (BitVec.ofInt 64 w.toInt))) ∧
    (Ready s [a.toNat] [d.toNat] →
      Completes (.pfmt l d a) s (s.wroteG d.toNat (BitVec.ofNat 64
        ((gval s a.toNat).toNat / 2 ^ 58 + (gval s a.toNat).toNat / 2 ^ 54 % 16 * 2 ^ 6))) ∧
      Completes (.pbase l d a) s (s.wroteG d.toNat (BitVec.ofNat 64 ((gval s a.toNat).toNat % 2 ^ 48))))

/-- The literal that a C-slot word with L = 1 takes from word 1 (R87). -/
def Spec.lit (w0 w1 : Word32) : Lit := if bits w0 31 1 = 1#1 then some w1 else none

/-- ADDA, major 0x0B with fn 0, adds a signed offset to the address part and keeps the tag, or traps with TAG (R150). -/
def Obligations.AddaAddsToTheAddressPart : Prop :=
  (∀ w0 w1 : Word32, bits w0 25 6 = 0x0B#6 → decodeC w0 w1 =
    if bits w0 0 10 = 0#10 then some (.adda (Spec.lit w0 w1) (bits w0 20 5) (bits w0 15 5) (bits w0 10 5)) else none) ∧
  ∀ (s : State) (l : Lit) (d a b : BitVec 5), Ready s [a.toNat, b.toNat] [d.toNat] →
    let p := (gval s a.toNat).toNat
    let v : Int := (p % 2 ^ 48 : Nat) + (Spec.rb s l b).toInt
    (p / 2 ^ 48 % 64 = 0 ∧ 0 ≤ v ∧ v ≤ 2 ^ 48 - 1 →
      Completes (.adda l d a b) s (s.wroteG d.toNat (BitVec.ofNat 64 (p / 2 ^ 48 * 2 ^ 48 + v.toNat)))) ∧
    (p / 2 ^ 48 % 64 ≠ 0 ∨ v < 0 ∨ 2 ^ 48 - 1 < v → Traps (.adda l d a b) s cTAG)

/-- LEA is ADDA with the offset times 2^sh; PTAG forms a tag from FC and BL (R151). -/
def Spec.LeaAndPtag : Prop :=
  ∀ (s : State) (l : Lit) (d a b : BitVec 5) (h : BitVec 3), Ready s [a.toNat, b.toNat] [d.toNat] →
    let p := (gval s a.toNat).toNat
    let t := (Spec.rb s l b).toNat
    let v : Int := (p % 2 ^ 48 : Nat) + (Spec.rb s l b).toInt * 2 ^ h.toNat
    (p / 2 ^ 48 % 64 = 0 ∧ 0 ≤ v ∧ v ≤ 2 ^ 48 - 1 →
      Completes (.lea l d a b h) s (s.wroteG d.toNat (BitVec.ofNat 64 (p / 2 ^ 48 * 2 ^ 48 + v.toNat)))) ∧
    (p / 2 ^ 48 % 64 ≠ 0 ∨ v < 0 ∨ 2 ^ 48 - 1 < v → Traps (.lea l d a b h) s cTAG) ∧
    (p / 2 ^ 48 % 64 = 0 ∧ t < 2 ^ 10 ∧ t % 64 < 19 →
      Completes (.ptag l d a b) s (s.wroteG d.toNat (BitVec.ofNat 64 (t % 64 * 2 ^ 58 + t / 64 * 2 ^ 54 + p % 2 ^ 48)))) ∧
    (p / 2 ^ 48 % 64 ≠ 0 ∨ 2 ^ 10 ≤ t ∨ 19 ≤ t % 64 → Traps (.ptag l d a b) s cTAG)

/-- Constants, pointer parts, LEA and PTAG write rd alone. -/
def Obligations.ConstantsAndAddresses : Prop := Spec.ConstantsAndPointerParts ∧ Spec.LeaAndPtag

/-- LDL reads a word or doubleword at pc + 4·disp18 of the code region through the fold's instruction cache; it traps with MISALIGN, then with
PERMISSION outside the region (R109, R157). The bytes are those of the line as it was read, before patches (log 40). -/
def Obligations.LdlReadsTheCodeRegion : Prop :=
  ∀ (s : State) (l : Lit) (d : BitVec 5) (p : BitVec 18) (x : ICLine), Ready s [] [d.toNat] → isMgmt s.cur = false →
    let v : Int := (s.pre.r.pc.toNat : Int) + 4 * p.toInt
    (0 ≤ v → v % 4 = 0 → inCode s s.cur v.toNat 4 = true → findLine s s.cur v.toNat = some x →
      Completes (.ldlW l d p) s (s.wroteG d.toNat
        (BitVec.ofInt 64 (BitVec.ofNat 32 (leNat ((x.raw.drop (v.toNat % 64)).take 4))).toInt))) ∧
    (0 ≤ v → v % 8 = 0 → inCode s s.cur v.toNat 8 = true → findLine s s.cur v.toNat = some x →
      Completes (.ldlD l d p) s (s.wroteG d.toNat (BitVec.ofNat 64 (leNat ((x.raw.drop (v.toNat % 64)).take 8))))) ∧
    (v % 4 = 0 → v < 0 ∨ inCode s s.cur v.toNat 4 = false → Traps (.ldlW l d p) s cPERMISSION) ∧
    (v % 8 ≠ 0 → Traps (.ldlD l d p) s cMISALIGN) ∧
    (v % 8 = 0 → v < 0 ∨ inCode s s.cur v.toNat 8 = false → Traps (.ldlD l d p) s cPERMISSION)

/-- The conditions of BR (R158). -/
def Spec.brCond (c : Nat) (x y : Word) : Prop :=
  match c with
  | 0 => x = y
  | 1 => x ≠ y
  | 2 => x.toInt < y.toInt
  | 3 => y.toInt ≤ x.toInt
  | 4 => x.toNat < y.toNat
  | 5 => y.toNat ≤ x.toNat
  | 6 => y.toInt < x.toInt
  | 7 => x.toInt ≤ y.toInt
  | 8 => y.toNat < x.toNat
  | 9 => x.toNat ≤ y.toNat
  | 10 => x &&& y ≠ 0
  | 11 => x &&& y = 0
  | _ => True

/-- A branch that is taken sets only the address of the next packet, to pc + 8·disp. -/
def Spec.branched (s : State) (disp : Int) : State :=
  s.updMe fun k => { k with r := { k.r with npc := BitVec.ofInt 48 ((s.pre.r.pc.toNat : Int) + 8 * disp) } }

/-- The state after the read stream bound to general register a has popped the front of its ring (R278). -/
def Spec.poppedG (s : State) (a : Nat) (t : Stream) : State :=
  s.updMe fun k => { k with streams := mput k.streams (a - 24) { t with ring := t.ring.tail, pos := t.advance 1 } }

/-- General register a is bound to read stream t, whose next element the packet has yet to pop, and nothing holds it back (R277, R278). -/
def Spec.pops (s : State) (a : Nat) (t : Stream) (w : Word) : Prop :=
  boundG s.pre a = some t ∧ t.writes = false ∧ (∃ rest, t.ring = .val w none :: rest) ∧ (t.rep = true ∨ t.pos + 1 ≤ t.total) ∧
  s.pre.pending a = false ∧ s.popped.contains (a - 24) = false ∧ ∀ n, mfind s.me.streams n = mfind s.pre.streams n

/-- BR, BBC, BBS, BBZ and BBNZ continue at pc + 8·disp11 where their condition holds, and at the next packet where it does not; nothing else
changes, but that a first register bound to a stream pops (R158, R159). A condition above AL traps with ILLEGAL, and AL with an ra or rb field
that is not 0 is ill-formed (R107). A group past g31 traps with ILLEGAL and one of two or more registers over a bound one with STREAM (R145). -/
def Obligations.BranchesTestTheirConditions : Prop :=
  (∀ w0 w1 : Word32, bits w0 25 6 = 0x0D#6 → bits w0 11 4 = 12#4 → bits w0 20 5 ≠ 0#5 ∨ bits w0 15 5 ≠ 0#5 →
    ∃ l a b p, decodeC w0 w1 = some (.br l a b 12 p) ∧ (Instr.br l a b 12 p).wf = false) ∧
  ∀ (s : State) (l : Lit) (a b : BitVec 5) (c : BitVec 4) (n : BitVec 2) (p : BitVec 11),
    let rs := span a.toNat (n.toNat + 1)
    let bit := (Spec.rb s l b).toNat
    (Ready s [a.toNat, b.toNat] [] → c.toNat ≤ 12 → (c = 12 → a = 0 ∧ b = 0) →
      (Spec.brCond c.toNat (gval s a.toNat) (Spec.rb s l b) → Completes (.br l a b c p) s (Spec.branched s p.toInt)) ∧
      (¬ Spec.brCond c.toNat (gval s a.toNat) (Spec.rb s l b) → Completes (.br l a b c p) s s)) ∧
    (Ready s [a.toNat, b.toNat] [] → 12 < c.toNat → Traps (.br l a b c p) s cILLEGAL) ∧
    (a.toNat + n.toNat + 1 ≤ 32 → Ready s (rs ++ [b.toNat]) [] →
      let g := Spec.groupNum s a.toNat (n.toNat + 1)
      (g.testBit bit = true → Completes (.bbs l a b n p) s (Spec.branched s p.toInt) ∧ Completes (.bbc l a b n p) s s) ∧
      (g.testBit bit = false → Completes (.bbs l a b n p) s s ∧ Completes (.bbc l a b n p) s (Spec.branched s p.toInt)) ∧
      (g = 0 → Completes (.bbz l a n p) s (Spec.branched s p.toInt) ∧ Completes (.bbnz l a n p) s s) ∧
      (g ≠ 0 → Completes (.bbz l a n p) s s ∧ Completes (.bbnz l a n p) s (Spec.branched s p.toInt))) ∧
    (∀ (t : Stream) (w : Word), Spec.pops s a.toNat t w → b ≠ a → Ready s [b.toNat] [] → s.pre.failedRd [a.toNat, b.toNat] = none →
      s.pre.failedRd [a.toNat] = none →
      let u := Spec.poppedG s a.toNat t
      (c.toNat < 12 →
        (Spec.brCond c.toNat w (Spec.rb s l b) → Completes (.br l a b c p) s (Spec.branched u p.toInt)) ∧
        (¬ Spec.brCond c.toNat w (Spec.rb s l b) → Completes (.br l a b c p) s u)) ∧
      (w.toNat.testBit bit = true → Completes (.bbs l a b 0 p) s (Spec.branched u p.toInt) ∧ Completes (.bbc l a b 0 p) s u) ∧
      (w.toNat.testBit bit = false → Completes (.bbs l a b 0 p) s u ∧ Completes (.bbc l a b 0 p) s (Spec.branched u p.toInt)) ∧
      (w = 0 → Completes (.bbz l a 0 p) s (Spec.branched u p.toInt) ∧ Completes (.bbnz l a 0 p) s u) ∧
      (w ≠ 0 → Completes (.bbz l a 0 p) s u ∧ Completes (.bbnz l a 0 p) s (Spec.branched u p.toInt))) ∧
    ((rs ++ [b.toNat]).any (fun r => s.pre.pending r) = false →
      ∀ i ∈ [Instr.bbc l a b n p, .bbs l a b n p, .bbz l a n p, .bbnz l a n p],
        (32 < a.toNat + n.toNat + 1 → Traps i s cILLEGAL) ∧
        (a.toNat + n.toNat + 1 ≤ 32 → n ≠ 0 → rs.any (fun r => (boundG s.pre r).isSome) = true → Traps i s cSTREAM))

/-- Major 0x0F is J with rd 0, JL with rd 1, and else does not decode; J jumps to pc + 8·disp20, JL also writes pc + 8 to g1, and that write
counts against an A-slot write of g1 (R160). -/
def Obligations.JumpsAndLinks : Prop :=
  (∀ w0 w1 : Word32, bits w0 25 6 = 0x0F#6 → decodeC w0 w1 =
    if bits w0 20 5 = 0#5 then some (.j (Spec.lit w0 w1) (bits w0 0 20))
    else if bits w0 20 5 = 1#5 then some (.jl (Spec.lit w0 w1) (bits w0 0 20)) else none) ∧
  (∀ (vl : Nat) (l : Lit) (p : BitVec 20) (i : Instr), pairConflict vl (.jl l p) i = (gDests vl i).contains 1 ∧ pairConflict vl (.j l p) i = false) ∧
  ∀ (s : State) (l : Lit) (p : BitVec 20),
    Completes (.j l p) s (Spec.branched s p.toInt) ∧
    (Ready s [] [1] → Completes (.jl l p) s (Spec.branched (s.wroteG 1 (BitVec.ofNat 64 (s.pre.r.pc.toNat + 8))) p.toInt))

/-- JR, major 0x10 with fn 0, jumps to the address part of ra plus rb and writes pc + 8 to rd; it traps with TAG for a tag or a target that leaves 48 bits, then
with MISALIGN (R161). -/
def Obligations.JrJumpsThroughARegister : Prop :=
  (∀ w0 w1 : Word32, bits w0 25 6 = 0x10#6 → decodeC w0 w1 =
    if bits w0 0 10 = 0#10 then some (.jr (Spec.lit w0 w1) (bits w0 20 5) (bits w0 15 5) (bits w0 10 5)) else none) ∧
  ∀ (s : State) (l : Lit) (d a b : BitVec 5), Ready s [a.toNat, b.toNat] [d.toNat] →
    let p := (gval s a.toNat).toNat
    let t : Int := (p % 2 ^ 48 : Nat) + (Spec.rb s l b).toInt
    let ok := p / 2 ^ 48 = 0 ∧ 0 ≤ t ∧ t ≤ 2 ^ 48 - 1
    (ok ∧ t % 8 = 0 → Completes (.jr l d a b) s ((s.wroteG d.toNat (BitVec.ofNat 64 (s.pre.r.pc.toNat + 8))).updMe fun k =>
      { k with r := { k.r with npc := BitVec.ofInt 48 t } })) ∧
    (¬ ok → Traps (.jr l d a b) s cTAG) ∧ (ok ∧ t % 8 ≠ 0 → Traps (.jr l d a b) s cMISALIGN)

/-- The bit positions of the register fields that a mark names, in mark order (R114). -/
def Spec.markTops : List Nat := [24, 19, 14, 57, 52, 47, 41]

/-- Substitution puts the register of a mark into its field, leaves a field whose mark is 0, and changes no other bit (R114). -/
def Spec.MacroSubstitution : Prop :=
  ∀ (pkt marks : Word) (x y z : Nat), x < 32 → y < 32 → z < 32 →
    (∀ i hi, Spec.markTops[i]? = some hi → fld (substitute pkt marks x y z) hi (hi - 4) =
      match marks.toNat / 4 ^ i % 4 with
      | 1 => x
      | 2 => y
      | 3 => z
      | _ => fld pkt hi (hi - 4)) ∧
    ∀ j, j < 64 → (∀ hi ∈ Spec.markTops, j < hi - 4 ∨ hi < j) → (substitute pkt marks x y z).getLsbD j = pkt.getLsbD j

/-- MACRO takes operation ESTAT.MSTEP of its entry, substituted, as the packet to issue next, and PC stays (R115, R116); past the entry's last
operation, or with an entry the launch does not have, it traps with MACRO_STORE. -/
def Spec.MacroIssuesItsOperation : Prop :=
  ∀ (s : State) (x y z : BitVec 5) (e : BitVec 8) (w : Word32) (o : Occ) (la : Launch) (m : MacroEntry),
    s.me.occ = some o → s.me.launchOf s = some la →
    let j := fld (s.me.ctl 0x083) 4 0
    (e.toNat < la.nmacro → mfind (s.fold (foldOf s.cur)).macros e.toNat = some m → m.part = o.part → m.blk = o.blk →
      (∀ op : Word × Word, m.ops[j]? = some op →
        let v := (substitute op.1 op.2 x.toNat y.toNat z.toNat).toNat
        Completes (.macroOp x y z e w) s (s.updMe fun k => { k with
          macroOp := some (BitVec.ofNat 32 v, BitVec.ofNat 32 (v / 2 ^ 32), decide (j + 1 = m.ops.length))
          r := { k.r with npc := k.r.pc } })) ∧
      (m.ops.length ≤ j → Traps (.macroOp x y z e w) s cMACRO)) ∧
    (la.nmacro ≤ e.toNat → Traps (.macroOp x y z e w) s cMACRO)

/-- MACRO substitutes its fields and issues one operation of its store entry. -/
def Obligations.MacrosSubstituteAndIssue : Prop := Spec.MacroSubstitution ∧ Spec.MacroIssuesItsOperation

/-! ## Traps, returns and the system instructions -/

/-- EINFO of a trap without a deferred cause (R347): DATA 47:0, SLOT 48, VAL 53, ACC 55:54. -/
def Spec.einfo (t : Trap) (slotA : Bool) : Word :=
  BitVec.ofNat 64 (t.data % 2 ^ 48 + (if slotA then 2 ^ 48 else 0) + (if t.val then 2 ^ 53 else 0) + t.acc.toNat * 2 ^ 54)

/-- Trap entry with a handler (EVEC.EN = 1 and ESTAT.TH = 0): EPC, ECAUSE and EINFO are written, TH is set, the next packet is the handler's;
no g or vector register, no other control register, no memory and no other core changes (R347, R348). -/
def Spec.TrapEntrySavesAndGoesToTheHandler : Prop :=
  ∀ (s : State) (t : Trap) (slotA : Bool), t.cause ≠ cUNCORR → t.deferred = none → s.me.cap = none →
    fld (s.me.ctl 0x084) 0 0 = 1 → fld (s.me.ctl 0x083) 8 8 = 0 →
    let u := takeTrap s t slotA
    u.issue = .trapped t.cause (Spec.einfo t slotA) ∧ u.me.ctl 0x080 = BitVec.ofNat 64 s.me.r.pc.toNat ∧
    u.me.ctl 0x081 = BitVec.ofNat 64 t.cause.toNat ∧ u.me.ctl 0x082 = Spec.einfo t slotA ∧ fld (u.me.ctl 0x083) 8 8 = 1 ∧
    u.me.r.pc = BitVec.ofNat 48 (fld (s.me.ctl 0x084) 47 3 * 8) ∧ u.me.r.npc = u.me.r.pc ∧
    (∀ n, n ≠ 0x080 → n ≠ 0x081 → n ≠ 0x082 → n ≠ 0x083 → u.me.ctl n = s.me.ctl n) ∧
    u.me.r.g = s.me.r.g ∧ u.me.r.v = s.me.r.v ∧ u.me.r.vl = s.me.r.vl ∧ u.me.r.lanes = s.me.r.lanes ∧ u.mem = s.mem ∧ u.folds = s.folds ∧
    u.parts = s.parts ∧ ∀ c, c ≠ s.cur → u.core c = s.core c

/-- Without a handler (EVEC.EN = 0 or ESTAT.TH = 1) a trap ends the unit as a cancel of it with status 0x05 and its error record, and a routine
cancels its launch (R348, R349). What a wait of the packet had noted is dropped. -/
def Spec.TrapWithoutHandlerEndsTheUnit : Prop :=
  ∀ (s : State) (t : Trap) (slotA : Bool) (o : Occ), t.cause ≠ cUNCORR → t.deferred = none → s.me.cap = none → t.flips = none → s.me.wait = none →
    s.me.tfault = none → s.me.walkWait = none → s.me.hostFail = false → s.me.macroOp = none → s.me.aDone = false → s.me.lodcounted = false → s.me.occ = some o →
    (fld (s.me.ctl 0x084) 0 0 = 0 ∨ fld (s.me.ctl 0x083) 8 8 = 1) →
    let e : ErrRec := { core := o.k, status := 5, cause := t.cause, epc := s.me.r.pc.toNat, einfo := Spec.einfo t slotA,
                        unit_ := if o.flagged then 0 else o.rcd }
    let s1 := writeErr (s.updMe id) o.part o.blk e
    takeTrap s t slotA = { (if o.flagged then cancelLaunch s1 o.part o.blk 5 else cancelUnit s1 o.part o.blk o.rcd 5) with
      issue := .trapped t.cause (Spec.einfo t slotA) }

/-- Taking a trap: the saved registers and the handler, or the end of the unit. -/
def Obligations.TrapsTakeTheirHandlerOrEndTheUnit : Prop := Spec.TrapEntrySavesAndGoesToTheHandler ∧ Spec.TrapWithoutHandlerEndsTheUnit

/-- The trap of a TRAP instruction (R353). -/
def Spec.breakTrap (s : State) (l : Lit) (b : BitVec 5) : Trap :=
  { cause := cBREAK, acc := 3, val := false, data := (Spec.rb s l b).toNat % 2 ^ 48, deferred := none }

/-- TRAP takes BREAK with the low 48 bits of rb in EINFO.DATA and VAL = 0; a packet of it traps before anything of its A-slot partner retires, and
EPC holds that packet (R353). -/
def Obligations.TrapInstructionTakesBreak : Prop :=
  (∀ (s : State) (l : Lit) (b : BitVec 5), Ready s [b.toNat] [] →
    exec (.trap l b) s = .next (takeTrap s (Spec.breakTrap s l b) s.latch.isSome)) ∧
  (∀ (s : State) (l : Lit) (b : BitVec 5) (slotA : Bool), s.me.cap = none → fld (s.me.ctl 0x084) 0 0 = 1 → fld (s.me.ctl 0x083) 8 8 = 0 →
    (takeTrap s (Spec.breakTrap s l b) slotA).me.ctl 0x080 = BitVec.ofNat 64 s.me.r.pc.toNat) ∧
  ∀ (s u : State) (c : Nat) (w0 w1 : Word32) (p : Packet) (l : Lit) (b : BitVec 5),
    let e : State := { s with cur := c, latch := none }
    e.me.macroOp = none → e.me.yoke = none → e.me.aDone = false → captureOver e.me = none → isMgmt c = false →
    fetch e = .ok (w0, w1) → decodePacket w0 w1 = .ok p → p.cside = .trap l b → p.aside.wf = true →
    let x := Spec.beforeSlots e
    Ready x [b.toNat] [] →
    exec p.aside { x with latch := some { core := x.me, m := (x.fold (foldOf c)).matrix, popped := [] } } = .next u → u.issue ≠ .held →
    issuePacket s c = .next (takeTrap x (Spec.breakTrap x l b) false)

/-- ERET sets the next packet to EPC.ADDR·8 and TH and CAPT to 0, resumes a suspended capture, and clears MSTEP unless the target is a MACRO;
it writes nothing else (R354). -/
def Obligations.EretReturnsToEpc : Prop :=
  ∀ (s : State) (l : Lit), ∃ t, Completes (.eret l) s t ∧
    t.me.r.npc = BitVec.ofNat 48 (fld (s.me.ctl 0x080) 47 3 * 8) ∧ t.me.r.pc = s.me.r.pc ∧
    fld (t.me.ctl 0x083) 8 8 = 0 ∧ fld (t.me.ctl 0x083) 10 10 = 0 ∧
    fld (t.me.ctl 0x083) 4 0 = (if isMacroAt s s.cur (fld (s.me.ctl 0x080) 47 3 * 8) then fld (s.me.ctl 0x083) 4 0 else 0) ∧
    (∀ n, n ≠ 0x083 → t.me.ctl n = s.me.ctl n) ∧ t.me.vcap = s.me.vcap.map (fun v => { v with suspended := false }) ∧
    t.me.r.g = s.me.r.g ∧ t.me.r.v = s.me.r.v ∧ t.mem = s.mem ∧ t.folds = s.folds ∧ t.parts = s.parts ∧ ∀ c, c ≠ s.cur → t.core c = s.core c

/-- PULSE adds 1 to PULSECNT modulo 2^64 and restarts the watchdog count (R356). -/
def Obligations.PulseCountsAndRestartsTheWatchdog : Prop :=
  ∀ (s : State) (l : Lit), ∃ t, Completes (.pulse l) s t ∧ t.me.ctl 0x0A1 = s.me.ctl 0x0A1 + 1 ∧ t.me.wdogBase = s.clk ∧
    (∀ n, n ≠ 0x0A1 → t.me.ctl n = s.me.ctl n) ∧ t.me.r.g = s.me.r.g ∧ t.mem = s.mem ∧ t.folds = s.folds ∧ t.parts = s.parts ∧
    ∀ c, c ≠ s.cur → t.core c = s.core c

/-- WFI stalls with a limit of rb clk, 0 meaning none, and ends when the limit has passed or a deferred error stands in a queue of its core; it
traps with DETERMINISM in a compute routine (R358). A wait that begins sees an error recorded before it (log 41). -/
def Obligations.WfiWaitsForItsLimit : Prop :=
  ∀ (s : State) (l : Lit) (b : BitVec 5) (c u : Nat), Ready s [b.toNat] [] →
    (s.me.inCompute = true → Traps (.wfi l b) s cDETERM) ∧
    (s.me.inCompute = false → (s.me.wait = some .expired ∨ s.me.anyQueueErr = true) →
      Completes (.wfi l b) s (s.updMe fun k => { k with wait := none })) ∧
    (s.me.inCompute = false → s.me.anyQueueErr = false → s.me.wait = none →
      exec (.wfi l b) s = .next { (s.updMe fun k => { k with wait := some (if Spec.rb s l b = 0 then .forever
        else .deadline (s.clk + (Spec.rb s l b).toNat)) }) with issue := .stalled }) ∧
    ((s.core c).wait = some (.deadline u) → u ≤ s.clk →
      Completes (.wfiTimeout c) s (s.updCore c fun k => { k with wait := some .expired }))

/-- What MFC reads outside pairs (R135 to R138): the identities, the clocks, the grant, or the fields of the stored register, whose reserved
bits read 0 (R8). -/
def Spec.ctlValue (s : State) (n : Nat) : Word :=
  match n with
  | 0x000 => BitVec.ofNat 64 ((s.me.occ.map (·.k)).getD 0)
  | 0x001 => BitVec.ofNat 64 ((s.me.occ.map (·.k)).getD 0 / 8)
  | 0x002 => BitVec.ofNat 64 (dieOf (foldOf s.cur))
  | 0x003 => BitVec.ofNat 64 (s.nv.dev % 256)
  | 0x004 => BitVec.ofNat 64 s.clk
  | 0x005 => if s.me.inFlagged then BitVec.ofNat 64 ((s.clk - s.me.xclkBase) % 2 ^ 32) else 0
  | 0x012 => BitVec.ofNat 64 (32 * s.me.r.lanes)
  | _ => s.me.ctl n &&& ctlFields n

/-- What MFC of YOKE reads on a core that no pair of its neighbour's unit holds (R370): on a core of its own its counts and the quarantine of
itself and its partner; in a pair, on either core, those of the even core, the leader, with LEAD, the state and the interval's position. -/
def Spec.yokeValue (s : State) : Word :=
  let me := if s.me.yoke.isSome then s.cur / 2 * 2 else s.cur
  let partner := if me % 2 = 0 then me + 1 else me - 1
  let bit (b : Bool) : Nat := if b then 1 else 0
  BitVec.ofNat 64 ((s.core me).thirds % 2 ^ 16 * 2 ^ 48 + (s.core me).trans % 2 ^ 16 * 2 ^ 32 +
    (match s.me.yoke with
      | some y => y.ivpos % 2 ^ 8 * 2 ^ 8 + y.state * 2 ^ 3 + 1
      | none => 0) +
    bit (s.nv.quar.contains partner) * 4 + bit (s.nv.quar.contains me) * 2)

/-- MFC of YOKE writes that value to rd, in a pair and alone (R137, R138, R370). -/
def Spec.MfcReadsYoke : Prop :=
  ∀ (s : State) (l : Lit) (d : BitVec 5), Ready s [] [d.toNat] → s.me.partnerOf = none →
    Completes (.mfc l d 0x090) s (s.wroteG d.toNat (Spec.yokeValue s))

/-- MFC writes the register's value to rd and changes nothing else: every register of R135 but YOKE, which has its own value (R370), and
TSHn, which reads 0 on a fold without an owner and the shape register on the launch's own (R137, R213). FPC waits for the sequencer and
for an LDF under way (R195, R187). A compute routine's read of a register of R138 traps with DETERMINISM. -/
def Spec.MfcReadsControlRegisters : Prop :=
  ∀ (s : State) (l : Lit) (d : BitVec 5) (n : BitVec 12), Ready s [] [d.toNat] → ctlListed n.toNat = true → s.me.yoke = none →
    (s.me.inCompute = true → n.toNat ∈ [0x002, 0x004, 0x005, 0x012, 0x014, 0x0D0] → Traps (.mfc l d n) s cDETERM) ∧
    ((s.me.inCompute = true → n.toNat ∉ [0x002, 0x004, 0x005, 0x012, 0x014, 0x0D0]) → n.toNat ≠ 0x090 →
      (n.toNat < 0x060 ∨ 0x07F < n.toNat) → (n.toNat = 0x011 → s.me.seqr = [] ∧ s.me.vcap = none ∧ s.me.loads.any Load.flagging = false) →
      Completes (.mfc l d n) s (s.wroteG d.toNat (Spec.ctlValue s n.toNat))) ∧
    (0x060 ≤ n.toNat → n.toNat ≤ 0x07F → s.me.inFlagged = false → (s.fold (foldOf s.cur)).owner = none →
      Completes (.mfc l d n) s (s.wroteG d.toNat 0)) ∧
    (∀ o k, 0x060 ≤ n.toNat → n.toNat ≤ 0x07F → s.me.inFlagged = false → s.me.occ = some o →
      (s.fold (foldOf s.cur)).owner = some (o.part, k, s.me.ctl 0x040) →
      Completes (.mfc l d n) s (s.wroteG d.toNat (tshOf s (n.toNat - 0x060))))

/-- MTC of a register that a unit may write: every bit of the register's RW fields takes the operand's bit, a W1C bit is cleared by a 1, and
every other bit, register, memory byte and core stays (R135, R137). A register whose value or time the owner restricts (NBV, FPC, PDC,
QMAP, TSHn and bound declarations) is written where its owner allows it. -/
def Spec.MtcWritesTheFields : Prop :=
  ∀ (s : State) (l : Lit) (a : BitVec 5) (n : BitVec 12), Ready s [a.toNat] [] → ctlListed n.toNat = true → isMgmt s.cur = false →
    ctlPrivileged n.toNat = false → (n.toNat < 0x060 ∨ 0x07F < n.toNat) → mtcWait s n.toNat (gval s a.toNat) = .ok () →
    mtcAccess s n.toNat = .ok () → mtcCheck s n.toNat (gval s a.toNat) = .ok () →
    ∃ t, Completes (.mtc l a n) s t ∧
      (∀ i, i < 64 → (t.me.ctl n.toNat).getLsbD i =
        if (ctlMask n.toNat).1.getLsbD i then (gval s a.toNat).getLsbD i && !((ctlMask n.toNat).2.getLsbD i && (gval s a.toNat).getLsbD i)
        else (s.me.ctl n.toNat).getLsbD i && !((ctlMask n.toNat).2.getLsbD i && (gval s a.toNat).getLsbD i)) ∧
      (∀ m, m ≠ n.toNat → t.me.ctl m = s.me.ctl m) ∧ t.me.r.g = s.me.r.g ∧ t.me.r.v = s.me.r.v ∧ t.mem = s.mem ∧ t.folds = s.folds ∧
      t.parts = s.parts ∧ ∀ c, c ≠ s.cur → t.core c = s.core c

/-- MFC reads the control registers and MTC writes their fields. -/
def Obligations.ControlRegisters : Prop := Spec.MfcReadsYoke ∧ Spec.MfcReadsControlRegisters ∧ Spec.MtcWritesTheFields

/-- A core that a unit leaves holds nothing: its lanes and vector state are gone (R83, R191, R355). Its general registers keep their last
values. -/
def Spec.LeavingFreesTheCore : Prop :=
  ∀ (s : State) (c : Nat), let k := (leaveCore s c).core c
    k.occ = none ∧ k.r.g = (s.core c).r.g ∧ k.r.v = [] ∧ k.r.vl = 256 ∧ k.r.lanes = 0 ∧ k.seqr = [] ∧ k.vcap = none ∧ k.wait = none ∧ k.yoke = none

/-- EXIT joins the core's agents and ends the unit or routine; YIELD joins them and writes the unit back READY with SUSP 1 at the next packet
(R355). The unit has no parent whose join block could refuse the decrement (R309). The record's doubleword that names the parent is read
without an error, and its corrected errors are counted; that the ends read it is the model's choice (log 116). -/
def Spec.ExitAndYieldLeaveTheCore : Prop :=
  ∀ (s : State) (l : Lit) (o : Occ) (la : Launch), s.me.occ = some o → s.me.launchOf s = some la → joinAgents s s = .ok () →
    (o.flagged = false → agentBad s o.part la.job (o.rcd + 8) 1 = false → s.me.hostFail = false →
      ((agentRead s o.part la.job (o.rcd + 8)).getD 0).toNat = 0 →
      Completes (.exit l) s (unitGone (leaveCore (agentCount s o.part la.job (o.rcd + 8) 1) s.cur) o.part o.blk o.rcd 1)) ∧
    (o.flagged = true → Completes (.exit l) s (endRoutine s s.cur)) ∧
    (o.flagged = false → Completes (.yield l) s (suspendUnit s s.cur 1 1 s.me.r.npc.toNat)) ∧
    (o.flagged = true → Traps (.yield l) s cDETERM)

/-- CANCEL answers 2 and cancels the level that the handle names, or answers 3 where it is complete; a handle that names nothing traps with
ILLEGAL, one of another job with PERMISSION, and a compute routine's with DETERMINISM (R357, R44). The model's choices: the Steading's cores,
which have no job, name the level of any (log 23); where handles may stand (log 98, 99); and a cancel that is whole within the instruction
(log 74). -/
def Spec.CancelAnswersAndCancels : Prop :=
  ∀ (s : State) (l : Lit) (d a : BitVec 5), Ready s [a.toNat] [d.toNat] →
    let p := corePart s s.cur
    let own := s.me.occ.map fun _ => s.me.job s
    let lv := levelOf s p own (gval s a.toNat)
    (s.me.inCompute = true → Traps (.cancel l d a) s cDETERM) ∧
    (s.me.inCompute = false → lv = .nothing → Traps (.cancel l d a) s cILLEGAL) ∧
    (∀ j, s.me.inCompute = false → lv ≠ .nothing → own = some j → lv.jobOf s p ≠ j → Traps (.cancel l d a) s cPERMISSION) ∧
    (s.me.inCompute = false → lv ≠ .nothing → (own = none ∨ own = some (lv.jobOf s p)) →
      Completes (.cancel l d a) s (cancelLevel (s.wroteG d.toNat (BitVec.ofNat 64 (cancelLevel s p lv).1)) p lv).2)

/-- EXIT, YIELD and CANCEL, and what a core holds once its unit has left. -/
def Obligations.UnitsLeaveTheirCores : Prop := Spec.LeavingFreesTheCore ∧ Spec.ExitAndYieldLeaveTheCore ∧ Spec.CancelAnswersAndCancels

/-! ## Loads, stores, atomics, fences -/

/-- No accepted work holds back an access of class cls to n bytes at v (R98, R201, R220, R269, R306, R310, R320, R329). -/
abbrev Spec.unhindered (s : State) (cls v n : Nat) : Prop := s.me.blocked s s.cur (v, n) = false ∧ s.me.fenced cls [(v, n)] = false

/-- n bytes of own local memory from offset off lie inside the launch's LMEM and in no margin cell, and no MUSTER message still reads a cell
that holds one (R154, R256, R258). -/
abbrev Spec.localWritable (s : State) (off n : Nat) : Prop :=
  off + n ≤ s.me.lmem s ∧ (∀ a, off ≤ a → a < off + n → s.me.marginAt a = false ∧ s.me.lentAt a = false)

/-- The address that a load or store forms (R152): the address part of ra plus the offset scaled by the size. -/
def Spec.address (s : State) (a : BitVec 5) (o : BitVec 12) (n : Nat) : Int := ((gval s a.toNat).toNat % 2 ^ 48 : Nat) + o.toInt * (n : Int)

/-- A buffered store that meets n bytes at v holds all of them, so that a load of them need not wait for it (R156). -/
abbrev Spec.covered (s : State) (v n : Nat) : Prop :=
  ∀ b, s.me.lastStore s s.cur (v, n) = some b → b.va ≤ v ∧ v + n ≤ b.va + b.bytes.length

/-- A store at v has its place: in the event unit, in own local memory behind no buffered store, or in the store buffer, which in a yoked pair
holds the interval's (R156, R326, R372). -/
abbrev Spec.storeRoom (s : State) (v : Nat) : Prop :=
  windowOf v = .eventUnit ∨ windowOf v = .ownLocal ∧ s.me.stores = [] ∨
  windowOf v ≠ .ownLocal ∧ ((s.me.yoke = none ∧ s.me.stores.length < 16) ∨ ∃ y, s.me.yoke = some y ∧ y.held.length < 16)

/-- A set tag bit, or an address that leaves 48 bits, traps a load or a store with TAG; then a misaligned one with MISALIGN, once its waits have ended (R98, R153, R154). -/
def Obligations.BadAddressesTrapLoadsAndStores : Prop :=
  ∀ (s : State) (l : Lit) (d a : BitVec 5) (z : BitVec 2) (x : BitVec 1) (o : BitVec 12), Ready s [a.toNat, d.toNat] [d.toNat] →
    s.latch = none → (x = 0 ∨ z ≠ 3) →
    let n := 2 ^ z.toNat
    let v := Spec.address s a o n
    (((gval s a.toNat).toNat / 2 ^ 48 % 64 ≠ 0 ∨ v < 0 ∨ 2 ^ 48 ≤ v) → Traps (.ld l d a z x o) s cTAG ∧ Traps (.st l d a z o) s cTAG) ∧
    ((gval s a.toNat).toNat / 2 ^ 48 % 64 = 0 → 0 ≤ v → v < 2 ^ 48 → v % n ≠ 0 → Spec.unhindered s clsR v.toNat n →
      s.me.loads.length < 16 → Spec.covered s v.toNat n → Traps (.ld l d a z x o) s cMISALIGN) ∧
    ((gval s a.toNat).toNat / 2 ^ 48 % 64 = 0 → 0 ≤ v → v < 2 ^ 48 → v % n ≠ 0 → Spec.unhindered s clsW v.toNat n →
      s.me.loadsMeet s s.cur (v.toNat, n) = false → Spec.storeRoom s v.toNat → Traps (.st l d a z o) s cMISALIGN)

/-- A store to own local memory puts the low bytes of rs at the address formed, and every other byte of memory reads as before; no register,
flag or other core changes (R152, R155). The store buffer is empty (log 8). -/
def Spec.StoreToOwnLocalMemory : Prop :=
  ∀ (s : State) (l : Lit) (r a : BitVec 5) (z : BitVec 2) (o : BitVec 12), Ready s [a.toNat, r.toNat] [] → s.latch = none → s.cur < 6148 →
    let n := 2 ^ z.toNat
    let v := (Spec.address s a o n).toNat
    (gval s a.toNat).toNat / 2 ^ 48 % 64 = 0 → 0 ≤ Spec.address s a o n → v % n = 0 → localBase ≤ v → v + n ≤ localBase + 2 ^ 18 →
    Spec.unhindered s clsW v n → s.me.loadsMeet s s.cur (v, n) = false → s.me.stores = [] → Spec.localWritable s (v - localBase) n →
    ∃ t, Completes (.st l r a z o) s t ∧
      (∀ i, i < n → readKey t (localKey s.cur (v - localBase + i)) = BitVec.ofNat 8 ((gval s r.toNat).toNat / 2 ^ (8 * i))) ∧
      (∀ key, (∀ i, i < n → key ≠ localKey s.cur (v - localBase + i)) → readKey t key = readKey s key) ∧
      t.me.r.g = s.me.r.g ∧ t.me.r.pc = s.me.r.pc ∧ t.me.r.npc = s.me.r.npc ∧ t.me.r.v = s.me.r.v ∧ t.me.stores = s.me.stores ∧
      t.folds = s.folds ∧ t.parts = s.parts ∧ ∀ c, c ≠ s.cur → t.core c = s.core c

/-- A load from own local memory writes the bytes at the address to rd, zero- or sign-extended, and stores nothing: words that are valid and
not stale, with no uncorrectable error (R152, R154, R242, R257). Corrected errors met are counted (R240). -/
def Spec.LoadFromOwnLocalMemory : Prop :=
  ∀ (s : State) (l : Lit) (d a : BitVec 5) (z : BitVec 2) (x : BitVec 1) (o : BitVec 12), Ready s [a.toNat] [d.toNat] → s.latch = none →
    (x = 0 ∨ z ≠ 3) →
    let n := 2 ^ z.toNat
    let v := (Spec.address s a o n).toNat
    let off := v - localBase
    (gval s a.toNat).toNat / 2 ^ 48 % 64 = 0 → 0 ≤ Spec.address s a o n → v % n = 0 → localBase ≤ v → v + n ≤ localBase + 2 ^ 18 →
    Spec.unhindered s clsR v n → s.me.loads.length < 16 → Spec.covered s v n → off + n ≤ s.me.lmem s →
    (∀ b, off ≤ b → b < off + n → s.me.validAt b = true ∧ s.me.staleAt b = none) → s.bad (localKey s.cur off) n = false →
    let w := leNat (s.bytes (localKey s.cur off) n)
    Completes (.ld l d a z x o) s ((countEccRanges s s.cur [] [(v, n)]).wroteG d.toNat
      (if x = 1 then BitVec.ofInt 64 (sgn (8 * n) w) else BitVec.ofNat 64 w))

/-- Loads and stores of the core's own local memory. -/
def Obligations.OwnLocalMemoryAccesses : Prop := Spec.StoreToOwnLocalMemory ∧ Spec.LoadFromOwnLocalMemory

/-- A load of the Common window that no buffered store meets becomes an outstanding load, which rd waits for; nothing else changes (R88, R156,
R239). That its bytes are read when it returns is the model's choice (log 9). -/
def Spec.LoadElsewhereIsOutstanding : Prop :=
  ∀ (s : State) (l : Lit) (d a : BitVec 5) (z : BitVec 2) (x : BitVec 1) (o : BitVec 12), Ready s [a.toNat] [d.toNat] → s.latch = none →
    (x = 0 ∨ z ≠ 3) →
    let n := 2 ^ z.toNat
    let v := (Spec.address s a o n).toNat
    (gval s a.toNat).toNat / 2 ^ 48 % 64 = 0 → 0 ≤ Spec.address s a o n → v % n = 0 → windowOf v = .common →
    v - commonBase + n ≤ commonSize s (corePart s s.cur) → s.me.inCompute = false →
    s.bad (commonKey s (corePart s s.cur) (v - commonBase)) n = false →
    Spec.unhindered s clsR v n → s.me.lastStore s s.cur (v, n) = none → s.me.loads.length < 16 →
    ∃ ld : Load, ld.va = v ∧ ld.size = n ∧ ld.rd = d.toNat ∧ ld.kind = .plain (x == 1) ∧ ld.since = s.clk ∧
      ld.key = commonKey s (corePart s s.cur) (v - commonBase) ∧
      Completes (.ld l d a z x o) s (s.updMe fun k => { k with loads := k.loads ++ [ld] })

/-- A load whose bytes lie in the youngest buffered store that meets them reads them there (R156). -/
def Spec.LoadForwardsFromTheStoreBuffer : Prop :=
  ∀ (s : State) (l : Lit) (d a : BitVec 5) (z : BitVec 2) (x : BitVec 1) (o : BitVec 12) (b : BufStore), Ready s [a.toNat] [d.toNat] →
    s.latch = none → (x = 0 ∨ z ≠ 3) →
    let n := 2 ^ z.toNat
    let v := (Spec.address s a o n).toNat
    (gval s a.toNat).toNat / 2 ^ 48 % 64 = 0 → 0 ≤ Spec.address s a o n → v % n = 0 → windowOf v = .common →
    v - commonBase + n ≤ commonSize s (corePart s s.cur) → s.me.inCompute = false →
    s.bad (commonKey s (corePart s s.cur) (v - commonBase)) n = false →
    Spec.unhindered s clsR v n → s.me.loads.length < 16 → s.me.lastStore s s.cur (v, n) = some b → b.va ≤ v → v + n ≤ b.va + b.bytes.length →
    let w := leNat ((b.bytes.drop (v - b.va)).take n)
    Completes (.ld l d a z x o) s (s.wroteG d.toNat (if x = 1 then BitVec.ofInt 64 (sgn (8 * n) w) else BitVec.ofNat 64 w))

/-- A store to the Common window enters the store buffer: memory changes only when the buffer drains, oldest first, at the store's own bytes
(R156). Outside yoked pairs (R372). -/
def Obligations.StoresAreBufferedAndDrain : Prop :=
  (∀ (s : State) (l : Lit) (r a : BitVec 5) (z : BitVec 2) (o : BitVec 12), Ready s [a.toNat, r.toNat] [] → s.latch = none →
    let n := 2 ^ z.toNat
    let v := (Spec.address s a o n).toNat
    (gval s a.toNat).toNat / 2 ^ 48 % 64 = 0 → 0 ≤ Spec.address s a o n → v % n = 0 → windowOf v = .common →
    v - commonBase + n ≤ commonSize s (corePart s s.cur) → s.me.inCompute = false → s.me.yoke = none →
    Spec.unhindered s clsW v n → s.me.loadsMeet s s.cur (v, n) = false → s.me.stores.length < 16 →
    let b : BufStore := { va := v, key := commonKey s (corePart s s.cur) (v - commonBase), bytes := leBytes n (gval s r.toNat).toNat }
    Completes (.st l r a z o) s (s.updMe fun k => { k with stores := k.stores ++ [b] })) ∧
  (∀ (s : State) (c : Nat) (b : BufStore) (bs : List BufStore), (s.core c).stores = b :: bs → s.downLinks = [] →
    (s.core c).loadsMeet s c (b.va, b.bytes.length) = false → (∀ i, i < b.bytes.length → (b.key + i) / 2 ^ 64 ≠ 4) →
    ∃ t, Completes (.storeDrain c) s t ∧ (t.core c).stores = bs ∧ (∀ i, i < b.bytes.length → t.byte (b.key + i) = b.bytes.getD i 0) ∧
      (∀ key, key < b.key ∨ b.key + b.bytes.length ≤ key → t.byte key = s.byte key) ∧ (t.core c).r = (s.core c).r ∧ t.folds = s.folds ∧
      t.parts = s.parts ∧ ∀ e, e ≠ c → t.core e = s.core e)

/-- LOAD_RETURN performs an outstanding plain load: the bytes at its place reach rd, zero- or sign-extended, the load is gone, and memory stays
(R156). That an outstanding load reads its bytes at this event, which comes 4 clk or more after its issue, is the model's choice (log 9, 118). -/
def Spec.LoadReturnWritesRd : Prop :=
  ∀ (s : State) (c i : Nat) (ld : Load) (sx : Bool), (s.core c).loads[i]? = some ld → ld.kind = .plain sx → (s.core c).yoke = none →
    ld.since + 4 ≤ s.clk → s.downLinks = [] → s.ecc = [] → (∀ m ∈ (s.core c).loads.take i, shares s c (ld.va, ld.size) (m.va, m.size) = false) →
    boundG (s.core c) ld.rd = none →
    let bs := readRange s c ld.tr ld.va ld.size
    ∃ t, Completes (.loadReturn c i) s t ∧ (t.core c).loads = (s.core c).loads.eraseIdx i ∧ t.mem = s.mem ∧ t.folds = s.folds ∧
      (∀ r, r ≠ ld.rd → mget 0 (t.core c).r.g r = mget 0 (s.core c).r.g r) ∧
      (ld.rd ≠ 0 → mget 0 (t.core c).r.g ld.rd =
        if sx then BitVec.ofInt 64 (sgn (8 * bs.length) (leNat bs)) else BitVec.ofNat 64 (leNat bs)) ∧
      ∀ e, e ≠ c → t.core e = s.core e

/-- Loads of other places: outstanding, forwarded from the store buffer, or returned. -/
def Obligations.LoadsElsewhere : Prop := Spec.LoadElsewhereIsOutstanding ∧ Spec.LoadForwardsFromTheStoreBuffer ∧ Spec.LoadReturnWritesRd

/-- The AMO instructions (R290, R291): operation, rd, ra, rb, SCOPE, ORD and bytes. -/
inductive Spec.Amo : Instr → Lit → (op : Nat) → (d a b : BitVec 5) → (sc o : BitVec 2) → (n : Nat) → Prop
  | add (l d a b sc o z) : Amo (.amoAdd l d a b sc o z) l 0 d a b sc o (if z = 1 then 8 else 4)
  | fadd (l d a b sc o) : Amo (.amoFadd l d a b sc o) l 1 d a b sc o 4
  | min (l d a b sc o z) : Amo (.amoMin l d a b sc o z) l 2 d a b sc o (if z = 1 then 8 else 4)
  | max (l d a b sc o z) : Amo (.amoMax l d a b sc o z) l 3 d a b sc o (if z = 1 then 8 else 4)
  | minu (l d a b sc o z) : Amo (.amoMinu l d a b sc o z) l 4 d a b sc o (if z = 1 then 8 else 4)
  | maxu (l d a b sc o z) : Amo (.amoMaxu l d a b sc o z) l 5 d a b sc o (if z = 1 then 8 else 4)
  | fmin (l d a b sc o) : Amo (.amoFmin l d a b sc o) l 6 d a b sc o 4
  | fmax (l d a b sc o) : Amo (.amoFmax l d a b sc o) l 7 d a b sc o 4
  | amax (l d a b sc o) : Amo (.amoAmax l d a b sc o) l 8 d a b sc o 4
  | and (l d a b sc o z) : Amo (.amoAnd l d a b sc o z) l 9 d a b sc o (if z = 1 then 8 else 4)
  | or (l d a b sc o z) : Amo (.amoOr l d a b sc o z) l 10 d a b sc o (if z = 1 then 8 else 4)
  | xor (l d a b sc o z) : Amo (.amoXor l d a b sc o z) l 11 d a b sc o (if z = 1 then 8 else 4)
  | swap (l d a b sc o z) : Amo (.amoSwap l d a b sc o z) l 12 d a b sc o (if z = 1 then 8 else 4)
  | cas (l d a b sc o z) : Amo (.amoCas l d a b sc o z) l 13 d a b sc o (if z = 1 then 8 else 4)
  | amaxrst (l d a b sc o z) : Amo (.amoAmaxrst l d a b sc o z) l 14 d a b sc o (if z = 1 then 8 else 4)

/-- The new value of an integer AMO on n bytes, from the old value, the operand and the comparand (R291). -/
def Spec.amoInt (op n old x cmp : Nat) : Nat :=
  let m := 2 ^ (8 * n)
  let signed (y : Nat) : Int := if y % m < m / 2 then (y % m : Nat) else (y % m : Nat) - (m : Int)
  match op with
  | 0 => (old + x) % m
  | 2 => if signed x < signed old then x % m else old % m
  | 3 => if signed old < signed x then x % m else old % m
  | 4 => Min.min (old % m) (x % m)
  | 5 => Max.max (old % m) (x % m)
  | 9 => (old % m) &&& (x % m)
  | 10 => (old % m) ||| (x % m)
  | 11 => (old % m) ^^^ (x % m)
  | 13 => if old % m = cmp % m then x % m else old % m
  | _ => x % m

/-- The operations of R291 on integers. -/
def Spec.AmoIntegerOperations : Prop :=
  ∀ (op n old x cmp : Nat), op ∈ [0, 2, 3, 4, 5, 9, 10, 11, 12, 13, 14] → n = 4 ∨ n = 8 → amoNew op n old x cmp = Spec.amoInt op n old x cmp

/-- What every AMO of scope F does on a sync word: rd gets the old value of the word or half, the new value replaces it, and nothing else changes
(R290, R291, R295). Outside routines of flagged launches (R292). -/
def Spec.AmoOnASyncWord : Prop :=
  ∀ (i : Instr) (l : Lit) (op : Nat) (d a b : BitVec 5) (o : BitVec 2) (n : Nat) (s : State), Spec.Amo i l op d a b 1 o n →
    s.latch = none → Ready s [a.toNat, b.toNat, d.toNat] [d.toNat] → s.me.inFlagged = false → s.me.loads.length < 16 →
    let p := (gval s a.toNat).toNat
    let v := p % 2 ^ 48
    p / 2 ^ 48 % 64 = 0 → v % n = 0 → eventBase + 0x2000 ≤ v → v < eventBase + 0x3000 →
    Spec.unhindered s (clsR + clsW) v n → s.me.loadsMeet s s.cur (v, n) = false → (2 ≤ o.toNat → s.me.rwDone s s.cur = true) →
    let k := (v - eventBase - 0x2000) / 8
    let w := mget 0 (s.fold (foldOf s.cur)).sync k
    let old := w.toNat / 2 ^ (8 * (v % 8)) % 2 ^ (8 * n)
    let new := amoNew op n old (Spec.rb s l b).toNat (gval s d.toNat).toNat
    Completes i s ((s.updFold (foldOf s.cur) fun g =>
      { g with sync := mset 0 g.sync k (putFld w (8 * (v % 8) + 8 * n - 1) (8 * (v % 8)) new) }).wroteG d.toNat (BitVec.ofNat 64 old))

/-- An AMO of scope L acts on own local memory at once, and one of scope D or S becomes an outstanding access that LOAD_RETURN performs, old
value to rd, where its checks pass (R290 to R293). That the access is performed at that event is the model's choice (log 9, 118). -/
def Spec.AmoOnMemory : Prop :=
  (∀ (i : Instr) (l : Lit) (op : Nat) (d a b : BitVec 5) (sc o : BitVec 2) (n : Nat) (s : State) (tr : SMap Nat) (s1 : State),
    Spec.Amo i l op d a b sc o n →
    s.latch = none → Ready s [a.toNat, b.toNat, d.toNat] [d.toNat] → (sc ≠ 0 → s.me.inFlagged = false) → s.me.loads.length < 16 →
    let p := (gval s a.toNat).toNat
    let v := p % 2 ^ 48
    p / 2 ^ 48 % 64 = 0 → v % n = 0 → Spec.unhindered s (clsR + clsW) v n → s.me.loadsMeet s s.cur (v, n) = false →
    (2 ≤ o.toNat → s.me.rwDone s s.cur = true) → checkAccess s s.cur v n true s.det = .ok (tr, s1) → amoReadChecks s1 s.cur v n tr = .ok () →
    s1.latch = none → boundG s1.me d.toNat = none → s1.cur = s.cur →
    (sc = 0 → windowOf v = .ownLocal → (∀ j, j < n → s1.me.validAt (v - localBase + j) = true) →
      let old := leNat (s1.bytes (localKey s.cur (v - localBase)) n)
      let new := amoNew op n old (Spec.rb s l b).toNat (gval s d.toNat).toNat
      Completes i s ((writeRange (countEccRanges s1 s.cur tr [(v, n)]) s.cur tr v (leBytes n new)).wroteG d.toNat (BitVec.ofNat 64 old))) ∧
    (sc = 2 ∧ (windowOf v = .global ∨ windowOf v = .common) ∨
        sc = 3 ∧ windowOf v = .global ∧ fld (s.part (corePart s s.cur)).facc 19 16 ≠ 0 → s.me.lastStore s s.cur (v, n) = none →
      ∃ ld : Load, ld.va = v ∧ ld.size = n ∧ ld.rd = d.toNat ∧ ld.since = s.clk ∧
        ld.kind = .amo op (Spec.rb s l b) (gval s d.toNat) sc.toNat (o.toNat % 2 == 1) ∧
        Completes i s (s1.updMe fun k => { k with loads := k.loads ++ [ld] }))) ∧
  (∀ (s : State) (c j : Nat) (ld : Load) (op : Nat) (x cmp : Word) (sc : Nat) (acq : Bool), (s.core c).loads[j]? = some ld →
    ld.kind = .amo op x cmp sc acq → (s.core c).yoke = none → ld.since + 4 ≤ s.clk → s.downLinks = [] → s.ecc = [] → ld.key / 2 ^ 64 ≠ 4 → ld.tr = [] →
    windowOf ld.va = .common → windowOf (ld.va + ld.size - 1) = .common → ld.size = 4 ∨ ld.size = 8 →
    (∀ m ∈ (s.core c).loads.take j, shares s c (ld.va, ld.size) (m.va, m.size) = false) → boundG (s.core c) ld.rd = none →
    let old := leNat (readRange s c [] ld.va ld.size)
    ∃ t, Completes (.loadReturn c j) s t ∧ (ld.rd ≠ 0 → mget 0 (t.core c).r.g ld.rd = BitVec.ofNat 64 old) ∧
      t.mem = (writeRange s c [] ld.va (leBytes ld.size (amoNew op ld.size old x.toNat cmp.toNat))).mem)

/-- Atomic operations: their arithmetic, on a sync word and on memory. -/
def Obligations.AtomicOperations : Prop := Spec.AmoIntegerOperations ∧ Spec.AmoOnASyncWord ∧ Spec.AmoOnMemory

/-- FENCE.S and FENCE.R are recorded while an earlier access of theirs is outstanding and end at once where none is; FENCE.R of no bytes orders
nothing and of a range past 48 bits traps with TAG; QFENCE stalls while a queue it names holds an entry, then takes the cause of the lowest that holds one, and else completes (R320
to R322). That a fence with something to order stands in a list, which later accesses wait for, is the model's choice (log 42). -/
def Obligations.FencesAreRecordedOrEnd : Prop :=
  ∀ (s : State) (l : Lit) (p u : BitVec 6) (a b : BitVec 5) (m : BitVec 8), Ready s [a.toNat, b.toNat] [] →
    let f : Fence := { pred := p.toNat, succ := u.toNat, range := none, pushed := s.me.pushed }
    let w := (gval s a.toNat).toNat
    let n := (Spec.rb s l b).toNat
    let g : Fence := { pred := 63, succ := 63, range := some (w % 2 ^ 48, n), pushed := s.me.pushed }
    (f.pending s.me s s.cur = false → Completes (.fenceS l p u) s s) ∧
    (f.pending s.me s s.cur = true → Completes (.fenceS l p u) s (s.updMe fun k => { k with fences := k.fences ++ [f] })) ∧
    (w / 2 ^ 48 % 64 = 0 → w % 2 ^ 48 + n ≤ 2 ^ 48 → (n = 0 ∨ g.pending s.me s s.cur = false) → Completes (.fenceR l a b) s s) ∧
    (w / 2 ^ 48 % 64 = 0 → w % 2 ^ 48 + n ≤ 2 ^ 48 → n ≠ 0 → g.pending s.me s s.cur = true →
      Completes (.fenceR l a b) s (s.updMe fun k => { k with fences := k.fences ++ [g] })) ∧
    (w / 2 ^ 48 % 64 ≠ 0 ∨ 2 ^ 48 < w % 2 ^ 48 + n → Traps (.fenceR l a b) s cTAG) ∧
    ((∀ q, q < 8 → m.getLsbD q = true → ∀ x, mfind s.me.queues q = some x → x.entries = [] ∧ x.err = none) → Completes (.qfence l m) s s) ∧
    (∀ q x, q < 8 → m.getLsbD q = true → mfind s.me.queues q = some x → x.entries ≠ [] →
      exec (.qfence l m) s = .next { s with issue := .stalled }) ∧
    (∀ q x e, q < 8 → m.getLsbD q = true → (∀ r y, r < 8 → m.getLsbD r = true → mfind s.me.queues r = some y → y.entries = []) →
      mfind s.me.queues q = some x → x.err = some e → (∀ r y, r < q → m.getLsbD r = true → mfind s.me.queues r = some y → y.err = none) →
      Traps (.qfence l m) s e.cause)

/-! ## Vector instructions -/

/-- VSETL, VSETLI and CLAIM set VL and the grant and write rd: VSETL clamps ra as signed to 0 … 256, CLAIM asks for ra + imm15 lanes and gets
32 at a time what the fold's other cores leave free, and so does the partner of a yoked pair for itself, the lower core first; the lanes held
until then govern the slices of this clk, and in a compute routine rd does not show the grant (R82, R83, R197, R198, R211). VREP opens a
capture, VDRAIN ends where the sequencer is empty and waits where it is not. All trap with ILLEGAL in an open capture (R199). The model's
choices: CLAIM reads its request as signed (log 106), VREP traps over a capture that a trap suspended (log 28), and VDRAIN waits for no store
that a yoked pair holds (log 121). -/
def Spec.VectorLengthGrantAndCapture : Prop :=
  ∀ (s : State) (l : Lit) (d a : BitVec 5) (n : BitVec 9) (m : BitVec 4) (i : BitVec 15), s.latch = none → Ready s [a.toNat] [d.toNat] →
    let x := (gval s a.toNat).toInt
    let u := (gval s a.toNat).toNat
    let r := (gval s a.toNat + BitVec.ofInt 64 i.toInt).toInt
    let vl (k : Nat) : State := s.updMe fun c => { c with r := { c.r with vl := k } }
    (s.me.capOpen = false →
      (let k := (max 0 (min 256 x)).toNat
       Completes (.vsetl l d a) s ((vl k).wroteG d.toNat (BitVec.ofNat 64 k))) ∧
      (n.toNat ≤ 256 → Completes (.vsetli l d n) s ((vl n.toNat).wroteG d.toNat (BitVec.ofNat 64 n.toNat))) ∧
      (256 < n.toNat → Traps (.vsetli l d n) s cILLEGAL) ∧
      (1 ≤ r → r ≤ 256 →
        let want := (r.toNat + 31) / 32
        let takes (t : State) (c : Nat) : State := t.updCore c fun k => { k with
          lanesWas := some (k.lanesWas.getD k.r.lanes), r := { k.r with lanes := min want (8 - otherHolders t c), lastReq := r.toNat } }
        let even := s.cur / 2 * 2
        let u := if s.me.yoke.isSome then takes (takes s even) (even + 1) else takes s s.cur
        Completes (.claim l d a i) s (u.wroteG d.toNat (BitVec.ofNat 64 (32 * if s.me.inCompute then want else u.me.r.lanes)))) ∧
      (r < 1 ∨ 256 < r → Traps (.claim l d a i) s cILLEGAL) ∧
      (s.me.seqr = [] → Completes (.vdrain l) s s) ∧
      (s.me.seqr ≠ [] → exec (.vdrain l) s = .next { s with issue := .stalled })) ∧
    (s.me.vcap = none → 1 ≤ u → u < 2 ^ 32 → Completes (.vrep l a m) s (s.updMe fun c =>
      { c with vcap := some { left := m.toNat + 1, count := u, entries := [], suspended := false } })) ∧
    (s.me.vcap ≠ none ∨ u = 0 ∨ 2 ^ 32 ≤ u → Traps (.vrep l a m) s cILLEGAL) ∧
    (s.me.capOpen = true → Traps (.vsetl l d a) s cILLEGAL ∧ Traps (.vsetli l d n) s cILLEGAL ∧ Traps (.claim l d a i) s cILLEGAL ∧
      Traps (.vdrain l) s cILLEGAL)

/-- Registers of a mask group for the length at issue (R196). -/
def Spec.groupLen (s : State) : Nat := max 1 ((s.pre.r.vl + 63) / 64)

/-- The mask group that a field names: none for 0 (R196). -/
def Spec.maskGroup (s : State) (k : Nat) : List Nat := if k = 0 then [] else span k (Spec.groupLen s)

/-- An entry with what it captures at issue (R193): L, its mask, FPC's modes and the NBV level. -/
def Spec.entry (s : State) (op : VOp) (d a b c k : Nat) : VEntry :=
  { op := op, vd := d, va := a, vb := b, vc := c, len := s.pre.r.vl,
    mask := if k = 0 then none else some (Spec.groupNum s k (Spec.groupLen s)),
    rm := (s.pre.ctl 0x011).toNat % 8, sat := (s.pre.ctl 0x011).getLsbD 3, ftz := (s.pre.ctl 0x011).getLsbD 4,
    nbv := (s.pre.ctl 0x010).toNat % 8, gd := 0, val := 0, addr := 0, tr := [], pops := [], again := false, left := 0, since := 0 }

/-- The slices of an entry (R85): 32 elements each; of an empty one, one where vd[0] is written all the same, else none. -/
def Spec.slices (e : VEntry) : Nat :=
  if e.len = 0 then
    match e.op with
    | .arith .dot => 1
    | .red _ => 1
    | _ => 0
  else (e.len + 31) / 32

/-- FC and BL of a conversion's fields (R190). -/
def Spec.fc (c : BitVec 4) (h : BitVec 1) : Nat := c.toNat + 16 * h.toNat

/-- The A-slot vector instructions (R203 to R210, R190), each with its sequencer entry and the general registers it reads at issue. -/
inductive Spec.Vec (s : State) : Instr → VEntry → List Nat → Prop
  | vadd (d a b k) : Vec s (.vadd d a b k) (Spec.entry s (.arith .add) d.toNat a.toNat b.toNat 0 k.toNat) (Spec.maskGroup s k.toNat)
  | vsub (d a b k) : Vec s (.vsub d a b k) (Spec.entry s (.arith .sub) d.toNat a.toNat b.toNat 0 k.toNat) (Spec.maskGroup s k.toNat)
  | vmul (d a b k) : Vec s (.vmul d a b k) (Spec.entry s (.arith .mul) d.toNat a.toNat b.toNat 0 k.toNat) (Spec.maskGroup s k.toNat)
  | vdiv (d a b k) : Vec s (.vdiv d a b k) (Spec.entry s (.arith .div) d.toNat a.toNat b.toNat 0 k.toNat) (Spec.maskGroup s k.toNat)
  | vsqrt (d a k) : Vec s (.vsqrt d a k) (Spec.entry s (.arith .sqrt) d.toNat a.toNat 0 0 k.toNat) (Spec.maskGroup s k.toNat)
  | vfma (d a b c k) : Vec s (.vfma d a b c k) (Spec.entry s (.arith .fma) d.toNat a.toNat b.toNat c.toNat k.toNat) (Spec.maskGroup s k.toNat)
  | vfms (d a b c k) : Vec s (.vfms d a b c k) (Spec.entry s (.arith .fms) d.toNat a.toNat b.toNat c.toNat k.toNat) (Spec.maskGroup s k.toNat)
  | vmin (d a b k) : Vec s (.vmin d a b k) (Spec.entry s (.arith .min) d.toNat a.toNat b.toNat 0 k.toNat) (Spec.maskGroup s k.toNat)
  | vmax (d a b k) : Vec s (.vmax d a b k) (Spec.entry s (.arith .max) d.toNat a.toNat b.toNat 0 k.toNat) (Spec.maskGroup s k.toNat)
  | vabs (d a k) : Vec s (.vabs d a k) (Spec.entry s (.arith .abs) d.toNat a.toNat 0 0 k.toNat) (Spec.maskGroup s k.toNat)
  | vneg (d a k) : Vec s (.vneg d a k) (Spec.entry s (.arith .neg) d.toNat a.toNat 0 0 k.toNat) (Spec.maskGroup s k.toNat)
  | vdot (d a b c k) : Vec s (.vdot d a b c k) (Spec.entry s (.arith .dot) d.toNat a.toNat b.toNat c.toNat k.toNat) (Spec.maskGroup s k.toNat)
  | vaddBf2 (d a b k) : Vec s (.vaddBf2 d a b k) (Spec.entry s (.arith .addBf2) d.toNat a.toNat b.toNat 0 k.toNat) (Spec.maskGroup s k.toNat)
  | vmulBf2 (d a b k) : Vec s (.vmulBf2 d a b k) (Spec.entry s (.arith .mulBf2) d.toNat a.toNat b.toNat 0 k.toNat) (Spec.maskGroup s k.toNat)
  | vfmaBf2 (d a b c k) : Vec s (.vfmaBf2 d a b c k) (Spec.entry s (.arith .fmaBf2) d.toNat a.toNat b.toNat c.toNat k.toNat) (Spec.maskGroup s k.toNat)
  | vdot2Bf (d a b c k) : Vec s (.vdot2Bf d a b c k) (Spec.entry s (.arith .dot2Bf) d.toNat a.toNat b.toNat c.toNat k.toNat) (Spec.maskGroup s k.toNat)
  | viadd (d a b k) : Vec s (.viadd d a b k) (Spec.entry s (.int .add) d.toNat a.toNat b.toNat 0 k.toNat) (Spec.maskGroup s k.toNat)
  | visub (d a b k) : Vec s (.visub d a b k) (Spec.entry s (.int .sub) d.toNat a.toNat b.toNat 0 k.toNat) (Spec.maskGroup s k.toNat)
  | vimul (d a b k) : Vec s (.vimul d a b k) (Spec.entry s (.int .mul) d.toNat a.toNat b.toNat 0 k.toNat) (Spec.maskGroup s k.toNat)
  | vimulh (d a b k) : Vec s (.vimulh d a b k) (Spec.entry s (.int .mulh) d.toNat a.toNat b.toNat 0 k.toNat) (Spec.maskGroup s k.toNat)
  | viand (d a b k) : Vec s (.viand d a b k) (Spec.entry s (.int .and) d.toNat a.toNat b.toNat 0 k.toNat) (Spec.maskGroup s k.toNat)
  | vior (d a b k) : Vec s (.vior d a b k) (Spec.entry s (.int .or) d.toNat a.toNat b.toNat 0 k.toNat) (Spec.maskGroup s k.toNat)
  | vixor (d a b k) : Vec s (.vixor d a b k) (Spec.entry s (.int .xor) d.toNat a.toNat b.toNat 0 k.toNat) (Spec.maskGroup s k.toNat)
  | visll (d a b k) : Vec s (.visll d a b k) (Spec.entry s (.int .sll) d.toNat a.toNat b.toNat 0 k.toNat) (Spec.maskGroup s k.toNat)
  | visrl (d a b k) : Vec s (.visrl d a b k) (Spec.entry s (.int .srl) d.toNat a.toNat b.toNat 0 k.toNat) (Spec.maskGroup s k.toNat)
  | visra (d a b k) : Vec s (.visra d a b k) (Spec.entry s (.int .sra) d.toNat a.toNat b.toNat 0 k.toNat) (Spec.maskGroup s k.toNat)
  | vimin (d a b k) : Vec s (.vimin d a b k) (Spec.entry s (.int .min) d.toNat a.toNat b.toNat 0 k.toNat) (Spec.maskGroup s k.toNat)
  | vimax (d a b k) : Vec s (.vimax d a b k) (Spec.entry s (.int .max) d.toNat a.toNat b.toNat 0 k.toNat) (Spec.maskGroup s k.toNat)
  | viminu (d a b k) : Vec s (.viminu d a b k) (Spec.entry s (.int .minu) d.toNat a.toNat b.toNat 0 k.toNat) (Spec.maskGroup s k.toNat)
  | vimaxu (d a b k) : Vec s (.vimaxu d a b k) (Spec.entry s (.int .maxu) d.toNat a.toNat b.toNat 0 k.toNat) (Spec.maskGroup s k.toNat)
  | viadds (d a b k) : Vec s (.viadds d a b k) (Spec.entry s (.int .adds) d.toNat a.toNat b.toNat 0 k.toNat) (Spec.maskGroup s k.toNat)
  | visubs (d a b k) : Vec s (.visubs d a b k) (Spec.entry s (.int .subs) d.toNat a.toNat b.toNat 0 k.toNat) (Spec.maskGroup s k.toNat)
  | vimac (d a b c k) : Vec s (.vimac d a b c k) (Spec.entry s (.int .mac) d.toNat a.toNat b.toNat c.toNat k.toNat) (Spec.maskGroup s k.toNat)
  | vidot4 (d a b c k) : Vec s (.vidot4 d a b c k) (Spec.entry s (.int .dot4) d.toNat a.toNat b.toNat c.toNat k.toNat) (Spec.maskGroup s k.toNat)
  | viabs (d a k) : Vec s (.viabs d a k) (Spec.entry s (.int .abs) d.toNat a.toNat 0 0 k.toNat) (Spec.maskGroup s k.toNat)
  | vrsum (d a k) : Vec s (.vrsum d a k) (Spec.entry s (.red .sum) d.toNat a.toNat 0 0 k.toNat) (Spec.maskGroup s k.toNat)
  | vrmax (d a k) : Vec s (.vrmax d a k) (Spec.entry s (.red .max) d.toNat a.toNat 0 0 k.toNat) (Spec.maskGroup s k.toNat)
  | vrmin (d a k) : Vec s (.vrmin d a k) (Spec.entry s (.red .min) d.toNat a.toNat 0 0 k.toNat) (Spec.maskGroup s k.toNat)
  | vramax (d a k) : Vec s (.vramax d a k) (Spec.entry s (.red .amax) d.toNat a.toNat 0 0 k.toNat) (Spec.maskGroup s k.toNat)
  | vmaxi (d a k) : Vec s (.vmaxi d a k) (Spec.entry s (.red .maxi) d.toNat a.toNat 0 0 k.toNat) (Spec.maskGroup s k.toNat)
  | vmini (d a k) : Vec s (.vmini d a k) (Spec.entry s (.red .mini) d.toNat a.toNat 0 0 k.toNat) (Spec.maskGroup s k.toNat)
  | vrisum (d a k) : Vec s (.vrisum d a k) (Spec.entry s (.red .isum) d.toNat a.toNat 0 0 k.toNat) (Spec.maskGroup s k.toNat)
  | vrimax (d a k) : Vec s (.vrimax d a k) (Spec.entry s (.red .imax) d.toNat a.toNat 0 0 k.toNat) (Spec.maskGroup s k.toNat)
  | vrimin (d a k) : Vec s (.vrimin d a k) (Spec.entry s (.red .imin) d.toNat a.toNat 0 0 k.toNat) (Spec.maskGroup s k.toNat)
  | vrimaxu (d a k) : Vec s (.vrimaxu d a k) (Spec.entry s (.red .imaxu) d.toNat a.toNat 0 0 k.toNat) (Spec.maskGroup s k.toNat)
  | vriminu (d a k) : Vec s (.vriminu d a k) (Spec.entry s (.red .iminu) d.toNat a.toNat 0 0 k.toNat) (Spec.maskGroup s k.toNat)
  | vrand (d a k) : Vec s (.vrand d a k) (Spec.entry s (.red .and) d.toNat a.toNat 0 0 k.toNat) (Spec.maskGroup s k.toNat)
  | vror (d a k) : Vec s (.vror d a k) (Spec.entry s (.red .or) d.toNat a.toNat 0 0 k.toNat) (Spec.maskGroup s k.toNat)
  | vrxor (d a k) : Vec s (.vrxor d a k) (Spec.entry s (.red .xor) d.toNat a.toNat 0 0 k.toNat) (Spec.maskGroup s k.toNat)
  | vexp2 (d a k) : Vec s (.vexp2 d a k) (Spec.entry s (.sfu .exp2) d.toNat a.toNat 0 0 k.toNat) (Spec.maskGroup s k.toNat)
  | vexpe (d a k) : Vec s (.vexpe d a k) (Spec.entry s (.sfu .expe) d.toNat a.toNat 0 0 k.toNat) (Spec.maskGroup s k.toNat)
  | vlog2 (d a k) : Vec s (.vlog2 d a k) (Spec.entry s (.sfu .log2) d.toNat a.toNat 0 0 k.toNat) (Spec.maskGroup s k.toNat)
  | vrcp (d a k) : Vec s (.vrcp d a k) (Spec.entry s (.sfu .rcp) d.toNat a.toNat 0 0 k.toNat) (Spec.maskGroup s k.toNat)
  | vrsq (d a k) : Vec s (.vrsq d a k) (Spec.entry s (.sfu .rsq) d.toNat a.toNat 0 0 k.toNat) (Spec.maskGroup s k.toNat)
  | vmov (d a k) : Vec s (.vmov d a k) (Spec.entry s (.perm .mov) d.toNat a.toNat 0 0 k.toNat) (Spec.maskGroup s k.toNat)
  | vsel (d a b k) : Vec s (.vsel d a b k) (Spec.entry s (.perm .sel) d.toNat a.toNat b.toNat 0 k.toNat) (Spec.maskGroup s k.toNat)
  | viota (d k) : Vec s (.viota d k) (Spec.entry s (.perm .iota) d.toNat 0 0 0 k.toNat) (Spec.maskGroup s k.toNat)
  | vidx (d a b k) : Vec s (.vidx d a b k) (Spec.entry s (.perm .idx) d.toNat a.toNat b.toNat 0 k.toNat) (Spec.maskGroup s k.toNat)
  | vsplat (d g) : Vec s (.vsplat d g) { Spec.entry s (.perm .splat) d.toNat 0 0 0 0 with val := gval s g.toNat } [g.toNat]
  | vnarrow (d a c h r k) (ok : (2 ≤ Spec.fc c h ∧ Spec.fc c h ≤ 8 ∨ fcInt (Spec.fc c h) = true) ∧ r.toNat ≤ 4) : Vec s (.vnarrow d a c h r k)
      { Spec.entry s (.cvt .narrow (Spec.fc c h) 0) d.toNat a.toNat 0 0 k.toNat with
        rm := if r = 0 then (s.pre.ctl 0x011).toNat % 8 else r.toNat - 1 } (Spec.maskGroup s k.toNat)
  | vwiden (d a c h r k) (ok : (2 ≤ Spec.fc c h ∧ Spec.fc c h ≤ 8 ∨ fcInt (Spec.fc c h) = true) ∧ r.toNat ≤ 4) : Vec s (.vwiden d a c h r k)
      { Spec.entry s (.cvt .widen (Spec.fc c h) 0) d.toNat a.toNat 0 0 k.toNat with
        rm := if r = 0 then (s.pre.ctl 0x011).toNat % 8 else r.toNat - 1 } (Spec.maskGroup s k.toNat)
  | vqrnd (d a c h r k) (ok : (2 ≤ Spec.fc c h ∧ Spec.fc c h ≤ 8 ∨ fcInt (Spec.fc c h) = true) ∧ r.toNat ≤ 4) : Vec s (.vqrnd d a c h r k)
      { Spec.entry s (.cvt .qrnd (Spec.fc c h) 0) d.toNat a.toNat 0 0 k.toNat with
        rm := if r = 0 then (s.pre.ctl 0x011).toNat % 8 else r.toNat - 1 } (Spec.maskGroup s k.toNat)
  | vmxq (d a c h l) (ok : fcOk (s.part (corePart s s.cur)).facc (Spec.fc c h) (l.toNat + 3) = true ∧
      (fcBlock (Spec.fc c h) = true ∨ Spec.fc c h = 18)) : Vec s (.vmxq d a c h l)
      (Spec.entry s (.cvt .mxq (Spec.fc c h) (l.toNat + 3)) d.toNat a.toNat 0 0 0) []
  | vmxs (d a c h l) (ok : fcOk (s.part (corePart s s.cur)).facc (Spec.fc c h) (l.toNat + 3) = true ∧
      (fcBlock (Spec.fc c h) = true ∨ Spec.fc c h = 18)) : Vec s (.vmxs d a c h l)
      (Spec.entry s (.cvt .mxs (Spec.fc c h) (l.toNat + 3)) d.toNat a.toNat 0 0 0) []
  | vmxc (d a c h l) (ok : fcOk (s.part (corePart s s.cur)).facc (Spec.fc c h) (l.toNat + 3) = true ∧
      (fcBlock (Spec.fc c h) = true ∨ Spec.fc c h = 18)) : Vec s (.vmxc d a c h l)
      (Spec.entry s (.cvt .mxc (Spec.fc c h) (l.toNat + 3)) d.toNat a.toNat 0 0 0) []
  | vbaleq (d a) (ok : fcOk (s.part (corePart s s.cur)).facc 18 4 = true) : Vec s (.vbaleq d a)
      (Spec.entry s (.cvt .baleq 18 4) d.toNat a.toNat 0 0 0) []

/-- The VCMP forms (R206) with their relation, sources and first destination register. -/
inductive Spec.VCmp : Instr → VCmpOp → (a b : BitVec 4) → (d : BitVec 5) → Prop
  | vcmpFeq (a b d) : VCmp (.vcmpFeq a b d) .feq a b d
  | vcmpFne (a b d) : VCmp (.vcmpFne a b d) .fne a b d
  | vcmpFlt (a b d) : VCmp (.vcmpFlt a b d) .flt a b d
  | vcmpFle (a b d) : VCmp (.vcmpFle a b d) .fle a b d
  | vcmpFun (a b d) : VCmp (.vcmpFun a b d) .fun a b d
  | vcmpIeq (a b d) : VCmp (.vcmpIeq a b d) .ieq a b d
  | vcmpIne (a b d) : VCmp (.vcmpIne a b d) .ine a b d
  | vcmpIlt (a b d) : VCmp (.vcmpIlt a b d) .ilt a b d
  | vcmpIle (a b d) : VCmp (.vcmpIle a b d) .ile a b d
  | vcmpIltu (a b d) : VCmp (.vcmpIltu a b d) .iltu a b d
  | vcmpIleu (a b d) : VCmp (.vcmpIleu a b d) .ileu a b d

/-- Every A-slot vector instruction becomes the last entry of its core's sequencer, with the values it captures at issue and the slices it is to
issue in (R85), and changes nothing else (R193, R196); with G = 0 it traps with ILLEGAL, and while 16 entries stand in the queue it waits. Vector registers it names are
bound to no stream; VCMP and VMOVS have their destinations written later (R206, R210). That the modes and the NBV level are captured at issue is
read from R193 (log 59). -/
def Spec.VectorInstructionsEnterTheSequencer : Prop :=
  ∀ (s : State) (i : Instr) (e : VEntry) (gs : List Nat), s.me.vcap = none →
    let queued (e : VEntry) : State := s.updMe fun k => { k with seqr := k.seqr ++ [.one { e with left := Spec.slices e, since := s.clk }] }
    (Spec.Vec s i e gs → Ready s gs [] → (∀ r ∈ gs, r < 32) → (∀ r ∈ e.vregs, boundV s.pre r = none) →
      (s.me.ventries.length < 16 → s.pre.r.lanes ≠ 0 → Completes i s (queued e)) ∧
      (s.me.ventries.length < 16 → s.pre.r.lanes = 0 → Traps i s cILLEGAL) ∧
      (16 ≤ s.me.ventries.length → exec i s = .next { s with issue := .held })) ∧
    (∀ (o : VCmpOp) (a b : BitVec 4) (d : BitVec 5), Spec.VCmp i o a b d → Ready s [] (span d.toNat (Spec.groupLen s)) →
      d ≠ 0 → d.toNat + Spec.groupLen s ≤ 32 → boundV s.pre a.toNat = none → boundV s.pre b.toNat = none →
      s.me.ventries.length < 16 → s.pre.r.lanes ≠ 0 →
      Completes i s (queued { Spec.entry s (.cmp o) 0 a.toNat b.toNat 0 0 with gd := d.toNat })) ∧
    (∀ (a : BitVec 4) (x : BitVec 8) (g : BitVec 5), Ready s [] [g.toNat] → boundV s.pre a.toNat = none →
      s.me.ventries.length < 16 → s.pre.r.lanes ≠ 0 →
      Completes (.vmovs a x g) s
        (queued { Spec.entry s (.perm .movs) 0 a.toNat 0 0 0 with gd := g.toNat, val := BitVec.ofNat 64 x.toNat }))

/-- VL, capture and the entry of vector instructions into the sequencer. -/
def Obligations.VectorUnitEntry : Prop := Spec.VectorLengthGrantAndCapture ∧ Spec.VectorInstructionsEnterTheSequencer

/-- What the integer and permutation entries compute for element i from their sources (R205, R210). -/
inductive Spec.Lane (e : VEntry) (a b c : Nat → Word32) : VOp → (Nat → Word32) → Prop
  | add : Lane e a b c (.int .add) fun i => BitVec.ofNat 32 ((a i).toNat + (b i).toNat)
  | sub : Lane e a b c (.int .sub) fun i => BitVec.ofInt 32 ((a i).toInt - (b i).toInt)
  | mul : Lane e a b c (.int .mul) fun i => BitVec.ofNat 32 ((a i).toNat * (b i).toNat)
  | mulh : Lane e a b c (.int .mulh) fun i => BitVec.ofInt 32 ((a i).toInt * (b i).toInt / 2 ^ 32)
  | and : Lane e a b c (.int .and) fun i => a i &&& b i
  | or : Lane e a b c (.int .or) fun i => a i ||| b i
  | xor : Lane e a b c (.int .xor) fun i => a i ^^^ b i
  | sll : Lane e a b c (.int .sll) fun i => BitVec.ofNat 32 ((a i).toNat * 2 ^ ((b i).toNat % 32))
  | srl : Lane e a b c (.int .srl) fun i => BitVec.ofNat 32 ((a i).toNat / 2 ^ ((b i).toNat % 32))
  | sra : Lane e a b c (.int .sra) fun i => BitVec.ofInt 32 ((a i).toInt / 2 ^ ((b i).toNat % 32))
  | min : Lane e a b c (.int .min) fun i => BitVec.ofInt 32 (Min.min (a i).toInt (b i).toInt)
  | max : Lane e a b c (.int .max) fun i => BitVec.ofInt 32 (Max.max (a i).toInt (b i).toInt)
  | minu : Lane e a b c (.int .minu) fun i => BitVec.ofNat 32 (Min.min (a i).toNat (b i).toNat)
  | maxu : Lane e a b c (.int .maxu) fun i => BitVec.ofNat 32 (Max.max (a i).toNat (b i).toNat)
  | adds : Lane e a b c (.int .adds) fun i => BitVec.ofInt 32 (Max.max (-(2 ^ 31)) (Min.min (2 ^ 31 - 1) ((a i).toInt + (b i).toInt)))
  | subs : Lane e a b c (.int .subs) fun i => BitVec.ofInt 32 (Max.max (-(2 ^ 31)) (Min.min (2 ^ 31 - 1) ((a i).toInt - (b i).toInt)))
  | mac : Lane e a b c (.int .mac) fun i => BitVec.ofNat 32 ((a i).toNat * (b i).toNat + (c i).toNat)
  | dot4 : Lane e a b c (.int .dot4) fun i => BitVec.ofInt 32 ((c i).toInt +
      ((List.range 4).map fun j => ((a i).extractLsb' (8 * j) 8).toInt * ((b i).extractLsb' (8 * j) 8).toInt).sum)
  | abs : Lane e a b c (.int .abs) fun i => BitVec.ofInt 32 (Min.min (2 ^ 31 - 1) ((a i).toInt.natAbs : Int))
  | mov : Lane e a b c (.perm .mov) a
  | splat : Lane e a b c (.perm .splat) fun _ => e.val.truncate 32
  | iota : Lane e a b c (.perm .iota) fun i => BitVec.ofNat 32 i
  | idx : Lane e a b c (.perm .idx) fun i => a ((b i).toNat % 256)

/-- VECTOR_ENTRY_COMPLETE performs the head of the sequencer once its slices have issued (R85) and the core has had its turn in the clk (log 3): element i < L that its mask selects is the result, every other element of vd and
every other vector register, general register and byte of memory stays; the entry is gone and FPC keeps its flags (R192 to R194,
R196, R205, R210). -/
def Obligations.VectorEntryWritesItsElements : Prop :=
  ∀ (s : State) (c : Nat) (e : VEntry) (rest : List SeqItem) (f : Nat → Word32), (s.core c).seqr = .one e :: rest →
    (s.issued.contains c = true ∨ mayIssue s c = false) → (s.core c).loads = [] → (s.core c).yoke = none → e.left = 0 → e.pops = [] → e.again = false → boundV (s.core c) e.vd = none → e.len ≤ 256 →
    Spec.Lane e ((s.core c).elem e.va) ((s.core c).elem e.vb) ((s.core c).elem e.vc) e.op f →
    ∃ t, Completes (.vectorEntryComplete c) s t ∧
      (t.core c).seqr = (if e.len = 0 then updHead (fun x => { x with since := s.clk }) rest else rest) ∧
      (∀ i, i < 256 → (t.core c).elem e.vd i =
        if i < e.len ∧ (∀ m, e.mask = some m → m.testBit i = true) then f i else (s.core c).elem e.vd i) ∧
      (∀ r i, i < 256 → r ≠ e.vd → (t.core c).elem r i = (s.core c).elem r i) ∧
      (t.core c).r.g = (s.core c).r.g ∧ (t.core c).r.pc = (s.core c).r.pc ∧ (∀ n, (t.core c).ctl n = (s.core c).ctl n) ∧
      t.mem = s.mem ∧ t.parts = s.parts ∧ ∀ x, x ≠ c → t.core x = s.core x

/-- LDV and LDF of the Common window become outstanding loads; STV and STF become sequencer entries with their range (R187, R193, R200). L is not
0, and no word on the way is damaged. -/
def Obligations.VectorLoadsAndStores : Prop :=
  ∀ (s : State) (l : Lit) (d : BitVec 4) (a : BitVec 5) (z : BitVec 2) (x : BitVec 1) (o : BitVec 12), Ready s [a.toNat] [] →
    s.latch = none → s.me.capOpen = false → s.me.vcap = none → boundV s.me d.toNat = none → s.me.r.vl ≠ 0 → s.me.inCompute = false →
    s.me.buffered = [] → s.me.seqr = [] → s.me.loads = [] →
    let len := s.me.r.vl
    let p := gval s a.toNat
    let fc := p.toNat / 2 ^ 58
    let bl := p.toNat / 2 ^ 54 % 16
    let reaches (v : Int) (n : Nat) : Prop := 0 ≤ v ∧ windowOf v.toNat = .common ∧ v.toNat - commonBase + n ≤ commonSize s (corePart s s.cur) ∧
      s.bad (commonKey s (corePart s s.cur) (v.toNat - commonBase)) n = false
    let ld (v n : Nat) (k : LoadKind) : State := s.updMe fun c => { c with loads := [
      { kind := k, va := v, key := commonKey s (corePart s s.cur) (v - commonBase), tr := [], size := n, rd := d.toNat, escape := false,
        since := s.clk }] }
    let st (v : Nat) (op : VOp) : State := s.updMe fun c => { c with seqr := [.one
      { Spec.entry s op 0 d.toNat 0 0 0 with addr := v, left := (len + 31) / 32, since := s.clk }] }
    p.toNat / 2 ^ 48 % 64 = 0 →
    (let n := 2 ^ z.toNat
     let v := Spec.address s a o n
     reaches v (n * len) → v % n = 0 →
     ((x = 0 ∧ z ≠ 3 ∨ x = 1 ∧ z.toNat < 2) → Spec.unhindered s clsR v.toNat (n * len) →
       Completes (.ldv l d a z x o) s (ld v.toNat (n * len) (.vec n (x == 1) len))) ∧
     (z ≠ 3 → Spec.unhindered s clsW v.toNat (n * len) → s.me.r.lanes ≠ 0 → Completes (.stv l d a z o) s (st v.toNat (.stv n)))) ∧
    (let n := fcBytes fc bl len
     let v := Spec.address s a o 4
     fc ≠ 0 → fcOk (s.part (corePart s s.cur)).facc fc bl = true → reaches v n → n ≠ 0 → v % fcAlign fc = 0 →
     (Spec.unhindered s clsR v.toNat n → Completes (.ldf l d a o) s (ld v.toNat n (.vecf fc bl len ((s.me.ctl 0x011).getLsbD 4)))) ∧
     (Spec.unhindered s clsW v.toNat n → s.me.r.lanes ≠ 0 → Completes (.stf l d a o) s (st v.toNat (.stf fc bl))))

/-! ## The matrix engine -/

/-- The fold's engine belongs to the current core's launch, or to none (R213). -/
def Spec.mayOwn (s : State) (o : Occ) : Prop :=
  s.me.occ = some o ∧ ∀ p b t, (s.fold (foldOf s.cur)).owner = some (p, b, t) → p = o.part ∧ t = s.me.ctl 0x040

/-- The first matrix instruction on a fold without an owner makes its launch the owner, and everything reads zero (R213). -/
noncomputable def Spec.owning (s : State) (o : Occ) : State :=
  if (s.fold (foldOf s.cur)).owner = none then s.updFold (foldOf s.cur) fun v =>
    { v with owner := some (o.part, o.blk, s.me.ctl 0x040), m := MState.zero, shadow := 0 } else s

/-- In a flagged launch a core's own tiles and accumulator (R235). -/
def Spec.ownTiles (o : Occ) (tiles accs : List Nat) : Prop := o.flagged = true → (∀ t ∈ tiles, t / 4 = o.k % 8) ∧ ∀ a ∈ accs, a = o.k % 8

/-- A matrix entry of the current core at its own fold's engine, with what it captures at issue (R218, R180): the NBV level, the modes and the
tile shapes, all as they stood before the packet (R94). -/
def Spec.mxEntry (s : State) (op : MOp) (d a b : Nat) (ta tb : Word) (tr : SMap Nat) : MEntry :=
  { op := op, fold := foldOf s.cur, d := d, a := a, b := b, tshA := ta, tshB := tb, lvl := (s.pre.ctl 0x010).toNat % 8,
    umode := (s.pre.ctl 0x020).toNat % 2, pmode := (s.pre.ctl 0x021).toNat % 4, tr := tr, seq := (s.fold (foldOf s.cur)).accepted,
    faulted := none }

/-- The state after an entry is accepted at the end of queue q (R218). -/
def Spec.mxQueued (s : State) (q : Nat) (e : MEntry) : State :=
  (s.updMe fun k => { k with queues := mput k.queues q { (mget ⟨[], none⟩ k.queues q) with
    entries := (mget ⟨[], none⟩ k.queues q).entries ++ [.matrix e] } }).updFold (foldOf s.cur) fun v => { v with accepted := v.accepted + 1 }

/-- Queue q takes an entry: it has room, which the spec leaves open beyond two entries (log 29), and holds no recorded cause (R218, R221). -/
def Spec.queueFree (s : State) (q : Nat) : Prop :=
  (mget ⟨[], none⟩ s.me.queues q).entries.length < Config.queueRoom + 2 ∧ (mget ⟨[], none⟩ s.me.queues q).err = none

/-- The engine that QMAP binds queue q to (R263). -/
def Spec.engine (s : State) (q : Nat) : Nat := (s.pre.ctl 0x038).toNat / 16 ^ q % 16

/-- The A-slot matrix instructions (R222, R227 to R229) whose checks pass, given the shapes T, the tiles that arrived and whether the core is in a
routine of a flagged launch: tiles and accumulators named, and the entry. -/
inductive Spec.Mx (s : State) (T : Nat → Word) (arrived : List Nat) : Instr → (tiles accs : List Nat) → MOp → (d a b : Nat) → (ta tb : Word) → Prop
  | mma (d a b) (h : tshCols (T b.toNat) = tshCols (T a.toNat)) (k : (mmaClass (tshFc (T a.toNat)) (tshFc (T b.toNat))).isSome = true) :
      Mx s T arrived (.mma d a b 0) [a.toNat, b.toNat] [d.toNat] (.mma false) d.toNat a.toNat b.toNat (T a.toNat) (T b.toNat)
  | mmaz (d a b) (h : tshCols (T b.toNat) = tshCols (T a.toNat)) (k : (mmaClass (tshFc (T a.toNat)) (tshFc (T b.toNat))).isSome = true) :
      Mx s T arrived (.mmaz d a b 0) [a.toNat, b.toNat] [d.toNat] (.mma true) d.toNat a.toNat b.toNat (T a.toNat) (T b.toNat)
  | azero (d) : Mx s T arrived (.azero d) [] [d.toNat] .azero d.toNat 0 0 0 0
  | acopy (d a) : Mx s T arrived (.acopy d a) [] [d.toNat, a.toNat] .acopy d.toNat a.toNat 0 0 0
  | aadd (d a i) : Mx s T arrived (.aadd d a i) [] [d.toNat, a.toNat] (.aadd (i == 1)) d.toNat a.toNat 0 0 0
  | tzero (a) (h : tshFc (T a.toNat) ≠ 0 ∧ a.toNat ∉ arrived) : Mx s T arrived (.tzero a) [a.toNat] [] .tzero 0 a.toNat 0 (T a.toNat) 0
  | tcopy (a b) (h : tshFc (T a.toNat) ≠ 0 ∧ T a.toNat = T b.toNat ∧ a.toNat ∉ arrived) :
      Mx s T arrived (.tcopy a b) [a.toNat, b.toNat] [] .tcopy 0 a.toNat b.toNat (T a.toNat) (T b.toNat)
  | ttrn (a b) (h : tshFc (T a.toNat) = tshFc (T b.toNat) ∧ tshFc (T a.toNat) ∈ [1, 2, 3, 4, 5, 15, 17] ∧
      tshRows (T a.toNat) = tshCols (T b.toNat) ∧ tshCols (T a.toNat) = tshRows (T b.toNat) ∧ a.toNat ≠ b.toNat ∧ a.toNat ∉ arrived) :
      Mx s T arrived (.ttrn a b) [a.toNat, b.toNat] [] .ttrn 0 a.toNat b.toNat (T a.toNat) (T b.toNat)
  | tfwd (a r) (h : s.me.inFlagged = false ∧ (neighbour s (foldOf s.cur) r.toNat).isSome = true) :
      Mx s T arrived (.tfwd a r) [a.toNat] [] (.tfwd r.toNat) 0 a.toNat 0 (T a.toNat) (T 0)
  | ttake (a b) (h : s.me.inFlagged = false ∧ a.toNat ∉ arrived) :
      Mx s T arrived (.ttake a b) [a.toNat, b.toNat] [] .ttake 0 a.toNat b.toNat (T a.toNat) (T b.toNat)

/-- A matrix instruction of the A-slot becomes the last entry of the lowest queue that QMAP binds to the matrix engine (R213, R218, R222, R227 to
R229, R235); a streamed B also names its pointer (R226). While another launch owns the engine it traps with MX_CAPABILITY, and without
such a queue with ILLEGAL. -/
def Spec.MatrixInstructionsEnterTheQueue : Prop :=
  ∀ (s : State) (o : Occ) (q : Nat), Spec.mayOwn s o → q < 8 → Spec.engine s q = 3 → (∀ r, r < q → Spec.engine s r ≠ 3) → Spec.queueFree s q →
    let T := tshOf s
    let u := Spec.owning s o
    let arrived := (u.fold (foldOf s.cur)).m.arrived
    (∀ i tiles accs op d a b ta tb, Spec.Mx s T arrived i tiles accs op d a b ta tb → Spec.ownTiles o tiles accs →
      Completes i s (Spec.mxQueued u q (Spec.mxEntry u op d a b ta tb []))) ∧
    (∀ (z : Bool) (d : BitVec 3) (a b : BitVec 5), Ready s [b.toNat] [] →
      let p := gval s b.toNat
      Spec.ownTiles o [a.toNat] [d.toNat] → streamedCheck u s.cur p (tshCols (T a.toNat)) s.det = .ok () →
      (mmaClass (tshFc (T a.toNat)) (p.toNat / 2 ^ 58)).isSome = true → s.me.fenced clsMR (streamedSpans (T a.toNat) p) = false →
      Completes (if z then .mmaz d a b 1 else .mma d a b 1) s
        (Spec.mxQueued u q (Spec.mxEntry u (.mmaStreamed z p) d.toNat a.toNat 0 (T a.toNat) 0 []))) ∧
    (∀ (v : State) (d : BitVec 3) (x b : Nat) (w : Word), v = s.updFold (foldOf s.cur) (fun f => { f with owner := some (x, b, w) }) →
      w ≠ s.me.ctl 0x040 → Traps (.azero d) v cMXCAP) ∧
    ∀ (v : State) (d : BitVec 3), (∀ r, r < 8 → Spec.engine v r ≠ 3) → Traps (.azero d) v cILLEGAL

/-- No earlier access of the core holds back the rows of a transfer that name bytes (R98, R220, R321, R326). -/
abbrev Spec.rowsFree (s : State) (p : Word) (stride : Int) (rows n : Nat) (write : Bool) : Prop :=
  let rs : List Span := (List.range rows).filterMap fun r =>
    let v := rowAddr (p.toNat % 2 ^ 48) stride r
    if 0 ≤ v ∧ v + n ≤ 2 ^ 48 then some (v.toNat, n) else none
  s.me.storesMeet s s.cur rs = false ∧ s.me.fenced (if write then clsMW else clsMR) rs = false ∧
  (write = true → ∀ r ∈ rs, s.me.loadsMeet s s.cur r = false)

/-- TLD, TSTR, AMOV and ALD enter the queue that they name, with the translations of their rows, where the pointer's format, the region and
every row pass their checks (R218, R230 to R232). -/
def Spec.MatrixMovesEnterTheQueue : Prop :=
  ∀ (s : State) (l : Lit) (q : BitVec 3) (a b c : BitVec 5) (d : BitVec 3) (o : Occ) (tr : SMap Nat) (v : State), s.latch = none →
    Ready s [a.toNat, b.toNat] [] → Spec.mayOwn s o → Spec.engine s q.toNat = 3 → Spec.queueFree s q.toNat →
    let u := Spec.owning s o
    let T := tshOf s c.toNat
    let p := gval s a.toNat
    let st := Spec.rb s l b
    let fc := p.toNat / 2 ^ 58
    let bl := p.toNat / 2 ^ 54 % 16
    let n := fcBytes (tshFc T) (tshBl T) (tshCols T)
    p.toNat / 2 ^ 48 % 64 = 0 →
    (Spec.ownTiles o [c.toNat] [] → tshFc T ≠ 0 → fc = 0 ∨ (fc = tshFc T ∧ bl = tshBl T) →
      (Spec.rowsFree s p st.toInt (tshRows T) n true → matrixRows s u p st.toInt (tshRows T) n (fcAlign (tshFc T)) true = .ok (tr, v) →
        Completes (.tstr l q a b c) s (Spec.mxQueued v q.toNat (Spec.mxEntry v (.tstr p st) 0 c.toNat 0 T 0 tr))) ∧
      (c.toNat ∉ (u.fold (foldOf s.cur)).m.arrived → Spec.rowsFree s p st.toInt (tshRows T) n false →
        matrixRows s u p st.toInt (tshRows T) n (fcAlign (tshFc T)) false = .ok (tr, v) →
        Completes (.tld l q a b c) s (Spec.mxQueued v q.toNat (Spec.mxEntry v (.tld p st) 0 c.toNat 0 T 0 tr)))) ∧
    (let row0 := st.toNat / 2 ^ 48 % 64
     let col0 := st.toNat / 2 ^ 56 % 64
     let rows := st.toNat / 2 ^ 32 % 64 + 1
     let cols := st.toNat / 2 ^ 40 % 64 + 1
     let stride := (BitVec.ofNat 32 st.toNat).toInt
     (∀ k ∈ [38, 39, 46, 47, 54, 55, 62, 63], st.getLsbD k = false) → row0 + rows ≤ 64 → col0 + cols ≤ 64 → Spec.ownTiles o [] [d.toNat] →
     accBytes fc ≠ 0 → bl = 0 →
      (Spec.rowsFree s p stride rows (accBytes fc * cols) true →
        matrixRows s u p stride rows (accBytes fc * cols) (accBytes fc) true = .ok (tr, v) →
        Completes (.amov l q a b d) s (Spec.mxQueued v q.toNat (Spec.mxEntry v (.amov p st) d.toNat 0 0 0 0 tr))) ∧
      (fc ≠ 4 → fc ≠ 5 → Spec.rowsFree s p stride rows (accBytes fc * cols) false → matrixRows s u p stride rows (accBytes fc * cols) (accBytes fc) false = .ok (tr, v) →
        Completes (.ald l q a b d) s (Spec.mxQueued v q.toNat (Spec.mxEntry v (.ald p st) d.toNat 0 0 0 0 tr))))

/-- Matrix instructions and moves enter the matrix queue of their core or fold. -/
def Obligations.MatrixQueue : Prop := Spec.MatrixInstructionsEnterTheQueue ∧ Spec.MatrixMovesEnterTheQueue

/-- What the accumulator and multiply entries leave in element (i, j) of accumulator d (R224, R227): an integer MMA adds the exact sum of products,
wrapping; a float MMA is the dot product of the entry's level. -/
def Spec.accNew (m : MState) (e : MEntry) (i j : Nat) : Word32 :=
  match e.op with
  | .azero => 0
  | .acopy => m.el e.a i j
  | .aadd true => BitVec.ofNat 32 ((m.el e.d i j).toNat + (m.el e.a i j).toNat)
  | .aadd false => accAdd e.lvl (m.el e.d i j) (m.el e.a i j)
  | .mma z =>
    if i < tshRows e.tshA ∧ j < tshRows e.tshB then
      let ps := (m.rowVals e.lvl e.a e.tshA i).zip (m.rowVals e.lvl e.b e.tshB j)
      let old : Word32 := if z then 0 else m.el e.d i j
      if mmaClass (tshFc e.tshA) (tshFc e.tshB) = some true then
        BitVec.ofInt 32 (old.toNat + (ps.map fun p => p.1.int * p.2.int).sum)
      else (dotLvl e.lvl (ps.map fun p => (mulVal p.1 p.2).1) (inLvl e.lvl old)).1
    else m.el e.d i j
  | _ => m.el e.d i j

/-- MATRIX_ENTRY_PERFORM performs the head of a queue: an MMA or ACC entry changes accumulator d alone, a TZERO or TCOPY tile a alone; the entry
leaves the queue, and no memory and no register of any core changes (R219, R224, R227, R228). -/
def Obligations.MatrixEntriesPerform : Prop :=
  ∀ (s : State) (c q : Nat) (e : MEntry) (rest : List QEntry), (mget ⟨[], none⟩ (s.core c).queues q).entries = .matrix e :: rest →
    e.faulted = none → matrixTurn (s.core c) e = true → (s.core c).yoke = none → s.downLinks = [] →
    let m := (s.fold e.fold).m
    msorted m.acc = true → msorted m.tiles = true → msorted m.scales = true →
    (e.op ∈ [.azero, .acopy, .aadd true, .aadd false, .mma true, .mma false] → tshRows e.tshA ≤ 64 → tshRows e.tshB ≤ 64 →
      ∃ t, Completes (.matrixEntryPerform c q) s t ∧ (mget ⟨[], none⟩ (t.core c).queues q).entries = rest ∧
        (∀ i j, i < 64 → j < 64 → (t.fold e.fold).m.el e.d i j = Spec.accNew m e i j) ∧
        (∀ a i j, i < 64 → j < 64 → a ≠ e.d → (t.fold e.fold).m.el a i j = m.el a i j) ∧
        (t.fold e.fold).m.tiles = m.tiles ∧ (t.fold e.fold).m.tsh = m.tsh ∧ (∀ x, (t.core x).r = (s.core x).r) ∧ t.mem = s.mem) ∧
    (e.op ∈ [.tzero, .tcopy] →
      ∃ t, Completes (.matrixEntryPerform c q) s t ∧ (mget ⟨[], none⟩ (t.core c).queues q).entries = rest ∧
        (∀ x, x < 4096 → (t.fold e.fold).m.tile e.a x = if e.op = .tzero then 0 else m.tile e.b x) ∧
        (∀ n x, x < 4096 → n ≠ e.a → (t.fold e.fold).m.tile n x = m.tile n x) ∧
        (t.fold e.fold).m.acc = m.acc ∧ (t.fold e.fold).m.tsh = m.tsh ∧ (∀ x, (t.core x).r = (s.core x).r) ∧ t.mem = s.mem)

/-- MXCMD checks its command and its own fold's owner and waits for the target engine's answer (R213, R233): MXCMD_REMOTE_ACCEPT applies the
command's checks there, once no fence holds a streamed B (R338), MXCMD_ANSWER returns 0 or a cause, and the packet retires or traps on it.
A queue that recorded a cause meanwhile accepts nothing, and the packet meets that cause (R221). -/
def Obligations.MxcmdTravelsAndIsAnswered : Prop :=
  ∀ (s : State) (l : Lit) (q : BitVec 3) (a b c : BitVec 5), Ready s [a.toNat, b.toNat, c.toNat] [] → s.latch = none →
    let t := (gval s a.toNat).toNat
    let w : Word32 := BitVec.ofNat 32 (Spec.rb s l b).toNat
    (∀ o m la, s.me.wait = none → Spec.mayOwn s o → Spec.engine s q.toNat = 3 → Spec.queueFree s q.toNat → s.me.inFlagged = false →
      s.me.launchOf s = some la → t < la.fcount → mcmdOf w = some m →
      let waits (p : Word) : State := (Spec.owning s o).updMe fun k => { k with wait := some (.mxcmd q.toNat t w p none) }
      (∀ z d x y, m = .mma z true d x y → exec (.mxcmd l q a b c) s = .next { waits (gval s c.toNat) with issue := .stalled }) ∧
      ((∀ z d x y, m ≠ .mma z true d x y) → c = 0 → exec (.mxcmd l q a b c) s = .next { waits 0 with issue := .stalled })) ∧
    (s.me.wait = some (.released 0) → Completes (.mxcmd l q a b c) s (s.updMe fun k => { k with wait := none })) ∧
    (∀ cause : BitVec 8, cause ≠ 0 → cause ≠ cMISALIGN → s.me.wait = some (.released (BitVec.ofNat 64 cause.toNat)) →
      Traps (.mxcmd l q a b c) s cause) ∧
    (∀ x qq tt ww pp v, (s.core x).wait = some (.mxcmd qq tt ww pp (some v)) →
      Completes (.mxcmdAnswer x) s (s.updCore x fun k => { k with wait := some (.released v) })) ∧
    (∀ x qq tt ww pp o la, (s.core x).wait = some (.mxcmd qq tt ww pp none) → (s.core x).occ = some o →
      (s.core x).launchOf s = some la → s.downLinks = [] →
      let f := foldOf (launchCore s o.part la (8 * tt))
      (∀ m u op d ta tb sa sb, (mget ⟨[], none⟩ (s.core x).queues qq).err = none →
        ownMatrix s f o.part o.blk ((s.core x).ctl 0x040) = some u → mcmdOf ww = some m →
        m.resolve u x (fun n => mget 0 (u.fold f).m.tsh n) (u.fold f).m.arrived pp false = .ok (op, d, ta, tb, sa, sb) →
        (∀ z p, op = .mmaStreamed z p → (s.core x).fenced clsMR (streamedSpans sa p) = false) →
        let there : State := { u with cur := x, latch := none }
        ∃ t, Completes (.mxcmdRemoteAccept x) s t ∧ (t.core x).wait = some (.mxcmd qq tt ww pp (some 0)) ∧
          (mget ⟨[], none⟩ (t.core x).queues qq).entries = (mget ⟨[], none⟩ (s.core x).queues qq).entries ++
            [.matrix (matrixEntry there x f op d ta tb sa sb)]) ∧
      ((mget ⟨[], none⟩ (s.core x).queues qq).err ≠ none →
        Completes (.mxcmdRemoteAccept x) s (s.updCore x fun k => { k with wait := none })))

/-- A forwarded tile arrives at the neighbour's engine: bytes and shape move into the tile of the same number, which becomes inbound (R229); of a
fold without an owner everything else reads zero then (R213). A fold that another launch owns rejects it with MX_CAPABILITY in the
queue. STREAMED_B_FAULT_RESOLVED puts a stopped MMA back at its queue's head or fails it, and frees its shadow region (R226). -/
def Obligations.TilesArriveAndStreamedFaultsResolve : Prop :=
  ∀ (s : State) (c q : Nat) (e : MEntry) (rest : List QEntry), (mget ⟨[], none⟩ (s.core c).queues q).entries = .matrix e :: rest →
    (∀ dir part blk tag tsh bytes scales g, e.op = .arriving dir part blk tag tsh bytes scales → neighbour s e.fold dir = some g →
      (∀ m, (m = if (s.fold g).owner = none then MState.zero else (s.fold g).m) →
        (∀ p b w, (s.fold g).owner = some (p, b, w) → p = part ∧ w = tag) → e.a ∉ m.inbound →
        ∃ t, Completes (.tileArrival c q) s t ∧ (mget ⟨[], none⟩ (t.core c).queues q).entries = rest ∧
          (t.fold g).m.inbound = e.a :: m.inbound ∧ mget 0 (t.fold g).m.tsh e.a = tsh ∧ (t.fold g).m.acc = m.acc ∧
          (msorted m.tiles = true → msorted bytes = true → ∀ x, x < 4096 → (t.fold g).m.tile e.a x = mget 0 bytes x) ∧
          (msorted m.tiles = true → ∀ n x, x < 4096 → n ≠ e.a → (t.fold g).m.tile n x = m.tile n x) ∧
          t.mem = s.mem ∧ ∀ x, (t.core x).r = (s.core x).r) ∧
      (∀ p b w, (s.fold g).owner = some (p, b, w) → ¬(p = part ∧ w = tag) →
        ∃ t, Completes (.tileArrival c q) s t ∧ t.mem = s.mem ∧ (∀ x, (t.fold x).m = (s.fold x).m ∧ (t.core x).r = (s.core x).r) ∧
          mget ⟨[], none⟩ (t.core c).queues q = { entries := [], err := some { cause := cMXCAP, acc := 3, val := false, data := 0 } })) ∧
    (∀ f, e.faulted = some f → faultAnswer s c f = some true →
      let again : MEntry := { e with faulted := none }
      Completes (.streamedBFaultResolved c q) s ((setEntries s c q (.matrix again :: rest)).updFold e.fold fun v =>
        { v with shadow := v.shadow - 1 })) ∧
    (∀ f, e.faulted = some f → faultAnswer s c f = some false →
      ∃ t, Completes (.streamedBFaultResolved c q) s t ∧ (t.fold e.fold).shadow ≤ (s.fold e.fold).shadow - 1 ∧
        (∀ x, (t.fold x).m = (s.fold x).m ∧ (t.core x).r = (s.core x).r) ∧ t.mem = s.mem ∧
        mget ⟨[], none⟩ (t.core c).queues q =
          { entries := [], err := some { cause := cTRANSLATION, acc := f.acc, val := true, data := f.va } })

/-! ## Copies, streams, chutes, local memory and paddocks -/

/-- The copy instructions (R265 to R273): queue, pointers and count or descriptor, operation, and whether the destination is a chute. -/
inductive Spec.Cp : Instr → Lit → BitVec 3 → (a b c : BitVec 5) → COp → Bool → Prop
  | cpy (l q a b c h) : Cp (.cpy l q a b c h) l q a b c .cpy (h == 1)
  | cpya (l q a b c h) : Cp (.cpya l q a b c h) l q a b c .cpya (h == 1)
  | gath (l q a b c h) : Cp (.gath l q a b c h) l q a b c .gath (h == 1)
  | scat (l q a b c) : Cp (.scat l q a b c) l q a b c .scat false
  | cpyw (l q a b c h) : Cp (.cpyw l q a b c h) l q a b c .cpyw (h == 1)
  | cpyz (l q a b h) : Cp (.cpyz l q a b h) l q a b 0 .cpyz (h == 1)

/-- A copy instruction becomes the last entry of the queue that it names, with its pointers, its count or captured descriptor, and its kept
translations, where no earlier access of the core holds it back and every issue check passes (R265 to R269, R321). A queue that QMAP binds to no copy engine is ILLEGAL. -/
def Spec.CopiesEnterTheQueue : Prop :=
  ∀ (s : State) (i : Instr) (l : Lit) (q : BitVec 3) (a b c : BitVec 5) (op : COp) (ch : Bool), Spec.Cp i l q a b c op ch → s.latch = none →
    Ready s ([a.toNat, b.toNat] ++ (if op = .cpyz then [] else [c.toNat])) [] →
    (∀ (desc : List Word) (tr : SMap Nat) (u v : State), Spec.engine s q.toNat = 1 ∨ Spec.engine s q.toNat = 2 → Spec.queueFree s q.toNat →
      let det := s.me.inFlagged
      let counted := op = .cpy ∨ op = .cpyz
      let dst := gval s a.toNat
      let src := if op = .cpyz then 0 else gval s c.toNat
      let x := Spec.rb s l b
      let e : CEntry := { op := op, chute := ch, dst := dst, src := src, n := if counted then x.toNat else 0, desc := desc, tr := [],
                          next := 0, got := [], seen := [], faulted := none, pushed := if ch then u.me.pushed else [] }
      (counted → x.toNat < 2 ^ 32 ∧ desc = [] ∧ u = s) →
      (¬ counted → ∃ da, descAddr x = .ok da ∧ descRead s da 8 = .ok (desc, u)) →
      copyPtr s op dst = .ok () → (op ≠ .cpyz → copyPtr s op src = .ok () ∧ fcClass (src.toNat / 2 ^ 58) = fcClass (dst.toNat / 2 ^ 58) ∧
        (src.toNat % 2 ^ 48) % fcAlign (src.toNat / 2 ^ 58) = 0) → (dst.toNat % 2 ^ 48) % fcAlign (dst.toNat / 2 ^ 58) = 0 →
      copyFields op desc = true → copyPositions e = true → (∀ r ∈ e.spans, r.1 + r.2 ≤ 2 ^ 48) →
      (op = .gath ∨ op = .scat → (dw desc 1).toNat % 4 = 0) → s.me.storesMeet s s.cur e.spans = false →
      (∀ r ∈ e.writes, s.me.loadsMeet s s.cur r = false) →
      s.me.fenced (clsCR + clsCW) (e.spans ++ e.scattered s s.cur ++ e.slotRange s.me s) = false → (ch = true → chuteWindow u dst det = .ok ()) → copyWindows u e det = .ok (tr, v) →
      Completes i s (pushEntry v q.toNat (.copy { e with tr := tr }))) ∧
    (Spec.engine s q.toNat ≠ 1 → Spec.engine s q.toNat ≠ 2 → Traps i s cILLEGAL)

/-- COPY_ENTRY_PERFORM of a CPY between equal formats, or of a CPYZ of raw bytes, in own local memory: the destination's bytes are what the
source's were (R266), or zero (R270), every other byte stays, and the entry is gone; no register changes. Its queue's turn at the copy engine
has come (R264). COPY_FAULT_RESOLVED lets a stopped GATH or SCAT go on at its element (R267). That an equal copy moves every byte of the last
unit and the scales verbatim, and where a stopped copy goes on, are the model's choices (log 61). -/
def Spec.CopyEntriesPerform : Prop :=
  ∀ (s : State) (c q : Nat) (e : CEntry) (rest : List QEntry), (mget ⟨[], none⟩ (s.core c).queues q).entries = .copy e :: rest → c < 6148 →
    (s.downLinks = [] → (s.core c).yoke = none → copyTurnOf s c q = true → e.faulted = none → e.chute = false → engLent s c e.writes = false →
      let fc := e.dst.toNat / 2 ^ 58
      let n := fcBytes fc (e.dst.toNat / 2 ^ 54 % 16) e.n
      let d := e.dst.toNat % 2 ^ 48
      let r := e.src.toNat % 2 ^ 48
      localBase ≤ d → d + n ≤ localBase + 2 ^ 18 → 0 < n →
      (e.op = .cpy → e.src.toNat / 2 ^ 58 = fc → e.src.toNat / 2 ^ 54 % 16 = e.dst.toNat / 2 ^ 54 % 16 → localBase ≤ r → r + n ≤ localBase + 2 ^ 18 →
        judgeAll s c e.tr e.reads = .ok () →
        ∃ t, Completes (.copyEntryPerform c q) s t ∧ (mget ⟨[], none⟩ (t.core c).queues q).entries = rest ∧
          (∀ i, i < n → readKey t (localKey c (d - localBase + i)) = readKey s (localKey c (r - localBase + i))) ∧
          (∀ key, (∀ i, i < n → key ≠ localKey c (d - localBase + i)) → readKey t key = readKey s key) ∧ ∀ x, (t.core x).r.g = (s.core x).r.g) ∧
      (e.op = .cpyz → fc = 0 →
        ∃ t, Completes (.copyEntryPerform c q) s t ∧ (mget ⟨[], none⟩ (t.core c).queues q).entries = rest ∧
          (∀ i, i < n → readKey t (localKey c (d - localBase + i)) = 0) ∧
          (∀ key, (∀ i, i < n → key ≠ localKey c (d - localBase + i)) → readKey t key = readKey s key) ∧ ∀ x, (t.core x).r.g = (s.core x).r.g)) ∧
    (∀ f, e.faulted = some f → faultAnswer s c f = some true →
      Completes (.copyFaultResolved c q) s (setEntries s c q (.copy { e with faulted := none } :: rest)))

/-- Copies enter a queue, and their entries are performed. -/
def Obligations.CopyEngine : Prop := Spec.CopiesEnterTheQueue ∧ Spec.CopyEntriesPerform

/-- SBIND captures a descriptor, binds the stream and sets SB's bit; SSTAT reads a binding's state; SDRAIN and SUNBIND wait for a write stream's
entries, take its error, and SUNBIND writes POS back and frees the binding (R277, R278, R280). STREAM_FILL appends one entry to a read
stream's ring and STREAM_DRAIN_ENTRY takes the oldest of a write stream's (R279). That a fill waits for the stores that the buffer held at the
SBIND, as a count, and that SBIND waits for the others, is the model's choice (log 63). -/
def Obligations.StreamsBindMoveAndEnd : Prop :=
  ∀ (s : State) (l : Lit) (d a : BitVec 5) (b : Nat), s.latch = none → d.toNat = 24 + b →
    (∀ ws u, Ready s [a.toNat] [] → mfind s.me.streams b = none → s.me.seqr = [] → s.me.loads.any Load.isAmo = false → s.me.pushed = [] →
      let p := (gval s a.toNat).toNat
      let v := p % 2 ^ 48
      p / 2 ^ 48 % 64 = 0 → v % 64 = 0 → windowOf v = .ownLocal → v - localBase + 64 ≤ s.me.lmem s → descRead s v 8 = .ok (ws, u) →
      let t := streamOf ws v
      streamOk t b (v - localBase) (s.me.heap s) = true → (s.me.inFlagged = true → streamLocal t (s.me.lmem s) = true) →
      Completes (.sbind l d a) s (u.updMe fun k => { k with streams := mput k.streams b { t with behind := s.me.buffered.length } }.setCtl (0x030 + b) (BitVec.ofNat 64 (2 ^ 63 + v)))) ∧
    (∀ t, Ready s [a.toNat] [] → mfind s.me.streams b = some t → Traps (.sbind l d a) s cSTREAM) ∧
    (∀ r : BitVec 5, Ready s [] [r.toNat] → Completes (.sstat l r d) s (s.wroteG r.toNat (match mfind s.me.streams b with
      | some t => BitVec.ofNat 64 (2 ^ 63 + (if t.pos = t.total then 2 ^ 62 else 0) + t.ring.length % 2 ^ 11 * 2 ^ 32 + t.pos % 2 ^ 32)
      | none => 0))) ∧
    (∀ t, mfind s.me.streams b = some t → (t.writes = true → t.ring = []) → t.err = none →
      Completes (.sunbind l d) s (endStream s s.cur b) ∧ (t.writes = true → Completes (.sdrain l d) s s)) ∧
    (∀ t, mfind s.me.streams b = some t → t.writes = true → t.ring ≠ [] → exec (.sdrain l d) s = .next { s with issue := .stalled } ∧
      exec (.sunbind l d) s = .next { s with issue := .stalled }) ∧
    (∀ t e, mfind s.me.streams b = some t → (t.writes = true → t.ring = []) → t.err = some e →
      Traps (.sunbind l d) s e.cause ∧ (t.writes = true → Traps (.sdrain l d) s e.cause)) ∧
    (∀ t, mfind s.me.streams b = some t → t.writes = false → Traps (.sdrain l d) s cSTREAM) ∧
    (mfind s.me.streams b = none → Traps (.sunbind l d) s cSTREAM ∧ Traps (.sdrain l d) s cSTREAM) ∧
    (∀ c t u, mfind (s.core c).streams b = some t → fillDue s c t = true → s.downLinks = [] → (s.core c).tfault = none →
      fillStream s c b t = some u → Completes (.streamFill c b) s u ∧ ((u.core c).tfault ≠ none ∨
        ∃ e, mfind (u.core c).streams b = some { t with ring := t.ring ++ [e], moved := t.step })) ∧
    (∀ c t u, mfind (s.core c).streams b = some t → drainEntryDue s c b t = true → s.downLinks = [] → (s.core c).tfault = none →
      drainEntry s c b t = some u → Completes (.streamDrainEntry c b) s u ∧ ((u.core c).tfault ≠ none ∨
        ∃ x, mfind (u.core c).streams b = some { t with ring := t.ring.tail, moved := t.step, err := x }))

/-- CBINIT loads a chute's context; CBPOP takes the slot at HEAD and CBPUSH returns the oldest held slot; CBSTAT reads the counters (R274, R276).
LMALLOC moves AMARK down by whole lines and gives 0 where the floor is in the way, LMFREE moves it up, LMINV invalidates words (R281). -/
def Obligations.ChutesAndLocalMemory : Prop :=
  ∀ (s : State) (l : Lit) (d a b : BitVec 5) (c : BitVec 4), s.latch = none →
    (∀ ws u, Ready s [a.toNat] [] →
      let p := (gval s a.toNat).toNat
      let v := p % 2 ^ 48
      p / 2 ^ 48 % 64 = 0 → v % 64 = 0 → windowOf v = .ownLocal → v - localBase + 64 ≤ s.me.lmem s → descRead s v 8 = .ok (ws, u) →
      chuteOk ws (v - localBase) (s.me.heap s) = true →
      Completes (.cbinit l a c) s (u.setChute s.cur c.toNat (chuteOf ws (v - localBase)))) ∧
    (Ready s [] [d.toNat] → ∀ x, s.chute s.cur c.toNat = some x →
      (1 ≤ x.filled → Completes (.cbpop l d c) s ((s.setChute s.cur c.toNat
        { x with filled := x.filled - 1, head := (x.head + 1) % x.nslot, held := x.held + 1 }).wroteG d.toNat
        (BitVec.ofNat 64 (localBase + x.addr + 64 + x.ssize * x.head)))) ∧
      (x.filled = 0 → exec (.cbpop l d c) s = .next { s with issue := .stalled }) ∧
      (1 ≤ x.held → s.me.loadsMeet s s.cur x.oldest = false → Completes (.cbpush l c) s (s.setChute s.cur c.toNat { x with free := x.free + 1, held := x.held - 1 })) ∧
      (x.held = 0 → Traps (.cbpush l c) s cSTREAM) ∧
      Completes (.cbstat l d c) s (s.wroteG d.toNat (BitVec.ofNat 64 (x.free + 2 ^ 16 * x.filled + 2 ^ 32 * x.head + 2 ^ 48 * x.held)))) ∧
    (Ready s [] [d.toNat] → s.chute s.cur c.toNat = none → Traps (.cbpop l d c) s cSTREAM ∧ Traps (.cbpush l c) s cSTREAM ∧
      Completes (.cbstat l d c) s (s.wroteG d.toNat 0)) ∧
    (Ready s [b.toNat] [d.toNat] →
      let n := ((Spec.rb s l b).toNat + 63) / 64 * 64
      let floor := declFloor (((s.me.launchOf s).map (·.decls)).getD [])
      (s.me.amark < n + floor → Completes (.lmalloc l d b) s (s.wroteG d.toNat 0)) ∧
      (n + floor ≤ s.me.amark → Completes (.lmalloc l d b) s
        ((invalidate (s.updMe fun k => { k with amark := s.me.amark - n }) s.cur (s.me.amark - n) n).wroteG d.toNat
          (BitVec.ofNat 64 (localBase + (s.me.amark - n)))))) ∧
    (Ready s [a.toNat] [] →
      let v := (gval s a.toNat).toNat
      (v % 64 = 0 ∧ localBase + s.me.amark ≤ v ∧ v ≤ localBase + s.me.heap s →
        Completes (.lmfree l a) s (s.updMe fun k => { k with amark := v - localBase })) ∧
      (¬ (v % 64 = 0 ∧ localBase + s.me.amark ≤ v ∧ v ≤ localBase + s.me.heap s) → Traps (.lmfree l a) s cILLEGAL)) ∧
    (Ready s [a.toNat, b.toNat] [] →
      let p := (gval s a.toNat).toNat
      let v := p % 2 ^ 48
      let n := (Spec.rb s l b).toNat
      (p / 2 ^ 48 % 64 ≠ 0 → Traps (.lminv l a b) s cTAG) ∧
      (p / 2 ^ 48 % 64 = 0 → (v % 4 ≠ 0 ∨ n % 4 ≠ 0) → Traps (.lminv l a b) s cMISALIGN) ∧
      (p / 2 ^ 48 % 64 = 0 → v % 4 = 0 → n % 4 = 0 → (v < localBase ∨ localBase + s.me.lmem s < v + n) → Traps (.lminv l a b) s cPERMISSION) ∧
      (p / 2 ^ 48 % 64 = 0 → v % 4 = 0 → n % 4 = 0 → localBase ≤ v → v + n ≤ localBase + s.me.lmem s → s.me.blocked s s.cur (v, n) = false →
        s.me.loadsMeet s s.cur (v, n) = false → (∀ i, i < n → s.me.marginAt (v - localBase + i) = false) → engLent s s.cur [(v, n)] = false →
        Completes (.lminv l a b) s (invalidate s s.cur (v - localBase) n)))

/-- PDECL binds a window where every check of R283 and R284 passes, from the declaration as the Common holds it (log 88: not as the core's
buffered stores will leave it; the model's choice); MUSTER numbers a generation and sends its pieces, once
the core's stores are performed (R344); GWAIT waits for faces, GSTAT
reads them, PDROP unbinds a window whose faces are fresh; PIECE_ACCEPT takes one piece from its sender (R255, R285 to R287). An unbound
window is ILLEGAL. -/
def Obligations.PaddocksBindMusterAndDrop : Prop :=
  ∀ (s : State) (l : Lit) (d a b : BitVec 5) (w : BitVec 2), s.latch = none →
    let unfenced : Prop := (∀ f ∈ s.me.fences, clsMeet clsCW f.succ = false) ∧ s.me.loads.any Load.acquires = false
    (mfind s.me.padds w.toNat = none → Ready s [a.toNat, b.toNat] [d.toNat] →
      Traps (.pdrop l w) s cILLEGAL ∧ Traps (.gwait l b w) s cILLEGAL ∧ Completes (.gstat l d w) s (s.wroteG d.toNat 0) ∧
      (s.me.inCompute = false → unfenced → Traps (.muster l w) s cILLEGAL) ∧
      -- FACC bit 3 = 1: no piece table
      (let da := (s.me.ctl (0x022 + w.toNat)).toNat % 2 ^ 48
       let p := corePart s s.cur
       let ws : List Word := (List.range 32).map fun i =>
         BitVec.ofNat 64 (leNat ((span (da - commonBase + 8 * i) 8).map fun o => s.byte (commonKey s p o)))
       let v := (gval s a.toNat).toNat
       let box := v % 2 ^ 48 - localBase
       windowOf da = .common → da % 64 = 0 → da - commonBase + 256 ≤ commonSize s p → s.bad (commonKey s p (da - commonBase)) 256 = false →
       declOk ws = true → ownersOk ws (((s.me.launchOf s).map (·.ncores)).getD 0) s.me.lk = true → v / 2 ^ 48 % 64 = 0 →
       windowOf (v % 2 ^ 48) = .ownLocal → box % 64 = 0 → box + boxBytes ws s.me.lk ≤ s.me.heap s →
       s.me.padds.any (fun x => meets (x.2.box, boxBytes x.2.words x.2.k) (box, boxBytes ws s.me.lk)) = false →
       (s.part p).facc.getLsbD 3 = true → Spec.rb s l b = 0 →
       let pd : Paddock := { k := s.me.lk, decl := da, words := ws, box := box, gen := 0, subs := [], stamps := [] }
       Completes (.pdecl l a b w) s ((bindCells (countEccRanges s s.cur [] [(da, 256)]) s.cur ws ((pdBlock ws s.me.lk).getD []) box).updMe fun k =>
         { k with padds := mput k.padds w.toNat pd }.setCtl (0x022 + w.toNat) (BitVec.ofNat 64 (2 ^ 63 + da))))) ∧
    (∀ p, mfind s.me.padds w.toNat = some p →
      let faces := (List.range 27).filter fun f => isFace (pdNdim p.words) f
      let fresh (f : Nat) : Bool := p.fresh ((pdBlock p.words p.k).getD []) f
      (Ready s [a.toNat, b.toNat] [] → Traps (.pdecl l a b w) s cILLEGAL) ∧
      (∀ o, s.me.occ = some o → s.me.inCompute = false → unfenced →
        let new : List PieceMsg := p.sent.map fun x =>
          { part := o.part, blk := o.blk, win := w.toNat, decl := p.decl, peer := x.1, face := x.2, tag := p.gen + 1 }
        ((∀ m ∈ s.me.pieces, m.win ≠ w.toNat) → s.me.storesDone s s.cur = true → Completes (.muster l w) s (s.updMe fun k =>
          { k with padds := mput k.padds w.toNat { p with gen := p.gen + 1 }, pieces := k.pieces ++ new })) ∧
        (s.me.storesDone s s.cur = false → exec (.muster l w) s = .next { s with issue := .stalled })) ∧
      (Ready s [b.toNat] [] → (∀ f, f < 64 → (Spec.rb s l b).getLsbD f = true → isFace (pdNdim p.words) f = true) →
        ((∀ f, f < 64 → (Spec.rb s l b).getLsbD f = true → fresh f = true) → Completes (.gwait l b w) s s) ∧
        ((∃ f, f < 64 ∧ (Spec.rb s l b).getLsbD f = true ∧ fresh f = false) → exec (.gwait l b w) s = .next { s with issue := .stalled })) ∧
      (Ready s [] [d.toNat] → Completes (.gstat l d w) s (s.wroteG d.toNat (BitVec.ofNat 64
        (((faces.filter fresh).map fun f => 2 ^ f).sum + p.gen % 32 * 2 ^ 27 + ((faces.filter fun f => !fresh f).map fun f => 2 ^ f).sum * 2 ^ 32)))) ∧
      ((∀ m ∈ s.me.pieces, m.win ≠ w.toNat) → (∀ f ∈ faces, fresh f = true) →
        Completes (.pdrop l w) s (s.updMe fun k =>
          { k with padds := mdel k.padds w.toNat }.setCtl (0x022 + w.toNat) (BitVec.ofNat 64 p.decl)))) ∧
    (∀ c i m u, (s.core c).pieces[i]? = some m → (s.core c).yoke = none → acceptPiece s c i m = some u →
      Completes (.pieceAccept c i) s u ∧ (u.core c).pieces = (s.core c).pieces.eraseIdx i ∧ ∀ x, (u.core x).r = (s.core x).r)

/-! ## Synchronisation -/

/-- A doubleword access of the fold's event unit at offset o that nothing holds back (R295). -/
abbrev Spec.eventAccess (s : State) (a : BitVec 5) (o : BitVec 12) (cls off : Nat) : Prop :=
  (gval s a.toNat).toNat / 2 ^ 48 % 64 = 0 ∧ Spec.address s a o 8 = (eventBase + off : Nat) ∧ off % 8 = 0 ∧ s.me.inFlagged = false ∧
  Spec.unhindered s cls (eventBase + off) 8 ∧ s.me.loads = [] ∧ s.me.buffered = [] ∧ s.me.wait = none ∧ s.me.rwDone s s.cur = true

/-- The current core's fold with a change. -/
noncomputable def Spec.inFold (s : State) (f : Fold → Fold) : State := s.updFold (foldOf s.cur) f

/-- The event unit's lines under doubleword loads and stores (R295 to R297): a free mutex is taken with the value 1 and its holder's store frees
it; a count that is not 0 falls by one and a store adds to it; configurations and sync words are read and written; a barrier's load
joins the line and waits, BARRIER_RELEASE ends the wait of a full line with the new GEN, and the load then returns it. -/
def Spec.EventUnitLines : Prop :=
  ∀ (s : State) (l : Lit) (d a r : BitVec 5) (o : BitVec 12) (i : Nat), Ready s [a.toNat, r.toNat] [d.toNat] → s.latch = none → i < 16 →
    let f := s.fold (foldOf s.cur)
    let line := mget Barrier.reset f.barriers i
    let m := mget { holder := none, waiters := [] } f.mutexes i
    let cnt := mget 0 f.events i
    let w := gval s r.toNat
    (Spec.eventAccess s a o clsR (0x100 + 8 * i) → m.holder = none →
      Completes (.ld l d a 3 0 o) s ((Spec.inFold s fun v => { v with mutexes := mput v.mutexes i { m with holder := some s.me.runner } }).wroteG
        d.toNat 1)) ∧
    (Spec.eventAccess s a o clsW (0x100 + 8 * i) → m.holder = some s.me.runner → m.waiters = [] →
      Completes (.st l r a 3 o) s (Spec.inFold s fun v => { v with mutexes := mput v.mutexes i { m with holder := none } })) ∧
    (Spec.eventAccess s a o clsW (0x100 + 8 * i) → m.holder ≠ some s.me.runner → Traps (.st l r a 3 o) s cPERMISSION) ∧
    (Spec.eventAccess s a o clsR (0x200 + 8 * i) → cnt ≠ 0 → f.evwait = [] →
      Completes (.ld l d a 3 0 o) s ((Spec.inFold s fun v => { v with events := mset 0 v.events i (cnt - 1) }).wroteG d.toNat
        (BitVec.ofNat 64 cnt))) ∧
    (Spec.eventAccess s a o clsW (0x200 + 8 * i) → f.evwait = [] → (∀ j, j < 8 → (s.core (8 * foldOf s.cur + j)).wait = none) →
      Completes (.st l r a 3 o) s (Spec.inFold s fun v => { v with events := mset 0 v.events i (Min.min (cnt + w.toNat) (2 ^ 32 - 1)) })) ∧
    (Spec.eventAccess s a o clsR (0x1000 + 8 * i) → Completes (.ld l d a 3 0 o) s (s.wroteG d.toNat
      (BitVec.ofNat 64 (line.dom * 2 ^ 16 + line.gen % 256 * 2 ^ 8 + line.memb.toNat)))) ∧
    (Spec.eventAccess s a o clsW (0x1000 + 8 * i) → line.arrived = [] → Completes (.st l r a 3 o) s (Spec.inFold s fun v =>
      { v with barriers := mput v.barriers i { line with dom := w.toNat / 2 ^ 16 % 2 ^ 16, memb := BitVec.ofNat 8 w.toNat } })) ∧
    (Spec.eventAccess s a o clsR (0x2000 + 8 * i) → Completes (.ld l d a 3 0 o) s (s.wroteG d.toNat (mget 0 f.sync i))) ∧
    (Spec.eventAccess s a o clsW (0x2000 + 8 * i) → Completes (.st l r a 3 o) s (Spec.inFold s fun v => { v with sync := mset 0 v.sync i w })) ∧
    (Spec.eventAccess s a o clsR (8 * i) → line.memb.getLsbD (s.cur % 8) = false → Traps (.ld l d a 3 0 o) s cPERMISSION) ∧
    (Spec.eventAccess s a o clsR (8 * i) → line.memb.getLsbD (s.cur % 8) = true →
      let u := (Spec.inFold s fun v => { v with barriers := mput v.barriers i { line with arrived := line.arrived ++ [s.cur % 8] } }).updMe
        fun k => { k with wait := some (.barrier i line.gen) }
      exec (.ld l d a 3 0 o) s = .next { u with issue := .stalled }) ∧
    (∀ v, (gval s a.toNat).toNat / 2 ^ 48 % 64 = 0 → Spec.address s a o 8 = (eventBase + 8 * i : Nat) → s.me.inFlagged = false →
      Spec.unhindered s clsR (eventBase + 8 * i) 8 → s.me.loads = [] → s.me.buffered = [] → s.me.wait = some (.released v) →
      Completes (.ld l d a 3 0 o) s ((s.updMe fun k => { k with wait := none }).wroteG d.toNat v)) ∧
    (∀ g c, line.dom = 0 → g = foldOf s.cur → line.arrived = [c] → (∀ j, j < 8 → line.memb.getLsbD j = decide (j = c)) →
      let gen := (line.gen + 1) % 256
      Completes (.barrierRelease g i) s ((s.updFold g fun v => { v with barriers := mput v.barriers i { line with gen := gen, arrived := [] } }).updCore
        (8 * g + c) fun k => { k with wait := some (.released (BitVec.ofNat 64 gen)) }))

/-- EVWAIT takes one count of the own fold's line, or suspends its unit with SUSP 4 behind those that wait; EVSIG adds to a line of a launch fold
once every earlier load and store of the core has been performed and no link of its route is down; EVCNT reads a count (R298, R402). A flagged launch traps with DETERMINISM. -/
def Spec.EventInstructions : Prop :=
  ∀ (s : State) (l : Lit) (d a b e : BitVec 5) (o : Occ) (la : Launch), Ready s [a.toNat, b.toNat] [d.toNat] →
    s.me.occ = some o → s.me.launchOf s = some la →
    let v := s.fold (foldOf s.cur)
    let cnt := mget 0 v.events e.toNat
    (o.flagged = true → Traps (.evwait l e) s cDETERM ∧ Traps (.evsig l a b e) s cDETERM ∧ Traps (.evcnt l d e) s cDETERM) ∧
    (o.flagged = false → Completes (.evcnt l d e) s (s.wroteG d.toNat (BitVec.ofNat 64 cnt))) ∧
    (o.flagged = false → s.pre.capOpen = false → cnt ≠ 0 → v.evwait.any (fun w => w.1 == e.toNat) = false →
      Completes (.evwait l e) s (Spec.inFold s fun f => { f with events := mset 0 f.events e.toNat (cnt - 1) })) ∧
    (o.flagged = false → s.pre.capOpen = false → cnt = 0 → joinAgents s s = .ok () →
      Completes (.evwait l e) s (suspendUnit (Spec.inFold s fun f => { f with evwait := f.evwait ++ [(e.toNat, .unit_ o.blk o.rcd)] })
        s.cur 3 4 s.me.r.npc.toNat)) ∧
    (let t := (gval s a.toNat).toNat
     let n := (Spec.rb s l b).toNat
     let g := devFold s o.part (la.fbase + t)
     (o.flagged = false → t < la.fcount → 1 ≤ n → n < 2 ^ 32 → s.me.rwDone s s.cur = true →
       (routeUp s (foldOf s.cur) g (false, false) = true →
         Completes (.evsig l a b e) s (addEvent (s.updMe fun k => { k with wait := none }) g e.toNat n)) ∧
       (routeUp s (foldOf s.cur) g (false, false) = false →
         exec (.evsig l a b e) s = .next { (s.updMe fun k => { k with wait := some (.evsig g) }) with issue := .stalled })) ∧
     (o.flagged = false → (la.fcount ≤ t ∨ n = 0 ∨ 2 ^ 32 ≤ n) → Traps (.evsig l a b e) s cILLEGAL) ∧
     (o.flagged = false → t < la.fcount → 1 ≤ n → n < 2 ^ 32 → s.me.rwDone s s.cur = false →
       exec (.evsig l a b e) s = .next { s with issue := .stalled }))

/-- The event unit under loads, stores, EVWAIT, EVSIG and EVCNT. -/
def Obligations.EventUnit : Prop := Spec.EventUnitLines ∧ Spec.EventInstructions

/-- DQPUSH puts a READY record of the arena on the core's deque, DQPOP takes the newest and DQSTEAL the oldest, 0 where none is (R307). FORK fills
the first FREE record (log 31), counts it in OUT and in its join block, and pushes it (R308); JOIN takes the last count or suspends with
SUSP 2 (R309). A word of a record or a join block that is in error traps the reader with UNCORRECTABLE; how the model reads such words is its
choice (log 116). -/
def Obligations.DequesForkAndJoin : Prop :=
  ∀ (s : State) (l : Lit) (d a b : BitVec 5) (o : Occ) (la : Launch), s.me.occ = some o → s.me.launchOf s = some la →
    o.flagged = false →
    (Ready s [a.toNat] [] →
      let v := (gval s a.toNat).toNat
      (v % 64 = 0 → la.arena ≤ v → v < la.arena + 64 * la.anum →
        s.me.storesMeet s s.cur [(v, 8)] = false → s.me.hostFail = false →
        let st := ((agentRead s o.part la.job v).getD 0).toNat / 2 ^ 48 % 8
        let x := agentCount s o.part la.job v 1
        (agentBad s o.part la.job v 1 = true → Traps (.dqpush l a) s cUNCORR) ∧
        (agentBad s o.part la.job v 1 = false →
          (st = 1 → s.me.deque.length < 64 → Completes (.dqpush l a) s (x.updMe fun k => { k with deque := (o.blk, v) :: k.deque })) ∧
          (st = 1 → 64 ≤ s.me.deque.length → Completes (.dqpush l a) s (pushDeque x s.cur o.blk v)) ∧
          (st ≠ 1 → Traps (.dqpush l a) s cILLEGAL))) ∧
      ((v % 64 ≠ 0 ∨ v < la.arena ∨ la.arena + 64 * la.anum ≤ v) → Traps (.dqpush l a) s cPERMISSION)) ∧
    (Ready s [] [d.toNat] →
      (∀ r rs, s.me.deque = r :: rs →
        Completes (.dqpop l d) s ((s.updMe fun k => { k with deque := rs }).wroteG d.toNat (BitVec.ofNat 64 r.2))) ∧
      (s.me.deque = [] → s.me.spill = [] → Completes (.dqpop l d) s (s.wroteG d.toNat 0))) ∧
    (Ready s [a.toNat] [d.toNat] →
      let t := (gval s a.toNat).toNat
      let c := launchCore s o.part la t
      (8 * la.fcount ≤ t → Traps (.dqsteal l d a) s cILLEGAL) ∧
      (t < 8 * la.fcount → (s.core c).spill = [] → ∀ r rs, (s.core c).deque = rs ++ [r] →
        Completes (.dqsteal l d a) s ((s.updCore c fun k => { k with deque := rs }).wroteG d.toNat (BitVec.ofNat 64 r.2))) ∧
      (t < 8 * la.fcount → (s.core c).spill = [] → (s.core c).deque = [] → Completes (.dqsteal l d a) s (s.wroteG d.toNat 0))) ∧
    (Ready s [d.toNat, a.toNat, b.toNat, 4, 5, 6, 7, 8] [] →
      let pc := (gval s a.toNat).toNat
      let j := (gval s d.toNat).toNat
      pc < 2 ^ 48 → pc % 8 = 0 →
      (∀ r, j = 0 → freeRecord s o.part la = some r → s.me.rwDone s s.cur = true →
        let ws : List Word := [BitVec.ofNat 64 (2 ^ 48 + pc), 0, Spec.rb s l b, gval s 4, gval s 5, gval s 6, gval s 7, gval s 8]
        let u := (List.range 8).foldl (fun v i => agentWrite v o.part la.job (r + 8 * i) (ws.getD i 0)) s
        let counted (q : Part) : Part := q.setBlk .launch o.blk { q.blk .launch o.blk with out := (q.blk .launch o.blk).out + 1 }
        Completes (.fork l d a b) s (pushDeque (u.updPart o.part fun q => { counted q with
          launches := mput (counted q).launches o.blk { la with live := r :: la.live.filter (· != r) } }) s.cur o.blk r)) ∧
      (∀ u, joinBlock s (gval s d.toNat) = .ok u → u.me.rwDone u s.cur = true → j ≠ 0 → j < 2 ^ 48 →
        agentBad u o.part la.job j 1 = false → u.me.hostFail = false → ((agentRead u o.part la.job j).getD 0).toNat / 2 ^ 32 ≠ 0 →
        Traps (.fork l d a b) s cILLEGAL)) ∧
    (Ready s [a.toNat] [] → s.pre.capOpen = false → ∀ u, joinBlock s (gval s a.toNat) = .ok u → u.me.rwDone u s.cur = true →
      let j := (gval s a.toNat).toNat
      let w := ((agentRead u o.part la.job j).getD 0).toNat
      let v := agentCount u o.part la.job j 1
      let x := agentWrite v o.part la.job (j + 8) (BitVec.ofNat 64 o.rcd)
      agentBad u o.part la.job j 1 = false → u.me.hostFail = false →
      (w = 1 → Completes (.join l a) s (agentWrite x o.part la.job j 0)) ∧
      (2 ≤ w → w < 2 ^ 32 → joinAgents s v = .ok () →
        let y := (agentWrite x o.part la.job j (BitVec.ofNat 64 (w - 1))).updPart o.part fun q => match mfind q.launches o.blk with
          | some g => { q with launches := mput q.launches o.blk { g with joins := g.joins ++ [(o.rcd, j)] } }
          | none => q
        Completes (.join l a) s (suspendUnit y s.cur 3 2 s.me.r.npc.toNat)) ∧
      (w % 2 ^ 32 = 0 ∨ 2 ^ 32 ≤ w → Traps (.join l a) s cILLEGAL))

/-- SEND hands a message to the channel named, MESSAGE_ARRIVAL fills the receiver's slot at TAIL, and RECV and RECVT take the slot at HEAD; an empty
channel suspends RECV with SUSP 3, and holds RECVT until its limit, after which it traps with DEADLINE whatever has come (R310, R311). That SEND judges and counts its source at issue and a message arrives whole in one
event (log 62), and that RECVT keeps its limit as a clk (log 91), are the model's choices. A recorded error or an unloaded
context traps with CHANNEL. -/
def Obligations.MessagesTravelChannels : Prop :=
  ∀ (s : State) (l : Lit) (d a b : BitVec 5) (c : BitVec 4),
    (∀ (o : Occ) (la : Launch) (tr : SMap Nat) (u : State), Ready s [d.toNat, a.toNat, b.toNat] [] → s.me.sendErr = false → s.me.occ = some o →
      s.me.launchOf s = some la → o.flagged = false →
      let w := (gval s d.toNat).toNat
      let n := (Spec.rb s l b).toNat
      let src := gval s a.toNat
      let fc := src.toNat / 2 ^ 58
      let at_ := src.toNat % 2 ^ 48
      let bytes := fcBytes fc (src.toNat / 2 ^ 54 % 16) n
      let m : Msg := { part := corePart s s.cur, blk := o.blk, core := w % 2 ^ 13, chan := w / 2 ^ 16 % 16, fc := w / 2 ^ 58, bl := w / 2 ^ 54 % 16,
                       src := src, n := n, tr := tr, pushed := u.me.pushed }
      w / 2 ^ 20 % 2 ^ 34 = 0 → w / 2 ^ 13 % 8 = 0 → w % 2 ^ 13 < 8 * la.fcount → 1 ≤ n → n < 2 ^ 32 → copyPtr s .cpy src = .ok () →
      fcOk (s.part (corePart s s.cur)).facc (w / 2 ^ 58) (w / 2 ^ 54 % 16) = true → fcClass (w / 2 ^ 58) = fcClass fc →
      at_ + bytes ≤ 2 ^ 48 → at_ % fcAlign fc = 0 → s.me.storesMeet s s.cur [(at_, bytes)] = false →
      s.me.fenced clsCR [(at_, bytes)] = false → s.me.fenced clsCW (sendRange s.me s s.cur (w % 2 ^ 13) (w / 2 ^ 16 % 16)) = false →
      copyRange s s.cur at_ bytes false false (fun _ => true) [] = .ok (tr, u) → judgeAll u s.cur tr [(at_, bytes)] = .ok () →
      Completes (.send l d a b) s ((engCount u s.cur (umodeOf s.me) (pmodeOf s.me) [(at_, bytes)]).updMe fun k =>
        { k with sends := k.sends ++ [m] })) ∧
    (∀ x m ms u, (s.core x).sends = m :: ms → (s.core x).yoke = none → arriveMessage s x m = some u →
      Completes (.messageArrival x) s u ∧ (u.core x).sends = ms) ∧
    (s.me.sendErr = true → (Ready s [d.toNat, a.toNat, b.toNat] [] → Traps (.send l d a b) s cCHANNEL) ∧
      (Ready s [] [d.toNat] → s.pre.capOpen = false → Traps (.recv l d c) s cCHANNEL)) ∧
    (s.me.sendErr = false → s.chute s.cur c.toNat = none → (Ready s [] [d.toNat] → s.pre.capOpen = false → Traps (.recv l d c) s cCHANNEL) ∧
      (Ready s [b.toNat] [d.toNat] → Traps (.recvt l d b c) s cCHANNEL)) ∧
    (∀ x, s.me.sendErr = false → s.chute s.cur c.toNat = some x →
      let took := s.setChute s.cur c.toNat { x with filled := x.filled - 1, head := (x.head + 1) % x.nslot, held := x.held + 1 }
      let slot : Word := BitVec.ofNat 64 (localBase + x.addr + 64 + x.ssize * x.head)
      (1 ≤ x.filled → Ready s [] [d.toNat] → s.pre.capOpen = false → Completes (.recv l d c) s (took.wroteG d.toNat slot)) ∧
      (1 ≤ x.filled → Ready s [b.toNat] [d.toNat] → s.me.wait ≠ some .expired → (∀ u, s.me.wait = some (.recvt u) → s.clk ≤ u) →
        Completes (.recvt l d b c) s ((took.updMe fun k => { k with wait := none }).wroteG d.toNat slot)) ∧
      (∀ o la, x.filled = 0 → Ready s [] [d.toNat] → s.pre.capOpen = false → s.me.occ = some o → s.me.launchOf s = some la → o.flagged = false →
        joinAgents s s = .ok () → ∃ t, Completes (.recv l d c) s t ∧
          t = (suspendUnit s s.cur 3 3 s.me.r.pc.toNat).updPart o.part fun q => match mfind q.launches o.blk with
            | some g => { q with launches := mput q.launches o.blk { g with recvs := g.recvs ++ [(o.rcd, s.cur, c.toNat)] } }
            | none => q) ∧
      (Ready s [b.toNat] [d.toNat] → s.me.wait = some .expired → Traps (.recvt l d b c) s cDEADLINE) ∧
      (∀ u, Ready s [b.toNat] [d.toNat] → s.me.wait = some (.recvt u) → u < s.clk → Traps (.recvt l d b c) s cDEADLINE) ∧
      (x.filled = 0 → Ready s [b.toNat] [d.toNat] →
        let n := (Spec.rb s l b).toNat
        let waits : State := s.updMe fun k => { k with wait := some (.recvt (s.clk + n)) }
        (s.me.wait = none → n = 0 → Traps (.recvt l d b c) s cDEADLINE) ∧
        (s.me.wait = none → n ≠ 0 → exec (.recvt l d b c) s = .next { waits with issue := .stalled }))) ∧
    (∀ x u, (s.core x).wait = some (.recvt u) → u ≤ s.clk →
      Completes (.recvtTimeout x) s (s.updCore x fun k => { k with wait := some .expired }))

/-! ## Supersteps and exchange -/

/-- BDOM names a domain that holds the core; SSYNC joins the core's agents and arrives; SUPERSTEP_RELEASE, once every core of the domain has arrived
naming it, applies the staged operations, takes the snapshots and opens the exchange phase at every core; EXCHANGE_PHASE_END begins the
next superstep or ends the core's part (R301 to R304). That SSYNC ends its routine (log 67) and that every core of the domain is released in
one event (log 66) is read from R302 and R59. Outside flagged launches BDOM and SSYNC are ILLEGAL. -/
def Obligations.SuperstepsSynchronise : Prop :=
  ∀ (s : State) (l : Lit) (a : BitVec 5),
    (Ready s [a.toNat] [] → s.me.inFlagged = false → Traps (.bdom l a) s cILLEGAL ∧ Traps (.ssync l) s cILLEGAL) ∧
    (∀ o la, Ready s [a.toNat] [] → s.me.occ = some o → s.me.launchOf s = some la → o.flagged = true →
      let v := gval s a.toNat
      let member := v.toNat < 2 ^ 16 ∧ o.k ∈ domainCores la v.toNat
      (member → s.me.inCompute = false → Completes (.bdom l a) s (s.updMe fun k => k.setCtl 0x0C0 v)) ∧
      (member → s.me.inCompute = true → Traps (.bdom l a) s cDETERM) ∧ (¬ member → Traps (.bdom l a) s cILLEGAL) ∧
      (lastCompute s s.me = true → joinAgents s s = .ok () →
        Completes (.ssync l) s (arrive (putAway (endCapture s s.cur) s.cur) s.cur)) ∧
      (lastCompute s s.me = false → Traps (.ssync l) s cDETERM)) ∧
    (∀ p b d la, s.launch p b = some la → la.det = true → (s.part p).contrec = [] → stagesOf s p b d = [] →
      let cs := (domainCores la d).map (launchCore s p la)
      cs ≠ [] → (∀ c ∈ cs, ∃ o, (s.core c).occ = some o ∧ o.part = p ∧ o.blk = b ∧ o.stage = 1 ∧ ((s.core c).ctl 0x0C0).toNat % 2 ^ 16 = d) →
      Completes (.superstepRelease p b d) s (cs.foldl goOn (cs.foldl openPhase (cs.foldl takeSnap (applyStages s p b d))))) ∧
    (∀ c o la, (s.core c).occ = some o → (s.core c).launchOf s = some la → o.flagged = true → o.stage = 3 → (s.part o.part).contrec = [] →
      16 * (((s.core c).ctl 0x0C1).toNat / 2 ^ 16 % 2 ^ 16) ≤ (s.clk - (s.core c).xclkBase) % 2 ^ 32 → (s.core c).awaited s = [] →
      (o.ss + 1 < la.nss → Completes (.exchangePhaseEnd c) s (nextRoutine (s.updCore c fun k =>
        { k with occ := some { o with ss := o.ss + 1, stage := 0, running := false } }) c)) ∧
      (la.nss ≤ o.ss + 1 → Completes (.exchangePhaseEnd c) s (launchMember (leaveCore s c) o.part o.blk 1)))

/-- Nothing holds an XSEND of the entry's lines from pointer p back: no queued work on its source, and no fence over its source or over what it
writes (R98, R321). -/
abbrev Spec.xsendFree (s : State) (p : Nat) (e : SchedEntry) : Prop :=
  let v := p % 2 ^ 48
  let n := 64 * e.nline
  (windowOf v = .ownLocal → v - localBase + n ≤ s.me.lmem s → s.me.blocked s s.cur (v, n) = false) ∧
  s.me.fenced clsCR [(v, n)] = false ∧ s.me.fenced clsCW (peerSpan s.me e.dst e.doff n) = false

/-- XSEND completes in its slot with the lines that the schedule names, EXCHANGE_TRANSFER_WRITE completes by writing them at the receiver once the
sender's accesses are performed, and XRECV completes with the address of the next transfer of a channel once it is written (R305, R306):
no entry is SLOT or CHANNEL, a slot that has begun LATE, one that has not come waits. -/
def Obligations.ScheduledTransfers : Prop :=
  ∀ (s : State) (l : Lit) (d a b : BitVec 5) (c : BitVec 4) (o : Occ) (la : Launch), s.latch = none → s.me.occ = some o →
    s.me.launchOf s = some la → o.flagged = true →
    (Ready s [a.toNat, b.toNat] [] →
      let t := ((s.me.ctl 0x0C1).toNat % 2 ^ 16 + (Spec.rb s l b).toNat) % 2 ^ 16
      let now := (s.clk - s.me.xclkBase) % 2 ^ 32 / 16
      (∀ e, (s.me.schedule s).find? (fun e => e.src == o.k && e.slot == t) = some e → Spec.xsendFree s (gval s a.toNat).toNat e) →
      (o.xrout = false → Traps (.xsend l a b) s cDETERM) ∧
      (o.xrout = true → (s.me.schedule s).find? (fun e => e.src == o.k && e.slot == t) = none → Traps (.xsend l a b) s cSLOT) ∧
      (∀ e, o.xrout = true → (s.me.schedule s).find? (fun e => e.src == o.k && e.slot == t) = some e →
        (t ∈ s.me.xused → Traps (.xsend l a b) s cSLOT) ∧ (t ∉ s.me.xused → t < now → Traps (.xsend l a b) s cLATE) ∧
        (t ∉ s.me.xused → now = t →
          let p := (gval s a.toNat).toNat
          let off := p % 2 ^ 48 - localBase
          let n := 64 * e.nline
          p / 2 ^ 48 % 64 = 0 → p % 64 = 0 → windowOf (p % 2 ^ 48) = .ownLocal → off + n ≤ s.me.lmem s →
          (∀ i, i < n → s.me.validAt (off + i) = true ∧ s.bad (localKey s.cur (off + i)) 1 = false) →
          let x : Xfer := { dst := e.dst, doff := e.doff, bytes := (List.range n).map fun i => readKey s (localKey s.cur (off + i)),
                            chan := e.chan, slot := 2 ^ 16 * o.ss + t, pushed := s.me.pushed }
          ∃ u, Completes (.xsend l a b) s u ∧ u.me.xused = t :: s.me.xused ∧ u.me.xfers = s.me.xfers ++ [x] ∧ u.mem = s.mem ∧
            u.me.r.g = s.me.r.g) ∧
        (∀ ws u, t ∉ s.me.xused → now ≤ t →
          let p := (gval s a.toNat).toNat
          let v := p % 2 ^ 48
          p / 2 ^ 48 % 64 = 0 → v % 64 = 0 → descRead s v (64 * e.nline / 8) = .ok (ws, u) →
          (now = t →
            let x : Xfer := { dst := e.dst, doff := e.doff, bytes := localBytes u s.cur (v - localBase) (64 * e.nline), chan := e.chan,
                              slot := 2 ^ 16 * o.ss + t, pushed := s.me.pushed }
            Completes (.xsend l a b) s (u.updMe fun k => { k with xused := t :: k.xused, xfers := k.xfers ++ [x] })) ∧
          (now < t → exec (.xsend l a b) s = .next { s with issue := .stalled })))) ∧
    (Ready s [] [d.toNat] →
      let free (e : SchedEntry) : Bool := e.dst == o.k && e.chan == c.toNat && !s.me.xtaken.contains e.slot
      (s.me.inCompute = true → Traps (.xrecv l d c) s cDETERM) ∧
      (s.me.inCompute = false → (s.me.schedule s).find? free = none → Traps (.xrecv l d c) s cCHANNEL) ∧
      (∀ e, s.me.inCompute = false → (s.me.schedule s).find? free = some e →
        (2 ^ 16 * o.ss + e.slot ∈ s.me.xwritten → Completes (.xrecv l d c) s ((s.updMe fun k =>
          { k with xtaken := e.slot :: k.xtaken }).wroteG d.toNat (BitVec.ofNat 64 (localBase + e.doff)))) ∧
        (2 ^ 16 * o.ss + e.slot ∉ s.me.xwritten → exec (.xrecv l d c) s = .next { s with issue := .stalled }))) ∧
    (∀ x i xf lx, (s.core x).xfers[i]? = some xf → (s.core x).launchOf s = some lx → lx.setup.contains (lx.lcore xf.dst) = true →
      s.downLinks = [] → (s.core x).rwBefore xf.pushed s x = true →
      let u := launchCore s (corePart s x) lx xf.dst
      ∃ t, Completes (.exchangeTransferWrite x i) s t ∧ (t.core x).xfers = (s.core x).xfers.eraseIdx i ∧
        (t.core u).xwritten = xf.slot :: (s.core u).xwritten ∧ (∀ k, (t.core k).r.g = (s.core k).r.g) ∧
        (u < 6148 → xf.doff + xf.bytes.length ≤ 2 ^ 18 → ∀ j, j < xf.bytes.length →
          readKey t (localKey u (xf.doff + j)) = xf.bytes.getD j 0 ∧ (t.core u).validAt (xf.doff + j) = true))

/-! ## The drove -/

/-- The DRMW instructions (R314): operation, and the new word from the old one, the operand and rd. -/
inductive Spec.Drmw : Instr → Lit → (op : Nat) → (d a b : BitVec 5) → BitVec 3 → (Word → Word → Word → Word) → Prop
  | add (l d a b w) : Drmw (.drmwAdd l d a b w) l 0 d a b w fun x v _ => x + v
  | min (l d a b w) : Drmw (.drmwMin l d a b w) l 1 d a b w fun x v _ => if v.toInt < x.toInt then v else x
  | max (l d a b w) : Drmw (.drmwMax l d a b w) l 2 d a b w fun x v _ => if x.toInt < v.toInt then v else x
  | minu (l d a b w) : Drmw (.drmwMinu l d a b w) l 3 d a b w fun x v _ => if v.toNat < x.toNat then v else x
  | maxu (l d a b w) : Drmw (.drmwMaxu l d a b w) l 4 d a b w fun x v _ => if x.toNat < v.toNat then v else x
  | fmin (l d a b w) : Drmw (.drmwFmin l d a b w) l 5 d a b w fun x v _ => (amoFp false (x.truncate 32) (v.truncate 32)).zeroExtend 64
  | fmax (l d a b w) : Drmw (.drmwFmax l d a b w) l 6 d a b w fun x v _ => (amoFp true (x.truncate 32) (v.truncate 32)).zeroExtend 64
  | and (l d a b w) : Drmw (.drmwAnd l d a b w) l 7 d a b w fun x v _ => x &&& v
  | or (l d a b w) : Drmw (.drmwOr l d a b w) l 8 d a b w fun x v _ => x ||| v
  | xor (l d a b w) : Drmw (.drmwXor l d a b w) l 9 d a b w fun x v _ => x ^^^ v
  | swap (l d a b w) : Drmw (.drmwSwap l d a b w) l 10 d a b w fun _ v _ => v
  | cas (l d a b w) : Drmw (.drmwCas l d a b w) l 11 d a b w fun x v c => if x = c then v else x

/-- The key in ra passes the checks that open every drove instruction (R312, R313, R260). -/
abbrev Spec.droveKey (s : State) (a : BitVec 5) (key : Word32) : Prop :=
  (gval s a.toNat).toNat = key.toNat ∧ s.me.droveErr = none ∧ key ∉ (s.fold (devFold s (corePart s s.cur) (key.toNat / 2 ^ 22))).badKeys

/-- A request joins the core's FIFO (R313). -/
def Spec.droveJoins (s : State) (r : DroveReq) : State := s.updMe fun k => { k with drove := k.drove ++ [r] }

/-- Drove instructions join the core's FIFO of at most eight requests (R312, R313); DREAD, DRMW and DPUT of the core's own captured key act on its
buffer at once and leave its slot and lap in the DLAP register (R316, R318); DLAP reads the register once the FIFO is empty (R316). Word number 7 is ILLEGAL. -/
def Spec.DroveInstructionsJoinTheFifo : Prop :=
  ∀ (s : State) (l : Lit) (d a b : BitVec 5) (w : BitVec 3) (key : Word32), s.latch = none → Ready s [a.toNat, b.toNat, d.toNat] [d.toNat] →
    let home := logFold s (corePart s s.cur) (foldOf s.cur) = key.toNat / 2 ^ 22
    let req (op : DroveOp) (rd : Nat) (v cmp : Word) (word : Nat) (tr : SMap Nat) : DroveReq :=
      { op := op, key := key, rd := rd, v := v, cmp := cmp, word := word, tr := tr, since := s.clk, seen := s.clk }
    let x := Spec.rb s l b
    (w = 7 → Traps (.dread l d a w) s cILLEGAL ∧ Traps (.dput l a b w) s cILLEGAL) ∧
    (Spec.droveKey s a key → s.me.drove.length < 8 → s.me.fences = [] → s.me.loads = [] →
      (s.me.inFlagged = false → home → Completes (.dboard l d a b) s (Spec.droveJoins s (req .board d.toNat x 0 0 []))) ∧
      (s.me.inFlagged = false → ¬ home → Traps (.dboard l d a b) s cPERMISSION) ∧
      (∀ tr u, s.me.inFlagged = false → home → x.toNat / 2 ^ 48 % 64 = 0 → x.toNat % 2 ^ 48 % 8 = 0 → x.toNat % 2 ^ 48 + 56 ≤ 2 ^ 48 →
        windowOf (x.toNat % 2 ^ 48) = .common ∨ windowOf (x.toNat % 2 ^ 48) = .global →
        checkRange s s.cur (x.toNat % 2 ^ 48) 56 true false = .ok (tr, u) → u.me.drove.length < 8 → u.me.fences = [] → u.me.loads = [] →
        Completes (.dalight l d a b) s (Spec.droveJoins u (req .alight d.toNat (BitVec.ofNat 64 (x.toNat % 2 ^ 48)) 0 0 tr))) ∧
      (w ≠ 7 → (∀ c, s.me.cap = some c → c.key ≠ key) →
        Completes (.dread l d a w) s (Spec.droveJoins s (req .read d.toNat 0 0 w.toNat [])) ∧
        (∀ i op f, Spec.Drmw i l op d a b w f → s.me.inFlagged = false →
          Completes i s (Spec.droveJoins s (req (.rmw op) d.toNat x (gval s d.toNat) w.toNat []))) ∧
        (∀ i op f, Spec.Drmw i l op d a b w f → s.me.inFlagged = true → op ∉ [5, 6, 10, 11] →
          Completes i s (Spec.droveJoins s (req (.rmw op) d.toNat x (BitVec.ofNat 64 ((s.me.ctl 0x0C0).toNat % 2 ^ 16)) w.toNat [])))) ∧
      (∀ i op f, Spec.Drmw i l op d a b w f → w ≠ 7 → s.me.inFlagged = true → op ∈ [5, 6, 10, 11] → Traps i s cDETERM) ∧
      (s.me.inFlagged = false → s.me.cap = none →
        let c : Capture := { key := key, slot := none, buf := [], orig := [], since := s.clk }
        Completes (.dcap l a) s ((Spec.droveJoins s (req .cap 0 0 0 0 [])).updMe fun k => { k with cap := some c })) ∧
      (s.me.inFlagged = false → s.me.cap ≠ none → Traps (.dcap l a) s cILLEGAL) ∧
      (∀ c n, s.me.cap = some c → c.key = key → c.slot = some n → s.me.drove = [] →
        let kept (k : Core) (buf : List Word) : Core := { k with cap := some { c with buf := buf } }
        (w ≠ 7 → Completes (.dread l d a w) s ((droveDone s s.cur c.slot).wroteG d.toNat (c.buf.getD w.toNat 0))) ∧
        (∀ i op f, Spec.Drmw i l op d a b w f → w ≠ 7 → s.me.inFlagged = false →
          let old := c.buf.getD w.toNat 0
          Completes i s ((droveDone (s.updMe fun k => kept k (c.buf.set w.toNat (f old x (gval s d.toNat)))) s.cur c.slot).wroteG d.toNat old)) ∧
        (w ≠ 7 → s.me.inFlagged = false → Completes (.dput l a b w) s (droveDone (s.updMe fun k => kept k (c.buf.set w.toNat x)) s.cur c.slot)) ∧
        (s.me.inFlagged = false → Completes (.drel l a) s (Spec.droveJoins s (req .rel 0 0 0 0 []))))) ∧
    (s.me.inCompute = true → Traps (.dlap l d) s cDETERM) ∧
    (s.me.inCompute = false → s.me.droveErr = none → s.me.drove = [] → Completes (.dlap l d) s (s.wroteG d.toNat (s.me.ctl 0x0D0))) ∧
    (s.me.inCompute = false → s.me.droveErr = none → s.me.drove ≠ [] → exec (.dlap l d) s = .next { s with issue := .stalled })

/-- DROVE_REQUEST_APPLY, in the clk in which the slot of the next request passes the core's stop, completes it there: DREAD returns a word and
changes none, DRMW returns the old word and writes the new one, DBOARD makes an EMPTY slot LIVE with the key and value (R312 to R316); the
stop acts on nothing else in that clk. A request that meets no slot fails: it and the later ones are discarded with a deferred error
(R313); a capture ends after 16 revolutions (R318), and an uncorrectable error empties a slot (R260). -/
def Spec.DroveRequestsComplete : Prop :=
  ∀ (s : State) (c j : Nat) (r : DroveReq), (s.core c).yoke = none → boundG (s.core c) r.rd = none →
    (∀ i t, droveNext s c = some (j, r, .slot i t) → t ≤ s.clk →
      let x := s.slot i
      let acted (u : State) : Prop := Completes (.droveRequestApply c) s u ∧ u.clk = s.clk ∧ (u.core c).drove = (s.core c).drove.eraseIdx j ∧
        (∀ k, k ≠ i → u.slot k = s.slot k) ∧ (u.fold (foldOf c)).stopNext = s.clk + 1
      (r.op = .read → ∃ u, acted u ∧ (r.rd ≠ 0 → mget 0 (u.core c).r.g r.rd = x.words.getD r.word 0) ∧ u.slot i = { x with soft := false } ∧
        u.mem = s.mem ∧ ∀ f, f ≠ foldOf c → u.fold f = s.fold f) ∧
      (∀ op o, r.op = .rmw op → (s.core c).occ = some o → o.flagged = false →
        ∃ u, acted u ∧ (r.rd ≠ 0 → mget 0 (u.core c).r.g r.rd = x.words.getD r.word 0) ∧ u.mem = s.mem ∧
          u.slot i = { x with soft := false, words := x.words.set r.word (drmwNew op (x.words.getD r.word 0) r.v r.cmp) }) ∧
      (r.op = .board → ∃ u, acted u ∧ (r.rd ≠ 0 → mget 0 (u.core c).r.g r.rd = 0) ∧ u.mem = s.mem ∧
          u.slot i = { soft := false, state := .live, key := r.key, hold := 0, words := r.v :: List.replicate 6 0 })) ∧
    (∀ v t, droveNext s c = some (j, r, .answer v t) → t ≤ s.clk →
      ∃ u, Completes (.droveRequestApply c) s u ∧ u.clk = s.clk ∧ (r.rd ≠ 0 → mget 0 (u.core c).r.g r.rd = v) ∧ u.slots = s.slots) ∧
    (∀ cause t, droveNext s c = some (j, r, .fail cause t) → t ≤ s.clk → (s.core c).droveErr = none →
      ∃ u, Completes (.droveRequestFail c) s u ∧ (u.core c).drove = (s.core c).drove.take j ∧ u.slots = s.slots ∧ u.mem = s.mem ∧
        ∃ rds, (u.core c).droveErr = some ({ cause := cause, acc := 3, val := false, data := r.key.toNat }, rds)) ∧
    (∀ x n, (s.core c).cap = some x → x.slot = some n → x.since + 16384 ≤ s.clk →
      ∃ u rds, Completes (.captureTimeout c) s u ∧ (u.core c).cap = none ∧
        (u.core c).droveErr = some ({ cause := cDROVE, acc := 3, val := false, data := x.key.toNat }, rds)) ∧
    (∀ i, i < 1024 → (s.slot i).state ≠ .empty → ∃ u, Completes (.droveSlotError i) s u ∧ u.slot i = DSlot.empty ∧
      (∀ k, k ≠ i → u.slot k = s.slot k) ∧ (∀ k, (u.core k).r = (s.core k).r) ∧ u.mem = s.mem ∧
      (s.slot i).key ∈ (u.fold (devFold s (i % nparts s.layout) ((s.slot i).key.toNat / 2 ^ 22))).badKeys)

/-- Drove instructions join the core's request FIFO, and requests complete at their slots. -/
def Obligations.Drove : Prop := Spec.DroveInstructionsJoinTheFifo ∧ Spec.DroveRequestsComplete

/-! ## Collectives, pairs and the TLB -/

/-- The region checks of VSSET (R393): the contribution's range, the result's and its flags', with the translations kept; in a routine of a flagged launch a region outside its own local memory traps with DETERMINISM (R267). -/
def Spec.vsRegions (s : State) (ds : List Word) (src dst : Word) : Res (SMap Nat × State) := do
  let sb := if cdSends ds (cdRank ds) then fcBytes (src.toNat / 2 ^ 58) (src.toNat / 2 ^ 54 % 16) (cdCount ds) else 0
  let db := fcBytes (dst.toNat / 2 ^ 58) (dst.toNat / 2 ^ 54 % 16) (cdElems ds (cdRank ds))
  let (tr, s) ← if sb = 0 then .ok ([], s) else rankRange s (src.toNat % 2 ^ 48) sb (fcAlign (src.toNat / 2 ^ 58)) false []
  let (tr, s) ← if db = 0 then .ok (tr, s) else rankRange s (dst.toNat % 2 ^ 48) db (fcAlign (dst.toNat / 2 ^ 58)) true tr
  if db = 0 then .ok (tr, s) else rankRange s (cdFlags ds) (8 * cdNflags ds (cdRank ds)) 8 true tr

/-- VSSET opens the rank's part and answers 0, or answers 1 where the stream is open with other shared fields or another level and 2 where the rank
is open (R393); a compute routine traps with DETERMINISM and a bad descriptor with ILLEGAL. VSMARK puts a marker behind the rank's beats
(R395). VSWAIT closes the part once its result is there or it was aborted (R396), and VSDIG sends the rank's digest and compares the ranks' digests: 0 where all are rank
0's, else 1 plus the lowest rank that differs (R397). VSWAIT and VSDIG check the descriptor as VSSET does (R393).
ROUTER_BEAT and PORT_BEAT_ARRIVAL carry beats, and perform chunks, take what other devices send and send to them (R386, R394). The sets of beats by which a router works
with entries the Steading computes, that VSSET reads its contribution as it issues, and what counts as an arrival are the model's choice (logs 48, 68, 69). -/
def Obligations.CollectivesRun : Prop :=
  ∀ (s : State) (l : Lit) (d a b : BitVec 5), s.latch = none → Ready s [a.toNat, b.toNat] [d.toNat] →
    let p := corePart s s.cur
    (s.me.inCompute = true → Traps (.vsset l d a b) s cDETERM ∧ Traps (.vsmark l a) s cDETERM ∧ Traps (.vswait l d a) s cDETERM ∧
      Traps (.vsdig l d a) s cDETERM) ∧
    (∀ ds u table v tr x es n, s.me.inCompute = false → collDesc s (gval s a.toNat) = .ok (ds, u) →
      (collValid (s.part p).facc ds = false → Traps (.vsset l d a b) s cILLEGAL) ∧
      (let src := dw ds 1
       let dst := dw ds 2
       let facc := (s.part p).facc
       collValid facc ds = true → fcOk facc (cdWfc ds) (cdWbl ds) = true → copyPtr s .cpy src = .ok () → copyPtr s .cpy dst = .ok () →
       fcClass (src.toNat / 2 ^ 58) = fcClass (cdWfc ds) → fcClass (dst.toNat / 2 ^ 58) = fcClass (cdWfc ds) →
       collTable u ds = .ok (table, v) → (table.all (fun t => fld t 7 0 == s.nv.dev) = true ∨ fld facc 19 16 ≠ 0) → Spec.vsRegions v ds src dst = .ok (tr, x) →
       x.latch = none → boundG x.me d.toNat = none → x.me.rwDone x s.cur = true →
       let shared := collShared ds table
       let level := (s.me.ctl 0x010).toNat % 8
       (∀ y, mfind (x.part p).streams (cdVs ds) = some y → y.shared ≠ shared ∨ y.level ≠ level → Completes (.vsset l d a b) s (x.wroteG d.toNat 1)) ∧
       (∀ y r, mfind (x.part p).streams (cdVs ds) = some y → y.shared = shared → y.level = level → y.rankOf (cdRank ds) = some r → r.closed = false →
         Completes (.vsset l d a b) s (x.wroteG d.toNat 2)) ∧
       (∀ y, (mfind (x.part p).streams (cdVs ds) = some y ∧ n = x ∧ y.shared = shared ∧ y.level = level ∧
             (∀ r, y.rankOf (cdRank ds) = some r → r.closed = true)) ∨
           (mfind (x.part p).streams (cdVs ds) = none ∧ collEntries x ds table = .ok (es, n) ∧
             y = { level := level, shared := shared, ranks := [], aborted := false, direct := facc.getLsbD 2, routers := es,
                   flows := if facc.getLsbD 2 then steadingFlows n p ds table else [], inq := [], bank := [], out := [], sent := [], digests := [] }) →
         let sent := fcBytes (src.toNat / 2 ^ 58) (src.toNat / 2 ^ 54 % 16) (cdCount ds)
         let held := fcBytes (dst.toNat / 2 ^ 58) (dst.toNat / 2 ^ 54 % 16) (cdElems ds (cdRank ds))
         (cdSends ds (cdRank ds) = true → sent ≠ 0 → judgeAll x s.cur tr [(src.toNat % 2 ^ 48, sent)] = .ok ()) →
         engLent x s.cur (if ownChunks ds = [] then [] else [(dst.toNat % 2 ^ 48, held)]) = false →
         let z := openRank n ds tr (Spec.rb s l b) y
         boundG z.me d.toNat = none → z.latch = none → Completes (.vsset l d a b) s (z.wroteG d.toNat 0)))) ∧
    (s.me.inCompute = false → 2 ^ 12 ≤ (gval s a.toNat).toNat ∨ mfind (s.part p).streams (gval s a.toNat).toNat = none → Traps (.vsmark l a) s cILLEGAL) ∧
    (∀ x, s.me.inCompute = false → (gval s a.toNat).toNat < 2 ^ 12 → mfind (s.part p).streams (gval s a.toNat).toNat = some x →
      (x.marking (foldOf s.cur) s.cur = none → Traps (.vsmark l a) s cILLEGAL) ∧
      (∀ r, x.marking (foldOf s.cur) s.cur = some r →
        (x.aborted = true → Completes (.vsmark l a) s s) ∧
        (x.aborted = false → Completes (.vsmark l a) s (s.updPart p fun q =>
          { q with streams := mput q.streams (gval s a.toNat).toNat (x.sendFrom (foldOf s.cur) r.rank fun away => [.marker away [r.rank]]) })))) ∧
    (∀ ds u, s.me.inCompute = false → collDesc s (gval s a.toNat) = .ok (ds, u) → collValid (u.part (corePart u u.cur)).facc ds = false →
      Traps (.vswait l d a) s cILLEGAL ∧ Traps (.vsdig l d a) s cILLEGAL) ∧
    (∀ ds x r u, s.me.inCompute = false → openPart s (gval s a.toNat) = .ok (ds, x, r, u) → u.latch = none → boundG u.me d.toNat = none →
      u.cur = s.cur →
      (partDone u x r = false → exec (.vswait l d a) s = .next { s with issue := .stalled }) ∧
      (partDone u x r = true →
        Completes (.vswait l d a) s ((closeRank u p (cdVs ds) x r.rank).wroteG d.toNat (if x.aborted then 1 else 0))) ∧
      (cdKind ds ≠ 1 → cdKind ds ≠ 4 → (dw ds 7).toNat % 2 ^ 48 = 0 → partDone u x r = true →
        (x.aborted = true → Completes (.vsdig l d a) s (u.wroteG d.toNat 1)) ∧
        (let dst := dw r.desc 2
         let mine := digestOf (rankRead u p r (ptrAddr dst) (fcBytes (ptrFc dst) (ptrBl dst) (cdElems r.desc r.rank)))
         let sends : State := s.updPart p fun q => { q with streams := mput q.streams (cdVs ds) (VStream.addDigest s p r.rank mine x) }
         x.aborted = false → x.digest r.rank r.ndig = none → exec (.vsdig l d a) s = .next { sends with issue := .stalled }) ∧
        (∀ (mine : Nat) (f : Nat → Nat), x.aborted = false → x.digest r.rank r.ndig = some mine → (∀ q, q < cdNrank ds → x.digest q r.ndig = some (f q)) → 0 < cdNrank ds →
          let counted : VStream := { x with ranks := x.ranks.map fun k => if k.rank = r.rank then { k with ndig := r.ndig + 1 } else k }
          let after : State := u.updPart p fun q => { q with streams := mput q.streams (cdVs ds) counted }
          ((∀ q, q < cdNrank ds → f q = f 0) → Completes (.vsdig l d a) s (after.wroteG d.toNat 0)) ∧
          (∀ q, q < cdNrank ds → f q ≠ f 0 → (∀ k, k < q → f k = f 0) →
            let told : State := after.updPart p fun q => { q with fevt := putFld q.fevt 2 2 1 }
            let raised : State := { told with msix := told.msix ++ [(p, 1)] }
            Completes (.vsdig l d a) s (raised.wroteG d.toNat (BitVec.ofNat 64 (1 + q)))))) ∧
      (cdKind ds = 1 ∨ cdKind ds = 4 → Traps (.vsdig l d a) s cILLEGAL)) ∧
    (∀ q f vs x y, mfind (s.part q).streams vs = some x → VStream.beat s f x = some y →
      Completes (.routerBeat q f vs) s (s.updPart q fun k => { k with streams := mput k.streams vs y })) ∧
    (∀ q vs i x r y z, mfind (s.part q).streams vs = some x → x.aborted = false → x.ranks[i]? = some r → chunkArrives s q r = some (y, z) →
      Completes (.portBeatArrival q vs (.chunk i)) s (y.updPart q fun k => { k with streams := mput k.streams vs (x.setRank z) })) ∧
    (∀ q vs v x y, mfind (s.part q).streams vs = some x → x.aborted = false → (∀ i, v ≠ .chunk i) → x.arrives s q v = some y →
      Completes (.portBeatArrival q vs v) s (s.updPart q fun k => { k with streams := mput k.streams vs y }))

/-- A new journal epoch at a core (R243): empty, with JEN. -/
def Spec.epoch (k : Core) (jen : Nat) : Core :=
  { k with journal := [], jspill := [], snapBad := false }.setCtl 0x020 (putFld (putFld (putFld (k.ctl 0x020) 20 10 0) 9 9 0) 8 8 jen)

/-- YOKE pairs the core with its partner once that holds no unit, or answers 1 or 2; UNYOKE closes the interval and ends the pair (R371). An interval
that agrees performs its held stores and moves the agreeing point, on both cores; one that disagrees runs again, the second time by a third
core or, where none may, as the host decides; a third run quarantines the core it disagrees with, and the pair goes on from the agreeing state, or delivers YOKE_MISMATCH (R372, R373). The partner's difference as
`Yoke.other` and the decision of kind 2 (log 45), the agreeing state where the third run agrees with the partner (log 114), and the moment at which held stores are
released (log 44) are the model's choice. -/
def Obligations.PairsRunAndCompare : Prop :=
  ∀ (s : State) (l : Lit) (d : BitVec 5), s.latch = none → Ready s [] [d.toNat] →
    let o := if s.cur % 2 = 0 then s.cur + 1 else s.cur - 1
    let stalls : State := s.updMe fun k => { k with wait := some .yoke }
    let allowed := s.me.inFlagged = false ∧ (s.part (corePart s s.cur)).facc.getLsbD 7 = true
    let started : Yoke := { state := 1, fp := 0, ivpos := 0, other := none, agree := none, point := none, held := [],
                            queued := [], late := [], consumed := 0, close := false }
    (¬ allowed → Traps (.yoke l d) s cILLEGAL ∧ Traps (.unyoke l) s cILLEGAL) ∧
    (allowed → s.me.yoke = none → (s.cur ∈ s.nv.quar ∧ o ∈ s.nv.quar) → Completes (.yoke l d) s (s.wroteG d.toNat 2)) ∧
    (allowed → s.me.yoke = none → ¬ (s.cur ∈ s.nv.quar ∧ o ∈ s.nv.quar) → holdsPersistent s o = true →
      Completes (.yoke l d) s ((s.updMe fun k => { k with wait := none }).wroteG d.toNat 1)) ∧
    (allowed → s.me.yoke = none → ¬ (s.cur ∈ s.nv.quar ∧ o ∈ s.nv.quar) → holdsPersistent s o = false →
      ((s.core o).occ = none → o ≠ s.cur →
        ∃ t, Completes (.yoke l d) s t ∧ t.me.yoke = some started ∧ (t.core o).partnerOf = some s.cur ∧ t.me.journal = [] ∧ fld (t.me.ctl 0x020) 8 8 = 1 ∧ t.me.wait = none ∧
          (t.core o).r.g = s.me.r.g ∧ (t.core o).r.v = s.me.r.v ∧ (t.core o).r.pc = s.me.r.pc ∧ fld ((t.core o).ctl 0x020) 8 8 = 1 ∧
          (d ≠ 0 → mget 0 t.me.r.g d.toNat = 0) ∧ t.mem = s.mem ∧ ∀ c, c ≠ s.cur → c ≠ o → t.core c = s.core c) ∧
      ((s.core o).occ ≠ none → exec (.yoke l d) s = .next { stalls with issue := .stalled })) ∧
    (allowed → s.me.yoke = none → Completes (.unyoke l) s s) ∧
    (∀ y, allowed → s.me.yoke = some y →
      Completes (.yoke l d) s (s.wroteG d.toNat 0) ∧
      (y.ivpos = 0 → y.held = [] →
        let own : State := s.updMe fun k => Spec.epoch k 0
        let same : State := own.updCore o fun k =>
          { k with r := { own.me.r with lanes := k.r.lanes, lastReq := k.r.lastReq }, journal := [], jspill := [] }
        let alone : State := same.updMe fun k => { k with yoke := none }
        Completes (.unyoke l) s (alone.updCore o fun k =>
          { k with partnerOf := none, r := { k.r with vl := 256, v := [], lanes := 0 } })) ∧
      (y.ivpos ≠ 0 ∨ y.held ≠ [] →
        let closing : Yoke := { y with close := true }
        let waits : State := s.updMe fun k => { k with yoke := some closing }
        exec (.unyoke l) s = .next { waits with issue := .stalled })) ∧
    (∀ c y, (s.core c).flushLate.yoke = some y → intervalDue s c = true →
      let o := if c % 2 = 0 then c + 1 else c - 1
      (y.other = none → ∃ t, Completes (.intervalEnd c) s t ∧ (t.core c).stores = (s.core c).stores ++ y.held ∧ (t.core c).journal = [] ∧
        (t.core c).ctl 0x091 = y.fp ∧ (t.core o).ctl 0x091 = y.fp ∧ (t.core c).r.g = (s.core c).r.g ∧ (t.core o).r.g = (s.core c).r.g ∧
        t.mem = s.mem ∧ (t.core c).trans = (s.core c).trans + (if y.state = 2 then 1 else 0) ∧
        ∃ z, (t.core c).yoke = some z ∧ z.state = 1 ∧ z.fp = 0 ∧ z.ivpos = 0 ∧ z.held = [] ∧ z.late = y.late ∧ z.agree.isSome = true) ∧
      (y.other ≠ none → y.state = 1 → ∃ t, Completes (.intervalEnd c) s t ∧
        (t.core c).r = { y.agree.getD (s.core c).r with lanes := (s.core c).r.lanes } ∧ (t.core c).journal = [] ∧
        (t.core c).seqr = (y.point.getD (s.core c).point).seqr ∧ ∃ z, (t.core c).yoke = some z ∧ z.state = 2 ∧ z.held = [] ∧ z.ivpos = 0) ∧
      (y.other ≠ none → y.state ≠ 1 → (s.part (corePart s c)).facc.getLsbD 4 = true → thirdPossible s c = true →
        ∃ t, Completes (.intervalEnd c) s t ∧ ∃ z, (t.core c).yoke = some z ∧ z.state = 3 ∧ z.fp = y.fp ∧ z.other = y.other) ∧
      (∀ k, y.other ≠ none → y.state ≠ 1 → (s.part (corePart s c)).facc.getLsbD 4 = false ∨ thirdPossible s c = false → (s.core c).occ = some k →
        ∃ t, Completes (.intervalEnd c) s t ∧ (t.core c).occ = some { k with running := false } ∧
          (t.core c).r = { y.agree.getD (s.core c).r with lanes := (s.core c).r.lanes } ∧
          (t.part (corePart s c)).contrec = (s.part (corePart s c)).contrec ++ [{ blk := k.blk, core := c, kind := 2 }])) ∧
    (∀ c y fp, (s.core c).yoke = some y → thirdDue s c = true →
      let o := if c % 2 = 0 then c + 1 else c - 1
      (fp = y.fp → ∃ t, Completes (.thirdRunComplete c fp) s t ∧ o ∈ t.nv.quar ∧ t.mem = s.mem ∧ (t.core c).r.g = (s.core c).r.g ∧
        (t.core c).thirds = (s.core c).thirds + 1 ∧ (t.core o).thirds = (s.core o).thirds + 1 ∧ (t.core c).stores = (s.core c).stores ++ y.held) ∧
      (fp ≠ y.fp → y.other = some fp → ∃ t, Completes (.thirdRunComplete c fp) s t ∧ c ∈ t.nv.quar ∧ t.mem = s.mem ∧ (t.core c).r.g = (s.core c).r.g ∧
        (t.core c).thirds = (s.core c).thirds + 1 ∧ (t.core o).thirds = (s.core o).thirds + 1 ∧ (t.core c).stores = (s.core c).stores ++ y.held ∧
        (t.core c).journal = [] ∧ (t.core c).ctl 0x091 = fp ∧ (t.core o).ctl 0x091 = fp) ∧
      (fp ≠ y.fp → y.other ≠ some fp →
        let back : State := yokeRestore s c 1 0
        let t := takeTrap { back with cur := c } { cause := cYOKE, acc := 3, val := false, data := 0, deferred := none } false
        Completes (.thirdRunComplete c fp) s { t with cur := s.cur }))

/-- TLBINV drops the entries of its job that meet a range, or all with a length of 0, at the core, its fold or its partition, once the core's
accesses have been performed; TLBPROBE answers what the tables map, and ERR where the readings of a CRIT leaf differ (R364, R366). -/
def Obligations.TlbInvalidatesAndProbes : Prop :=
  ∀ (s : State) (l : Lit) (d a b : BitVec 5) (u : BitVec 2), s.latch = none → Ready s [a.toNat, b.toNat] [d.toNat] →
    let w := (gval s a.toNat).toNat
    let v := w % 2 ^ 48
    let n := (Spec.rb s l b).toNat
    (u = 3 → Traps (.tlbinv l a b u) s cILLEGAL) ∧
    (u ≠ 3 → s.me.inCompute = true → Traps (.tlbinv l a b u) s cDETERM ∧ Traps (.tlbprobe l d a) s cDETERM) ∧
    (u ≠ 3 → s.me.inCompute = false → (w / 2 ^ 48 % 64 ≠ 0 ∨ 2 ^ 48 < v + n) → Traps (.tlbinv l a b u) s cTAG) ∧
    (u ≠ 3 → s.me.inCompute = false → w / 2 ^ 48 % 64 = 0 → v + n ≤ 2 ^ 48 → s.me.rwDone s s.cur = false →
      exec (.tlbinv l a b u) s = .next { s with issue := .stalled }) ∧
    (u ≠ 3 → s.me.inCompute = false → w / 2 ^ 48 % 64 = 0 → v + n ≤ 2 ^ 48 → s.me.rwDone s s.cur = true →
      let hit (e : TlbEntry) : Bool := e.job == s.me.job s && (n == 0 || meets (e.base, e.size) (v, n))
      let scope := if u = 0 then [s.cur] else if u = 1 then span (8 * foldOf s.cur) 8
        else (s.cores.map (·.1)).filter fun x => corePart s x == corePart s s.cur
      ∃ t, Completes (.tlbinv l a b u) s t ∧ (∀ c, c ∈ scope → (t.core c).tlb = (s.core c).tlb.filter fun e => !hit e) ∧
        (∀ c, c ∉ scope → t.core c = s.core c) ∧ (∀ c, (t.core c).r = (s.core c).r) ∧ t.mem = s.mem ∧ t.folds = s.folds ∧ t.parts = s.parts) ∧
    (s.me.inCompute = false → w / 2 ^ 48 % 64 ≠ 0 → Traps (.tlbprobe l d a) s cTAG) ∧
    (s.me.inCompute = false → w / 2 ^ 48 % 64 = 0 →
      (windowOf v ≠ .global → Completes (.tlbprobe l d a) s (s.wroteG d.toNat 0)) ∧
      (windowOf v = .global →
        let seen := critWalk s (corePart s s.cur) (s.me.job s) v
        (∀ f, seen.1 = .ok f →
          Completes (.tlbprobe l d a) s (seen.2.wroteG d.toNat (BitVec.ofNat 64 ((if isMgmt s.cur then f.phys % 2 ^ 48 / 2 ^ 12 * 2 ^ 12 else 0) + 1 + (if f.w then 2 else 0) + f.tgt * 4 +
            (if f.size = 2 ^ 30 then 32 else if f.size = 2 ^ 21 then 16 else 0) + (if f.crit then 64 else 0))))) ∧
        (∀ f, seen.1 = .error .uncorrectable → walk s (corePart s s.cur) (s.me.job s) v = .ok f →
          Completes (.tlbprobe l d a) s (seen.2.wroteG d.toNat 0x80)) ∧
        (∀ e, walk s (corePart s s.cur) (s.me.job s) v = .error e → Completes (.tlbprobe l d a) s (seen.2.wroteG d.toNat 0))))


/-! ## Events of the Steading, the front end, the scheduler, recovery and the fabric -/

/-- An event that is due has its effect; one that is not due leaves the machine as it is, and the step is recorded as held (log 3). -/
def Spec.Event (i : Instr) (s : State) (due : Bool) (effect : State → Prop) : Prop :=
  (due = true → ∃ t, Completes i s t ∧ effect t) ∧ (due = false → exec i s = .next { s with issue := .held })

/-- What the events of one die, one register or one byte leave alone. -/
def Spec.Same (s t : State) : Prop :=
  t.cores = s.cores ∧ t.folds = s.folds ∧ t.parts = s.parts ∧ t.mem = s.mem ∧ t.slots = s.slots ∧ t.boot = s.boot

/-- Power-loss keeps the non-volatile store and counts the time powered (R408); power-good counts a cycle of every die and stack and starts the boot,
whose states 1 to 7 follow with time, each with its milliseconds: a bad signature, image source or image ends in FAIL (R407, R409, R410, R412). The image length starts the
read of an image over the host link; an attestation request is answered with its nonce first, then what is measured, then the signature (R407); a layout change is refused as
busy while a launch is placed or a core holds work, and else clears partitions (R25, R26). A part without a store for records starts its wear counts again (R411). What power
loss keeps in memory (log 6), the refusal shown by `State.busy` and what a change clears (log 78), the image that a peer holds (log 117) and the states that answer an
attestation request (log 124) are the model's choice. -/
def Obligations.StartUpAndLayout : Prop :=
  ∀ (s : State) (temp : Int) (d0 d1 d2 : Word) (n : Word32) (lay : Layout),
    Spec.Event .powerLoss s s.powered (fun t => t.powered = false ∧ t.cores = State.reset.cores ∧ t.parts = State.reset.parts ∧
      t.folds = State.reset.folds ∧ t.mem = s.mem.filter (fun c => decide (c.1 / 2 ^ 64 = 2 ∨ c.1 / 2 ^ 64 = 3 ∨ c.1 / 2 ^ 64 = 6)) ∧
      t.nv = { s.nv with poweredClk := s.nv.poweredClk + s.clk }) ∧
    Spec.Event (.powerGood temp) s (!s.powered || (decide (fld s.boot 3 0 = 0) && s.bootPlan.isEmpty)) (fun t => t.powered = true ∧
      (s.nv.form ≠ .bare false → t.nv.pwrDie = [0, 1, 2, 3].foldl bump s.nv.pwrDie ∧
        t.nv.pwrStack = [0, 1, 2, 3, 4, 5, 6, 7].foldl bump s.nv.pwrStack) ∧
      (s.nv.form = .bare false → t.nv.pwrDie = [0, 1, 2, 3].foldl bump [] ∧ t.nv.pwrStack = [0, 1, 2, 3, 4, 5, 6, 7].foldl bump []) ∧
      t.nv.quar = s.nv.quar ∧ t.nv.image = s.nv.image ∧ t.nv.firmware = s.nv.firmware ∧ t.boot = 0 ∧
      (∀ k, k ∈ t.retrain ↔ k < 48 ∧ recordUsable t k = false) ∧ t.bootPlan = bootTimes t.retrain) ∧
    (∀ st ms later, s.bootPlan = (st, ms) :: later → s.powered = true → ms * clkMs ≤ s.clk →
      let t := bootStep s
      (st = 1 → fld t.boot 3 0 = 1 ∧ t.bootPlan = later) ∧
      (st = 2 → fld t.boot 3 0 = if Config.verified s.nv.firmware then 2 else 15) ∧
      (st = 3 ∨ st = 4 → fld t.boot 3 0 = st ∧ t.bootPlan = later ∧ (classOf s.retrain (st - 3) ≠ [] → fld t.boot (1 + st) (1 + st) = 1)) ∧
      (st = 5 → fld t.boot 3 0 = if imageSourceOk s.nv.image then 5 else 15) ∧
      (st = 6 → (∀ bs, imageBytes s = some bs → Config.verified bs = true → fld t.boot 3 0 = 6 ∧ t.image = bs ∧ t.bootPlan = [(7, ms + 800)]) ∧
        (imageBytes s = none → fld t.boot 3 0 = 15)) ∧
      (st = 7 → fld t.boot 3 0 = 7 ∧ t.ringStart = s.clk ∧ t.slots = []) ∧
      (st ≤ 7 → fld t.boot 63 32 = ms % 2 ^ 32) ∧ t.cores = s.cores ∧ t.mem = s.mem) ∧
    (∀ st ms later, s.bootPlan = (st, ms) :: later → s.clk < ms * clkMs → bootStep s = s) ∧
    Spec.Event (.imageSourceWrite d0 d1 d2) s s.powered (fun t => t.nv = { s.nv with image := [d0, d1, d2] } ∧ Spec.Same s t) ∧
    Spec.Event (.imglenWrite n) s (s.powered && decide (fld s.boot 3 0 = 5) && s.bootPlan.isEmpty && s.imgAddr.isSome) (fun t =>
      t.imgLen = n.toNat ∧ t.imgBad = false ∧ t.bootPlan = [(6, s.clk / clkMs + 1200)] ∧ t.imgAddr = s.imgAddr ∧ Spec.Same s t) ∧
    Spec.Event (.attestationRequest d0) s (s.powered && decide (2 ≤ fld s.boot 3 0 ∧ fld s.boot 3 0 ≤ 7)) (fun t =>
      ∃ ms, t = { s with spdm := s.spdm ++ [d0 :: ms ++ [Config.attest d0 ms]] } ∧ ms.length = 2 + nparts s.layout ∧
        ms.take 2 = [Config.digest s.nv.firmware, Config.digest s.image] ∧
        ∀ p, p < nparts s.layout → ms[2 + p]? = some (Config.digest (leBytes 8 (s.part p).facc.toNat))) ∧
    Spec.Event (.partitionLayoutChange lay) s (s.powered && decide (fld s.boot 3 0 = 7)) (fun t =>
      (layoutBusy s = true → t = { s with busy := true }) ∧
      (layoutBusy s = false → t.layout = lay ∧ t.busy = false ∧ t.folds = [] ∧ t.slots = [] ∧ t.ringStart = s.clk ∧
        (∀ k, mget 0 t.ports k = mget 0 s.ports k &&& 0x000000FFFFFF0000) ∧
        t.mem = s.mem ∧ t.nv = s.nv ∧ (∀ p, p < nparts lay → t.part p = { Part.reset with svcNext := s.clk + 1024 }) ∧
        ∀ c, c < 6144 → (t.core c).occ = none ∧ (t.core c).r.g = []))

/-- A thermal sample moves its die's state and counts an excursion at 40 degrees from the extreme (R412); hot minutes move to the
non-volatile store; a scrub corrects a marked word (R240); IMGADDR, FEVT, the fault queue's base and size, and bytes of the partition's
memory take what the host writes (R10, R335, R404), and AMOs of other devices act on it through a port that is up (R336, R399). Operation codes above 14 as reads and
untranslated outside addresses (log 85), the counter of corrected errors (log 51) and a LOG2N out of range (log 107) are the model's choice. -/
def Obligations.HostWritesAndWear : Prop :=
  ∀ (s : State) (d p a c k w off : Nat) (temp : Int) (v x cmp : Word) (data : List Byte) (op : BitVec 5) (dbl : Bool),
    Spec.Event (.thermalSample d temp) s (s.powered && decide (d < 4)) (fun t => Spec.Same s t ∧ t.temps = mput s.temps d temp ∧
      t.hotPend = (if 90 < temp then bump s.hotPend d else s.hotPend) ∧
      (∀ l, mget (.armed temp) s.therm d = .armed l →
        (min l temp + 40 ≤ temp → t.nv = { s.nv with exc := bump s.nv.exc d } ∧ mget (.armed temp) t.therm d = .counted temp) ∧
        (¬ min l temp + 40 ≤ temp → t.nv = s.nv ∧ mget (.counted temp) t.therm d = .armed (min l temp))) ∧
      (∀ h, mget (.armed temp) s.therm d = .counted h → t.nv = s.nv ∧
        mget (.armed (temp + 1)) t.therm d = if temp ≤ max h temp - 40 then .armed temp else .counted (max h temp))) ∧
    Spec.Event .wearMinutesFlush s s.powered (fun t => Spec.Same s t ∧ t.hotPend = s.hotPend.map (fun x => (x.1, x.2 % 600)) ∧
      t.nv = { s.nv with hotm := s.hotPend.foldl (fun m x => mput m x.1 (mget 0 m x.1 + x.2 / 600)) s.nv.hotm }) ∧
    Spec.Event (.scrub c w) s (decide (w < 65536) && (mfind s.ecc (localKey c (4 * w) / 4) == some false)) (fun t => Spec.Same s t ∧
      t.eccCount = s.eccCount + 1 ∧ mfind t.ecc (localKey c (4 * w) / 4) = none) ∧
    Spec.Event (.registerWrite p 0x0360 v) s (s.powered && decide (fld s.boot 3 0 = 5) && s.bootPlan.isEmpty) (fun t => Spec.Same s t ∧ t.imgAddr = some v) ∧
    (off ≠ 0x0360 → off % 8 ≠ 0 → exec (.registerWrite p off v) s = .next { s with issue := .held }) ∧
    Spec.Event (.registerWrite p 0x0330 v) s (windowUp s p) (fun t => t = s.updPart p fun q => { q with fevt := q.fevt &&& ~~~(v &&& 0xF) }) ∧
    Spec.Event (.registerWrite p 0x0300 v) s (windowUp s p) (fun t =>
      t = s.updPart p fun q => { q with fqBase := BitVec.ofNat 64 (v.toNat / 4096 * 4096) }) ∧
    Spec.Event (.registerWrite p 0x0308 v) s (windowUp s p) (fun t =>
      4 ≤ fld v 4 0 → fld v 4 0 ≤ 12 → t = s.updPart p fun q => { q with fqLog := fld v 4 0 }) ∧
    Spec.Event (.hostMemoryWrite p a data) s (windowUp s p && (ringKey s p a data.length).isSome) (fun t =>
      t.cores = s.cores ∧ t.folds = s.folds ∧ t.parts = s.parts ∧
      (∀ key, (∀ i, i < data.length → ringKey s p (a + i) 1 ≠ some key) → t.byte key = s.byte key) ∧
      ∀ i b key, data[i]? = some b → ringKey s p (a + i) 1 = some key →
        (∀ j, i < j → j < data.length → ringKey s p (a + j) 1 ≠ some key) → t.byte key = b) ∧
    (ringKey s p a (if dbl then 8 else 4) = none → exec (.systemScopeRequest ⟨p, k⟩ a op dbl x cmp) s = .next { s with issue := .held }) ∧
    ∀ key, ringKey s p a (if dbl then 8 else 4) = some key →
      let n := if dbl then 8 else 4
      Spec.Event (.systemScopeRequest ⟨p, k⟩ a op dbl x cmp) s (windowUp s p && (partPorts s p).contains k && linkUp s k && decide (fld (s.part p).facc 19 16 ≠ 0 ∧ a % n = 0) &&
          !(dbl && decide (op = 1 ∨ op = 6 ∨ op = 7 ∨ op = 8)) && !(s.bad key n)) (fun t =>
        t.cores = s.cores ∧ t.parts = s.parts ∧
        t = (let u := s.countEcc key n
          if op.toNat ≤ 14 then u.setBytes key (leBytes n (amoNew op.toNat n (leNat (s.bytes key n)) x.toNat cmp.toNat)) else u))

/-- FACC is written until DONE, with bits not offered cleared and one revision bit kept (R32, R33); DONE ends negotiation, and a function
reset clears it; queues are enabled, disabled, reset and kicked in the states of R64 and R66; and a queue's read of its record, made in its
turn and only once negotiation is done, meets an incomplete seal four times, the wait for a block, or the end (R33, R66). A function reset that clears DONE alone
(log 78), CODE and HSEQ kept over RESET (log 77), a kick dropped in DISABLED (log 76) and the one training bit of a device (log 108) are the model's choice. -/
def Obligations.QueuesAndNegotiation : Prop :=
  ∀ (s : State) (p i : Nat) (v : Word),
    let q := s.part p
    let x := q.queue i
    let up := windowUp s p && decide (i < share s 64)
    let put (y : Queue) : State := s.updPart p fun q => q.setQueue i (y.start q.done)
    let turn (t : State) : State := t.updPart p fun q => { q with qturn := i + 1 }
    let reads (k : Nat × Queue) : Bool :=
      (decide (k.2.st = .fetch) || decide (k.2.st = .retry ∧ k.2.waitEnd ≤ s.clk)) && !readWaits s p k.1
    (∀ j, queueTurn s p = some j → q.done = true ∧ ∃ y, (j, y) ∈ q.queues ∧ reads (j, y) = true) ∧
    Spec.Event (.faccWrite p v) s (windowUp s p && fld v 63 63 == 0) (fun t =>
      (q.done = true → t = s) ∧ (q.done = false → t = s.updPart p fun q => { q with facc := faccValue s.nv.feat v })) ∧
    Spec.Event (.negotiationDone p v) s (windowUp s p && fld v 63 63 == 1) (fun t =>
      (q.done = true → t = s) ∧
      (q.done = false → t.nv = { s.nv with trainBit := fld (faccValue s.nv.feat v) 5 5 == 1 } ∧
        (t.part p).facc = faccValue s.nv.feat v ||| 0x8000000000000000 ∧ t.mem = s.mem ∧ t.cores = s.cores ∧
        (t.part p).queues = q.queues.map (fun y => (y.1, y.2.start true)))) ∧
    Spec.Event (.functionReset p) s (windowUp s p) (fun t => t = s.updPart p fun q => { q with facc := putFld q.facc 63 63 0 }) ∧
    Spec.Event (.queueEnable p i) s up (fun t => t = put (if x.st = .disabled ∧ 1 ≤ x.log ∧ x.log ≤ 16 then { x with en := true, st := .idle } else x)) ∧
    Spec.Event (.queueDisable p i) s up (fun t => t = put (if x.st = .disabled then x else
      if x.st = .halted then { x with en := false } else { x with en := false, st := .disabled })) ∧
    Spec.Event (.queueReset p i) s up (fun t => t = put { x with en := false, kick := false, st := .disabled }) ∧
    Spec.Event (.qkick p i) s up (fun t => t = put (if x.st = .disabled then x else { x with kick := true })) ∧
    Spec.Event (.recordRead p i) s (decide (queueTurn s p = some i) && decide (x.st = .fetch)) (fun t =>
      (readRecord s p i = none → t = turn (haltQueue s p i 7)) ∧
      (∀ w, readRecord s p i = some w → sealed x w = false → t = turn (put
        (if x.first then { x with st := .retry, count := 1, waitEnd := s.clk + 256 } else { x with st := .idle }))) ∧
      ∀ w, readRecord s p i = some w → sealed x w = true →
        (∀ e, recordCode s p (readTables s p w) = some e → t = turn (haltQueue s p i e)) ∧
        (recordCode s p (readTables s p w) = none → nextBlock s q = none → (t.part p).queue i = { x with st := .blocked }) ∧
        (∀ b, recordCode s p (readTables s p w) = none → nextBlock s q = some b → homeHeld q x.recordAddr = true →
          (t.part p).queue i = { x with st := .blocked }) ∧
        (∀ b, recordCode s p (readTables s p w) = none → nextBlock s q = some b → homeHeld q x.recordAddr = false →
          (fld q.facc 0 0 = 0 → (ringKey s p x.recordAddr 128).isSome = true) → t = turn (acceptRecord s p i b (readTables s p w)))) ∧
    Spec.Event (.retryWaitEnd p i) s (decide (queueTurn s p = some i) && decide (x.st = .retry)) (fun t =>
      (readRecord s p i = none → t = turn (haltQueue s p i 7)) ∧
      ∀ w, readRecord s p i = some w → sealed x w = false → t = turn (put
        (if x.count < 4 then { x with count := x.count + 1, waitEnd := s.clk + 256 } else { x with st := .idle }))) ∧
    Spec.Event (.blockedReread p i) s (q.done && decide (x.st = .blocked) && (nextBlock s q).isSome && !homeHeld q x.recordAddr) (fun t =>
      t = s.setPart p (q.setQueue i { x with st := .fetch, first := false }))

/-- HCANCEL answers by the state of the level it names, HJOBRM sets WEIGHT 0 and cancels every open level of a job, or
refuses one out of range, and a complete removal clears the job's entry (R69, R70);
a held page-table root is applied once no launch of the job is placed (R61); the served-time counts rise every 1024 clk by the folds held over
the weight (R71); units and gangs are placed, notes written and watchdogs fired when they are due, after the packet that the core issues in the clk (R74 to R81). That HCANCEL
has its result in its event (log 74), what becomes of blocks and counters at a cancel (log 24) and the order of placement (log 80) are the model's choice. -/
def Obligations.SchedulerEvents : Prop :=
  ∀ (s : State) (p b c : Nat) (v : Word),
    let q := s.part p
    Spec.Event (.hcancel p v) s (windowUp s p) (fun t =>
      (q.hcres = 1 → t = s) ∧
      (q.hcres ≠ 1 → ∀ r, (match levelOf s p none v with
        | .nothing => r = 4
        | .unit_ _ _ => r = 2
        | .launch b => r = if (q.blk .launch b).done then 3 else 2
        | .block k i j => r = if (q.blk k (if k = .job then j else i)).done then 3 else 2) →
        ((r = 3 ∨ r = 4) → t = s.updPart p fun q => { q with hcres := r }) ∧ (t.part p).hcres = r)) ∧
    Spec.Event (.hjobrm p v) s (windowUp s p) (fun t =>
      (q.hjres = 1 → t = s) ∧
      (q.hjres ≠ 1 → share s 4096 ≤ fld v 11 0 → t = s.updPart p fun q => { q with hjres := 3 })) ∧
    (windowUp s p = true → q.hjres ≠ 1 → fld v 11 0 < share s 4096 →
      let j := fld v 11 0
      let noted : State := s.updPart p fun q =>
        { q with hjres := 1, hjob := j, jobs := mupd Job.reset q.jobs j fun x => { x with weight := 0 } }
      Completes (.hjobrm p v) s (cancelAbove noted p .job j 2)) ∧
    Spec.Event (.jobRemovalComplete p) s (decide (q.hjres = 1) &&
        q.launches.all (fun x => x.2.job != q.hjob || (q.blk .launch x.1).done) && (jobCores s p q.hjob).isEmpty) (fun t =>
      (t.part p).hjres = 2 ∧ (t.part p).jobs = mdel q.jobs q.hjob ∧ t.cores = s.cores ∧ t.mem = s.mem) ∧
    (∀ r, (mget Job.reset q.jobs b).heldRoot = some r →
      Spec.Event (.ptrootApply p b) s (!(q.launches.any fun x => x.2.job == b && decide (x.2.stage = .placed))) (fun t =>
        ((mget Job.reset (t.part p).jobs b).ptroot = r ∧ (mget Job.reset (t.part p).jobs b).heldRoot = none) ∧
        (∀ k, partOfFold s (foldOf k) = p → (t.core k).tlb = (s.core k).tlb.filter (·.job != b)) ∧ t.mem = s.mem)) ∧
    ((mget Job.reset q.jobs b).heldRoot = none → exec (.ptrootApply p b) s = .next { s with issue := .held }) ∧
    Spec.Event (.svcTick p) s (decide (q.svcNext ≤ s.clk)) (fun t => (t.part p).svcNext = q.svcNext + 1024 ∧ t.cores = s.cores ∧ t.mem = s.mem ∧
      ∀ j y, mfind (touchSvc q).jobs j = some y → y.weight ≠ 0 → ∃ z, mfind (t.part p).jobs j = some z ∧
        z = { y with svc := min (2 ^ 48 - 1) (y.svc + (jobFolds s p j).length * 65536 / y.weight) }) ∧
    (coreFree s c = false → exec (.unitPlace c) s = .next { s with issue := .held }) ∧
    (∀ x l, coreFree s c = true → nextUnit s c = some x → s.launch (partOfFold s (foldOf c)) x.1 = some l →
      let took := takeFrom s c x.1 x.2
      Completes (.unitPlace c) s (takeUnit (took.1.updPart (partOfFold s (foldOf c)) touchSvc) (partOfFold s (foldOf c)) x.1 c took.2 l)) ∧
    (∀ l, s.launch p b = some l →
      Spec.Event (.gangPlace p b) s (gangDue s p b l) (fun t => t = if routesDown s p l then cancelForLink s p b else placeGang s p b l) ∧
      Spec.Event (.noteWrite p b) s (decide (l.stage = .done ∧ l.note ≠ 0) && launchQuiet s p b l) (fun t =>
        (∀ k, notePlace s p l = .ok k → (t.part p).launches = mput q.launches b { l with stage := .noted } ∧
          t.mem = (s.setBytes k (leBytes 8 ((q.blk .launch b).status * 2 ^ 56 + l.nval.toNat))).mem) ∧
        t.cores = s.cores)) ∧
    (watchdogDue s c = none → exec (.watchdogFire c) s = .next { s with issue := .held }) ∧
    ∀ y l, watchdogDue s c = some y → s.launch (partOfFold s (foldOf c)) y.1 = some l → (s.hadTurn c = false → exec (.watchdogFire c) s = .next { s with issue := .held }) ∧
      ∃ e : ErrRec, e.cause = cWATCHDOG ∧ e.status = 3 ∧
      e.core = (firing s (partOfFold s (foldOf c)) y.1 l).getD 0 ∧
      (s.hadTurn c = true → Completes (.watchdogFire c) s
        (cancelLaunch (writeErr s (partOfFold s (foldOf c)) y.1 e) (partOfFold s (foldOf c)) y.1 3))

/-- HPREEMPT marks the cores that hold the launch's work, or answers with a result (R360); a marked core that reaches a place for it is saved
in a free area and cleared, unless a watchdog's cancel comes first (R351, R361, R362); a unit that runs on for 16,384 clk is stopped at a packet boundary (R361); and the launch resumes
when its cores are free (R363). An area holds, by offset, the header, the general, control and vector registers, the streams, the counts and local memory (R362). The device's
own copy of a core in `ctxAreas`, and what is resumed from it (log 49), and what the capture's three words hold (log 113) are the model's choice. -/
def Obligations.PreemptionEvents : Prop :=
  ∀ (s : State) (p b c : Nat) (h : Word) (l : Launch),
    let q := s.part p
    let k := s.core c
    let own := partOfFold s (foldOf c)
    Spec.Event (.hpreempt p h) s (windowUp s p) (fun t =>
      (q.hpres = 1 → t = s) ∧
      (q.hpres ≠ 1 → (∀ n, levelOf s p none h ≠ .launch n) → t = s.setPart p { q with hpres := 4 }) ∧
      (q.hpres ≠ 1 → levelOf s p none h = .launch b →
        ((∀ x, x ∈ s.cores → holdsUnit s p b x.1 = false) → t = s.setPart p { q with hpres := 3 }) ∧
        ((∃ x, x ∈ s.cores ∧ holdsUnit s p b x.1 = true) → (t.part p).hpres = 1 ∧ (t.part p).hpre = some b ∧ t.mem = s.mem ∧
          ∀ x, x ∈ s.cores → (t.core x.1).r = (s.core x.1).r ∧
            (t.core x.1).preempt = if holdsUnit s p b x.1 then some s.clk else (s.core x.1).preempt))) ∧
    (k.preempt = none → exec (.corePreempt c) s = .next { s with issue := .held }) ∧
    (∀ i, (s.part own).hpre = some b → s.launch own b = some l → freeCtx (s.part own) = some i →
      (lastOfFold s own b c && ownsFold s own b (foldOf c)) = false →
      Spec.Event (.corePreempt c) s (k.preempt.isSome && preemptPoint k && preemptReady s c && !cancelPending s own) (fun t =>
        (t.core c).occ = none ∧ (t.core c).r.g = [] ∧ (t.core c).preempt = none ∧ (t.core c).tlb = k.tlb ∧
        ∃ a, mfind (t.part own).ctxAreas i = some a ∧ a.blk = b ∧ a.core.r.g = (endCapture s c |>.core c).r.g)) ∧
    (∀ run : Bool,
      let im := coreImage s c b l run
      (0, dwBytes [BitVec.ofNat 64 (0x58544330 + if run then 2 ^ 32 else 0), l.handle,
        BitVec.ofNat 64 (l.indexOf (8 * logFold s own (foldOf c) + c % 8)), BitVec.ofNat 64 k.r.pc.toNat, 0, 0, 0, 0]) ∈ im ∧
      (0x40, dwBytes ((List.range 32).map fun r => if r = 0 then 0 else mget 0 k.r.g r)) ∈ im ∧
      (0x800, dwBytes ((List.range 256).map fun n => if ctlListed n then readCtl s c n else 0)) ∈ im ∧
      (0x1000, (List.range 4096).flatMap fun i => leBytes 4 (k.elem (i / 256) (i % 256)).toNat) ∈ im ∧
      (0x5000, [k.r.vl, k.r.lastReq, if k.vcap.isSome then 1 else 0, k.repsLeft, k.entriesHeld].flatMap fun n => leBytes 8 n) ∈ im ∧
      (∀ x, x ∈ k.streams → (0x5400 + 64 * x.1, dwBytes x.2.image) ∈ im) ∧
      (0x10000, (List.range l.lmem).map fun a => s.byte (localKey c a)) ∈ im) ∧
    Spec.Event (.preemptForceTimeout c) s (forceDue s c) (fun t =>
      (t.core c).r = k.r ∧ (t.core c).wait = none ∧ (t.core c).occ = k.occ.map (fun o => { o with running := false }) ∧
      t.mem = s.mem ∧ t.parts = s.parts ∧ ∀ d, d ≠ c → t.core d = s.core d) ∧
    (s.launch p b = some l → Spec.Event (.launchResume p b) s (resumeDue s p b l) (fun t => t = resumeLaunch s p b l)) ∧
    (s.launch p b = none → exec (.launchResume p b) s = .next { s with issue := .held } ∧
      exec (.gangPlace p b) s = .next { s with issue := .held } ∧ exec (.noteWrite p b) s = .next { s with issue := .held })

/-- A line of code enters its fold's instruction cache of 1,024 lines with its patches applied, or the packet that needs it traps (R91, R92,
R347); a translation fault is answered by the Steading's walk, whose leaf enters the TLB, or by the host (R365, R404); a contained launch rolls back to its members' snapshots, ends at the fourth
error or at an uncorrectable one met there, and goes on or ends as the host says (R368, R369, R405); a host completion that fails or is overdue ends its access with
UNCORRECTABLE (R403). The error record of CONTANS 2 for a pair (log 45), the mark of a journal that cannot be read and the count of rollbacks (log 83), the order in which a
core's host accesses end and the moment from which 50 ms run (log 84) are the model's choice. -/
def Obligations.RecoveryEvents : Prop :=
  ∀ (s : State) (p b c line : Nat) (sq : Word32) (o : Occ) (l : Launch) (err : Bool),
    let k := s.core c
    let q := s.part p
    (k.occ = none → exec (.icacheFill c line) s = .next { s with issue := .held }) ∧
    (∀ key u, k.occ = some o → k.launchOf s = some l → o.running = true → k.tfault = none → line % 64 = 0 → line < l.code + l.csize →
      l.code < line + 64 → findLine s c line = none → codeKey s c line 64 = .ok (key, u) →
      (patchFault u o.part l line = none → ∃ t x, Completes (.icacheFill c line) s t ∧ findLine t c line = some x ∧ x.addr = line ∧
        x.raw = u.bytes key 64 ∧ x.bytes = (patchLine u o.part l line (u.bytes key 64)).1 ∧ x.bad = false ∧ t.mem = u.mem ∧ t.parts = u.parts ∧
        (t.fold (foldOf c)).icache.length ≤ 1024) ∧
      ∀ e, patchFault u o.part l line = some e → exec (.icacheFill c line) s =
        if neededLine s c = some line then .next { (takeTrap { u with cur := c } e false) with cur := u.cur } else .next { s with issue := .held }) ∧
    (∀ e, k.occ = some o → k.launchOf s = some l → o.running = true → k.tfault = none → line % 64 = 0 → line < l.code + l.csize →
      l.code < line + 64 → findLine s c line = none → codeKey s c line 64 = .error (.trap e) → exec (.icacheFill c line) s =
        if neededLine s c = some line then .next { (takeTrap { s with cur := c } e false) with cur := s.cur } else .next { s with issue := .held }) ∧
    (∀ f, k.tfault = some f →
      Spec.Event (.translationResolve c) s (f.answer.isNone && f.seq.isNone && fld (s.part (corePart s c)).facc 1 1 == 1) (fun t =>
        (∃ a : Bool, (a = false ↔ walk s (corePart s c) (k.job s) f.va = .error .unmapped) ∧ (t.core c).tfault = some { f with answer := some a }) ∧
        (∀ l, (critWalk s (corePart s c) (k.job s) f.va).1 = .ok l → (t.core c).tlb = l.entry (k.job s) f.va :: k.tlb) ∧
        (t.core c).r = k.r ∧ t.mem = s.mem ∧ ∀ d, d ≠ c → t.core d = s.core d)) ∧
    (k.tfault = none → exec (.translationResolve c) s = .next { s with issue := .held }) ∧
    (∀ a : Bool, Spec.Event (if a then .fqRetry p sq else .fqDeliver p sq) s (windowUp s p && faultOpen s p sq.toNat) (fun t =>
      t.mem = s.mem ∧ t.parts = s.parts ∧ (∀ d, corePart s d ≠ p → t.core d = s.core d) ∧
      ∀ d, corePart s d = p → (t.core d).r = (s.core d).r ∧
        (t.core d).tfault = (s.core d).tfault.map fun f => if f.seq = some sq.toNat ∧ f.answer = none then { f with answer := some a } else f)) ∧
    Spec.Event (.rollback p b) s (q.contrec.any fun x => x.blk == b && x.kind == 0) (fun t =>
      ((gangHeld s p b).any (fun d => decide (3 ≤ (s.core d).rollbacks) || (s.core d).snapBad) = true →
        t = cancelLaunch (s.updPart p fun q => { q with contrec := q.contrec.filter (·.blk != b) }) p b 4) ∧
      ((gangHeld s p b).any (fun d => decide (3 ≤ (s.core d).rollbacks) || (s.core d).snapBad) = false → t = rollBack s p b)) ∧
    (∀ n : Snap, k.snap = some n → k.journal = [] → k.jspill = [] →
      let t := restoreSnap s c
      (t.core c).r = { k.r with ctl := n.ctl } ∧ (t.core c).occ = n.occ ∧ (t.core c).chutes = n.chutes ∧ (t.core c).streams = n.streams ∧
      (t.core c).amark = n.amark ∧ (t.core c).padds = n.padds ∧ t.mem = s.mem ∧ ∀ d, d ≠ c → t.core d = s.core d) ∧
    (nextDecision s p = none → exec (.contansContinue p) s = .next { s with issue := .held } ∧
      exec (.contansCancel p) s = .next { s with issue := .held }) ∧
    (∀ x, nextDecision s p = some x →
      Spec.Event (.contansContinue p) s (windowUp s p) (fun t =>
        (x.kind = 1 → t = rollBack s p x.blk) ∧
        (x.kind ≠ 1 → t.mem = s.mem ∧ (t.core x.core).r = (s.core x.core).r ∧ (t.core x.core).yoke = (s.core x.core).yoke ∧
          (t.core x.core).occ = (s.core x.core).occ.map (fun o => { o with running := true }) ∧
          (t.part p).contrec = q.contrec.filter fun y => !(y.core == x.core && y.kind == 2))) ∧
      Spec.Event (.contansCancel p) s (windowUp s p) (fun t =>
        (x.kind ≠ 2 → t = cancelLaunch s p x.blk 4) ∧
        (x.kind = 2 → ∃ e : ErrRec, e.cause = cYOKE ∧ e.status = 4 ∧ t = cancelLaunch (writeErr s p x.blk e) p x.blk 4))) ∧
    (isMgmt c = true → Spec.Event (.hostCompletionTimeout ⟨c, err⟩) s (imageReading s) (fun t => t = { s with imgBad := true })) ∧
    (∀ ld, isMgmt c = false → k.loads.find? (fun x => isHost x.key) = some ld →
      let ended : State := s.updCore c fun k => { k with loads := k.loads.erase ld }
      let e : Trap := { cause := cUNCORR, acc := 0, val := true, data := ld.va, deferred := none }
      (err = true ∨ ld.since + 100000000 ≤ s.clk →
        exec (.hostCompletionTimeout ⟨c, err⟩) s = .next { (takeTrap { ended with cur := c } e false) with cur := s.cur }) ∧
      (err = false → s.clk < ld.since + 100000000 → exec (.hostCompletionTimeout ⟨c, err⟩) s = .next { s with issue := .held })) ∧
    (∀ i u, isMgmt c = false → k.loads.find? (fun x => isHost x.key) = none → hostRequest s c = some (i, u) →
      (∀ from_, mfind k.hostSince i = some from_ → Spec.Event (.hostCompletionTimeout ⟨c, err⟩) s (err || decide (from_ + 100000000 ≤ s.clk)) (fun t =>
        t = u.updCore c fun k => k.landed i)) ∧
      (mfind k.hostSince i = none → err = true → Completes (.hostCompletionTimeout ⟨c, err⟩) s (u.updCore c fun k => k.landed i)) ∧
      (mfind k.hostSince i = none → err = false →
        Completes (.hostCompletionTimeout ⟨c, err⟩) s (s.updCore c fun k => { k with hostSince := mput k.hostSince i s.clk }))) ∧
    (∀ i v, isMgmt c = false → k.loads.find? (fun x => isHost x.key) = none → hostEntry s c = some (i, v) →
      ∃ t, Completes (.hostCompletionTimeout ⟨c, true⟩) s t ∧ t.mem = s.mem ∧ (∀ x, (t.core x).r = (s.core x).r ∧ (t.fold x).m = (s.fold x).m) ∧
        mget ⟨[], none⟩ (t.core c).queues i = ⟨[], some { cause := cUNCORR, acc := 0, val := true, data := v }⟩) ∧
    (isMgmt c = false → k.loads.find? (fun x => isHost x.key) = none → hostRequest s c = none →
      exec (.hostCompletionTimeout ⟨c, err⟩) s = .next { s with issue := .held })

/-- A phase stop ends a job's acceptance, and its area and listed ranges are written once the job has drained; a restore brings the job's block
back, or is refused (R414, R415); a flit error is replayed, a link retrains to four, two or no lanes, waits 2,000,000 clk when down, and returns
(R399 to R402); a request whose next hop has been blocked for 64 clk may leave its fixed route, but no request of a deterministic
launch (R20, R388). Widths by the count of good lanes (log 71), the wait of a link started by the first timeout (log 72), the device-state area's layout (log 82) and which
requests may move (log 94) are the model's choice. -/
def Obligations.CheckpointAndLinkEvents : Prop :=
  ∀ (s : State) (p c i k good : Nat) (v : Word) (again : Bool),
    let q := s.part p
    let job := fld v 11 0
    let list := fld v 63 13 * 8192
    let allowed := q.psBusy = false ∧ (mfind q.jobs job).isSome = true ∧ job < share s 4096
    Spec.Event (.phaseStop p v) s (windowUp s p && fld v 12 12 == 0) (fun t =>
      (¬ allowed → t = s.setPart p { q with psres := 4 }) ∧
      (allowed → (t.part p).psres = 1 ∧ (t.part p).psBusy = true ∧ (mget Job.reset (t.part p).jobs job).stopped = true ∧
        (t.part p).queues = q.queues ∧ t.mem = s.mem ∧ t.cores = s.cores)) ∧
    Spec.Event (.phaseStopWrite p) s (q.psBusy && !jobBusy s p q.psJob) (fun t => t.cores = s.cores ∧
      (q.psres ≠ 2 → t = s.updPart p fun q => { q with psres := 2 }) ∧
      (q.psres = 2 → (t.part p).psres = 3 ∧ (t.part p).psBusy = false ∧ t.mem = (phaseWritten s p).mem ∧
        ∀ key, (∀ a, areaBase q.psList ≤ a → outerKey s p a ≠ key) → (∀ x, x ∈ listedBytes s p q.psList → x.2 ≠ key) → t.byte key = s.byte key)) ∧
    Spec.Event (.phaseRestore p v) s (windowUp s p && fld v 12 12 == 1) (fun t =>
      ((¬ allowed ∨ q.launches.any (fun x => decide (x.2.stage = .placed)) = true ∨ ∀ x, areaJob s p list = some x → x.job ≠ job) →
        t = s.setPart p { q with psres := 4 }) ∧
      (∀ x, allowed → q.launches.any (fun x => decide (x.2.stage = .placed)) = false → areaJob s p list = some x → x.job = job →
        let u := (listedBytes s p list).foldl (fun t y => t.setByte y.1 (s.byte y.2)) (restoreSlots (restoreCommon s p (areaImage s p list)) p x.slots)
        t = releaseReady (u.updPart p fun q => { restoreJob u p q x with psres := 3 }) p)) ∧
    Spec.Event (.linkCrcError ⟨k, again⟩) s (s.powered && linkUp s k && decide (mget 0 s.replays k < 8)) (fun t =>
      mget 0 t.replays k = (if again then mget 0 s.replays k + 1 else 1) ∧ t.cores = s.cores ∧ t.mem = s.mem ∧
      (k < 36 → mget 0 t.ports k = putFld (mget 0 s.ports k) 39 24 (min 65535 (fld (mget 0 s.ports k) 39 24 + 1)))) ∧
    Spec.Event (.linkRetrain k good) s (linkUp s k && decide (8 ≤ mget 0 s.replays k)) (fun t =>
      mget 0 t.replays k = 0 ∧ t.cores = s.cores ∧ t.mem = s.mem ∧
      (k < 36 → fld (mget 0 t.ports k) 23 16 = min 255 (fld (mget 0 s.ports k) 23 16 + 1) ∧
        (4 ≤ good → fld (mget 0 t.ports k) 1 1 = 0) ∧ (good = 2 ∨ good = 3 → fld (mget 0 t.ports k) 1 1 = 1) ∧
        (good < 2 → fld (mget 0 t.ports k) 0 0 = 0 ∧ fld (mget 0 t.ports k) 1 1 = 0)) ∧
      (4 ≤ good → t.parts = s.parts ∧ t.msix = s.msix) ∧
      (good = 2 ∨ good = 3 → fld (t.part (linkPart s k)).fevt 0 0 = 1 ∧ t.msix = s.msix ++ [(linkPart s k, 1)]) ∧
      (good < 2 → t.down k = true ∧ fld (t.part (linkPart s k)).fevt 1 1 = 1 ∧ t.msix = s.msix ++ [(linkPart s k, 1)])) ∧
    (mfind s.downLinks k = none → exec (.downLinkTimeout k) s = .next { s with issue := .held } ∧
      exec (.linkReturn k) s = .next { s with issue := .held }) ∧
    (∀ w, mfind s.downLinks k = some false → s.linkWaits.find? (fun w => w.link == k) = some w →
      Spec.Event (.downLinkTimeout k) s (decide (w.since + 2000000 ≤ s.clk)) (fun t => t = linkGone s k)) ∧
    (mfind s.downLinks k = some false → s.linkWaits.find? (fun w => w.link == k) = none →
      Spec.Event (.downLinkTimeout k) s (linkWaited s k) (fun t => t = { s with linkWaits := s.linkWaits ++ [⟨k, s.clk⟩] })) ∧
    (mfind s.downLinks k = some true → s.linkWaits.find? (fun w => w.link == k) = none →
      Spec.Event (.downLinkTimeout k) s (linkWaited s k) (fun t => t = linkGone s k)) ∧
    Spec.Event (.linkReturn k) s (s.down k) (fun t => t.down k = false ∧ t.linkWaits = s.linkWaits.filter (fun w => w.link != k) ∧
      t.cores = s.cores ∧ t.mem = s.mem ∧ t.parts = s.parts ∧ (k < 36 → fld (mget 0 t.ports k) 0 0 = 1)) ∧
    (∀ r m, (s.core c).loads[i]? = none → (requests s c)[i - (s.core c).loads.length]? = some r →
      (r.2.findSome? fun key => escapes s (foldOf c) (keyFold s c key) (s.escaped c r.1)) = some m →
      Spec.Event (.escapeMove c i) s (!fixedOnly s c) (fun t => t.escaped c r.1 = m ∧ (∀ j, j ≠ r.1 → t.escaped c j = s.escaped c j) ∧
        (t.core c).r = (s.core c).r ∧ t.mem = s.mem)) ∧
    (∀ r, (s.core c).loads[i]? = none → (requests s c)[i - (s.core c).loads.length]? = some r →
      (r.2.findSome? fun key => escapes s (foldOf c) (keyFold s c key) (s.escaped c r.1)) = none → exec (.escapeMove c i) s = .next { s with issue := .held }) ∧
    ((s.core c).loads[i]? = none → (requests s c)[i - (s.core c).loads.length]? = none → exec (.escapeMove c i) s = .next { s with issue := .held }) ∧
    ∀ x, (s.core c).loads[i]? = some x →
      (∀ m, escapes s (foldOf c) (keyFold s c x.key) x.moved = some m →
        Spec.Event (.escapeMove c i) s (!fixedOnly s c && decide (x.since + 64 ≤ s.clk)) (fun t =>
          t = s.updCore c fun k => { k with loads := k.loads.set i { x with escape := m.1, back := m.2 } })) ∧
      (escapes s (foldOf c) (keyFold s c x.key) x.moved = none → exec (.escapeMove c i) s = .next { s with issue := .held })
end

