-- ==== Sys2Proof/Laws/Exec.lean ====
section
/-! SUPPORT. What exec does with each instruction: its meaning, one lemma a constructor, true by rfl, so that no proof unfolds the whole
dispatch. -/

namespace Sys2Proof.Machine

@[simp] theorem exec_powerGood (temp s) : exec (.powerGood temp) s = execPowerGood temp s := rfl
@[simp] theorem exec_imageSourceWrite (d0 d1 d2 s) : exec (.imageSourceWrite d0 d1 d2) s = execImageSourceWrite d0 d1 d2 s := rfl
@[simp] theorem exec_imglenWrite (len s) : exec (.imglenWrite len) s = execImglenWrite len s := rfl
@[simp] theorem exec_attestationRequest (nonce s) : exec (.attestationRequest nonce) s = execAttestationRequest nonce s := rfl
@[simp] theorem exec_partitionLayoutChange (lay s) : exec (.partitionLayoutChange lay) s = execPartitionLayoutChange lay s := rfl
@[simp] theorem exec_faccWrite (p v s) : exec (.faccWrite p v) s = execFaccWrite p v s := rfl
@[simp] theorem exec_negotiationDone (p v s) : exec (.negotiationDone p v) s = execNegotiationDone p v s := rfl
@[simp] theorem exec_queueEnable (p q s) : exec (.queueEnable p q) s = execQueueEnable p q s := rfl
@[simp] theorem exec_queueDisable (p q s) : exec (.queueDisable p q) s = execQueueDisable p q s := rfl
@[simp] theorem exec_queueReset (p q s) : exec (.queueReset p q) s = execQueueReset p q s := rfl
@[simp] theorem exec_qkick (p q s) : exec (.qkick p q) s = execQkick p q s := rfl
@[simp] theorem exec_recordRead (p q s) : exec (.recordRead p q) s = execRecordRead p q s := rfl
@[simp] theorem exec_retryWaitEnd (p q s) : exec (.retryWaitEnd p q) s = execRetryWaitEnd p q s := rfl
@[simp] theorem exec_blockedReread (p q s) : exec (.blockedReread p q) s = execBlockedReread p q s := rfl
@[simp] theorem exec_hcancel (p h s) : exec (.hcancel p h) s = execHcancel p h s := rfl
@[simp] theorem exec_hjobrm (p v s) : exec (.hjobrm p v) s = execHjobrm p v s := rfl
@[simp] theorem exec_jobRemovalComplete (p s) : exec (.jobRemovalComplete p) s = execJobRemovalComplete p s := rfl
@[simp] theorem exec_hpreempt (p h s) : exec (.hpreempt p h) s = execHpreempt p h s := rfl
@[simp] theorem exec_corePreempt (c s) : exec (.corePreempt c) s = execCorePreempt c s := rfl
@[simp] theorem exec_preemptForceTimeout (c s) : exec (.preemptForceTimeout c) s = execPreemptForceTimeout c s := rfl
@[simp] theorem exec_launchResume (p b s) : exec (.launchResume p b) s = execLaunchResume p b s := rfl
@[simp] theorem exec_ptrootApply (p j s) : exec (.ptrootApply p j) s = execPtrootApply p j s := rfl
@[simp] theorem exec_svcTick (p s) : exec (.svcTick p) s = execSvcTick p s := rfl
@[simp] theorem exec_unitPlace (c s) : exec (.unitPlace c) s = execUnitPlace c s := rfl
@[simp] theorem exec_gangPlace (p b s) : exec (.gangPlace p b) s = execGangPlace p b s := rfl
@[simp] theorem exec_noteWrite (p b s) : exec (.noteWrite p b) s = execNoteWrite p b s := rfl
@[simp] theorem exec_watchdogFire (c s) : exec (.watchdogFire c) s = execWatchdogFire c s := rfl
@[simp] theorem exec_icacheFill (c line s) : exec (.icacheFill c line) s = execIcacheFill c line s := rfl
@[simp] theorem exec_loadReturn (c n s) : exec (.loadReturn c n) s = execLoadReturn c n s := rfl
@[simp] theorem exec_storeDrain (c s) : exec (.storeDrain c) s = execStoreDrain c s := rfl
@[simp] theorem exec_translationResolve (c s) : exec (.translationResolve c) s = execTranslationResolve c s := rfl
@[simp] theorem exec_fqRetry (p sq s) : exec (.fqRetry p sq) s = execFqRetry p sq s := rfl
@[simp] theorem exec_fqDeliver (p sq s) : exec (.fqDeliver p sq) s = execFqDeliver p sq s := rfl
@[simp] theorem exec_vectorEntryComplete (c s) : exec (.vectorEntryComplete c) s = execVectorEntryComplete c s := rfl
@[simp] theorem exec_matrixEntryPerform (c q s) : exec (.matrixEntryPerform c q) s = execMatrixEntryPerform c q s := rfl
@[simp] theorem exec_tileArrival (c q s) : exec (.tileArrival c q) s = execTileArrival c q s := rfl
@[simp] theorem exec_streamedBFaultResolved (c q s) : exec (.streamedBFaultResolved c q) s = execStreamedBFaultResolved c q s := rfl
@[simp] theorem exec_mxcmdRemoteAccept (c s) : exec (.mxcmdRemoteAccept c) s = execMxcmdRemoteAccept c s := rfl
@[simp] theorem exec_mxcmdAnswer (c s) : exec (.mxcmdAnswer c) s = execMxcmdAnswer c s := rfl
@[simp] theorem exec_copyEntryPerform (c q s) : exec (.copyEntryPerform c q) s = execCopyEntryPerform c q s := rfl
@[simp] theorem exec_copyFaultResolved (c q s) : exec (.copyFaultResolved c q) s = execCopyFaultResolved c q s := rfl
@[simp] theorem exec_streamFill (c b s) : exec (.streamFill c b) s = execStreamFill c b s := rfl
@[simp] theorem exec_streamDrainEntry (c b s) : exec (.streamDrainEntry c b) s = execStreamDrainEntry c b s := rfl
@[simp] theorem exec_messageArrival (c s) : exec (.messageArrival c) s = execMessageArrival c s := rfl
@[simp] theorem exec_pieceAccept (c n s) : exec (.pieceAccept c n) s = execPieceAccept c n s := rfl
@[simp] theorem exec_exchangeTransferWrite (c n s) : exec (.exchangeTransferWrite c n) s = execExchangeTransferWrite c n s := rfl
@[simp] theorem exec_barrierRelease (f b s) : exec (.barrierRelease f b) s = execBarrierRelease f b s := rfl
@[simp] theorem exec_superstepRelease (p b d s) : exec (.superstepRelease p b d) s = execSuperstepRelease p b d s := rfl
@[simp] theorem exec_exchangePhaseEnd (c s) : exec (.exchangePhaseEnd c) s = execExchangePhaseEnd c s := rfl
@[simp] theorem exec_droveRequestApply (c s) : exec (.droveRequestApply c) s = execDroveRequestApply c s := rfl
@[simp] theorem exec_droveRequestFail (c s) : exec (.droveRequestFail c) s = execDroveRequestFail c s := rfl
@[simp] theorem exec_captureTimeout (c s) : exec (.captureTimeout c) s = execCaptureTimeout c s := rfl
@[simp] theorem exec_droveSlotError (sl s) : exec (.droveSlotError sl) s = execDroveSlotError sl s := rfl
@[simp] theorem exec_recvtTimeout (c s) : exec (.recvtTimeout c) s = execRecvtTimeout c s := rfl
@[simp] theorem exec_wfiTimeout (c s) : exec (.wfiTimeout c) s = execWfiTimeout c s := rfl
@[simp] theorem exec_rollback (p b s) : exec (.rollback p b) s = execRollback p b s := rfl
@[simp] theorem exec_intervalEnd (c s) : exec (.intervalEnd c) s = execIntervalEnd c s := rfl
@[simp] theorem exec_thirdRunComplete (c fp s) : exec (.thirdRunComplete c fp) s = execThirdRunComplete c fp s := rfl
@[simp] theorem exec_contansContinue (p s) : exec (.contansContinue p) s = execContansContinue p s := rfl
@[simp] theorem exec_contansCancel (p s) : exec (.contansCancel p) s = execContansCancel p s := rfl
@[simp] theorem exec_phaseStop (p v s) : exec (.phaseStop p v) s = execPhaseStop p v s := rfl
@[simp] theorem exec_phaseStopWrite (p s) : exec (.phaseStopWrite p) s = execPhaseStopWrite p s := rfl
@[simp] theorem exec_phaseRestore (p v s) : exec (.phaseRestore p v) s = execPhaseRestore p v s := rfl
@[simp] theorem exec_linkCrcError (k s) : exec (.linkCrcError k) s = execLinkCrcError k s := rfl
@[simp] theorem exec_linkRetrain (k good s) : exec (.linkRetrain k good) s = execLinkRetrain k good s := rfl
@[simp] theorem exec_downLinkTimeout (k s) : exec (.downLinkTimeout k) s = execDownLinkTimeout k s := rfl
@[simp] theorem exec_escapeMove (c n s) : exec (.escapeMove c n) s = execEscapeMove c n s := rfl
@[simp] theorem exec_routerBeat (p f vs s) : exec (.routerBeat p f vs) s = execRouterBeat p f vs s := rfl
@[simp] theorem exec_portBeatArrival (p vs a s) : exec (.portBeatArrival p vs a) s = execPortBeatArrival p vs a s := rfl
@[simp] theorem exec_hostMemoryWrite (p a data s) : exec (.hostMemoryWrite p a data) s = execHostMemoryWrite p a data s := rfl
@[simp] theorem exec_systemScopeRequest (p a op dbl x cmp s) : exec (.systemScopeRequest p a op dbl x cmp) s = execSystemScopeRequest p a op dbl x cmp s := rfl
@[simp] theorem exec_hostCompletionTimeout (c s) : exec (.hostCompletionTimeout c) s = execHostCompletionTimeout c s := rfl
@[simp] theorem exec_thermalSample (d temp s) : exec (.thermalSample d temp) s = execThermalSample d temp s := rfl
@[simp] theorem exec_wearMinutesFlush (s) : exec (.wearMinutesFlush) s = execWearMinutesFlush s := rfl
@[simp] theorem exec_scrub (c w s) : exec (.scrub c w) s = execScrub c w s := rfl
@[simp] theorem exec_registerWrite (p off v s) : exec (.registerWrite p off v) s = execRegisterWrite p off v s := rfl
@[simp] theorem exec_nopCSlot (l s) : exec (.nopCSlot l) s = execNopCSlot l s := rfl
@[simp] theorem exec_nopASlot (s) : exec (.nopASlot) s = execNopASlot s := rfl
@[simp] theorem exec_trap (l b s) : exec (.trap l b) s = execTrap l b s := rfl
@[simp] theorem exec_eret (l s) : exec (.eret l) s = execEret l s := rfl
@[simp] theorem exec_exit (l s) : exec (.exit l) s = execExit l s := rfl
@[simp] theorem exec_yield (l s) : exec (.yield l) s = execYield l s := rfl
@[simp] theorem exec_pulse (l s) : exec (.pulse l) s = execPulse l s := rfl
@[simp] theorem exec_cancel (l d a s) : exec (.cancel l d a) s = execCancel l d a s := rfl
@[simp] theorem exec_wfi (l b s) : exec (.wfi l b) s = execWfi l b s := rfl
@[simp] theorem exec_mfc (l d n s) : exec (.mfc l d n) s = execMfc l d n s := rfl
@[simp] theorem exec_mtc (l a n s) : exec (.mtc l a n) s = execMtc l a n s := rfl
@[simp] theorem exec_movi (l d n s) : exec (.movi l d n) s = execMovi l d n s := rfl
@[simp] theorem exec_ldlW (l d p s) : exec (.ldlW l d p) s = execLdlW l d p s := rfl
@[simp] theorem exec_ldlD (l d p s) : exec (.ldlD l d p) s = execLdlD l d p s := rfl
@[simp] theorem exec_ldlC (d lit s) : exec (.ldlC d lit) s = execLdlC d lit s := rfl
@[simp] theorem exec_ld (l d a z x o s) : exec (.ld l d a z x o) s = execLd l d a z x o s := rfl
@[simp] theorem exec_st (l u a z o s) : exec (.st l u a z o) s = execSt l u a z o s := rfl
@[simp] theorem exec_ldv (l d a z x o s) : exec (.ldv l d a z x o) s = execLdv l d a z x o s := rfl
@[simp] theorem exec_stv (l u a z o s) : exec (.stv l u a z o) s = execStv l u a z o s := rfl
@[simp] theorem exec_ldf (l d a o s) : exec (.ldf l d a o) s = execLdf l d a o s := rfl
@[simp] theorem exec_stf (l u a o s) : exec (.stf l u a o) s = execStf l u a o s := rfl
@[simp] theorem exec_adda (l d a b s) : exec (.adda l d a b) s = execAdda l d a b s := rfl
@[simp] theorem exec_ptag (l d a b s) : exec (.ptag l d a b) s = execPtag l d a b s := rfl
@[simp] theorem exec_pfmt (l d a s) : exec (.pfmt l d a) s = execPfmt l d a s := rfl
@[simp] theorem exec_pbase (l d a s) : exec (.pbase l d a) s = execPbase l d a s := rfl
@[simp] theorem exec_lea (l d a b h s) : exec (.lea l d a b h) s = execLea l d a b h s := rfl
@[simp] theorem exec_br (l a b c p s) : exec (.br l a b c p) s = execBr l a b c p s := rfl
@[simp] theorem exec_bbc (l a b n p s) : exec (.bbc l a b n p) s = execBbc l a b n p s := rfl
@[simp] theorem exec_bbs (l a b n p s) : exec (.bbs l a b n p) s = execBbs l a b n p s := rfl
@[simp] theorem exec_bbz (l a n p s) : exec (.bbz l a n p) s = execBbz l a n p s := rfl
@[simp] theorem exec_bbnz (l a n p s) : exec (.bbnz l a n p) s = execBbnz l a n p s := rfl
@[simp] theorem exec_j (l p s) : exec (.j l p) s = execJ l p s := rfl
@[simp] theorem exec_jl (l p s) : exec (.jl l p) s = execJl l p s := rfl
@[simp] theorem exec_jr (l d a b s) : exec (.jr l d a b) s = execJr l d a b s := rfl
@[simp] theorem exec_macroOp (x y z e lit s) : exec (.macroOp x y z e lit) s = execMacroOp x y z e lit s := rfl
@[simp] theorem exec_claim (l d a n s) : exec (.claim l d a n) s = execClaim l d a n s := rfl
@[simp] theorem exec_vsetl (l d a s) : exec (.vsetl l d a) s = execVsetl l d a s := rfl
@[simp] theorem exec_vsetli (l d n s) : exec (.vsetli l d n) s = execVsetli l d n s := rfl
@[simp] theorem exec_vrep (l a n s) : exec (.vrep l a n) s = execVrep l a n s := rfl
@[simp] theorem exec_vdrain (l s) : exec (.vdrain l) s = execVdrain l s := rfl
@[simp] theorem exec_amoAdd (l d a b u o z s) : exec (.amoAdd l d a b u o z) s = execAmoAdd l d a b u o z s := rfl
@[simp] theorem exec_amoFadd (l d a b u o s) : exec (.amoFadd l d a b u o) s = execAmoFadd l d a b u o s := rfl
@[simp] theorem exec_amoMin (l d a b u o z s) : exec (.amoMin l d a b u o z) s = execAmoMin l d a b u o z s := rfl
@[simp] theorem exec_amoMax (l d a b u o z s) : exec (.amoMax l d a b u o z) s = execAmoMax l d a b u o z s := rfl
@[simp] theorem exec_amoMinu (l d a b u o z s) : exec (.amoMinu l d a b u o z) s = execAmoMinu l d a b u o z s := rfl
@[simp] theorem exec_amoMaxu (l d a b u o z s) : exec (.amoMaxu l d a b u o z) s = execAmoMaxu l d a b u o z s := rfl
@[simp] theorem exec_amoFmin (l d a b u o s) : exec (.amoFmin l d a b u o) s = execAmoFmin l d a b u o s := rfl
@[simp] theorem exec_amoFmax (l d a b u o s) : exec (.amoFmax l d a b u o) s = execAmoFmax l d a b u o s := rfl
@[simp] theorem exec_amoAmax (l d a b u o s) : exec (.amoAmax l d a b u o) s = execAmoAmax l d a b u o s := rfl
@[simp] theorem exec_amoAnd (l d a b u o z s) : exec (.amoAnd l d a b u o z) s = execAmoAnd l d a b u o z s := rfl
@[simp] theorem exec_amoOr (l d a b u o z s) : exec (.amoOr l d a b u o z) s = execAmoOr l d a b u o z s := rfl
@[simp] theorem exec_amoXor (l d a b u o z s) : exec (.amoXor l d a b u o z) s = execAmoXor l d a b u o z s := rfl
@[simp] theorem exec_amoSwap (l d a b u o z s) : exec (.amoSwap l d a b u o z) s = execAmoSwap l d a b u o z s := rfl
@[simp] theorem exec_amoCas (l d a b u o z s) : exec (.amoCas l d a b u o z) s = execAmoCas l d a b u o z s := rfl
@[simp] theorem exec_amoAmaxrst (l d a b u o z s) : exec (.amoAmaxrst l d a b u o z) s = execAmoAmaxrst l d a b u o z s := rfl
@[simp] theorem exec_evwait (l e s) : exec (.evwait l e) s = execEvwait l e s := rfl
@[simp] theorem exec_evsig (l a b e s) : exec (.evsig l a b e) s = execEvsig l a b e s := rfl
@[simp] theorem exec_evcnt (l d e s) : exec (.evcnt l d e) s = execEvcnt l d e s := rfl
@[simp] theorem exec_dqpush (l a s) : exec (.dqpush l a) s = execDqpush l a s := rfl
@[simp] theorem exec_dqpop (l d s) : exec (.dqpop l d) s = execDqpop l d s := rfl
@[simp] theorem exec_dqsteal (l d a s) : exec (.dqsteal l d a) s = execDqsteal l d a s := rfl
@[simp] theorem exec_fork (l d a b s) : exec (.fork l d a b) s = execFork l d a b s := rfl
@[simp] theorem exec_join (l a s) : exec (.join l a) s = execJoin l a s := rfl
@[simp] theorem exec_send (l d a b s) : exec (.send l d a b) s = execSend l d a b s := rfl
@[simp] theorem exec_recv (l d c s) : exec (.recv l d c) s = execRecv l d c s := rfl
@[simp] theorem exec_recvt (l d b c s) : exec (.recvt l d b c) s = execRecvt l d b c s := rfl
@[simp] theorem exec_ssync (l s) : exec (.ssync l) s = execSsync l s := rfl
@[simp] theorem exec_bdom (l a s) : exec (.bdom l a) s = execBdom l a s := rfl
@[simp] theorem exec_xsend (l a b s) : exec (.xsend l a b) s = execXsend l a b s := rfl
@[simp] theorem exec_xrecv (l d c s) : exec (.xrecv l d c) s = execXrecv l d c s := rfl
@[simp] theorem exec_dboard (l d a b s) : exec (.dboard l d a b) s = execDboard l d a b s := rfl
@[simp] theorem exec_dalight (l d a b s) : exec (.dalight l d a b) s = execDalight l d a b s := rfl
@[simp] theorem exec_dread (l d a w s) : exec (.dread l d a w) s = execDread l d a w s := rfl
@[simp] theorem exec_drmwAdd (l d a b w s) : exec (.drmwAdd l d a b w) s = execDrmwAdd l d a b w s := rfl
@[simp] theorem exec_drmwMin (l d a b w s) : exec (.drmwMin l d a b w) s = execDrmwMin l d a b w s := rfl
@[simp] theorem exec_drmwMax (l d a b w s) : exec (.drmwMax l d a b w) s = execDrmwMax l d a b w s := rfl
@[simp] theorem exec_drmwMinu (l d a b w s) : exec (.drmwMinu l d a b w) s = execDrmwMinu l d a b w s := rfl
@[simp] theorem exec_drmwMaxu (l d a b w s) : exec (.drmwMaxu l d a b w) s = execDrmwMaxu l d a b w s := rfl
@[simp] theorem exec_drmwFmin (l d a b w s) : exec (.drmwFmin l d a b w) s = execDrmwFmin l d a b w s := rfl
@[simp] theorem exec_drmwFmax (l d a b w s) : exec (.drmwFmax l d a b w) s = execDrmwFmax l d a b w s := rfl
@[simp] theorem exec_drmwAnd (l d a b w s) : exec (.drmwAnd l d a b w) s = execDrmwAnd l d a b w s := rfl
@[simp] theorem exec_drmwOr (l d a b w s) : exec (.drmwOr l d a b w) s = execDrmwOr l d a b w s := rfl
@[simp] theorem exec_drmwXor (l d a b w s) : exec (.drmwXor l d a b w) s = execDrmwXor l d a b w s := rfl
@[simp] theorem exec_drmwSwap (l d a b w s) : exec (.drmwSwap l d a b w) s = execDrmwSwap l d a b w s := rfl
@[simp] theorem exec_drmwCas (l d a b w s) : exec (.drmwCas l d a b w) s = execDrmwCas l d a b w s := rfl
@[simp] theorem exec_dcap (l a s) : exec (.dcap l a) s = execDcap l a s := rfl
@[simp] theorem exec_dput (l a b w s) : exec (.dput l a b w) s = execDput l a b w s := rfl
@[simp] theorem exec_drel (l a s) : exec (.drel l a) s = execDrel l a s := rfl
@[simp] theorem exec_dlap (l d s) : exec (.dlap l d) s = execDlap l d s := rfl
@[simp] theorem exec_fenceR (l a b s) : exec (.fenceR l a b) s = execFenceR l a b s := rfl
@[simp] theorem exec_fenceS (l p u s) : exec (.fenceS l p u) s = execFenceS l p u s := rfl
@[simp] theorem exec_qfence (l m s) : exec (.qfence l m) s = execQfence l m s := rfl
@[simp] theorem exec_sbind (l d a s) : exec (.sbind l d a) s = execSbind l d a s := rfl
@[simp] theorem exec_sunbind (l d s) : exec (.sunbind l d) s = execSunbind l d s := rfl
@[simp] theorem exec_sstat (l d a s) : exec (.sstat l d a) s = execSstat l d a s := rfl
@[simp] theorem exec_sdrain (l d s) : exec (.sdrain l d) s = execSdrain l d s := rfl
@[simp] theorem exec_cbinit (l a c s) : exec (.cbinit l a c) s = execCbinit l a c s := rfl
@[simp] theorem exec_cbpop (l d c s) : exec (.cbpop l d c) s = execCbpop l d c s := rfl
@[simp] theorem exec_cbpush (l c s) : exec (.cbpush l c) s = execCbpush l c s := rfl
@[simp] theorem exec_cbstat (l d c s) : exec (.cbstat l d c) s = execCbstat l d c s := rfl
@[simp] theorem exec_cpy (l q a b c h s) : exec (.cpy l q a b c h) s = execCpy l q a b c h s := rfl
@[simp] theorem exec_cpya (l q a b c h s) : exec (.cpya l q a b c h) s = execCpya l q a b c h s := rfl
@[simp] theorem exec_gath (l q a b c h s) : exec (.gath l q a b c h) s = execGath l q a b c h s := rfl
@[simp] theorem exec_scat (l q a b c s) : exec (.scat l q a b c) s = execScat l q a b c s := rfl
@[simp] theorem exec_cpyw (l q a b c h s) : exec (.cpyw l q a b c h) s = execCpyw l q a b c h s := rfl
@[simp] theorem exec_cpyz (l q a b h s) : exec (.cpyz l q a b h) s = execCpyz l q a b h s := rfl
@[simp] theorem exec_pdecl (l a b w s) : exec (.pdecl l a b w) s = execPdecl l a b w s := rfl
@[simp] theorem exec_muster (l w s) : exec (.muster l w) s = execMuster l w s := rfl
@[simp] theorem exec_gwait (l b w s) : exec (.gwait l b w) s = execGwait l b w s := rfl
@[simp] theorem exec_gstat (l d w s) : exec (.gstat l d w) s = execGstat l d w s := rfl
@[simp] theorem exec_pdrop (l w s) : exec (.pdrop l w) s = execPdrop l w s := rfl
@[simp] theorem exec_tld (l q a b c s) : exec (.tld l q a b c) s = execTld l q a b c s := rfl
@[simp] theorem exec_tstr (l q a b c s) : exec (.tstr l q a b c) s = execTstr l q a b c s := rfl
@[simp] theorem exec_amov (l q a b c s) : exec (.amov l q a b c) s = execAmov l q a b c s := rfl
@[simp] theorem exec_ald (l q a b c s) : exec (.ald l q a b c) s = execAld l q a b c s := rfl
@[simp] theorem exec_mxcmd (l q a b c s) : exec (.mxcmd l q a b c) s = execMxcmd l q a b c s := rfl
@[simp] theorem exec_lmalloc (l d b s) : exec (.lmalloc l d b) s = execLmalloc l d b s := rfl
@[simp] theorem exec_lmfree (l a s) : exec (.lmfree l a) s = execLmfree l a s := rfl
@[simp] theorem exec_lminv (l a b s) : exec (.lminv l a b) s = execLminv l a b s := rfl
@[simp] theorem exec_vsset (l d a b s) : exec (.vsset l d a b) s = execVsset l d a b s := rfl
@[simp] theorem exec_vsmark (l a s) : exec (.vsmark l a) s = execVsmark l a s := rfl
@[simp] theorem exec_vsdig (l d a s) : exec (.vsdig l d a) s = execVsdig l d a s := rfl
@[simp] theorem exec_vswait (l d a s) : exec (.vswait l d a) s = execVswait l d a s := rfl
@[simp] theorem exec_yoke (l d s) : exec (.yoke l d) s = execYoke l d s := rfl
@[simp] theorem exec_unyoke (l s) : exec (.unyoke l) s = execUnyoke l s := rfl
@[simp] theorem exec_tlbinv (l a b u s) : exec (.tlbinv l a b u) s = execTlbinv l a b u s := rfl
@[simp] theorem exec_tlbprobe (l d a s) : exec (.tlbprobe l d a) s = execTlbprobe l d a s := rfl
@[simp] theorem exec_add (d a b s) : exec (.add d a b) s = execAdd d a b s := rfl
@[simp] theorem exec_sub (d a b s) : exec (.sub d a b) s = execSub d a b s := rfl
@[simp] theorem exec_and (d a b s) : exec (.and d a b) s = execAnd d a b s := rfl
@[simp] theorem exec_or (d a b s) : exec (.or d a b) s = execOr d a b s := rfl
@[simp] theorem exec_xor (d a b s) : exec (.xor d a b) s = execXor d a b s := rfl
@[simp] theorem exec_andn (d a b s) : exec (.andn d a b) s = execAndn d a b s := rfl
@[simp] theorem exec_min (d a b s) : exec (.min d a b) s = execMin d a b s := rfl
@[simp] theorem exec_max (d a b s) : exec (.max d a b) s = execMax d a b s := rfl
@[simp] theorem exec_minu (d a b s) : exec (.minu d a b) s = execMinu d a b s := rfl
@[simp] theorem exec_maxu (d a b s) : exec (.maxu d a b) s = execMaxu d a b s := rfl
@[simp] theorem exec_addw (d a b s) : exec (.addw d a b) s = execAddw d a b s := rfl
@[simp] theorem exec_subw (d a b s) : exec (.subw d a b) s = execSubw d a b s := rfl
@[simp] theorem exec_adds (d a b s) : exec (.adds d a b) s = execAdds d a b s := rfl
@[simp] theorem exec_subs (d a b s) : exec (.subs d a b) s = execSubs d a b s := rfl
@[simp] theorem exec_abs (d a s) : exec (.abs d a) s = execAbs d a s := rfl
@[simp] theorem exec_mul (d a b s) : exec (.mul d a b) s = execMul d a b s := rfl
@[simp] theorem exec_mulh (d a b s) : exec (.mulh d a b) s = execMulh d a b s := rfl
@[simp] theorem exec_mulhu (d a b s) : exec (.mulhu d a b) s = execMulhu d a b s := rfl
@[simp] theorem exec_mulhsu (d a b s) : exec (.mulhsu d a b) s = execMulhsu d a b s := rfl
@[simp] theorem exec_div (d a b s) : exec (.div d a b) s = execDiv d a b s := rfl
@[simp] theorem exec_divu (d a b s) : exec (.divu d a b) s = execDivu d a b s := rfl
@[simp] theorem exec_rem (d a b s) : exec (.rem d a b) s = execRem d a b s := rfl
@[simp] theorem exec_remu (d a b s) : exec (.remu d a b) s = execRemu d a b s := rfl
@[simp] theorem exec_seq (d a b s) : exec (.seq d a b) s = execSeq d a b s := rfl
@[simp] theorem exec_sne (d a b s) : exec (.sne d a b) s = execSne d a b s := rfl
@[simp] theorem exec_slt (d a b s) : exec (.slt d a b) s = execSlt d a b s := rfl
@[simp] theorem exec_sge (d a b s) : exec (.sge d a b) s = execSge d a b s := rfl
@[simp] theorem exec_sltu (d a b s) : exec (.sltu d a b) s = execSltu d a b s := rfl
@[simp] theorem exec_sgeu (d a b s) : exec (.sgeu d a b) s = execSgeu d a b s := rfl
@[simp] theorem exec_sll (d a b s) : exec (.sll d a b) s = execSll d a b s := rfl
@[simp] theorem exec_srl (d a b s) : exec (.srl d a b) s = execSrl d a b s := rfl
@[simp] theorem exec_sra (d a b s) : exec (.sra d a b) s = execSra d a b s := rfl
@[simp] theorem exec_rol (d a b s) : exec (.rol d a b) s = execRol d a b s := rfl
@[simp] theorem exec_ror (d a b s) : exec (.ror d a b) s = execRor d a b s := rfl
@[simp] theorem exec_popc (d a n s) : exec (.popc d a n) s = execPopc d a n s := rfl
@[simp] theorem exec_clz (d a s) : exec (.clz d a) s = execClz d a s := rfl
@[simp] theorem exec_ctz (d a n s) : exec (.ctz d a n) s = execCtz d a n s := rfl
@[simp] theorem exec_brev (d a s) : exec (.brev d a) s = execBrev d a s := rfl
@[simp] theorem exec_bswap (d a s) : exec (.bswap d a) s = execBswap d a s := rfl
@[simp] theorem exec_extu (d a b s) : exec (.extu d a b) s = execExtu d a b s := rfl
@[simp] theorem exec_exts (d a b s) : exec (.exts d a b) s = execExts d a b s := rfl
@[simp] theorem exec_mshl (d a b n s) : exec (.mshl d a b n) s = execMshl d a b n s := rfl
@[simp] theorem exec_mshr (d a b n s) : exec (.mshr d a b n) s = execMshr d a b n s := rfl
@[simp] theorem exec_mand (d a b n s) : exec (.mand d a b n) s = execMand d a b n s := rfl
@[simp] theorem exec_mor (d a b n s) : exec (.mor d a b n) s = execMor d a b n s := rfl
@[simp] theorem exec_mxor (d a b n s) : exec (.mxor d a b n) s = execMxor d a b n s := rfl
@[simp] theorem exec_addi (d a n s) : exec (.addi d a n) s = execAddi d a n s := rfl
@[simp] theorem exec_andi (d a n s) : exec (.andi d a n) s = execAndi d a n s := rfl
@[simp] theorem exec_ori (d a n s) : exec (.ori d a n) s = execOri d a n s := rfl
@[simp] theorem exec_xori (d a n s) : exec (.xori d a n) s = execXori d a n s := rfl
@[simp] theorem exec_slli (d a n u s) : exec (.slli d a n u) s = execSlli d a n u s := rfl
@[simp] theorem exec_srli (d a n u s) : exec (.srli d a n u) s = execSrli d a n u s := rfl
@[simp] theorem exec_srai (d a u s) : exec (.srai d a u) s = execSrai d a u s := rfl
@[simp] theorem exec_roli (d a u s) : exec (.roli d a u) s = execRoli d a u s := rfl
@[simp] theorem exec_rori (d a u s) : exec (.rori d a u) s = execRori d a u s := rfl
@[simp] theorem exec_cmpi (d a r n s) : exec (.cmpi d a r n) s = execCmpi d a r n s := rfl
@[simp] theorem exec_fadd (d a b s) : exec (.fadd d a b) s = execFadd d a b s := rfl
@[simp] theorem exec_fsub (d a b s) : exec (.fsub d a b) s = execFsub d a b s := rfl
@[simp] theorem exec_fmul (d a b s) : exec (.fmul d a b) s = execFmul d a b s := rfl
@[simp] theorem exec_fdiv (d a b s) : exec (.fdiv d a b) s = execFdiv d a b s := rfl
@[simp] theorem exec_fsqrt (d a s) : exec (.fsqrt d a) s = execFsqrt d a s := rfl
@[simp] theorem exec_fmac (d a b s) : exec (.fmac d a b) s = execFmac d a b s := rfl
@[simp] theorem exec_fmin (d a b s) : exec (.fmin d a b) s = execFmin d a b s := rfl
@[simp] theorem exec_fmax (d a b s) : exec (.fmax d a b) s = execFmax d a b s := rfl
@[simp] theorem exec_fabs (d a s) : exec (.fabs d a) s = execFabs d a s := rfl
@[simp] theorem exec_fneg (d a s) : exec (.fneg d a) s = execFneg d a s := rfl
@[simp] theorem exec_feq (d a b s) : exec (.feq d a b) s = execFeq d a b s := rfl
@[simp] theorem exec_flt (d a b s) : exec (.flt d a b) s = execFlt d a b s := rfl
@[simp] theorem exec_fle (d a b s) : exec (.fle d a b) s = execFle d a b s := rfl
@[simp] theorem exec_fclass (d a s) : exec (.fclass d a) s = execFclass d a s := rfl
@[simp] theorem exec_fcvt (d a c r s) : exec (.fcvt d a c r) s = execFcvt d a c r s := rfl
@[simp] theorem exec_fext (d a c r s) : exec (.fext d a c r) s = execFext d a c r s := rfl
@[simp] theorem exec_ftoi (d a r s) : exec (.ftoi d a r) s = execFtoi d a r s := rfl
@[simp] theorem exec_ftou (d a r s) : exec (.ftou d a r) s = execFtou d a r s := rfl
@[simp] theorem exec_itof (d a r s) : exec (.itof d a r) s = execItof d a r s := rfl
@[simp] theorem exec_utof (d a r s) : exec (.utof d a r) s = execUtof d a r s := rfl
@[simp] theorem exec_vadd (d a b k s) : exec (.vadd d a b k) s = execVadd d a b k s := rfl
@[simp] theorem exec_vsub (d a b k s) : exec (.vsub d a b k) s = execVsub d a b k s := rfl
@[simp] theorem exec_vmul (d a b k s) : exec (.vmul d a b k) s = execVmul d a b k s := rfl
@[simp] theorem exec_vdiv (d a b k s) : exec (.vdiv d a b k) s = execVdiv d a b k s := rfl
@[simp] theorem exec_vsqrt (d a k s) : exec (.vsqrt d a k) s = execVsqrt d a k s := rfl
@[simp] theorem exec_vfma (d a b c k s) : exec (.vfma d a b c k) s = execVfma d a b c k s := rfl
@[simp] theorem exec_vfms (d a b c k s) : exec (.vfms d a b c k) s = execVfms d a b c k s := rfl
@[simp] theorem exec_vmin (d a b k s) : exec (.vmin d a b k) s = execVmin d a b k s := rfl
@[simp] theorem exec_vmax (d a b k s) : exec (.vmax d a b k) s = execVmax d a b k s := rfl
@[simp] theorem exec_vabs (d a k s) : exec (.vabs d a k) s = execVabs d a k s := rfl
@[simp] theorem exec_vneg (d a k s) : exec (.vneg d a k) s = execVneg d a k s := rfl
@[simp] theorem exec_vdot (d a b c k s) : exec (.vdot d a b c k) s = execVdot d a b c k s := rfl
@[simp] theorem exec_vaddBf2 (d a b k s) : exec (.vaddBf2 d a b k) s = execVaddBf2 d a b k s := rfl
@[simp] theorem exec_vmulBf2 (d a b k s) : exec (.vmulBf2 d a b k) s = execVmulBf2 d a b k s := rfl
@[simp] theorem exec_vfmaBf2 (d a b c k s) : exec (.vfmaBf2 d a b c k) s = execVfmaBf2 d a b c k s := rfl
@[simp] theorem exec_vdot2Bf (d a b c k s) : exec (.vdot2Bf d a b c k) s = execVdot2Bf d a b c k s := rfl
@[simp] theorem exec_viadd (d a b k s) : exec (.viadd d a b k) s = execViadd d a b k s := rfl
@[simp] theorem exec_visub (d a b k s) : exec (.visub d a b k) s = execVisub d a b k s := rfl
@[simp] theorem exec_vimul (d a b k s) : exec (.vimul d a b k) s = execVimul d a b k s := rfl
@[simp] theorem exec_vimulh (d a b k s) : exec (.vimulh d a b k) s = execVimulh d a b k s := rfl
@[simp] theorem exec_viand (d a b k s) : exec (.viand d a b k) s = execViand d a b k s := rfl
@[simp] theorem exec_vior (d a b k s) : exec (.vior d a b k) s = execVior d a b k s := rfl
@[simp] theorem exec_vixor (d a b k s) : exec (.vixor d a b k) s = execVixor d a b k s := rfl
@[simp] theorem exec_visll (d a b k s) : exec (.visll d a b k) s = execVisll d a b k s := rfl
@[simp] theorem exec_visrl (d a b k s) : exec (.visrl d a b k) s = execVisrl d a b k s := rfl
@[simp] theorem exec_visra (d a b k s) : exec (.visra d a b k) s = execVisra d a b k s := rfl
@[simp] theorem exec_vimin (d a b k s) : exec (.vimin d a b k) s = execVimin d a b k s := rfl
@[simp] theorem exec_vimax (d a b k s) : exec (.vimax d a b k) s = execVimax d a b k s := rfl
@[simp] theorem exec_viminu (d a b k s) : exec (.viminu d a b k) s = execViminu d a b k s := rfl
@[simp] theorem exec_vimaxu (d a b k s) : exec (.vimaxu d a b k) s = execVimaxu d a b k s := rfl
@[simp] theorem exec_viadds (d a b k s) : exec (.viadds d a b k) s = execViadds d a b k s := rfl
@[simp] theorem exec_visubs (d a b k s) : exec (.visubs d a b k) s = execVisubs d a b k s := rfl
@[simp] theorem exec_vimac (d a b c k s) : exec (.vimac d a b c k) s = execVimac d a b c k s := rfl
@[simp] theorem exec_vidot4 (d a b c k s) : exec (.vidot4 d a b c k) s = execVidot4 d a b c k s := rfl
@[simp] theorem exec_viabs (d a k s) : exec (.viabs d a k) s = execViabs d a k s := rfl
@[simp] theorem exec_vcmpFeq (a b d s) : exec (.vcmpFeq a b d) s = execVcmpFeq a b d s := rfl
@[simp] theorem exec_vcmpFne (a b d s) : exec (.vcmpFne a b d) s = execVcmpFne a b d s := rfl
@[simp] theorem exec_vcmpFlt (a b d s) : exec (.vcmpFlt a b d) s = execVcmpFlt a b d s := rfl
@[simp] theorem exec_vcmpFle (a b d s) : exec (.vcmpFle a b d) s = execVcmpFle a b d s := rfl
@[simp] theorem exec_vcmpFun (a b d s) : exec (.vcmpFun a b d) s = execVcmpFun a b d s := rfl
@[simp] theorem exec_vcmpIeq (a b d s) : exec (.vcmpIeq a b d) s = execVcmpIeq a b d s := rfl
@[simp] theorem exec_vcmpIne (a b d s) : exec (.vcmpIne a b d) s = execVcmpIne a b d s := rfl
@[simp] theorem exec_vcmpIlt (a b d s) : exec (.vcmpIlt a b d) s = execVcmpIlt a b d s := rfl
@[simp] theorem exec_vcmpIle (a b d s) : exec (.vcmpIle a b d) s = execVcmpIle a b d s := rfl
@[simp] theorem exec_vcmpIltu (a b d s) : exec (.vcmpIltu a b d) s = execVcmpIltu a b d s := rfl
@[simp] theorem exec_vcmpIleu (a b d s) : exec (.vcmpIleu a b d) s = execVcmpIleu a b d s := rfl
@[simp] theorem exec_vrsum (d a k s) : exec (.vrsum d a k) s = execVrsum d a k s := rfl
@[simp] theorem exec_vrmax (d a k s) : exec (.vrmax d a k) s = execVrmax d a k s := rfl
@[simp] theorem exec_vrmin (d a k s) : exec (.vrmin d a k) s = execVrmin d a k s := rfl
@[simp] theorem exec_vramax (d a k s) : exec (.vramax d a k) s = execVramax d a k s := rfl
@[simp] theorem exec_vmaxi (d a k s) : exec (.vmaxi d a k) s = execVmaxi d a k s := rfl
@[simp] theorem exec_vmini (d a k s) : exec (.vmini d a k) s = execVmini d a k s := rfl
@[simp] theorem exec_vrisum (d a k s) : exec (.vrisum d a k) s = execVrisum d a k s := rfl
@[simp] theorem exec_vrimax (d a k s) : exec (.vrimax d a k) s = execVrimax d a k s := rfl
@[simp] theorem exec_vrimin (d a k s) : exec (.vrimin d a k) s = execVrimin d a k s := rfl
@[simp] theorem exec_vrimaxu (d a k s) : exec (.vrimaxu d a k) s = execVrimaxu d a k s := rfl
@[simp] theorem exec_vriminu (d a k s) : exec (.vriminu d a k) s = execVriminu d a k s := rfl
@[simp] theorem exec_vrand (d a k s) : exec (.vrand d a k) s = execVrand d a k s := rfl
@[simp] theorem exec_vror (d a k s) : exec (.vror d a k) s = execVror d a k s := rfl
@[simp] theorem exec_vrxor (d a k s) : exec (.vrxor d a k) s = execVrxor d a k s := rfl
@[simp] theorem exec_vexp2 (d a k s) : exec (.vexp2 d a k) s = execVexp2 d a k s := rfl
@[simp] theorem exec_vexpe (d a k s) : exec (.vexpe d a k) s = execVexpe d a k s := rfl
@[simp] theorem exec_vlog2 (d a k s) : exec (.vlog2 d a k) s = execVlog2 d a k s := rfl
@[simp] theorem exec_vrcp (d a k s) : exec (.vrcp d a k) s = execVrcp d a k s := rfl
@[simp] theorem exec_vrsq (d a k s) : exec (.vrsq d a k) s = execVrsq d a k s := rfl
@[simp] theorem exec_vmov (d a k s) : exec (.vmov d a k) s = execVmov d a k s := rfl
@[simp] theorem exec_vsplat (d u s) : exec (.vsplat d u) s = execVsplat d u s := rfl
@[simp] theorem exec_vmovs (a n d s) : exec (.vmovs a n d) s = execVmovs a n d s := rfl
@[simp] theorem exec_vsel (d a b k s) : exec (.vsel d a b k) s = execVsel d a b k s := rfl
@[simp] theorem exec_viota (d k s) : exec (.viota d k) s = execViota d k s := rfl
@[simp] theorem exec_vidx (d a b k s) : exec (.vidx d a b k) s = execVidx d a b k s := rfl
@[simp] theorem exec_vnarrow (d a c h r k s) : exec (.vnarrow d a c h r k) s = execVnarrow d a c h r k s := rfl
@[simp] theorem exec_vwiden (d a c h r k s) : exec (.vwiden d a c h r k) s = execVwiden d a c h r k s := rfl
@[simp] theorem exec_vqrnd (d a c h r k s) : exec (.vqrnd d a c h r k) s = execVqrnd d a c h r k s := rfl
@[simp] theorem exec_vmxq (d a c h l s) : exec (.vmxq d a c h l) s = execVmxq d a c h l s := rfl
@[simp] theorem exec_vmxs (d a c h l s) : exec (.vmxs d a c h l) s = execVmxs d a c h l s := rfl
@[simp] theorem exec_vmxc (d a c h l s) : exec (.vmxc d a c h l) s = execVmxc d a c h l s := rfl
@[simp] theorem exec_vbaleq (d a s) : exec (.vbaleq d a) s = execVbaleq d a s := rfl
@[simp] theorem exec_mma (d a b u s) : exec (.mma d a b u) s = execMma d a b u s := rfl
@[simp] theorem exec_mmaz (d a b u s) : exec (.mmaz d a b u) s = execMmaz d a b u s := rfl
@[simp] theorem exec_azero (d s) : exec (.azero d) s = execAzero d s := rfl
@[simp] theorem exec_acopy (d u s) : exec (.acopy d u) s = execAcopy d u s := rfl
@[simp] theorem exec_aadd (d u n s) : exec (.aadd d u n) s = execAadd d u n s := rfl
@[simp] theorem exec_tzero (a s) : exec (.tzero a) s = execTzero a s := rfl
@[simp] theorem exec_tcopy (a b s) : exec (.tcopy a b) s = execTcopy a b s := rfl
@[simp] theorem exec_ttrn (a b s) : exec (.ttrn a b) s = execTtrn a b s := rfl
@[simp] theorem exec_tfwd (a r s) : exec (.tfwd a r) s = execTfwd a r s := rfl
@[simp] theorem exec_ttake (a b s) : exec (.ttake a b) s = execTtake a b s := rfl
@[simp] theorem exec_powerLoss (s) : exec (.powerLoss) s = execPowerLoss s := rfl
@[simp] theorem exec_functionReset (p s) : exec (.functionReset p) s = execFunctionReset p s := rfl
@[simp] theorem exec_linkReturn (k s) : exec (.linkReturn k) s = execLinkReturn k s := rfl

end Sys2Proof.Machine
end

