-- ==== Sys2Proof/Laws/Maps.lean ====
section
/-! SUPPORT. Sparse tables: what a read after an update gives, and that updates keep keys rising. -/

namespace Sys2Proof.Machine

@[simp] theorem mfind_mput_same {α : Type} (m : SMap α) (k : Nat) (v : α) : mfind (mput m k v) k = some v := by
  induction m with
  | nil => simp [mput, mfind]
  | cons x m ih =>
    obtain ⟨j, u⟩ := x
    simp only [mput]
    split
    · simp [mfind]
    · split
      · simp [mfind]
      · have : j ≠ k := by omega
        simp [mfind, this, ih]

theorem mfind_mput_other {α : Type} (m : SMap α) (k j : Nat) (v : α) (h : j ≠ k) : mfind (mput m k v) j = mfind m j := by
  induction m with
  | nil => simp [mput, mfind, Ne.symm h]
  | cons x m ih =>
    obtain ⟨i, u⟩ := x
    simp only [mput]
    split
    · simp [mfind, Ne.symm h]
    · split
      · rename_i hk
        subst hk
        simp [mfind, Ne.symm h]
      · simp only [mfind]
        split
        · rfl
        · exact ih

/-- Every key of a table lies above a bound. -/
def keysAbove {α : Type} (b : Nat) (m : SMap α) : Prop := ∀ x ∈ m, b < x.1

theorem msorted_cons {α : Type} (x : Nat × α) (m : SMap α) : msorted (x :: m) = true ↔ keysAbove x.1 m ∧ msorted m = true := by
  induction m generalizing x with
  | nil => simp [msorted, keysAbove]
  | cons y m ih =>
    obtain ⟨j, u⟩ := x
    obtain ⟨k, v⟩ := y
    simp only [msorted, Bool.and_eq_true, decide_eq_true_eq]
    constructor
    · rintro ⟨hjk, hm⟩
      refine ⟨?_, hm⟩
      intro z hz
      rcases List.mem_cons.mp hz with rfl | hz
      · exact hjk
      · exact lt_trans hjk (((ih (k, v)).mp hm).1 z hz)
    · rintro ⟨ha, hm⟩
      exact ⟨ha (k, v) (by simp), hm⟩

theorem mfind_none_of_above {α : Type} (m : SMap α) (b k : Nat) (h : keysAbove b m) (hk : k ≤ b) : mfind m k = none := by
  induction m with
  | nil => rfl
  | cons x m ih =>
    obtain ⟨j, u⟩ := x
    have hj : b < j := h (j, u) (by simp)
    have : j ≠ k := by omega
    simp only [mfind, this, if_false]
    exact ih fun z hz => h z (List.mem_cons_of_mem _ hz)

theorem keysAbove_mput {α : Type} (m : SMap α) (b k : Nat) (v : α) (h : keysAbove b m) (hk : b < k) : keysAbove b (mput m k v) := by
  induction m with
  | nil => intro x hx; simp [mput] at hx; subst hx; exact hk
  | cons y m ih =>
    obtain ⟨j, u⟩ := y
    have hm : keysAbove b m := fun z hz => h z (List.mem_cons_of_mem _ hz)
    simp only [mput]
    split
    · intro z hz
      rcases List.mem_cons.mp hz with rfl | hz
      · exact hk
      · exact h z hz
    · split
      · intro z hz
        rcases List.mem_cons.mp hz with rfl | hz
        · exact hk
        · exact hm z hz
      · intro z hz
        rcases List.mem_cons.mp hz with rfl | hz
        · exact h (j, u) (by simp)
        · exact ih hm z hz

theorem msorted_mput {α : Type} (m : SMap α) (k : Nat) (v : α) (h : msorted m = true) : msorted (mput m k v) = true := by
  induction m with
  | nil => simp [mput, msorted]
  | cons x m ih =>
    obtain ⟨j, u⟩ := x
    obtain ⟨ha, hm⟩ := (msorted_cons _ _).mp h
    simp only [mput]
    split
    · rename_i hk
      refine (msorted_cons _ _).mpr ⟨?_, h⟩
      intro z hz
      rcases List.mem_cons.mp hz with rfl | hz
      · exact hk
      · exact lt_trans hk (ha z hz)
    · split
      · rename_i hk
        subst hk
        exact (msorted_cons _ _).mpr ⟨ha, hm⟩
      · exact (msorted_cons _ _).mpr ⟨keysAbove_mput _ _ _ _ ha (by omega), ih hm⟩

theorem mem_mdel {α : Type} (m : SMap α) (k : Nat) (x : Nat × α) (h : x ∈ mdel m k) : x ∈ m := by
  induction m with
  | nil => simp [mdel] at h
  | cons y m ih =>
    obtain ⟨j, u⟩ := y
    simp only [mdel] at h
    split at h
    · exact List.mem_cons_of_mem _ (ih h)
    · rcases List.mem_cons.mp h with rfl | h
      · simp
      · exact List.mem_cons_of_mem _ (ih h)

theorem msorted_mdel {α : Type} (m : SMap α) (k : Nat) (h : msorted m = true) : msorted (mdel m k) = true := by
  induction m with
  | nil => rfl
  | cons x m ih =>
    obtain ⟨j, u⟩ := x
    obtain ⟨ha, hm⟩ := (msorted_cons _ _).mp h
    simp only [mdel]
    split
    · exact ih hm
    · exact (msorted_cons _ _).mpr ⟨fun z hz => ha z (mem_mdel _ _ _ hz), ih hm⟩

theorem msorted_mset {α : Type} [DecidableEq α] (d : α) (m : SMap α) (k : Nat) (v : α) (h : msorted m = true) :
    msorted (mset d m k v) = true := by
  unfold mset
  split
  · exact msorted_mdel m k h
  · exact msorted_mput m k v h

theorem mfind_mdel_other {α : Type} (m : SMap α) (k j : Nat) (h : j ≠ k) : mfind (mdel m k) j = mfind m j := by
  induction m with
  | nil => rfl
  | cons x m ih =>
    obtain ⟨i, u⟩ := x
    simp only [mdel]
    split
    · rename_i hi
      subst hi
      simpa [mfind, Ne.symm h] using ih
    · simp only [mfind]
      split
      · rfl
      · exact ih

@[simp] theorem mfind_mdel_same {α : Type} (m : SMap α) (k : Nat) : mfind (mdel m k) k = none := by
  induction m with
  | nil => rfl
  | cons x m ih =>
    obtain ⟨j, u⟩ := x
    simp only [mdel]
    split
    · exact ih
    · rename_i hj
      simp [mfind, hj, ih]

/-- A read after a write to the same key. -/
@[simp] theorem mget_mset_same {α : Type} [DecidableEq α] (d : α) (m : SMap α) (k : Nat) (v : α) :
    mget d (mset d m k v) k = v := by
  unfold mset
  split
  · rename_i hv
    simp [mget, hv]
  · simp [mget]

/-- A read after a write to another key. -/
theorem mget_mset_other {α : Type} [DecidableEq α] (d : α) (m : SMap α) (k j : Nat) (v : α) (h : j ≠ k) :
    mget d (mset d m k v) j = mget d m j := by
  unfold mset
  split
  · simp [mget, mfind_mdel_other m k j h]
  · simp [mget, mfind_mput_other m k j v h]

@[simp] theorem mget_mput_same {α : Type} (d : α) (m : SMap α) (k : Nat) (v : α) : mget d (mput m k v) k = v := by
  simp [mget]

theorem mget_mput_other {α : Type} (d : α) (m : SMap α) (k j : Nat) (v : α) (h : j ≠ k) : mget d (mput m k v) j = mget d m j := by
  simp [mget, mfind_mput_other m k j v h]

end Sys2Proof.Machine
end

