-- ==== Sys2Proof/Laws/State.lean ====
section
/-! SUPPORT. What each update of State leaves as it was: one lemma a field, true by rfl. -/

namespace Sys2Proof.Machine

/-! ## State.setCore -/

@[simp] theorem State.setCore_clk (s : State) (c : Nat) (v : Core) : (s.setCore c v).clk = s.clk := rfl
@[simp] theorem State.setCore_ringStart (s : State) (c : Nat) (v : Core) : (s.setCore c v).ringStart = s.ringStart := rfl
@[simp] theorem State.setCore_layout (s : State) (c : Nat) (v : Core) : (s.setCore c v).layout = s.layout := rfl
@[simp] theorem State.setCore_busy (s : State) (c : Nat) (v : Core) : (s.setCore c v).busy = s.busy := rfl
@[simp] theorem State.setCore_nv (s : State) (c : Nat) (v : Core) : (s.setCore c v).nv = s.nv := rfl
@[simp] theorem State.setCore_boot (s : State) (c : Nat) (v : Core) : (s.setCore c v).boot = s.boot := rfl
@[simp] theorem State.setCore_bootPlan (s : State) (c : Nat) (v : Core) : (s.setCore c v).bootPlan = s.bootPlan := rfl
@[simp] theorem State.setCore_retrain (s : State) (c : Nat) (v : Core) : (s.setCore c v).retrain = s.retrain := rfl
@[simp] theorem State.setCore_imgAddr (s : State) (c : Nat) (v : Core) : (s.setCore c v).imgAddr = s.imgAddr := rfl
@[simp] theorem State.setCore_imgLen (s : State) (c : Nat) (v : Core) : (s.setCore c v).imgLen = s.imgLen := rfl
@[simp] theorem State.setCore_image (s : State) (c : Nat) (v : Core) : (s.setCore c v).image = s.image := rfl
@[simp] theorem State.setCore_imgBad (s : State) (c : Nat) (v : Core) : (s.setCore c v).imgBad = s.imgBad := rfl
@[simp] theorem State.setCore_powered (s : State) (c : Nat) (v : Core) : (s.setCore c v).powered = s.powered := rfl
@[simp] theorem State.setCore_temps (s : State) (c : Nat) (v : Core) : (s.setCore c v).temps = s.temps := rfl
@[simp] theorem State.setCore_therm (s : State) (c : Nat) (v : Core) : (s.setCore c v).therm = s.therm := rfl
@[simp] theorem State.setCore_hotPend (s : State) (c : Nat) (v : Core) : (s.setCore c v).hotPend = s.hotPend := rfl
@[simp] theorem State.setCore_ports (s : State) (c : Nat) (v : Core) : (s.setCore c v).ports = s.ports := rfl
@[simp] theorem State.setCore_replays (s : State) (c : Nat) (v : Core) : (s.setCore c v).replays = s.replays := rfl
@[simp] theorem State.setCore_downLinks (s : State) (c : Nat) (v : Core) : (s.setCore c v).downLinks = s.downLinks := rfl
@[simp] theorem State.setCore_downSince (s : State) (c : Nat) (v : Core) : (s.setCore c v).downSince = s.downSince := rfl
@[simp] theorem State.setCore_linkWaits (s : State) (c : Nat) (v : Core) : (s.setCore c v).linkWaits = s.linkWaits := rfl
@[simp] theorem State.setCore_slots (s : State) (c : Nat) (v : Core) : (s.setCore c v).slots = s.slots := rfl
@[simp] theorem State.setCore_t2exp (s : State) (c : Nat) (v : Core) : (s.setCore c v).t2exp = s.t2exp := rfl
@[simp] theorem State.setCore_mem (s : State) (c : Nat) (v : Core) : (s.setCore c v).mem = s.mem := rfl
@[simp] theorem State.setCore_ecc (s : State) (c : Nat) (v : Core) : (s.setCore c v).ecc = s.ecc := rfl
@[simp] theorem State.setCore_eccCount (s : State) (c : Nat) (v : Core) : (s.setCore c v).eccCount = s.eccCount := rfl
@[simp] theorem State.setCore_tlbBad (s : State) (c : Nat) (v : Core) : (s.setCore c v).tlbBad = s.tlbBad := rfl
@[simp] theorem State.setCore_lineBad (s : State) (c : Nat) (v : Core) : (s.setCore c v).lineBad = s.lineBad := rfl
@[simp] theorem State.setCore_flips (s : State) (c : Nat) (v : Core) : (s.setCore c v).flips = s.flips := rfl
@[simp] theorem State.setCore_msix (s : State) (c : Nat) (v : Core) : (s.setCore c v).msix = s.msix := rfl
@[simp] theorem State.setCore_spdm (s : State) (c : Nat) (v : Core) : (s.setCore c v).spdm = s.spdm := rfl
@[simp] theorem State.setCore_mgmtLog (s : State) (c : Nat) (v : Core) : (s.setCore c v).mgmtLog = s.mgmtLog := rfl
@[simp] theorem State.setCore_parts (s : State) (c : Nat) (v : Core) : (s.setCore c v).parts = s.parts := rfl
@[simp] theorem State.setCore_folds (s : State) (c : Nat) (v : Core) : (s.setCore c v).folds = s.folds := rfl
@[simp] theorem State.setCore_agenda (s : State) (c : Nat) (v : Core) : (s.setCore c v).agenda = s.agenda := rfl
@[simp] theorem State.setCore_issued (s : State) (c : Nat) (v : Core) : (s.setCore c v).issued = s.issued := rfl
@[simp] theorem State.setCore_cur (s : State) (c : Nat) (v : Core) : (s.setCore c v).cur = s.cur := rfl
@[simp] theorem State.setCore_issue (s : State) (c : Nat) (v : Core) : (s.setCore c v).issue = s.issue := rfl
@[simp] theorem State.setCore_latch (s : State) (c : Nat) (v : Core) : (s.setCore c v).latch = s.latch := rfl
@[simp] theorem State.setCore_freeCtr (s : State) (c : Nat) (v : Core) : (s.setCore c v).freeCtr = s.freeCtr := rfl

/-! ## State.updCore -/

@[simp] theorem State.updCore_clk (s : State) (c : Nat) (f : Core → Core) : (s.updCore c f).clk = s.clk := rfl
@[simp] theorem State.updCore_ringStart (s : State) (c : Nat) (f : Core → Core) : (s.updCore c f).ringStart = s.ringStart := rfl
@[simp] theorem State.updCore_layout (s : State) (c : Nat) (f : Core → Core) : (s.updCore c f).layout = s.layout := rfl
@[simp] theorem State.updCore_busy (s : State) (c : Nat) (f : Core → Core) : (s.updCore c f).busy = s.busy := rfl
@[simp] theorem State.updCore_nv (s : State) (c : Nat) (f : Core → Core) : (s.updCore c f).nv = s.nv := rfl
@[simp] theorem State.updCore_boot (s : State) (c : Nat) (f : Core → Core) : (s.updCore c f).boot = s.boot := rfl
@[simp] theorem State.updCore_bootPlan (s : State) (c : Nat) (f : Core → Core) : (s.updCore c f).bootPlan = s.bootPlan := rfl
@[simp] theorem State.updCore_retrain (s : State) (c : Nat) (f : Core → Core) : (s.updCore c f).retrain = s.retrain := rfl
@[simp] theorem State.updCore_imgAddr (s : State) (c : Nat) (f : Core → Core) : (s.updCore c f).imgAddr = s.imgAddr := rfl
@[simp] theorem State.updCore_imgLen (s : State) (c : Nat) (f : Core → Core) : (s.updCore c f).imgLen = s.imgLen := rfl
@[simp] theorem State.updCore_image (s : State) (c : Nat) (f : Core → Core) : (s.updCore c f).image = s.image := rfl
@[simp] theorem State.updCore_imgBad (s : State) (c : Nat) (f : Core → Core) : (s.updCore c f).imgBad = s.imgBad := rfl
@[simp] theorem State.updCore_powered (s : State) (c : Nat) (f : Core → Core) : (s.updCore c f).powered = s.powered := rfl
@[simp] theorem State.updCore_temps (s : State) (c : Nat) (f : Core → Core) : (s.updCore c f).temps = s.temps := rfl
@[simp] theorem State.updCore_therm (s : State) (c : Nat) (f : Core → Core) : (s.updCore c f).therm = s.therm := rfl
@[simp] theorem State.updCore_hotPend (s : State) (c : Nat) (f : Core → Core) : (s.updCore c f).hotPend = s.hotPend := rfl
@[simp] theorem State.updCore_ports (s : State) (c : Nat) (f : Core → Core) : (s.updCore c f).ports = s.ports := rfl
@[simp] theorem State.updCore_replays (s : State) (c : Nat) (f : Core → Core) : (s.updCore c f).replays = s.replays := rfl
@[simp] theorem State.updCore_downLinks (s : State) (c : Nat) (f : Core → Core) : (s.updCore c f).downLinks = s.downLinks := rfl
@[simp] theorem State.updCore_downSince (s : State) (c : Nat) (f : Core → Core) : (s.updCore c f).downSince = s.downSince := rfl
@[simp] theorem State.updCore_linkWaits (s : State) (c : Nat) (f : Core → Core) : (s.updCore c f).linkWaits = s.linkWaits := rfl
@[simp] theorem State.updCore_slots (s : State) (c : Nat) (f : Core → Core) : (s.updCore c f).slots = s.slots := rfl
@[simp] theorem State.updCore_t2exp (s : State) (c : Nat) (f : Core → Core) : (s.updCore c f).t2exp = s.t2exp := rfl
@[simp] theorem State.updCore_mem (s : State) (c : Nat) (f : Core → Core) : (s.updCore c f).mem = s.mem := rfl
@[simp] theorem State.updCore_ecc (s : State) (c : Nat) (f : Core → Core) : (s.updCore c f).ecc = s.ecc := rfl
@[simp] theorem State.updCore_eccCount (s : State) (c : Nat) (f : Core → Core) : (s.updCore c f).eccCount = s.eccCount := rfl
@[simp] theorem State.updCore_tlbBad (s : State) (c : Nat) (f : Core → Core) : (s.updCore c f).tlbBad = s.tlbBad := rfl
@[simp] theorem State.updCore_lineBad (s : State) (c : Nat) (f : Core → Core) : (s.updCore c f).lineBad = s.lineBad := rfl
@[simp] theorem State.updCore_flips (s : State) (c : Nat) (f : Core → Core) : (s.updCore c f).flips = s.flips := rfl
@[simp] theorem State.updCore_msix (s : State) (c : Nat) (f : Core → Core) : (s.updCore c f).msix = s.msix := rfl
@[simp] theorem State.updCore_spdm (s : State) (c : Nat) (f : Core → Core) : (s.updCore c f).spdm = s.spdm := rfl
@[simp] theorem State.updCore_mgmtLog (s : State) (c : Nat) (f : Core → Core) : (s.updCore c f).mgmtLog = s.mgmtLog := rfl
@[simp] theorem State.updCore_parts (s : State) (c : Nat) (f : Core → Core) : (s.updCore c f).parts = s.parts := rfl
@[simp] theorem State.updCore_folds (s : State) (c : Nat) (f : Core → Core) : (s.updCore c f).folds = s.folds := rfl
@[simp] theorem State.updCore_agenda (s : State) (c : Nat) (f : Core → Core) : (s.updCore c f).agenda = s.agenda := rfl
@[simp] theorem State.updCore_issued (s : State) (c : Nat) (f : Core → Core) : (s.updCore c f).issued = s.issued := rfl
@[simp] theorem State.updCore_cur (s : State) (c : Nat) (f : Core → Core) : (s.updCore c f).cur = s.cur := rfl
@[simp] theorem State.updCore_issue (s : State) (c : Nat) (f : Core → Core) : (s.updCore c f).issue = s.issue := rfl
@[simp] theorem State.updCore_latch (s : State) (c : Nat) (f : Core → Core) : (s.updCore c f).latch = s.latch := rfl
@[simp] theorem State.updCore_freeCtr (s : State) (c : Nat) (f : Core → Core) : (s.updCore c f).freeCtr = s.freeCtr := rfl

/-! ## State.setFold -/

@[simp] theorem State.setFold_clk (s : State) (c : Nat) (v : Fold) : (s.setFold c v).clk = s.clk := rfl
@[simp] theorem State.setFold_ringStart (s : State) (c : Nat) (v : Fold) : (s.setFold c v).ringStart = s.ringStart := rfl
@[simp] theorem State.setFold_layout (s : State) (c : Nat) (v : Fold) : (s.setFold c v).layout = s.layout := rfl
@[simp] theorem State.setFold_busy (s : State) (c : Nat) (v : Fold) : (s.setFold c v).busy = s.busy := rfl
@[simp] theorem State.setFold_nv (s : State) (c : Nat) (v : Fold) : (s.setFold c v).nv = s.nv := rfl
@[simp] theorem State.setFold_boot (s : State) (c : Nat) (v : Fold) : (s.setFold c v).boot = s.boot := rfl
@[simp] theorem State.setFold_bootPlan (s : State) (c : Nat) (v : Fold) : (s.setFold c v).bootPlan = s.bootPlan := rfl
@[simp] theorem State.setFold_retrain (s : State) (c : Nat) (v : Fold) : (s.setFold c v).retrain = s.retrain := rfl
@[simp] theorem State.setFold_imgAddr (s : State) (c : Nat) (v : Fold) : (s.setFold c v).imgAddr = s.imgAddr := rfl
@[simp] theorem State.setFold_imgLen (s : State) (c : Nat) (v : Fold) : (s.setFold c v).imgLen = s.imgLen := rfl
@[simp] theorem State.setFold_image (s : State) (c : Nat) (v : Fold) : (s.setFold c v).image = s.image := rfl
@[simp] theorem State.setFold_imgBad (s : State) (c : Nat) (v : Fold) : (s.setFold c v).imgBad = s.imgBad := rfl
@[simp] theorem State.setFold_powered (s : State) (c : Nat) (v : Fold) : (s.setFold c v).powered = s.powered := rfl
@[simp] theorem State.setFold_temps (s : State) (c : Nat) (v : Fold) : (s.setFold c v).temps = s.temps := rfl
@[simp] theorem State.setFold_therm (s : State) (c : Nat) (v : Fold) : (s.setFold c v).therm = s.therm := rfl
@[simp] theorem State.setFold_hotPend (s : State) (c : Nat) (v : Fold) : (s.setFold c v).hotPend = s.hotPend := rfl
@[simp] theorem State.setFold_ports (s : State) (c : Nat) (v : Fold) : (s.setFold c v).ports = s.ports := rfl
@[simp] theorem State.setFold_replays (s : State) (c : Nat) (v : Fold) : (s.setFold c v).replays = s.replays := rfl
@[simp] theorem State.setFold_downLinks (s : State) (c : Nat) (v : Fold) : (s.setFold c v).downLinks = s.downLinks := rfl
@[simp] theorem State.setFold_downSince (s : State) (c : Nat) (v : Fold) : (s.setFold c v).downSince = s.downSince := rfl
@[simp] theorem State.setFold_linkWaits (s : State) (c : Nat) (v : Fold) : (s.setFold c v).linkWaits = s.linkWaits := rfl
@[simp] theorem State.setFold_slots (s : State) (c : Nat) (v : Fold) : (s.setFold c v).slots = s.slots := rfl
@[simp] theorem State.setFold_t2exp (s : State) (c : Nat) (v : Fold) : (s.setFold c v).t2exp = s.t2exp := rfl
@[simp] theorem State.setFold_mem (s : State) (c : Nat) (v : Fold) : (s.setFold c v).mem = s.mem := rfl
@[simp] theorem State.setFold_ecc (s : State) (c : Nat) (v : Fold) : (s.setFold c v).ecc = s.ecc := rfl
@[simp] theorem State.setFold_eccCount (s : State) (c : Nat) (v : Fold) : (s.setFold c v).eccCount = s.eccCount := rfl
@[simp] theorem State.setFold_tlbBad (s : State) (c : Nat) (v : Fold) : (s.setFold c v).tlbBad = s.tlbBad := rfl
@[simp] theorem State.setFold_lineBad (s : State) (c : Nat) (v : Fold) : (s.setFold c v).lineBad = s.lineBad := rfl
@[simp] theorem State.setFold_flips (s : State) (c : Nat) (v : Fold) : (s.setFold c v).flips = s.flips := rfl
@[simp] theorem State.setFold_msix (s : State) (c : Nat) (v : Fold) : (s.setFold c v).msix = s.msix := rfl
@[simp] theorem State.setFold_spdm (s : State) (c : Nat) (v : Fold) : (s.setFold c v).spdm = s.spdm := rfl
@[simp] theorem State.setFold_mgmtLog (s : State) (c : Nat) (v : Fold) : (s.setFold c v).mgmtLog = s.mgmtLog := rfl
@[simp] theorem State.setFold_parts (s : State) (c : Nat) (v : Fold) : (s.setFold c v).parts = s.parts := rfl
@[simp] theorem State.setFold_cores (s : State) (c : Nat) (v : Fold) : (s.setFold c v).cores = s.cores := rfl
@[simp] theorem State.setFold_agenda (s : State) (c : Nat) (v : Fold) : (s.setFold c v).agenda = s.agenda := rfl
@[simp] theorem State.setFold_issued (s : State) (c : Nat) (v : Fold) : (s.setFold c v).issued = s.issued := rfl
@[simp] theorem State.setFold_cur (s : State) (c : Nat) (v : Fold) : (s.setFold c v).cur = s.cur := rfl
@[simp] theorem State.setFold_issue (s : State) (c : Nat) (v : Fold) : (s.setFold c v).issue = s.issue := rfl
@[simp] theorem State.setFold_latch (s : State) (c : Nat) (v : Fold) : (s.setFold c v).latch = s.latch := rfl
@[simp] theorem State.setFold_freeCtr (s : State) (c : Nat) (v : Fold) : (s.setFold c v).freeCtr = s.freeCtr := rfl

/-! ## State.updFold -/

@[simp] theorem State.updFold_clk (s : State) (c : Nat) (f : Fold → Fold) : (s.updFold c f).clk = s.clk := rfl
@[simp] theorem State.updFold_ringStart (s : State) (c : Nat) (f : Fold → Fold) : (s.updFold c f).ringStart = s.ringStart := rfl
@[simp] theorem State.updFold_layout (s : State) (c : Nat) (f : Fold → Fold) : (s.updFold c f).layout = s.layout := rfl
@[simp] theorem State.updFold_busy (s : State) (c : Nat) (f : Fold → Fold) : (s.updFold c f).busy = s.busy := rfl
@[simp] theorem State.updFold_nv (s : State) (c : Nat) (f : Fold → Fold) : (s.updFold c f).nv = s.nv := rfl
@[simp] theorem State.updFold_boot (s : State) (c : Nat) (f : Fold → Fold) : (s.updFold c f).boot = s.boot := rfl
@[simp] theorem State.updFold_bootPlan (s : State) (c : Nat) (f : Fold → Fold) : (s.updFold c f).bootPlan = s.bootPlan := rfl
@[simp] theorem State.updFold_retrain (s : State) (c : Nat) (f : Fold → Fold) : (s.updFold c f).retrain = s.retrain := rfl
@[simp] theorem State.updFold_imgAddr (s : State) (c : Nat) (f : Fold → Fold) : (s.updFold c f).imgAddr = s.imgAddr := rfl
@[simp] theorem State.updFold_imgLen (s : State) (c : Nat) (f : Fold → Fold) : (s.updFold c f).imgLen = s.imgLen := rfl
@[simp] theorem State.updFold_image (s : State) (c : Nat) (f : Fold → Fold) : (s.updFold c f).image = s.image := rfl
@[simp] theorem State.updFold_imgBad (s : State) (c : Nat) (f : Fold → Fold) : (s.updFold c f).imgBad = s.imgBad := rfl
@[simp] theorem State.updFold_powered (s : State) (c : Nat) (f : Fold → Fold) : (s.updFold c f).powered = s.powered := rfl
@[simp] theorem State.updFold_temps (s : State) (c : Nat) (f : Fold → Fold) : (s.updFold c f).temps = s.temps := rfl
@[simp] theorem State.updFold_therm (s : State) (c : Nat) (f : Fold → Fold) : (s.updFold c f).therm = s.therm := rfl
@[simp] theorem State.updFold_hotPend (s : State) (c : Nat) (f : Fold → Fold) : (s.updFold c f).hotPend = s.hotPend := rfl
@[simp] theorem State.updFold_ports (s : State) (c : Nat) (f : Fold → Fold) : (s.updFold c f).ports = s.ports := rfl
@[simp] theorem State.updFold_replays (s : State) (c : Nat) (f : Fold → Fold) : (s.updFold c f).replays = s.replays := rfl
@[simp] theorem State.updFold_downLinks (s : State) (c : Nat) (f : Fold → Fold) : (s.updFold c f).downLinks = s.downLinks := rfl
@[simp] theorem State.updFold_downSince (s : State) (c : Nat) (f : Fold → Fold) : (s.updFold c f).downSince = s.downSince := rfl
@[simp] theorem State.updFold_linkWaits (s : State) (c : Nat) (f : Fold → Fold) : (s.updFold c f).linkWaits = s.linkWaits := rfl
@[simp] theorem State.updFold_slots (s : State) (c : Nat) (f : Fold → Fold) : (s.updFold c f).slots = s.slots := rfl
@[simp] theorem State.updFold_t2exp (s : State) (c : Nat) (f : Fold → Fold) : (s.updFold c f).t2exp = s.t2exp := rfl
@[simp] theorem State.updFold_mem (s : State) (c : Nat) (f : Fold → Fold) : (s.updFold c f).mem = s.mem := rfl
@[simp] theorem State.updFold_ecc (s : State) (c : Nat) (f : Fold → Fold) : (s.updFold c f).ecc = s.ecc := rfl
@[simp] theorem State.updFold_eccCount (s : State) (c : Nat) (f : Fold → Fold) : (s.updFold c f).eccCount = s.eccCount := rfl
@[simp] theorem State.updFold_tlbBad (s : State) (c : Nat) (f : Fold → Fold) : (s.updFold c f).tlbBad = s.tlbBad := rfl
@[simp] theorem State.updFold_lineBad (s : State) (c : Nat) (f : Fold → Fold) : (s.updFold c f).lineBad = s.lineBad := rfl
@[simp] theorem State.updFold_flips (s : State) (c : Nat) (f : Fold → Fold) : (s.updFold c f).flips = s.flips := rfl
@[simp] theorem State.updFold_msix (s : State) (c : Nat) (f : Fold → Fold) : (s.updFold c f).msix = s.msix := rfl
@[simp] theorem State.updFold_spdm (s : State) (c : Nat) (f : Fold → Fold) : (s.updFold c f).spdm = s.spdm := rfl
@[simp] theorem State.updFold_mgmtLog (s : State) (c : Nat) (f : Fold → Fold) : (s.updFold c f).mgmtLog = s.mgmtLog := rfl
@[simp] theorem State.updFold_parts (s : State) (c : Nat) (f : Fold → Fold) : (s.updFold c f).parts = s.parts := rfl
@[simp] theorem State.updFold_cores (s : State) (c : Nat) (f : Fold → Fold) : (s.updFold c f).cores = s.cores := rfl
@[simp] theorem State.updFold_agenda (s : State) (c : Nat) (f : Fold → Fold) : (s.updFold c f).agenda = s.agenda := rfl
@[simp] theorem State.updFold_issued (s : State) (c : Nat) (f : Fold → Fold) : (s.updFold c f).issued = s.issued := rfl
@[simp] theorem State.updFold_cur (s : State) (c : Nat) (f : Fold → Fold) : (s.updFold c f).cur = s.cur := rfl
@[simp] theorem State.updFold_issue (s : State) (c : Nat) (f : Fold → Fold) : (s.updFold c f).issue = s.issue := rfl
@[simp] theorem State.updFold_latch (s : State) (c : Nat) (f : Fold → Fold) : (s.updFold c f).latch = s.latch := rfl
@[simp] theorem State.updFold_freeCtr (s : State) (c : Nat) (f : Fold → Fold) : (s.updFold c f).freeCtr = s.freeCtr := rfl

/-! ## State.setPart -/

@[simp] theorem State.setPart_clk (s : State) (c : Nat) (v : Part) : (s.setPart c v).clk = s.clk := rfl
@[simp] theorem State.setPart_ringStart (s : State) (c : Nat) (v : Part) : (s.setPart c v).ringStart = s.ringStart := rfl
@[simp] theorem State.setPart_layout (s : State) (c : Nat) (v : Part) : (s.setPart c v).layout = s.layout := rfl
@[simp] theorem State.setPart_busy (s : State) (c : Nat) (v : Part) : (s.setPart c v).busy = s.busy := rfl
@[simp] theorem State.setPart_nv (s : State) (c : Nat) (v : Part) : (s.setPart c v).nv = s.nv := rfl
@[simp] theorem State.setPart_boot (s : State) (c : Nat) (v : Part) : (s.setPart c v).boot = s.boot := rfl
@[simp] theorem State.setPart_bootPlan (s : State) (c : Nat) (v : Part) : (s.setPart c v).bootPlan = s.bootPlan := rfl
@[simp] theorem State.setPart_retrain (s : State) (c : Nat) (v : Part) : (s.setPart c v).retrain = s.retrain := rfl
@[simp] theorem State.setPart_imgAddr (s : State) (c : Nat) (v : Part) : (s.setPart c v).imgAddr = s.imgAddr := rfl
@[simp] theorem State.setPart_imgLen (s : State) (c : Nat) (v : Part) : (s.setPart c v).imgLen = s.imgLen := rfl
@[simp] theorem State.setPart_image (s : State) (c : Nat) (v : Part) : (s.setPart c v).image = s.image := rfl
@[simp] theorem State.setPart_imgBad (s : State) (c : Nat) (v : Part) : (s.setPart c v).imgBad = s.imgBad := rfl
@[simp] theorem State.setPart_powered (s : State) (c : Nat) (v : Part) : (s.setPart c v).powered = s.powered := rfl
@[simp] theorem State.setPart_temps (s : State) (c : Nat) (v : Part) : (s.setPart c v).temps = s.temps := rfl
@[simp] theorem State.setPart_therm (s : State) (c : Nat) (v : Part) : (s.setPart c v).therm = s.therm := rfl
@[simp] theorem State.setPart_hotPend (s : State) (c : Nat) (v : Part) : (s.setPart c v).hotPend = s.hotPend := rfl
@[simp] theorem State.setPart_ports (s : State) (c : Nat) (v : Part) : (s.setPart c v).ports = s.ports := rfl
@[simp] theorem State.setPart_replays (s : State) (c : Nat) (v : Part) : (s.setPart c v).replays = s.replays := rfl
@[simp] theorem State.setPart_downLinks (s : State) (c : Nat) (v : Part) : (s.setPart c v).downLinks = s.downLinks := rfl
@[simp] theorem State.setPart_downSince (s : State) (c : Nat) (v : Part) : (s.setPart c v).downSince = s.downSince := rfl
@[simp] theorem State.setPart_linkWaits (s : State) (c : Nat) (v : Part) : (s.setPart c v).linkWaits = s.linkWaits := rfl
@[simp] theorem State.setPart_slots (s : State) (c : Nat) (v : Part) : (s.setPart c v).slots = s.slots := rfl
@[simp] theorem State.setPart_t2exp (s : State) (c : Nat) (v : Part) : (s.setPart c v).t2exp = s.t2exp := rfl
@[simp] theorem State.setPart_mem (s : State) (c : Nat) (v : Part) : (s.setPart c v).mem = s.mem := rfl
@[simp] theorem State.setPart_ecc (s : State) (c : Nat) (v : Part) : (s.setPart c v).ecc = s.ecc := rfl
@[simp] theorem State.setPart_eccCount (s : State) (c : Nat) (v : Part) : (s.setPart c v).eccCount = s.eccCount := rfl
@[simp] theorem State.setPart_tlbBad (s : State) (c : Nat) (v : Part) : (s.setPart c v).tlbBad = s.tlbBad := rfl
@[simp] theorem State.setPart_lineBad (s : State) (c : Nat) (v : Part) : (s.setPart c v).lineBad = s.lineBad := rfl
@[simp] theorem State.setPart_flips (s : State) (c : Nat) (v : Part) : (s.setPart c v).flips = s.flips := rfl
@[simp] theorem State.setPart_msix (s : State) (c : Nat) (v : Part) : (s.setPart c v).msix = s.msix := rfl
@[simp] theorem State.setPart_spdm (s : State) (c : Nat) (v : Part) : (s.setPart c v).spdm = s.spdm := rfl
@[simp] theorem State.setPart_mgmtLog (s : State) (c : Nat) (v : Part) : (s.setPart c v).mgmtLog = s.mgmtLog := rfl
@[simp] theorem State.setPart_folds (s : State) (c : Nat) (v : Part) : (s.setPart c v).folds = s.folds := rfl
@[simp] theorem State.setPart_cores (s : State) (c : Nat) (v : Part) : (s.setPart c v).cores = s.cores := rfl
@[simp] theorem State.setPart_agenda (s : State) (c : Nat) (v : Part) : (s.setPart c v).agenda = s.agenda := rfl
@[simp] theorem State.setPart_issued (s : State) (c : Nat) (v : Part) : (s.setPart c v).issued = s.issued := rfl
@[simp] theorem State.setPart_cur (s : State) (c : Nat) (v : Part) : (s.setPart c v).cur = s.cur := rfl
@[simp] theorem State.setPart_issue (s : State) (c : Nat) (v : Part) : (s.setPart c v).issue = s.issue := rfl
@[simp] theorem State.setPart_latch (s : State) (c : Nat) (v : Part) : (s.setPart c v).latch = s.latch := rfl
@[simp] theorem State.setPart_freeCtr (s : State) (c : Nat) (v : Part) : (s.setPart c v).freeCtr = s.freeCtr := rfl

/-! ## State.updPart -/

@[simp] theorem State.updPart_clk (s : State) (c : Nat) (f : Part → Part) : (s.updPart c f).clk = s.clk := rfl
@[simp] theorem State.updPart_ringStart (s : State) (c : Nat) (f : Part → Part) : (s.updPart c f).ringStart = s.ringStart := rfl
@[simp] theorem State.updPart_layout (s : State) (c : Nat) (f : Part → Part) : (s.updPart c f).layout = s.layout := rfl
@[simp] theorem State.updPart_busy (s : State) (c : Nat) (f : Part → Part) : (s.updPart c f).busy = s.busy := rfl
@[simp] theorem State.updPart_nv (s : State) (c : Nat) (f : Part → Part) : (s.updPart c f).nv = s.nv := rfl
@[simp] theorem State.updPart_boot (s : State) (c : Nat) (f : Part → Part) : (s.updPart c f).boot = s.boot := rfl
@[simp] theorem State.updPart_bootPlan (s : State) (c : Nat) (f : Part → Part) : (s.updPart c f).bootPlan = s.bootPlan := rfl
@[simp] theorem State.updPart_retrain (s : State) (c : Nat) (f : Part → Part) : (s.updPart c f).retrain = s.retrain := rfl
@[simp] theorem State.updPart_imgAddr (s : State) (c : Nat) (f : Part → Part) : (s.updPart c f).imgAddr = s.imgAddr := rfl
@[simp] theorem State.updPart_imgLen (s : State) (c : Nat) (f : Part → Part) : (s.updPart c f).imgLen = s.imgLen := rfl
@[simp] theorem State.updPart_image (s : State) (c : Nat) (f : Part → Part) : (s.updPart c f).image = s.image := rfl
@[simp] theorem State.updPart_imgBad (s : State) (c : Nat) (f : Part → Part) : (s.updPart c f).imgBad = s.imgBad := rfl
@[simp] theorem State.updPart_powered (s : State) (c : Nat) (f : Part → Part) : (s.updPart c f).powered = s.powered := rfl
@[simp] theorem State.updPart_temps (s : State) (c : Nat) (f : Part → Part) : (s.updPart c f).temps = s.temps := rfl
@[simp] theorem State.updPart_therm (s : State) (c : Nat) (f : Part → Part) : (s.updPart c f).therm = s.therm := rfl
@[simp] theorem State.updPart_hotPend (s : State) (c : Nat) (f : Part → Part) : (s.updPart c f).hotPend = s.hotPend := rfl
@[simp] theorem State.updPart_ports (s : State) (c : Nat) (f : Part → Part) : (s.updPart c f).ports = s.ports := rfl
@[simp] theorem State.updPart_replays (s : State) (c : Nat) (f : Part → Part) : (s.updPart c f).replays = s.replays := rfl
@[simp] theorem State.updPart_downLinks (s : State) (c : Nat) (f : Part → Part) : (s.updPart c f).downLinks = s.downLinks := rfl
@[simp] theorem State.updPart_downSince (s : State) (c : Nat) (f : Part → Part) : (s.updPart c f).downSince = s.downSince := rfl
@[simp] theorem State.updPart_linkWaits (s : State) (c : Nat) (f : Part → Part) : (s.updPart c f).linkWaits = s.linkWaits := rfl
@[simp] theorem State.updPart_slots (s : State) (c : Nat) (f : Part → Part) : (s.updPart c f).slots = s.slots := rfl
@[simp] theorem State.updPart_t2exp (s : State) (c : Nat) (f : Part → Part) : (s.updPart c f).t2exp = s.t2exp := rfl
@[simp] theorem State.updPart_mem (s : State) (c : Nat) (f : Part → Part) : (s.updPart c f).mem = s.mem := rfl
@[simp] theorem State.updPart_ecc (s : State) (c : Nat) (f : Part → Part) : (s.updPart c f).ecc = s.ecc := rfl
@[simp] theorem State.updPart_eccCount (s : State) (c : Nat) (f : Part → Part) : (s.updPart c f).eccCount = s.eccCount := rfl
@[simp] theorem State.updPart_tlbBad (s : State) (c : Nat) (f : Part → Part) : (s.updPart c f).tlbBad = s.tlbBad := rfl
@[simp] theorem State.updPart_lineBad (s : State) (c : Nat) (f : Part → Part) : (s.updPart c f).lineBad = s.lineBad := rfl
@[simp] theorem State.updPart_flips (s : State) (c : Nat) (f : Part → Part) : (s.updPart c f).flips = s.flips := rfl
@[simp] theorem State.updPart_msix (s : State) (c : Nat) (f : Part → Part) : (s.updPart c f).msix = s.msix := rfl
@[simp] theorem State.updPart_spdm (s : State) (c : Nat) (f : Part → Part) : (s.updPart c f).spdm = s.spdm := rfl
@[simp] theorem State.updPart_mgmtLog (s : State) (c : Nat) (f : Part → Part) : (s.updPart c f).mgmtLog = s.mgmtLog := rfl
@[simp] theorem State.updPart_folds (s : State) (c : Nat) (f : Part → Part) : (s.updPart c f).folds = s.folds := rfl
@[simp] theorem State.updPart_cores (s : State) (c : Nat) (f : Part → Part) : (s.updPart c f).cores = s.cores := rfl
@[simp] theorem State.updPart_agenda (s : State) (c : Nat) (f : Part → Part) : (s.updPart c f).agenda = s.agenda := rfl
@[simp] theorem State.updPart_issued (s : State) (c : Nat) (f : Part → Part) : (s.updPart c f).issued = s.issued := rfl
@[simp] theorem State.updPart_cur (s : State) (c : Nat) (f : Part → Part) : (s.updPart c f).cur = s.cur := rfl
@[simp] theorem State.updPart_issue (s : State) (c : Nat) (f : Part → Part) : (s.updPart c f).issue = s.issue := rfl
@[simp] theorem State.updPart_latch (s : State) (c : Nat) (f : Part → Part) : (s.updPart c f).latch = s.latch := rfl
@[simp] theorem State.updPart_freeCtr (s : State) (c : Nat) (f : Part → Part) : (s.updPart c f).freeCtr = s.freeCtr := rfl

/-! ## State.setByte -/

@[simp] theorem State.setByte_clk (s : State) (k : Nat) (b : Byte) : (s.setByte k b).clk = s.clk := rfl
@[simp] theorem State.setByte_ringStart (s : State) (k : Nat) (b : Byte) : (s.setByte k b).ringStart = s.ringStart := rfl
@[simp] theorem State.setByte_layout (s : State) (k : Nat) (b : Byte) : (s.setByte k b).layout = s.layout := rfl
@[simp] theorem State.setByte_busy (s : State) (k : Nat) (b : Byte) : (s.setByte k b).busy = s.busy := rfl
@[simp] theorem State.setByte_nv (s : State) (k : Nat) (b : Byte) : (s.setByte k b).nv = s.nv := rfl
@[simp] theorem State.setByte_boot (s : State) (k : Nat) (b : Byte) : (s.setByte k b).boot = s.boot := rfl
@[simp] theorem State.setByte_bootPlan (s : State) (k : Nat) (b : Byte) : (s.setByte k b).bootPlan = s.bootPlan := rfl
@[simp] theorem State.setByte_retrain (s : State) (k : Nat) (b : Byte) : (s.setByte k b).retrain = s.retrain := rfl
@[simp] theorem State.setByte_imgAddr (s : State) (k : Nat) (b : Byte) : (s.setByte k b).imgAddr = s.imgAddr := rfl
@[simp] theorem State.setByte_imgLen (s : State) (k : Nat) (b : Byte) : (s.setByte k b).imgLen = s.imgLen := rfl
@[simp] theorem State.setByte_image (s : State) (k : Nat) (b : Byte) : (s.setByte k b).image = s.image := rfl
@[simp] theorem State.setByte_imgBad (s : State) (k : Nat) (b : Byte) : (s.setByte k b).imgBad = s.imgBad := rfl
@[simp] theorem State.setByte_powered (s : State) (k : Nat) (b : Byte) : (s.setByte k b).powered = s.powered := rfl
@[simp] theorem State.setByte_temps (s : State) (k : Nat) (b : Byte) : (s.setByte k b).temps = s.temps := rfl
@[simp] theorem State.setByte_therm (s : State) (k : Nat) (b : Byte) : (s.setByte k b).therm = s.therm := rfl
@[simp] theorem State.setByte_hotPend (s : State) (k : Nat) (b : Byte) : (s.setByte k b).hotPend = s.hotPend := rfl
@[simp] theorem State.setByte_ports (s : State) (k : Nat) (b : Byte) : (s.setByte k b).ports = s.ports := rfl
@[simp] theorem State.setByte_replays (s : State) (k : Nat) (b : Byte) : (s.setByte k b).replays = s.replays := rfl
@[simp] theorem State.setByte_downLinks (s : State) (k : Nat) (b : Byte) : (s.setByte k b).downLinks = s.downLinks := rfl
@[simp] theorem State.setByte_downSince (s : State) (k : Nat) (b : Byte) : (s.setByte k b).downSince = s.downSince := rfl
@[simp] theorem State.setByte_linkWaits (s : State) (k : Nat) (b : Byte) : (s.setByte k b).linkWaits = s.linkWaits := rfl
@[simp] theorem State.setByte_slots (s : State) (k : Nat) (b : Byte) : (s.setByte k b).slots = s.slots := rfl
@[simp] theorem State.setByte_t2exp (s : State) (k : Nat) (b : Byte) : (s.setByte k b).t2exp = s.t2exp := rfl
@[simp] theorem State.setByte_eccCount (s : State) (k : Nat) (b : Byte) : (s.setByte k b).eccCount = s.eccCount := rfl
@[simp] theorem State.setByte_tlbBad (s : State) (k : Nat) (b : Byte) : (s.setByte k b).tlbBad = s.tlbBad := rfl
@[simp] theorem State.setByte_lineBad (s : State) (k : Nat) (b : Byte) : (s.setByte k b).lineBad = s.lineBad := rfl
@[simp] theorem State.setByte_flips (s : State) (k : Nat) (b : Byte) : (s.setByte k b).flips = s.flips := rfl
@[simp] theorem State.setByte_msix (s : State) (k : Nat) (b : Byte) : (s.setByte k b).msix = s.msix := rfl
@[simp] theorem State.setByte_spdm (s : State) (k : Nat) (b : Byte) : (s.setByte k b).spdm = s.spdm := rfl
@[simp] theorem State.setByte_mgmtLog (s : State) (k : Nat) (b : Byte) : (s.setByte k b).mgmtLog = s.mgmtLog := rfl
@[simp] theorem State.setByte_parts (s : State) (k : Nat) (b : Byte) : (s.setByte k b).parts = s.parts := rfl
@[simp] theorem State.setByte_folds (s : State) (k : Nat) (b : Byte) : (s.setByte k b).folds = s.folds := rfl
@[simp] theorem State.setByte_cores (s : State) (k : Nat) (b : Byte) : (s.setByte k b).cores = s.cores := rfl
@[simp] theorem State.setByte_agenda (s : State) (k : Nat) (b : Byte) : (s.setByte k b).agenda = s.agenda := rfl
@[simp] theorem State.setByte_issued (s : State) (k : Nat) (b : Byte) : (s.setByte k b).issued = s.issued := rfl
@[simp] theorem State.setByte_cur (s : State) (k : Nat) (b : Byte) : (s.setByte k b).cur = s.cur := rfl
@[simp] theorem State.setByte_issue (s : State) (k : Nat) (b : Byte) : (s.setByte k b).issue = s.issue := rfl
@[simp] theorem State.setByte_latch (s : State) (k : Nat) (b : Byte) : (s.setByte k b).latch = s.latch := rfl
@[simp] theorem State.setByte_freeCtr (s : State) (k : Nat) (b : Byte) : (s.setByte k b).freeCtr = s.freeCtr := rfl

/-! ## State.setMe -/

@[simp] theorem State.setMe_clk (s : State) (v : Core) : (s.setMe v).clk = s.clk := rfl
@[simp] theorem State.setMe_ringStart (s : State) (v : Core) : (s.setMe v).ringStart = s.ringStart := rfl
@[simp] theorem State.setMe_layout (s : State) (v : Core) : (s.setMe v).layout = s.layout := rfl
@[simp] theorem State.setMe_busy (s : State) (v : Core) : (s.setMe v).busy = s.busy := rfl
@[simp] theorem State.setMe_nv (s : State) (v : Core) : (s.setMe v).nv = s.nv := rfl
@[simp] theorem State.setMe_boot (s : State) (v : Core) : (s.setMe v).boot = s.boot := rfl
@[simp] theorem State.setMe_bootPlan (s : State) (v : Core) : (s.setMe v).bootPlan = s.bootPlan := rfl
@[simp] theorem State.setMe_retrain (s : State) (v : Core) : (s.setMe v).retrain = s.retrain := rfl
@[simp] theorem State.setMe_imgAddr (s : State) (v : Core) : (s.setMe v).imgAddr = s.imgAddr := rfl
@[simp] theorem State.setMe_imgLen (s : State) (v : Core) : (s.setMe v).imgLen = s.imgLen := rfl
@[simp] theorem State.setMe_image (s : State) (v : Core) : (s.setMe v).image = s.image := rfl
@[simp] theorem State.setMe_imgBad (s : State) (v : Core) : (s.setMe v).imgBad = s.imgBad := rfl
@[simp] theorem State.setMe_powered (s : State) (v : Core) : (s.setMe v).powered = s.powered := rfl
@[simp] theorem State.setMe_temps (s : State) (v : Core) : (s.setMe v).temps = s.temps := rfl
@[simp] theorem State.setMe_therm (s : State) (v : Core) : (s.setMe v).therm = s.therm := rfl
@[simp] theorem State.setMe_hotPend (s : State) (v : Core) : (s.setMe v).hotPend = s.hotPend := rfl
@[simp] theorem State.setMe_ports (s : State) (v : Core) : (s.setMe v).ports = s.ports := rfl
@[simp] theorem State.setMe_replays (s : State) (v : Core) : (s.setMe v).replays = s.replays := rfl
@[simp] theorem State.setMe_downLinks (s : State) (v : Core) : (s.setMe v).downLinks = s.downLinks := rfl
@[simp] theorem State.setMe_downSince (s : State) (v : Core) : (s.setMe v).downSince = s.downSince := rfl
@[simp] theorem State.setMe_linkWaits (s : State) (v : Core) : (s.setMe v).linkWaits = s.linkWaits := rfl
@[simp] theorem State.setMe_slots (s : State) (v : Core) : (s.setMe v).slots = s.slots := rfl
@[simp] theorem State.setMe_t2exp (s : State) (v : Core) : (s.setMe v).t2exp = s.t2exp := rfl
@[simp] theorem State.setMe_mem (s : State) (v : Core) : (s.setMe v).mem = s.mem := rfl
@[simp] theorem State.setMe_ecc (s : State) (v : Core) : (s.setMe v).ecc = s.ecc := rfl
@[simp] theorem State.setMe_eccCount (s : State) (v : Core) : (s.setMe v).eccCount = s.eccCount := rfl
@[simp] theorem State.setMe_tlbBad (s : State) (v : Core) : (s.setMe v).tlbBad = s.tlbBad := rfl
@[simp] theorem State.setMe_lineBad (s : State) (v : Core) : (s.setMe v).lineBad = s.lineBad := rfl
@[simp] theorem State.setMe_flips (s : State) (v : Core) : (s.setMe v).flips = s.flips := rfl
@[simp] theorem State.setMe_msix (s : State) (v : Core) : (s.setMe v).msix = s.msix := rfl
@[simp] theorem State.setMe_spdm (s : State) (v : Core) : (s.setMe v).spdm = s.spdm := rfl
@[simp] theorem State.setMe_mgmtLog (s : State) (v : Core) : (s.setMe v).mgmtLog = s.mgmtLog := rfl
@[simp] theorem State.setMe_parts (s : State) (v : Core) : (s.setMe v).parts = s.parts := rfl
@[simp] theorem State.setMe_folds (s : State) (v : Core) : (s.setMe v).folds = s.folds := rfl
@[simp] theorem State.setMe_agenda (s : State) (v : Core) : (s.setMe v).agenda = s.agenda := rfl
@[simp] theorem State.setMe_issued (s : State) (v : Core) : (s.setMe v).issued = s.issued := rfl
@[simp] theorem State.setMe_cur (s : State) (v : Core) : (s.setMe v).cur = s.cur := rfl
@[simp] theorem State.setMe_issue (s : State) (v : Core) : (s.setMe v).issue = s.issue := rfl
@[simp] theorem State.setMe_latch (s : State) (v : Core) : (s.setMe v).latch = s.latch := rfl
@[simp] theorem State.setMe_freeCtr (s : State) (v : Core) : (s.setMe v).freeCtr = s.freeCtr := rfl

/-! ## State.updMe -/

@[simp] theorem State.updMe_clk (s : State) (f : Core → Core) : (s.updMe f).clk = s.clk := rfl
@[simp] theorem State.updMe_ringStart (s : State) (f : Core → Core) : (s.updMe f).ringStart = s.ringStart := rfl
@[simp] theorem State.updMe_layout (s : State) (f : Core → Core) : (s.updMe f).layout = s.layout := rfl
@[simp] theorem State.updMe_busy (s : State) (f : Core → Core) : (s.updMe f).busy = s.busy := rfl
@[simp] theorem State.updMe_nv (s : State) (f : Core → Core) : (s.updMe f).nv = s.nv := rfl
@[simp] theorem State.updMe_boot (s : State) (f : Core → Core) : (s.updMe f).boot = s.boot := rfl
@[simp] theorem State.updMe_bootPlan (s : State) (f : Core → Core) : (s.updMe f).bootPlan = s.bootPlan := rfl
@[simp] theorem State.updMe_retrain (s : State) (f : Core → Core) : (s.updMe f).retrain = s.retrain := rfl
@[simp] theorem State.updMe_imgAddr (s : State) (f : Core → Core) : (s.updMe f).imgAddr = s.imgAddr := rfl
@[simp] theorem State.updMe_imgLen (s : State) (f : Core → Core) : (s.updMe f).imgLen = s.imgLen := rfl
@[simp] theorem State.updMe_image (s : State) (f : Core → Core) : (s.updMe f).image = s.image := rfl
@[simp] theorem State.updMe_imgBad (s : State) (f : Core → Core) : (s.updMe f).imgBad = s.imgBad := rfl
@[simp] theorem State.updMe_powered (s : State) (f : Core → Core) : (s.updMe f).powered = s.powered := rfl
@[simp] theorem State.updMe_temps (s : State) (f : Core → Core) : (s.updMe f).temps = s.temps := rfl
@[simp] theorem State.updMe_therm (s : State) (f : Core → Core) : (s.updMe f).therm = s.therm := rfl
@[simp] theorem State.updMe_hotPend (s : State) (f : Core → Core) : (s.updMe f).hotPend = s.hotPend := rfl
@[simp] theorem State.updMe_ports (s : State) (f : Core → Core) : (s.updMe f).ports = s.ports := rfl
@[simp] theorem State.updMe_replays (s : State) (f : Core → Core) : (s.updMe f).replays = s.replays := rfl
@[simp] theorem State.updMe_downLinks (s : State) (f : Core → Core) : (s.updMe f).downLinks = s.downLinks := rfl
@[simp] theorem State.updMe_downSince (s : State) (f : Core → Core) : (s.updMe f).downSince = s.downSince := rfl
@[simp] theorem State.updMe_linkWaits (s : State) (f : Core → Core) : (s.updMe f).linkWaits = s.linkWaits := rfl
@[simp] theorem State.updMe_slots (s : State) (f : Core → Core) : (s.updMe f).slots = s.slots := rfl
@[simp] theorem State.updMe_t2exp (s : State) (f : Core → Core) : (s.updMe f).t2exp = s.t2exp := rfl
@[simp] theorem State.updMe_mem (s : State) (f : Core → Core) : (s.updMe f).mem = s.mem := rfl
@[simp] theorem State.updMe_ecc (s : State) (f : Core → Core) : (s.updMe f).ecc = s.ecc := rfl
@[simp] theorem State.updMe_eccCount (s : State) (f : Core → Core) : (s.updMe f).eccCount = s.eccCount := rfl
@[simp] theorem State.updMe_tlbBad (s : State) (f : Core → Core) : (s.updMe f).tlbBad = s.tlbBad := rfl
@[simp] theorem State.updMe_lineBad (s : State) (f : Core → Core) : (s.updMe f).lineBad = s.lineBad := rfl
@[simp] theorem State.updMe_flips (s : State) (f : Core → Core) : (s.updMe f).flips = s.flips := rfl
@[simp] theorem State.updMe_msix (s : State) (f : Core → Core) : (s.updMe f).msix = s.msix := rfl
@[simp] theorem State.updMe_spdm (s : State) (f : Core → Core) : (s.updMe f).spdm = s.spdm := rfl
@[simp] theorem State.updMe_mgmtLog (s : State) (f : Core → Core) : (s.updMe f).mgmtLog = s.mgmtLog := rfl
@[simp] theorem State.updMe_parts (s : State) (f : Core → Core) : (s.updMe f).parts = s.parts := rfl
@[simp] theorem State.updMe_folds (s : State) (f : Core → Core) : (s.updMe f).folds = s.folds := rfl
@[simp] theorem State.updMe_agenda (s : State) (f : Core → Core) : (s.updMe f).agenda = s.agenda := rfl
@[simp] theorem State.updMe_issued (s : State) (f : Core → Core) : (s.updMe f).issued = s.issued := rfl
@[simp] theorem State.updMe_cur (s : State) (f : Core → Core) : (s.updMe f).cur = s.cur := rfl
@[simp] theorem State.updMe_issue (s : State) (f : Core → Core) : (s.updMe f).issue = s.issue := rfl
@[simp] theorem State.updMe_latch (s : State) (f : Core → Core) : (s.updMe f).latch = s.latch := rfl
@[simp] theorem State.updMe_freeCtr (s : State) (f : Core → Core) : (s.updMe f).freeCtr = s.freeCtr := rfl

/-! ## What an update writes -/

@[simp] theorem State.core_setCore (s : State) (c : Nat) (v : Core) : (s.setCore c v).core c = v := by
  simp [State.core, State.setCore]

theorem State.core_setCore_other (s : State) (c d : Nat) (v : Core) (h : d ≠ c) : (s.setCore c v).core d = s.core d := by
  simp [State.core, State.setCore, mget_mput_other _ _ _ _ _ h]

@[simp] theorem State.fold_setFold (s : State) (f : Nat) (v : Fold) : (s.setFold f v).fold f = v := by
  simp [State.fold, State.setFold]

@[simp] theorem State.part_setPart (s : State) (p : Nat) (v : Part) : (s.setPart p v).part p = v := by
  simp [State.part, State.setPart]

@[simp] theorem State.me_setMe (s : State) (v : Core) : (s.setMe v).me = v := by
  simp [State.me, State.setMe]

@[simp] theorem Core.setCtl_occ (k : Core) (n : Nat) (v : Word) : (k.setCtl n v).occ = k.occ := rfl
@[simp] theorem Core.setCtl_g (k : Core) (n : Nat) (v : Word) : (k.setCtl n v).r.g = k.r.g := rfl
@[simp] theorem Core.setCtl_pc (k : Core) (n : Nat) (v : Word) : (k.setCtl n v).r.pc = k.r.pc := rfl
@[simp] theorem Core.setCtl_npc (k : Core) (n : Nat) (v : Word) : (k.setCtl n v).r.npc = k.r.npc := rfl
@[simp] theorem Core.setCtl_vl (k : Core) (n : Nat) (v : Word) : (k.setCtl n v).r.vl = k.r.vl := rfl
@[simp] theorem Core.setCtl_v (k : Core) (n : Nat) (v : Word) : (k.setCtl n v).r.v = k.r.v := rfl
@[simp] theorem Core.setCtl_seqr (k : Core) (n : Nat) (v : Word) : (k.setCtl n v).seqr = k.seqr := rfl
@[simp] theorem Core.setCtl_stores (k : Core) (n : Nat) (v : Word) : (k.setCtl n v).stores = k.stores := rfl
@[simp] theorem Core.setCtl_queues (k : Core) (n : Nat) (v : Word) : (k.setCtl n v).queues = k.queues := rfl

end Sys2Proof.Machine
end

