-- ==== Sys2Proof/Laws/Memory.lean ====
section
/-! SUPPORT. Memory: reads after writes, and that every memory operation keeps the canonical form (log 6). -/

namespace Sys2Proof.Machine

/-- The canonical form, as its two halves. -/
theorem Memory.wf_iff (m : List Host.Cell) :
    Memory.wf m = true ↔ msorted m = true ∧ ∀ c ∈ m, c.2 ≠ unlisted c.1 := by
  simp [Memory.wf, List.all_eq_true]

theorem mem_mput {α : Type} (m : SMap α) (k : Nat) (v : α) (x : Nat × α) (h : x ∈ mput m k v) : x = (k, v) ∨ x ∈ m := by
  induction m with
  | nil => simpa [mput] using h
  | cons y m ih =>
    obtain ⟨j, u⟩ := y
    simp only [mput] at h
    split at h
    · simpa using h
    · split at h
      · rcases List.mem_cons.mp h with h | h
        · exact .inl h
        · exact .inr (List.mem_cons_of_mem _ h)
      · rcases List.mem_cons.mp h with h | h
        · exact .inr (by simp [h])
        · rcases ih h with h | h
          · exact .inl h
          · exact .inr (List.mem_cons_of_mem _ h)

/-- Storing a byte keeps a memory canonical. -/
theorem Memory.wf_mset (m : List Host.Cell) (k : Nat) (b : Byte) (h : Memory.wf m = true) :
    Memory.wf (mset (unlisted k) m k b) = true := by
  rw [Memory.wf_iff] at h ⊢
  refine ⟨msorted_mset _ _ _ _ h.1, fun c hc => ?_⟩
  unfold mset at hc
  split at hc
  · exact h.2 c (mem_mdel _ _ _ hc)
  · rename_i hb
    rcases mem_mput _ _ _ _ hc with rfl | hc
    · exact hb
    · exact h.2 c hc

theorem State.setByte_wf (s : State) (k : Nat) (b : Byte) (h : Memory.wf s.mem = true) : Memory.wf (s.setByte k b).mem = true :=
  Memory.wf_mset s.mem k b h

theorem State.setBytes_wf (bs : List Byte) (s : State) (k : Nat) (h : Memory.wf s.mem = true) :
    Memory.wf (s.setBytes k bs).mem = true := by
  induction bs generalizing s k with
  | nil => exact h
  | cons b bs ih => exact ih _ _ (State.setByte_wf s k b h)

/-- A byte read after it was written. -/
theorem State.byte_setByte (s : State) (k : Nat) (b : Byte) : (s.setByte k b).byte k = b := mget_mset_same _ _ _ _

/-- A write leaves every other byte. -/
theorem State.byte_setByte_other (s : State) (k j : Nat) (b : Byte) (h : j ≠ k) : (s.setByte k b).byte j = s.byte j := by
  simp [State.byte, State.setByte, mget, mset]
  split
  · rw [mfind_mdel_other _ _ _ h]
  · rw [mfind_mput_other _ _ _ _ h]

/-- Writing bytes leaves every byte outside them. -/
theorem State.byte_setBytes_outside (bs : List Byte) (s : State) (k j : Nat) (h : j < k ∨ k + bs.length ≤ j) :
    (s.setBytes k bs).byte j = s.byte j := by
  induction bs generalizing s k with
  | nil => rfl
  | cons b bs ih =>
    simp only [List.length_cons] at h
    rw [State.setBytes, ih _ _ (by omega), State.byte_setByte_other _ _ _ _ (by omega)]

/-- The fields of State that writing bytes leaves alone. -/
theorem State.setBytes_frame (bs : List Byte) (s : State) (k : Nat) :
    (s.setBytes k bs).cores = s.cores ∧ (s.setBytes k bs).folds = s.folds ∧ (s.setBytes k bs).parts = s.parts ∧
    (s.setBytes k bs).cur = s.cur ∧ (s.setBytes k bs).clk = s.clk ∧ (s.setBytes k bs).slots = s.slots ∧
    (s.setBytes k bs).layout = s.layout ∧ (s.setBytes k bs).nv = s.nv ∧ (s.setBytes k bs).latch = s.latch := by
  induction bs generalizing s k with
  | nil => simp [State.setBytes]
  | cons b bs ih => simpa [State.setBytes] using ih (s.setByte k b) (k + 1)

/-- journalLine touches no memory. -/
theorem journalLine_mem (s : State) (c off : Nat) : (journalLine s c off).mem = s.mem := by
  unfold journalLine
  simp only
  split <;> rfl

theorem setLocalByte_wf (s : State) (c off : Nat) (b : Byte) (h : Memory.wf s.mem = true) :
    Memory.wf (setLocalByte s c off b).mem = true := by
  have hj : Memory.wf (journalLine s c off).mem = true := by rw [journalLine_mem]; exact h
  unfold setLocalByte
  refine State.setByte_wf _ _ _ ?_
  split
  · exact hj
  · simpa using State.setBytes_wf _ _ _ hj

theorem setLocal_wf (bs : List Byte) (s : State) (c off : Nat) (h : Memory.wf s.mem = true) :
    Memory.wf (setLocal s c off bs).mem = true := by
  induction bs generalizing s off with
  | nil => exact h
  | cons b bs ih => exact ih _ _ (setLocalByte_wf s c off b h)

theorem writeKey_wf (s : State) (k : Nat) (b : Byte) (h : Memory.wf s.mem = true) : Memory.wf (writeKey s k b).mem = true := by
  unfold writeKey
  split
  · exact setLocalByte_wf _ _ _ _ h
  · exact State.setByte_wf _ _ _ h

theorem writeRange_wf (bs : List Byte) (s : State) (c : Nat) (tr : SMap Nat) (v : Nat) (h : Memory.wf s.mem = true) :
    Memory.wf (writeRange s c tr v bs).mem = true := by
  induction bs generalizing s v with
  | nil => exact h
  | cons b bs ih =>
    refine ih _ _ ?_
    split
    · exact writeKey_wf _ _ _ h
    · exact h

theorem invalidate_mem (s : State) (c off n : Nat) : (invalidate s c off n).mem = s.mem := by
  unfold invalidate
  generalize List.range (n / 4) = l
  induction l generalizing s with
  | nil => rfl
  | cons i l ih => rw [List.foldl_cons, ih]; simp [journalLine_mem]

/-- Memory after reset is canonical. -/
theorem reset_mem_wf : Memory.wf State.reset.mem = true := rfl

end Sys2Proof.Machine
end

