-- ==== Sys2Proof/Laws/Ops.lean ====
section
/-! SUPPORT. What the shared operations of the meanings do, each said once: how an attempt is answered, register operands that are plain,
register writes, and events. -/

namespace Sys2Proof.Machine

/-! ## Answers -/

@[simp] theorem settle_ok (s t : State) : settle s (.ok t) = .next { t with issue := .done } := rfl
@[simp] theorem settle_hold (s : State) : settle s (.error .hold) = .next { s with issue := .held } := rfl
@[simp] theorem settle_stall (s t : State) : settle s (.error (.stall t)) = .next { t with issue := .stalled } := rfl
@[simp] theorem settle_trap (s : State) (t : Trap) : settle s (.error (.trap t)) = .next (takeTrap s t s.latch.isSome) := rfl

/-- An attempt always answers a next state. -/
theorem settle_next (s : State) (r : Res State) : ∃ t, settle s r = .next t := by
  rcases r with (_ | _ | _) | _ <;> exact ⟨_, rfl⟩

@[simp] theorem event_due (s t : State) : event s true t = .next { t with issue := .done } := rfl
@[simp] theorem event_waits (s t : State) : event s false t = .next { s with issue := .held } := rfl

/-- An event always answers a next state. -/
theorem event_next (s t : State) (b : Bool) : ∃ u, event s b t = .next u := by
  cases b <;> exact ⟨_, rfl⟩

/-! ## Checks -/

@[simp] theorem need_true (e : Stop) : need true e = .ok () := rfl
@[simp] theorem need_false (e : Stop) : need false e = .error e := rfl
@[simp] theorem ok_bind {α β : Type} (a : α) (f : α → Res β) : ((.ok a : Res α) >>= f) = f a := rfl
@[simp] theorem error_bind {α β : Type} (e : Stop) (f : α → Res β) : ((.error e : Res α) >>= f) = .error e := rfl
@[simp] theorem map_ok {α β : Type} (a : α) (f : α → β) : (Except.map f (.ok a : Res α)) = .ok (f a) := rfl

/-! ## Register operands -/

theorem Ready.pending {s : State} {srcs dests : List Nat} (h : Ready s srcs dests) :
    (srcs ++ dests).any (fun r => s.pre.pending r) = false := by
  have h1 := h.1
  simp only [plainRegs, List.all_eq_true, Bool.and_eq_true, Bool.not_eq_true'] at h1
  simp only [List.any_eq_false, Bool.not_eq_true]
  exact fun x hx => (h1 x hx).1

theorem Ready.unbound {s : State} {srcs dests : List Nat} (h : Ready s srcs dests) {r : Nat} (hr : r ∈ srcs ++ dests) :
    boundG s.pre r = none := by
  have h1 := h.1
  simp only [plainRegs, List.all_eq_true, Bool.and_eq_true, Option.isNone_iff_eq_none] at h1
  exact (h1 r hr).2

/-- No plain source pops a stream. -/
theorem srcStreams_plain {s : State} {srcs : List Nat} (h : ∀ r ∈ srcs, boundG s.pre r = none) : srcStreams s srcs = [] := by
  have e : srcs.filter (fun r => (boundG s.pre r).isSome) = [] := by
    rw [List.filter_eq_nil_iff]
    intro r hr
    simp [h r hr]
  simp [srcStreams, e]

/-- With plain registers an attempt makes its checks and starts from the state as it is. -/
theorem withLater_ready {s : State} {srcs later dests : List Nat} (chk : Res Unit) (f : Option Nat → State → Res State)
    (h : Ready s (srcs ++ later) dests) : withLater s srcs later dests chk f = chk >>= fun _ => f none s := by
  have e : srcStreams s srcs = [] := srcStreams_plain fun r hr => h.unbound (by simp [hr])
  have hf : s.pre.failedRd srcs = none := by
    have h2 := h.2
    unfold Core.failedRd at h2 ⊢
    split at h2
    · simp only [List.any_append] at h2
      split at h2
      · cases h2
      · simp_all
    · rfl
  unfold withLater
  rw [h.pending]
  simp [hf, e, popEach, pure, Except.pure]

/-- A later source that is plain is read as it is. -/
theorem popLater_ready {s : State} {srcs later dests : List Nat} (m : Option Nat) (s' : State) (h : Ready s later dests) :
    popLater s srcs later m s' = .ok (m, s') := by
  have e : srcStreams s later = [] := srcStreams_plain fun r hr => h.unbound (List.mem_append_left _ hr)
  simp [popLater, h.2, e, popEach, pure, Except.pure]

theorem withPops_ready {s : State} {srcs dests : List Nat} (chk : Res Unit) (f : Option Nat → State → Res State) (h : Ready s srcs dests) :
    withPops s srcs dests chk f = chk >>= fun _ => f none s :=
  withLater_ready chk f (by simpa using h)

/-- No word was invalid, so nothing is counted. -/
@[simp] theorem countPops_none (s : State) : countPops s none = s := rfl

theorem withChecked_ready {s : State} {srcs dests : List Nat} (chk : Res Unit) (f : State → Res State) (h : Ready s srcs dests) :
    withChecked s srcs dests chk f = chk >>= fun _ => f s := by
  simp [withChecked, withPops_ready _ _ h]

theorem withRegs_ready {s : State} {srcs dests : List Nat} (f : State → Res State) (h : Ready s srcs dests) :
    withRegs s srcs dests f = f s := by
  simp [withRegs, withChecked_ready _ _ h]

/-- A write of a plain register. -/
theorem setG_plain {s : State} {d : Nat} (v : Word) (h : boundG s.pre d = none) : setG s d v = .ok (s.wroteG d v) := by
  unfold setG State.wroteG
  split
  · rfl
  · rw [h]

@[simp] theorem setG_zero (s : State) (v : Word) : setG s 0 v = .ok s := rfl
@[simp] theorem wroteG_zero (s : State) (v : Word) : s.wroteG 0 v = s := rfl

/-- A register that is read as a plain one: g0 reads zero. -/
theorem gval_plain {s : State} {r : Nat} (h : boundG s.pre r = none) : gval s r = if r = 0 then 0 else mget 0 s.pre.r.g r := by
  unfold gval
  split <;> simp_all

theorem wroteG_frame (s : State) (d : Nat) (v : Word) : (s.wroteG d v).mem = s.mem ∧ (s.wroteG d v).parts = s.parts ∧
    (s.wroteG d v).folds = s.folds ∧ (s.wroteG d v).clk = s.clk := by
  unfold State.wroteG
  split <;> exact ⟨rfl, rfl, rfl, rfl⟩

end Sys2Proof.Machine
end

