-- ==== Sys2Proof/Machine/Window.lean ====
section
/-! DEFINITION. What the host reads in the register window of a partition's function (00 R10): registers, link and wear registers, launch
queues, and the scheduler SRAM with its tables (03 R68). -/

namespace Sys2Proof.Machine

/-- A bit at a place. -/
def bitAt (b : Bool) (n : Nat) : Nat := if b then 2 ^ n else 0

/-- FMASKi (R31): bit j for device fold 64 i + j, enabled and on one of the partition's dies. -/
def fmask (s : State) (p i : Nat) : Word :=
  BitVec.ofNat 64 ((List.range 64).foldl (fun n j => n + bitAt ((partFolds s p).contains (64 * i + j)) j) 0)

/-- CONTREC (R405): the handle of the launch whose decision is the oldest pending. -/
def contrecWord (s : State) (p : Nat) : Word :=
  (((nextDecision s p).bind fun x => s.launch p x.blk).map Launch.handle).getD 0

/-- T2MAP of partition port j (R406). -/
def t2map (s : State) (p j : Nat) : Word :=
  let n := 8 / nparts s.layout
  match if j < n then mfind s.t2exp (n * p + j) else none with
  | some (e, _) =>
    let shared := s.t2exp.any fun x => x.2.1 == e && x.1 / n != p
    let at_ := (t2space s p).find? fun x => x.1 == e
    BitVec.ofNat 64 (bitAt true 63 + bitAt shared 62 + (at_.map (·.2.2)).getD 0 % 2 ^ 16 * 2 ^ 32 + (at_.map (·.2.1)).getD 0 % 2 ^ 16)
  | none => 0

/-- The states of a queue as QSTAT numbers them (R66). -/
def QState.code (x : QState) : Nat :=
  match x with
  | .disabled => 0
  | .idle => 1
  | .fetch => 2
  | .retry => 3
  | .blocked => 4
  | .halted => 5

/-- Register r of queue i (R64). -/
def queueWord (s : State) (p i r : Nat) : Word :=
  let x := (s.part p).queue i
  if share s 64 ≤ i then 0
  else
    match r with
    | 0x00 => x.base
    | 0x08 => x.cfg
    | 0x10 => x.seq.zeroExtend 64
    | 0x18 => BitVec.ofNat 64 (bitAt x.en 0)
    | 0x20 => BitVec.ofNat 64 (x.st.code + x.code % 2 ^ 8 * 2 ^ 8 + x.hseq.toNat * 2 ^ 32)
    | _ => 0

/-- Doubleword i of a job table entry (R61); a held write of PTROOT reads as written. -/
def jobWord (j : Job) (i : Nat) : Word :=
  match i with
  | 0 => BitVec.ofNat 64 (j.prio + j.weight * 2 ^ 8 + j.quota * 2 ^ 16)
  | 1 => BitVec.ofNat 64 (j.heldRoot.getD j.ptroot % 2 ^ 48)
  | _ => 0

/-- Doubleword i of an error record (R350). -/
def errWord (e : ErrRec) (i : Nat) : Word :=
  match i with
  | 0 => BitVec.ofNat 64 (bitAt true 63 + e.core % 2 ^ 13 * 2 ^ 16 + e.status % 2 ^ 8 * 2 ^ 8 + e.cause.toNat)
  | 1 => BitVec.ofNat 64 (e.epc % 2 ^ 48)
  | 2 => e.einfo
  | _ => BitVec.ofNat 64 (e.unit_ % 2 ^ 48)

/-- Doubleword i of a completion block. -/
def blockWord (b : Block) (i : Nat) : Word := if i = 0 then b.words.1 else b.words.2

/-- The doubleword at offset o of the scheduler SRAM (R68): entries beyond the partition's share read zero, and so do record slots. -/
def sramWord (s : State) (p o : Nat) : Word :=
  let q := s.part p
  let entry (base size all : Nat) (f : Nat → Nat → Word) : Word :=
    let i := (o - base) / size
    if i < share s all then f i ((o - base) % size / 8) else 0
  if o < 0x20000 then entry 0 32 4096 fun i j => jobWord (mget Job.reset q.jobs i) j
  else if o < 0x60000 then entry 0x20000 16 16384 fun i j => blockWord (q.blk .launch i) j
  else if o < 0xA0000 then entry 0x60000 16 16384 fun i j => blockWord (q.blk .graph i) j
  else if o < 0xB0000 then entry 0xA0000 16 4096 fun i j => blockWord (q.blk .phase i) j
  else if o < 0xC0000 then entry 0xB0000 16 4096 fun i j => blockWord (q.blk .job i) j
  else if o < 0x140000 then
    let i := (o - 0xC0000) / 2
    BitVec.ofNat 64 ((List.range 4).foldl (fun n j =>
      n + (if i + j < share s 262144 then (mget 0 q.nodes (i + j) % 65536).toNat * 2 ^ (16 * j) else 0)) 0)
  else if o < 0x160000 then 0
  else if o < 0x1E0000 then entry 0x160000 32 16384 fun i j => ((mfind q.errs i).map fun e => errWord e j).getD 0
  else if o < 0x200000 then entry 0x1E0000 8 16384 fun i _ => BitVec.ofNat 64 (mget 0 q.owners i % 2 ^ 48 / 128 * 128)
  else 0

/-- The doubleword that the host reads at offset `off` of partition p's window. -/
def readWindow (s : State) (p off : Nat) : Word :=
  let q := s.part p
  if 0x140 ≤ off ∧ off < 0x1A0 then fmask s p ((off - 0x140) / 8)
  else if 0x380 ≤ off ∧ off < 0x3C0 then t2map s p ((off - 0x380) / 8)
  else if 0x400 ≤ off ∧ off < 0x480 then
    let d := (off - 0x400) / 0x20
    match (off - 0x400) % 0x20 with
    | 0x00 => BitVec.ofNat 64 (mget 0 s.nv.pwrDie d % 2 ^ 32)
    | 0x08 => BitVec.ofNat 64 (mget 0 s.nv.exc d % 2 ^ 32)
    | 0x10 => BitVec.ofNat 64 (mget 0 s.nv.hotm d % 2 ^ 32)
    | _ => 0
  else if 0x480 ≤ off ∧ off < 0x4C0 then BitVec.ofNat 64 (mget 0 s.nv.pwrStack ((off - 0x480) / 8) % 2 ^ 32)
  else if 0x500 ≤ off ∧ off < 0x620 then mget 0 s.ports ((off - 0x500) / 8)
  else if 0x1000 ≤ off ∧ off < 0x2000 then queueWord s p ((off - 0x1000) / 0x40) (off % 0x40)
  else if 0x400000 ≤ off ∧ off < 0x600000 then sramWord s p (off - 0x400000)
  else
    match off with
    | 0x100 => s.nv.feat
    | 0x108 => q.facc
    | 0x208 => BitVec.ofNat 64 q.hcres
    | 0x218 => BitVec.ofNat 64 q.hpres
    | 0x220 => q.ctxBase
    | 0x228 => q.ctxn.zeroExtend 64
    | 0x230 => q.ctxfn.zeroExtend 64
    | 0x240 => BitVec.ofNat 64 q.hjres
    | 0x300 => q.fqBase
    | 0x308 => BitVec.ofNat 64 (q.fqLog + q.fqTail.toNat * 2 ^ 32)
    | 0x320 => contrecWord s p
    | 0x330 => q.fevt
    | 0x348 => BitVec.ofNat 64 q.psres
    | 0x350 => s.boot
    | _ => 0

end Sys2Proof.Machine
end

