-- ==== Sys2Proof/Tests/Slice0.lean ====
section
/-! SUPPORT. Tests: words of the spec's examples, an ill-formed term for each static check, and for each obligation with hypotheses a state
that meets them, with what the instruction does there. -/

-- The tests are checked one after another: as one text the package has too many for a thread each.
set_option Elab.async false

open Sys2Proof Sys2Proof.Machine

namespace Sys2Proof.Tests

/-! ## Helpers: a device with one launch, whose unit runs on core 0 -/

/-- The next state, where there is one. -/
def nextOf (i : Instr) (s : State) : Option State :=
  match exec i s with
  | .next t => some t
  | _ => none

/-- The instruction completes with state t. -/
def ran (i : Instr) (s t : State) : Bool := nextOf i s == some { t with issue := .done }

/-- The instruction traps with a cause. -/
def trapped (i : Instr) (s : State) (cause : BitVec 8) : Bool :=
  match (nextOf i s).map (·.issue) with
  | some (Issue.trapped c _) => c == cause
  | _ => false

/-- The instruction waits before its issue and has done nothing. -/
def waits (i : Instr) (s : State) : Bool := nextOf i s == some { s with issue := .held }

/-- The instruction stalls in state t. -/
def stalls (i : Instr) (s t : State) : Bool := nextOf i s == some { t with issue := .stalled }

def launch0 : Launch :=
  { rcd := 0x4000, plen := 0, param := 0, job := 1, phase := 0xFFF, graph := 0x3FFF, node := 0, succ := [], wdog := 0, pers := false,
    det := false, nbv := 0, units := 1, fcount := 1, fbase := 0, map := [], arena := 0x1000, anum := 4, bdom := 0, note := 0, nval := 0,
    code := 0x8000, entry := 0x8000, csize := 64, stack := 0, lmem := 0, patches := [], decls := [], routines := [], sched := [],
    nmacro := 1, mstore := 0, nss := 1, stage := .placed, queued := true, accept := 0, tag := 0, setup := [0], homes := [], live := [0x1000], joins := [], starved := [],
    recvs := [] }

/-- The launch as a flagged one. -/
def gang0 : Launch := { launch0 with det := true, units := 0, nss := 2 }

def unit0 : Occ :=
  { part := 0, blk := 0, k := 0, rcd := 0x1000, flagged := false, ss := 0, pos := 0, stage := 0, running := true, xrout := false, since := 0 }

/-- A compute routine of the flagged launch. -/
def routine0 : Occ := { unit0 with rcd := 0, flagged := true }

def regs0 : Regs := { Regs.zero with g := [(1, 7), (2, 5), (3, 0xFFFFFFFFFFFFFFFF)], pc := 0x8000, npc := 0x8008 }

def core0 : Core := { Core.idle with occ := some unit0, r := regs0 }

def part0 : Part := { Part.reset with facc := 0x80000000000F7FFF, launches := [(0, launch0)], jobs := [(1, { Job.reset with ptroot := 0x100000 })] }

/-- The device in READY with a core in place. -/
def dev (k : Core) : State := { State.reset with boot := 7, cores := [(0, k)], parts := [(0, part0)] }

/-- The same with registers of the unit. -/
def withG (g : SMap Word) : State := dev { core0 with r := { regs0 with g := g } }

/-- The flagged launch in a compute routine, and in an exchange routine. -/
def flaggedDev (k : Core) : State := { dev k with parts := [(0, { part0 with launches := [(0, gang0)] })] }
def compute0 : State := flaggedDev { core0 with occ := some routine0 }
def exchange0 : State := flaggedDev { core0 with occ := some { routine0 with stage := 2, xrout := true } }

/-! ## Words of the spec's own examples (04 to 20): each decodes to the instruction that it stands for -/

/-- The words decode to a packet of two slot instructions. -/
noncomputable def reads (w0 w1 : Word32) (c a : Instr) : Bool :=
  match decodePacket w0 w1 with
  | .ok p => p.cside == c && p.aside == a
  | .error _ => false

/-- Scalar, memory and control words (04 R108, R115, 05 R117, 06 R139, R143, R148, R151, 14, 16). -/
theorem test_decode_scalar_words :
    reads 0 0 (.nopCSlot none) .nopASlot = true ∧ reads 0x80000000 9 (.nopCSlot (some 9)) .nopASlot = true ∧
    reads 0x825000B2 0 (.mfc (some 0) 5 0x0B2) .nopASlot = true ∧ reads 0x82091021 0 (.mtc (some 0) 18 0x021) .nopASlot = true ∧
    reads 0x04300028 0x14840001 (.movi none 3 40) (.addi 4 4 1) = true ∧
    reads 0x88700008 0 (.ldlW (some 0) 7 8) .nopASlot = true ∧ reads 0x08A40082 0x06B5A000 (.ldlD none 10 130) (.add 21 21 20) = true ∧
    reads 0x8A62E000 0 (.ld (some 0) 6 5 3 0 0) .nopASlot = true ∧ reads 0x8B594FFF 0 (.ld (some 0) 21 18 2 0 0xFFF) .nopASlot = true ∧
    reads 0x0C836000 0x1484FFFF (.st none 8 6 3 0) (.addi 4 4 0xFFFF) = true ∧
    reads 0x16B55000 0x17370004 (.adda none 11 10 20) (.addi 25 23 4) = true ∧ reads 0x98418000 0x144 (.ptag (some 0x144) 4 3 0) .nopASlot = true ∧
    reads 0x1A622838 0x05000000 (.br none 6 4 5 56) (.add 8 0 0) = true ∧ reads 0x9BA00807 10 (.br (some 10) 26 0 1 7) .nopASlot = true ∧
    reads 0x1E100015 0x168CFFFE (.jl none 21) (.addi 20 12 0xFFFE) = true ∧ reads 0xA4748005 0 (.macroOp 7 9 0 5 0) .nopASlot = true ∧
    reads 0 0x29245FFD (.nopCSlot none) (.cmpi 9 4 2 0x1FFD) = true ∧ reads 0 0x11480208 (.nopCSlot none) (.popc 10 8 1) = true ∧
    reads 0x3E050000 0x25700002 (.pdecl none 10 0 0) (.slli 11 16 0 2) = true ∧ reads 0 0x32310400 (.nopCSlot none) (.itof 17 17 0) = true ∧
    reads 0 0x2E948803 (.nopCSlot none) (.fdiv 20 20 17) = true ∧ reads 0 0x30A60020 (.nopCSlot none) (.fcvt 5 6 4 0) = true := by decide

/-- Vector and matrix words (07 R190, 08 R194 to R211, 09 R219 to R233). -/
theorem test_decode_vector_and_matrix_words :
    reads 0 0x40C48100 (.nopCSlot none) (.vadd 3 1 2 8) = true ∧ reads 0xA6500040 0 (.claim (some 0) 5 0 64) .nopASlot = true ∧
    reads 0xA8601028 0 (.vsetli (some 0) 6 40) .nopASlot = true ∧ reads 0x8E11C000 0 (.ldv (some 0) 1 3 2 0 0) .nopASlot = true ∧
    reads 0 0x4D040004 (.nopCSlot none) (.vmaxi 4 1 0) = true ∧ reads 0 0x540800E2 (.nopCSlot none) (.vmovs 2 0 7) = true ∧
    reads 0 0x58850000 (.nopCSlot none) (.vnarrow 2 1 4 0 0 0) = true ∧
    reads 0 0x60886000 (.nopCSlot none) (.mma 1 2 3 0) = true ∧ reads 0 0x60886001 (.nopCSlot none) (.mmaz 1 2 3 0) = true ∧
    reads 0 0x60892100 (.nopCSlot none) (.mma 1 2 9 1) = true ∧ reads 0 0x65140002 (.nopCSlot none) (.aadd 2 5 0) = true ∧
    reads 0 0x681CC002 (.nopCSlot none) (.ttrn 7 6) = true ∧ reads 0xC0480004 0x60886000 (.mxcmd (some 0x60886000) 1 4 0 0) .nopASlot = true := by decide

/-- Copies, paddocks, synchronisation, the drove and fences (11, 12). -/
theorem test_decode_synchronisation_words :
    reads 0x3CA57980 0x16970010 (.cpy none 2 18 23 19 0) (.addi 20 23 16) = true ∧ reads 0xBC974005 0 (.cpyz (some 0) 2 11 20 0) .nopASlot = true ∧
    reads 0xBE000009 0 (.muster (some 0) 1) .nopASlot = true ∧ reads 0xBE000002 0x1EF (.gwait (some 0x1EF) 0 0) .nopASlot = true ∧
    reads 0xAA51820E 0 (.amoAmaxrst (some 0) 5 3 0 2 0 0) .nopASlot = true ∧
    reads 0xAC000005 0 (.evwait (some 0) 5) .nopASlot = true ∧ reads 0xAC020105 1 (.evsig (some 1) 4 0 5) .nopASlot = true ∧
    reads 0xB2018001 0 (.bdom (some 0) 3) .nopASlot = true ∧ reads 0xB2000000 0 (.ssync (some 0)) .nopASlot = true ∧
    reads 0xB2030002 2 (.xsend (some 2) 6 0) .nopASlot = true ∧ reads 0xB2700007 0 (.xrecv (some 0) 7 1) .nopASlot = true ∧
    reads 0xAE952C03 0 (.fork (some 0) 9 10 11) .nopASlot = true ∧ reads 0xAE048004 0 (.join (some 0) 9) .nopASlot = true ∧
    reads 0xB050000D 0 (.recv (some 0) 5 3) .nopASlot = true ∧ reads 0xB4021903 0 (.drmwMaxu (some 0) 0 4 6 0) .nopASlot = true ∧
    reads 0xB4500007 0 (.dlap (some 0) 5) .nopASlot = true ∧ reads 0xB6018000 256 (.fenceR (some 256) 3 0) .nopASlot = true ∧
    reads 0xB752A100 0 (.fenceS (some 0) 42 21) .nopASlot = true ∧ reads 0xB600020C 0 (.qfence (some 0) 0x0C) .nopASlot = true := by decide

/-- SYS, YOKE and TLB words (15). -/
theorem test_decode_system_words :
    reads 0x80000001 7 (.trap (some 7) 0) .nopASlot = true ∧ reads 0x80000002 0 (.eret (some 0)) .nopASlot = true ∧
    reads 0x80000003 0 (.exit (some 0)) .nopASlot = true ∧ reads 0x80000004 0 (.yield (some 0)) .nopASlot = true ∧
    reads 0x80000005 0 (.pulse (some 0)) .nopASlot = true ∧ reads 0x80530006 0 (.cancel (some 0) 5 6) .nopASlot = true ∧
    reads 0x80001007 0 (.wfi (some 0) 4) .nopASlot = true ∧ reads 0xC8019200 0 (.tlbinv (some 0) 3 4 2) .nopASlot = true ∧
    reads 0xC8618001 0 (.tlbprobe (some 0) 6 3) .nopASlot = true ∧ reads 0xC6500000 0 (.yoke (some 0) 5) .nopASlot = true ∧
    reads 0xC6000001 0 (.unyoke (some 0)) .nopASlot = true := by decide

/-! ## Ill-formed terms: each static check refuses one, and takes its neighbour -/

theorem test_wf_registers_and_sizes :
    Instr.wf (.mfc none 1 0x006) = false ∧ Instr.wf (.mfc none 1 0x005) = true ∧ Instr.wf (.mtc none 1 0x0D1) = false ∧ Instr.wf (.mtc none 1 0x0D0) = true ∧
    Instr.wf (.ld none 1 2 3 1 0) = false ∧ Instr.wf (.ld none 1 2 3 0 0) = true ∧ Instr.wf (.ldv none 1 2 3 0 0) = false ∧
    Instr.wf (.ldv none 1 2 2 1 0) = false ∧ Instr.wf (.ldv none 1 2 2 0 0) = true ∧ Instr.wf (.stv none 1 2 3 0) = false ∧
    Instr.wf (.br none 1 2 13 0) = false ∧ Instr.wf (.br none 1 2 12 0) = false ∧ Instr.wf (.br none 0 0 12 0) = true ∧
    Instr.wf (.bbc none 31 1 1 0) = false ∧ Instr.wf (.bbs none 29 1 3 0) = false ∧ Instr.wf (.bbz none 30 2 0) = false ∧
    Instr.wf (.bbnz none 28 3 0) = true ∧ Instr.wf (.bbnz none 29 3 0) = false ∧ Instr.wf (.vsetli none 1 257) = false ∧ Instr.wf (.vsetli none 1 256) = true ∧
    Instr.wf (.sbind none 23 1) = false ∧ Instr.wf (.sbind none 24 1) = true ∧ Instr.wf (.sunbind none 23) = false ∧ Instr.wf (.sstat none 1 23) = false ∧
    Instr.wf (.sdrain none 23) = false ∧ Instr.wf (.tlbinv none 1 2 3) = false ∧ Instr.wf (.tlbinv none 1 2 2) = true := by decide

theorem test_wf_drove_words :
    Instr.wf (.dread none 1 2 7) = false ∧ Instr.wf (.dread none 1 2 6) = true ∧ Instr.wf (.dput none 1 2 7) = false ∧ Instr.wf (.drmwAdd none 1 2 3 7) = false ∧
    Instr.wf (.drmwMin none 1 2 3 7) = false ∧ Instr.wf (.drmwMax none 1 2 3 7) = false ∧ Instr.wf (.drmwMinu none 1 2 3 7) = false ∧
    Instr.wf (.drmwMaxu none 1 2 3 7) = false ∧ Instr.wf (.drmwFmin none 1 2 3 7) = false ∧ Instr.wf (.drmwFmax none 1 2 3 7) = false ∧
    Instr.wf (.drmwAnd none 1 2 3 7) = false ∧ Instr.wf (.drmwOr none 1 2 3 7) = false ∧ Instr.wf (.drmwXor none 1 2 3 7) = false ∧
    Instr.wf (.drmwSwap none 1 2 3 7) = false ∧ Instr.wf (.drmwCas none 1 2 3 7) = false := by decide

theorem test_wf_a_slot_codes :
    Instr.wf (.popc 1 31 1) = false ∧ Instr.wf (.ctz 1 29 3) = false ∧ Instr.wf (.ctz 1 28 3) = true ∧ Instr.wf (.mshl 31 1 2 1) = false ∧
    Instr.wf (.mshr 1 31 2 1) = false ∧ Instr.wf (.mand 1 2 31 1) = false ∧ Instr.wf (.mor 30 2 3 2) = false ∧ Instr.wf (.mxor 1 30 3 2) = false ∧
    Instr.wf (.slli 1 2 0 64) = false ∧ Instr.wf (.slli 1 2 1 64) = true ∧ Instr.wf (.srli 1 2 0 64) = false ∧ Instr.wf (.srai 1 2 64) = false ∧
    Instr.wf (.roli 1 2 64) = false ∧ Instr.wf (.rori 1 2 64) = false ∧ Instr.wf (.rori 1 2 63) = true ∧ Instr.wf (.cmpi 1 2 6 0) = false ∧
    Instr.wf (.cmpi 1 2 5 0) = true ∧ Instr.wf (.fcvt 1 2 1 0) = false ∧ Instr.wf (.fcvt 1 2 2 5) = false ∧ Instr.wf (.fext 1 2 9 0) = false ∧
    Instr.wf (.ftoi 1 2 5) = false ∧ Instr.wf (.ftou 1 2 5) = false ∧ Instr.wf (.itof 1 2 5) = false ∧ Instr.wf (.utof 1 2 5) = false ∧
    Instr.wf (.vcmpFeq 1 2 0) = false ∧ Instr.wf (.vcmpFne 1 2 0) = false ∧ Instr.wf (.vcmpFlt 1 2 0) = false ∧ Instr.wf (.vcmpFle 1 2 0) = false ∧
    Instr.wf (.vcmpFun 1 2 0) = false ∧ Instr.wf (.vcmpIeq 1 2 0) = false ∧ Instr.wf (.vcmpIne 1 2 0) = false ∧ Instr.wf (.vcmpIlt 1 2 0) = false ∧
    Instr.wf (.vcmpIle 1 2 0) = false ∧ Instr.wf (.vcmpIltu 1 2 0) = false ∧ Instr.wf (.vcmpIleu 1 2 0) = false ∧ Instr.wf (.vcmpIleu 1 2 1) = true ∧
    Instr.wf (.vnarrow 1 2 1 0 0 0) = false ∧ Instr.wf (.vwiden 1 2 9 0 0 0) = false ∧ Instr.wf (.vqrnd 1 2 2 0 5 0) = false ∧
    Instr.wf (.vmxq 1 2 8 0 0) = false ∧ Instr.wf (.vmxq 1 2 9 0 3) = true ∧ Instr.wf (.vmxs 1 2 14 0 1) = false ∧ Instr.wf (.vmxc 1 2 14 0 3) = false := by decide

/-! ## Witnesses: each statement's hypotheses are met, at the edges of its clauses, and what it then says -/

/-! ### The machine -/

/-- A packet in the instruction cache: C-slot MOVI g4, 9 and A-slot ADD g5, g1, g2, and UNDEF words. -/
def bytesOf (w0 w1 : Word32) : List Byte := leBytes 4 w0.toNat ++ leBytes 4 w1.toNat ++ List.replicate 56 0
def line0 (w0 w1 : Word32) : ICLine := { part := 0, blk := 0, addr := 0x8000, raw := bytesOf w0 w1, bytes := bytesOf w0 w1, marked := [], bad := false }
def fetching (w0 w1 : Word32) : State :=
  { dev core0 with folds := [(0, { Fold.idle with icache := [line0 w0 w1] })], agenda := [{ dt := 0, core := 0, ev := none }] }
def packet0 : State := fetching 0x04400009 0x04A11000
def start0 : State := { packet0 with agenda := [] }
noncomputable def before0 : State := Spec.beforeSlots start0
noncomputable def afterC0 : State := before0.wroteG 4 9
noncomputable def latched0 : State := { afterC0 with latch := some { core := before0.me, m := (before0.fold 0).m, popped := poppedFrom before0.me afterC0.me } }

theorem witness_StepRunsTheEvent :
    (∀ n, ({ packet0 with agenda := [{ dt := n, core := 0, ev := some .powerLoss }] } : State).agenda = [{ dt := n, core := 0, ev := some .powerLoss }]) ∧
    forced packet0 = none ∧ forced (packet0.updMe fun k => { k with wait := some (.deadline 0) }) = some (.wfiTimeout 0) := by
  refine ⟨fun _ => rfl, ?_, ?_⟩ <;> decide +kernel

theorem witness_StepRunsTheDecodedPacket :
    (start0.me.macroOp = none ∧ start0.me.yoke = none ∧ start0.me.aDone = false ∧ captureOver start0.me = none ∧ isMgmt 0 = false) ∧
    vectorConflict start0.me (.movi none 4 9) 0x04400009 0x04A11000 = false ∧ privilegedMtc (.movi none 4 9) = false ∧
    (fetch start0).toOption = some (0x04400009, 0x04A11000) ∧
    (decodePacket 0x04400009 0x04A11000).toOption = some ⟨.movi none 4 9, .add 5 1 2⟩ ∧
    pairConflict start0.me.r.vl (.movi none 4 9) (.add 5 1 2) = false ∧ ran (.movi none 4 9) before0 afterC0 = true ∧
    ran (.add 5 1 2) latched0 (latched0.wroteG 5 12) = true ∧
    ((match step packet0 with
      | .next t => some (gval t 4, gval t 5, t.me.r.pc)
      | _ => none) = some (9, 12, 0x8008)) := by decide

theorem witness_PacketsThatNeverReachTheirSlots :
    (fetch (fetching 0x082C0000 0)).toOption = some (0x082C0000, 0) ∧ decodeC 0x082C0000 0 = none ∧
    (fetch (fetching 0 0x34000000)).toOption = some (0, 0x34000000) ∧ (decodeC 0 0x34000000).isSome = true ∧ decodeA 0x34000000 = none ∧
    inCode (dev { core0 with r := { regs0 with pc := 0x8040 } }) 0 0x8040 8 = false ∧ inCode (dev core0) 0 0x8038 8 = true ∧
    ctlPrivileged 0x000 = true := by decide

theorem witness_StepKeepsMemoryCanonical :
    Memory.wf packet0.mem = true ∧ (match step packet0 with | .next t => Memory.wf t.mem | _ => false) = true := by decide

theorem witness_DecodeEncodeRoundTrip :
    slotKind (.adda (some 5) 3 1 0) = .c ∧ slotKind .nopASlot = .a ∧ Instr.wf (.adda (some 5) 3 1 0) = true ∧ Instr.wf .nopASlot = true := by
  decide

/-! ### Scalar instructions -/

theorem witness_ScalarResults :
    Ready (dev core0) [1, 2] [31] ∧ ran (.add 31 1 2) (dev core0) ((dev core0).wroteG 31 12) = true ∧
    ran (.sub 0 1 2) (dev core0) (dev core0) = true ∧ ran (.div 4 1 0) (dev core0) ((dev core0).wroteG 4 0xFFFFFFFFFFFFFFFF) = true ∧
    Ready (dev core0) [3] [3] ∧ ran (.cmpi 3 3 2 0) (dev core0) ((dev core0).wroteG 3 1) = true := by decide

theorem witness_RegisterReadsAfterAWrite : (dev core0).latch = none ∧ boundG (dev core0).me 31 = none ∧ boundG (dev core0).me 24 = none := by
  decide

/-- Stream 0 bound to read 4 bytes four times, and to write; its ring holds one element. -/
def stream0 (flags : Word) (ring : List RingEntry) : Stream :=
  { desc := localBase + 0x100, words := [0x100, 0x0001000100010004, 0, 0, flags], pos := 3, moved := 4, ring := ring, err := none, behind := 0 }
def reading0 : State := dev { core0 with streams := [(0, stream0 0x100 [.val 40 none])] }
def writing0 : State := dev { core0 with streams := [(0, stream0 0x101 [])] }

/-- The C-slot of the packet popped the stream of g24 already. -/
def popped0 : State := { reading0 with latch := some { core := reading0.me, m := (reading0.fold 0).m, popped := [0] } }

theorem witness_ScalarStreamOperands :
    (reading0.popped.contains 0 = false ∧ popped0.popped.contains 0 = true ∧ boundG popped0.pre 24 = boundG reading0.pre 24 ∧
      ran (.add 4 24 2) popped0 (popped0.wroteG 4 45) = true) ∧
    (∃ t, boundG reading0.me 24 = some t ∧ t.writes = false ∧ t.ring = [.val 40 none] ∧ t.pos + 1 ≤ t.total) ∧
    reading0.me.pending 24 = false ∧ Ready reading0 [2] [4] ∧ reading0.me.failedRd [24, 2] = none ∧
    ran (.add 4 24 2) reading0 ((reading0.updMe fun k => { k with streams := mput k.streams 0 { stream0 0x100 [] with pos := 4 } }).wroteG 4 45)
      = true ∧
    (∃ t, boundG writing0.me 24 = some t ∧ t.writes = true ∧ t.ring.length < t.room ∧ t.pos + 1 ≤ t.total) ∧
    writing0.me.pending 24 = false ∧ Ready writing0 [1, 2] [] ∧
    ran (.add 24 1 2) writing0 (writing0.updMe fun k => { k with streams := mput k.streams 0 { stream0 0x101 [.val 12 none] with pos := 4 } })
      = true := by
  refine ⟨by decide, ⟨_, rfl, by decide, rfl, by decide⟩, by decide, by decide, by decide, by decide, ⟨_, rfl, by decide, by decide, by decide⟩, ?_⟩
  decide

theorem witness_MaskGroupResults :
    Ready (dev core0) (span 1 3 ++ span 29 3) (span 29 3) ∧
    ran (.mor 29 1 29 2) (dev core0) (Spec.groupWrote (dev core0) 29 (Spec.groupNum (dev core0) 1 3) 3) = true := by decide

theorem witness_ReservedScalarFormsTrap :
    trapped (.popc 4 31 1) (dev core0) cILLEGAL = true ∧ boundG (dev core0).pre 31 = none ∧
    (span 23 2).any (fun r => (boundG reading0.pre r).isSome) = true ∧ trapped (.mor 23 1 2 1) reading0 cSTREAM = true ∧ trapped (.popc 4 23 1) reading0 cSTREAM = true ∧
    trapped (.slli 4 1 0 64) (dev core0) cILLEGAL = true ∧ trapped (.cmpi 4 1 6 0) (dev core0) cILLEGAL = true := by decide

/-- g6 holds a signalling NaN, g7 the number 1. -/
def floats0 : State := withG [(6, 0x7F800001), (7, 0x3F800000), (8, 0x7FC00000)]

theorem witness_FloatResults :
    Ready floats0 [7, 7] [4] ∧ ran (.fadd 4 7 7) floats0 (Spec.raised (floats0.wroteG 4 0x40000000) 0) = true ∧
    Ready floats0 [6, 7, 4] [4] ∧ ran (.fmul 4 6 7) floats0 (Spec.raised (floats0.wroteG 4 0x7FC00001) 1) = true ∧
    ran (.fmin 4 7 6) floats0 (Spec.raised (floats0.wroteG 4 0x7FC00001) 1) = true ∧
    ran (.fmac 8 7 7) floats0 (Spec.raised (floats0.wroteG 8 0x7FC00000) 0) = true ∧
    ran (.feq 4 6 7) floats0 (Spec.raised (floats0.wroteG 4 0) 1) = true ∧ ran (.flt 4 8 7) floats0 (Spec.raised (floats0.wroteG 4 0) 1) = true := by
  decide

/-! ### Constants, pointers, jumps and macros -/

/-- g1 is the largest address, g2 a tagged pointer, g3 a pointer with a reserved bit. -/
def pointers0 : State := withG [(1, 0x0000FFFFFFFFFFFF), (2, 0x0440000000000100), (3, 0x0001000000000000), (4, 1), (5, 0x3D2), (6, 0x8010)]

theorem witness_ConstantsAndAddresses :
    Ready pointers0 [] [7] ∧ ran (.movi none 7 0xFFFFF) pointers0 (pointers0.wroteG 7 0xFFFFFFFFFFFFFFFF) = true ∧
    Ready pointers0 [2] [7] ∧ ran (.pfmt none 7 2) pointers0 (pointers0.wroteG 7 0x41) = true ∧
    ran (.pbase none 7 2) pointers0 (pointers0.wroteG 7 0x100) = true ∧ Ready pointers0 [1, 4] [7] ∧
    trapped (.lea none 7 1 4 0) pointers0 cTAG = true ∧ ran (.lea none 7 2 4 7) pointers0 (pointers0.wroteG 7 0x0440000000000180) = true ∧
    ran (.ptag none 7 1 5) pointers0 (pointers0.wroteG 7 0x4BC0FFFFFFFFFFFF) = true ∧ trapped (.ptag (some 0x3D3) 7 1 0) pointers0 cTAG = true := by
  decide

theorem witness_AddaAddsToTheAddressPart :
    Ready pointers0 [1, 0] [7] ∧ ran (.adda none 7 1 0) pointers0 (pointers0.wroteG 7 0x0000FFFFFFFFFFFF) = true ∧
    trapped (.adda (some 1) 7 1 0) pointers0 cTAG = true ∧ trapped (.adda none 7 3 0) pointers0 cTAG = true ∧
    ran (.adda (some 0xFFFFFF00) 7 2 0) pointers0 (pointers0.wroteG 7 0x0440000000000000) = true := by decide

def pool0 : State := { packet0 with folds := [(0, { Fold.idle with icache := [line0 0x80000001 0x00000002] })] }

theorem witness_LdlReadsTheCodeRegion :
    Ready pool0 [] [7] ∧ isMgmt pool0.cur = false ∧ inCode pool0 0 0x8000 8 = true ∧ inCode pool0 0 0x803C 4 = true ∧
    (findLine pool0 0 0x803C).isSome = true ∧ ran (.ldlW none 7 0) pool0 (pool0.wroteG 7 0xFFFFFFFF80000001) = true ∧
    ran (.ldlD none 7 0) pool0 (pool0.wroteG 7 0x0000000280000001) = true ∧ trapped (.ldlD none 7 1) pool0 cMISALIGN = true ∧
    inCode pool0 0 0x8040 8 = false ∧ trapped (.ldlD none 7 16) pool0 cPERMISSION = true ∧
    inCode pool0 0 0x8040 4 = false ∧ trapped (.ldlW none 7 16) pool0 cPERMISSION = true := by decide

theorem witness_BranchesTestTheirConditions :
    Ready (dev core0) [1, 2] [] ∧ ran (.br none 1 2 6 0x400) (dev core0) (Spec.branched (dev core0) (-1024)) = true ∧
    ran (.br none 1 2 0 5) (dev core0) (dev core0) = true ∧ ran (.br none 1 2 12 5) (dev core0) (Spec.branched (dev core0) 5) = true ∧
    trapped (.br none 1 2 13 5) (dev core0) cILLEGAL = true ∧ Ready (dev core0) (span 28 4 ++ [0]) [] ∧
    ran (.bbz none 28 3 5) (dev core0) (Spec.branched (dev core0) 5) = true ∧
    ran (.bbs (some 127) 2 0 1 5) (dev core0) (Spec.branched (dev core0) 5) = true ∧
    ran (.bbs (some 128) 2 0 1 5) (dev core0) (dev core0) = true := by decide

theorem witness_JumpsAndLinks :
    Ready (dev core0) [] [1] ∧ ran (.jl none 0x80000) (dev core0) (Spec.branched ((dev core0).wroteG 1 0x8008) (-524288)) = true := by decide

theorem witness_JrJumpsThroughARegister :
    Ready pointers0 [6, 0] [7] ∧ trapped (.jr (some 4) 7 6 0) pointers0 cMISALIGN = true ∧ trapped (.jr none 7 2 0) pointers0 cTAG = true ∧
    ran (.jr none 7 6 0) pointers0 ((pointers0.wroteG 7 0x8008).updMe fun k => { k with r := { k.r with npc := 0x8010 } }) = true := by decide

def macro0 : State :=
  { dev core0 with folds := [(0, { Fold.idle with macros := [(0, { part := 0, blk := 0, ops := [(0x04A11000_04400009, 0)] })] })] }

theorem witness_MacrosSubstituteAndIssue :
    macro0.me.occ = some unit0 ∧ macro0.me.launchOf macro0 = some launch0 ∧
    ran (.macroOp 31 1 2 0 0) macro0 (macro0.updMe fun k => { k with
      macroOp := some (0x04400009, 0x04A11000, true), r := { k.r with npc := k.r.pc } }) = true ∧
    trapped (.macroOp 31 1 2 1 0) macro0 cMACRO = true ∧ fld (substitute 0 0x1 31 0 0) 24 20 = 31 := by decide

/-! ### Loads, stores, atomics and fences -/

/-- LMEM covers local memory but its last word; g1 addresses local offset 0x3FFF8, g2 the end of the Common window, g3 a tag, g5 sync
word 0. -/
def lsu0 (k : Core) : State :=
  { dev { k with
      occ := some unit0
      r := { regs0 with g := [(1, 0x7F000003FFF8), (2, 0x7D000FFFFFF8), (3, 0x0001000000000000), (5, 0x7C0000002000), (6, 0xFFFFFFFF80FF81F2)] } } with
    parts := [(0, { part0 with launches := [(0, { launch0 with lmem := 0x40000 })] })] }
def lsu : State := lsu0 core0
def readOf (o : Option State) (key : Nat) : Option Byte := o.map fun t => readKey t key

theorem witness_BadAddressesTrapLoadsAndStores :
    Ready lsu [3, 4] [4] ∧ trapped (.ld none 4 3 3 0 0) lsu cTAG = true ∧ trapped (.st none 4 3 3 0) lsu cTAG = true ∧
    Spec.address lsu 0 0xFFF 8 = -8 ∧ trapped (.ld none 4 0 3 0 0xFFF) lsu cTAG = true ∧
    Spec.address lsu 4 1 2 = 2 ∧ Spec.address (lsu.wroteG 4 1) 4 1 2 = 3 ∧ Spec.unhindered (lsu.wroteG 4 1) clsR 3 2 ∧
    Spec.unhindered (lsu.wroteG 4 1) clsW 3 2 ∧ (lsu.wroteG 4 1).me.loadsMeet lsu 0 (3, 2) = false ∧
    trapped (.ld none 4 4 1 1 1) (lsu.wroteG 4 1) cMISALIGN = true ∧ trapped (.st none 4 4 1 1) (lsu.wroteG 4 1) cMISALIGN = true := by decide

theorem witness_OwnLocalMemoryAccesses_store :
    Ready lsu [1, 6] [] ∧ lsu.latch = none ∧ Spec.address lsu 1 0 8 = 0x7F000003FFF8 ∧ Spec.unhindered lsu clsW 0x7F000003FFF8 8 ∧
    lsu.me.loadsMeet lsu 0 (0x7F000003FFF8, 8) = false ∧ lsu.me.stores = [] ∧ (0x3FFF8 + 8 ≤ lsu.me.lmem lsu) ∧
    readOf (nextOf (.st none 6 1 3 0) lsu) (localKey 0 0x3FFF8) = some 0xF2 ∧
    readOf (nextOf (.st none 6 1 3 0) lsu) (localKey 0 0x3FFFF) = some 0xFF ∧
    readOf (nextOf (.st none 6 1 3 0) lsu) (localKey 0 0x3FFF7) = some (readKey lsu (localKey 0 0x3FFF7)) := by decide +kernel

theorem witness_OwnLocalMemoryAccesses_writable : Spec.localWritable lsu 0x3FFF8 8 := ⟨by decide, fun _ _ _ => ⟨rfl, rfl⟩⟩

/-- The word at local offset 0x3FFFC is 0x8000FF80, valid. -/
def loaded : State := (nextOf (.st none 6 1 2 1) (lsu.wroteG 6 0x8000FF80)).getD lsu

theorem witness_OwnLocalMemoryAccesses_load :
    Ready loaded [1] [4] ∧ loaded.me.loads.length < 16 ∧ Spec.unhindered loaded clsR 0x7F000003FFFC 4 ∧ loaded.bad (localKey 0 0x3FFFC) 4 = false ∧
    (List.range 4).all (fun i => loaded.me.validAt (0x3FFFC + i) && (loaded.me.staleAt (0x3FFFC + i)).isNone) = true ∧
    ran (.ld none 4 1 2 1 1) loaded ((countEccRanges loaded 0 [] [(0x7F000003FFFC, 4)]).wroteG 4 0xFFFFFFFF8000FF80) = true ∧
    ran (.ld none 4 1 1 0 2) loaded ((countEccRanges loaded 0 [] [(0x7F000003FFFC, 2)]).wroteG 4 0xFF80) = true := by decide

def outstanding0 : Load :=
  { kind := .plain true, va := 0x7D000FFFFFF8, key := commonKey lsu 0 0xFFFFFF8, tr := [], size := 4, rd := 4, escape := false, since := 0 }
def buffered0 : State := lsu0 { core0 with stores := [{ va := 0x7D000FFFFFF8, key := commonKey lsu 0 0xFFFFFF8, bytes := [1, 2, 3, 0x84] }] }
def returning0 : State := { lsu0 { core0 with loads := [outstanding0] } with clk := 4 }

theorem witness_LoadsElsewhere :
    Ready lsu [2] [4] ∧ windowOf 0x7D000FFFFFF8 = .common ∧ 0xFFFFFF8 + 8 ≤ commonSize lsu 0 ∧ lsu.me.inCompute = false ∧
    lsu.bad (commonKey lsu 0 0xFFFFFF8) 4 = false ∧ Spec.unhindered lsu clsR 0x7D000FFFFFF8 4 ∧ lsu.me.lastStore lsu 0 (0x7D000FFFFFF8, 4) = none ∧
    lsu.me.loads.length < 16 ∧ (nextOf (.ld none 4 2 2 1 0) lsu).map (fun t => t.me.loads.map fun l => { l with tr := [] }) = some [outstanding0] ∧
    Ready buffered0 [2] [4] ∧ Spec.unhindered buffered0 clsR 0x7D000FFFFFFA 2 ∧
    buffered0.me.lastStore buffered0 0 (0x7D000FFFFFFA, 2) = buffered0.me.stores[0]? ∧
    ran (.ld none 4 2 1 1 1) buffered0 (buffered0.wroteG 4 0xFFFFFFFFFFFF8403) = true ∧
    (returning0.core 0).loads[0]? = some outstanding0 ∧ (returning0.core 0).yoke = none ∧ returning0.downLinks = [] ∧ returning0.ecc = [] ∧
    boundG (returning0.core 0) 4 = none ∧
    (nextOf (.loadReturn 0 0) { returning0 with mem := [(commonKey lsu 0 0xFFFFFFB, 0x80)] }).map (fun t => (t.me.loads, gval t 4)) =
      some ([], 0xFFFFFFFF80FFFFFF) := by decide

theorem witness_StoresAreBufferedAndDrain :
    Ready lsu [2, 6] [] ∧ lsu.me.yoke = none ∧ Spec.unhindered lsu clsW 0x7D000FFFFFF8 8 ∧ lsu.me.stores.length < 16 ∧
    ran (.st none 6 2 0 7) lsu (lsu.updMe fun k => { k with
      stores := [{ va := 0x7D000FFFFFFF, key := commonKey lsu 0 0xFFFFFFF, bytes := [0xF2] }] }) = true ∧
    (buffered0.core 0).stores = [{ va := 0x7D000FFFFFF8, key := commonKey lsu 0 0xFFFFFF8, bytes := [1, 2, 3, 0x84] }] ∧
    (buffered0.core 0).loadsMeet buffered0 0 (0x7D000FFFFFF8, 4) = false ∧ (commonKey lsu 0 0xFFFFFF8 + 3) / 2 ^ 64 ≠ 4 ∧
    (nextOf (.storeDrain 0) buffered0).map (fun t => ((t.core 0).stores, t.byte (commonKey lsu 0 0xFFFFFFB), t.byte (commonKey lsu 0 0xFFFFFFC))) =
      some ([], 0x84, lsu.byte (commonKey lsu 0 0xFFFFFFC)) := by decide

/-- Sync word 0 holds 5; an outstanding AMO adds 7 to a word of the Common window. -/
def sync0 : State := { lsu with folds := [(0, { Fold.idle with sync := [(0, 0xFFFFFFFF00000005)] })] }
def amoing0 : State :=
  { lsu0 { core0 with loads := [{ outstanding0 with kind := .amo 0 7 0 2 false }] } with clk := 4 }

theorem witness_AtomicOperations :
    amoNew 3 4 0x80000000 5 0 = 5 ∧ amoNew 13 8 5 6 5 = 6 ∧
    sync0.me.inFlagged = false ∧ sync0.me.stores = [] ∧ Ready sync0 [5, 6, 4] [4] ∧ Spec.unhindered sync0 (clsR + clsW) 0x7C0000002000 4 ∧
    sync0.me.loadsMeet sync0 0 (0x7C0000002000, 4) = false ∧ sync0.me.rwDone sync0 0 = true ∧
    ran (.amoAdd (some 3) 4 5 0 1 0 0) sync0 ({ sync0 with folds := [(0, { Fold.idle with sync := [(0, 0xFFFFFFFF00000008)] })] }.wroteG 4 5) = true ∧
    ran (.amoSwap none 4 5 6 1 3 1) sync0 ({ sync0 with folds := [(0, { Fold.idle with sync := [(0, 0xFFFFFFFF80FF81F2)] })] }.wroteG 4
      0xFFFFFFFF00000005) = true ∧
    Ready lsu [2, 0, 4] [4] ∧ (checkRange lsu 0 0x7D000FFFFFF8 8 true lsu.det).toOption.map (·.2) = some lsu ∧
    ((nextOf (.amoAdd (some 3) 4 2 0 2 0 1) lsu).map fun t => t.me.loads.map fun l => (l.va, l.size, l.rd, l.kind)) =
      some [(0x7D000FFFFFF8, 8, 4, .amo 0 3 0 2 false)] ∧
    Ready loaded [1, 0, 4] [4] ∧ (checkRange loaded 0 0x7F000003FFFC 4 true loaded.det).toOption.map (·.2) = some loaded ∧
    ((nextOf (.amoAdd (some 1) 4 1 0 0 0 0) (loaded.wroteG 1 0x7F000003FFFC)).map fun t => (gval t 4, readKey t (localKey 0 0x3FFFC))) =
      some (0x8000FF80, 0x81) ∧
    ((nextOf (.loadReturn 0 0) { amoing0 with mem := [(commonKey lsu 0 0xFFFFFF8, 250)] }).map fun t =>
      (gval t 4, t.byte (commonKey lsu 0 0xFFFFFF8), t.byte (commonKey lsu 0 0xFFFFFF9))) = some (0xFFFFFFFA, 1, 0) := by decide +kernel

theorem witness_FencesAreRecordedOrEnd :
    Ready lsu [2, 0] [] ∧ ({ pred := 63, succ := 63, range := none, pushed := [] } : Fence).pending lsu.me lsu 0 = false ∧
    ran (.fenceS none 63 63) lsu lsu = true ∧
    ({ pred := 63, succ := 63, range := none, pushed := [] } : Fence).pending buffered0.me buffered0 0 = true ∧
    ran (.fenceS none 63 63) buffered0 (buffered0.updMe fun k => { k with fences := [{ pred := 63, succ := 63, range := none, pushed := [] }] }) = true ∧
    ran (.fenceR none 2 0) buffered0 buffered0 = true ∧
    ran (.fenceR (some 8) 2 0) buffered0 (buffered0.updMe fun k => { k with
      fences := [{ pred := 63, succ := 63, range := some (0x7D000FFFFFF8, 8), pushed := [] }] }) = true ∧
    ran (.fenceR (some 8) 0 0) buffered0 buffered0 = true ∧ trapped (.fenceR none 3 0) lsu cTAG = true ∧
    trapped (.fenceR none 6 0) lsu cTAG = true ∧ ran (.qfence none 0xFF) lsu lsu = true := by decide

/-! ### Traps, returns and the system instructions -/

/-- A handler at 0x8040, and one in whose entry the unit already is. -/
def handled0 : State := dev { core0 with r := { regs0 with ctl := [(0x080, 0x8018), (0x083, 0x503), (0x084, 0x8041)] } }
def handler0 : State := dev { core0 with r := { regs0 with ctl := [(0x080, 0x8018), (0x084, 0x8041)] } }
def aTrap (cause : BitVec 8) : Trap := { cause := cause, acc := 1, val := true, data := 0xFFFFFFFFFFFF, deferred := none }

theorem witness_TrapsTakeTheirHandlerOrEndTheUnit :
    (aTrap cTAG).cause ≠ cUNCORR ∧ handler0.me.cap = none ∧ fld (handler0.me.ctl 0x084) 0 0 = 1 ∧ fld (handler0.me.ctl 0x083) 8 8 = 0 ∧
    (takeTrap handler0 (aTrap cTAG) true).me.r.pc = 0x8040 ∧ (takeTrap handler0 (aTrap cTAG) true).me.ctl 0x080 = 0x8000 ∧
    (takeTrap handler0 (aTrap cTAG) true).me.ctl 0x082 = 0x0061FFFFFFFFFFFF ∧
    handled0.me.wait = none ∧ handled0.me.tfault = none ∧ handled0.me.macroOp = none ∧ handled0.me.aDone = false ∧ handled0.me.lodcounted = false ∧
    handled0.me.occ = some unit0 ∧ fld (handled0.me.ctl 0x083) 8 8 = 1 ∧ fld ((dev core0).me.ctl 0x084) 0 0 = 0 ∧
    ((takeTrap handled0 (aTrap cTAG) false).core 0).occ = none ∧
    (mfind ((takeTrap (dev core0) (aTrap cTAG) false).part 0).errs 0).map (fun e => (e.status, e.cause, e.epc, e.unit_)) =
      some (5, cTAG, 0x8000, 0x1000) := by decide +kernel

theorem witness_TrapInstructionTakesBreak :
    Ready (dev core0) [3] [] ∧ nextOf (.trap none 3) handler0 =
      some (takeTrap handler0 { cause := cBREAK, acc := 3, val := false, data := 0xFFFFFFFFFFFF, deferred := none } false) := by decide +kernel

/-- TRAP g3 beside ADD g5, g1, g2: the unit has a handler, and g5 stays. -/
def trapped0 : State :=
  { (fetching 0x00000C01 0x04A11000) with latch := none, cores := [(0, { core0 with r := { regs0 with ctl := [(0x084, 0x8041)] } })] }

theorem witness_TrapInstructionTakesBreak_packet :
    (fetch trapped0).toOption = some (0x00000C01, 0x04A11000) ∧ reads 0x00000C01 0x04A11000 (.trap none 3) (.add 5 1 2) = true ∧
    Ready (Spec.beforeSlots trapped0) [3] [] ∧
    ((match issuePacket trapped0 0 with
      | .next t => some (gval t 5, t.me.r.pc, t.me.ctl 0x080, t.me.ctl 0x081)
      | _ => none) = some (0, 0x8040, 0x8000, cBREAK.setWidth 64)) := by decide +kernel

theorem witness_EretReturnsToEpc :
    (nextOf (.eret none) handled0).map (fun t => (t.me.r.npc, t.me.ctl 0x083, t.me.ctl 0x080)) = some (0x8018, 0, 0x8018) := by decide +kernel

theorem witness_PulseCountsAndRestartsTheWatchdog :
    (nextOf (.pulse none) { dev { core0 with r := { regs0 with ctl := [(0x0A1, 0xFFFFFFFFFFFFFFFF)] } } with clk := 9 }).map
      (fun t => (t.me.ctl 0x0A1, t.me.wdogBase)) = some (0, 9) := by decide +kernel

theorem witness_WfiWaitsForItsLimit :
    Ready (dev core0) [2] [] ∧ compute0.me.inCompute = true ∧ trapped (.wfi none 2) compute0 cDETERM = true ∧
    (dev core0).me.inCompute = false ∧ (dev core0).me.anyQueueErr = false ∧ (dev core0).me.wait = none ∧
    stalls (.wfi none 2) (dev core0) ((dev core0).updMe fun k => { k with wait := some (.deadline 5) }) = true ∧
    stalls (.wfi none 0) (dev core0) ((dev core0).updMe fun k => { k with wait := some .forever }) = true ∧
    ran (.wfi none 2) (dev { core0 with wait := some .expired }) (dev core0) = true ∧
    ran (.wfiTimeout 0) { dev { core0 with wait := some (.deadline 5) } with clk := 5 } { dev { core0 with wait := some .expired } with clk := 5 }
      = true := by decide +kernel

theorem witness_ControlRegisters :
    Ready (dev core0) [] [4] ∧ ctlListed 0x080 = true ∧ (dev core0).me.yoke = none ∧ ctlListed 0x004 = true ∧
    trapped (.mfc none 4 0x004) compute0 cDETERM = true ∧ ran (.mfc none 4 0x084) handler0 (handler0.wroteG 4 0x8041) = true ∧
    ran (.mfc none 4 0x001) compute0 (compute0.wroteG 4 0) = true ∧
    (dev core0).me.seqr = [] ∧ (dev core0).me.vcap = none ∧ ((dev core0).fold 0).owner = none ∧
    ran (.mfc none 4 0x07F) (dev core0) ((dev core0).wroteG 4 0) = true ∧
    ctlPrivileged 0x080 = false ∧ isMgmt (dev core0).cur = false ∧ (mtcCheck (dev core0) 0x080 7).toOption = some () ∧
    (nextOf (.mtc none 3 0x080) (dev core0)).map (fun t => t.me.ctl 0x080) = some 0x0000FFFFFFFFFFF8 := by decide +kernel

theorem witness_UnitsLeaveTheirCores :
    (dev core0).me.occ = some unit0 ∧ (dev core0).me.launchOf (dev core0) = some launch0 ∧
    (joinAgents (dev core0) (dev core0)).toOption = some () ∧
    ((agentRead (dev core0) 0 1 0x1008).getD 0).toNat = 0 ∧
    ran (.exit none) (dev core0) (unitGone (leaveCore (dev core0) 0) 0 0 0x1000 1) = true ∧
    ran (.yield none) (dev core0) (suspendUnit (dev core0) 0 1 1 0x8008) = true ∧
    (joinAgents compute0 compute0).toOption = some () ∧ ran (.exit none) compute0 (endRoutine compute0 0) = true ∧
    trapped (.yield none) compute0 cDETERM = true ∧
    Ready (dev core0) [1] [4] ∧ levelOf (dev core0) 0 (some 1) 0x15 = .block .job 0 1 ∧
    ran (.cancel none 4 1) ((dev core0).wroteG 1 0x15) (cancelLevel (((dev core0).wroteG 1 0x15).wroteG 4 2) 0 (.block .job 0 1)).2 = true ∧
    levelOf (dev core0) 0 (some 1) 0 = .nothing ∧ trapped (.cancel none 4 0) (dev core0) cILLEGAL = true ∧
    trapped (.cancel none 4 0) compute0 cDETERM = true ∧
    (let m : State := { dev core0 with cores := [(6144, { Core.idle with r := { regs0 with g := [(1, 0x15)] } })], cur := 6144 }
     (m.me.occ.map fun _ => m.me.job m) = none ∧ levelOf m (corePart m 6144) none 0x15 = .block .job 0 1 ∧
     ran (.cancel none 4 1) m (cancelLevel (m.wroteG 4 2) 0 (.block .job 0 1)).2 = true) ∧
    (Level.block .job 0 2).jobOf (dev core0) 0 ≠ (dev core0).me.job (dev core0) := by decide +kernel

/-! ### Vector instructions -/

/-- Four elements, one lane block; v1 holds 1, 2, 3, 0x80000000 and v2 all ones; g8 selects elements 0 and 3; g1 the Common window. -/
def vec0 (k : Core) : State :=
  dev { k with
    occ := some unit0
    r := { regs0 with
      g := [(1, 0x7D0000000100), (2, 300), (8, 9)], vl := 4, lanes := 1
      v := [(256, 1), (257, 2), (258, 3), (259, 0x80000000), (512, 0xFFFFFFFF), (513, 0xFFFFFFFF), (514, 0xFFFFFFFF), (515, 0xFFFFFFFF)] } }
def vec : State := vec0 core0

theorem witness_VectorUnitEntry_lengths :
    Ready vec [2] [4] ∧ vec.me.capOpen = false ∧
    ran (.vsetl none 4 2) vec ((vec.updMe fun c => { c with r := { c.r with vl := 256 } }).wroteG 4 256) = true ∧
    ran (.vsetli none 4 0) vec ((vec.updMe fun c => { c with r := { c.r with vl := 0 } }).wroteG 4 0) = true ∧
    trapped (.vsetli none 4 257) vec cILLEGAL = true ∧ otherHolders vec 0 = 0 ∧
    ran (.claim none 4 0 0x100) vec ((vec.updMe fun c => { c with lanesWas := some 1, r := { c.r with lanes := 8, lastReq := 256 } }).wroteG 4 256) = true ∧
    ran (.claim none 4 2 0x7F00) vec ((vec.updMe fun c => { c with lanesWas := some 1, r := { c.r with lanes := 2, lastReq := 44 } }).wroteG 4 64) = true ∧
    trapped (.claim none 4 2 0) vec cILLEGAL = true ∧ trapped (.claim none 4 0 0) vec cILLEGAL = true ∧ vec.me.seqr = [] ∧
    ran (.vdrain none) vec vec = true ∧ vec.me.vcap = none ∧ vec.me.yoke = none ∧
    ran (.vrep none 2 15) vec (vec.updMe fun c => { c with vcap := some { left := 16, count := 300, entries := [], suspended := false } }) = true ∧
    trapped (.vrep none 0 0) vec cILLEGAL = true := by decide +kernel

def capturing0 : State := vec0 { core0 with vcap := some { left := 2, count := 1, entries := [], suspended := false } }
def add0 : VEntry := Spec.entry vec (.arith .add) 3 1 2 0 8
/-- The entry with the slice that L = 4 makes it issue. -/
def sliced (e : VEntry) : VEntry := { e with left := 1 }
def busy0 : State := vec0 { core0 with seqr := [.one add0] }
def full0 : State := vec0 { core0 with seqr := List.replicate 16 (.one add0) }
def noLanes0 : State := vec.updMe fun c => { c with r := { c.r with lanes := 0 } }

theorem witness_VectorUnitEntry_entries :
    capturing0.me.capOpen = true ∧ trapped (.vsetl none 4 2) capturing0 cILLEGAL = true ∧ trapped (.vrep none 2 0) capturing0 cILLEGAL = true ∧
    stalls (.vdrain none) busy0 busy0 = true ∧
    Ready vec (Spec.maskGroup vec 8) [] ∧ add0.vregs.all (fun r => (boundV vec.pre r).isNone) = true ∧ vec.me.ventries.length < 16 ∧
    vec.pre.r.lanes ≠ 0 ∧ add0.mask = some 9 ∧ add0.len = 4 ∧
    ran (.vadd 3 1 2 8) vec (vec.updMe fun k => { k with seqr := [.one (sliced add0)] }) = true ∧
    noLanes0.pre.r.lanes = 0 ∧ trapped (.vadd 3 1 2 8) noLanes0 cILLEGAL = true ∧
    16 ≤ full0.me.ventries.length ∧ waits (.vadd 3 1 2 8) full0 = true ∧
    Ready vec [] (span 31 (Spec.groupLen vec)) ∧
    ran (.vcmpFlt 1 2 31) vec (vec.updMe fun k => { k with seqr := [.one (sliced { Spec.entry vec (.cmp .flt) 0 1 2 0 0 with gd := 31 })] }) = true ∧
    ran (.vmovs 1 3 7) vec (vec.updMe fun k => { k with seqr := [.one (sliced { Spec.entry vec (.perm .movs) 0 1 0 0 0 with gd := 7, val := 3 })] }) = true ∧
    ran (.vnarrow 3 1 4 0 2 0) vec (vec.updMe fun k => { k with seqr := [.one (sliced { Spec.entry vec (.cvt .narrow 4 0) 3 1 0 0 0 with rm := 1 })] }) = true ∧
    fcOk (vec.part (corePart vec vec.cur)).facc 18 4 = true := by decide +kernel

def doing0 (e : VEntry) : State := { vec0 { core0 with seqr := [.one e] } with issued := [0] }
def elems (o : Option State) (r : Nat) : Option (List Word32) := o.map fun t => (List.range 5).map fun i => (t.core 0).elem r i

theorem witness_VectorEntryWritesItsElements :
    ((doing0 add0).core 0).loads = [] ∧ add0.left = 0 ∧ Spec.slices { add0 with len := 0 } = 0 ∧ Spec.slices { add0 with len := 33 } = 2 ∧ add0.pops = [] ∧ add0.again = false ∧ boundV ((doing0 add0).core 0) 3 = none ∧
    elems (nextOf (.vectorEntryComplete 0) (doing0 { add0 with op := .int .add })) 3 = some [0, 0, 0, 0x7FFFFFFF, 0] ∧
    elems (nextOf (.vectorEntryComplete 0) (doing0 { add0 with op := .int .subs, vd := 1, mask := none })) 1 =
      some [2, 3, 4, 0x80000001, 0] ∧
    elems (nextOf (.vectorEntryComplete 0) (doing0 { add0 with op := .perm .iota, len := 256, mask := none })) 3 = some [0, 1, 2, 3, 4] ∧
    elems (nextOf (.vectorEntryComplete 0) (doing0 { add0 with op := .int .adds, mask := none })) 3 = some [0, 1, 2, 0x80000000, 0] := by decide +kernel

theorem witness_VectorLoadsAndStores :
    Ready vec [1] [] ∧ vec.me.capOpen = false ∧ boundV vec.me 3 = none ∧ vec.me.r.vl ≠ 0 ∧ vec.me.inCompute = false ∧ vec.me.buffered = [] ∧
    windowOf 0x7D0000000100 = .common ∧ 0x100 + 16 ≤ commonSize vec 0 ∧ vec.bad (commonKey vec 0 0x100) 16 = false ∧
    Spec.unhindered vec clsR 0x7D0000000100 16 ∧ Spec.unhindered vec clsW 0x7D0000000100 16 ∧
    ran (.ldv none 3 1 2 0 0) vec (vec.updMe fun c => { c with loads := [
      { kind := .vec 4 false 4, va := 0x7D0000000100, key := commonKey vec 0 0x100, tr := [], size := 16, rd := 3, escape := false, since := 0 }] }) = true ∧
    ran (.stv none 3 1 1 0) vec (vec.updMe fun c => { c with seqr := [.one
      (sliced { Spec.entry vec (.stv 2) 0 3 0 0 0 with addr := 0x7D0000000100 })] }) = true ∧
    (let s := vec.wroteG 1 0x08007D0000000100
     fcOk (s.part 0).facc 2 0 = true ∧ fcBytes 2 0 4 = 8 ∧
     ran (.ldf none 3 1 0) s (s.updMe fun c => { c with loads := [
      { kind := .vecf 2 0 4 false, va := 0x7D0000000100, key := commonKey vec 0 0x100, tr := [], size := 8, rd := 3, escape := false, since := 0 }] }) = true ∧
     ran (.stf none 3 1 0) s (s.updMe fun c => { c with seqr := [.one
      (sliced { Spec.entry vec (.stf 2 0) 0 3 0 0 0 with addr := 0x7D0000000100 })] }) = true) := by decide +kernel

/-! ### The matrix engine -/

/-- Queue 2 is bound to the matrix engine. T0 and T1 hold 2 by 3 elements of format 15 (INT8), T2 its transpose's shape. -/
def tsh0 : Word := 0x2040F
def tshT : Word := 0x1080F
def int0 : MState :=
  { tiles := [(0, 1), (1, 2), (2, 3), (3, 0xFF), (4096, 4), (4097, 5), (4098, 6)], scales := [], acc := [(0, 100), (1, 7), (4096, 9)]
    tsh := [(0, tsh0), (1, tsh0), (2, tshT)], inbound := [], arrived := [] }
def mxCore : Core :=
  { core0 with r := { regs0 with ctl := [(0x038, 0x300), (0x040, 77)], g := [(1, 0x7D0000000100), (2, 64), (3, 0x4400007D0000000100)] } }
def mx0 (k : Core) : State := { dev k with folds := [(0, { Fold.idle with m := int0, owner := some (0, 0, 77) })] }
def mx : State := mx0 mxCore
def mxFresh : State := dev mxCore
def mxThere : State := mx.updFold 0 fun f => { f with owner := some (0, 1, 78) }

theorem witness_MatrixQueue_own :
    mx.me.occ = some unit0 ∧ (mx.fold (foldOf mx.cur)).owner = some (0, 0, 77) ∧ mx.me.ctl 0x040 = 77 ∧
    Spec.engine mx 2 = 3 ∧ (∀ r, r < 2 → Spec.engine mx r ≠ 3) ∧ (mget ⟨[], none⟩ mx.me.queues 2 : EQueue) = ⟨[], none⟩ ∧
    tshCols (tshOf mx 0) = 3 ∧ tshRows (tshOf mx 0) = 2 ∧ (mmaClass (tshFc (tshOf mx 0)) (tshFc (tshOf mx 1))) = some true ∧
    ran (.mma 7 0 1 0) mx (Spec.mxQueued mx 2 (Spec.mxEntry mx (.mma false) 7 0 1 tsh0 tsh0 [])) = true ∧
    ran (.ttrn 2 0) mx (Spec.mxQueued mx 2 (Spec.mxEntry mx .ttrn 0 2 0 tshT tsh0 [])) = true ∧
    ran (.tcopy 1 0) mx (Spec.mxQueued mx 2 (Spec.mxEntry mx .tcopy 0 1 0 tsh0 tsh0 [])) = true ∧
    ran (.tfwd 0 1) mx (Spec.mxQueued mx 2 (Spec.mxEntry mx (.tfwd 1) 0 0 0 tsh0 tsh0 [])) = true ∧
    ran (.ttake 31 0) mx (Spec.mxQueued mx 2 (Spec.mxEntry mx .ttake 0 31 0 0 tsh0 [])) = true ∧
    ran (.aadd 7 0 1) mx (Spec.mxQueued mx 2 (Spec.mxEntry mx (.aadd true) 7 0 0 0 0 [])) = true ∧
    (mxFresh.fold 0).owner = none ∧
    ran (.azero 0) mxFresh (Spec.mxQueued (Spec.owning mxFresh unit0) 2 (Spec.mxEntry (Spec.owning mxFresh unit0) .azero 0 0 0 0 0 [])) = true ∧
    trapped (.azero 0) mxThere cMXCAP = true ∧ (∀ r, r < 8 → Spec.engine (dev core0) r ≠ 3) ∧ trapped (.azero 0) (dev core0) cILLEGAL = true := by
  decide +kernel

/-- A pointer to bytes of format 15 in the Common window. -/
def mxPtr : Word := 0x3C007D0000000100
def mxStream : State := mx.updMe fun k => { k with r := { k.r with g := mset 0 k.r.g 3 mxPtr } }

theorem witness_MatrixQueue_moves :
    Ready mxStream [3] [] ∧ (streamedCheck mxStream 0 mxPtr 3 mxStream.det).toOption = some () ∧
    (mmaClass (tshFc tsh0) (mxPtr.toNat / 2 ^ 58)) = some true ∧ mxStream.me.fenced clsMR (streamedSpans tsh0 mxPtr) = false ∧
    ran (.mmaz 7 0 3 1) mxStream (Spec.mxQueued mxStream 2 (Spec.mxEntry mxStream (.mmaStreamed true mxPtr) 7 0 0 tsh0 0 [])) = true ∧
    Ready mx [1, 2] [] ∧ (matrixRows mx mx 0x7D0000000100 64 2 3 (fcAlign 15) true).toOption = some ([], mx) ∧
    ran (.tstr none 2 1 2 0) mx (Spec.mxQueued mx 2 (Spec.mxEntry mx (.tstr 0x7D0000000100 64) 0 0 0 tsh0 0 [])) = true ∧
    ran (.tld none 2 1 2 0) mx (Spec.mxQueued mx 2 (Spec.mxEntry mx (.tld 0x7D0000000100 64) 0 0 0 tsh0 0 [])) = true ∧
    accBytes 0 = 4 ∧
    (let s := mx.wroteG 2 0x3E3F010100000040
     ran (.amov none 2 1 2 7) s (Spec.mxQueued s 2 (Spec.mxEntry s (.amov 0x7D0000000100 0x3E3F010100000040) 7 0 0 0 0 [])) = false) ∧
    (let s := mx.wroteG 2 0x3E3E010100000040
     ran (.amov none 2 1 2 7) s (Spec.mxQueued s 2 (Spec.mxEntry s (.amov 0x7D0000000100 0x3E3E010100000040) 7 0 0 0 0 [])) = true ∧
     ran (.ald none 2 1 2 7) s (Spec.mxQueued s 2 (Spec.mxEntry s (.ald 0x7D0000000100 0x3E3E010100000040) 7 0 0 0 0 [])) = true) := by
  decide +kernel

def queued0 (e : MEntry) : State := mx0 { mxCore with queues := [(2, { entries := [.matrix e], err := none })] }
def mma0 : MEntry := Spec.mxEntry mx (.mma false) 0 0 1 tsh0 tsh0 []
def els (o : Option State) (a : Nat) : Option (List Word32) :=
  o.map fun t => [(t.fold 0).m.el a 0 0, (t.fold 0).m.el a 0 1, (t.fold 0).m.el a 1 0, (t.fold 0).m.el a 63 63]

theorem witness_MatrixEntriesPerform :
    mma0.faulted = none ∧ matrixTurn ((queued0 mma0).core 0) mma0 = true ∧ ((queued0 mma0).core 0).yoke = none ∧ (queued0 mma0).downLinks = [] ∧
    holdsOn (queued0 mma0) 0 0 0 = true ∧ msorted int0.acc = true ∧ msorted int0.tiles = true ∧ tshRows tsh0 ≤ 64 ∧
    els (nextOf (.matrixEntryPerform 0 2) (queued0 mma0)) 0 = some [132, 7, 0xFFFFFFFC, 0] ∧
    (Spec.accNew int0 mma0 0 0, Spec.accNew int0 mma0 1 0) = (132, 0xFFFFFFFC) ∧
    els (nextOf (.matrixEntryPerform 0 2) (queued0 mma0)) 1 = some [9, 0, 0, 0] := by
  decide +kernel

def commanding0 (w : Option Wait) : State := mx0 { mxCore with wait := w }

/-- A queue that recorded a cause. -/
def failedQ : EQueue := ⟨[], some { cause := cMXCAP, acc := 3, val := false, data := 0 }⟩

theorem witness_MxcmdTravelsAndIsAnswered :
    Ready mx [0, 0, 0] [] ∧ mx.me.wait = none ∧ mx.me.inFlagged = false ∧ mx.me.launchOf mx = some launch0 ∧ mcmdOf 0x64000000 = some (.azero 0) ∧
    mcmdOf 0x60000100 = some (.mma false true 0 0 0) ∧
    stalls (.mxcmd (some 0x64000000) 2 0 0 0) mx (commanding0 (some (.mxcmd 2 0 0x64000000 0 none))) = true ∧
    stalls (.mxcmd (some 0x60000100) 2 0 0 1) mx (commanding0 (some (.mxcmd 2 0 0x60000100 0x7D0000000100 none))) = true ∧
    ran (.mxcmd (some 0x64000000) 2 0 0 0) (commanding0 (some (.released 0))) mx = true ∧
    trapped (.mxcmd (some 0x64000000) 2 0 0 0) (commanding0 (some (.released (BitVec.ofNat 64 cMXCAP.toNat)))) cMXCAP = true ∧
    ran (.mxcmdAnswer 0) (commanding0 (some (.mxcmd 2 0 0x64000000 0 (some 5)))) (commanding0 (some (.released 5))) = true ∧
    (ownMatrix mx 0 0 0 (mx.me.ctl 0x040)).isSome = true ∧ (mxFresh.fold 0).owner = none ∧
    ran (.mxcmdRemoteAccept 0) ((commanding0 (some (.mxcmd 2 0 0x64000000 0 none))).updMe fun k => { k with queues := [(2, failedQ)] })
      ((commanding0 none).updMe fun k => { k with queues := [(2, failedQ)] }) = true ∧
    ((nextOf (.mxcmdRemoteAccept 0) (commanding0 (some (.mxcmd 2 0 0x64000000 0 none)))).map fun t =>
      (t.me.wait, (mget ⟨[], none⟩ t.me.queues 2 : EQueue).entries)) =
      some (some (.mxcmd 2 0 0x64000000 0 (some 0)), [.matrix (matrixEntry (commanding0 none) 0 0 .azero 0 0 0 0 0)]) := by decide +kernel

def arriving0 : State := queued0 { mma0 with op := .arriving 1 0 0 77 tsh0 [(0, 8)] [] }
def tf0 (a : Bool) : TransFault := { va := 0x40, acc := 0, answer := some a, seq := none }
def stopped0 (a : Bool) : State := queued0 { mma0 with faulted := some (tf0 a) }

theorem witness_TilesArriveAndStreamedFaultsResolve :
    neighbour arriving0 0 1 = some 1 ∧ (ownMatrix arriving0 1 0 0 77).isSome = true ∧ holdsOn arriving0 0 0 0 = true ∧
    ((nextOf (.tileArrival 0 2) arriving0).map fun t => ((t.fold 1).m.inbound, mget 0 (t.fold 1).m.tsh 0, (t.fold 1).m.tile 0 0)) =
      some ([0], tsh0, 8) ∧
    ownMatrix (arriving0.updFold 1 fun f => { f with owner := some (0, 1, 5) }) 1 0 0 77 = none ∧
    ((nextOf (.tileArrival 0 2) (arriving0.updFold 1 fun f => { f with owner := some (0, 1, 5) })).map fun t =>
      (mget ⟨[], none⟩ t.me.queues 2 : EQueue)) = some ⟨[], some { cause := cMXCAP, acc := 3, val := false, data := 0 }⟩ ∧
    ((nextOf (.streamedBFaultResolved 0 2) (stopped0 true)).map fun t => (mget ⟨[], none⟩ t.me.queues 2 : EQueue)) =
      some ⟨[.matrix mma0], none⟩ ∧
    ((nextOf (.streamedBFaultResolved 0 2) (stopped0 false)).map fun t => (mget ⟨[], none⟩ t.me.queues 2 : EQueue)) =
      some ⟨[], some { cause := cTRANSLATION, acc := 0, val := true, data := 0x40 }⟩ := by decide +kernel

/-! ### Copies, streams, chutes, local memory and paddocks -/

/-- Doublewords as bytes, zero up to n of them. -/
def dwBytes (n : Nat) (ws : List Word) : List Byte := (List.range n).flatMap fun i => leBytes 8 (ws.getD i 0).toNat

/-- Local memory of 4096 bytes. Queue 1 is bound to copy engine 1. -/
def eng0 (k : Core) : State :=
  { dev { k with
      occ := some unit0
      r := { regs0 with
        ctl := [(0x038, 0x10), (0x022, 0x7D0000000000)], g := [(1, 0x7F0000000100), (2, 4), (3, 0x7F0000000200), (4, 0x0800000000000000)] } } with
    parts := [(0, { part0 with launches := [(0, { launch0 with lmem := 0x1000 })] })] }
def copying : State := setLocal (eng0 core0) 0 0x100 [1, 2, 3, 4]
def cpy0 : CEntry :=
  { op := .cpy, chute := false, dst := 0x7F0000000200, src := 0x7F0000000100, n := 4, desc := [], tr := [], next := 0, got := [], seen := [], faulted := none }

theorem witness_CopyEngine :
    Ready copying [3, 2, 1] [] ∧ Spec.engine copying 1 = 1 ∧ (mget ⟨[], none⟩ copying.me.queues 1 : EQueue) = ⟨[], none⟩ ∧
    (nextOf (.cpy none 1 3 2 1 0) copying).map (fun t => (mget ⟨[], none⟩ t.me.queues 1 : EQueue).entries) =
      some [.copy cpy0] ∧
    (nextOf (.cpyz none 1 3 2 0) copying).map (fun t => (mget ⟨[], none⟩ t.me.queues 1 : EQueue).entries) =
      some [.copy { cpy0 with op := .cpyz, src := 0 }] ∧
    Spec.engine copying 0 ≠ 1 ∧ Spec.engine copying 0 ≠ 2 ∧ trapped (.cpy none 0 3 2 1 0) copying cILLEGAL = true ∧
    (let s : State := copying.updMe fun k => { k with queues := [(1, { entries := [.copy cpy0], err := none })] }
     copyTurnOf s 0 1 = true ∧ engLent s 0 cpy0.writes = false ∧ (judgeAll s 0 [] cpy0.reads).toOption = some () ∧
     (nextOf (.copyEntryPerform 0 1) s).map (fun t => (readKey t (localKey 0 0x203), readKey t (localKey 0 0x204) == readKey s (localKey 0 0x204),
       (mget ⟨[], none⟩ t.me.queues 1 : EQueue).entries)) = some (4, true, [])) ∧
    (let z : CEntry := { cpy0 with op := .cpyz, dst := 0x7F0000000102, src := 0, n := 2 }
     let s : State := copying.updMe fun k => { k with queues := [(1, { entries := [.copy z], err := none })] }
     (nextOf (.copyEntryPerform 0 1) s).map (fun t => (readKey t (localKey 0 0x101), readKey t (localKey 0 0x102))) = some (2, 0)) ∧
    (let g : CEntry := { cpy0 with op := .gath, next := 3, faulted := some (tf0 true) }
     let s : State := copying.updMe fun k => { k with queues := [(1, { entries := [.copy g], err := none })] }
     (nextOf (.copyFaultResolved 0 1) s).map (fun t => (mget ⟨[], none⟩ t.me.queues 1 : EQueue).entries) =
       some [.copy { g with faulted := none }]) := by decide +kernel

/-- A descriptor at local offset 0x100: four words from local offset 0x200 on, a ring of two at 0x400. -/
def streamWords : List Word := [0x7F0000000200, 0x0001000100010004, 0x20, 0, 0x4000100, 0, 0, 0]
def describing : State := setLocal (eng0 core0) 0 0x100 (dwBytes 8 streamWords)
def bindOf (flags : Word) : Stream := streamOf [0x0400000000000200, 0x0001000100010004, 0x20, 0, flags, 0, 0, 0] 0x7F0000000100
def binding (t : Stream) : State := describing.updMe fun k => { k with streams := [(0, t)] }

theorem witness_StreamsBindMoveAndEnd :
    describing.latch = none ∧ Ready describing [1] [] ∧ mfind describing.me.streams 0 = none ∧ describing.me.seqr = [] ∧
    windowOf 0x7F0000000100 = .ownLocal ∧ (descRead describing 0x7F0000000100 8).toOption.map (·.1) = some streamWords ∧
    streamOk (streamOf streamWords 0x7F0000000100) 0 0x100 (describing.me.heap describing) = true ∧
    (nextOf (.sbind none 24 1) describing).map (fun t => (t.me.streams, t.me.ctl 0x030)) =
      some ([(0, streamOf streamWords 0x7F0000000100)], 0x80007F0000000100) ∧
    trapped (.sbind none 24 1) (binding (bindOf 0x100)) cSTREAM = true ∧
    ran (.sstat none 4 24) (binding { bindOf 0x100 with pos := 4 }) ((binding { bindOf 0x100 with pos := 4 }).wroteG 4 0xC000000000000004) = true ∧
    ran (.sstat none 4 24) describing (describing.wroteG 4 0) = true ∧
    ran (.sdrain none 24) (binding (bindOf 0x101)) (binding (bindOf 0x101)) = true ∧
    ran (.sunbind none 24) (binding (bindOf 0x100)) (endStream (binding (bindOf 0x100)) 0 0) = true ∧
    stalls (.sdrain none 24) (binding { bindOf 0x101 with ring := [.val 1 none] }) (binding { bindOf 0x101 with ring := [.val 1 none] }) = true ∧
    trapped (.sunbind none 24) describing cSTREAM = true ∧ trapped (.sdrain none 24) describing cSTREAM = true := by decide +kernel

def filling : Stream := streamOf [0x0400_7F0000000200, 0x0001000100010004, 0x20, 0, 0x100, 0, 0, 0] 0x7F0000000100

theorem witness_StreamsBindMoveAndEnd_entries :
    fillDue (binding filling) 0 filling = true ∧ (binding filling).downLinks = [] ∧ ((binding filling).core 0).tfault = none ∧
    (fillStream (binding filling) 0 0 filling).isSome = true ∧
    (nextOf (.streamFill 0 0) (binding filling)).map (fun t => (mfind t.me.streams 0).map fun x => (x.ring.length, x.moved)) =
      some (some (1, 1)) ∧
    (let t : Stream := { filling with words := [0x04007F0000000200, 0x0001000100010004, 0x20, 0, 0x101, 0, 0, 0], ring := [.val 0x3F800000 none] }
     drainEntryDue (binding t) 0 0 t = true ∧ (drainEntry (binding t) 0 0 t).isSome = true ∧
     (nextOf (.streamDrainEntry 0 0) (binding t)).map (fun u => ((mfind u.me.streams 0).map fun x => (x.ring.length, x.moved),
       readKey u (localKey 0 0x203))) = some (some (0, 1), 0x3F)) := by decide +kernel

/-- A chute block at 0x100: four slots of 64 bytes, two free, two filled, head 3. -/
def chuteWords : List Word := [0x0002000200400004, 0x20003, 0, 0, 0, 0, 0, 0]
def chuteDev : State := setLocal (eng0 core0) 0 0x100 (dwBytes 8 chuteWords)
def chute0 : Chute := { addr := 0x100, nslot := 4, ssize := 64, free := 1, filled := 2, head := 3, tail := 2, held := 1 }
def loadedChute (x : Chute) : State := (eng0 core0).setChute 0 5 x

theorem witness_ChutesAndLocalMemory :
    Ready chuteDev [1] [] ∧ (descRead chuteDev 0x7F0000000100 8).toOption.map (·.1) = some chuteWords ∧
    chuteOk chuteWords 0x100 (chuteDev.me.heap chuteDev) = true ∧
    (nextOf (.cbinit none 1 5) chuteDev).map (fun t => t.chute 0 5) = some (some { chute0 with free := 2, held := 0 }) ∧
    Ready (loadedChute chute0) [] [4] ∧ (loadedChute chute0).chute 0 5 = some chute0 ∧
    ran (.cbpop none 4 5) (loadedChute chute0)
      ((loadedChute { chute0 with filled := 1, head := 0, held := 2 }).wroteG 4 0x7F0000000200) = true ∧
    stalls (.cbpop none 4 5) (loadedChute { chute0 with filled := 0 }) (loadedChute { chute0 with filled := 0 }) = true ∧
    ran (.cbpush none 5) (loadedChute chute0) (loadedChute { chute0 with free := 2, held := 0 }) = true ∧
    trapped (.cbpush none 5) (loadedChute { chute0 with held := 0 }) cSTREAM = true ∧
    ran (.cbstat none 4 5) (loadedChute chute0) ((loadedChute chute0).wroteG 4 0x0001000300020001) = true ∧
    trapped (.cbpop none 4 6) (loadedChute chute0) cSTREAM = true ∧ ran (.cbstat none 4 6) chuteDev (chuteDev.wroteG 4 0) = true := by
  decide +kernel

def marked : State := (eng0 core0).updMe fun k => { k with amark := 0x40 }

theorem witness_ChutesAndLocalMemory_local :
    Ready marked [2] [4] ∧ ran (.lmalloc (some 0x41) 4 0) marked (marked.wroteG 4 0) = true ∧
    ran (.lmalloc (some 0x40) 4 0) marked ((invalidate (marked.updMe fun k => { k with amark := 0 }) 0 0 0x40).wroteG 4 0x7F0000000000) = true ∧
    ran (.lmfree none 4) (marked.wroteG 4 0x7F0000001000) ((marked.wroteG 4 0x7F0000001000).updMe fun k => { k with amark := 0x1000 }) = true ∧
    trapped (.lmfree none 4) (marked.wroteG 4 0x7F0000001040) cILLEGAL = true ∧ trapped (.lmfree none 2) marked cILLEGAL = true ∧
    trapped (.lminv none 2 0) (copying.wroteG 2 0x0001000000000000) cTAG = true ∧ trapped (.lminv (some 2) 1 0) copying cMISALIGN = true ∧
    trapped (.lminv (some 8) 1 0) (copying.wroteG 1 0x7F0000000FFC) cPERMISSION = true ∧ copying.me.blocked copying 0 (0x7F0000000100, 4) = false ∧
    copying.me.loads = [] ∧ copying.me.marginAt 0x100 = false ∧ engLent copying 0 [(0x7F0000000100, 4)] = false ∧
    ran (.lminv (some 4) 1 0) copying (invalidate copying 0 0x100 4) = true ∧
    ran (.lminv (some 4) 1 0) (copying.wroteG 1 0x7F0000000FFC) (invalidate (copying.wroteG 1 0x7F0000000FFC) 0 0xFFC 4) = true := by decide +kernel

/-- A periodic window of four words in one block with a margin of one, declared at the start of the Common window; FACC bit 3 = 1. -/
def pdWords : List Word := [0x10101, 4, 1]
def pdAll : List Word := (List.range 32).map fun i => pdWords.getD i 0
def padding (k : Core) : State :=
  let s := eng0 k
  let p : Part := { part0 with facc := 0x80000000000F7FFF, launches := [(0, { launch0 with lmem := 0x1000 })] }
  { s with parts := [(0, p)] }.setBytes (commonKey s 0 0) (dwBytes 32 pdWords)
def pad0 : Paddock := { k := 0, decl := 0x7D0000000000, words := pdAll, box := 0x100, gen := 0, subs := [], stamps := [] }
def padded (k : Core) (p : Paddock) : State := (padding k).updMe fun c => { c with padds := [(0, p)] }

theorem witness_PaddocksBindMusterAndDrop :
    (padding core0).latch = none ∧ Ready (padding core0) [1, 0] [4] ∧ mfind (padding core0).me.padds 0 = none ∧
    trapped (.pdrop none 0) (padding core0) cILLEGAL = true ∧ trapped (.gwait none 0 0) (padding core0) cILLEGAL = true ∧
    ran (.gstat none 4 0) (padding core0) ((padding core0).wroteG 4 0) = true ∧ trapped (.muster none 0) (padding core0) cILLEGAL = true ∧
    declOk pdAll = true ∧ ownersOk pdAll 8 0 = true ∧ boxBytes pdAll 0 = 24 ∧ ((padding core0).part 0).facc.getLsbD 3 = true ∧
    (padding core0).bad (commonKey (padding core0) 0 0) 256 = false ∧
    (nextOf (.pdecl none 1 0 0) (padding core0)).map (fun t => (t.me.padds, t.me.ctl 0x022)) = some ([(0, pad0)], 0x80007D0000000000) ∧
    trapped (.pdecl none 1 0 0) (padded core0 pad0) cILLEGAL = true := by decide +kernel

theorem witness_PaddocksBindMusterAndDrop_pieces :
    isFace (pdNdim pdAll) 0 = true ∧ isFace (pdNdim pdAll) 1 = false ∧ pad0.sent = [(0, 0), (0, 2)] ∧
    (padded core0 pad0).me.storesDone (padded core0 pad0) 0 = true ∧
    (let s := padded { core0 with stores := [{ va := 0x7D0000000000, key := commonKey (dev core0) 0 0, bytes := [1] }] } pad0
     s.me.storesDone s 0 = false ∧ stalls (.muster none 0) s s = true) ∧
    ran (.muster none 0) (padded core0 pad0) (padded { core0 with pieces := [
      { part := 0, blk := 0, win := 0, decl := 0x7D0000000000, peer := 0, face := 0, tag := 1 }, { part := 0, blk := 0, win := 0, decl := 0x7D0000000000, peer := 0, face := 2, tag := 1 }] }
      { pad0 with gen := 1 }) = true ∧
    ran (.gwait (some 5) 0 0) (padded core0 pad0) (padded core0 pad0) = true ∧
    stalls (.gwait (some 1) 0 0) (padded core0 { pad0 with gen := 1 }) (padded core0 { pad0 with gen := 1 }) = true ∧
    ran (.gstat none 4 0) (padded core0 { pad0 with gen := 33 }) ((padded core0 { pad0 with gen := 33 }).wroteG 4 0x0000000508000000) = true ∧
    ran (.pdrop none 0) (padded core0 pad0) ((padding core0).updMe fun k => k.setCtl 0x022 0x7D0000000000) = true ∧
    (let s := padded { core0 with pieces := [{ part := 0, blk := 0, win := 0, decl := 0x7D0000000000, peer := 0, face := 2, tag := 1 }] } { pad0 with gen := 1 }
     (acceptPiece s 0 0 { part := 0, blk := 0, win := 0, decl := 0x7D0000000000, peer := 0, face := 2, tag := 1 }).isSome = true ∧
     (nextOf (.pieceAccept 0 0) s).map (fun t => t.me.pieces) = some []) := by decide +kernel

/-! ### Synchronisation, messages, exchange and the drove -/

/-- g1 addresses the event unit, g6 the value 7; fold 0 has events and mutexes in use. -/
def evDev (k : Core) (f : Fold) : State :=
  { dev { k with occ := some unit0, r := { regs0 with g := [(1, 0x7C0000000000), (2, 1), (6, 7)] } } with folds := [(0, f)] }
def ev (f : Fold) : State := evDev core0 f
def taken0 : Fold := { Fold.idle with mutexes := [(3, { holder := some (0, 0x1000), waiters := [] })], events := [(4, 2)] }

theorem witness_EventUnit_lines :
    Ready (ev taken0) [1, 6] [4] ∧ Spec.eventAccess (ev Fold.idle) 1 (BitVec.ofNat 12 0x23) clsR (0x100 + 8 * 3) ∧
    Spec.eventAccess (ev taken0) 1 (BitVec.ofNat 12 0x23) clsW (0x100 + 8 * 3) ∧ (ev taken0).me.runner = (0, 0x1000) ∧
    ran (.ld none 4 1 3 0 0x23) (ev Fold.idle) ((ev { Fold.idle with mutexes := [(3, { holder := some (0, 0x1000), waiters := [] })] }).wroteG 4 1) = true ∧
    ran (.st none 6 1 3 0x23) (ev taken0) (ev { taken0 with mutexes := [(3, { holder := none, waiters := [] })] }) = true ∧
    trapped (.st none 6 1 3 0x24) (ev taken0) cPERMISSION = true ∧
    ran (.ld none 4 1 3 0 0x44) (ev taken0) ((ev { taken0 with events := [(4, 1)] }).wroteG 4 2) = true ∧
    ran (.st none 6 1 3 0x44) (ev taken0) (ev { taken0 with events := [(4, 9)] }) = true ∧
    ran (.ld none 4 1 3 0 0x200) (ev taken0) ((ev taken0).wroteG 4 0xFF) = true ∧
    ran (.st none 6 1 3 0x20F) (ev taken0) (ev { taken0 with barriers := [(15, { Barrier.reset with memb := 7 })] }) = true ∧
    ran (.ld none 4 1 3 0 0x400) (ev taken0) ((ev taken0).wroteG 4 0) = true ∧
    ran (.st none 6 1 3 0x400) (ev taken0) (ev { taken0 with sync := [(0, 7)] }) = true := by decide +kernel

def bar0 (b : Barrier) : Fold := { Fold.idle with barriers := [(2, b)] }

theorem witness_EventUnit_barrier :
    trapped (.ld none 4 1 3 0 2) (ev (bar0 { Barrier.reset with memb := 0xFE })) cPERMISSION = true ∧
    stalls (.ld none 4 1 3 0 2) (ev (bar0 { Barrier.reset with memb := 1 })) (evDev { core0 with wait := some (.barrier 2 0) }
      (bar0 { Barrier.reset with memb := 1, arrived := [0] })) = true ∧
    (let s := evDev { core0 with wait := some (.barrier 2 255) } (bar0 { dom := 0, gen := 255, memb := 1, arrived := [0] })
     ran (.barrierRelease 0 2) s (evDev { core0 with wait := some (.released 0) } (bar0 { dom := 0, gen := 0, memb := 1, arrived := [] })) = true) ∧
    ran (.ld none 4 1 3 0 2) (evDev { core0 with wait := some (.released 9) } (bar0 { Barrier.reset with memb := 1 }))
      ((ev (bar0 { Barrier.reset with memb := 1 })).wroteG 4 9) = true := by decide +kernel

theorem witness_EventUnit_instructions :
    (ev taken0).me.occ = some unit0 ∧ (ev taken0).me.launchOf (ev taken0) = some launch0 ∧ (ev taken0).pre.capOpen = false ∧
    (joinAgents (ev taken0) (ev taken0)).toOption = some () ∧
    trapped (.evwait none 4) compute0 cDETERM = true ∧ trapped (.evsig none 0 2 4) compute0 cDETERM = true ∧
    trapped (.evcnt none 4 4) compute0 cDETERM = true ∧ ran (.evcnt none 4 4) (ev taken0) ((ev taken0).wroteG 4 2) = true ∧
    ran (.evwait none 4) (ev taken0) (ev { taken0 with events := [(4, 1)] }) = true ∧
    ran (.evwait none 5) (ev taken0) (suspendUnit (ev { taken0 with evwait := [(5, .unit_ 0 0x1000)] }) 0 3 4 0x8008) = true ∧
    ran (.evsig none 0 2 4) (ev taken0) (addEvent (ev taken0) (devFold (ev taken0) 0 0) 4 1) = true ∧
    trapped (.evsig none 2 2 4) (ev taken0) cILLEGAL = true ∧ trapped (.evsig none 0 0 4) (ev taken0) cILLEGAL = true ∧
    (let s := evDev { core0 with stores := [{ va := 0x7D0000000000, key := commonKey (dev core0) 0 0, bytes := [1] }] } taken0
     s.me.rwDone s 0 = false ∧ stalls (.evsig none 0 2 4) s s = true) := by decide +kernel

/-- The arena at 0x1000 in HBM: the job has no page tables, so records are written by the launch's own state only. -/
def arena0 : State := dev { core0 with r := { regs0 with g := [(1, 0x1040), (2, 0x8010), (4, 11)] }, deque := [(0, 0x1080), (0, 0x10C0)] }

theorem witness_DequesForkAndJoin :
    arena0.me.occ = some unit0 ∧ arena0.me.launchOf arena0 = some launch0 ∧ Ready arena0 [1] [] ∧
    trapped (.dqpush none 2) arena0 cPERMISSION = true ∧
    ran (.dqpop none 4) arena0 ((arena0.updMe fun k => { k with deque := [(0, 0x10C0)] }).wroteG 4 0x1080) = true ∧
    ran (.dqpop none 4) (dev core0) ((dev core0).wroteG 4 0) = true ∧
    ran (.dqsteal none 4 0) arena0 ((arena0.updMe fun k => { k with deque := [(0, 0x1080)] }).wroteG 4 0x10C0) = true ∧
    trapped (.dqsteal none 4 1) arena0 cILLEGAL = true ∧ ran (.dqsteal none 4 0) (dev core0) ((dev core0).wroteG 4 0) = true ∧
    (arena0.core 0).spill = [] := by decide +kernel

/-- Context 5 of core 0 with one filled slot; channel messages go to it. -/
theorem witness_MessagesTravelChannels :
    (loadedChute chute0).me.sendErr = false ∧ Ready (loadedChute chute0) [2] [4] ∧
    ran (.recv none 4 5) (loadedChute chute0) ((loadedChute { chute0 with filled := 1, head := 0, held := 2 }).wroteG 4 0x7F0000000200) = true ∧
    ran (.recvt none 4 2 5) (loadedChute chute0) ((loadedChute { chute0 with filled := 1, head := 0, held := 2 }).wroteG 4 0x7F0000000200) = true ∧
    trapped (.recv none 4 6) (loadedChute chute0) cCHANNEL = true ∧ trapped (.recvt none 4 2 6) (loadedChute chute0) cCHANNEL = true ∧
    (let s := loadedChute { chute0 with filled := 0 }
     (joinAgents s s).toOption = some () ∧ ((nextOf (.recv none 4 5) s).map fun t => (t.me.occ, (t.launch 0 0).map (·.recvs))) =
       some (none, some [(0x1000, 0, 5)]) ∧
     stalls (.recvt none 4 2 5) s (s.updMe fun k => { k with wait := some (.recvt 4) }) = true ∧
     trapped (.recvt none 4 0 5) s cDEADLINE = true ∧
     trapped (.recvt none 4 2 5) { (loadedChute chute0).updMe (fun k => { k with wait := some (.recvt 4) }) with clk := 5 } cDEADLINE = true ∧
     trapped (.recvt none 4 2 5) (s.updMe fun k => { k with wait := some .expired }) cDEADLINE = true ∧
     ran (.recvtTimeout 0) { s.updMe (fun k => { k with wait := some (.recvt 4) }) with clk := 4 }
       { s.updMe (fun k => { k with wait := some .expired }) with clk := 4 } = true) ∧
    (let s := (loadedChute chute0).updMe fun k => { k with sendErr := true }
     trapped (.send none 4 1 2) s cCHANNEL = true ∧ trapped (.recv none 4 5) s cCHANNEL = true) := by decide +kernel

/-- A raw message of four bytes from local offset 0x100 to channel 5 of launch core 0. -/
def sending0 : State := (copying.wroteG 4 0x50000).setChute 0 5 chute0
def msg0 : Msg := { part := 0, blk := 0, core := 0, chan := 5, fc := 0, bl := 0, src := 0x7F0000000100, n := 4, tr := [] }

theorem witness_MessagesTravelChannels_send :
    Ready sending0 [4, 1, 2] [] ∧ (copyPtr sending0 .cpy 0x7F0000000100).toOption = some () ∧ fcOk (sending0.part 0).facc 0 0 = true ∧
    (copyRange sending0 0 0x7F0000000100 4 false false (fun _ => true) []).toOption.map (·.1) = some [] ∧
    (judgeAll sending0 0 [] [(0x7F0000000100, 4)]).toOption = some () ∧
    ((nextOf (.send none 4 1 2) sending0).map fun t => t.me.sends) = some [msg0] ∧
    (let s := sending0.updMe fun k => { k with sends := [msg0] }
     (arriveMessage s 0 msg0).isSome = true ∧ ((nextOf (.messageArrival 0) s).map fun t => (t.me.sends, (t.chute 0 5).map (·.filled))) =
       some ([], some 3)) := by decide +kernel

/-- An arena of four records in the Common window: the unit runs from the first, the second is READY, the third FREE, the fourth a join
block with count 2. -/
def records0 (count : Word) : State :=
  let l : Launch := { launch0 with arena := 0x7D0000001000, anum := 4 }
  let s : State := { dev { core0 with
    occ := some { unit0 with rcd := 0x7D0000001000 }
    r := { regs0 with g := [(1, 0x7D0000001040), (2, 0x8010), (4, 11), (5, 0x7D00000010C0)] } } with
    parts := [(0, { part0 with launches := [(0, l)] })] }
  let put (s : State) (o : Nat) (w : Word) : State := s.setBytes (commonKey s 0 o) (leBytes 8 w.toNat)
  put (put (put (put s 0x1000 0x0002000000008000) 0x1040 0x0001000000008010) 0x1080 0) 0x10C0 count
def recs : State := records0 2

theorem witness_DequesForkAndJoin_records :
    recs.me.launchOf recs = some { launch0 with arena := 0x7D0000001000 } ∧ Ready recs [1] [] ∧
    ((agentRead recs 0 1 0x7D0000001040).getD 0).toNat / 2 ^ 48 % 8 = 1 ∧
    ran (.dqpush none 1) recs (recs.updMe fun k => { k with deque := [(0, 0x7D0000001040)] }) = true ∧
    trapped (.dqpush none 5) recs cILLEGAL = true ∧ trapped (.dqpush none 1) (recs.wroteG 1 0x7D0000001100) cPERMISSION = true ∧
    Ready recs [0, 2, 4, 4, 5, 6, 7, 8] [] ∧ freeRecord recs 0 { launch0 with arena := 0x7D0000001000 } = some 0x7D0000001080 ∧
    recs.me.rwDone recs 0 = true ∧
    ((nextOf (.fork none 0 2 4) recs).map fun t => (t.me.deque, ((t.part 0).blk .launch 0).out,
      (span 0 8).map fun i => agentRead t 0 1 (0x7D0000001080 + 8 * i))) =
      some ([(0, 0x7D0000001080)], 1, [some 0x0001000000008010, some 0, some 11, some 11, some 0x7D00000010C0, some 0, some 0, some 0]) ∧
    trapped (.fork none 5 2 4) (records0 0x100000002) cILLEGAL = true ∧
    (joinBlock recs 0x7D00000010C0).toOption = some recs ∧ recs.pre.capOpen = false ∧
    ran (.join none 5) (records0 1) (agentWrite (agentWrite (records0 1) 0 1 0x7D00000010C8 0x7D0000001000) 0 1 0x7D00000010C0 0) = true ∧
    (joinAgents recs recs).toOption = some () ∧
    ran (.join none 5) recs (suspendUnit ((agentWrite (agentWrite recs 0 1 0x7D00000010C8 0x7D0000001000) 0 1 0x7D00000010C0 1).updPart 0 fun q =>
      { q with launches := [(0, { launch0 with arena := 0x7D0000001000, joins := [(0x7D0000001000, 0x7D00000010C0)] })] }) 0 3 2 0x8008) = true ∧
    trapped (.join none 5) (records0 0) cILLEGAL = true ∧ trapped (.join none 5) (records0 0x100000001) cILLEGAL = true := by decide +kernel

/-- The flagged launch's core 0 in domain 3, and in an exchange routine with one scheduled line. -/
def gang1 : Launch := { gang0 with routines := [[], []], lmem := 0x1000 }
def gangDev (l : Launch) (k : Core) : State :=
  { dev { k with r := { regs0 with g := [(1, 0x7F0000000100), (2, 3)] } } with parts := [(0, { part0 with launches := [(0, l)] })] }

theorem witness_SuperstepsSynchronise :
    trapped (.bdom none 2) (dev core0) cILLEGAL = true ∧ trapped (.ssync none) (dev core0) cILLEGAL = true ∧
    compute0.me.launchOf compute0 = some gang0 ∧ Ready compute0 [0] [] ∧ (0 ∈ domainCores gang0 0) ∧ trapped (.bdom none 0) compute0 cDETERM = true ∧
    ran (.bdom none 0) exchange0 (exchange0.updMe fun k => k.setCtl 0x0C0 0) = true ∧ trapped (.bdom none 3) exchange0 cILLEGAL = true ∧
    lastCompute exchange0 exchange0.me = false ∧ trapped (.ssync none) exchange0 cDETERM = true := by decide +kernel

theorem witness_SuperstepsSynchronise_arrival :
    lastCompute compute0 compute0.me = true ∧ (joinAgents compute0 compute0).toOption = some () ∧
    ran (.ssync none) compute0 (arrive (putAway (endCapture compute0 0) 0) 0) = true := by decide +kernel

/-- The eight cores of the fold have arrived at the barrier of domain 0; or core 0's exchange phase has ended. -/
def arrived0 : State :=
  { compute0 with cores := (List.range 8).map fun i => (i, { core0 with occ := some { routine0 with k := i, stage := 1, running := false } }) }
def over0 (ss : Nat) : State :=
  (flaggedDev { core0 with occ := some { routine0 with ss := ss, stage := 3, running := false } })

theorem witness_SuperstepsSynchronise_release :
    arrived0.launch 0 0 = some gang0 ∧ (arrived0.part 0).contrec = [] ∧ stagesOf arrived0 0 0 0 = [] ∧
    ((domainCores gang0 0).map (launchCore arrived0 0 gang0)).all (fun c => match (arrived0.core c).occ with
      | some o => decide (o.part = 0 ∧ o.blk = 0 ∧ o.stage = 1) && decide (((arrived0.core c).ctl 0x0C0).toNat % 2 ^ 16 = 0)
      | none => false) = true ∧
    ((nextOf (.superstepRelease 0 0 0) arrived0).map fun t => ((t.core 7).occ.map (·.stage), (t.core 0).snap.isSome)) = some (some 3, true) ∧
    ((over0 0).core 0).launchOf (over0 0) = some gang0 ∧ ((over0 0).part 0).contrec = [] ∧ ((over0 0).core 0).awaited (over0 0) = [] ∧
    16 * (((((over0 0).core 0).ctl 0x0C1).toNat / 2 ^ 16) % 2 ^ 16) ≤ ((over0 0).clk - ((over0 0).core 0).xclkBase) % 2 ^ 32 ∧
    ((nextOf (.exchangePhaseEnd 0) (over0 0)).map fun t => t.me.occ.map (·.ss)) = some (some 1) ∧
    ((nextOf (.exchangePhaseEnd 0) (over0 1)).map fun t => t.me.occ) = some none := by decide +kernel

/-- One line from core 0 to core 0, in slot 5 on channel 2. -/
def schedGang : Launch :=
  { gang0 with lmem := 0x1000, sched := [0, 0x0000000100000000, 0, 0x0002000000000005, 0x200] }
def xdev (k : Core) (clk : Nat) : State :=
  let s := { dev { k with
    occ := some { routine0 with stage := 2, xrout := true }
    r := { regs0 with g := [(1, 0x7F0000000100), (2, 5)] } } with
    parts := [(0, { part0 with launches := [(0, schedGang)] })], clk := clk }
  setLocal s 0 0x100 (List.replicate 64 7)
def xfer0 : Xfer := { dst := 0, doff := 0x200, bytes := List.replicate 64 7, chan := 2, slot := 5 }

theorem witness_ScheduledTransfers :
    (xdev core0 80).me.launchOf (xdev core0 80) = some schedGang ∧ Ready (xdev core0 80) [1, 2] [4] ∧
    (xdev core0 80).me.schedule (xdev core0 80) = [{ slot := 5, src := 0, dst := 0, chan := 2, doff := 0x200, nline := 1 }] ∧
    trapped (.xsend none 1 2) compute0 cDETERM = true ∧ trapped (.xsend (some 6) 1 0) (xdev core0 80) cSLOT = true ∧
    trapped (.xsend none 1 2) (xdev { core0 with xused := [5] } 80) cSLOT = true ∧ trapped (.xsend none 1 2) (xdev core0 96) cLATE = true ∧
    (let s := xdev core0 80
     gval s 1 = 0x7F0000000100 ∧ windowOf 0x7F0000000100 = .ownLocal ∧ 0x100 + 64 ≤ s.me.lmem s ∧ Spec.unhindered s (clsCR + clsCW) 0x7F0000000100 64 ∧
     (List.range 64).all (fun i => s.me.validAt (0x100 + i) && !s.bad (localKey 0 (0x100 + i)) 1) = true ∧
     ((nextOf (.xsend none 1 2) s).map fun t => (t.me.xused, t.me.xfers, t.issue)) = some ([5], [xfer0], .done)) ∧
    ((nextOf (.xsend none 1 2) (xdev core0 95)).map fun t => (t.me.xused, t.me.xfers)) = some ([5], [xfer0]) ∧
    stalls (.xsend none 1 2) (xdev core0 79) (xdev core0 79) = true ∧
    trapped (.xrecv none 4 2) compute0 cDETERM = true ∧ trapped (.xrecv none 4 3) (xdev core0 80) cCHANNEL = true ∧
    stalls (.xrecv none 4 2) (xdev core0 80) (xdev core0 80) = true ∧
    (let s := xdev { core0 with xwritten := [5] } 80
     ran (.xrecv none 4 2) s ((s.updMe fun k => { k with xtaken := [5] }).wroteG 4 0x7F0000000200) = true) := by decide +kernel

theorem witness_ScheduledTransfers_write :
    (let s := xdev { core0 with xfers := [{ xfer0 with dst := 1, bytes := [7, 8] }] } 80
     let l : Launch := { schedGang with setup := [0, 1] }
     let s := { s with parts := [(0, { part0 with launches := [(0, l)] })] }
     l.setup.contains (l.lcore 1) = true ∧ s.downLinks = [] ∧ (s.core 0).rwDone s 0 = true ∧ launchCore s 0 l 1 = 1 ∧
     ((nextOf (.exchangeTransferWrite 0 0) s).map fun t => (t.me.xfers, (t.core 1).xwritten, readKey t (localKey 1 0x201))) =
       some ([], [5], 8)) := by decide +kernel

/-- A core with drove requests; slot 9 holds key 1. -/
def dslot0 : DSlot := { soft := false, state := .live, key := 1, hold := 0, words := [40, 0, 0, 0, 0, 0, 0] }
def drover (k : Core) : State :=
  { dev { k with occ := some unit0, r := { regs0 with g := [(1, 1), (2, 5), (3, 0x400000)], ctl := [(0x0D0, 6)] } } with slots := [(9, dslot0)] }
def dreq (op : DroveOp) (rd : Nat) (v cmp : Word) (w : Nat) : DroveReq :=
  { op := op, key := 1, rd := rd, v := v, cmp := cmp, word := w, tr := [], since := 0, seen := 0 }
def cap0 : Capture := { key := 1, slot := some 9, buf := [40, 0, 0, 0, 0, 0, 0], orig := [40, 0, 0, 0, 0, 0, 0], since := 0 }
def held0 (c : Capture) : State := drover { core0 with cap := some c }

theorem witness_Drove_requests :
    Ready (drover core0) [1, 2, 4] [4] ∧ Spec.droveKey (drover core0) 1 1 ∧ (drover core0).me.drove.length < 8 ∧
    logFold (drover core0) 0 (foldOf (drover core0).cur) = 0 ∧
    trapped (.dread none 4 1 7) (drover core0) cILLEGAL = true ∧ trapped (.dput none 1 2 7) (drover core0) cILLEGAL = true ∧
    ran (.dboard none 4 1 2) (drover core0) (drover { core0 with drove := [dreq .board 4 5 0 0] }) = true ∧
    trapped (.dboard none 4 3 2) (drover core0) cPERMISSION = true ∧
    ran (.dalight (some 0) 4 1 0) (drover core0) (drover core0) = false ∧
    ran (.dread none 4 1 6) (drover core0) (drover { core0 with drove := [dreq .read 4 0 0 6] }) = true ∧
    ran (.drmwAdd none 4 1 2 0) (drover core0) (drover { core0 with drove := [dreq (.rmw 0) 4 5 0 0] }) = true ∧
    ran (.drmwCas none 2 1 2 6) (drover core0) (drover { core0 with drove := [dreq (.rmw 11) 2 5 5 6] }) = true ∧
    trapped (.drmwSwap none 4 0 2 0) compute0 cDETERM = true ∧
    ran (.dcap none 1) (drover core0) (drover { core0 with drove := [dreq .cap 0 0 0 0], cap := some { cap0 with slot := none, buf := [], orig := [] } })
      = true ∧
    trapped (.dcap none 1) (held0 cap0) cILLEGAL = true := by decide +kernel

theorem witness_Drove_captured :
    ran (.dread none 4 1 0) (held0 cap0) ((droveDone (held0 cap0) 0 (some 9)).wroteG 4 40) = true ∧
    ran (.drmwAdd none 4 1 2 0) (held0 cap0) ((droveDone (held0 { cap0 with buf := [45, 0, 0, 0, 0, 0, 0] }) 0 (some 9)).wroteG 4 40) = true ∧
    ran (.dput none 1 2 6) (held0 cap0) (droveDone (held0 { cap0 with buf := [40, 0, 0, 0, 0, 0, 5] }) 0 (some 9)) = true ∧
    ran (.drel none 1) (held0 cap0) ((held0 cap0).updMe fun k => { k with drove := [dreq .rel 0 0 0 0] }) = true ∧
    trapped (.dlap none 4) compute0 cDETERM = true ∧ ran (.dlap none 4) (drover core0) ((drover core0).wroteG 4 6) = true ∧
    stalls (.dlap none 4) (drover { core0 with drove := [dreq .read 5 0 0 6] }) (drover { core0 with drove := [dreq .read 5 0 0 6] }) = true := by
  decide +kernel

/-- The head request of an empty ring fails, a home fold that lost the key's slot fails it at once, and a capture is 16 revolutions old. -/
def badHome : State :=
  { drover { core0 with drove := [dreq .read 4 0 0 6, dreq .read 5 0 0 6] } with folds := [(0, { Fold.idle with badKeys := [1] })] }

theorem witness_Drove_completion :
    (match droveNext badHome 0 with | some (0, _, .fail c 0) => c == cUNCORR | _ => false) = true ∧
    ((nextOf (.droveRequestFail 0) badHome).map fun t => (t.me.drove, t.me.droveErr.map (·.1.cause))) = some ([], some cUNCORR) ∧
    (badHome.core 0).yoke = none ∧ boundG (badHome.core 0) 4 = none ∧
    (let s := { held0 cap0 with clk := 16384 }
     ((nextOf (.captureTimeout 0) s).map fun t => (t.me.cap.isSome, t.me.droveErr.map (·.1.cause))) = some (false, some cDROVE)) ∧
    ((drover core0).slot 9).state ≠ .empty ∧
    ((nextOf (.droveSlotError 9) (drover core0)).map fun t => (t.slot 9, (t.fold 0).badKeys)) = some (DSlot.empty, [1]) := by decide +kernel


/-- Requests at core 0's stop in the clk in which slot 9 passes it. -/
def meeting (r : DroveReq) : State := { drover { core0 with drove := [r] } with clk := 1015 }

theorem witness_Drove_slots :
    ((meeting (dreq .read 4 0 0 0)).core 0).yoke = none ∧ boundG ((meeting (dreq .read 4 0 0 0)).core 0) 4 = none ∧
    droveNext (meeting (dreq .read 4 0 0 0)) 0 = some (0, dreq .read 4 0 0 0, .slot 9 1015) ∧
    ((nextOf (.droveRequestApply 0) (meeting (dreq .read 4 0 0 0))).map fun t => (t.me.drove, gval t 4, t.slot 9, (t.fold 0).stopNext)) =
      some ([], 40, dslot0, 1016) ∧
    ((nextOf (.droveRequestApply 0) (meeting (dreq (.rmw 0) 4 5 0 0))).map fun t => (gval t 4, (t.slot 9).words.head?)) = some (40, some 45) ∧
    droveNext (meeting (dreq .board 4 5 0 0)) 0 = some (0, dreq .board 4 5 0 0, .answer 2 1015) ∧
    ((nextOf (.droveRequestApply 0) (meeting (dreq .board 4 5 0 0))).map fun t => (t.me.drove, gval t 4, t.slot 9)) = some ([], 2, dslot0) := by
  decide +kernel

/-- A collective's descriptor at the Common window's 0x1000: stream 5 broadcasts one fp32 element from rank 0, and the core is rank 1 of 2. -/
def desc0 : List Word := [0x0001000200100005, 0x04007D0000001100, 0x04007D0000001100, 0x100000001, 0x7D0000001180, 0x7D0000001140, 0, 0]
def collDev (kind2 : Word) (streams : SMap VStream) : State :=
  let s : State := { dev { core0 with r := { regs0 with g := [(1, 0x7D0000001000), (2, 9), (4, 5)], ctl := [(0x010, 2)] } } with
    parts := [(0, { part0 with streams := streams })] }
  let t := (desc0.set 0 (desc0.getD 0 0 ||| kind2)).zipIdx.foldl (fun (s : State) w => s.setBytes (commonKey s 0 (0x1000 + 8 * w.2)) (leBytes 8 w.1.toNat)) s
  t.setBytes (commonKey s 0 0x1140) [0, 0, 0, 0, 0, 0, 0, 0]
def coll0 : State := collDev 0 []
def shared0 : List Word := collShared desc0 [0, 0]
def vstream0 : VStream :=
  { level := 2, shared := shared0, ranks := [], aborted := false, direct := true, routers := [(0, 0x80100, 0x10040, 0)],
    flows := [(0, [{ away := false, ins := [(6, [0])], outs := [6] }])], inq := [], bank := [], out := [], sent := [], digests := [] }
def rank1 (epoch : Word) : Rank :=
  { rank := 1, fold := 0, core := 0, blk := 0, epoch := epoch, desc := desc0, tr := [], got := [], bytes := [], flags := [],
    ndig := 0, closed := false }
def vstream1 (epoch : Word) : VStream := { vstream0 with ranks := [rank1 epoch] }

theorem witness_CollectivesRun_open :
    coll0.latch = none ∧ Ready coll0 [1, 2] [3] ∧ coll0.me.inCompute = false ∧ (collDesc coll0 0x7D0000001000).toOption = some (desc0, coll0) ∧
    collValid (coll0.part 0).facc desc0 = true ∧ fcOk (coll0.part 0).facc (cdWfc desc0) (cdWbl desc0) = true ∧
    (collTable coll0 desc0).toOption = some ([0, 0], coll0) ∧
    (Spec.vsRegions coll0 desc0 (dw desc0 1) (dw desc0 2)).toOption = some ([], coll0) ∧
    boundG coll0.me 3 = none ∧ coll0.me.rwDone coll0 0 = true ∧ cdSends desc0 1 = false ∧ engLent coll0 0 [] = false ∧ ownChunks desc0 = [] ∧
    ran (.vsset none 3 1 2) coll0 ((openRank coll0 desc0 [] 9 vstream0).wroteG 3 0) = true ∧
    (((nextOf (.vsset none 3 1 2) coll0).bind fun t => mfind (t.part 0).streams 5) == some (vstream1 9)) = true ∧
    trapped (.vsset none 3 1 2) { compute0 with mem := coll0.mem } cDETERM = true ∧
    trapped (.vsset none 3 1 2) (collDev 0x5000 []) cILLEGAL = true := by decide +kernel

/-- The stream stands open already, and the rank joins it. -/
theorem witness_CollectivesRun_joins :
    vstream0.shared = collShared desc0 [0, 0] ∧ vstream0.rankOf 1 = none ∧ engLent (collDev 0 [(5, vstream0)]) 0 [] = false ∧
    ran (.vsset none 3 1 2) (collDev 0 [(5, vstream0)]) ((openRank (collDev 0 [(5, vstream0)]) desc0 [] 9 vstream0).wroteG 3 0) = true := by
  decide +kernel

theorem witness_CollectivesRun_entries :
    (collEntries coll0 desc0 [0, 0]).toOption.map (·.1) = some vstream0.routers ∧ (collEntries coll0 desc0 [0, 0]).toOption.map (·.2) = some coll0 := by
  decide +kernel

theorem witness_CollectivesRun_opened :
    ran (.vsset none 3 1 2) (collDev 0 [(5, { vstream0 with level := 1 })]) ((collDev 0 [(5, { vstream0 with level := 1 })]).wroteG 3 1) = true ∧
    ran (.vsset none 3 1 2) (collDev 0 [(5, vstream1 9)]) ((collDev 0 [(5, vstream1 9)]).wroteG 3 2) = true ∧
    ran (.vsmark none 4) (collDev 0 [(5, vstream1 9)]) (collDev 0 [(5, vstream1 9)]) = true ∧
    ran (.vsmark none 4) (collDev 0 [(5, { vstream1 9 with direct := false })])
      (collDev 0 [(5, { vstream1 9 with direct := false, inq := [(6, [.marker false [1]])] })]) = true ∧
    (let x : VStream := { vstream0 with ranks := [{ rank1 9 with rank := 0 }] }
     x.marking 0 0 = some { rank1 9 with rank := 0 } ∧
     ran (.vsmark none 4) (collDev 0 [(5, x)]) (collDev 0 [(5, { x with inq := [(6, [.marker false [0]])] })]) = true ∧
     ran (.vsmark none 4) (collDev 0 [(5, { x with aborted := true })]) (collDev 0 [(5, { x with aborted := true })]) = true) ∧
    trapped (.vsmark none 4) coll0 cILLEGAL = true ∧ trapped (.vsmark none 4) (coll0.wroteG 4 0x1000) cILLEGAL = true ∧
    trapped (.vsmark none 4) (collDev 0 [(5, vstream0)]) cILLEGAL = true ∧
    trapped (.vswait none 3 1) (collDev 0x5000 [(5, vstream1 9)]) cILLEGAL = true ∧ trapped (.vsdig none 3 1) (collDev 0x5000 []) cILLEGAL = true := by decide +kernel

theorem witness_CollectivesRun_wait :
    (openPart (collDev 0 [(5, vstream1 9)]) 0x7D0000001000).toOption = some (desc0, vstream1 9, rank1 9, collDev 0 [(5, vstream1 9)]) ∧
    partDone (collDev 0 [(5, vstream1 9)]) (vstream1 9) (rank1 9) = false ∧
    stalls (.vswait none 3 1) (collDev 0 [(5, vstream1 9)]) (collDev 0 [(5, vstream1 9)]) = true ∧
    (let s := collDev 0 [(5, { vstream1 9 with aborted := true })]
     ran (.vswait none 3 1) s ((collDev 0 []).wroteG 3 1) = true ∧ ran (.vsdig none 3 1) s (s.wroteG 3 1) = true) ∧
    (let x : VStream := { vstream1 0xFFFFFFFFFFFFFFFF with digests := [(1, 7), (0, 7)] }
     let s := collDev 0 [(5, x)]
     partDone s x (rank1 0xFFFFFFFFFFFFFFFF) = true ∧ ran (.vswait none 3 1) s ((collDev 0 []).wroteG 3 0) = true ∧
     ran (.vsdig none 3 1) s ((collDev 0 [(5, { x with ranks := [{ rank1 0xFFFFFFFFFFFFFFFF with ndig := 1 }] })]).wroteG 3 0) = true) := by
  decide +kernel

/-- Rank 1's digest differs from rank 0's: both the answer 2 and DIGEST in FEVT. -/
theorem witness_CollectivesRun_differs :
    (let x : VStream := { vstream1 0xFFFFFFFFFFFFFFFF with digests := [(1, 7), (0, 8)] }
     let s := collDev 0 [(5, x)]
     x.digest 0 0 = some 8 ∧ x.digest 1 0 = some 7 ∧
     ((nextOf (.vsdig none 3 1) s).map fun t => (mget 0 t.me.r.g 3, (t.part 0).fevt, t.msix)) = some (2, 4, [(0, 1)])) := by
  decide +kernel

/-- The rank takes its element at its router, its chunk's bytes are performed and then its flag. -/
theorem witness_CollectivesRun_beats :
    (let s := collDev 0 [(5, { vstream1 9 with inq := [(6, [.elem false [0] 0 77])] })]
     let taken : Rank := { rank1 9 with got := [(elemKey 0 0, 77)] }
     ((nextOf (.routerBeat 0 0 5) s).bind fun t => (mfind (t.part 0).streams 5).bind fun x => x.ranks.head?) = some taken) ∧
    (let s := collDev 0 [(5, { vstream1 9 with ranks := [{ rank1 9 with got := [(elemKey 0 0, 77)] }] })]
     ((nextOf (.portBeatArrival 0 5 (.chunk 0)) s).map fun t => (agentRead t 0 1 0x7D0000001100, ((mfind (t.part 0).streams 5).map fun x => x.ranks.map (·.bytes)))) =
       some (some 0xFFFFFFFF0000004D, some [[0]])) := by decide +kernel

/-- Rank 0 is on device 3, which port 2 leads to: its beats and digests come in, and what leaves for it is sent. -/
def farStream : VStream := { vstream1 9 with shared := collShared desc0 [3, 0], flows := [(0, [{ away := false, ins := [(8, [0])], outs := [6] }])] }
def farDev (x : VStream) : State := { collDev 0 [(5, x)] with ports := [(2, 1 + 3 * 2 ^ 56)] }
def farAfter (a : Arrival) (x : VStream) : Option VStream := (nextOf (.portBeatArrival 0 5 a) (farDev x)).bind fun t => mfind (t.part 0).streams 5

theorem witness_CollectivesRun_far :
    farStream.dev 0 = 3 ∧ farStream.peerPort (farDev farStream) 0 2 = true ∧ farStream.peerPort (farDev farStream) 0 1 = false ∧
    (farAfter (.digest 2 0 7) farStream).map (·.digests) = some [(0, 7)] ∧
    (farAfter (.sent 0) { farStream with out := [(0, [.digest 1 8])] }).map (fun x => (x.out, x.sent)) = some ([(0, [])], [(0, .digest 1 8)]) ∧
    (let s : State := { farDev farStream with ports := [(2, 3 * 2 ^ 56)] }
     nextOf (.portBeatArrival 0 5 (.digest 2 0 7)) s = some { s with issue := .held }) := by decide +kernel

/-- An fadd's bank takes three partial sums by the canonical tree of their ranks: (0 + 1) first, then 2 and 3 together. -/
theorem test_bank_sums_by_rank_position :
    bankCombine 1 2 [.elem false [0, 1] 0 0x4B800000, .elem false [2] 0 0x3F800000, .elem false [3] 0 0x3F800000] =
      [.elem false [0, 1, 2, 3] 0 0x4B800001] := by decide +kernel

/-- At level 2 an adder flushes subnormal contributions and keeps a subnormal partial sum (R182, R186). -/
theorem test_partial_sums_are_results :
    joinBeats 1 2 [.elem false [0, 1] 0 0x00400000, .elem false [2] 0 0x00800000] = some (.elem false [0, 1, 2] 0 0x00C00000) ∧
    joinBeats 1 2 [.elem false [0] 0 0x00400000, .elem false [1] 0 0x00800000] = some (.elem false [0, 1] 0 0x00800000) := by decide +kernel

/-- A pair: core 0's unit, and core 1. -/
def yoke0 : Yoke := { state := 1, fp := 0, ivpos := 0, other := none, agree := none, point := none, held := [], queued := [], late := [], consumed := 0, close := false }
def paired (y : Yoke) : State := dev { core0 with yoke := some y }
def quarred (s : State) : State := { s with nv := { s.nv with quar := [0, 1] } }

theorem witness_PairsRunAndCompare :
    Ready (dev core0) [] [4] ∧ (dev core0).me.inFlagged = false ∧ (part0.facc).getLsbD 7 = true ∧
    trapped (.yoke none 4) compute0 cILLEGAL = true ∧ trapped (.unyoke none) compute0 cILLEGAL = true ∧
    ran (.yoke none 4) (quarred (dev core0)) ((quarred (dev core0)).wroteG 4 2) = true ∧
    ((nextOf (.yoke none 4) (dev core0)).map fun t => (t.me.yoke, (t.core 1).partnerOf, fld (t.me.ctl 0x020) 8 8, gval t 4)) =
      some (some yoke0, some 0, 1, 0) ∧
    (let s := { dev core0 with cores := [(0, core0), (1, core0)] }
     stalls (.yoke none 4) s (s.updMe fun k => { k with wait := some .yoke }) = true) ∧
    (let s := { dev core0 with cores := [(0, core0), (1, core0)], parts := [(0, { part0 with launches := [(0, { launch0 with pers := true, setup := [0, 1], homes := [(0x1000, 1)] })] })] }
     holdsPersistent s 1 = true ∧ ran (.yoke none 4) s (s.wroteG 4 1) = true) ∧
    ran (.unyoke none) (dev core0) (dev core0) = true ∧ ran (.yoke none 4) (paired yoke0) ((paired yoke0).wroteG 4 0) = true ∧
    ((nextOf (.unyoke none) (paired yoke0)).map fun t => (t.me.yoke, (t.core 1).partnerOf)) = some (none, none) ∧
    stalls (.unyoke none) (paired { yoke0 with ivpos := 1 }) (paired { yoke0 with ivpos := 1, close := true }) = true := by decide +kernel

theorem witness_PairsRunAndCompare_events :
    (let s := paired { yoke0 with close := true, fp := 5 }
     intervalDue s 0 = true ∧ ((nextOf (.intervalEnd 0) s).map fun t => (t.me.ctl 0x091, (t.me.yoke.map (·.ivpos)))) = some (5, some 0)) ∧
    (let s := paired { yoke0 with close := true, fp := 5, other := some 6, agree := some { regs0 with pc := 0x9000 } }
     intervalDue s 0 = true ∧ ((nextOf (.intervalEnd 0) s).map fun t => (t.me.r.pc, t.me.yoke.map (·.state))) = some (0x9000, some 2)) ∧
    (let s := paired { yoke0 with state := 2, close := true, fp := 5, other := some 6 }
     intervalDue s 0 = true ∧ thirdPossible s 0 = true ∧
     ((nextOf (.intervalEnd 0) s).map fun t => t.me.yoke.map fun z => (z.state, z.fp, z.other)) = some (some (3, 5, some 6))) ∧
    (let s := paired { yoke0 with state := 2, close := true, fp := 5, other := some 6, agree := some { regs0 with pc := 0x9000 } }
     let s : State := { s with parts := [(0, { part0 with facc := 0x80000000000F7FEF })] }
     (s.part 0).facc.getLsbD 4 = false ∧ ((nextOf (.intervalEnd 0) s).map fun t => (t.me.r.pc, t.me.occ.map (·.running), (t.part 0).contrec)) =
       some (0x9000, some false, [{ blk := 0, core := 0, kind := 2 }])) ∧
    (let s := paired { yoke0 with state := 3, fp := 5, other := some 6 }
     thirdDue s 0 = true ∧ (s.core 0).journal = [] ∧ (s.core 0).jspill = [] ∧
     ((nextOf (.thirdRunComplete 0 5) s).map fun t => (t.nv.quar, (t.core 1).thirds)) = some ([1], 1) ∧
     ((nextOf (.thirdRunComplete 0 6) s).map fun t => (t.nv.quar, (t.core 0).thirds)) = some ([0], 1) ∧
     ((nextOf (.thirdRunComplete 0 6) s).map fun t => (t.me.ctl 0x091, (t.core 1).ctl 0x091, t.me.yoke.map (·.state))) = some (6, 6, some 1) ∧
     (nextOf (.thirdRunComplete 0 7) s).isSome = true) := by decide +kernel

/-- Core 0 with two entries of job 1, and a 1 GiB leaf of the job's tables. -/
def tlb0 (base : Nat) : TlbEntry := { parity := false, job := 1, base := base, size := 0x1000, key := 0, w := true, crit := false }
def tlbDev : State :=
  let s := dev { core0 with r := { regs0 with g := [(1, 0x10000), (2, 1), (3, 0x0001000000000000), (5, 0x7D0000000000)] }, tlb := [tlb0 0x10000, tlb0 0x11000] }
  let t := s.setBytes (hbmKey s 0 0x100000) (leBytes 8 0x101001)
  t.setBytes (hbmKey s 0 0x101000) (leBytes 8 7)

theorem witness_TlbInvalidatesAndProbes :
    Ready tlbDev [1, 2] [4] ∧ tlbDev.me.rwDone tlbDev 0 = true ∧
    trapped (.tlbinv none 1 2 3) tlbDev cILLEGAL = true ∧ trapped (.tlbinv none 1 2 0) compute0 cDETERM = true ∧
    trapped (.tlbinv none 3 2 0) tlbDev cTAG = true ∧ trapped (.tlbprobe none 4 3) tlbDev cTAG = true ∧
    ran (.tlbinv none 1 2 0) tlbDev (tlbDev.updMe fun k => { k with tlb := [tlb0 0x11000] }) = true ∧
    ran (.tlbinv none 1 0 2) tlbDev (tlbDev.updMe fun k => { k with tlb := [] }) = true ∧
    ran (.tlbprobe none 4 5) tlbDev (tlbDev.wroteG 4 0) = true ∧
    (walk tlbDev 0 1 0x10000).toOption.map (·.size) = some (2 ^ 30) ∧ ran (.tlbprobe none 4 1) tlbDev (tlbDev.wroteG 4 0x23) = true ∧
    (critWalk tlbDev 0 1 0x10000).1.toOption.map (·.size) = some (2 ^ 30) ∧
    (let s : State := { tlbDev.setBytes (hbmKey tlbDev 0 0x101000) (leBytes 8 0x8000000000000007) with flips := [true, true] }
     (walk s 0 1 0x10000).toOption.map (·.crit) = some true ∧ (critWalk s 0 1 0x10000).1.toOption = none ∧
     (nextOf (.tlbprobe none 4 1) s).map (fun t => gval t 4) = some 0x80 ∧
     (nextOf (.tlbprobe none 4 1) { s with flips := [true] }).map (fun t => gval t 4) = some 0x63) ∧
    (walk (dev core0) 0 1 7).toOption = none ∧ ran (.tlbprobe none 4 1) (dev core0) ((dev core0).wroteG 4 0) = true := by decide +kernel

/-! ## Events of the Steading, the scheduler, recovery and the fabric -/

/-- An event completes with a value of the state after it. -/
def after {α : Type} [DecidableEq α] (i : Instr) (s : State) (f : State → α) (x : α) : Bool :=
  decide ((nextOf i s).map (fun t => (f t, t.issue)) = some (x, .done))

/-- The device off, in the wait for its image, and with a warm die. -/
def off0 : State := { dev core0 with powered := false }
def boot5 : State := { State.reset with boot := 5 }
def hot0 (t : Therm) : State := { dev core0 with therm := [(1, t)] }

theorem witness_StartUpAndLayout :
    (dev core0).powered = true ∧ after .powerLoss (dev core0) (fun t => (t.powered, t.cores, t.nv.image)) (false, [], (dev core0).nv.image) = true ∧
    waits .powerLoss off0 = true ∧ waits (.powerGood 20) (dev core0) = true ∧
    after (.powerGood 20) State.reset (fun t => (t.powered, t.boot, mget 0 t.nv.pwrDie 3, t.bootPlan.head?)) (true, 0, 1, some (1, 30)) = true ∧
    after (.imageSourceWrite 1 2 3) (dev core0) (fun t => t.nv.image) [1, 2, 3] = true ∧
    waits (.imglenWrite 64) boot5 = true ∧ after (.imglenWrite 64) { boot5 with imgAddr := some 8 } (fun t => (t.imgLen, t.bootPlan)) (64, [(6, 1200)]) = true ∧
    after (.attestationRequest 9) (dev core0) (fun t => t.spdm.map (·.head?)) [some 9] = true ∧ waits (.attestationRequest 9) State.reset = true ∧
    layoutBusy (dev core0) = true ∧ layoutBusy { State.reset with boot := 7 } = false ∧
    ran (.partitionLayoutChange .whole) (dev core0) { dev core0 with busy := true } = true ∧
    after (.partitionLayoutChange .quarters) { State.reset with boot := 7 } (fun t => (t.layout, t.busy, t.part 3)) (.quarters, false, { Part.reset with svcNext := 1024 }) = true ∧
    after (.powerGood 20) { State.reset with nv := { State.reset.nv with form := .bare false, pwrDie := [(3, 8)] } } (fun t => mget 0 t.nv.pwrDie 3) 1 = true := by decide +kernel

/-- Start-up at a step of its plan. -/
def booting (st ms : Nat) : State := { State.reset with bootPlan := [(st, ms)], clk := ms * clkMs }

theorem witness_StartUpAndLayout_boot :
    (bootStep (booting 1 30)).boot = 0x0000001E00000001 ∧ bootStep { booting 1 30 with clk := 30 * clkMs - 1 } = { booting 1 30 with clk := 30 * clkMs - 1 } ∧
    (bootStep { booting 3 700 with retrain := [0] }).boot = 0x000002BC00000013 ∧ (bootStep { booting 4 700 with retrain := [0] }).boot = 0x000002BC00000004 ∧
    (bootStep (booting 5 900)).boot = 0x0000038400000005 ∧ (bootStep { booting 5 900 with nv := { State.reset.nv with image := [2, 0, 0] } }).boot = 0x000003840000000F ∧
    imageBytes { booting 6 2100 with imgBad := true } = none ∧ (bootStep { booting 6 2100 with imgBad := true }).boot = 0x000008340000000F ∧
    (imageBytes { booting 6 2100 with imgAddr := some 64, imgLen := 1 }).isSome = true ∧
    (bootStep (booting 7 2900)).boot = 0x00000B5400000007 ∧ (bootStep (booting 7 2900)).ringStart = 2900 * clkMs := by decide +kernel

theorem witness_HostWritesAndWear :
    after (.thermalSample 1 60) (hot0 (.armed 20)) (fun t => (t.nv.exc, mfind t.therm 1)) ([(1, 1)], some (.counted 60)) = true ∧
    after (.thermalSample 1 59) (hot0 (.armed 20)) (fun t => (t.nv.exc, mfind t.therm 1)) ([], some (.armed 20)) = true ∧
    after (.thermalSample 1 20) (hot0 (.counted 60)) (fun t => mfind t.therm 1) (some (.armed 20)) = true ∧
    after (.thermalSample 1 91) (hot0 (.counted 60)) (fun t => (mfind t.therm 1, t.hotPend)) (some (.counted 91), [(1, 1)]) = true ∧
    waits (.thermalSample 4 20) (dev core0) = true ∧
    after .wearMinutesFlush { dev core0 with hotPend := [(1, 1201)] } (fun t => (t.nv.hotm, t.hotPend)) ([(1, 2)], [(1, 1)]) = true ∧
    (let s := { dev core0 with ecc := [(localKey 0 8 / 4, false)] }
     after (.scrub 0 2) s (fun t => (t.eccCount, t.ecc)) (1, []) = true ∧ waits (.scrub 0 3) s = true) ∧
    after (.registerWrite 0 0x0360 8) boot5 (·.imgAddr) (some 8) = true ∧ waits (.registerWrite 0 0x0331 8) (dev core0) = true ∧
    windowUp (dev core0) 0 = true ∧
    after (.registerWrite 0 0x0330 2) { dev core0 with parts := [(0, { part0 with fevt := 7 })] } (fun t => (t.part 0).fevt) 5 = true ∧
    after (.registerWrite 0 0x0300 0x5FFF) (dev core0) (fun t => (t.part 0).fqBase) 0x5000 = true ∧
    after (.registerWrite 0 0x0308 12) (dev core0) (fun t => (t.part 0).fqLog) 12 = true ∧
    (ringKey (dev core0) 0 0x1000 2).isSome = true ∧
    after (.hostMemoryWrite 0 0x1000 [1, 2]) (dev core0) (fun t => (ringKey t 0 0x1001 1).map t.byte) (some 2) = true ∧
    (let s := (dev core0).setBytes (hbmKey (dev core0) 0 0x1000) [5, 0, 0, 0]
     ringKey s 0 0x1000 4 = some (hbmKey s 0 0x1000) ∧ s.bad (hbmKey s 0 0x1000) 4 = false ∧
     let s : State := { s with ports := [(2, 1)] }
     after (.systemScopeRequest ⟨0, 2⟩ 0x1000 0 false 7 0) s (fun t => t.bytes (hbmKey s 0 0x1000) 4) [12, 0, 0, 0] = true ∧
     ran (.systemScopeRequest ⟨0, 2⟩ 0x1000 15 false 7 0) s s = true ∧ waits (.systemScopeRequest ⟨0, 1⟩ 0x1000 0 false 7 0) s = true) := by decide +kernel

/-- A partition with one queue. -/
def queued (q : Queue) (facc : Word) : State := { dev core0 with parts := [(0, ({ part0 with facc := facc }).setQueue 0 q)] }
def q0 : Queue := (queued ((dev core0).part 0 |>.queue 0) 0).part 0 |>.queue 0
def done0 : Word := 0x80000000000F7FFF

theorem witness_QueuesAndNegotiation :
    after (.faccWrite 0 6) (queued q0 0) (fun t => (t.part 0).facc) (faccValue (dev core0).nv.feat 6) = true ∧
    ran (.faccWrite 0 6) (queued q0 done0) (queued q0 done0) = true ∧ waits (.faccWrite 0 0x8000000000000000) (queued q0 0) = true ∧
    after (.negotiationDone 0 0x8000000000000006) (queued q0 0) (fun t => fld (t.part 0).facc 63 63) 1 = true ∧
    ran (.functionReset 0) (queued q0 done0) (queued q0 0xF7FFF) = true ∧
    (let s := queued { q0 with cfg := 4, st := .disabled, en := false } done0
     (q0.start true).log = q0.log ∧
     after (.queueEnable 0 0) s (fun t => ((t.part 0).queue 0).en) true = true ∧
     after (.queueDisable 0 0) s (fun t => ((t.part 0).queue 0).en) false = true ∧
     after (.qkick 0 0) s (fun t => ((t.part 0).queue 0).kick) false = true) ∧
    after (.qkick 0 0) (queued { q0 with st := .fetch, en := true } done0) (fun t => ((t.part 0).queue 0).kick) true = true ∧
    after (.queueReset 0 0) (queued { q0 with st := .halted, en := true } done0) (fun t => ((t.part 0).queue 0).st) .disabled = true := by decide +kernel

/-- A queue at its record: not sealed, and the block that it waits for. -/
theorem witness_QueuesAndNegotiation_records :
    (let s := queued { q0 with cfg := 4, st := .fetch, en := true, first := true, base := 0 } done0
     queueTurn s 0 = some 0 ∧ readWaits s 0 0 = false ∧ (readRecord s 0 0).isSome = true ∧
     after (.recordRead 0 0) s (fun t => (((t.part 0).queue 0).st, ((t.part 0).queue 0).count)) (.retry, 1) = true) ∧
    (let s := queued { q0 with cfg := 4, st := .retry, en := true, count := 3, waitEnd := 0, base := 0 } done0
     after (.retryWaitEnd 0 0) s (fun t => (((t.part 0).queue 0).st, ((t.part 0).queue 0).count)) (.retry, 4) = true) ∧
    (let s := queued { q0 with cfg := 4, st := .retry, en := true, count := 4, waitEnd := 0, base := 0 } done0
     after (.retryWaitEnd 0 0) s (fun t => ((t.part 0).queue 0).st) .idle = true) ∧
    (let s := queued { q0 with cfg := 4, st := .blocked, en := true, base := 0 } done0
     (nextBlock s (s.part 0)).isSome = true ∧ after (.blockedReread 0 0) s (fun t => ((t.part 0).queue 0).st) .fetch = true) := by decide +kernel

/-- Launch block 0 of the device, opened. -/
def opened0 (l : Launch) : State :=
  { dev core0 with parts := [(0, (({ part0 with launches := [(0, l)] }).setBlk .launch 0 { (part0.blk .launch 0) with opened := true, out := 1 }))] }

theorem witness_SchedulerEvents :
    levelOf (dev core0) 0 none 0x3000000000000FFF = .nothing ∧
    after (.hcancel 0 0x3000000000000FFF) (dev core0) (fun t => (t.part 0).hcres) 4 = true ∧
    ran (.hcancel 0 0) { dev core0 with parts := [(0, { part0 with hcres := 1 })] } { dev core0 with parts := [(0, { part0 with hcres := 1 })] } = true ∧
    (let s := { dev core0 with parts := [(0, { part0 with hjres := 1 })] }
     ran (.hjobrm 0 1) s s = true) ∧
    (let s : State := { dev core0 with layout := .quarters }
     share s 4096 ≤ fld (0xFFF : Word) 11 0 ∧ after (.hjobrm 0 0xFFF) s (fun t => (t.part 0).hjres) 3 = true) ∧
    ran (.hjobrm 0 1) (dev core0) (cancelAbove ((dev core0).updPart 0 fun q =>
      { q with hjres := 1, hjob := 1, jobs := mupd Job.reset q.jobs 1 fun x => { x with weight := 0 } }) 0 .job 1 2) = true ∧
    (let s := { dev Core.idle with parts := [(0, { part0 with hjres := 1, hjob := 1, launches := [] })] }
     after (.jobRemovalComplete 0) s (fun t => ((t.part 0).hjres, (t.part 0).jobs)) (2, []) = true) ∧
    waits (.ptrootApply 0 1) (dev core0) = true ∧
    (let s := { dev core0 with parts := [(0, { part0 with launches := [], jobs := [(1, { Job.reset with heldRoot := some 64 })] })] }
     after (.ptrootApply 0 1) s (fun t => (mget Job.reset (t.part 0).jobs 1).ptroot) 64 = true) ∧
    (let s := { dev core0 with clk := 1024, parts := [(0, { part0 with jobs := [(1, { Job.reset with weight := 4 })] })] }
     after (.svcTick 0) s (fun t => ((t.part 0).svcNext, (mget Job.reset (t.part 0).jobs 1).svc)) (2048, 16384) = true) ∧
    waits (.unitPlace 0) (dev core0) = true ∧
    (let s := { dev Core.idle with folds := [(0, { Fold.idle with ready := [(0, 0x1000)] })] }
     coreFree s 0 = true ∧ (nextUnit s 0).isSome = true ∧ after (.unitPlace 0) s (fun t => (t.fold 0).ready) [] = true) := by decide +kernel

theorem witness_SchedulerEvents_end :
    (let l : Launch := { launch0 with stage := .done, note := 0x7D0000000100, nval := 5 }
     let s := opened0 l
     s.launch 0 0 = some l ∧ launchQuiet s 0 0 l = true ∧ (notePlace s 0 l).toOption.isSome = true ∧
     after (.noteWrite 0 0) s (fun t => ((mfind (t.part 0).launches 0).map (·.stage), agentRead t 0 1 0x7D0000000100)) (some .noted, some 5) = true) ∧
    (let l : Launch := { gang0 with stage := .ready, routines := [[0x9000]], nss := 1 }
     let s : State := { dev Core.idle with parts := [(0, { part0 with launches := [(0, l)] })] }
     gangDue s 0 0 l = true ∧ gangDue (dev core0) 0 0 launch0 = false ∧ routesDown s 0 l = false) ∧
    waits (.watchdogFire 0) (dev core0) = true ∧
    (let l : Launch := { launch0 with pers := true, homes := [(0x1000, 0)], setup := [0] }
     let s : State := { dev { core0 with r := { regs0 with ctl := [(0x0A0, 1)] } } with clk := 1024, parts := [(0, { part0 with launches := [(0, l)] })] }
     (watchdogDue s 0).isSome = true ∧ waits (.watchdogFire 0) s = true ∧ (nextOf (.watchdogFire 0) { s with issued := [0] }).isSome = true ∧
     s.hadTurn 0 = false ∧ watchdogDue { s with clk := 1023 } 0 = none) := by decide +kernel

theorem witness_PreemptionEvents :
    levelOf (dev core0) 0 none 0x3000000000000FFF = .nothing ∧
    after (.hpreempt 0 0x3000000000000FFF) (dev core0) (fun t => (t.part 0).hpres) 4 = true ∧
    waits (.corePreempt 0) (dev core0) = true ∧
    (let s := { dev { core0 with preempt := some 0, wait := some .forever } with parts := [(0, { part0 with hpres := 1, hpre := some 0, ctxn := 1 })] }
     waits (.preemptForceTimeout 0) { s with clk := 16383 } = true ∧
     after (.preemptForceTimeout 0) { s with clk := 16384 } (fun t => (t.me.wait, t.me.occ.map (·.running))) (none, some false) = true) ∧
    (let s := { dev { core0 with preempt := some 0, occ := some { unit0 with running := false } } with
       parts := [(0, { part0 with hpres := 1, hpre := some 0, ctxn := 1 })] }
     cancelPending s 0 = false ∧ preemptPoint s.me = true ∧ preemptReady s 0 = true ∧ freeCtx (s.part 0) = some 0 ∧
     (lastOfFold s 0 0 0 && ownsFold s 0 0 0) = false ∧
     waits (.corePreempt 0) { s with cores := [(0, { s.me with occ := some unit0 })] } = true) ∧
    (let s := (opened0 launch0)
     levelOf s 0 none 0x4002 = .launch 0 ∧ holdsUnit s 0 0 0 = true ∧
     after (.hpreempt 0 0x4002) s (fun t => ((t.part 0).hpres, (t.part 0).hpre, t.me.preempt)) (1, some 0, some 0) = true) ∧
    waits (.launchResume 0 3) (dev core0) = true ∧ waits (.gangPlace 0 3) (dev core0) = true ∧ waits (.noteWrite 0 3) (dev core0) = true := by
  decide +kernel

/-- Core 0 runs a persistent-free unit whose line at 0x8000 is not in the cache; its tables map the first GiB. -/
def mapped (k : Core) : State :=
  let s := dev k
  let t := s.setBytes (hbmKey s 0 0x100000) (leBytes 8 0x101001)
  (t.setBytes (hbmKey s 0 0x101000) (leBytes 8 7)).setBytes (hbmKey s 0 0x8000) (List.replicate 64 0)

theorem witness_RecoveryEvents_fills :
    waits (.icacheFill 0 0x8000) (dev Core.idle) = true ∧ (mapped core0).me.tfault = none ∧ findLine (mapped core0) 0 0x8000 = none ∧
    (codeKey (mapped core0) 0 0x8000 64).toOption.isSome = true ∧
    ((nextOf (.icacheFill 0 0x8000) (mapped core0)).map fun t => (findLine t 0 0x8000).map (·.addr)) = some (some 0x8000) ∧
    (let f : TransFault := { va := 0x8000, acc := 0, answer := none, seq := none }
     let g : TransFault := { f with seq := some 7 }
     let q : Part := { part0 with facc := 0x80000000000F7FFD }
     let s : State := { dev { core0 with tfault := some g } with parts := [(0, q)] }
     after (.translationResolve 0) (mapped { core0 with tfault := some f }) (fun t => t.me.tfault) (some { f with answer := some true }) = true ∧
     after (.translationResolve 0) (dev { core0 with tfault := some f }) (fun t => t.me.tfault) (some { f with answer := some false }) = true ∧
     waits (.translationResolve 0) (dev core0) = true ∧ faultOpen s 0 7 = true ∧
     after (.fqRetry 0 7) s (fun t => t.me.tfault) (some { g with answer := some true }) = true ∧
     after (.fqDeliver 0 7) s (fun t => t.me.tfault) (some { g with answer := some false }) = true ∧
     waits (.fqRetry 0 8) s = true) := by decide +kernel

/-- A contained gang and a pair that the host decides on. -/
def decided (kind rollbacks : Nat) : State :=
  { dev { core0 with occ := some { routine0 with stage := 2 }, rollbacks := rollbacks, yoke := some { yoke0 with state := 3, fp := 5, other := some 6 } } with
    parts := [(0, { part0 with launches := [(0, { gang0 with routines := [[0x9000], [0x9000]] })], contrec := [{ blk := 0, core := 0, kind := kind }] })] }

theorem witness_RecoveryEvents_decisions :
    waits (.rollback 0 0) (decided 1 0) = true ∧ (nextOf (.rollback 0 0) (decided 0 0)).isSome = true ∧
    (gangHeld (decided 0 3) 0 0).any (fun d => decide (3 ≤ ((decided 0 3).core d).rollbacks)) = true ∧
    (gangHeld (decided 0 2) 0 0).any (fun d => decide (3 ≤ ((decided 0 2).core d).rollbacks)) = false ∧
    nextDecision (decided 0 0) 0 = none ∧ waits (.contansContinue 0) (decided 0 0) = true ∧ waits (.contansCancel 0) (decided 0 0) = true ∧
    (nextDecision (decided 1 0) 0).map (·.kind) = some 1 ∧
    after (.contansContinue 0) (decided 2 0) (fun t => (t.me.yoke.map (·.state), t.me.occ.map (·.running), (t.part 0).contrec))
      (some 3, some true, []) = true ∧
    (nextOf (.contansCancel 0) (decided 2 0)).isSome = true ∧ (nextOf (.contansCancel 0) (decided 1 0)).isSome = true ∧
    waits (.hostCompletionTimeout ⟨0, true⟩) (dev Core.idle) = true ∧ (hostRequest (dev core0) 0).map (·.1) = some reqPacket ∧
    after (.hostCompletionTimeout ⟨0, true⟩) (dev core0) (fun t => t.me.hostFail) true = true ∧
    after (.hostCompletionTimeout ⟨0, false⟩) { dev core0 with clk := 9 } (fun t => (t.me.hostFail, t.me.hostSince)) (false, [(reqPacket, 9)]) = true ∧
    (let s (n : Nat) : State := { dev { core0 with hostSince := [(reqPacket, 9)] } with clk := n }
     waits (.hostCompletionTimeout ⟨0, false⟩) (s 100000008) = true ∧ after (.hostCompletionTimeout ⟨0, false⟩) (s 100000009) (fun t => t.me.hostFail) true = true) ∧
    (let s : State := { State.reset with boot := 5, bootPlan := [(6, 1200)] }
     isMgmt 6144 = true ∧ imageReading s = true ∧ after (.hostCompletionTimeout ⟨6144, false⟩) s (·.imgBad) true = true) := by decide +kernel

/-- A port that is up. -/
def ported (n : Nat) : State := { dev core0 with ports := [(2, 1)], replays := [(2, n)] }

theorem witness_CheckpointAndLinkEvents :
    (dev core0).part 0 = part0 ∧ part0.psBusy = false ∧
    after (.phaseStop 0 0x2001) (dev core0) (fun t => ((t.part 0).psres, (t.part 0).psList)) (1, 0x2000) = true ∧
    after (.phaseStop 0 2) (dev core0) (fun t => (t.part 0).psres) 4 = true ∧ waits (.phaseStop 0 0x1001) (dev core0) = true ∧
    after (.phaseRestore 0 0x1001) (dev core0) (fun t => (t.part 0).psres) 4 = true ∧
    after (.linkCrcError ⟨2, false⟩) (ported 7) (fun t => mget 0 t.replays 2) 1 = true ∧ after (.linkCrcError ⟨2, true⟩) (ported 7) (fun t => (mget 0 t.replays 2, fld (mget 0 t.ports 2) 39 24)) (8, 1) = true ∧
    waits (.linkCrcError ⟨2, true⟩) (ported 8) = true ∧ waits (.linkRetrain 2 4) (ported 7) = true ∧
    after (.linkRetrain 2 4) (ported 8) (fun t => (fld (mget 0 t.ports 2) 1 0, t.msix)) (1, []) = true ∧
    after (.linkRetrain 2 3) (ported 8) (fun t => (fld (mget 0 t.ports 2) 1 0, t.msix)) (3, [(0, 1)]) = true ∧
    after (.linkRetrain 2 1) (ported 8) (fun t => (t.down 2, t.msix)) (true, [(0, 1)]) = true ∧
    waits (.downLinkTimeout 2) (dev core0) = true ∧ waits (.linkReturn 2) (dev core0) = true ∧
    (let s := { ported 0 with downLinks := [(2, false)], linkWaits := [⟨2, 0⟩] }
     waits (.downLinkTimeout 2) { s with clk := 1999999 } = true ∧
     after (.downLinkTimeout 2) { s with clk := 2000000 } (fun t => (t.linkWaits, mfind t.downLinks 2)) ([], some true) = true ∧
     after (.linkReturn 2) s (fun t => (t.down 2, t.linkWaits, fld (mget 0 t.ports 2) 0 0)) (false, [], 1) = true) ∧
    waits (.escapeMove 0 0) (dev core0) = true := by decide +kernel

/-- A stopped job that has drained: PSRES shows the writing, then the area holds the job, and a restore finds it. -/
theorem witness_CheckpointAndLinkEvents_area :
    (let s := { dev Core.idle with parts := [(0, { part0 with psBusy := true, psres := 1, psJob := 1, psList := 0x2000, launches := [] })] }
     jobBusy s 0 1 = false ∧ after (.phaseStopWrite 0) s (fun t => (t.part 0).psres) 2 = true ∧
     (((nextOf (.phaseStopWrite 0) s).bind (nextOf (.phaseStopWrite 0))).map fun t => ((t.part 0).psres, (areaJob t 0 0x2000).map (·.job))) = some (3, some 1) ∧
     ((((nextOf (.phaseStopWrite 0) s).bind (nextOf (.phaseStopWrite 0))).bind (nextOf (.phaseRestore 0 0x3001))).map fun t => (t.part 0).psres) = some 3) := by
  decide +kernel

/-- A load of host memory under way. -/
def hostLoad : Load := { kind := .plain false, va := 0x10000, key := place 3 64, tr := [], size := 8, rd := 4, escape := false, since := 0 }


/-- A load of fold 33's local memory, and a store to it, while the link from fold 0 towards it is down. -/
def farLoad (e : Bool) : Load := { hostLoad with key := localKey 264 0, escape := e }
def blockedAt (k : Core) (n : Nat) : State := { dev k with clk := n, downLinks := [(44, false)], downSince := [(44, 0)] }

theorem witness_RecoveryEvents_hostLoad :
    (dev { core0 with loads := [hostLoad] }).me.loads.find? (fun x => isHost x.key) = some hostLoad ∧
    ((nextOf (.hostCompletionTimeout ⟨0, true⟩) (dev { core0 with loads := [hostLoad] })).map fun t => t.me.loads) = some [] ∧
    (let s (n : Nat) : State := { dev { core0 with loads := [hostLoad] } with clk := n }
     waits (.hostCompletionTimeout ⟨0, false⟩) (s 99999999) = true ∧ ((nextOf (.hostCompletionTimeout ⟨0, false⟩) (s 100000000)).map fun t => t.me.loads) = some []) ∧
    fixedOnly compute0 0 = true := by decide +kernel

theorem witness_CheckpointAndLinkEvents_moves :
    (let s (n : Nat) (e : Bool) : State := blockedAt { core0 with loads := [farLoad e] } n
     fixedOnly (s 64 false) 0 = false ∧ hopBlocked (s 64 false) 0 33 = true ∧ hopBlocked (s 64 false) 33 0 = false ∧ loadDue (s 64 false) 0 0 = false ∧ loadDue (s 64 true) 0 0 = true ∧ ran (.escapeMove 0 0) (s 64 false) (s 64 true) = true ∧
     waits (.escapeMove 0 0) (s 63 false) = true ∧ waits (.escapeMove 0 0) (s 64 true) = true ∧
     waits (.escapeMove 0 0) { s 64 false with downLinks := [] } = true) ∧
    (let b : BufStore := { va := 0x10000, key := localKey 264 0, bytes := [1] }
     let s : State := blockedAt { core0 with stores := [b] } 64
     (requests s 0)[0]? = some (reqStore, [localKey 264 0]) ∧
     ran (.escapeMove 0 0) s (s.updMe fun k => { k with escapes := [2 * reqStore] }) = true ∧ s.escaped 0 reqStore = (false, false)) := by decide +kernel

/-! ### Clauses at bound operands, waits and errors -/

/-- g24 is bound to a read stream of four words, whose ring holds 5. -/
def popStream : Stream := { filling with ring := [.val 5 none] }
def popping : State := { binding popStream with latch := none }

theorem witness_BranchesTestTheirConditions_pops :
    Spec.pops popping 24 popStream 5 ∧ Ready popping [2] [] ∧ popping.pre.failedRd [24, 2] = none ∧ popping.pre.failedRd [24] = none :=
  ⟨⟨by decide +kernel, by decide +kernel, ⟨[], by decide +kernel⟩, by decide +kernel, by decide +kernel, by decide +kernel, fun _ => rfl⟩,
    by decide +kernel, by decide +kernel, by decide +kernel⟩

theorem witness_BranchesTestTheirConditions_traps :
    ran (.br none 24 2 4 3) popping (Spec.poppedG popping 24 popStream) = true ∧
    ran (.br none 24 2 5 3) popping (Spec.branched (Spec.poppedG popping 24 popStream) 3) = true ∧
    ran (.bbs (some 2) 24 0 0 3) popping (Spec.branched (Spec.poppedG popping 24 popStream) 3) = true ∧
    ran (.bbz none 24 0 3) popping (Spec.poppedG popping 24 popStream) = true ∧
    ([24, 25, 2].any fun r => popping.pre.pending r) = false ∧ trapped (.bbc none 24 2 1 3) popping cSTREAM = true ∧
    trapped (.bbnz none 24 1 3) popping cSTREAM = true ∧ trapped (.bbs none 31 2 1 3) popping cILLEGAL = true ∧
    trapped (.bbz none 29 3 3) popping cILLEGAL = true := by decide +kernel

theorem witness_ControlRegisters_yoke :
    (dev core0).me.partnerOf = none ∧ Ready (dev core0) [] [4] ∧
    ran (.mfc none 4 0x090) (quarred (dev core0)) ((quarred (dev core0)).wroteG 4 6) = true ∧
    ran (.mfc none 4 0x090) (paired { yoke0 with state := 2, ivpos := 7 }) ((paired { yoke0 with state := 2, ivpos := 7 }).wroteG 4 0x711) = true := by
  decide +kernel

/-- Queue 1 holds a copy, or a cause, and so does queue 2. -/
def queueing (q1 q2 : EQueue) : State := copying.updMe fun k => { k with queues := [(1, q1), (2, q2)] }
def causeOf (c : BitVec 8) : EQueue := { entries := [], err := some { cause := c, acc := 0, val := false, data := 0 } }

theorem witness_FencesAreRecordedOrEnd_queues :
    stalls (.qfence none 6) (queueing { entries := [.copy cpy0], err := none } (causeOf cTAG)) (queueing { entries := [.copy cpy0], err := none } (causeOf cTAG)) = true ∧
    trapped (.qfence none 6) (queueing (causeOf cUNCORR) (causeOf cTAG)) cUNCORR = true ∧
    trapped (.qfence none 4) (queueing (causeOf cUNCORR) (causeOf cTAG)) cTAG = true ∧
    ran (.qfence none 8) (queueing (causeOf cUNCORR) (causeOf cTAG)) (queueing (causeOf cUNCORR) (causeOf cTAG)) = true := by decide +kernel

theorem witness_StreamsBindMoveAndEnd_errors :
    (let e : DefErr := { cause := cTRANSLATION, acc := 1, val := true, data := 0x200 }
     trapped (.sdrain none 24) (binding { bindOf 0x101 with err := some e }) cTRANSLATION = true ∧
     trapped (.sunbind none 24) (binding { bindOf 0x101 with err := some e }) cTRANSLATION = true ∧
     trapped (.sunbind none 24) (binding { bindOf 0x100 with err := some e }) cTRANSLATION = true) ∧
    trapped (.sdrain none 24) (binding (bindOf 0x100)) cSTREAM = true ∧ describing.me.loads.any Load.isAmo = false ∧ describing.me.pushed = [] := by
  decide +kernel

/-- An AMO of scope S goes to a page of the job. -/
theorem witness_AtomicOperations_system :
    (let s := (mapped core0).wroteG 1 0x10000
     Ready s [1, 2] [4] ∧ windowOf 0x10000 = .global ∧ fld (s.part (corePart s s.cur)).facc 19 16 ≠ 0 ∧ s.me.lastStore s s.cur (0x10000, 8) = none ∧
     (nextOf (.amoAdd none 4 1 2 3 0 1) s).map (fun t => t.me.loads.map fun l => (l.kind, l.va)) = some [(.amo 0 5 0 3 false, 0x10000)]) := by decide +kernel

theorem witness_VectorUnitEntry_pair :
    ((nextOf (.claim none 4 0 64) (paired yoke0)).map fun t => ((t.core 0).r.lanes, (t.core 1).r.lanes, gval t 4)) = some (2, 2, 64) := by decide +kernel

theorem witness_MatrixQueue_rows : Spec.rowsFree mx 0x7D0000000100 64 2 3 true ∧ Spec.rowsFree mx 0x7D0000000100 64 2 3 false := by decide +kernel

theorem witness_StoresAreBufferedAndDrain_room :
    Spec.storeRoom lsu 0x7D000FFFFFF8 ∧ Spec.storeRoom lsu 0x7F0000000000 ∧ Spec.covered lsu 0x7D000FFFFFF8 8 :=
  ⟨.inr (.inr ⟨by decide, .inl (by decide)⟩), .inr (.inl (by decide)), fun b h => by
    rw [show lsu.me.lastStore lsu lsu.cur (0x7D000FFFFFF8, 8) = none by decide +kernel] at h; cases h⟩

/-- A launch of 34 folds, from whose core 0 the way to fold 33 is down. -/
def signalling : State :=
  let s := (evDev core0 taken0).wroteG 5 33
  { s with parts := [(0, { part0 with launches := [(0, { launch0 with fcount := 34 })] })], downLinks := [(37, false)] }

theorem witness_EventUnit_down :
    devFold signalling 0 33 = 33 ∧ routeUp signalling 0 33 (false, false) = false ∧ routeUp signalling 0 1 (false, false) = false ∧
    stalls (.evsig none 5 2 4) signalling (signalling.updMe fun k => { k with wait := some (.evsig 33) }) = true ∧
    (let s : State := { signalling with downLinks := [] }
     ran (.evsig none 5 2 4) s (addEvent s 33 4 1) = true) := by decide +kernel

/-- A record's first doubleword is in error. -/
theorem witness_DequesForkAndJoin_errors :
    (let s : State := { recs with ecc := [(commonKey recs 0 0x1040 / 4, true)] }
     agentBad s 0 1 0x7D0000001040 1 = true ∧ trapped (.dqpush none 1) s cUNCORR = true) ∧
    (let s : State := { recs with ecc := [(commonKey recs 0 0x1040 / 4, false)] }
     ((nextOf (.dqpush none 1) s).map fun t => (t.eccCount, t.me.deque)) = some (1, [(0, 0x7D0000001040)])) := by decide +kernel

theorem witness_ScheduledTransfers_free :
    Spec.xsendFree (xdev core0 80) 0x7F0000000100 { slot := 5, src := 0, dst := 0, chan := 2, doff := 0x200, nline := 1 } := by decide +kernel

theorem witness_TrapsTakeTheirHandlerOrEndTheUnit_clean :
    (aTrap cTAG).flips = none ∧ (aTrap cTAG).deferred = none ∧ handled0.me.cap = none ∧ handled0.me.walkWait = none ∧ handled0.me.hostFail = false := by
  decide +kernel

end Sys2Proof.Tests
end

section
/-! PROOFS. ADDA, J, JL and JR (06 R150, R160, R161): how their words decode, what their rb operand, pointer sum and target are, and what each
does over plain registers; then their statements. -/

namespace Sys2Proof.Machine

/-! ## How an answer reads -/

theorem completes_of_ok {i : Instr} {s t : State} (h : exec i s = settle s (.ok t)) : Completes i s t := h

theorem traps_of_trapC {i : Instr} {s : State} {c : BitVec 8} (h : exec i s = settle s (.error (trapC c))) : Traps i s c := ⟨_, rfl, h⟩

theorem traps_of_trapAt {i : Instr} {s : State} {c : BitVec 8} {acc : BitVec 2} {a : Nat}
    (h : exec i s = settle s (.error (trapAt c acc a))) : Traps i s c := ⟨_, rfl, h⟩

/-! ## State -/

@[simp] theorem State.me_updMe (s : State) (f : Core → Core) : (s.updMe f).me = f s.me := State.core_setCore s s.cur _

/-- A register write leaves the packet's own address, from which jumps and links count (R94). -/
@[simp] theorem wroteG_pre_pc (s : State) (d : Nat) (v : Word) : (s.wroteG d v).pre.r.pc = s.pre.r.pc := by
  unfold State.wroteG
  split
  · rfl
  · cases hl : s.latch <;> simp [State.pre, hl]

/-! ## Decoding by major (R105) -/

theorem decodeC_adda {w0 : Word32} (w1 : Word32) (h : bits w0 25 6 = 0x0B#6) : decodeC w0 w1 = decodeAdda w0 (Spec.lit w0 w1) w1 := by
  simp [decodeC, h, Spec.lit]

theorem decodeC_jump {w0 : Word32} (w1 : Word32) (h : bits w0 25 6 = 0x0F#6) : decodeC w0 w1 = decodeJump w0 (Spec.lit w0 w1) w1 := by
  simp [decodeC, h, Spec.lit]

theorem decodeC_jr {w0 : Word32} (w1 : Word32) (h : bits w0 25 6 = 0x10#6) : decodeC w0 w1 = decodeJr w0 (Spec.lit w0 w1) w1 := by
  simp [decodeC, h, Spec.lit]

/-! ## Operands -/

/-- The address part of a pointer (R150). -/
@[simp] theorem fld_address (w : Word) : fld w 47 0 = w.toNat % 2 ^ 48 := by simp [fld]

/-- Every bit above the address part. -/
@[simp] theorem fld_tag (w : Word) : fld w 63 48 = w.toNat / 2 ^ 48 :=
  Nat.mod_eq_of_lt (by have := w.isLt; omega)

/-- The reserved bits between the tag's fields and the address part (R150). -/
@[simp] theorem fld_reserved (w : Word) : fld w 53 48 = w.toNat / 2 ^ 48 % 64 := rfl

/-- The model reads an rb field as R103 says. -/
@[simp] theorem rbval_toNat (s : State) (l : Lit) (b : BitVec 5) : rbval s l b.toNat = Spec.rb s l b := by
  have hb : b.toNat = 0 ↔ b = 0 := by simp [BitVec.toNat_eq]
  simp only [rbval, Spec.rb, hb]
  cases l <;> rfl

/-! ## ADDA -/

/-- A pointer's address part plus a signed offset, before it is judged (R150, R161). -/
abbrev ptrSum (p : Word) (off : Int) : Int := (p.toNat % 2 ^ 48 : Nat) + off

theorem addPtr_inside {p : Word} {off : Int} (ht : p.toNat / 2 ^ 48 % 64 = 0) (h0 : 0 ≤ ptrSum p off) (h1 : ptrSum p off ≤ 2 ^ 48 - 1) :
    addPtr p off = .ok (BitVec.ofNat 64 (p.toNat / 2 ^ 48 * 2 ^ 48 + (ptrSum p off).toNat)) := by
  have hin : ¬ (p.toNat / 2 ^ 48 % 64 ≠ 0 ∨ ptrSum p off < 0 ∨ 2 ^ 48 ≤ ptrSum p off) := by omega
  simp only [addPtr, ptrAdd, fld_address, fld_reserved, fld_tag, if_neg hin, ok_bind]

theorem addPtr_outside {p : Word} {off : Int} (h : p.toNat / 2 ^ 48 % 64 ≠ 0 ∨ ptrSum p off < 0 ∨ 2 ^ 48 - 1 < ptrSum p off) :
    addPtr p off = .error (trapC cTAG) := by
  have hout : p.toNat / 2 ^ 48 % 64 ≠ 0 ∨ ptrSum p off < 0 ∨ 2 ^ 48 ≤ ptrSum p off := by omega
  simp only [addPtr, ptrAdd, fld_address, fld_reserved, if_pos hout, error_bind]

/-- ADDA writes its sum, or ends as the sum does. -/
theorem exec_adda_ready {s : State} {l : Lit} {d a b : BitVec 5} (h : Ready s [a.toNat, b.toNat] [d.toNat]) :
    exec (.adda l d a b) s = settle s (addPtr (gval s a.toNat) (Spec.rb s l b).toInt >>= fun v => .ok (s.wroteG d.toNat v)) := by
  have hd : boundG s.pre d.toNat = none := h.unbound (by simp)
  simp only [exec_adda, execAdda, withRegs_ready _ h, rbval_toNat, setG_plain _ hd]

/-! ## J and JL -/

/-- The target is that of R160 after a register write too. -/
theorem jump_wroteG (s : State) (d : Nat) (v : Word) (disp : Int) :
    (s.wroteG d v).jump (relAddr s 8 disp) = Spec.branched (s.wroteG d v) disp := by
  simp only [State.jump, relAddr, Spec.branched, wroteG_pre_pc]

theorem exec_j_branched (s : State) (l : Lit) (p : BitVec 20) : exec (.j l p) s = settle s (.ok (Spec.branched s p.toInt)) := rfl

theorem exec_jl_ready {s : State} {l : Lit} {p : BitVec 20} (h : Ready s [] [1]) :
    exec (.jl l p) s = settle s (.ok (Spec.branched (s.wroteG 1 (linkVal s)) p.toInt)) := by
  have h1 : boundG s.pre 1 = none := h.unbound (by simp)
  simp only [exec_jl, execJl, withRegs_ready _ h, setG_plain _ h1, map_ok, jump_wroteG]

/-- JL's link is its one write (R95). -/
theorem gDests_jl (vl : Nat) (l : Lit) (p : BitVec 20) : gDests vl (.jl l p) = [1] := rfl

/-! ## JR -/

/-- JR's target, judged as R161 orders it. -/
def jrTarget (p : Word) (off : Int) : Res Int := do
  need (decide (p.toNat / 2 ^ 48 = 0 ∧ 0 ≤ ptrSum p off ∧ ptrSum p off < 2 ^ 48)) (trapC cTAG)
  need (decide (ptrSum p off % 8 = 0)) (trapAt cMISALIGN 3 (ptrSum p off).toNat)
  .ok (ptrSum p off)

/-- JR links and jumps to its target, or ends as the target does. -/
theorem exec_jr_ready {s : State} {l : Lit} {d a b : BitVec 5} (h : Ready s [a.toNat, b.toNat] [d.toNat]) :
    exec (.jr l d a b) s =
      settle s (jrTarget (gval s a.toNat) (Spec.rb s l b).toInt >>= fun t => .ok ((s.wroteG d.toNat (linkVal s)).jump t)) := by
  have hd : boundG s.pre d.toNat = none := h.unbound (by simp)
  simp only [exec_jr, execJr, withRegs_ready _ h, rbval_toNat, fld_address, fld_tag, setG_plain _ hd, map_ok, jrTarget, bind_assoc, ok_bind]

section
variable {p : Word} {off : Int}

/-- The bound of the model is the one of R161. -/
theorem jrTarget_bound : (p.toNat / 2 ^ 48 = 0 ∧ 0 ≤ ptrSum p off ∧ ptrSum p off < 2 ^ 48) ↔
    p.toNat / 2 ^ 48 = 0 ∧ 0 ≤ ptrSum p off ∧ ptrSum p off ≤ 2 ^ 48 - 1 := by omega

theorem jrTarget_outside (h : ¬ (p.toNat / 2 ^ 48 = 0 ∧ 0 ≤ ptrSum p off ∧ ptrSum p off ≤ 2 ^ 48 - 1)) :
    jrTarget p off = .error (trapC cTAG) := by
  rw [jrTarget, decide_eq_false (mt jrTarget_bound.mp h), need_false, error_bind]

theorem jrTarget_inside (h : p.toNat / 2 ^ 48 = 0 ∧ 0 ≤ ptrSum p off ∧ ptrSum p off ≤ 2 ^ 48 - 1) : jrTarget p off =
    if ptrSum p off % 8 = 0 then .ok (ptrSum p off) else .error (trapAt cMISALIGN 3 (ptrSum p off).toNat) := by
  rw [jrTarget, decide_eq_true (jrTarget_bound.mpr h), need_true, ok_bind]
  split
  · next h8 => rw [decide_eq_true h8, need_true, ok_bind]
  · next h8 => rw [decide_eq_false h8, need_false, error_bind]

end

end Sys2Proof.Machine

namespace Sys2Proof

open Machine

/-- Settles O14: ADDA over plain registers ends as its sum does, which is inside 48 bits or traps. -/
theorem addaAddsToTheAddressPart : Obligations.AddaAddsToTheAddressPart := by
  refine ⟨fun w0 w1 h => by rw [decodeC_adda w1 h, decodeAdda], fun s l d a b h => ⟨?_, ?_⟩⟩
  · rintro ⟨ht, h0, h1⟩
    exact completes_of_ok (by rw [exec_adda_ready h, addPtr_inside ht h0 h1, ok_bind])
  · intro hout
    exact traps_of_trapC (by rw [exec_adda_ready h, addPtr_outside hout, error_bind])

/-- Settles O19: JR over plain registers ends as its target does, whose 48 bits are judged before its alignment. -/
theorem jrJumpsThroughARegister : Obligations.JrJumpsThroughARegister := by
  refine ⟨fun w0 w1 h => by rw [decodeC_jr w1 h, decodeJr], fun s l d a b h => ⟨?_, ?_, ?_⟩⟩
  · rintro ⟨hin, h8⟩
    exact completes_of_ok (by rw [exec_jr_ready h, jrTarget_inside hin, if_pos h8, ok_bind]; rfl)
  · intro hout
    exact traps_of_trapC (by rw [exec_jr_ready h, jrTarget_outside hout, error_bind])
  · rintro ⟨hin, h8⟩
    exact traps_of_trapAt (by rw [exec_jr_ready h, jrTarget_inside hin, if_neg h8, error_bind])

/-- Settles O18: JL is J after its link write, which leaves the address that the target counts from. -/
theorem jumpsAndLinks : Obligations.JumpsAndLinks := by
  refine ⟨fun w0 w1 h => by rw [decodeC_jump w1 h, decodeJump], fun vl l p i => ⟨?_, rfl⟩, fun s l p => ⟨?_, fun h => ?_⟩⟩
  · simp [pairConflict, gDests_jl]
  · exact completes_of_ok (exec_j_branched s l p)
  · exact completes_of_ok (exec_jl_ready h)

end Sys2Proof
end

section
/-! PROOFS. PULSE and TRAP (15 R356, R353): what each does to the state, how a packet of TRAP ends from what its A-slot partner does, and a
table of streams that lists a binding twice, over which such a packet waits where its statement says that it traps; then their statements. -/

namespace Sys2Proof.Machine

/-! ## Control registers and cores -/

@[simp] theorem Core.ctl_setCtl (k : Core) (n : Nat) (v : Word) : (k.setCtl n v).ctl n = v := mget_mset_same _ _ _ _

theorem Core.ctl_setCtl_other (k : Core) {n m : Nat} (v : Word) (h : m ≠ n) : (k.setCtl n v).ctl m = k.ctl m :=
  mget_mset_other _ _ _ _ _ h

theorem State.core_updMe_other (s : State) {c : Nat} (f : Core → Core) (h : c ≠ s.cur) : (s.updMe f).core c = s.core c :=
  State.core_setCore_other _ _ _ _ h

/-! ## PULSE -/

/-- A core after PULSE at a clk (R356): PULSECNT has risen, and the watchdog counts from there (R81). -/
def Core.pulsed (k : Core) (clk : Nat) : Core := { k.setCtl 0x0A1 (k.ctl 0x0A1 + 1) with wdogBase := clk }

@[simp] theorem Core.pulsed_wdogBase (k : Core) (clk : Nat) : (k.pulsed clk).wdogBase = clk := rfl
@[simp] theorem Core.pulsed_g (k : Core) (clk : Nat) : (k.pulsed clk).r.g = k.r.g := rfl
@[simp] theorem Core.pulsed_count (k : Core) (clk : Nat) : (k.pulsed clk).ctl 0x0A1 = k.ctl 0x0A1 + 1 := k.ctl_setCtl _ _

theorem Core.pulsed_ctl_other (k : Core) (clk : Nat) {n : Nat} (h : n ≠ 0x0A1) : (k.pulsed clk).ctl n = k.ctl n :=
  k.ctl_setCtl_other _ h

theorem exec_pulse_pulsed (s : State) (l : Lit) : exec (.pulse l) s = settle s (.ok (s.updMe fun k => k.pulsed s.clk)) := rfl

/-! ## TRAP alone -/

/-- TRAP over a plain rb takes its trap. -/
theorem exec_trap_ready {s : State} {l : Lit} {b : BitVec 5} (h : Ready s [b.toNat] []) :
    exec (.trap l b) s = .next (takeTrap s (Spec.breakTrap s l b) s.latch.isSome) := by
  simp only [exec_trap, execTrap, withRegs_ready _ h, settle_trap, fld_address, rbval_toNat, Spec.breakTrap]

theorem takeTrap_issue (s : State) (t : Trap) (slotA : Bool) : (takeTrap s t slotA).issue = .trapped t.cause (t.einfo slotA) := rfl

/-! ## A C-slot that traps, beside its A-slot partner (R97, R98) -/

/-- What an A-slot reads beside a C-slot that left the state as it was (R94), where the bindings `ps` are noted as popped. -/
def State.latched (s : State) (ps : List Nat) : State :=
  { s with latch := some { core := s.me, m := (s.fold (foldOf s.cur)).matrix, popped := ps } }

/-- The trap is taken unless the A-slot waits before issue. -/
theorem runPair_trapped {s s1 u : State} {c a : Instr} {cause : BitVec 8} {info : Word} (hc : exec c s = .next s1)
    (ht : s1.issue = .trapped cause info) (ha : exec a (s.latched (poppedFrom s.me s.me)) = .next u) :
    runPair s c a = if u.issue = .held then .held else .trapped s1 := by
  have hbase : (if s1.issue = .done ∧ !mayLeave c then s1 else s) = s := if_neg (by simp [ht])
  have hnot : ¬ s1.issue = .held := by simp [ht]
  unfold State.latched at ha
  unfold runPair
  rw [hc]
  dsimp only
  rw [if_neg hnot, hbase, ha]
  dsimp only
  rw [ht]
  cases u.issue <;> rfl

/-! ## What a core pops of its own table -/

/-- In a canonical table an entry is the one found under its key. -/
theorem mfind_of_mem {α : Type} {m : SMap α} (h : msorted m = true) {x : Nat × α} (hx : x ∈ m) : mfind m x.1 = some x.2 := by
  induction m with
  | nil => cases hx
  | cons y m ih =>
    obtain ⟨ha, hm⟩ := (msorted_cons _ _).mp h
    rcases List.mem_cons.mp hx with rfl | hx
    · simp [mfind]
    · have hne : y.1 ≠ x.1 := by have := ha x hx; omega
      rw [mfind, if_neg hne, ih hm hx]

/-- A core with a canonical table of streams has popped nothing from itself. -/
theorem poppedFrom_self {k : Core} (h : msorted k.streams = true) : poppedFrom k k = [] := by
  have hkeep : k.streams.filter (fun x => !x.2.writes && decide ((mget Stream.unbound k.streams x.1).ring.length < x.2.ring.length)) = [] :=
    List.filter_eq_nil_iff.mpr fun x hx => by simp [mget, mfind_of_mem h hx]
  rw [poppedFrom, hkeep, List.map_nil]

/-! ## The issue of a packet of TRAP -/

/-- A core outside a pair has no records to settle and no agreeing point to set. -/
theorem firstPoint_unyoked {k : Core} (leaves : Bool) (h : k.yoke = none) : firstPoint leaves k = k := by
  simp only [firstPoint, Core.flushLate, h]

/-- How a packet's issue ends from how its slots ended. -/
noncomputable def Pair.answer (s0 : State) (c a : Instr) (w0 w1 : Word32) : Pair → Host.Outcome State Fault Refusal
  | .done s1 => .next (retire s0 s1 c a w0 w1)
  | .held => .next { countLodc s0 c a with latch := none, issue := .held }
  | .stalled s1 => .next { s1 with latch := none, issue := .stalled }
  | .trapped s1 => .next { s1 with latch := none }
  | .other o => o

theorem issuePair_unyoked {s : State} (c a : Instr) (w0 w1 : Word32) (hy : s.me.yoke = none) (hd : s.me.aDone = false)
    (hc : captureOver s.me = none) :
    issuePair s c a w0 w1 = (runPair (Spec.beforeSlots s) c a).answer (Spec.beforeSlots s) c a w0 w1 := by
  have hfirst : ∀ leaves, s.updMe (firstPoint leaves) = s.updMe id := fun _ => congrArg s.setMe (firstPoint_unyoked _ hy)
  simp only [issuePair, hfirst, State.me_updMe, id, hy, hd, hc, Spec.beforeSlots]
  rfl

/-- A packet of TRAP passes every check at decode that its A-slot word passes. -/
theorem issueWords_trap {s : State} {w0 w1 : Word32} {p : Packet} {l : Lit} {b : BitVec 5} (hm : isMgmt s.cur = false)
    (hp : decodePacket w0 w1 = .ok p) (ht : p.cside = .trap l b) (hw : p.aside.wf = true) :
    issueWords s w0 w1 = issuePair s (.trap l b) p.aside w0 w1 := by
  have hwf : Instr.wf (.trap l b) = true := rfl
  have hpair : pairConflict s.me.r.vl (.trap l b) p.aside = false := rfl
  simp [issueWords, hp, ht, hm, hw, hwf, hpair, vectorConflict, privilegedMtc]

/-- The fences that the sweep drops are no streams. -/
@[simp] theorem beforeSlots_streams (s : State) : (Spec.beforeSlots s).me.streams = s.me.streams := by
  simp [Spec.beforeSlots, Core.sweepFences]

section
variable {e u : State} {w0 w1 : Word32} {p : Packet} {l : Lit} {b : BitVec 5}
  (hm : isMgmt e.cur = false) (hl : e.latch = none) (hy : e.me.yoke = none) (hd : e.me.aDone = false) (hc : captureOver e.me = none)
  (hp : decodePacket w0 w1 = .ok p) (ht : p.cside = .trap l b) (hw : p.aside.wf = true) (hr : Ready (Spec.beforeSlots e) [b.toNat] [])
include hm hl hy hd hc hp ht hw hr

/-- Outside pairs a packet of TRAP waits where its A-slot waits before issue, and takes its trap otherwise. -/
theorem issueWords_trap_ends (ha : exec p.aside ((Spec.beforeSlots e).latched (poppedFrom (Spec.beforeSlots e).me (Spec.beforeSlots e).me)) = .next u) :
    issueWords e w0 w1 =
      if u.issue = .held then .next { countLodc (Spec.beforeSlots e) (.trap l b) p.aside with latch := none, issue := .held }
      else .next { takeTrap (Spec.beforeSlots e) (Spec.breakTrap (Spec.beforeSlots e) l b) false with latch := none } := by
  have hlx : (Spec.beforeSlots e).latch.isSome = false := congrArg Option.isSome hl
  rw [issueWords_trap hm hp ht hw, issuePair_unyoked _ _ _ _ hy hd hc, runPair_trapped (exec_trap_ready hr) (takeTrap_issue _ _ _) ha, hlx]
  split <;> rfl

/-- What O22 says of a packet of TRAP, for a table of streams as the model means its tables: with strictly rising keys. The packet's
latch is put out as its issue ends. -/
theorem issueWords_trap_of_sorted (hs : msorted e.me.streams = true)
    (ha : exec p.aside ((Spec.beforeSlots e).latched []) = .next u) (hu : u.issue ≠ .held) :
    issueWords e w0 w1 = .next { takeTrap (Spec.beforeSlots e) (Spec.breakTrap (Spec.beforeSlots e) l b) false with latch := none } := by
  have hnone : poppedFrom (Spec.beforeSlots e).me (Spec.beforeSlots e).me = [] := poppedFrom_self (by rw [beforeSlots_streams, hs])
  rw [issueWords_trap_ends hm hl hy hd hc hp ht hw hr (by rw [hnone]; exact ha), if_neg hu]

end

/-! ## A table that lists a stream twice -/

/-- A repeating read stream of general elements (R278). -/
def repeating (ring : List RingEntry) : Stream := { Stream.unbound with words := [0, 0, 0, 0, 4], ring := ring }

/-- An entry whose fill failed (R279). -/
def failedEntry : RingEntry := .err { cause := cTRANSLATION, acc := 3, val := false, data := 0 }

/-- Binding 0 is listed twice, so that it seems to have been popped; binding 1 has no entry yet. -/
def twiceListed : SMap Stream := [(0, repeating [failedEntry]), (0, repeating [failedEntry, failedEntry]), (1, repeating [])]

/-- TRAP g0, and beside it ADD g1, g24, g25. -/
def trapWord : Word32 := 0x00000001
def addStreamsWord : Word32 := 0x0438C800

def trapLine : ICLine :=
  { part := 0, blk := 0, addr := 0, raw := [], bytes := leBytes 4 trapWord.toNat ++ leBytes 4 addStreamsWord.toNat, marked := [], bad := false }

/-- A launch whose code is the one packet at 0. -/
def trapLaunch : Launch :=
  launchOf { w := [], h := some [0, 0, 8], map := [], succ := [], patch := [], decl := [], rout := [], lists := [], sched := [], whole := true }
    0 0 0 .placed

def trapUnit : Occ :=
  { part := 0, blk := 0, k := 0, rcd := 0, flagged := false, ss := 0, pos := 0, stage := 0, running := true, xrout := false, since := 0 }

/-- Core 0 at the packet, with that table of streams. -/
def twiceBound : State :=
  { State.reset with
    cores := [(0, { Core.idle with occ := some trapUnit, streams := twiceListed })]
    folds := [(0, { Fold.idle with icache := [trapLine] })]
    parts := [(0, { Part.reset with launches := [(0, trapLaunch)] })] }

theorem twiceBound_fetch : fetch { twiceBound with cur := 0, latch := none } = .ok (trapWord, addStreamsWord) := by decide +kernel

theorem twiceBound_issuePacket : issuePacket twiceBound 0 = issueWords twiceBound trapWord addStreamsWord := by
  rw [issuePacket, twiceBound_fetch]
  rfl

theorem twiceBound_decode : decodePacket trapWord addStreamsWord = .ok ⟨.trap none 0, .add 1 24 25⟩ := by decide +kernel

theorem twiceBound_ready : Ready (Spec.beforeSlots twiceBound) [0] [] := by decide +kernel

/-- How an attempt ended. -/
def issueOf (o : Host.Outcome State Fault Refusal) : Option Issue :=
  match o with
  | .next t => some t.issue
  | _ => none

theorem next_of_issueOf {o : Host.Outcome State Fault Refusal} {i : Issue} (h : issueOf o = some i) : ∃ t, o = .next t ∧ t.issue = i := by
  cases o with
  | next t => exact ⟨t, rfl, Option.some.inj h⟩
  | fault f => cases h
  | refused r => cases h

/-- With nothing noted as popped, ADD pops binding 0 and takes its held error. -/
theorem twiceBound_unpopped_traps : issueOf (exec (.add 1 24 25) ((Spec.beforeSlots twiceBound).latched [])) =
    some (.trapped cTRANSLATION 0xC1000000000000) := by decide +kernel

theorem twiceBound_popped : poppedFrom (Spec.beforeSlots twiceBound).me (Spec.beforeSlots twiceBound).me = [0] := by decide +kernel

/-- With binding 0 noted as popped, ADD goes on to wait for an entry of binding 1. -/
theorem twiceBound_popped_waits : issueOf (exec (.add 1 24 25) ((Spec.beforeSlots twiceBound).latched [0])) = some .held := by
  decide +kernel

theorem twiceBound_packet_waits : issueOf (issuePacket twiceBound 0) = some .held := by
  obtain ⟨v, hv, hwaits⟩ := next_of_issueOf twiceBound_popped_waits
  rw [twiceBound_issuePacket, issueWords_trap_ends (l := none) (b := 0) rfl rfl rfl rfl rfl twiceBound_decode rfl rfl twiceBound_ready
    (by rw [twiceBound_popped]; exact hv), if_pos hwaits]
  rfl

end Sys2Proof.Machine

namespace Sys2Proof

open Machine

/-- Settles O24: PULSE completes in the core of R356, and writes that core alone. -/
theorem pulseCountsAndRestartsTheWatchdog : Obligations.PulseCountsAndRestartsTheWatchdog := fun s l =>
  ⟨s.updMe fun k => k.pulsed s.clk, completes_of_ok (exec_pulse_pulsed s l), by simp, by simp,
    fun n hn => by simp [Core.pulsed_ctl_other _ _ hn], by simp, rfl, rfl, rfl, fun _ hc => State.core_updMe_other s _ hc⟩

/-- Refutes O22: its clause of a packet lets the table of streams list a binding twice. At `twiceBound` the issue then notes that binding as
popped beside a TRAP that popped nothing, and the A-slot, which with no binding noted does not wait, waits for the next one; so does the
packet. Over canonical tables such a packet takes its trap (`issueWords_trap_of_sorted`), and TRAP alone does over any (`exec_trap_ready`). -/
theorem not_trapInstructionTakesBreak : ¬ Obligations.TrapInstructionTakesBreak := by
  rintro ⟨-, -, hpacket⟩
  obtain ⟨u, hu, htraps⟩ := next_of_issueOf twiceBound_unpopped_traps
  have htrap : issuePacket twiceBound 0 = _ := hpacket twiceBound u 0 trapWord addStreamsWord _ none 0 rfl rfl rfl rfl rfl
    twiceBound_fetch twiceBound_decode rfl rfl twiceBound_ready hu (by simp [htraps])
  have hheld := twiceBound_packet_waits
  rw [htrap] at hheld
  cases hheld

end Sys2Proof
end

section
/-! PROOFS. Decode and encode (04 R87, R100 to R106): the slot words of each major decode to their instruction; then the round trip. -/

namespace Sys2Proof

-- One proof at a time: beside each other the proofs of all majors take too much memory.
set_option Elab.async false

/-- A bit of a field. -/
theorem field_getLsbD {w lo n i : Nat} (x : BitVec w) (h : i < n) : (x.extractLsb' lo n).getLsbD i = x.getLsbD (lo + i) := by
  simp [BitVec.getLsbD_extractLsb', h]

/-- A field across the joint of two words is a constant where both parts are its parts. -/
theorem bits_append_across {v w : Nat} (x : BitVec v) (y : BitVec w) {lo n : Nat} (c : BitVec n) (hlo : lo < w) (hn : w < lo + n) :
    (x ++ y).extractLsb' lo n = c ↔
      y.extractLsb' lo (w - lo) = c.extractLsb' 0 (w - lo) ∧ x.extractLsb' 0 (n - (w - lo)) = c.extractLsb' (w - lo) (n - (w - lo)) := by
  constructor
  · rintro rfl
    constructor <;> refine BitVec.eq_of_getLsbD_eq fun i hi => ?_ 
    · rw [field_getLsbD _ hi, field_getLsbD _ hi, field_getLsbD _ (by omega), BitVec.getLsbD_append, if_pos (by omega), Nat.zero_add]
    · rw [field_getLsbD _ hi, field_getLsbD _ hi, field_getLsbD _ (by omega), BitVec.getLsbD_append, if_neg (by omega)]
      congr 1; omega
  · rintro ⟨hy, hx⟩
    refine BitVec.eq_of_getLsbD_eq fun i hi => ?_
    rw [field_getLsbD _ hi, BitVec.getLsbD_append]
    split
    · have h := congrArg (fun t => t.getLsbD i) hy
      simpa [field_getLsbD, show i < w - lo by omega] using h
    · have h := congrArg (fun t => t.getLsbD (i - (w - lo))) hx
      simpa [field_getLsbD, show i - (w - lo) < n - (w - lo) by omega, show lo + i - w = i - (w - lo) by omega,
        show w - lo + (i - (w - lo)) = i by omega] using h


/-- The literal that a packet's words carry is the C-slot instruction's own. -/
theorem lit_of_litBit (l : Lit) (w : Word32) : (if litBit l = 1#1 then some (l.getD w) else none) = l := by
  cases l <;> rfl

theorem litBit_some (v : Word32) : litBit (some v) = 1#1 := rfl

/-- What the slot word of a C-slot instruction decodes to, with `w` as word 1 where it carries no literal, and its bit L. -/
noncomputable def recodeC (i : Instr) (w : Word32) : Option Instr × BitVec 1 :=
  match encodeWord i with
  | some w0 => (decodeC w0 ((literalOf i).getD w), bits w0 31 1)
  | none => (none, 0#1)

/-- What the slot word of an A-slot instruction decodes to. -/
noncomputable def recodeA (i : Instr) : Option Instr :=
  match encodeWord i with
  | some w1 => decodeA w1
  | none => none

def DecodesC (i : Instr) : Prop := ∀ w, recodeC i w = (some i, litBit (literalOf i))

def DecodesA (i : Instr) : Prop := recodeA i = some i

theorem DecodesC.words {i : Instr} (h : DecodesC i) : ∃ w0, encodeWord i = some w0 ∧ bits w0 31 1 = litBit (literalOf i) ∧
    ∀ w, decodeC w0 ((literalOf i).getD w) = some i := by
  unfold DecodesC recodeC at h
  split at h
  case h_1 w0 hw0 => exact ⟨w0, hw0, (Prod.mk.inj (h 0)).2, fun w => (Prod.mk.inj (h w)).1⟩
  case h_2 => cases h 0

theorem DecodesA.word {i : Instr} (h : DecodesA i) : ∃ w1, encodeWord i = some w1 ∧ decodeA w1 = some i := by
  unfold DecodesA recodeA at h
  split at h
  case h_1 w1 hw1 => exact ⟨w1, hw1, h⟩
  case h_2 => cases h

/-- The system, control register and constant majors 0x00 to 0x04 (R105). -/
theorem decodesC_system :
    (∀ l, DecodesC (.nopCSlot l)) ∧ (∀ l b, DecodesC (.trap l b)) ∧ (∀ l, DecodesC (.eret l)) ∧ (∀ l, DecodesC (.exit l)) ∧
    (∀ l, DecodesC (.yield l)) ∧ (∀ l, DecodesC (.pulse l)) ∧ (∀ l d a, DecodesC (.cancel l d a)) ∧
    (∀ l b, DecodesC (.wfi l b)) ∧ (∀ l d n, DecodesC (.mfc l d n)) ∧ (∀ l a n, DecodesC (.mtc l a n)) ∧
    (∀ l d i, DecodesC (.movi l d i)) ∧ (∀ l d p, DecodesC (.ldlW l d p)) ∧ (∀ l d p, DecodesC (.ldlD l d p)) ∧
    (∀ d lit, DecodesC (.ldlC d lit)) := by
  and_intros <;> intros <;>
  simp (disch := decide) only [DecodesC, recodeC, encodeWord, literalOf, litBit_some, Option.getD_some, lit_of_litBit, decodeC,
    decodeSys, decodeMfc, decodeMovi, decodeLdl,
    implies_true, BitVec.extractLsb'_append_eq_of_le, BitVec.extractLsb'_append_eq_of_add_le, bits_append_across,
    Nat.reduceSub, BitVec.extractLsb'_eq_self,
    BitVec.reduceExtractLsb', BitVec.reduceToNat, BitVec.reduceEq,
    and_false, false_and, and_true, true_and, if_false, if_true]

/-- The load and store majors 0x05 to 0x0A (R105). -/
theorem decodesC_loadStore :
    (∀ l d a z x o, DecodesC (.ld l d a z x o)) ∧ (∀ l s a z o, DecodesC (.st l s a z o)) ∧
    (∀ l d a z x o, DecodesC (.ldv l d a z x o)) ∧ (∀ l s a z o, DecodesC (.stv l s a z o)) ∧
    (∀ l d a o, DecodesC (.ldf l d a o)) ∧ (∀ l s a o, DecodesC (.stf l s a o)) := by
  and_intros <;> intros <;>
  simp (disch := decide) only [DecodesC, recodeC, encodeWord, literalOf, litBit_some, Option.getD_some, lit_of_litBit, decodeC,
    decodeLd, decodeSt, decodeLdv, decodeStv, decodeLdf, decodeStf,
    implies_true, BitVec.extractLsb'_append_eq_of_le, BitVec.extractLsb'_append_eq_of_add_le, bits_append_across,
    Nat.reduceSub, BitVec.extractLsb'_eq_self,
    BitVec.reduceExtractLsb', BitVec.reduceToNat, BitVec.reduceEq,
    and_false, false_and, and_true, true_and, if_false, if_true]

/-- The pointer, branch, jump and macro majors 0x0B to 0x12 (R105). -/
theorem decodesC_jump :
    (∀ l d a b, DecodesC (.adda l d a b)) ∧ (∀ l d a b, DecodesC (.ptag l d a b)) ∧ (∀ l d a, DecodesC (.pfmt l d a)) ∧
    (∀ l d a, DecodesC (.pbase l d a)) ∧ (∀ l d a b h, DecodesC (.lea l d a b h)) ∧ (∀ l a b c p, DecodesC (.br l a b c p)) ∧
    (∀ l a b n p, DecodesC (.bbc l a b n p)) ∧ (∀ l a b n p, DecodesC (.bbs l a b n p)) ∧ (∀ l a n p, DecodesC (.bbz l a n p)) ∧
    (∀ l a n p, DecodesC (.bbnz l a n p)) ∧ (∀ l p, DecodesC (.j l p)) ∧ (∀ l p, DecodesC (.jl l p)) ∧
    (∀ l d a b, DecodesC (.jr l d a b)) ∧ (∀ x y z e lit, DecodesC (.macroOp x y z e lit)) := by
  and_intros <;> intros <;>
  simp (disch := decide) only [DecodesC, recodeC, encodeWord, literalOf, litBit_some, Option.getD_some, lit_of_litBit, decodeC,
    decodeAdda, decodePtr, decodeBr, decodeBbit, decodeJump, decodeJr, decodeMacro,
    implies_true, BitVec.extractLsb'_append_eq_of_le, BitVec.extractLsb'_append_eq_of_add_le, bits_append_across,
    Nat.reduceSub, BitVec.extractLsb'_eq_self,
    BitVec.reduceExtractLsb', BitVec.reduceToNat, BitVec.reduceEq,
    and_false, false_and, and_true, true_and, if_false, if_true]

/-- The sequencer and atomic majors 0x13 to 0x15 (R105). -/
theorem decodesC_amo :
    (∀ l d a i, DecodesC (.claim l d a i)) ∧ (∀ l d a, DecodesC (.vsetl l d a)) ∧ (∀ l d n, DecodesC (.vsetli l d n)) ∧
    (∀ l a n, DecodesC (.vrep l a n)) ∧ (∀ l, DecodesC (.vdrain l)) ∧ (∀ l d a b s o z, DecodesC (.amoAdd l d a b s o z)) ∧
    (∀ l d a b s o, DecodesC (.amoFadd l d a b s o)) ∧ (∀ l d a b s o z, DecodesC (.amoMin l d a b s o z)) ∧
    (∀ l d a b s o z, DecodesC (.amoMax l d a b s o z)) ∧ (∀ l d a b s o z, DecodesC (.amoMinu l d a b s o z)) ∧
    (∀ l d a b s o z, DecodesC (.amoMaxu l d a b s o z)) ∧ (∀ l d a b s o, DecodesC (.amoFmin l d a b s o)) ∧
    (∀ l d a b s o, DecodesC (.amoFmax l d a b s o)) ∧ (∀ l d a b s o, DecodesC (.amoAmax l d a b s o)) ∧
    (∀ l d a b s o z, DecodesC (.amoAnd l d a b s o z)) ∧ (∀ l d a b s o z, DecodesC (.amoOr l d a b s o z)) ∧
    (∀ l d a b s o z, DecodesC (.amoXor l d a b s o z)) ∧ (∀ l d a b s o z, DecodesC (.amoSwap l d a b s o z)) ∧
    (∀ l d a b s o z, DecodesC (.amoCas l d a b s o z)) ∧ (∀ l d a b s o z, DecodesC (.amoAmaxrst l d a b s o z)) := by
  and_intros <;> intros <;>
  simp (disch := decide) only [DecodesC, recodeC, encodeWord, literalOf, litBit_some, Option.getD_some, lit_of_litBit, decodeC,
    decodeClaim, decodeVseq, decodeAmo,
    implies_true, BitVec.extractLsb'_append_eq_of_le, BitVec.extractLsb'_append_eq_of_add_le, bits_append_across,
    Nat.reduceSub, BitVec.extractLsb'_eq_self,
    BitVec.reduceExtractLsb', BitVec.reduceToNat, BitVec.reduceEq,
    and_false, false_and, and_true, true_and, if_false, if_true]

/-- The synchronisation majors 0x16 to 0x19 (R105). -/
theorem decodesC_sync :
    (∀ l e, DecodesC (.evwait l e)) ∧ (∀ l a b e, DecodesC (.evsig l a b e)) ∧ (∀ l d e, DecodesC (.evcnt l d e)) ∧
    (∀ l a, DecodesC (.dqpush l a)) ∧ (∀ l d, DecodesC (.dqpop l d)) ∧ (∀ l d a, DecodesC (.dqsteal l d a)) ∧
    (∀ l d a b, DecodesC (.fork l d a b)) ∧ (∀ l a, DecodesC (.join l a)) ∧ (∀ l d a b, DecodesC (.send l d a b)) ∧
    (∀ l d c, DecodesC (.recv l d c)) ∧ (∀ l d b c, DecodesC (.recvt l d b c)) ∧ (∀ l, DecodesC (.ssync l)) ∧
    (∀ l a, DecodesC (.bdom l a)) ∧ (∀ l a b, DecodesC (.xsend l a b)) ∧ (∀ l d c, DecodesC (.xrecv l d c)) := by
  and_intros <;> intros <;>
  simp (disch := decide) only [DecodesC, recodeC, encodeWord, literalOf, litBit_some, Option.getD_some, lit_of_litBit, decodeC,
    decodeEvt, decodeDq, decodeChan, decodeXch,
    implies_true, BitVec.extractLsb'_append_eq_of_le, BitVec.extractLsb'_append_eq_of_add_le, bits_append_across,
    Nat.reduceSub, BitVec.extractLsb'_eq_self,
    BitVec.reduceExtractLsb', BitVec.reduceToNat, BitVec.reduceEq,
    and_false, false_and, and_true, true_and, if_false, if_true]

/-- The drove major 0x1A but for the operations of DRMW (R105). -/
theorem decodesC_drove :
    (∀ l d a b, DecodesC (.dboard l d a b)) ∧ (∀ l d a b, DecodesC (.dalight l d a b)) ∧
    (∀ l d a w, DecodesC (.dread l d a w)) ∧ (∀ l a, DecodesC (.dcap l a)) ∧ (∀ l a b w, DecodesC (.dput l a b w)) ∧
    (∀ l a, DecodesC (.drel l a)) ∧ (∀ l d, DecodesC (.dlap l d)) := by
  and_intros <;> intros <;>
  simp (disch := decide) only [DecodesC, recodeC, encodeWord, literalOf, litBit_some, Option.getD_some, lit_of_litBit, decodeC,
    decodeDrv,
    implies_true, BitVec.extractLsb'_append_eq_of_le, BitVec.extractLsb'_append_eq_of_add_le, bits_append_across,
    Nat.reduceSub, BitVec.extractLsb'_eq_self,
    BitVec.reduceExtractLsb', BitVec.reduceToNat, BitVec.reduceEq,
    and_false, false_and, and_true, true_and, if_false, if_true]

/-- The operations of DRMW (R105). -/
theorem decodesC_drmw :
    (∀ l d a b w, DecodesC (.drmwAdd l d a b w)) ∧ (∀ l d a b w, DecodesC (.drmwMin l d a b w)) ∧
    (∀ l d a b w, DecodesC (.drmwMax l d a b w)) ∧ (∀ l d a b w, DecodesC (.drmwMinu l d a b w)) ∧
    (∀ l d a b w, DecodesC (.drmwMaxu l d a b w)) ∧ (∀ l d a b w, DecodesC (.drmwFmin l d a b w)) ∧
    (∀ l d a b w, DecodesC (.drmwFmax l d a b w)) ∧ (∀ l d a b w, DecodesC (.drmwAnd l d a b w)) ∧
    (∀ l d a b w, DecodesC (.drmwOr l d a b w)) ∧ (∀ l d a b w, DecodesC (.drmwXor l d a b w)) ∧
    (∀ l d a b w, DecodesC (.drmwSwap l d a b w)) ∧ (∀ l d a b w, DecodesC (.drmwCas l d a b w)) := by
  and_intros <;> intros <;>
  simp (disch := decide) only [DecodesC, recodeC, encodeWord, literalOf, litBit_some, Option.getD_some, lit_of_litBit, decodeC,
    decodeDrv,
    implies_true, BitVec.extractLsb'_append_eq_of_le, BitVec.extractLsb'_append_eq_of_add_le, bits_append_across,
    Nat.reduceSub, BitVec.extractLsb'_eq_self,
    BitVec.reduceExtractLsb', BitVec.reduceToNat, BitVec.reduceEq,
    and_false, false_and, and_true, true_and, if_false, if_true]

/-- The fence, stream, chute, copy and paddock majors 0x1B to 0x1F (R105). -/
theorem decodesC_feed :
    (∀ l a b, DecodesC (.fenceR l a b)) ∧ (∀ l p s, DecodesC (.fenceS l p s)) ∧ (∀ l m, DecodesC (.qfence l m)) ∧
    (∀ l d a, DecodesC (.sbind l d a)) ∧ (∀ l d, DecodesC (.sunbind l d)) ∧ (∀ l d a, DecodesC (.sstat l d a)) ∧
    (∀ l d, DecodesC (.sdrain l d)) ∧ (∀ l a c, DecodesC (.cbinit l a c)) ∧ (∀ l d c, DecodesC (.cbpop l d c)) ∧
    (∀ l c, DecodesC (.cbpush l c)) ∧ (∀ l d c, DecodesC (.cbstat l d c)) ∧ (∀ l q a b c h, DecodesC (.cpy l q a b c h)) ∧
    (∀ l q a b c h, DecodesC (.cpya l q a b c h)) ∧ (∀ l q a b c h, DecodesC (.gath l q a b c h)) ∧
    (∀ l q a b c, DecodesC (.scat l q a b c)) ∧ (∀ l q a b c h, DecodesC (.cpyw l q a b c h)) ∧
    (∀ l q a b h, DecodesC (.cpyz l q a b h)) ∧ (∀ l a b w, DecodesC (.pdecl l a b w)) ∧ (∀ l w, DecodesC (.muster l w)) ∧
    (∀ l b w, DecodesC (.gwait l b w)) ∧ (∀ l d w, DecodesC (.gstat l d w)) ∧ (∀ l w, DecodesC (.pdrop l w)) := by
  and_intros <;> intros <;>
  simp (disch := decide) only [DecodesC, recodeC, encodeWord, literalOf, litBit_some, Option.getD_some, lit_of_litBit, decodeC,
    decodeFence, decodeStrm, decodeChute, decodeCpy, decodePad,
    implies_true, BitVec.extractLsb'_append_eq_of_le, BitVec.extractLsb'_append_eq_of_add_le, bits_append_across,
    Nat.reduceSub, BitVec.extractLsb'_eq_self,
    BitVec.reduceExtractLsb', BitVec.reduceToNat, BitVec.reduceEq,
    and_false, false_and, and_true, true_and, if_false, if_true]

/-- The majors 0x20 to 0x24 (R105). -/
theorem decodesC_fabric :
    (∀ l q a b c, DecodesC (.tld l q a b c)) ∧ (∀ l q a b c, DecodesC (.tstr l q a b c)) ∧
    (∀ l q a b c, DecodesC (.amov l q a b c)) ∧ (∀ l q a b c, DecodesC (.ald l q a b c)) ∧
    (∀ l q a b c, DecodesC (.mxcmd l q a b c)) ∧ (∀ l d b, DecodesC (.lmalloc l d b)) ∧ (∀ l a, DecodesC (.lmfree l a)) ∧
    (∀ l a b, DecodesC (.lminv l a b)) ∧ (∀ l d a b, DecodesC (.vsset l d a b)) ∧ (∀ l a, DecodesC (.vsmark l a)) ∧
    (∀ l d a, DecodesC (.vsdig l d a)) ∧ (∀ l d a, DecodesC (.vswait l d a)) ∧ (∀ l d, DecodesC (.yoke l d)) ∧
    (∀ l, DecodesC (.unyoke l)) ∧ (∀ l a b s, DecodesC (.tlbinv l a b s)) ∧ (∀ l d a, DecodesC (.tlbprobe l d a)) := by
  and_intros <;> intros <;>
  simp (disch := decide) only [DecodesC, recodeC, encodeWord, literalOf, litBit_some, Option.getD_some, lit_of_litBit, decodeC,
    decodeMxc, decodeLma, decodeColl, decodeYoke, decodeTlb,
    implies_true, BitVec.extractLsb'_append_eq_of_le, BitVec.extractLsb'_append_eq_of_add_le, bits_append_across,
    Nat.reduceSub, BitVec.extractLsb'_eq_self,
    BitVec.reduceExtractLsb', BitVec.reduceToNat, BitVec.reduceEq,
    and_false, false_and, and_true, true_and, if_false, if_true]

theorem decodesC (i : Instr) (h : slotKind i = .c) : DecodesC i := by
  cases i <;> cases h <;>
    simp only [
      decodesC_system, decodesC_loadStore, decodesC_jump, decodesC_amo, decodesC_sync, decodesC_drove, decodesC_drmw,
      decodesC_feed, decodesC_fabric]

/-- The majors 0x00 and 0x01 (R106). -/
theorem decodesA_alu :
    DecodesA .nopASlot ∧ (∀ d a b, DecodesA (.add d a b)) ∧ (∀ d a b, DecodesA (.sub d a b)) ∧
    (∀ d a b, DecodesA (.and d a b)) ∧ (∀ d a b, DecodesA (.or d a b)) ∧ (∀ d a b, DecodesA (.xor d a b)) ∧
    (∀ d a b, DecodesA (.andn d a b)) ∧ (∀ d a b, DecodesA (.min d a b)) ∧ (∀ d a b, DecodesA (.max d a b)) ∧
    (∀ d a b, DecodesA (.minu d a b)) ∧ (∀ d a b, DecodesA (.maxu d a b)) ∧ (∀ d a b, DecodesA (.addw d a b)) ∧
    (∀ d a b, DecodesA (.subw d a b)) ∧ (∀ d a b, DecodesA (.adds d a b)) ∧ (∀ d a b, DecodesA (.subs d a b)) ∧
    (∀ d a, DecodesA (.abs d a)) := by
  and_intros <;> intros <;>
  simp (disch := decide) only [DecodesA, recodeA, encodeWord, decodeA,
    decodeNopA, decodeIalu,
    BitVec.extractLsb'_append_eq_of_le, BitVec.extractLsb'_append_eq_of_add_le, bits_append_across,
    Nat.reduceSub, BitVec.extractLsb'_eq_self,
    BitVec.reduceExtractLsb', BitVec.reduceToNat, BitVec.reduceEq,
    and_false, false_and, and_true, true_and, if_false, if_true]

/-- The multiplication and comparison majors 0x02 and 0x03 (R106). -/
theorem decodesA_mul :
    (∀ d a b, DecodesA (.mul d a b)) ∧ (∀ d a b, DecodesA (.mulh d a b)) ∧ (∀ d a b, DecodesA (.mulhu d a b)) ∧
    (∀ d a b, DecodesA (.mulhsu d a b)) ∧ (∀ d a b, DecodesA (.div d a b)) ∧ (∀ d a b, DecodesA (.divu d a b)) ∧
    (∀ d a b, DecodesA (.rem d a b)) ∧ (∀ d a b, DecodesA (.remu d a b)) ∧ (∀ d a b, DecodesA (.seq d a b)) ∧
    (∀ d a b, DecodesA (.sne d a b)) ∧ (∀ d a b, DecodesA (.slt d a b)) ∧ (∀ d a b, DecodesA (.sge d a b)) ∧
    (∀ d a b, DecodesA (.sltu d a b)) ∧ (∀ d a b, DecodesA (.sgeu d a b)) := by
  and_intros <;> intros <;>
  simp (disch := decide) only [DecodesA, recodeA, encodeWord, decodeA,
    decodeImul, decodeIcmp,
    BitVec.extractLsb'_append_eq_of_le, BitVec.extractLsb'_append_eq_of_add_le, bits_append_across,
    Nat.reduceSub, BitVec.extractLsb'_eq_self,
    BitVec.reduceExtractLsb', BitVec.reduceToNat, BitVec.reduceEq,
    and_false, false_and, and_true, true_and, if_false, if_true]

/-- The bit and immediate majors 0x04 to 0x08 (R106). -/
theorem decodesA_bits :
    (∀ d a b, DecodesA (.sll d a b)) ∧ (∀ d a b, DecodesA (.srl d a b)) ∧ (∀ d a b, DecodesA (.sra d a b)) ∧
    (∀ d a b, DecodesA (.rol d a b)) ∧ (∀ d a b, DecodesA (.ror d a b)) ∧ (∀ d a n, DecodesA (.popc d a n)) ∧
    (∀ d a, DecodesA (.clz d a)) ∧ (∀ d a n, DecodesA (.ctz d a n)) ∧ (∀ d a, DecodesA (.brev d a)) ∧
    (∀ d a, DecodesA (.bswap d a)) ∧ (∀ d a b, DecodesA (.extu d a b)) ∧ (∀ d a b, DecodesA (.exts d a b)) ∧
    (∀ d a b n, DecodesA (.mshl d a b n)) ∧ (∀ d a b n, DecodesA (.mshr d a b n)) ∧ (∀ d a b n, DecodesA (.mand d a b n)) ∧
    (∀ d a b n, DecodesA (.mor d a b n)) ∧ (∀ d a b n, DecodesA (.mxor d a b n)) ∧ (∀ d a i, DecodesA (.addi d a i)) ∧
    (∀ d a i, DecodesA (.andi d a i)) ∧ (∀ d a i, DecodesA (.ori d a i)) ∧ (∀ d a i, DecodesA (.xori d a i)) := by
  and_intros <;> intros <;>
  simp (disch := decide) only [DecodesA, recodeA, encodeWord, decodeA,
    decodeBits, decodeAddi, decodeAndi, decodeOri, decodeXori,
    BitVec.extractLsb'_append_eq_of_le, BitVec.extractLsb'_append_eq_of_add_le, bits_append_across,
    Nat.reduceSub, BitVec.extractLsb'_eq_self,
    BitVec.reduceExtractLsb', BitVec.reduceToNat, BitVec.reduceEq,
    and_false, false_and, and_true, true_and, if_false, if_true]

/-- The shift and CMPI majors 0x09 and 0x0A (R106). -/
theorem decodesA_shift :
    (∀ d a n s, DecodesA (.slli d a n s)) ∧ (∀ d a n s, DecodesA (.srli d a n s)) ∧ (∀ d a s, DecodesA (.srai d a s)) ∧
    (∀ d a s, DecodesA (.roli d a s)) ∧ (∀ d a s, DecodesA (.rori d a s)) ∧ (∀ d a r i, DecodesA (.cmpi d a r i)) := by
  and_intros <;> intros <;>
  simp (disch := decide) only [DecodesA, recodeA, encodeWord, decodeA,
    decodeShi, decodeCmpi,
    BitVec.extractLsb'_append_eq_of_le, BitVec.extractLsb'_append_eq_of_add_le, bits_append_across,
    Nat.reduceSub, BitVec.extractLsb'_eq_self,
    BitVec.reduceExtractLsb', BitVec.reduceToNat, BitVec.reduceEq,
    and_false, false_and, and_true, true_and, if_false, if_true]

/-- The FP32 and conversion majors 0x0B and 0x0C (R106). -/
theorem decodesA_fp :
    (∀ d a b, DecodesA (.fadd d a b)) ∧ (∀ d a b, DecodesA (.fsub d a b)) ∧ (∀ d a b, DecodesA (.fmul d a b)) ∧
    (∀ d a b, DecodesA (.fdiv d a b)) ∧ (∀ d a, DecodesA (.fsqrt d a)) ∧ (∀ d a b, DecodesA (.fmac d a b)) ∧
    (∀ d a b, DecodesA (.fmin d a b)) ∧ (∀ d a b, DecodesA (.fmax d a b)) ∧ (∀ d a, DecodesA (.fabs d a)) ∧
    (∀ d a, DecodesA (.fneg d a)) ∧ (∀ d a b, DecodesA (.feq d a b)) ∧ (∀ d a b, DecodesA (.flt d a b)) ∧
    (∀ d a b, DecodesA (.fle d a b)) ∧ (∀ d a, DecodesA (.fclass d a)) ∧ (∀ d a c r, DecodesA (.fcvt d a c r)) ∧
    (∀ d a c r, DecodesA (.fext d a c r)) ∧ (∀ d a r, DecodesA (.ftoi d a r)) ∧ (∀ d a r, DecodesA (.ftou d a r)) ∧
    (∀ d a r, DecodesA (.itof d a r)) ∧ (∀ d a r, DecodesA (.utof d a r)) := by
  and_intros <;> intros <;>
  simp (disch := decide) only [DecodesA, recodeA, encodeWord, decodeA,
    decodeFp, decodeFcvt,
    BitVec.extractLsb'_append_eq_of_le, BitVec.extractLsb'_append_eq_of_add_le, bits_append_across,
    Nat.reduceSub, BitVec.extractLsb'_eq_self,
    BitVec.reduceExtractLsb', BitVec.reduceToNat, BitVec.reduceEq,
    and_false, false_and, and_true, true_and, if_false, if_true]

/-- The vector float major 0x10 (R106). -/
theorem decodesA_vectorFloat :
    (∀ d a b k, DecodesA (.vadd d a b k)) ∧ (∀ d a b k, DecodesA (.vsub d a b k)) ∧ (∀ d a b k, DecodesA (.vmul d a b k)) ∧
    (∀ d a b k, DecodesA (.vdiv d a b k)) ∧ (∀ d a k, DecodesA (.vsqrt d a k)) ∧ (∀ d a b c k, DecodesA (.vfma d a b c k)) ∧
    (∀ d a b c k, DecodesA (.vfms d a b c k)) ∧ (∀ d a b k, DecodesA (.vmin d a b k)) ∧ (∀ d a b k, DecodesA (.vmax d a b k)) ∧
    (∀ d a k, DecodesA (.vabs d a k)) ∧ (∀ d a k, DecodesA (.vneg d a k)) ∧ (∀ d a b c k, DecodesA (.vdot d a b c k)) ∧
    (∀ d a b k, DecodesA (.vaddBf2 d a b k)) ∧ (∀ d a b k, DecodesA (.vmulBf2 d a b k)) ∧
    (∀ d a b c k, DecodesA (.vfmaBf2 d a b c k)) ∧ (∀ d a b c k, DecodesA (.vdot2Bf d a b c k)) := by
  and_intros <;> intros <;>
  simp (disch := decide) only [DecodesA, recodeA, encodeWord, decodeA,
    decodeVarith,
    BitVec.extractLsb'_append_eq_of_le, BitVec.extractLsb'_append_eq_of_add_le, bits_append_across,
    Nat.reduceSub, BitVec.extractLsb'_eq_self,
    BitVec.reduceExtractLsb', BitVec.reduceToNat, BitVec.reduceEq,
    and_false, false_and, and_true, true_and, if_false, if_true]

/-- The vector integer major 0x11 (R106). -/
theorem decodesA_vectorInt :
    (∀ d a b k, DecodesA (.viadd d a b k)) ∧ (∀ d a b k, DecodesA (.visub d a b k)) ∧ (∀ d a b k, DecodesA (.vimul d a b k)) ∧
    (∀ d a b k, DecodesA (.vimulh d a b k)) ∧ (∀ d a b k, DecodesA (.viand d a b k)) ∧ (∀ d a b k, DecodesA (.vior d a b k)) ∧
    (∀ d a b k, DecodesA (.vixor d a b k)) ∧ (∀ d a b k, DecodesA (.visll d a b k)) ∧ (∀ d a b k, DecodesA (.visrl d a b k)) ∧
    (∀ d a b k, DecodesA (.visra d a b k)) ∧ (∀ d a b k, DecodesA (.vimin d a b k)) ∧ (∀ d a b k, DecodesA (.vimax d a b k)) ∧
    (∀ d a b k, DecodesA (.viminu d a b k)) ∧ (∀ d a b k, DecodesA (.vimaxu d a b k)) ∧
    (∀ d a b k, DecodesA (.viadds d a b k)) ∧ (∀ d a b k, DecodesA (.visubs d a b k)) ∧
    (∀ d a b c k, DecodesA (.vimac d a b c k)) ∧ (∀ d a b c k, DecodesA (.vidot4 d a b c k)) ∧
    (∀ d a k, DecodesA (.viabs d a k)) := by
  and_intros <;> intros <;>
  simp (disch := decide) only [DecodesA, recodeA, encodeWord, decodeA,
    decodeVint,
    BitVec.extractLsb'_append_eq_of_le, BitVec.extractLsb'_append_eq_of_add_le, bits_append_across,
    Nat.reduceSub, BitVec.extractLsb'_eq_self,
    BitVec.reduceExtractLsb', BitVec.reduceToNat, BitVec.reduceEq,
    and_false, false_and, and_true, true_and, if_false, if_true]

/-- The vector comparison and reduction majors 0x12 and 0x13 (R106). -/
theorem decodesA_vectorCompare :
    (∀ a b d, DecodesA (.vcmpFeq a b d)) ∧ (∀ a b d, DecodesA (.vcmpFne a b d)) ∧ (∀ a b d, DecodesA (.vcmpFlt a b d)) ∧
    (∀ a b d, DecodesA (.vcmpFle a b d)) ∧ (∀ a b d, DecodesA (.vcmpFun a b d)) ∧ (∀ a b d, DecodesA (.vcmpIeq a b d)) ∧
    (∀ a b d, DecodesA (.vcmpIne a b d)) ∧ (∀ a b d, DecodesA (.vcmpIlt a b d)) ∧ (∀ a b d, DecodesA (.vcmpIle a b d)) ∧
    (∀ a b d, DecodesA (.vcmpIltu a b d)) ∧ (∀ a b d, DecodesA (.vcmpIleu a b d)) ∧ (∀ d a k, DecodesA (.vrsum d a k)) ∧
    (∀ d a k, DecodesA (.vrmax d a k)) ∧ (∀ d a k, DecodesA (.vrmin d a k)) ∧ (∀ d a k, DecodesA (.vramax d a k)) ∧
    (∀ d a k, DecodesA (.vmaxi d a k)) ∧ (∀ d a k, DecodesA (.vmini d a k)) ∧ (∀ d a k, DecodesA (.vrisum d a k)) ∧
    (∀ d a k, DecodesA (.vrimax d a k)) ∧ (∀ d a k, DecodesA (.vrimin d a k)) ∧ (∀ d a k, DecodesA (.vrimaxu d a k)) ∧
    (∀ d a k, DecodesA (.vriminu d a k)) ∧ (∀ d a k, DecodesA (.vrand d a k)) ∧ (∀ d a k, DecodesA (.vror d a k)) ∧
    (∀ d a k, DecodesA (.vrxor d a k)) := by
  and_intros <;> intros <;>
  simp (disch := decide) only [DecodesA, recodeA, encodeWord, decodeA,
    decodeVcmp, decodeVred,
    BitVec.extractLsb'_append_eq_of_le, BitVec.extractLsb'_append_eq_of_add_le, bits_append_across,
    Nat.reduceSub, BitVec.extractLsb'_eq_self,
    BitVec.reduceExtractLsb', BitVec.reduceToNat, BitVec.reduceEq,
    and_false, false_and, and_true, true_and, if_false, if_true]

/-- The majors 0x14 to 0x16 (R106). -/
theorem decodesA_vectorMove :
    (∀ d a k, DecodesA (.vexp2 d a k)) ∧ (∀ d a k, DecodesA (.vexpe d a k)) ∧ (∀ d a k, DecodesA (.vlog2 d a k)) ∧
    (∀ d a k, DecodesA (.vrcp d a k)) ∧ (∀ d a k, DecodesA (.vrsq d a k)) ∧ (∀ d a k, DecodesA (.vmov d a k)) ∧
    (∀ d s, DecodesA (.vsplat d s)) ∧ (∀ a i d, DecodesA (.vmovs a i d)) ∧ (∀ d a b k, DecodesA (.vsel d a b k)) ∧
    (∀ d k, DecodesA (.viota d k)) ∧ (∀ d a b k, DecodesA (.vidx d a b k)) ∧ (∀ d a c h r k, DecodesA (.vnarrow d a c h r k)) ∧
    (∀ d a c h r k, DecodesA (.vwiden d a c h r k)) ∧ (∀ d a c h r k, DecodesA (.vqrnd d a c h r k)) ∧
    (∀ d a c h l, DecodesA (.vmxq d a c h l)) ∧ (∀ d a c h l, DecodesA (.vmxs d a c h l)) ∧
    (∀ d a c h l, DecodesA (.vmxc d a c h l)) ∧ (∀ d a, DecodesA (.vbaleq d a)) := by
  and_intros <;> intros <;>
  simp (disch := decide) only [DecodesA, recodeA, encodeWord, decodeA,
    decodeVsfu, decodeVperm, decodeVcvt,
    BitVec.extractLsb'_append_eq_of_le, BitVec.extractLsb'_append_eq_of_add_le, bits_append_across,
    Nat.reduceSub, BitVec.extractLsb'_eq_self,
    BitVec.reduceExtractLsb', BitVec.reduceToNat, BitVec.reduceEq,
    and_false, false_and, and_true, true_and, if_false, if_true]

/-- The matrix majors 0x18 to 0x1A (R106). -/
theorem decodesA_matrix :
    (∀ d a b s, DecodesA (.mma d a b s)) ∧ (∀ d a b s, DecodesA (.mmaz d a b s)) ∧ (∀ d, DecodesA (.azero d)) ∧
    (∀ d s, DecodesA (.acopy d s)) ∧ (∀ d s i, DecodesA (.aadd d s i)) ∧ (∀ a, DecodesA (.tzero a)) ∧
    (∀ a b, DecodesA (.tcopy a b)) ∧ (∀ a b, DecodesA (.ttrn a b)) ∧ (∀ a r, DecodesA (.tfwd a r)) ∧
    (∀ a b, DecodesA (.ttake a b)) := by
  and_intros <;> intros <;>
  simp (disch := decide) only [DecodesA, recodeA, encodeWord, decodeA,
    decodeMma, decodeAcc, decodeTile,
    BitVec.extractLsb'_append_eq_of_le, BitVec.extractLsb'_append_eq_of_add_le, bits_append_across,
    Nat.reduceSub, BitVec.extractLsb'_eq_self,
    BitVec.reduceExtractLsb', BitVec.reduceToNat, BitVec.reduceEq,
    and_false, false_and, and_true, true_and, if_false, if_true]

theorem decodesA (i : Instr) (h : slotKind i = .a) : DecodesA i := by
  cases i <;> cases h <;>
    simp only [
      decodesA_alu, decodesA_mul, decodesA_bits, decodesA_shift, decodesA_fp, decodesA_vectorFloat, decodesA_vectorInt,
      decodesA_vectorCompare, decodesA_vectorMove, decodesA_matrix]

end Sys2Proof

namespace Sys2Proof

/-- Settles O2: the two words hold each field where its slot's decoder reads it (`decodesC`, `decodesA`), and word 1 is the literal where
bit 31 says so. -/
theorem decodeEncodeRoundTrip : Obligations.DecodeEncodeRoundTrip := by
  rintro ⟨c, a⟩ hc ha hlit - -
  obtain ⟨w0, hw0, hL, hdec⟩ := (decodesC c hc).words
  obtain ⟨w1, hw1, hdecA⟩ := (decodesA a ha).word
  cases hl : literalOf c with
  | some v =>
    obtain rfl : a = .nopASlot := by simpa [hl] using hlit
    have hd : decodeC w0 v = some c := by simpa [hl] using hdec v
    exact ⟨w0, v, by simp [encode, hw0, hl], by simp [decodePacket, hL, hl, litBit, hd]⟩
  | none =>
    have hd : decodeC w0 w1 = some c := by simpa [hl] using hdec w1
    exact ⟨w0, w1, by simp [encode, hw0, hw1, hl], by simp [decodePacket, hL, hl, litBit, hd, hdecA]⟩

end Sys2Proof
end

section
/-! PROOFS. The scalar instructions over plain registers (06 R140 to R147): the value of each result, how the forms with one and two sources
run, and their statement. -/

namespace Sys2Proof.Machine

/-! ## Two's complement (R140 to R142, R146) -/

theorem ofInt_min (x y : Word) : BitVec.ofInt 64 (min x.toInt y.toInt) = if y.slt x then y else x := by
  simp only [BitVec.slt_iff_toInt_lt]
  split
  case isTrue h => simp [min_eq_right h.le]
  case isFalse h => simp [min_eq_left (not_lt.mp h)]

theorem ofInt_max (x y : Word) : BitVec.ofInt 64 (max x.toInt y.toInt) = if x.slt y then y else x := by
  simp only [BitVec.slt_iff_toInt_lt]
  split
  case isTrue h => simp [max_eq_right h.le]
  case isFalse h => simp [max_eq_left (not_lt.mp h)]

theorem ofNat_min (x y : Word) : BitVec.ofNat 64 (min x.toNat y.toNat) = if y.ult x then y else x := by
  simp only [BitVec.ult_iff_toNat_lt]
  split
  case isTrue h => simp [min_eq_right h.le]
  case isFalse h => simp [min_eq_left (not_lt.mp h)]

theorem ofNat_max (x y : Word) : BitVec.ofNat 64 (max x.toNat y.toNat) = if x.ult y then y else x := by
  simp only [BitVec.ult_iff_toNat_lt]
  split
  case isTrue h => simp [max_eq_right h.le]
  case isFalse h => simp [max_eq_left (not_lt.mp h)]

theorem addw_eq (x y : Word) : BitVec.ofInt 64 (BitVec.ofNat 32 (x.toNat + y.toNat)).toInt = ((x + y).truncate 32).signExtend 64 := by
  rw [BitVec.signExtend]
  congr 2
  apply BitVec.eq_of_toNat_eq
  simp

theorem ofInt_sub_toInt (x y : Word) : BitVec.ofInt 64 (x.toInt - y.toInt) = x - y := by
  apply BitVec.eq_of_toInt_eq
  simp [BitVec.toInt_sub]

theorem subw_eq (x y : Word) : BitVec.ofInt 64 (BitVec.ofInt 32 (x.toInt - y.toInt)).toInt = ((x - y).truncate 32).signExtend 64 := by
  rw [BitVec.signExtend, ← ofInt_sub_toInt]
  congr 2
  apply BitVec.eq_of_toInt_eq
  rw [BitVec.toInt_ofInt, BitVec.truncate, BitVec.toInt_setWidth]
  simp only [BitVec.toNat_ofInt, Int.toNat_of_nonneg (Int.emod_nonneg _ (show ((2 ^ 64 : Nat) : Int) ≠ 0 by decide)), Int.bmod]
  rw [Int.emod_emod_of_dvd _ (by decide)]

theorem ofInt_tdiv (x y : Word) : BitVec.ofInt 64 (x.toInt.tdiv y.toInt) = x.sdiv y := by
  apply BitVec.eq_of_toInt_eq
  simp [BitVec.toInt_sdiv]

theorem ofInt_tmod (x y : Word) : BitVec.ofInt 64 (x.toInt.tmod y.toInt) = x.srem y := by
  rw [← BitVec.toInt_srem, BitVec.ofInt_toInt]

theorem shiftLeft_eq_mul (x : Word) (n : Nat) : BitVec.ofNat 64 (x.toNat * 2 ^ n) = x <<< n := by
  apply BitVec.eq_of_toNat_eq
  simp [BitVec.toNat_shiftLeft, Nat.shiftLeft_eq]

theorem ushiftRight_eq_div (x : Word) (n : Nat) : BitVec.ofNat 64 (x.toNat / 2 ^ n) = x >>> n := by
  apply BitVec.eq_of_toNat_eq
  have := x.isLt
  rw [BitVec.toNat_ofNat, BitVec.toNat_ushiftRight, Nat.shiftRight_eq_div_pow, Nat.mod_eq_of_lt]
  exact lt_of_le_of_lt (Nat.div_le_self _ _) this

theorem sshiftRight_eq_div (x : Word) (n : Nat) : BitVec.ofInt 64 (x.toInt / 2 ^ n) = x.sshiftRight n := by
  rw [BitVec.sshiftRight, Int.shiftRight_eq_div_pow]; norm_cast

theorem rotateLeft_eq (x : Word) {n : Nat} (h : n < 64) : (x <<< n) ||| (x >>> ((64 - n) % 64)) = x.rotateLeft n := by
  rw [BitVec.rotateLeft_def]
  obtain rfl | h0 := Nat.eq_zero_or_pos n
  · simp [BitVec.ushiftRight_eq_zero]
  · rw [Nat.mod_eq_of_lt h, Nat.mod_eq_of_lt (by omega)]

theorem rotateRight_eq (x : Word) {n : Nat} (h : n < 64) : (x >>> n) ||| (x <<< ((64 - n) % 64)) = x.rotateRight n := by
  rw [BitVec.rotateRight_def]
  obtain rfl | h0 := Nat.eq_zero_or_pos n
  · simp
  · rw [Nat.mod_eq_of_lt h, Nat.mod_eq_of_lt (by omega)]

theorem sgn_eq_toInt {n : Nat} (h : 0 < n) (v : Nat) : sgn n v = (BitVec.ofNat n v).toInt := by
  have hp : 2 ^ n = 2 * 2 ^ (n - 1) := by rw [← pow_succ']; congr 1; omega
  rw [BitVec.toInt_eq_toNat_cond, BitVec.toNat_ofNat, sgn]
  by_cases hs : 2 ^ (n - 1) ≤ v % 2 ^ n
  · rw [if_pos hs, if_neg (by omega)]; push_cast; rfl
  · rw [if_neg hs, if_pos (by omega)]

theorem ofNat_emod (n v : Nat) : BitVec.ofNat n (v % 2 ^ n) = BitVec.ofNat n v := BitVec.eq_of_toNat_eq (by simp)

/-! ## Two-source forms -/

/-- A two-source scalar instruction runs as `alu2` of its result (R140 to R142, R146). -/
theorem exec_of_alu2 {i : Instr} {d a b : BitVec 5} {f : Word → Word → Word} (h : Spec.Alu2 i d a b f) (s : State) :
    exec i s = alu2 s d.toNat a.toNat b.toNat f := by
  have mod64 (y : Word) : y.toNat % 64 < 64 := Nat.mod_lt _ (by decide)
  cases h
  case add => simp [execAdd, BitVec.ofNat_add]
  case sub => simp [execSub, ofInt_sub_toInt]
  case min => simp [execMin, ofInt_min]
  case max => simp [execMax, ofInt_max]
  case minu => simp [execMinu, ofNat_min]
  case maxu => simp [execMaxu, ofNat_max]
  case addw => simp [execAddw, addw_eq]
  case subw => simp only [exec_subw, execSubw, subw_eq]
  case mul => simp [execMul, BitVec.ofNat_mul]
  case div => simp [execDiv, ofInt_tdiv]
  case rem => simp [execRem, ofInt_tmod]
  case seq => simp [execSeq, boolWord, Rel.holds]
  case sne => simp [execSne, boolWord, Rel.holds]
  case slt => simp [execSlt, boolWord, Rel.holds, BitVec.slt]
  case sge => simp [execSge, boolWord, Rel.holds, BitVec.slt]
  case sltu => simp [execSltu, boolWord, Rel.holds, BitVec.ult]
  case sgeu => simp [execSgeu, boolWord, Rel.holds, BitVec.ult]
  case sll => simp only [exec_sll, execSll, shiftLeft_eq_mul]
  case srl => simp only [exec_srl, execSrl, ushiftRight_eq_div]
  case sra => simp only [exec_sra, execSra, sshiftRight_eq_div]
  case rol => simp only [exec_rol, execRol, rotateLeft_eq _ (mod64 _)]
  case ror => simp only [exec_ror, execRor, rotateRight_eq _ (mod64 _)]
  case exts =>
    simp only [exec_exts, execExts, bitField, sgn_eq_toInt (Nat.succ_pos _), ofNat_emod] <;> rfl
  case divu => simp [execDivu, BitVec.udiv_def]
  case remu => simp [execRemu, BitVec.umod_def]
  all_goals rfl

theorem alu2_ready {s : State} {d a b : Nat} (f : Word → Word → Word) (h : Ready s [a, b] [d]) :
    alu2 s d a b f = settle s (.ok (s.wroteG d (f (gval s a) (gval s b)))) := by
  rw [alu2, withRegs_ready _ h, setG_plain _ (h.unbound (by simp))]

theorem alu1_ready {s : State} {d a : Nat} (f : Word → Word) (h : Ready s [a] [d]) :
    alu1 s d a f = settle s (.ok (s.wroteG d (f (gval s a)))) := by
  rw [alu1, withRegs_ready _ h, setG_plain _ (h.unbound (by simp))]

/-! ## One-source forms -/

theorem exec_cmpi_of {r : BitVec 3} {q : Rel} (h : relOf r.toNat = some q) (d a : BitVec 5) (i : BitVec 13) (s : State) :
    exec (.cmpi d a r i) s = alu1 s d.toNat a.toNat fun x => boolWord (q.holds x (i.signExtend 64)) := by
  simp [execCmpi, h]

/-- The bytes of a doubleword in reverse, as one word (R146). -/
theorem bswap_eq_append (x : Word) :
    BitVec.ofNat 64 ((List.range 8).foldl (fun v j => v + x.toNat / 2 ^ (8 * j) % 256 * 2 ^ (8 * (7 - j))) 0) =
      x.extractLsb' 0 8 ++ x.extractLsb' 8 8 ++ x.extractLsb' 16 8 ++ x.extractLsb' 24 8 ++ x.extractLsb' 32 8 ++
        x.extractLsb' 40 8 ++ x.extractLsb' 48 8 ++ x.extractLsb' 56 8 := by
  apply BitVec.eq_of_toNat_eq
  have join {v w : Nat} (x : BitVec v) (y : BitVec w) : (x ++ y).toNat = x.toNat * 2 ^ w + y.toNat := by
    rw [BitVec.toNat_append, ← Nat.shiftLeft_add_eq_or_of_lt y.isLt, Nat.shiftLeft_eq]
  simp only [join, BitVec.extractLsb'_toNat, Nat.shiftRight_eq_div_pow, BitVec.toNat_ofNat]
  simp [List.range_succ]
  omega

theorem getLsbD_bswap (x : Word) (i : Nat) (hi : i < 64) :
    (BitVec.ofNat 64 ((List.range 8).foldl (fun v j => v + x.toNat / 2 ^ (8 * j) % 256 * 2 ^ (8 * (7 - j))) 0)).getLsbD i =
      x.getLsbD (8 * (7 - i / 8) + i % 8) := by
  rw [bswap_eq_append]
  simp only [BitVec.getLsbD_append, BitVec.getLsbD_extractLsb']
  split_ifs <;> rw [decide_eq_true (by omega), Bool.true_and] <;> congr 1 <;> omega

theorem clamp64_natAbs (x : Word) : (clamp64 x.toInt.natAbs).toInt = min (2 ^ 63 - 1) (x.toInt.natAbs : Int) := by
  have hle : min (2 ^ 63 - 1) (x.toInt.natAbs : Int) ≤ 2 ^ 63 - 1 := min_le_left _ _
  have hnn : 0 ≤ min (2 ^ 63 - 1) (x.toInt.natAbs : Int) := le_min (by norm_num) (by omega)
  rw [clamp64, max_eq_right (by omega), BitVec.toInt_ofInt, Int.bmod_eq_of_le (by omega) (by omega)]

/-- The leading zeros of a doubleword, by its highest set bit (R146). -/
theorem leadingZeros_spec (x : Word) : let r : Word := if x = 0 then 64 else BitVec.ofNat 64 (63 - Nat.log2 x.toNat)
    r.toNat ≤ 64 ∧ (∀ i, i < r.toNat → x.getMsbD i = false) ∧ (r.toNat < 64 → x.getMsbD r.toNat = true) := by
  by_cases hx : x = 0
  · simp [hx]
  · have h0 : x.toNat ≠ 0 := fun h => hx (BitVec.eq_of_toNat_eq h)
    have hl : x.toNat.log2 < 64 := (Nat.log2_lt h0).mpr x.isLt
    simp only [if_neg hx, BitVec.toNat_ofNat, Nat.mod_eq_of_lt (show 63 - x.toNat.log2 < 2 ^ 64 by omega), BitVec.getMsbD,
      BitVec.getLsbD]
    refine ⟨by omega, fun i hi => ?_, fun _ => ?_⟩
    · have htop : x.toNat < 2 ^ (64 - 1 - i) := Nat.lt_of_lt_of_le Nat.lt_log2_self (Nat.pow_le_pow_right (by decide) (by omega))
      simp [Nat.testBit_lt_two_pow htop]
    · rw [show 64 - 1 - (63 - x.toNat.log2) = x.toNat.log2 by omega, Nat.testBit_log2 h0]
      simp
      omega

theorem getLsbD_rotateLeft_mod (x : Word) {i k : Nat} (hi : i < 64) (hk : k < 64) :
    (x.rotateLeft k).getLsbD ((i + k) % 64) = x.getLsbD i := by
  rw [BitVec.getLsbD_rotateLeft, Nat.mod_eq_of_lt hk]
  by_cases h : i + k < 64
  · rw [Nat.mod_eq_of_lt h]
    simp [show ¬ i + k < k by omega, h]
  · rw [show (i + k) % 64 = i + k - 64 by omega]
    simp [show i + k - 64 < k by omega, show 64 - k + (i + k - 64) = i by omega]

theorem getLsbD_rotateRight_mod (x : Word) {i k : Nat} (hi : i < 64) (hk : k < 64) :
    (x.rotateRight k).getLsbD i = x.getLsbD ((i + k) % 64) := by
  rw [BitVec.getLsbD_rotateRight, Nat.mod_eq_of_lt hk]
  by_cases h : i + k < 64
  · rw [Nat.mod_eq_of_lt h]
    simp [show i < 64 - k by omega, Nat.add_comm]
  · rw [show (i + k) % 64 = i - (64 - k) by omega]
    simp [show ¬ i < 64 - k by omega, hi]

theorem toInt_imm (i : BitVec 13) : (i.signExtend 64).toInt = i.toInt := BitVec.toInt_signExtend_of_le (by decide)

theorem eq_imm (x : Word) (i : BitVec 13) : x = i.signExtend 64 ↔ x.toInt = i.toInt := by
  rw [← BitVec.toInt_inj, toInt_imm]

/-- A one-source scalar instruction runs as `alu1` of a result as its rule says (R140, R143, R144, R146, R147). -/
theorem exec_of_alu1 {i : Instr} {d a : BitVec 5} {R : Word → Word → Prop} (h : Spec.Alu1 i d a R) (s : State) :
    ∃ f : Word → Word, exec i s = alu1 s d.toNat a.toNat f ∧ ∀ x, R x (f x) := by
  cases h
  case abs => exact ⟨_, exec_abs _ _ _, clamp64_natAbs⟩
  case clz => exact ⟨_, exec_clz _ _ _, fun x => leadingZeros_spec x⟩
  case brev => exact ⟨_, exec_brev _ _ _, fun x i hi => by simp only [BitVec.getLsbD_reverse, BitVec.getMsbD]; simp [hi]⟩
  case bswap => exact ⟨_, exec_bswap _ _ _, getLsbD_bswap⟩
  case addi => exact ⟨_, exec_addi _ _ _ _, fun x => by simp [BitVec.ofInt_add, BitVec.signExtend]⟩
  case andi => exact ⟨_, exec_andi _ _ _ _, fun x => rfl⟩
  case ori => exact ⟨_, exec_ori _ _ _ _, fun x => by simp [BitVec.setWidth_eq]⟩
  case xori => exact ⟨_, exec_xori _ _ _ _, fun x => by simp [BitVec.setWidth_eq]⟩
  case srai h => exact ⟨_, (exec_srai _ _ _ _).trans (if_neg (not_lt.mpr h)), fun x => (sshiftRight_eq_div x _).symm⟩
  case roli h => exact ⟨_, (exec_roli _ _ _ _).trans (if_neg (not_lt.mpr h)), fun x i hi => getLsbD_rotateLeft_mod x hi (by omega)⟩
  case rori h => exact ⟨_, (exec_rori _ _ _ _).trans (if_neg (not_lt.mpr h)), fun x i hi => getLsbD_rotateRight_mod x hi (by omega)⟩
  case cmpiEq => exact ⟨_, exec_cmpi_of (q := .eq) rfl _ _ _ _, fun x => by simp [boolWord, Rel.holds, eq_imm]⟩
  case cmpiNe => exact ⟨_, exec_cmpi_of (q := .ne) rfl _ _ _ _, fun x => by simp [boolWord, Rel.holds, eq_imm]⟩
  case cmpiLt => exact ⟨_, exec_cmpi_of (q := .lt) rfl _ _ _ _, fun x => by simp [boolWord, Rel.holds, BitVec.slt, toInt_imm]⟩
  case cmpiGe => exact ⟨_, exec_cmpi_of (q := .ge) rfl _ _ _ _, fun x => by simp [boolWord, Rel.holds, BitVec.slt, toInt_imm]⟩
  case cmpiLtu => exact ⟨_, exec_cmpi_of (q := .ltu) rfl _ _ _ _, fun x => by simp [boolWord, Rel.holds, BitVec.ult, BitVec.signExtend]⟩
  case cmpiGeu => exact ⟨_, exec_cmpi_of (q := .geu) rfl _ _ _ _, fun x => by simp [boolWord, Rel.holds, BitVec.ult, BitVec.signExtend]⟩

end Sys2Proof.Machine

namespace Sys2Proof
open Machine

/-- Settles O8: each form runs as `alu2` or `alu1` of its result, which over plain registers writes rd. -/
theorem scalarResults : Obligations.ScalarResults := by
  refine ⟨fun i d a b f s hi h => completes_of_ok (by rw [exec_of_alu2 hi, alu2_ready f h]), fun i d a R s hi h => ?_⟩
  obtain ⟨f, hf, hR⟩ := exec_of_alu1 hi s
  exact ⟨f (gval s a.toNat), hR _, completes_of_ok (by rw [hf, alu1_ready f h])⟩

end Sys2Proof
end

section
/-! PROOFS. Register operands of the scalar instructions (04 R89, R95; 06 R144, R145; 11 R277 to R279): reads after writes, streams that pop
and that take results, and mask groups; then their statements. -/

namespace Sys2Proof.Machine

/-! ## Register reads after a write (R89) -/

theorem boundG_congr {k j : Core} (h : k.streams = j.streams) (r : Nat) : boundG k r = boundG j r := by simp only [boundG, h]

theorem wroteG_me (s : State) (d : Nat) (v : Word) :
    (s.wroteG d v).me = if d = 0 then s.me else { s.me with r := { s.me.r with g := mset 0 s.me.r.g d v } } := by
  unfold State.wroteG
  split <;> simp

@[simp] theorem wroteG_latch (s : State) (d : Nat) (v : Word) : (s.wroteG d v).latch = s.latch := by
  unfold State.wroteG
  split <;> rfl

@[simp] theorem pre_of_latch_none {s : State} (h : s.latch = none) : s.pre = s.me := by simp [State.pre, h]

/-! ## Stream operands (R277 to R279) -/

theorem boundG_eq_some {k : Core} {r : Nat} {t : Stream} :
    boundG k r = some t ↔ 24 ≤ r ∧ mfind k.streams (r - 24) = some t ∧ t.vec = false := by
  unfold boundG
  split
  · split
    case h_1 u hu =>
      rw [hu]
      cases hv : u.vec <;> simp_all
      · rintro rfl; exact hv
      · rintro rfl; exact hv
    case h_2 hu => simp [hu]
  · simp; omega

/-- The filter of `srcStreams`: a bound register that is one of the sources, as often as they name it. -/
theorem filter_bound_eq {s : State} {a : Nat} {rs : List Nat} (hrest : ∀ r ∈ rs, r = a ∨ boundG s.pre r = none) :
    ∀ r ∈ rs.filter fun r => (boundG s.pre r).isSome, r = a := by
  intro r hr
  obtain ⟨hm, hs⟩ := List.mem_filter.mp hr
  exact (hrest r hm).resolve_right fun h => by simp [h] at hs

/-- Sources that name one bound register, however often, pop its stream once for the packet (R95). -/
theorem srcStreams_one {s : State} {a : Nat} {rs : List Nat} (ha : a ∈ rs) (hb : (boundG s.pre a).isSome = true)
    (hrest : ∀ r ∈ rs, r = a ∨ boundG s.pre r = none) (hp : s.popped.contains (a - 24) = false) : srcStreams s rs = [a - 24] := by
  have hp' : a - 24 ∉ s.popped := by simpa using hp
  have hne : a ∈ rs.filter fun r => (boundG s.pre r).isSome := List.mem_filter.mpr ⟨ha, hb⟩
  have hall := filter_bound_eq hrest
  have stay (l : List Nat) (h : ∀ r ∈ l, r = a) : l.foldl (fun acc r =>
      if acc.contains (r - 24) || s.popped.contains (r - 24) then acc else acc ++ [r - 24]) [a - 24] = [a - 24] := by
    induction l with
    | nil => rfl
    | cons r l ih =>
      obtain rfl := h r (by simp)
      simpa using ih fun x hx => h x (by simp [hx])
  unfold srcStreams
  revert hne hall
  generalize rs.filter (fun r => (boundG s.pre r).isSome) = l
  intro hne hall
  cases l with
  | nil => simp at hne
  | cons r l =>
    obtain rfl := hall r (by simp)
    simpa [hp'] using stay l fun x hx => hall x (by simp [hx])

/-- A stream that the packet's first instruction has popped is not popped again (R95). -/
theorem srcStreams_popped {s : State} {a : Nat} {rs : List Nat}
    (hrest : ∀ r ∈ rs, r = a ∨ boundG s.pre r = none) (hp : s.popped.contains (a - 24) = true) : srcStreams s rs = [] := by
  have hp' : a - 24 ∈ s.popped := by simpa using hp
  have hall := filter_bound_eq hrest
  unfold srcStreams
  revert hall
  generalize rs.filter (fun r => (boundG s.pre r).isSome) = l
  intro hall
  induction l with
  | nil => rfl
  | cons r l ih =>
    obtain rfl := hall r (by simp)
    simpa [hp'] using ih fun x hx => hall x (by simp [hx])

/-- A pop of one valid entry (R279). -/
theorem popStream_val {s : State} {b : Nat} {t : Stream} {w : Word} {rest : List RingEntry} (ht : mfind s.me.streams b = some t)
    (hw : t.writes = false) (hr : t.ring = .val w none :: rest) (hroom : t.rep = true ∨ t.pos + 1 ≤ t.total) :
    popStream s b 1 = .ok ([w], none, s.updMe fun k =>
      { k with streams := mput k.streams b { t with ring := rest, pos := t.advance 1 } }) := by
  have hroom' : (t.rep || decide (t.pos < t.total)) = true := by simpa using hroom
  simp [popStream, mget, ht, hw, hroom', hr, ringRead, RingEntry.word]
  rfl

/-- A push of one value (R279). -/
theorem pushStream_one {s : State} {b : Nat} {t : Stream} (w : Word) (ht : mfind s.me.streams b = some t)
    (hw : t.writes = true) (hlen : t.ring.length < t.room) (hroom : t.rep = true ∨ t.pos + 1 ≤ t.total) :
    pushStream s b [w] = .ok (s.updMe fun k =>
      { k with streams := mput k.streams b { t with ring := t.ring ++ [.val w none], pos := t.advance 1 } }) := by
  have hroom' : (t.rep || decide (t.pos < t.total)) = true := by simpa using hroom
  simp [pushStream, mget, ht, hw, hroom', Nat.succ_le_of_lt hlen]
  rfl

/-- An attempt whose sources are one read stream and plain registers, over plain destinations: where the packet has yet to pop the stream,
it pops it once (R95, R279). -/
theorem withPops_pop {s : State} {a : Nat} {t : Stream} {w : Word} {rest : List RingEntry} {srcs dests : List Nat}
    (f : Option Nat → State → Res State) (ha : a ∈ srcs) (hrest : ∀ r ∈ srcs, r = a ∨ boundG s.pre r = none)
    (hpend : (srcs ++ dests).any (fun r => s.pre.pending r) = false) (hfail : s.pre.failedRd srcs = none)
    (hb : boundG s.pre a = some t) (hw : t.writes = false) (hr : t.ring = .val w none :: rest)
    (hroom : t.rep = true ∨ t.pos + 1 ≤ t.total) (hp : s.popped.contains (a - 24) = false)
    (hs : ∀ n, mfind s.me.streams n = mfind s.pre.streams n) :
    withPops s srcs dests (.ok ()) f = f none (s.updMe fun k =>
      { k with streams := mput k.streams (a - 24) { t with ring := rest, pos := t.advance 1 } }) := by
  obtain ⟨-, ht, -⟩ := boundG_eq_some.mp hb
  have hpop := popStream_val ((hs _).trans ht) hw hr hroom
  simp [withPops, withLater, hpend, hfail, srcStreams_one ha (by simp [hb]) hrest hp, popEach, hpop, optMin]

/-- Where the packet's first instruction has popped the stream, nothing moves (R95). -/
theorem withPops_popped {s : State} {a : Nat} {srcs dests : List Nat}
    (f : Option Nat → State → Res State) (hrest : ∀ r ∈ srcs, r = a ∨ boundG s.pre r = none)
    (hpend : (srcs ++ dests).any (fun r => s.pre.pending r) = false) (hfail : s.pre.failedRd srcs = none)
    (hp : s.popped.contains (a - 24) = true) : withPops s srcs dests (.ok ()) f = f none s := by
  simp [withPops, withLater, hpend, hfail, srcStreams_popped hrest hp, popEach, pure, Except.pure]

/-- A stream that moves leaves the other registers bound or plain, as they were. -/
theorem boundG_pre_put_other {s : State} {b d : Nat} (t : Stream) (hd : 24 ≤ d → d - 24 ≠ b) :
    boundG (s.updMe fun k => { k with streams := mput k.streams b t }).pre d = boundG s.pre d := by
  unfold State.pre
  cases hl : s.latch with
  | some l => simp [hl]
  | none =>
    simp only [State.updMe_latch, hl, State.me_updMe, boundG]
    split
    case isTrue h => rw [mfind_mput_other _ _ _ _ (hd h)]
    case isFalse => rfl

theorem ne_of_bound_of_plain {k : Core} {a d : Nat} {t : Stream} (ha : boundG k a = some t) (hd : boundG k d = none) :
    24 ≤ d → d - 24 ≠ a - 24 := by
  intro h24 he
  obtain ⟨h, -, -⟩ := boundG_eq_some.mp ha
  rw [show d = a by omega, ha] at hd
  cases hd

theorem gval_bound {s : State} {a : Nat} {t : Stream} {w : Word} {rest : List RingEntry} (hb : boundG s.pre a = some t)
    (hr : t.ring = .val w none :: rest) : gval s a = w := by
  obtain ⟨h, -, -⟩ := boundG_eq_some.mp hb
  simp [gval, show a ≠ 0 by omega, hb, hr, RingEntry.word]

/-- A push into a write stream by the name of its register. -/
theorem setG_push {s : State} {d : Nat} {t : Stream} (v : Word) (hb : boundG s.pre d = some t) (hm : mfind s.me.streams (d - 24) = some t)
    (hw : t.writes = true) (hlen : t.ring.length < t.room) (hroom : t.rep = true ∨ t.pos + 1 ≤ t.total) :
    setG s d v = .ok (s.updMe fun k =>
      { k with streams := mput k.streams (d - 24) { t with ring := t.ring ++ [.val v none], pos := t.advance 1 } }) := by
  obtain ⟨h, -, -⟩ := boundG_eq_some.mp hb
  rw [setG, if_neg (by omega), hb]
  exact pushStream_one v hm hw hlen hroom

section
variable {s : State} {d a b : Nat} {t : Stream} {w : Word} {rest : List RingEntry}
  (hb : boundG s.pre a = some t) (hr : t.ring = .val w none :: rest) (hpend : s.pre.pending a = false)
  (hready : Ready s (if b = a then [] else [b]) [d]) (hfail : s.pre.failedRd [a, b] = none)
include hready

/-- Of two sources the second is the first again or plain. -/
theorem second_source : ∀ r ∈ [a, b], r = a ∨ boundG s.pre r = none := by
  intro r hr
  by_cases hba : b = a
  · simp_all
  · rw [if_neg hba] at hready
    rcases List.mem_pair.mp hr with rfl | rfl
    · exact .inl rfl
    · exact .inr (hready.unbound (by simp))

include hpend in
theorem pending_sources : ([a, b] ++ [d]).any (fun r => s.pre.pending r) = false := by
  have h := hready.pending
  by_cases hba : b = a <;> simp_all

include hb hr hpend hfail

/-- A two-source form one of whose sources is a read stream that the packet has yet to pop (R278, R279). -/
theorem alu2_pop (f : Word → Word → Word) (hw : t.writes = false) (hp : s.popped.contains (a - 24) = false)
    (hs : ∀ n, mfind s.me.streams n = mfind s.pre.streams n) (hroom : t.rep = true ∨ t.pos + 1 ≤ t.total) :
    alu2 s d a b f = settle s (.ok ((s.updMe fun k =>
      { k with streams := mput k.streams (a - 24) { t with ring := rest, pos := t.advance 1 } }).wroteG d (f w (gval s b)))) := by
  have hd : boundG s.pre d = none := hready.unbound (by simp)
  rw [alu2, withRegs, withChecked, withPops_pop _ (by simp) (second_source hready) (pending_sources hpend hready) hfail hb hw hr hroom hp hs,
    countPops_none, gval_bound hb hr, setG_plain _ ((boundG_pre_put_other _ (ne_of_bound_of_plain hb hd)).trans hd)]

/-- The same form in the A-slot of a packet whose first instruction has popped the stream (R95). -/
theorem alu2_popped (f : Word → Word → Word) (hp : s.popped.contains (a - 24) = true) :
    alu2 s d a b f = settle s (.ok (s.wroteG d (f w (gval s b)))) := by
  rw [alu2, withRegs, withChecked, withPops_popped _ (second_source hready) (pending_sources hpend hready) hfail hp,
    countPops_none, gval_bound hb hr, setG_plain _ (hready.unbound (by simp))]

end

/-- A two-source form whose destination is a write stream (R279). -/
theorem alu2_push {s : State} {d a b : Nat} {t : Stream} (f : Word → Word → Word) (hb : boundG s.pre d = some t)
    (hm : mfind s.me.streams (d - 24) = some t) (hw : t.writes = true) (hlen : t.ring.length < t.room)
    (hroom : t.rep = true ∨ t.pos + 1 ≤ t.total) (hpend : s.pre.pending d = false) (hready : Ready s [a, b] []) :
    alu2 s d a b f = settle s (.ok (s.updMe fun k => { k with
      streams := mput k.streams (d - 24) { t with ring := t.ring ++ [.val (f (gval s a) (gval s b)) none], pos := t.advance 1 } })) := by
  have hp : ([a, b] ++ [d]).any (fun r => s.pre.pending r) = false := by
    have h := hready.pending
    simp_all
  have hsrc : srcStreams s [a, b] = [] := srcStreams_plain fun r hr => hready.unbound (by simpa using hr)
  rw [alu2, withRegs, withChecked, withPops, withLater, List.append_nil, hp, hready.2, hsrc]
  exact congrArg (settle s) (setG_push _ hb hm hw hlen hroom)

/-! ## Mask groups (R145) -/

theorem mem_span {a n r : Nat} : r ∈ span a n ↔ a ≤ r ∧ r < a + n := by
  simp only [span, List.mem_map, List.mem_range]
  exact ⟨fun ⟨i, hi, he⟩ => by omega, fun h => ⟨r - a, by omega, by omega⟩⟩

@[simp] theorem wroteG_pre_streams (s : State) (d : Nat) (v : Word) : (s.wroteG d v).pre.streams = s.pre.streams := by
  unfold State.wroteG
  split
  · rfl
  · cases hl : s.latch <;> simp [State.pre, hl]

@[simp] theorem boundG_pre_wroteG (s : State) (d r : Nat) (v : Word) : boundG (s.wroteG d v).pre r = boundG s.pre r :=
  boundG_congr (wroteG_pre_streams s d v) r

theorem groupVal_eq_groupNum (s : State) (first n : Nat) : groupVal s first n = Spec.groupNum s first n := by
  induction n with
  | zero => rfl
  | succ n ih => rw [groupVal, List.range_succ, List.foldl_append, ← groupVal, ih]; rfl

@[simp] theorem boundG_pre_groupWrote (s : State) (first v n r : Nat) : boundG (Spec.groupWrote s first v n).pre r = boundG s.pre r := by
  induction n with
  | zero => rfl
  | succ n ih => rw [Spec.groupWrote, boundG_pre_wroteG, ih]

/-- A group of plain registers is written register by register (R145). -/
theorem setGroup_plain {s : State} {first n : Nat} (v : Nat) (h : ∀ r ∈ span first n, boundG s.pre r = none) :
    setGroup s first n v = .ok (Spec.groupWrote s first v n) := by
  induction n with
  | zero => rfl
  | succ n ih =>
    have hlast : boundG (Spec.groupWrote s first v n).pre (first + n) = none := by
      rw [boundG_pre_groupWrote]; exact h _ (mem_span.mpr (by omega))
    have hinit := ih fun r hr => h r (by rw [mem_span] at hr ⊢; omega)
    rw [setGroup] at hinit ⊢
    rw [List.range_succ, List.foldlM_append, hinit]
    simp [setG_plain _ hlast, Spec.groupWrote]

theorem groupFree_ok {s : State} {first n : Nat} (hn : first + n ≤ 32)
    (h : ¬ (2 ≤ n ∧ (span first n).any (fun r => (boundG s.pre r).isSome) = true)) : groupFree s first n = .ok () := by
  have h' : (decide (n ≤ 1) || !(span first n).any fun r => (boundG s.pre r).isSome) = true := by
    by_cases h1 : n ≤ 1
    · simp [h1]
    · simpa [h1] using fun hb => h ⟨by omega, hb⟩
  simp [groupFree, group, hn, h']

theorem groupFree_past {s : State} {first n : Nat} (hn : 32 < first + n) : groupFree s first n = .error (trapC cILLEGAL) := by
  simp [groupFree, show ¬ first + n ≤ 32 by omega]

theorem groupFree_bound {s : State} {first n : Nat} (hn : first + n ≤ 32) (h2 : 2 ≤ n)
    (h : (span first n).any (fun r => (boundG s.pre r).isSome) = true) : groupFree s first n = .error (trapC cSTREAM) := by
  simp [groupFree, group, hn, show ¬ n ≤ 1 by omega, h]

/-- What every mask group instruction does: the groups are judged in order, then the sources are read and the result is written. -/
def groupOp (s : State) (d a b n k m : Nat) (f : Nat → Nat → Nat) : Res State :=
  withChecked s (span a n ++ span b k) (span d m) (groupFree s a n *> groupFree s b k *> groupFree s d m) fun s' =>
    setGroup s' d m (f (groupVal s a n) (groupVal s b k))

theorem group1_eq (s : State) (d a n m : Nat) (f : Nat → Nat) :
    group1 s d a n m f = settle s (groupOp s d a 0 n 0 m fun x _ => f x) := by
  have h0 : groupFree s 0 0 = .ok () := rfl
  have hok (x : Res Unit) : (x *> .ok () : Res Unit) = x := by cases x <;> rfl
  simp only [group1, groupOp, group, h0, hok, show span 0 0 = [] from rfl, List.append_nil]

theorem exec_of_group {i : Instr} {d a b n k m : Nat} {f : Nat → Nat → Nat} (h : Spec.Group i d a b n k m f) (s : State) :
    exec i s = settle s (groupOp s d a b n k m f) := by
  cases h
  case popc => exact (exec_popc _ _ _ _).trans (group1_eq _ _ _ _ _ _)
  case ctz => exact (exec_ctz _ _ _ _).trans (group1_eq _ _ _ _ _ _)
  case slli h => exact (exec_slli _ _ _ _ _).trans ((if_neg (fun hk => h.elim (· hk.1) (by omega))).trans (group1_eq _ _ _ _ _ _))
  case srli h => exact (exec_srli _ _ _ _ _).trans ((if_neg (fun hk => h.elim (· hk.1) (by omega))).trans (group1_eq _ _ _ _ _ _))
  case mshl => exact exec_mshl _ _ _ _ _
  case mshr => exact exec_mshr _ _ _ _ _
  case mand => exact exec_mand _ _ _ _ _
  case mor => exact exec_mor _ _ _ _ _
  case mxor => exact exec_mxor _ _ _ _ _

/-- Plain groups within the registers are judged free. -/
theorem groupFree_ready {s : State} {srcs dests : List Nat} (h : Ready s srcs dests) {first n : Nat} (hn : first + n ≤ 32)
    (hin : ∀ r ∈ span first n, r ∈ srcs ++ dests) : groupFree s first n = .ok () :=
  groupFree_ok hn fun ⟨_, hb⟩ => by
    obtain ⟨r, hr, hs⟩ := List.any_eq_true.mp hb
    simp [h.unbound (hin r hr)] at hs

theorem groupOp_ready {s : State} {d a b n k m : Nat} (f : Nat → Nat → Nat) (ha : a + n ≤ 32) (hb : b + k ≤ 32) (hd : d + m ≤ 32)
    (h : Ready s (span a n ++ span b k) (span d m)) :
    groupOp s d a b n k m f = .ok (Spec.groupWrote s d (f (Spec.groupNum s a n) (Spec.groupNum s b k)) m) := by
  rw [groupOp, withChecked_ready _ _ h, groupFree_ready h ha (by simp +contextual), groupFree_ready h hb (by simp +contextual),
    groupFree_ready h hd (by simp +contextual)]
  simp only [groupVal_eq_groupNum]
  exact setGroup_plain _ fun r hr => h.unbound (by simp [hr])

theorem groupOp_trap {s : State} {d a b n k m : Nat} {e : Stop} (f : Nat → Nat → Nat)
    (hp : (span a n ++ span b k ++ span d m).any (fun r => s.pre.pending r) = false)
    (h : (groupFree s a n *> groupFree s b k *> groupFree s d m) = .error e) : groupOp s d a b n k m f = .error e := by
  rw [groupOp, withChecked, withPops, withLater, List.append_nil, hp, h]
  rfl


end Sys2Proof.Machine

namespace Sys2Proof

open Machine

/-- Settles O9: a write is read at its own register alone. -/
theorem registerReadsAfterAWrite : Obligations.RegisterReadsAfterAWrite := by
  intro s d r v hl hr
  have hpre : (s.wroteG d v).pre = (s.wroteG d v).me := pre_of_latch_none ((wroteG_latch s d v).trans hl)
  have hplain : boundG (s.wroteG d v).pre r = none := by
    rw [hpre, wroteG_me]
    split
    · exact hr
    · exact (boundG_congr rfl r).trans hr
  rw [gval_plain hplain, gval_plain (by rwa [pre_of_latch_none hl]), hpre, wroteG_me, pre_of_latch_none hl]
  by_cases h0 : r = 0
  · simp [h0]
  · by_cases hd : d = 0
    · simp [h0, hd]
    · by_cases hrd : r = d
      · subst hrd; simp [h0]
      · simp [h0, hd, hrd, mget_mset_other _ _ _ _ _ hrd]

/-- Settles O10: such a form pops its source once, or pushes its result. -/
theorem scalarStreamOperands : Obligations.ScalarStreamOperands := by
  intro i d a b f s t hi
  simp only [Completes, exec_of_alu2 hi]
  refine ⟨fun w rest hb hw hr hpend hready hfail => ⟨fun hp hs hroom => ?_, fun hp => ?_⟩, fun hs hb hw hlen hroom hpend hready => ?_⟩
  · exact alu2_pop hb hr hpend (by simpa [BitVec.toNat_inj] using hready) hfail f hw hp hs hroom
  · exact alu2_popped hb hr hpend (by simpa [BitVec.toNat_inj] using hready) hfail f hp
  · obtain ⟨h24, hm, hv⟩ := boundG_eq_some.mp hb
    exact alu2_push f (boundG_eq_some.mpr ⟨h24, (hs _).symm.trans hm, hv⟩) hm hw hlen hroom hpend hready

/-- Settles O11: the groups are judged, all of them are read, and then the destination group is written. -/
theorem maskGroupResults : Obligations.MaskGroupResults := fun i d a b n k m f s hi ha hb hd h =>
  completes_of_ok (by rw [exec_of_group hi, groupOp_ready f ha hb hd h])

theorem maskGroupTraps : Spec.MaskGroupTraps := by
  intro i d a b n k m f s hi hp _ bound free
  have trap {c : BitVec 8} (h : (groupFree s a n *> groupFree s b k *> groupFree s d m) = .error (trapC c)) : Traps i s c :=
    traps_of_trapC (by rw [exec_of_group hi, groupOp_trap f hp h])
  refine ⟨fun h => trap ?_, fun ha h => trap ?_, fun hfa h => trap ?_, fun hfa hb h => trap ?_, fun hfa hfb h => trap ?_,
    fun hfa hfb hd h => trap ?_⟩
  · rw [groupFree_past h]; rfl
  · rw [groupFree_bound ha h.1 h.2]; rfl
  · rw [groupFree_ok hfa.1 hfa.2, groupFree_past h]; rfl
  · rw [groupFree_ok hfa.1 hfa.2, groupFree_bound hb h.1 h.2]; rfl
  · rw [groupFree_ok hfa.1 hfa.2, groupFree_ok hfb.1 hfb.2, groupFree_past h]; rfl
  · rw [groupFree_ok hfa.1 hfa.2, groupFree_ok hfb.1 hfb.2, groupFree_bound hd h.1 h.2]; rfl

theorem relOf_reserved : ∀ {c : Nat}, 6 ≤ c → relOf c = none
  | _ + 6, _ => rfl

/-- Settles O12: the group checks come before the sources are read, and the reserved amounts and relations before everything. -/
theorem reservedScalarFormsTrap : Obligations.ReservedScalarFormsTrap := by
  refine ⟨maskGroupTraps, fun s d a k r j => ⟨fun h => ?_, fun h => traps_of_trapC ?_⟩⟩
  · exact ⟨traps_of_trapC (if_pos ⟨rfl, h⟩), traps_of_trapC (if_pos ⟨rfl, h⟩), traps_of_trapC (if_pos h), traps_of_trapC (if_pos h),
      traps_of_trapC (if_pos h)⟩
  · rw [exec_cmpi, execCmpi, relOf_reserved h]

end Sys2Proof
end

section
/-! PROOFS. FP32 and conversion results (R148, R149). -/

namespace Sys2Proof.Machine

/-! ## How the FP32 forms run -/

theorem failedRd_mono {k : Core} {rs rs' : List Nat} (h : k.failedRd rs = none) (hs : ∀ r ∈ rs', r ∈ rs) : k.failedRd rs' = none := by
  unfold Core.failedRd at h ⊢
  split at h
  case h_2 => rfl
  case h_1 e ds _ =>
    have hn : rs.any (fun r => r != 0 && ds.contains r) = false := by simpa using h
    have hn' : rs'.any (fun r => r != 0 && ds.contains r) = false := by
      rw [List.any_eq_false] at hn ⊢
      exact fun r hr => hn r (hs r hr)
    rw [hn']
    rfl

/-- Fewer registers are free when more are. -/
theorem Ready.mono {s : State} {srcs dests srcs' dests' : List Nat} (h : Ready s srcs dests) (hs : ∀ r ∈ srcs', r ∈ srcs)
    (hd : ∀ r ∈ dests', r ∈ srcs ++ dests) : Ready s srcs' dests' := by
  refine ⟨?_, failedRd_mono h.2 hs⟩
  have h1 := h.1
  simp only [plainRegs, List.all_eq_true] at h1 ⊢
  intro r hr
  rcases List.mem_append.mp hr with hr | hr
  · exact h1 r (List.mem_append_left _ (hs r hr))
  · exact h1 r (hd r hr)

theorem fpOp_ready {s : State} {d : Nat} {srcs : List Nat} {f : Nat → Bool → List Word32 → Word × Flags} {v : Word × Flags}
    (h : Ready s srcs [d]) (hv : f (fpcRm s.pre) (fpcFtz s.pre) (srcs.map fun r => (gval s r).truncate 32) = v) :
    fpOp s d srcs f = settle s (.ok (Spec.raised (s.wroteG d v.1) v.2)) := by
  simp only [fpOp, withRegs_ready _ h, hv, setG_plain v.1 (h.unbound (show d ∈ srcs ++ [d] by simp))]
  rfl

theorem fpOp_result {s : State} {d : Nat} {srcs : List Nat} {f : Nat → Bool → List Word32 → Word × Flags} {w : Word} {fl : Flags}
    (h : Ready s srcs [d]) (hv : f (fpcRm s.pre) (fpcFtz s.pre) (srcs.map fun r => (gval s r).truncate 32) = (w, fl)) :
    fpOp s d srcs f = settle s (.ok (Spec.raised (s.wroteG d w) fl)) :=
  fpOp_ready h hv

theorem cvtOp_ready {s : State} {d a : Nat} {ok : Bool} {f : Word → Word × Flags} {v : Word × Flags} (h : Ready s [a] [d]) (hok : ok = true)
    (hv : f (gval s a) = v) : cvtOp s d a ok f = settle s (.ok (Spec.raised (s.wroteG d v.1) v.2)) := by
  simp only [cvtOp, hok, need_true, ok_bind, withRegs_ready _ h, hv, setG_plain v.1 (h.unbound (show d ∈ [a] ++ [d] by simp))]
  rfl

/-- The rounding of a conversion's field (R189). -/
theorem rmField_eq (k : Core) (r : BitVec 3) : rmField k r.toNat = if r = 0 then fpcRm k else r.toNat - 1 := by
  simp [rmField, BitVec.toNat_eq]

/-! ## FP32 words (R148, R149) -/

theorem bit_eq_div_mod (w : Word32) (i : Nat) : (w.toNat / 2 ^ i % 2 == 0) = !w.getLsbD i := by
  rw [BitVec.getLsbD, Nat.testBit_eq_decide_div_mod_eq]
  rcases Nat.mod_two_eq_zero_or_one (w.toNat / 2 ^ i) with h | h <;> simp [h]

theorem isNaN32_eq (w : Word32) : isNaN32 w = Spec.nan w := rfl

theorem isSNaN32_eq (w : Word32) : isSNaN32 w = Spec.snan w := by
  rw [isSNaN32, bit_eq_div_mod]
  rfl

theorem neg32_eq (w : Word32) : neg32 w = w.getLsbD 31 := by
  have h := w.isLt
  rw [neg32, BitVec.getLsbD, Nat.testBit_eq_decide_div_mod_eq, beq_eq_decide, decide_eq_decide]
  omega

theorem fclass32_eq (w : Word32) : fclass32 w = Spec.classOf w := by
  have hnan : isNaN32 w = decide (w.toNat / 2 ^ 23 % 256 = 255 ∧ w.toNat % 2 ^ 23 ≠ 0) := by
    rw [isNaN32, decide_eq_decide]; omega
  have hinf : isInf32 w = decide (w.toNat / 2 ^ 23 % 256 = 255 ∧ w.toNat % 2 ^ 23 = 0) := by
    rw [isInf32, decide_eq_decide]; omega
  have hzero : isZero32 w = decide (w.toNat / 2 ^ 23 % 256 = 0 ∧ w.toNat % 2 ^ 23 = 0) := by
    rw [isZero32, decide_eq_decide]; omega
  have hsub : fmtF32.subnormal w.toNat = decide (w.toNat / 2 ^ 23 % 256 = 0 ∧ w.toNat % 2 ^ 23 ≠ 0) := by
    rw [Fmt.subnormal, bne, beq_eq_decide, beq_eq_decide, Bool.decide_and, decide_not]
    rfl
  rw [fclass32, Spec.classOf, isSNaN32, bit_eq_div_mod, neg32_eq, hnan, hinf, hzero, hsub]
  generalize w.toNat / 2 ^ 23 % 256 = e
  generalize w.toNat % 2 ^ 23 = m
  by_cases he : e = 255
  · by_cases hm : m = 0 <;> cases w.getLsbD 22 <;> simp [he, hm]
  · by_cases h0 : e = 0
    · by_cases hm : m = 0 <;> simp [h0, hm]
    · simp [he, h0]

theorem fabs_word (x : Word) : ((x.truncate 32 : Word32) &&& 0x7FFFFFFF).zeroExtend 64 = BitVec.ofNat 64 (x.toNat % 2 ^ 31) := by
  have h : x.toNat % 2 ^ 32 &&& 0x7FFFFFFF = x.toNat % 2 ^ 32 % 2 ^ 31 := Nat.and_two_pow_sub_one_eq_mod _ 31
  have e : ((x.truncate 32 : Word32) &&& 0x7FFFFFFF).toNat = x.toNat % 2 ^ 31 := by
    rw [BitVec.toNat_and, BitVec.truncate, BitVec.toNat_setWidth]
    exact h.trans (by omega)
  rw [← e, BitVec.zeroExtend, BitVec.ofNat_toNat]

theorem fneg_word (x : Word) : (fneg32 (x.truncate 32)).zeroExtend 64 = (x &&& 0xFFFFFFFF) ^^^ 0x80000000 := by
  have low : (x.truncate 32 : Word32).zeroExtend 64 = x &&& 0xFFFFFFFF := by
    apply BitVec.eq_of_toNat_eq
    have h := Nat.and_two_pow_sub_one_eq_mod x.toNat 32
    rw [BitVec.toNat_and, BitVec.zeroExtend, BitVec.toNat_setWidth, BitVec.truncate, BitVec.toNat_setWidth]
    refine Eq.trans ?_ h.symm
    omega
  rw [fneg32, ← low, BitVec.zeroExtend, BitVec.setWidth_xor]
  rfl

theorem floatAndConversionResults : Spec.FloatAndConversionResults := by
  intro i d rs f s hi h v
  have code {p : Prop} {q : Bool} [Decidable p] (h : q = true ∧ p) : (q && decide p) = true := by simp [h.1, h.2]
  apply completes_of_ok
  cases hi
  case fadd => exact (exec_fadd _ _ _ _).trans (fpOp_ready h rfl)
  case fsub => exact (exec_fsub _ _ _ _).trans (fpOp_ready h rfl)
  case fmul => exact (exec_fmul _ _ _ _).trans (fpOp_ready h rfl)
  case fdiv => exact (exec_fdiv _ _ _ _).trans (fpOp_ready h rfl)
  case fsqrt => exact (exec_fsqrt _ _ _).trans (fpOp_ready h rfl)
  case fmac => exact (exec_fmac _ _ _ _).trans (fpOp_ready h rfl)
  case fmin => exact (exec_fmin _ _ _ _).trans (fpOp_ready h rfl)
  case fmax => exact (exec_fmax _ _ _ _).trans (fpOp_ready h rfl)
  case fabs => exact (exec_fabs _ _ _).trans (fpOp_ready h (congrArg (·, 0) (fabs_word _)))
  case fneg => exact (exec_fneg _ _ _).trans (fpOp_ready h (congrArg (·, 0) (fneg_word _)))
  case feq => exact (exec_feq _ _ _ _).trans (fpOp_ready h rfl)
  case flt => exact (exec_flt _ _ _ _).trans (fpOp_ready h rfl)
  case fle => exact (exec_fle _ _ _ _).trans (fpOp_ready h rfl)
  case fclass => exact (exec_fclass _ _ _).trans (fpOp_ready h (congrArg (fun c => (BitVec.ofNat 64 (2 ^ c), 0)) (fclass32_eq _)))
  case fcvt hok => exact (exec_fcvt _ _ _ _ _).trans (cvtOp_ready h (code hok) (by rw [rmField_eq]; rfl))
  case fext hok => exact (exec_fext _ _ _ _ _).trans (cvtOp_ready h (code hok) (by rw [rmField_eq]; rfl))
  case ftoi hok => exact (exec_ftoi _ _ _ _).trans (cvtOp_ready h (decide_eq_true hok) (by rw [rmField_eq]; rfl))
  case ftou hok => exact (exec_ftou _ _ _ _).trans (cvtOp_ready h (decide_eq_true hok) (by rw [rmField_eq]; rfl))
  case itof hok => exact (exec_itof _ _ _ _).trans (cvtOp_ready h (decide_eq_true hok) (by rw [rmField_eq]; rfl))
  case utof hok => exact (exec_utof _ _ _ _).trans (cvtOp_ready h (decide_eq_true hok) (by rw [rmField_eq]; rfl))

/-! ## NaN operands (R149) -/

/-- The first NaN of the operands, quieted. -/
theorem nanOf_eq {ws : List Word32} {q : Word32} (h : ws.find? Spec.nan = some q) :
    nanOf ws = some (q ||| 0x400000, if ws.any Spec.snan then 1 else 0) := by
  have hs : ws.any isSNaN32 = ws.any Spec.snan := by rw [funext isSNaN32_eq]
  have hf : ws.find? isNaN32 = some q := h
  rw [nanOf, hf, hs]
  rfl

section
variable {x y q : Word32} (h : [x, y].find? Spec.nan = some q) (rm : Nat) (ftz : Bool)
include h

theorem fadd32_nan : fadd32 rm ftz x y = (q ||| 0x400000, if [x, y].any Spec.snan then 1 else 0) := by
  rw [fadd32, faddR, nanOf_eq h]

theorem fsub32_nan : fsub32 rm ftz x y = (q ||| 0x400000, if [x, y].any Spec.snan then 1 else 0) := by
  rw [fsub32, nanOf_eq h]

theorem fmul32_nan : fmul32 rm ftz x y = (q ||| 0x400000, if [x, y].any Spec.snan then 1 else 0) := by
  rw [fmul32, fmulR, nanOf_eq h]

theorem fdiv32_nan : fdiv32 rm ftz x y = (q ||| 0x400000, if [x, y].any Spec.snan then 1 else 0) := by
  rw [fdiv32, nanOf_eq h]

theorem fminmax32_nan (g : Bool) : fminmax32 g ftz x y = (q ||| 0x400000, if [x, y].any Spec.snan then 1 else 0) := by
  rw [fminmax32, nanOf_eq h]

end

theorem ffma32_nan {x y z q : Word32} (h : [x, y, z].find? Spec.nan = some q) (rm : Nat) (ftz : Bool) :
    ∃ fl, ffma32 rm ftz x y z = (q ||| 0x400000, fl) := by
  rw [ffma32, ffmaR, nanOf_eq h]
  exact ⟨_, rfl⟩

theorem feq32_nan {x y : Word32} (h : Spec.nan x = true ∨ Spec.nan y = true) (ftz : Bool) :
    feq32 ftz x y = (false, if Spec.snan x || Spec.snan y then 1 else 0) := by
  rw [feq32, if_pos (by simpa [isNaN32_eq] using h), isSNaN32_eq, isSNaN32_eq]
  rfl

theorem flt32_nan {x y : Word32} (h : Spec.nan x = true ∨ Spec.nan y = true) (orEq ftz : Bool) : flt32 orEq ftz x y = (false, 1) := by
  rw [flt32, if_pos (by simpa [isNaN32_eq] using h)]
  rfl

theorem floatNanRules : Spec.FloatNanRules := by
  intro s d a b h x y z bad
  have h2 : Ready s [a.toNat, b.toNat] [d.toNat] := h.mono (by simp +contextual) (by simp +contextual)
  refine ⟨fun q hq i hi => completes_of_ok ?_, fun hx hy hz => ?_, fun hn => ?_⟩
  · have hf : [x, y].find? Spec.nan = some q := by
      rcases hq with ⟨hx, rfl⟩ | ⟨hx, hy, rfl⟩
      · simp [hx]
      · simp [hx, hy]
    have hbad : (if [x, y].any Spec.snan then 1 else 0) = bad := by simp [bad]
    rw [← hbad]
    simp only [List.mem_cons, List.not_mem_nil, or_false] at hi
    rcases hi with rfl | rfl | rfl | rfl | rfl | rfl
    · exact (exec_fadd _ _ _ _).trans (fpOp_result h2 (congrArg fpWord (fadd32_nan hf _ _)))
    · exact (exec_fsub _ _ _ _).trans (fpOp_result h2 (congrArg fpWord (fsub32_nan hf _ _)))
    · exact (exec_fmul _ _ _ _).trans (fpOp_result h2 (congrArg fpWord (fmul32_nan hf _ _)))
    · exact (exec_fdiv _ _ _ _).trans (fpOp_result h2 (congrArg fpWord (fdiv32_nan hf _ _)))
    · exact (exec_fmin _ _ _ _).trans (fpOp_result h2 (congrArg fpWord (fminmax32_nan hf _ _)))
    · exact (exec_fmax _ _ _ _).trans (fpOp_result h2 (congrArg fpWord (fminmax32_nan hf _ _)))
  · obtain ⟨fl, hfl⟩ := ffma32_nan (show [x, y, z].find? Spec.nan = some z by simp [hx, hy, hz]) (fpcRm s.pre) (fpcFtz s.pre)
    exact ⟨fl, completes_of_ok ((exec_fmac _ _ _ _).trans (fpOp_result h (congrArg fpWord hfl)))⟩
  · exact ⟨completes_of_ok ((exec_feq _ _ _ _).trans (fpOp_result h2 (congrArg fpBool (feq32_nan hn _)))),
      completes_of_ok ((exec_flt _ _ _ _).trans (fpOp_result h2 (congrArg fpBool (flt32_nan hn _ _)))),
      completes_of_ok ((exec_fle _ _ _ _).trans (fpOp_result h2 (congrArg fpBool (flt32_nan hn _ _))))⟩

end Sys2Proof.Machine

namespace Sys2Proof

open Machine

/-- Settles O13: each form writes its result and raises its flags; a NaN operand decides before the arithmetic. -/
theorem floatResults : Obligations.FloatResults := ⟨floatAndConversionResults, floatNanRules⟩

end Sys2Proof

end

section
/-! PROOFS. Constants, LEA, PTAG, LDL and MACRO (04 R108 to R117, 06 R139, R151, R157), and the fields of a doubleword that they need. -/

namespace Sys2Proof.Machine

theorem traps_of_trapA {i : Instr} {s : State} {c : BitVec 8} {w : Bool} {a : Nat}
    (h : exec i s = settle s (.error (trapA c w a))) : Traps i s c := ⟨_, rfl, h⟩

/-! ## Fields of a doubleword -/

theorem testBit_fld (w : Word) (hi lo j : Nat) : (fld w hi lo).testBit j = (decide (j < hi - lo + 1) && w.getLsbD (lo + j)) := by
  rw [fld, Nat.testBit_mod_two_pow, Nat.testBit_div_two_pow, BitVec.getLsbD, Nat.add_comm lo]

/-- A field is its bits. -/
theorem fld_congr {v w : Word} {hi lo : Nat} (hl : lo ≤ hi) (h : ∀ j, lo ≤ j → j ≤ hi → v.getLsbD j = w.getLsbD j) :
    fld v hi lo = fld w hi lo := by
  refine Nat.eq_of_testBit_eq fun j => ?_
  rw [testBit_fld, testBit_fld]
  by_cases hj : j < hi - lo + 1
  · rw [h _ (by omega) (by omega)]
  · simp [hj]

/-- A written doubleword as the part above the field, the field and the part below. -/
theorem putFld_toNat (w : Word) {hi lo : Nat} (x : Nat) (hl : lo ≤ hi) (hh : hi < 64) : (putFld w hi lo x).toNat =
    2 ^ lo * (2 ^ (hi - lo + 1) * (w.toNat / 2 ^ lo / 2 ^ (hi - lo + 1)) + x % 2 ^ (hi - lo + 1)) + w.toNat % 2 ^ lo := by
  have e1 := Nat.div_add_mod w.toNat (2 ^ lo)
  have e2 := Nat.div_add_mod (w.toNat / 2 ^ lo) (2 ^ (hi - lo + 1))
  have hx : x % 2 ^ (hi - lo + 1) < 2 ^ (hi - lo + 1) := Nat.mod_lt _ (by positivity)
  have hr : w.toNat % 2 ^ lo < 2 ^ lo := Nat.mod_lt _ (by positivity)
  have hp : 2 ^ (64 - (hi - lo + 1) - lo) * 2 ^ (hi - lo + 1) * 2 ^ lo = 2 ^ 64 := by
    rw [← pow_add, ← pow_add]; congr 1; omega
  have hA : w.toNat / 2 ^ lo / 2 ^ (hi - lo + 1) < 2 ^ (64 - (hi - lo + 1) - lo) := by
    rw [Nat.div_div_eq_div_mul, Nat.div_lt_iff_lt_mul (by positivity)]
    have := w.isLt
    rw [mul_comm (2 ^ lo), ← mul_assoc, hp]; exact this
  rw [putFld, BitVec.toNat_ofNat, fld]
  generalize 2 ^ (64 - (hi - lo + 1) - lo) = C at *
  generalize w.toNat / 2 ^ lo / 2 ^ (hi - lo + 1) = A at *
  generalize w.toNat / 2 ^ lo % 2 ^ (hi - lo + 1) = F at *
  generalize w.toNat % 2 ^ lo = R at *
  generalize x % 2 ^ (hi - lo + 1) = X at *
  generalize 2 ^ (hi - lo + 1) = N at *
  generalize 2 ^ lo = L at *
  have hw : w.toNat - F * L + X * L = L * (N * A + X) + R := by
    rw [← e1, ← e2]; zify [show F * L ≤ L * (N * A + F) + R by nlinarith [Nat.zero_le (L * (N * A))]]; ring
  rw [hw]
  refine Nat.mod_eq_of_lt ?_
  have h1 : N * A + X < N * C := by nlinarith
  calc L * (N * A + X) + R < L * (N * A + X + 1) := by rw [Nat.mul_succ]; omega
    _ ≤ L * (N * C) := Nat.mul_le_mul_left _ h1
    _ = 2 ^ 64 := by rw [← hp]; ring

theorem getLsbD_putFld (w : Word) {hi lo : Nat} (x : Nat) (hl : lo ≤ hi) (hh : hi < 64) (j : Nat) :
    (putFld w hi lo x).getLsbD j = if lo ≤ j ∧ j ≤ hi then x.testBit (j - lo) else w.getLsbD j := by
  have hx : x % 2 ^ (hi - lo + 1) < 2 ^ (hi - lo + 1) := Nat.mod_lt _ (by positivity)
  have hr : w.toNat % 2 ^ lo < 2 ^ lo := Nat.mod_lt _ (by positivity)
  rw [BitVec.getLsbD, putFld_toNat w x hl hh, Nat.testBit_two_pow_mul_add _ hr, Nat.testBit_two_pow_mul_add _ hx, Nat.testBit_mod_two_pow,
    Nat.testBit_mod_two_pow, Nat.testBit_div_two_pow, Nat.testBit_div_two_pow]
  split
  · next h => simp [h, show ¬ lo ≤ j by omega, BitVec.getLsbD]
  · next h =>
    split
    · next h2 => simp [h2, show lo ≤ j ∧ j ≤ hi by omega]
    · next h2 => rw [if_neg (by omega), BitVec.getLsbD]; congr 1; omega

theorem fld_putFld_same (w : Word) {hi lo x : Nat} (hl : lo ≤ hi) (hh : hi < 64) (hx : x < 2 ^ (hi - lo + 1)) :
    fld (putFld w hi lo x) hi lo = x := by
  refine Nat.eq_of_testBit_eq fun j => ?_
  rw [testBit_fld, getLsbD_putFld _ _ hl hh]
  by_cases hj : j < hi - lo + 1
  · rw [if_pos (by omega)]; simp [hj]
  · have : x < 2 ^ j := lt_of_lt_of_le hx (Nat.pow_le_pow_right (by omega) (by omega))
    simp [hj, Nat.testBit_lt_two_pow this]

theorem fld_putFld_other (w : Word) {hi lo hi' lo' : Nat} (x : Nat) (hl : lo ≤ hi) (hh : hi < 64) (hl' : lo' ≤ hi')
    (hd : hi' < lo ∨ hi < lo') : fld (putFld w hi lo x) hi' lo' = fld w hi' lo' :=
  fld_congr hl' fun j h1 h2 => by rw [getLsbD_putFld _ _ hl hh, if_neg (by omega)]

/-! ## Constants, LEA and PTAG -/

theorem ptrFc_eq (p : Word) : ptrFc p = p.toNat / 2 ^ 58 := Nat.mod_eq_of_lt (by have := p.isLt; omega)

/-- A constant reaches its plain register. -/
theorem withRegs_write {s : State} {srcs : List Nat} {d : Nat} (v : Word) (h : Ready s srcs [d]) :
    withRegs s srcs [d] (fun s' => setG s' d v) = .ok (s.wroteG d v) := by
  rw [withRegs_ready _ h, setG_plain v (h.unbound (by simp))]

theorem constantsAndPointerParts : Spec.ConstantsAndPointerParts := by
  intro s l d a i w
  refine ⟨completes_of_ok (exec_nopCSlot _ _), completes_of_ok (exec_nopASlot _), fun h => ⟨completes_of_ok ?_, completes_of_ok ?_⟩,
    fun h => ⟨completes_of_ok ?_, completes_of_ok ?_⟩⟩
  · rw [exec_movi, execMovi, withRegs_write _ h]; rfl
  · rw [exec_ldlC, execLdlC, withRegs_write _ h]; rfl
  · rw [exec_pfmt, execPfmt, withRegs_write _ h, ptrFc_eq]; rfl
  · rw [exec_pbase, execPbase, withRegs_write _ h, ptrAddr, fld_address]

/-- LEA writes its sum, or ends as the sum does. -/
theorem exec_lea_ready {s : State} {l : Lit} {d a b : BitVec 5} {h : BitVec 3} (hr : Ready s [a.toNat, b.toNat] [d.toNat]) :
    exec (.lea l d a b h) s =
      settle s (addPtr (gval s a.toNat) ((Spec.rb s l b).toInt * 2 ^ h.toNat) >>= fun v => .ok (s.wroteG d.toNat v)) := by
  have hd : boundG s.pre d.toNat = none := hr.unbound (by simp)
  simp only [exec_lea, execLea, withRegs_ready _ hr, rbval_toNat, setG_plain _ hd]

/-- PTAG's tag: its fields and the checks of R151 in their order. -/
def tagged (p t : Word) : Res Word := do
  need (decide (t.toNat < 2 ^ 10 ∧ t.toNat % 64 < 19)) (trapC cTAG)
  need (decide (p.toNat / 2 ^ 48 % 64 = 0)) (trapC cTAG)
  .ok (BitVec.ofNat 64 (t.toNat % 64 * 2 ^ 58 + t.toNat / 64 * 2 ^ 54 + p.toNat % 2 ^ 48))

theorem fld_ptagOperand (t : Word) : (fld t 63 10 = 0 ∧ fld t 5 0 < 19) = (t.toNat < 2 ^ 10 ∧ t.toNat % 64 < 19) := by
  have := t.isLt
  simp only [fld]
  exact propext ⟨fun h => ⟨by omega, by omega⟩, fun h => ⟨by omega, by omega⟩⟩

theorem exec_ptag_ready {s : State} {l : Lit} {d a b : BitVec 5} (hr : Ready s [a.toNat, b.toNat] [d.toNat]) :
    exec (.ptag l d a b) s = settle s (tagged (gval s a.toNat) (Spec.rb s l b) >>= fun v => .ok (s.wroteG d.toNat v)) := by
  have hd : boundG s.pre d.toNat = none := hr.unbound (by simp)
  have hb : Ready s ([b.toNat] ++ [a.toNat]) [d.toNat] := hr.mono (by simp +contextual) (by simp +contextual)
  have ha : Ready s [a.toNat] [d.toNat] := hr.mono (by simp +contextual) (by simp +contextual)
  simp only [exec_ptag, execPtag, withLater_ready _ _ hb, ok_bind, rbval_toNat, popLater_ready none s ha, countPops_none, setG_plain _ hd,
    fld_ptagOperand, fld_reserved, fld_address, tagged, bind_assoc]
  refine congrArg (settle s) ?_
  by_cases ht : (Spec.rb s l b).toNat < 2 ^ 10 ∧ (Spec.rb s l b).toNat % 64 < 19
  · have hf : fld (Spec.rb s l b) 5 0 = (Spec.rb s l b).toNat % 64 ∧ fld (Spec.rb s l b) 9 6 = (Spec.rb s l b).toNat / 64 := by
      simp only [fld]; omega
    rw [hf.1, hf.2]
    rfl
  · simp only [decide_eq_false ht, need_false, error_bind]

theorem leaAndPtag : Spec.LeaAndPtag := by
  intro s l d a b h hr p t v
  refine ⟨?_, fun hout => traps_of_trapC ?_, ?_, fun hout => traps_of_trapC ?_⟩
  · rintro ⟨ht, h0, h1⟩
    exact completes_of_ok (by rw [exec_lea_ready hr, addPtr_inside ht h0 h1, ok_bind])
  · rw [exec_lea_ready hr, addPtr_outside hout, error_bind]
  · rintro ⟨hp, ht, hf⟩
    exact completes_of_ok (by
      rw [exec_ptag_ready hr, tagged, decide_eq_true ⟨ht, hf⟩, need_true, ok_bind, decide_eq_true hp, need_true, ok_bind, ok_bind])
  · by_cases ht : t < 2 ^ 10 ∧ t % 64 < 19
    · have hp : ¬ p / 2 ^ 48 % 64 = 0 := by omega
      rw [exec_ptag_ready hr, tagged, decide_eq_true ht, need_true, ok_bind, decide_eq_false hp, need_false, error_bind, error_bind]
    · rw [exec_ptag_ready hr, tagged, decide_eq_false ht, need_false, error_bind, error_bind]

/-! ## LDL of a pool -/

section
variable {s : State} {d n : Nat} {p : BitVec 18} {ext : Nat → Word}

theorem ldlPool_reads (h : Ready s [] [d]) (hm : isMgmt s.cur = false) (h0 : 0 ≤ relAddr s 4 p.toInt) (ha : relAddr s 4 p.toInt % n = 0)
    (hc : inCode s s.cur (relAddr s 4 p.toInt).toNat n = true) {x : ICLine} (hx : findLine s s.cur (relAddr s 4 p.toInt).toNat = some x) :
    ldlPool s d p n ext = settle s (.ok (s.wroteG d (ext (leNat ((x.raw.drop ((relAddr s 4 p.toInt).toNat % 64)).take n))))) := by
  have hcode : cachedCode s (relAddr s 4 p.toInt).toNat n = .ok (leNat ((x.raw.drop ((relAddr s 4 p.toInt).toNat % 64)).take n)) := by
    rw [cachedCode, hm, hx]; rfl
  rw [ldlPool, withRegs_ready _ h]
  simp only [ha, h0, hc, decide_true, Bool.and_self, need_true, ok_bind, hcode, setG_plain _ (h.unbound (List.mem_singleton.mpr rfl))]

theorem ldlPool_outside (h : Ready s [] [d]) (ha : relAddr s 4 p.toInt % n = 0)
    (hc : relAddr s 4 p.toInt < 0 ∨ inCode s s.cur (relAddr s 4 p.toInt).toNat n = false) :
    ∃ a, ldlPool s d p n ext = settle s (.error (trapA cPERMISSION false a)) := by
  have hout : (decide (0 ≤ relAddr s 4 p.toInt) && inCode s s.cur (relAddr s 4 p.toInt).toNat n) = false := by
    rcases hc with hc | hc
    · rw [decide_eq_false (by omega), Bool.false_and]
    · rw [hc, Bool.and_false]
  rw [ldlPool, withRegs_ready _ h]
  exact ⟨(relAddr s 4 p.toInt % (2 ^ 48 : Nat)).toNat, by simp only [ha, decide_true, need_true, ok_bind, hout, need_false, error_bind]⟩

theorem ldlPool_misaligned (h : Ready s [] [d]) (ha : relAddr s 4 p.toInt % n ≠ 0) :
    ∃ a, ldlPool s d p n ext = settle s (.error (trapA cMISALIGN false a)) := by
  rw [ldlPool, withRegs_ready _ h]
  exact ⟨(relAddr s 4 p.toInt % (2 ^ 48 : Nat)).toNat, by simp only [decide_eq_false ha, need_false, error_bind]⟩

end

/-! ## Macros (R114 to R116) -/

/-- One mark's substitution (R114). -/
def markStep (marks : Word) (x y z : Nat) (w : Word) (hi i : Nat) : Word :=
  match fld marks (2 * i + 1) (2 * i) with
  | 1 => putFld w hi (hi - 4) x
  | 2 => putFld w hi (hi - 4) y
  | 3 => putFld w hi (hi - 4) z
  | _ => w

theorem substitute_eq (pkt marks : Word) (x y z : Nat) : substitute pkt marks x y z =
    (Spec.markTops.zipIdx.foldl (fun w (t : Nat × Nat) => markStep marks x y z w t.1 t.2) pkt) := rfl

theorem fld_mark (marks : Word) (i : Nat) : fld marks (2 * i + 1) (2 * i) = marks.toNat / 4 ^ i % 4 := by
  rw [fld, pow_mul, show 2 * i + 1 - 2 * i + 1 = 2 by omega]
  rfl

section
variable (marks : Word) (x y z : Nat)

theorem getLsbD_markStep (w : Word) {hi : Nat} (i : Nat) (h4 : 4 ≤ hi) (hh : hi < 64) {j : Nat} (hj : j < hi - 4 ∨ hi < j) :
    (markStep marks x y z w hi i).getLsbD j = w.getLsbD j := by
  have keep (v : Nat) : (putFld w hi (hi - 4) v).getLsbD j = w.getLsbD j := by
    rw [getLsbD_putFld _ _ (by omega) hh, if_neg (by omega)]
  unfold markStep
  split
  · exact keep x
  · exact keep y
  · exact keep z
  · rfl

theorem fld_markStep_same (w : Word) {hi : Nat} (i : Nat) (h4 : 4 ≤ hi) (hh : hi < 64) (hx : x < 32) (hy : y < 32) (hz : z < 32) :
    fld (markStep marks x y z w hi i) hi (hi - 4) = match marks.toNat / 4 ^ i % 4 with
      | 1 => x
      | 2 => y
      | 3 => z
      | _ => fld w hi (hi - 4) := by
  have put {v : Nat} (hv : v < 32) : fld (putFld w hi (hi - 4) v) hi (hi - 4) = v :=
    fld_putFld_same _ (by omega) hh (by rw [show hi - (hi - 4) + 1 = 5 by omega]; exact hv)
  rw [markStep, fld_mark]
  split
  · exact put hx
  · exact put hy
  · exact put hz
  · rfl

theorem fld_markStep_other (w : Word) {hi : Nat} (i : Nat) (h4 : 4 ≤ hi) (hh : hi < 64) {hi' : Nat} (hd : hi' < hi - 4 ∨ hi < hi' - 4) :
    fld (markStep marks x y z w hi i) hi' (hi' - 4) = fld w hi' (hi' - 4) :=
  fld_congr (by omega) fun j h1 h2 => getLsbD_markStep _ _ _ _ _ _ h4 hh (by omega)

/-- The marks of a list whose fields lie elsewhere leave a field. -/
theorem fld_foldMarks_other (ts : List (Nat × Nat)) (w : Word) {hi : Nat}
    (h : ∀ t ∈ ts, (4 ≤ t.1 ∧ t.1 < 64) ∧ (hi < t.1 - 4 ∨ t.1 < hi - 4)) :
    fld (ts.foldl (fun w (t : Nat × Nat) => markStep marks x y z w t.1 t.2) w) hi (hi - 4) = fld w hi (hi - 4) := by
  induction ts generalizing w with
  | nil => rfl
  | cons t ts ih =>
    obtain ⟨⟨h4, h64⟩, hd⟩ := h t (by simp)
    rw [List.foldl_cons, ih _ fun u hu => h u (by simp [hu]), fld_markStep_other _ _ _ _ _ _ h4 h64 hd]

theorem getLsbD_foldMarks (ts : List (Nat × Nat)) (w : Word) {j : Nat}
    (h : ∀ t ∈ ts, (4 ≤ t.1 ∧ t.1 < 64) ∧ (j < t.1 - 4 ∨ t.1 < j)) :
    (ts.foldl (fun w (t : Nat × Nat) => markStep marks x y z w t.1 t.2) w).getLsbD j = w.getLsbD j := by
  induction ts generalizing w with
  | nil => rfl
  | cons t ts ih =>
    obtain ⟨⟨h4, h64⟩, hd⟩ := h t (by simp)
    rw [List.foldl_cons, ih _ fun u hu => h u (by simp [hu]), getLsbD_markStep _ _ _ _ _ _ h4 h64 hd]

/-- The seven fields are apart, so that each is what its own mark says. -/
theorem fld_foldMarks_split (pre post : List (Nat × Nat)) (w : Word) {hi : Nat} (i : Nat) (h4 : 4 ≤ hi) (h64 : hi < 64)
    (hx : x < 32) (hy : y < 32) (hz : z < 32)
    (h : ∀ t ∈ pre ++ post, (4 ≤ t.1 ∧ t.1 < 64) ∧ (hi < t.1 - 4 ∨ t.1 < hi - 4)) :
    fld ((pre ++ (hi, i) :: post).foldl (fun w (t : Nat × Nat) => markStep marks x y z w t.1 t.2) w) hi (hi - 4) =
      match marks.toNat / 4 ^ i % 4 with
      | 1 => x
      | 2 => y
      | 3 => z
      | _ => fld w hi (hi - 4) := by
  rw [List.foldl_append, List.foldl_cons, fld_foldMarks_other _ _ _ _ _ _ fun t ht => h t (List.mem_append_right _ ht),
    fld_markStep_same _ _ _ _ _ _ h4 h64 hx hy hz, fld_foldMarks_other _ _ _ _ _ _ fun t ht => h t (List.mem_append_left _ ht)]

end

theorem macroSubstitution : Spec.MacroSubstitution := by
  intro pkt marks x y z hx hy hz
  refine ⟨fun i hi h => ?_, fun j hj h => ?_⟩
  · have hlt : i < Spec.markTops.length := (List.getElem?_eq_some_iff.mp h).1
    have hsplit : Spec.markTops.zipIdx = Spec.markTops.zipIdx.take i ++ (hi, i) :: Spec.markTops.zipIdx.drop (i + 1) := by
      revert h
      change i < 7 at hlt
      interval_cases i <;> intro h <;> cases h <;> rfl
    have hin : (4 ≤ hi ∧ hi < 64) ∧ ∀ t ∈ Spec.markTops.zipIdx.take i ++ Spec.markTops.zipIdx.drop (i + 1),
        (4 ≤ t.1 ∧ t.1 < 64) ∧ (hi < t.1 - 4 ∨ t.1 < hi - 4) := by
      revert h
      change i < 7 at hlt
      interval_cases i <;> intro h <;> cases h <;> decide
    rw [substitute_eq, hsplit, fld_foldMarks_split _ _ _ _ _ _ _ _ hin.1.1 hin.1.2 hx hy hz hin.2] <;> rfl
  · rw [substitute_eq, getLsbD_foldMarks]
    intro t ht
    have hm : t.1 ∈ Spec.markTops := by
      revert t
      decide
    refine ⟨?_, h _ hm⟩
    revert t
    decide

theorem traps_of_trapMacro {i : Instr} {s : State} {e : Nat} (h : exec i s = settle s (.error (trapMacro e))) : Traps i s cMACRO :=
  ⟨_, rfl, h⟩

theorem macroIssuesItsOperation : Spec.MacroIssuesItsOperation := by
  intro s x y z e w o la m ho hla j
  refine ⟨fun he hm hp hb => ?_, fun he => traps_of_trapMacro (e := e.toNat) ?_⟩
  · have hent : macroEntry s e.toNat x.toNat y.toNat z.toNat = .ok (m.ops, s) := by
      simp [macroEntry, ho, hla, hm, hp, hb, Nat.not_le.mpr he]
    refine ⟨fun op hop => completes_of_ok ?_, fun hle => ?_⟩
    · rw [exec_macroOp, execMacroOp, hent]
      simp only [ok_bind]
      rw [show m.ops[fld (s.me.ctl 0x083) 4 0]? = some op from hop]
    · refine traps_of_trapMacro (e := e.toNat) ?_
      rw [exec_macroOp, execMacroOp, hent]
      simp only [ok_bind]
      rw [show m.ops[fld (s.me.ctl 0x083) 4 0]? = none from List.getElem?_eq_none hle]
  · have hent : macroEntry s e.toNat x.toNat y.toNat z.toNat = .error (trapMacro e.toNat) := by
      simp only [macroEntry, ho, hla, if_pos he]
    rw [exec_macroOp, execMacroOp, hent]
    rfl

end Sys2Proof.Machine

namespace Sys2Proof

open Machine

/-- Settles O15: constants reach rd as they are, LEA ends as its sum does, and PTAG judges its operand before the pointer. -/
theorem constantsAndAddresses : Obligations.ConstantsAndAddresses := ⟨constantsAndPointerParts, leaAndPtag⟩

/-- Settles O16: LDL judges its alignment, then its region, and reads the cached line. -/
theorem ldlReadsTheCodeRegion : Obligations.LdlReadsTheCodeRegion := by
  intro s l d p x h hm v
  refine ⟨fun h0 ha hc hx => completes_of_ok (ldlPool_reads h hm h0 ha hc hx), fun h0 ha hc hx => completes_of_ok (ldlPool_reads h hm h0 ha hc hx),
    fun ha hc => ?_, fun ha => ?_, fun ha hc => ?_⟩
  · obtain ⟨a, e⟩ := ldlPool_outside (n := 4) h ha hc
    exact traps_of_trapA (a := a) e
  · obtain ⟨a, e⟩ := ldlPool_misaligned (n := 8) h ha
    exact traps_of_trapA (a := a) e
  · obtain ⟨a, e⟩ := ldlPool_outside (n := 8) h ha hc
    exact traps_of_trapA (a := a) e

/-- Settles O20: each mark owns its field, and MACRO takes the operation that MSTEP counts. -/
theorem macrosSubstituteAndIssue : Obligations.MacrosSubstituteAndIssue := ⟨macroSubstitution, macroIssuesItsOperation⟩

end Sys2Proof

end

section
/-! PROOFS. Branches (06 R158, R159): the conditions, the bits of a group, and a first register that pops; then their statement. -/

namespace Sys2Proof.Machine

/-! ## Branches (R158, R159) -/

theorem decodeC_br {w0 : Word32} (w1 : Word32) (h : bits w0 25 6 = 0x0D#6) : decodeC w0 w1 = decodeBr w0 (Spec.lit w0 w1) w1 := by
  simp [decodeC, h, Spec.lit]

/-- The conditions of the codes up to AL. -/
theorem brTaken_iff {c : Nat} (hc : c ≤ 12) (x y : Word) : ∃ t, brTaken c x y = some t ∧ (t = true ↔ Spec.brCond c x y) := by
  interval_cases c
  · exact ⟨_, rfl, beq_iff_eq⟩
  · exact ⟨_, rfl, bne_iff_ne⟩
  · exact ⟨_, rfl, BitVec.slt_iff_toInt_lt⟩
  · exact ⟨_, rfl, by simp [BitVec.slt, Spec.brCond]⟩
  · exact ⟨_, rfl, BitVec.ult_iff_lt⟩
  · exact ⟨_, rfl, by simp [BitVec.ult, Spec.brCond]⟩
  · exact ⟨_, rfl, BitVec.slt_iff_toInt_lt⟩
  · exact ⟨_, rfl, by simp [BitVec.slt, Spec.brCond]⟩
  · exact ⟨_, rfl, BitVec.ult_iff_lt⟩
  · exact ⟨_, rfl, by simp [BitVec.ult, Spec.brCond]⟩
  · exact ⟨_, rfl, bne_iff_ne⟩
  · exact ⟨_, rfl, beq_iff_eq⟩
  · exact ⟨_, rfl, by simp [Spec.brCond]⟩

theorem brTaken_reserved : ∀ {c : Nat}, 12 < c → ∀ x y, brTaken c x y = none
  | _ + 13, _, _, _ => rfl

/-- A branch ends at its target or after its packet, in a state that has the packet's own address. -/
theorem completes_branch {i : Instr} {s u : State} {t : Bool} {disp : Int} (h : exec i s = settle s (.ok (branchIf s u t disp)))
    (hpc : u.pre.r.pc = s.pre.r.pc) :
    (t = true → Completes i s (Spec.branched u disp)) ∧ (t = false → Completes i s u) := by
  refine ⟨fun ht => completes_of_ok (h.trans ?_), fun ht => completes_of_ok (h.trans ?_)⟩
  · rw [ht, branchIf, if_pos rfl, State.jump, relAddr, Spec.branched, hpc]
  · rw [ht, branchIf, if_neg Bool.false_ne_true]

/-- Reading the sources of an attempt without a destination leaves u: nothing holds it back, and what pops has popped. -/
def Reads (s : State) (srcs : List Nat) (u : State) : Prop :=
  u.pre.r.pc = s.pre.r.pc ∧ ∀ f, withPops s srcs [] (.ok ()) f = f none u

theorem Ready.reads {s : State} {srcs : List Nat} (h : Ready s srcs []) : Reads s srcs s := ⟨rfl, fun f => withPops_ready _ f h⟩

theorem poppedG_pre_pc (s : State) (a : Nat) (t : Stream) : (Spec.poppedG s a t).pre.r.pc = s.pre.r.pc := by
  cases hl : s.latch <;> simp [Spec.poppedG, State.pre, hl]

/-- One source is bound to a read stream, which pops; the others are plain. -/
theorem reads_popped {s : State} {a : Nat} {t : Stream} {w : Word} {srcs : List Nat} (h : Spec.pops s a t w) (ha : a ∈ srcs)
    (hrest : ∀ r ∈ srcs, r = a ∨ (boundG s.pre r = none ∧ s.pre.pending r = false)) (hfail : s.pre.failedRd srcs = none) :
    Reads s srcs (Spec.poppedG s a t) := by
  obtain ⟨hb, hw, ⟨rest, hr⟩, hroom, hp, hpop, hs⟩ := h
  have hpend : (srcs ++ []).any (fun r => s.pre.pending r) = false := by
    simp only [List.append_nil, List.any_eq_false, Bool.not_eq_true]
    intro r hr
    rcases hrest r hr with rfl | ⟨-, hr⟩
    · exact hp
    · exact hr
  refine ⟨poppedG_pre_pc s a t, fun f => ?_⟩
  rw [withPops_pop f ha (fun r hr => (hrest r hr).imp_right And.left) hpend hfail hb hw hr hroom hpop hs, Spec.poppedG, hr, List.tail_cons]

theorem withChecked_reads {s u : State} {srcs : List Nat} {chk : Res Unit} (h : Reads s srcs u) (hc : chk = .ok ()) (f : State → Res State) :
    withChecked s srcs [] chk f = f u := by
  rw [hc]; exact h.2 _

section
variable {s u : State} {l : Lit} {a b : BitVec 5} {p : BitVec 11}

theorem exec_br_reads {c : BitVec 4} {t : Bool} (h : Reads s [a.toNat, b.toNat] u)
    (ht : brTaken c.toNat (gval s a.toNat) (Spec.rb s l b) = some t) :
    exec (.br l a b c p) s = settle s (.ok (branchIf s u t p.toInt)) := by
  rw [exec_br, execBr, withRegs, withChecked_reads h rfl, rbval_toNat, ht]

theorem br_completes {c : BitVec 4} (h : Reads s [a.toNat, b.toNat] u) (hc : c.toNat ≤ 12) :
    (Spec.brCond c.toNat (gval s a.toNat) (Spec.rb s l b) → Completes (.br l a b c p) s (Spec.branched u p.toInt)) ∧
    (¬ Spec.brCond c.toNat (gval s a.toNat) (Spec.rb s l b) → Completes (.br l a b c p) s u) := by
  obtain ⟨t, ht, hiff⟩ := brTaken_iff hc (gval s a.toNat) (Spec.rb s l b)
  have hend := completes_branch (exec_br_reads (p := p) h ht) h.1
  exact ⟨fun hx => hend.1 (hiff.mpr hx), fun hx => hend.2 (Bool.eq_false_iff.mpr (mt hiff.mp hx))⟩

/-! ## Branches on the bits of a group -/

theorem groupNum_lt (s : State) (first n : Nat) : Spec.groupNum s first n < 2 ^ (64 * n) := by
  induction n with
  | zero => exact Nat.one_pos
  | succ n ih =>
    have hv := (gval s (first + n)).isLt
    rw [Spec.groupNum, Nat.mul_succ, pow_add]
    calc _ < 2 ^ (64 * n) + (gval s (first + n)).toNat * 2 ^ (64 * n) := by omega
      _ = ((gval s (first + n)).toNat + 1) * 2 ^ (64 * n) := by ring
      _ ≤ 2 ^ (64 * n) * 2 ^ 64 := by rw [Nat.mul_comm]; exact Nat.mul_le_mul_left _ hv

/-- Past a group every bit is 0. -/
theorem group_testBit (s : State) (first n i : Nat) :
    (decide (i < 64 * n) && (groupVal s first n).testBit i) = (Spec.groupNum s first n).testBit i := by
  rw [groupVal_eq_groupNum]
  by_cases hi : i < 64 * n
  · simp [hi]
  · have : Spec.groupNum s first n < 2 ^ i := (groupNum_lt s first n).trans_le (Nat.pow_le_pow_right (by omega) (by omega))
    simp [hi, Nat.testBit_lt_two_pow this]

variable {n : BitVec 2}

theorem bbitOne_reads {want : Bool} (h : Reads s (span a.toNat (n.toNat + 1) ++ [b.toNat]) u)
    (hg : groupFree s a.toNat (n.toNat + 1) = .ok ()) : bbitOne s l a.toNat b.toNat (n.toNat + 1) p want = settle s (.ok (branchIf s u
      ((Spec.groupNum s a.toNat (n.toNat + 1)).testBit (Spec.rb s l b).toNat == want) p.toInt)) := by
  rw [bbitOne, group, withChecked_reads h hg, rbval_toNat, ← group_testBit]

theorem bbitAll_reads {zero : Bool} (h : Reads s (span a.toNat (n.toNat + 1)) u)
    (hg : groupFree s a.toNat (n.toNat + 1) = .ok ()) : bbitAll s a.toNat (n.toNat + 1) p zero = settle s (.ok (branchIf s u
      (decide (Spec.groupNum s a.toNat (n.toNat + 1) = 0) == zero) p.toInt)) := by
  rw [bbitAll, group, withChecked_reads h hg, groupVal_eq_groupNum]

/-- What the four branches on bits do once their registers are read; `g` is the group. -/
theorem bbit_completes {g : Nat} (hgv : Spec.groupNum s a.toNat (n.toNat + 1) = g)
    (h1 : Reads s (span a.toNat (n.toNat + 1) ++ [b.toNat]) u) (h2 : Reads s (span a.toNat (n.toNat + 1)) u)
    (hg : groupFree s a.toNat (n.toNat + 1) = .ok ()) :
    let bit := (Spec.rb s l b).toNat
    (g.testBit bit = true → Completes (.bbs l a b n p) s (Spec.branched u p.toInt) ∧ Completes (.bbc l a b n p) s u) ∧
    (g.testBit bit = false → Completes (.bbs l a b n p) s u ∧ Completes (.bbc l a b n p) s (Spec.branched u p.toInt)) ∧
    (g = 0 → Completes (.bbz l a n p) s (Spec.branched u p.toInt) ∧ Completes (.bbnz l a n p) s u) ∧
    (g ≠ 0 → Completes (.bbz l a n p) s u ∧ Completes (.bbnz l a n p) s (Spec.branched u p.toInt)) := by
  intro bit
  have hs := completes_branch ((exec_bbs l a b n p s).trans (bbitOne_reads h1 hg)) h1.1
  have hc := completes_branch ((exec_bbc l a b n p s).trans (bbitOne_reads h1 hg)) h1.1
  have hz := completes_branch ((exec_bbz l a n p s).trans (bbitAll_reads h2 hg)) h2.1
  have hnz := completes_branch ((exec_bbnz l a n p s).trans (bbitAll_reads h2 hg)) h2.1
  rw [hgv] at hs hc hz hnz
  refine ⟨fun ht => ⟨hs.1 ?_, hc.2 ?_⟩, fun ht => ⟨hs.2 ?_, hc.1 ?_⟩, fun h0 => ⟨hz.1 ?_, hnz.2 ?_⟩, fun h0 => ⟨hz.2 ?_, hnz.1 ?_⟩⟩
  · rw [ht]; rfl
  · rw [ht]; rfl
  · rw [ht]; rfl
  · rw [ht]; rfl
  · rw [decide_eq_true h0]; rfl
  · rw [decide_eq_true h0]; rfl
  · rw [decide_eq_false h0]; rfl
  · rw [decide_eq_false h0]; rfl

/-- A group that may not be named ends the four as it ends the check. -/
theorem bbit_traps {c : BitVec 8} (hp : (span a.toNat (n.toNat + 1) ++ [b.toNat]).any (fun r => s.pre.pending r) = false)
    (hg : groupFree s a.toNat (n.toNat + 1) = .error (trapC c)) {i : Instr}
    (hi : i ∈ [Instr.bbc l a b n p, .bbs l a b n p, .bbz l a n p, .bbnz l a n p]) : Traps i s c := by
  have hp' : (span a.toNat (n.toNat + 1)).any (fun r => s.pre.pending r) = false := by
    rw [List.any_append] at hp
    exact (Bool.or_eq_false_iff.mp hp).1
  have stop {srcs : List Nat} (f : State → Res State) (h : srcs.any (fun r => s.pre.pending r) = false) :
      withChecked s srcs [] (groupFree s a.toNat (n.toNat + 1)) f = .error (trapC c) := by
    rw [withChecked, withPops, withLater, List.append_nil, List.append_nil, h, hg]
    rfl
  have one (want : Bool) : bbitOne s l a.toNat b.toNat (n.toNat + 1) p want = settle s (.error (trapC c)) :=
    congrArg (settle s) (stop _ hp)
  have all (zero : Bool) : bbitAll s a.toNat (n.toNat + 1) p zero = settle s (.error (trapC c)) := congrArg (settle s) (stop _ hp')
  simp only [List.mem_cons, List.not_mem_nil, or_false] at hi
  rcases hi with rfl | rfl | rfl | rfl
  · exact traps_of_trapC ((exec_bbc l a b n p s).trans (one false))
  · exact traps_of_trapC ((exec_bbs l a b n p s).trans (one true))
  · exact traps_of_trapC ((exec_bbz l a n p s).trans (all true))
  · exact traps_of_trapC ((exec_bbnz l a n p s).trans (all false))

end

/-- A popping register reads the front of its ring. -/
theorem gval_pops {s : State} {a : Nat} {t : Stream} {w : Word} (h : Spec.pops s a t w) : gval s a = w := by
  obtain ⟨hb, -, ⟨rest, hr⟩, -⟩ := h
  obtain ⟨h24, -⟩ := boundG_eq_some.mp hb
  rw [gval, if_neg (by omega), hb]
  dsimp only
  rw [hr]
  rfl

end Sys2Proof.Machine

namespace Sys2Proof

open Machine

/-- Settles O17: a branch reads its registers, of which a bound first one pops, and jumps where its condition holds. -/
theorem branchesTestTheirConditions : Obligations.BranchesTestTheirConditions := by
  refine ⟨fun w0 w1 h hc hab => ⟨Spec.lit w0 w1, bits w0 20 5, bits w0 15 5, bits w0 0 11, ?_, ?_⟩, fun s l a b c n p => ?_⟩
  · rw [decodeC_br w1 h, decodeBr, hc]
    rfl
  · have : ¬ (bits w0 20 5 = 0#5 ∧ bits w0 15 5 = 0#5) := by tauto
    simpa [Instr.wf] using this
  intro rs bit
  refine ⟨fun h hc _ => br_completes h.reads hc, fun h hc => traps_of_trapC ?_, fun hn h => ?_, fun t w h hab hb hf hf' => ?_,
    fun hp i hi => ⟨fun hn => ?_, fun hn h0 hbd => ?_⟩⟩
  · rw [exec_br, execBr, withRegs_ready _ h, brTaken_reserved hc]
  · exact bbit_completes rfl h.reads (h.mono (by simp +contextual [rs]) (by simp)).reads (groupFree_ready h hn (by simp +contextual [rs]))
  · have hplain : boundG s.pre b.toNat = none ∧ s.pre.pending b.toNat = false :=
      ⟨hb.unbound (by simp), by simpa using hb.pending⟩
    have h2 := reads_popped h (srcs := [a.toNat, b.toNat]) (by simp) (by simp [hplain]) hf
    have h1 := reads_popped h (srcs := [a.toNat]) (by simp) (by simp) hf'
    have hgv : Spec.groupNum s a.toNat ((0 : BitVec 2).toNat + 1) = w.toNat := by
      simp [Spec.groupNum, gval_pops h]
    have hlt := a.isLt
    have hspan : span a.toNat ((0 : BitVec 2).toNat + 1) = [a.toNat] := by simp [span]
    have hgf : groupFree s a.toNat ((0 : BitVec 2).toNat + 1) = .ok () := groupFree_ok (by simpa using hlt) (by simp)
    have hbits := bbit_completes (l := l) (b := b) (p := p) hgv (by rw [hspan]; exact h2) (by rw [hspan]; exact h1) hgf
    have hbr (hc : c.toNat < 12) := br_completes (l := l) (c := c) (p := p) h2 hc.le
    rw [gval_pops h] at hbr
    have hw : w.toNat = 0 ↔ w = 0 := by simp [BitVec.toNat_eq]
    rw [hw, ne_eq, hw] at hbits
    exact ⟨hbr, hbits⟩
  · exact bbit_traps hp (groupFree_past (by omega)) hi
  · have : 2 ≤ n.toNat + 1 := by
      have : n.toNat ≠ 0 := fun h => h0 (BitVec.eq_of_toNat_eq h)
      omega
    exact bbit_traps hp (groupFree_bound (by omega) this hbd) hi

end Sys2Proof

end

section
/-! PROOFS. The step of the device (log 3): time that passes, packets that trap at fetch or decode, and packets of two slots; then the statements about decoding, the step and reset. -/

namespace Sys2Proof.Machine

/-! ## Words that are no packet (R98, R107) -/

/-- A C-slot word with L = 0 takes nothing from word 1 (R87, R104). -/
theorem decodeC_of_no_literal {w0 : Word32} (h : bits w0 31 1 = 0#1) (w1 v1 : Word32) : decodeC w0 w1 = decodeC w0 v1 := by
  have hn : ¬ bits w0 31 1 = 1#1 := by rw [h]; decide
  have hl : decodeLdl w0 none w1 = decodeLdl w0 none v1 := by simp [decodeLdl, hn]
  have hm : decodeMacro w0 none w1 = decodeMacro w0 none v1 := by simp [decodeMacro, hn]
  unfold decodeC
  simp only [if_neg hn, hl, hm]
  rfl

/-- The trap of ILLEGAL at decode. -/
def illegalTrap : Trap := { cause := cILLEGAL, acc := 3, val := false, data := 0, deferred := none }

theorem issuePacket_of_fetch {s : State} {c : Nat} {w0 w1 : Word32} (h : fetch { s with cur := c, latch := none } = .ok (w0, w1)) :
    issuePacket s c = issueWords { s with cur := c, latch := none } w0 w1 := by
  simp only [issuePacket, h]

theorem issueWords_undecodableC {s : State} {w0 w1 : Word32} (h : decodeC w0 w1 = none) :
    issueWords s w0 w1 = .next (takeTrap s illegalTrap false) := by
  simp only [issueWords, decodePacket, h]
  rfl

theorem issueWords_undecodableA {s : State} {w0 w1 : Word32} {i : Instr} (hc : decodeC w0 w1 = some i) (hl : bits w0 31 1 = 0#1)
    (ha : decodeA w1 = none) :
    issueWords s w0 w1 = .next (takeTrap s illegalTrap (i.wf && !(isMgmt s.cur && foldMajorC (bits w0 25 6).toNat))) := by
  have hn : ¬ bits w0 31 1 = 1#1 := by rw [hl]; decide
  have h0 : decodeA 0 = some .nopASlot := rfl
  have hp : decodePacket w0 w1 = .error (.word1Reserved w1) := by simp only [decodePacket, hc, if_neg hn, ha]
  have hp0 : decodePacket w0 0 = .ok ⟨i, .nopASlot⟩ := by
    simp only [decodePacket, decodeC_of_no_literal hl 0 w1, hc, if_neg hn, h0]
  simp only [issueWords, hp, hp0]
  rfl

theorem undecodableWordsTrapIllegal : Spec.UndecodableWordsTrapIllegal := by
  intro s c w0 w1 hf e ill
  rw [issuePacket_of_fetch hf]
  refine ⟨fun h => issueWords_undecodableC h, fun i hi hl ha => ⟨fun hw => ?_, fun hw hm => ?_⟩⟩
  · rw [issueWords_undecodableA hi hl ha, hw]; rfl
  · have hm' : isMgmt e.cur = false := hm
    rw [issueWords_undecodableA hi hl ha, hw, hm']; rfl

/-! ## Code that may not be fetched, and registers that may not be written -/

theorem fetchOutsideCodeTraps : Spec.FetchOutsideCodeTraps := by
  intro s c hmac hm hin
  have hf : fetch { s with cur := c, latch := none } = .error (trapAt cPERMISSION 2 (s.core c).r.pc.toNat) := by
    have hmac' : State.me { s with cur := c, latch := none } = s.core c := rfl
    simp only [fetch, hmac', hmac, hm]
    rw [show inCode { s with cur := c, latch := none } c (s.core c).r.pc.toNat 8 = false from hin]
    rfl
  have hpc : (s.core c).r.pc.toNat % 2 ^ 48 = (s.core c).r.pc.toNat := Nat.mod_eq_of_lt (s.core c).r.pc.isLt
  simp only [issuePacket, hf, trapAt, settle_trap, hpc]
  rfl

theorem privilegedMtcTraps : Spec.PrivilegedMtcTraps := by
  intro s c w0 w1 n p l r hm hf hp hc hn hw ha
  have hpair (vl : Nat) : pairConflict vl (.mtc l r n) p.aside = false := rfl
  rw [issuePacket_of_fetch hf]
  simp [issueWords, hp, hc ▸ hw, hc, ha, hm, hpair, vectorConflict, privilegedMtc, hn]

/-! ## Reset -/

theorem resetLeavesTheDeviceIdle : Spec.ResetLeavesTheDeviceIdle :=
  ⟨fun _ => ⟨rfl, rfl⟩, fun _ _ => ⟨rfl, rfl, rfl⟩, fun _ => rfl, rfl, rfl, rfl⟩

/-! ## Time that passes (R84, R85, R409; log 3) -/

theorem mfind_map {α β : Type} (m : SMap α) (f : Nat × α → Nat × β) (g : α → β) (h : ∀ x, f x = (x.1, g x.2)) (k : Nat) :
    mfind (m.map f) k = (mfind m k).map g := by
  induction m with
  | nil => rfl
  | cons x m ih =>
    rw [List.map_cons, h, mfind, mfind]
    split
    · rfl
    · exact ih

/-- n clk lead from one state to another: memory, the drove's slots, the start-up to come and every core's registers stay. -/
structure Passes (n : Nat) (s u : State) : Prop where
  clk : u.clk = s.clk + n
  mem : u.mem = s.mem
  slots : u.slots = s.slots
  plan : u.bootPlan = s.bootPlan
  regs : ∀ c, (u.core c).r = (s.core c).r

theorem Passes.refl (s : State) : Passes 0 s s := ⟨rfl, rfl, rfl, rfl, fun _ => rfl⟩

theorem Passes.trans {m n : Nat} {s t u : State} (h : Passes m s t) (k : Passes n t u) : Passes (m + n) s u :=
  ⟨by rw [k.clk, h.clk, Nat.add_assoc], k.mem.trans h.mem, k.slots.trans h.slots, k.plan.trans h.plan,
    fun c => (k.regs c).trans (h.regs c)⟩

theorem Passes.setCore (s : State) {c : Nat} {k : Core} (h : k.r = (s.core c).r) : Passes 0 s (s.setCore c k) := by
  refine ⟨rfl, rfl, rfl, rfl, fun d => ?_⟩
  by_cases hd : d = c
  · subst hd; rw [State.core_setCore, h]
  · rw [State.core_setCore_other _ _ _ _ hd]

theorem foldl_passes {α β : Type} (st : β → State) (f : β → α → β) (h : ∀ b a, Passes 0 (st b) (st (f b a))) (l : List α) (b : β) :
    Passes 0 (st b) (st (l.foldl f b)) := by
  induction l generalizing b with
  | nil => exact .refl _
  | cons a l ih => exact (h b a).trans (ih _)

theorem tick_passes (s : State) (n : Nat) : Passes n s (s.tick n) := by
  refine ⟨rfl, rfl, rfl, rfl, fun c => ?_⟩
  have hm := mfind_map s.cores (fun x => if x.2.lanesWas.isNone then x else (x.1, { x.2 with lanesWas := none }))
    (fun k => if k.lanesWas.isNone then k else { k with lanesWas := none }) (fun x => by split <;> rfl) c
  simp only [State.core, State.tick, mget, hm]
  cases mfind s.cores c with
  | none => rfl
  | some k => simp only [Option.map_some, Option.getD_some]; split <;> rfl

theorem restFolds_passes (s : State) (busy : List Nat) : Passes 0 s (restFolds s busy) := ⟨rfl, rfl, rfl, rfl, fun _ => rfl⟩

theorem setFold_passes (s : State) (f : Nat) (v : Fold) : Passes 0 s (s.setFold f v) := ⟨rfl, rfl, rfl, rfl, fun _ => rfl⟩

theorem arbiterClk_passes (s : State) (f : Nat) : Passes 0 s (arbiterClk s f) :=
  (foldl_passes Prod.snd _ (fun _ _ => Passes.setCore _ (by rfl)) _ (8, s)).trans (setFold_passes _ _ _)

theorem arbiters_pass (fs : List Nat) (s : State) : Passes 0 s (fs.foldl arbiterClk s) := foldl_passes id arbiterClk arbiterClk_passes fs s

/-- At least one clk passes where one may, and no more than may. -/
theorem passClks_passes (fuel n : Nat) (s : State) : ∃ k, min 1 n ≤ k ∧ k ≤ n ∧ Passes k s (passClks fuel n s) := by
  induction fuel generalizing n s with
  | zero => exact ⟨n, by omega, le_rfl, tick_passes s n⟩
  | succ fuel ih =>
    cases n with
    | zero => exact ⟨0, by omega, le_rfl, .refl s⟩
    | succ n =>
      rw [passClks]
      split
      · exact ⟨n + 1, by omega, le_rfl, by simpa using (restFolds_passes s []).trans (tick_passes _ (n + 1))⟩
      · have hone := ((restFolds_passes s (busyFolds s s.clk)).trans (arbiters_pass (busyFolds s s.clk) _)).trans (tick_passes _ 1)
        dsimp only
        split
        · exact ⟨1, by omega, by omega, by simpa using hone⟩
        · obtain ⟨k, -, hk, hp⟩ := ih n ((busyFolds s s.clk).foldl arbiterClk (restFolds s (busyFolds s s.clk)) |>.tick 1)
          exact ⟨1 + k, by omega, by omega, by simpa using hone.trans hp⟩

/-- No event is nearer than one clk. -/
theorem room_pos (s : State) {n : Nat} (hn : 1 ≤ n) : 1 ≤ room s n ∧ room s n ≤ n := by
  have cut (ts : List Nat) (m : Nat) (h1 : 1 ≤ m) (h2 : m ≤ n) :
      1 ≤ ts.foldl (fun n t => if s.clk < t then min n (t - s.clk) else n) m ∧
        ts.foldl (fun n t => if s.clk < t then min n (t - s.clk) else n) m ≤ n := by
    induction ts generalizing m with
    | nil => exact ⟨h1, h2⟩
    | cons t ts ih =>
      rw [List.foldl_cons]
      split
      · exact ih _ (by omega) (by omega)
      · exact ih _ h1 h2
  refine cut _ _ ?_ ?_
  · split <;> omega
  · split <;> omega

/-- What a step of start-up keeps (R409): READY empties the drove's slots. -/
structure Boots (s u : State) : Prop where
  clk : u.clk = s.clk
  mem : u.mem = s.mem
  cores : u.cores = s.cores

theorem enter_boots (s : State) (st ms : Nat) (later : List (Nat × Nat)) : Boots s (s.enter st ms later) := by
  unfold State.enter
  dsimp only
  split <;> exact ⟨rfl, rfl, rfl⟩

theorem trained_boots (s : State) (c : Nat) : Boots s (trained s c) := by
  unfold trained
  dsimp only
  split <;> exact ⟨rfl, rfl, rfl⟩

theorem imagePortUp_boots (s : State) (up : Bool) : Boots s (imagePortUp s up) := by
  unfold imagePortUp
  dsimp only
  split <;> exact ⟨rfl, rfl, rfl⟩

theorem Boots.trans {s t u : State} (h : Boots s t) (k : Boots t u) : Boots s u :=
  ⟨k.clk.trans h.clk, k.mem.trans h.mem, k.cores.trans h.cores⟩

theorem imageRead_boots (s : State) (ms : Nat) : Boots s (imageRead s ms) := by
  have hp := imagePortUp_boots s false
  unfold imageRead
  dsimp only
  split
  · next bs _ =>
    have he := enter_boots { imagePortUp s false with imgAddr := none, imgLen := 0, image := bs } 6 ms [(7, ms + 800)]
    exact ⟨he.clk.trans hp.clk, he.mem.trans hp.mem, he.cores.trans hp.cores⟩
  · have he := enter_boots { imagePortUp s false with imgAddr := none, imgLen := 0 } 15 ms []
    exact ⟨he.clk.trans hp.clk, he.mem.trans hp.mem, he.cores.trans hp.cores⟩

theorem imageStart_boots (s : State) (ms : Nat) : Boots s (imageStart s ms) := by
  unfold imageStart
  split
  · exact enter_boots _ _ _ _
  · split
    · exact enter_boots _ _ _ _
    · exact (imagePortUp_boots _ _).trans (enter_boots _ _ _ _)

theorem bootStep_boots (s : State) : Boots s (bootStep s) := by
  unfold bootStep
  split
  · exact ⟨rfl, rfl, rfl⟩
  · split
    · exact ⟨rfl, rfl, rfl⟩
    · split
      · split <;> exact enter_boots _ _ _ _
      · exact (trained_boots _ _).trans (enter_boots _ _ _ _)
      · exact (trained_boots _ _).trans (enter_boots _ _ _ _)
      · exact (trained_boots _ _).trans (imageStart_boots _ _)
      · exact imageRead_boots _ _
      · exact enter_boots _ _ _ _

theorem bootStep_nil {s : State} (h : s.bootPlan = []) : bootStep s = s := by
  unfold bootStep
  rw [h]

/-! ## A packet of two slots outside pairs and macros (R88, R94) -/

/-- The decode checks of a packet that passes them all (R98). -/
theorem issueWords_passes {s : State} {w0 w1 : Word32} {p : Packet} (hp : decodePacket w0 w1 = .ok p) (hm : isMgmt s.cur = false)
    (hc : p.cside.wf = true) (ha : p.aside.wf = true) (hpair : pairConflict s.me.r.vl p.cside p.aside = false)
    (hv : vectorConflict s.me p.cside w0 w1 = false) (hpriv : privilegedMtc p.cside = false) :
    issueWords s w0 w1 = issuePair s p.cside p.aside w0 w1 := by
  simp only [issueWords, hp, hm, hc, ha, hpair, hv, hpriv, Bool.not_true, Bool.false_and, Bool.or_self, Bool.not_false, Bool.and_false,
    Bool.false_eq_true, if_false]

/-- Two slots that both complete. -/
theorem runPair_done {x s1 s2 : State} {c a : Instr} (hc : exec c x = .next s1) (h1 : s1.issue = .done) (hl : mayLeave c = false)
    (ha : exec a { s1 with latch := some { core := x.me, m := (x.fold (foldOf x.cur)).matrix, popped := poppedFrom x.me s1.me } } = .next s2)
    (h2 : s2.issue = .done) : runPair x c a = .done s2 := by
  have hnot : ¬ s1.issue = .held := by rw [h1]; simp
  have hbase : (if s1.issue = .done ∧ !mayLeave c then s1 else x) = s1 := if_pos ⟨h1, by rw [hl]; rfl⟩
  unfold runPair
  rw [hc]
  dsimp only
  rw [if_neg hnot, hbase, ha]
  dsimp only
  rw [h1, h2, hl]
  rfl

/-- Retirement outside pairs and macros advances PC. -/
theorem retire_plain {x s : State} {c a : Instr} (w0 w1 : Word32) (hm0 : x.me.macroOp = none) (hy0 : x.me.yoke = none)
    (hm : s.me.macroOp = none) : retire x s c a w0 w1 =
      { s.setMe { s.me.landed reqPacket with lodcounted := false, aDone := false, hostFail := false,
                                             r := { s.me.r with pc := s.me.r.npc } } with latch := none, issue := .done } := by
  have hml : (s.me.landed reqPacket).macroOp = none := hm
  unfold retire
  simp only [hm0, hy0, hml]
  rfl

theorem beforeSlots_me (s : State) : (Spec.beforeSlots s).me.macroOp = s.me.macroOp ∧ (Spec.beforeSlots s).me.yoke = s.me.yoke := by
  simp [Spec.beforeSlots, Core.sweepFences]

end Sys2Proof.Machine

namespace Sys2Proof

open Machine

/-- Settles O1: each word pair is decoded as it stands. -/
theorem wordsDecodeAsTheTablesSay : Obligations.WordsDecodeAsTheTablesSay := by
  refine ⟨rfl, rfl, rfl, rfl, rfl, rfl, rfl, rfl, rfl, rfl⟩

/-- Settles O5: the checks at fetch and decode come before either slot. -/
theorem packetsThatNeverReachTheirSlots : Obligations.PacketsThatNeverReachTheirSlots :=
  ⟨undecodableWordsTrapIllegal, fetchOutsideCodeTraps, privilegedMtcTraps⟩

/-- Settles O6: the reset state evaluates to it. -/
theorem resetState : Obligations.ResetState := ⟨resetLeavesTheDeviceIdle, reset_mem_wf⟩

/-- Settles O3: the agenda's turn once its clk have passed, and before that cores, forced events and time. -/
theorem stepRunsTheEvent : Obligations.StepRunsTheEvent := by
  intro s t ts hag
  have late {o : Host.Outcome State Fault Refusal} (hw : t.wait s ≠ 0) (h : (match nextCore s, forced s with
      | some c, _ => turnOf s c
      | none, some i => exec i s
      | none, none => .next { pass s (t.wait s) with
          agenda := { t with dt := t.wait s - ((pass s (t.wait s)).clk - s.clk) } :: ts }) = o) : step s = o := by
    simp only [step, hag, if_neg hw]
    exact h
  refine ⟨fun i hdt hev => ?_, fun c hw hc => late hw (by rw [hc]), fun i hw hc hf => late hw (by rw [hc, hf]), fun hw hc hf => ?_⟩
  · have hw : t.wait s = 0 := by simp [Turn.wait, hev, hdt]
    simp only [step, hag, if_pos hw, hev]
  · obtain ⟨hroom, hle⟩ := room_pos s (Nat.one_le_iff_ne_zero.mpr hw)
    obtain ⟨n, h1, hn, hp⟩ := passClks_passes _ (room s (t.wait s)) s
    have hplan : (skipTicks (s.advance (room s (t.wait s)))).bootPlan = s.bootPlan := hp.plan
    have hb := bootStep_boots (skipTicks (s.advance (room s (t.wait s))))
    have hclk : (pass s (t.wait s)).clk = s.clk + n := hb.clk.trans hp.clk
    refine ⟨pass s (t.wait s), n, by omega, by omega, late hw ?_, hclk, hb.mem.trans hp.mem, fun hnil => ?_, fun c => ?_⟩
    · have hleft : t.wait s - ((Machine.pass s (t.wait s)).clk - s.clk) = t.wait s - n := by rw [hclk, Nat.add_sub_cancel_left]
      rw [hc, hf, hleft]
    · rw [Machine.pass, bootStep_nil (hplan.trans hnil)]
      exact hp.slots
    · rw [State.core, Machine.pass, hb.cores]
      exact hp.regs c

/-- Settles O4: the packet passes decode, both slots complete, and it retires. -/
theorem stepRunsTheDecodedPacket : Obligations.StepRunsTheDecodedPacket := by
  intro s t ts w0 w1 p s1 s2 hag hdt hev hiss e hmac hy hd hcap hm hf hp hwc hwa hpair hv hpriv hleave b hc h1 _ _ l ha h2 _ hm2 _
  have hw : t.wait s = 0 := by rw [Turn.wait, if_neg (fun h => by rw [hiss] at h; exact Bool.false_ne_true h.2), hdt]
  have hstep : step s = issuePacket { s with agenda := ts, issued := t.core :: s.issued } t.core := by
    simp only [step, hag, if_pos hw, hev, turnOf]
  have hpass := issueWords_passes (s := e) hp hm hwc hwa hpair hv hpriv
  have hrun : runPair (Spec.beforeSlots e) p.cside p.aside = .done s2 := runPair_done hc h1 hleave ha h2
  obtain ⟨hbm, hby⟩ := beforeSlots_me e
  have hret := retire_plain (x := Spec.beforeSlots e) (c := p.cside) (a := p.aside) w0 w1 (hbm.trans hmac) (hby.trans hy) hm2
  calc step s = issueWords e w0 w1 := hstep.trans (issuePacket_of_fetch hf)
    _ = (runPair (Spec.beforeSlots e) p.cside p.aside).answer (Spec.beforeSlots e) p.cside p.aside w0 w1 :=
      hpass.trans (issuePair_unyoked _ _ _ _ hy hd hcap)
    _ = .next (retire (Spec.beforeSlots e) s2 p.cside p.aside w0 w1) := by rw [hrun]; rfl
    _ = _ := by rw [hret]

end Sys2Proof

end

section
/-! PROOFS. Trap entry, ERET and WFI (15 R347 to R349, R354, R358); then their statements. -/

namespace Sys2Proof.Machine

/-! ## Trap entry (R347 to R349) -/

theorem einfo_plain {t : Trap} (h : t.deferred = none) (slotA : Bool) : t.einfo slotA = Spec.einfo t slotA := by
  simp only [Trap.einfo, Spec.einfo, h, Option.filter_none, Option.getD_none, Option.isSome_none, Bool.false_eq_true, if_false]
  congr 1
  omega

/-- The state in which a trap that clears no record is taken: what the packet had begun is dropped. -/
def State.dropped (s : State) (t : Trap) : State :=
  State.updMe { s with flips := t.flips.getD s.flips } fun k => { k.fresh with lodcounted := false }

theorem dropped_cur (s : State) (t : Trap) : (s.dropped t).cur = s.cur := rfl

theorem dropped_me (s : State) (t : Trap) : (s.dropped t).me = { s.me.fresh with lodcounted := false } := State.me_updMe _ _

/-- ESTAT of a handler's first packet: TH is set, and CAPT where a capture was open (R348, R354). -/
def Core.enteredStat (k : Core) : Word :=
  let cap := match k.vcap with
    | some v => !v.suspended
    | none => false
  let estat := putFld (k.ctl 0x083) 8 8 1
  if cap then putFld estat 10 10 1 else estat

/-- The control registers that trap entry writes (R348). -/
def Core.saved (k : Core) (t : Trap) (slotA : Bool) : Core :=
  (((k.setCtl 0x080 (BitVec.ofNat 64 k.r.pc.toNat)).setCtl 0x081 (BitVec.ofNat 64 t.cause.toNat)).setCtl 0x082
    (t.einfo slotA)).setCtl 0x083 k.enteredStat

/-- A core whose next packet is at h, with its open capture suspended (R348). -/
def Core.goesTo (k : Core) (h : BitVec 48) : Core :=
  { k with vcap := k.vcap.map fun v => { v with suspended := true }, r := { k.r with pc := h, npc := h } }

/-- The core of a handler's first packet (R348). -/
def Core.entered (k : Core) (t : Trap) (slotA : Bool) : Core :=
  (k.saved t slotA).goesTo (BitVec.ofNat 48 (fld ((k.saved t slotA).ctl 0x084) 47 3 * 8))

theorem Core.goesTo_ctl (k : Core) (h : BitVec 48) : (k.goesTo h).r.ctl = k.r.ctl := rfl

theorem Core.goesTo_regs (k : Core) (h : BitVec 48) : (k.goesTo h).r.g = k.r.g ∧ (k.goesTo h).r.v = k.r.v ∧ (k.goesTo h).r.vl = k.r.vl ∧
    (k.goesTo h).r.lanes = k.r.lanes ∧ (k.goesTo h).r.pc = h ∧ (k.goesTo h).r.npc = h := ⟨rfl, rfl, rfl, rfl, rfl, rfl⟩

@[simp] theorem Core.setCtl_vcap (k : Core) (n : Nat) (v : Word) : (k.setCtl n v).vcap = k.vcap := rfl

/-- Writes of control registers leave the others. -/
theorem Core.setCtl_four_regs (k : Core) (n m i j : Nat) (v w x y : Word) :
    let l := (((k.setCtl n v).setCtl m w).setCtl i x).setCtl j y
    l.r.g = k.r.g ∧ l.r.v = k.r.v ∧ l.r.vl = k.r.vl ∧ l.r.lanes = k.r.lanes := ⟨rfl, rfl, rfl, rfl⟩

/-- How a trap ends in the state in which it is taken (R346, R348, R349). -/
def trapEnd (s : State) (t : Trap) (slotA : Bool) : State :=
  if t.cause = cUNCORR then contain s s.cur t (t.einfo slotA)
  else if fld (s.me.ctl 0x084) 0 0 = 0 ∨ fld (s.me.ctl 0x083) 8 8 = 1 then endFailed s s.cur 0x05 t.cause s.me.r.pc.toNat (t.einfo slotA)
  else s.setMe (s.me.entered t slotA)

theorem endCapture_cur (s : State) (c : Nat) : (endCapture s c).cur = s.cur := by
  unfold endCapture
  split
  · rfl
  · dsimp only
    split <;> rfl

theorem takeTrap_eq_trapEnd {s : State} {t : Trap} {slotA : Bool} (hd : t.deferred = none) (hc : s.me.cap = none) :
    takeTrap s t slotA = { trapEnd (s.dropped t) t slotA with issue := .trapped t.cause (t.einfo slotA) } := by
  have hend : endCapture (s.dropped t) s.cur = s.dropped t := by
    have hcap : ((s.dropped t).core s.cur).cap = none := (congrArg Core.cap (dropped_me s t)).trans hc
    rw [endCapture, hcap]
  obtain ⟨cause, acc, val, data, deferred, flips⟩ := t
  change deferred = none at hd
  subst hd
  refine Eq.trans ?_ (congrArg (fun u => ({ trapEnd u _ slotA with issue := _ } : State)) hend)
  have hcur := endCapture_cur (s.dropped ⟨cause, acc, val, data, none, flips⟩) s.cur
  unfold trapEnd State.setMe State.me
  rw [hcur]
  rfl

section
variable {s : State} {t : Trap} {slotA : Bool} (hu : t.cause ≠ cUNCORR) (hd : t.deferred = none) (hc : s.me.cap = none)
include hu hd hc

theorem takeTrap_handled (he : fld (s.me.ctl 0x084) 0 0 = 1) (hh : fld (s.me.ctl 0x083) 8 8 = 0) : takeTrap s t slotA =
    { (s.dropped t).setMe ((s.dropped t).me.entered t slotA) with issue := .trapped t.cause (t.einfo slotA) } := by
  have hctl (n : Nat) : (s.dropped t).me.ctl n = s.me.ctl n := by rw [dropped_me]; rfl
  rw [takeTrap_eq_trapEnd hd hc, trapEnd, if_neg hu, hctl, hctl, if_neg (by omega)]

theorem takeTrap_unhandled (h : fld (s.me.ctl 0x084) 0 0 = 0 ∨ fld (s.me.ctl 0x083) 8 8 = 1) : takeTrap s t slotA =
    { endFailed (s.dropped t) s.cur 0x05 t.cause s.me.r.pc.toNat (t.einfo slotA) with issue := .trapped t.cause (t.einfo slotA) } := by
  have hctl (n : Nat) : (s.dropped t).me.ctl n = s.me.ctl n := by rw [dropped_me]; rfl
  have hpc : (s.dropped t).me.r.pc = s.me.r.pc := by rw [dropped_me]; rfl
  rw [takeTrap_eq_trapEnd hd hc, trapEnd, if_neg hu, hctl, hctl, if_pos h, hpc, dropped_cur]

end

theorem fld_enteredStat (k : Core) : fld k.enteredStat 8 8 = 1 := by
  have h1 : fld (putFld (k.ctl 0x083) 8 8 1) 8 8 = 1 := fld_putFld_same _ (by decide) (by decide) (by decide)
  have h2 : fld (putFld (putFld (k.ctl 0x083) 8 8 1) 10 10 1) 8 8 = 1 :=
    (fld_putFld_other _ _ (by decide) (by decide) (by decide) (by decide)).trans h1
  have hif (b : Bool) : fld (if b then putFld (putFld (k.ctl 0x083) 8 8 1) 10 10 1 else putFld (k.ctl 0x083) 8 8 1) 8 8 = 1 := by
    cases b
    · exact h1
    · exact h2
  exact hif _

theorem Core.ctl_congr {k j : Core} (h : k.r.ctl = j.r.ctl) (n : Nat) : k.ctl n = j.ctl n := by
  rw [Core.ctl, Core.ctl, h]

theorem Core.ctl_setCtl_eq (k : Core) (n m : Nat) (v : Word) : (k.setCtl m v).ctl n = if n = m then v else k.ctl n := by
  split
  · next h => rw [h, Core.ctl_setCtl]
  · next h => exact Core.ctl_setCtl_other _ _ h

section
variable (k : Core) (t : Trap) (slotA : Bool)

theorem Core.saved_ctl (n : Nat) : (k.saved t slotA).ctl n = if n = 0x083 then k.enteredStat else if n = 0x082 then t.einfo slotA
    else if n = 0x081 then BitVec.ofNat 64 t.cause.toNat else if n = 0x080 then BitVec.ofNat 64 k.r.pc.toNat else k.ctl n := by
  simp only [Core.saved, Core.ctl_setCtl_eq]

theorem Core.saved_regs : (k.saved t slotA).r.g = k.r.g ∧ (k.saved t slotA).r.v = k.r.v ∧ (k.saved t slotA).r.vl = k.r.vl ∧
    (k.saved t slotA).r.lanes = k.r.lanes := Core.setCtl_four_regs _ _ _ _ _ _ _ _ _

theorem Core.entered_ctl (n : Nat) : (k.entered t slotA).ctl n = (k.saved t slotA).ctl n := Core.ctl_congr (Core.goesTo_ctl _ _) n

theorem Core.entered_pc : (k.entered t slotA).r.pc = BitVec.ofNat 48 (fld (k.ctl 0x084) 47 3 * 8) := by
  have h : (k.saved t slotA).ctl 0x084 = k.ctl 0x084 := k.saved_ctl t slotA 0x084
  rw [← h]
  exact (Core.goesTo_regs _ _).2.2.2.2.1

/-- Trap entry writes no general or vector register (R347). -/
theorem Core.entered_regs : (k.entered t slotA).r.g = k.r.g ∧ (k.entered t slotA).r.v = k.r.v ∧ (k.entered t slotA).r.vl = k.r.vl ∧
    (k.entered t slotA).r.lanes = k.r.lanes ∧ (k.entered t slotA).r.npc = (k.entered t slotA).r.pc := by
  obtain ⟨hg, hv, hvl, hl⟩ := k.saved_regs t slotA
  obtain ⟨gg, gv, gvl, gl, gpc, gnpc⟩ := (k.saved t slotA).goesTo_regs (BitVec.ofNat 48 (fld ((k.saved t slotA).ctl 0x084) 47 3 * 8))
  exact ⟨gg.trans hg, gv.trans hv, gvl.trans hvl, gl.trans hl, gnpc.trans gpc.symm⟩

end

theorem trapEntrySavesAndGoesToTheHandler : Spec.TrapEntrySavesAndGoesToTheHandler := by
  intro s t slotA hu hd hc he hh u
  have hu' : u = { (s.dropped t).setMe ((s.dropped t).me.entered t slotA) with issue := .trapped t.cause (t.einfo slotA) } :=
    takeTrap_handled hu hd hc he hh
  have hme : u.me = (s.dropped t).me.entered t slotA := by rw [hu']; exact State.core_setCore _ _ _
  have hr : (s.dropped t).me.r = s.me.r := by rw [dropped_me]; rfl
  have hctl (n : Nat) : (s.dropped t).me.ctl n = s.me.ctl n := Core.ctl_congr (congrArg Regs.ctl hr) n
  have hpc : u.me.r.pc = BitVec.ofNat 48 (fld (s.me.ctl 0x084) 47 3 * 8) := by rw [hme, Core.entered_pc, hctl]
  obtain ⟨eg, ev, evl, el, enpc⟩ := (s.dropped t).me.entered_regs t slotA
  have huctl (n : Nat) := (congrArg (Core.ctl · n) hme).trans ((Core.entered_ctl _ _ _ _).trans (Core.saved_ctl _ _ _ n))
  refine ⟨?_, ?_, ?_, ?_, ?_, hpc, ?_, fun n h0 h1 h2 h3 => ?_, ?_, ?_, ?_, ?_, ?_, ?_, ?_, fun c hcc => ?_⟩
  · rw [hu', einfo_plain hd]
  · exact (huctl _).trans (by rw [hr]; rfl)
  · exact huctl _
  · exact (huctl _).trans (einfo_plain hd slotA)
  · exact (congrArg (fld · 8 8) (huctl _)).trans (fld_enteredStat _)
  · rw [hme, enpc]
  · exact (huctl n).trans (by rw [if_neg h3, if_neg h2, if_neg h1, if_neg h0, hctl])
  · rw [hme, eg, hr]
  · rw [hme, ev, hr]
  · rw [hme, evl, hr]
  · rw [hme, el, hr]
  · rw [hu']; rfl
  · rw [hu']; rfl
  · rw [hu']; rfl
  · rw [hu']
    exact (State.core_setCore_other _ _ _ _ hcc).trans (State.core_setCore_other _ _ _ _ hcc)

/-- A core whose packet has begun nothing has nothing to drop. -/
theorem Core.fresh_of_idle {k : Core} (hw : k.wait = none) (htf : k.tfault = none) (hww : k.walkWait = none) (hhf : k.hostFail = false)
    (hmac : k.macroOp = none) (had : k.aDone = false) (hlod : k.lodcounted = false) : { k.fresh with lodcounted := false } = k := by
  cases k
  dsimp only at hw htf hww hhf hmac had hlod
  subst hw htf hww hhf hmac had hlod
  rfl

theorem trapWithoutHandlerEndsTheUnit : Spec.TrapWithoutHandlerEndsTheUnit := by
  intro s t slotA o hu hd hc hf hw htf hww hhf hmac had hlod ho hh e s1
  have hfresh := Core.fresh_of_idle hw htf hww hhf hmac had hlod
  have hdrop : s.dropped t = s.updMe id := by
    have hflips : ({ s with flips := t.flips.getD s.flips } : State) = s := by rw [hf]; rfl
    rw [State.dropped, hflips]
    exact congrArg s.setMe hfresh
  have hocc : ((s.updMe id).core s.cur).occ = some o := by rw [← ho]; exact congrArg Core.occ (State.me_updMe s id)
  rw [takeTrap_unhandled hu hd hc hh, hdrop, endFailed, hocc, einfo_plain hd]

/-! ## ERET (R354) -/

/-- ESTAT after ERET: TH and CAPT are cleared, and MSTEP unless the target is a MACRO. -/
def Core.returnStat (k : Core) (mac : Bool) : Word :=
  let e := putFld (putFld (k.ctl 0x083) 8 8 0) 10 10 0
  if mac then e else putFld e 4 0 0

/-- A core whose next packet after this one is at h, with its suspended capture open again. -/
def Core.resumesAt (k : Core) (h : BitVec 48) : Core :=
  { k with vcap := k.vcap.map fun v => { v with suspended := false }, r := { k.r with npc := h } }

theorem Core.resumesAt_regs (k : Core) (h : BitVec 48) : (k.resumesAt h).r.npc = h ∧ (k.resumesAt h).r.pc = k.r.pc ∧
    (k.resumesAt h).r.g = k.r.g ∧ (k.resumesAt h).r.v = k.r.v ∧ (k.resumesAt h).r.ctl = k.r.ctl ∧
    (k.resumesAt h).vcap = k.vcap.map (fun v => { v with suspended := false }) := ⟨rfl, rfl, rfl, rfl, rfl, rfl⟩

theorem returnFromTrap_eq (s : State) : returnFromTrap s = s.setMe ((s.me.setCtl 0x083
    (s.me.returnStat (isMacroAt s s.cur (fld (s.me.ctl 0x080) 47 3 * 8)))).resumesAt (BitVec.ofNat 48 (fld (s.me.ctl 0x080) 47 3 * 8))) := rfl

theorem fld_returnStat (k : Core) (mac : Bool) : fld (k.returnStat mac) 8 8 = 0 ∧ fld (k.returnStat mac) 10 10 = 0 ∧
    fld (k.returnStat mac) 4 0 = if mac then fld (k.ctl 0x083) 4 0 else 0 := by
  have put (w : Word) {hi lo hi' lo' : Nat} (hl : lo ≤ hi) (hh : hi < 64) (hl' : lo' ≤ hi') (hd : hi' < lo ∨ hi < lo') :
      fld (putFld w hi lo 0) hi' lo' = fld w hi' lo' := fld_putFld_other w 0 hl hh hl' hd
  have same (w : Word) {hi lo : Nat} (hl : lo ≤ hi) (hh : hi < 64) : fld (putFld w hi lo 0) hi lo = 0 :=
    fld_putFld_same w hl hh (by positivity)
  generalize hw : k.ctl 0x083 = w
  have h8 : fld (putFld (putFld w 8 8 0) 10 10 0) 8 8 = 0 :=
    (put _ (by decide) (by decide) (by decide) (by decide)).trans (same w (by decide) (by decide))
  have h10 : fld (putFld (putFld w 8 8 0) 10 10 0) 10 10 = 0 := same _ (by decide) (by decide)
  have h4 : fld (putFld (putFld w 8 8 0) 10 10 0) 4 0 = fld w 4 0 :=
    (put _ (by decide) (by decide) (by decide) (by decide)).trans (put w (by decide) (by decide) (by decide) (by decide))
  rw [Core.returnStat, hw]
  cases mac
  · exact ⟨(put _ (by decide) (by decide) (by decide) (by decide)).trans h8, (put _ (by decide) (by decide) (by decide) (by decide)).trans h10,
      same _ (by decide) (by decide)⟩
  · exact ⟨h8, h10, h4⟩

/-! ## WFI (R358) -/

section
variable {s : State} {l : Lit} {b : BitVec 5} (h : Ready s [b.toNat] [])
include h

theorem exec_wfi_determinism (hc : s.me.inCompute = true) : exec (.wfi l b) s = settle s (.error (trapC cDETERM)) := by
  rw [exec_wfi, execWfi, withRegs_ready _ h, hc]
  rfl

theorem exec_wfi_ends (hc : s.me.inCompute = false) (he : s.me.wait = some .expired ∨ s.me.anyQueueErr = true) :
    exec (.wfi l b) s = settle s (.ok (s.updMe fun k => { k with wait := none })) := by
  have hend : (s.me.anyQueueErr || decide (s.me.wait = some .expired)) = true := by
    rcases he with he | he <;> simp [he]
  rw [exec_wfi, execWfi, withRegs_ready _ h, hc]
  simp only [Bool.not_false, need_true, ok_bind, hend, if_true]

theorem exec_wfi_stalls (hc : s.me.inCompute = false) (hq : s.me.anyQueueErr = false) (hw : s.me.wait = none) :
    exec (.wfi l b) s = settle s (.error (.stall (s.updMe fun k => { k with
      wait := some (if Spec.rb s l b = 0 then .forever else .deadline (s.clk + (Spec.rb s l b).toNat)) }))) := by
  have hz : ((Spec.rb s l b).toNat = 0) = (Spec.rb s l b = 0) := propext (by simp [BitVec.toNat_eq])
  rw [exec_wfi, execWfi, withRegs_ready _ h, hc]
  simp only [Bool.not_false, need_true, ok_bind, hq, hw, Bool.false_or, reduceCtorEq, decide_false, Bool.false_eq_true, if_false,
    rbval_toNat, hz]

end

theorem exec_wfiTimeout_due {s : State} {c u : Nat} (hw : (s.core c).wait = some (.deadline u)) (hu : u ≤ s.clk) :
    exec (.wfiTimeout c) s = settle s (.ok (s.updCore c fun k => { k with wait := some .expired })) := by
  rw [exec_wfiTimeout, execWfiTimeout, hw]
  dsimp only
  rw [decide_eq_true hu, event_due, settle_ok]

end Sys2Proof.Machine

namespace Sys2Proof

open Machine

/-- Settles O21: a trap with a handler writes EPC, ECAUSE, EINFO and ESTAT and goes there; without one it ends what the core runs. -/
theorem trapsTakeTheirHandlerOrEndTheUnit : Obligations.TrapsTakeTheirHandlerOrEndTheUnit :=
  ⟨trapEntrySavesAndGoesToTheHandler, trapWithoutHandlerEndsTheUnit⟩

/-- Settles O23: ERET writes ESTAT and the next packet's address, and opens a suspended capture again. -/
theorem eretReturnsToEpc : Obligations.EretReturnsToEpc := by
  intro s l
  generalize hm : isMacroAt s s.cur (fld (s.me.ctl 0x080) 47 3 * 8) = mac
  generalize ha : BitVec.ofNat 48 (fld (s.me.ctl 0x080) 47 3 * 8) = h
  have ht := returnFromTrap_eq s
  rw [hm, ha] at ht
  obtain ⟨hnpc, hpc, hg, hv, hctl, hcap⟩ := (s.me.setCtl 0x083 (s.me.returnStat mac)).resumesAt_regs h
  obtain ⟨f8, f10, f4⟩ := fld_returnStat s.me mac
  have hme : (returnFromTrap s).me = (s.me.setCtl 0x083 (s.me.returnStat mac)).resumesAt h := by rw [ht]; exact State.core_setCore _ _ _
  have hall (n : Nat) : (returnFromTrap s).me.ctl n = (s.me.setCtl 0x083 (s.me.returnStat mac)).ctl n := by
    rw [hme]; exact Core.ctl_congr hctl n
  have hstat : (returnFromTrap s).me.ctl 0x083 = s.me.returnStat mac := (hall _).trans (Core.ctl_setCtl _ _ _)
  refine ⟨returnFromTrap s, exec_eret l s, ?_, ?_, ?_, ?_, ?_, fun n hn => ?_, ?_, ?_, ?_, ?_, ?_, ?_, fun c hc => ?_⟩
  · rw [hme, hnpc]
  · rw [hme, hpc, Core.setCtl_pc]
  · rw [hstat, f8]
  · rw [hstat, f10]
  · rw [hstat, f4]
  · rw [hall, Core.ctl_setCtl_other _ _ hn]
  · rw [hme, hcap, Core.setCtl_vcap]
  · rw [hme, hg, Core.setCtl_g]
  · rw [hme, hv, Core.setCtl_v]
  · rw [ht]; rfl
  · rw [ht]; rfl
  · rw [ht]; rfl
  · rw [ht]; exact State.core_setCore_other _ _ _ _ hc

/-- Settles O25: WFI ends at once where its wait has ended or an error stands, and else notes its limit. -/
theorem wfiWaitsForItsLimit : Obligations.WfiWaitsForItsLimit := by
  intro s l b c u h
  exact ⟨fun hc => traps_of_trapC (exec_wfi_determinism h hc), fun hc he => completes_of_ok (exec_wfi_ends h hc he),
    fun hc hq hw => (exec_wfi_stalls h hc hq hw).trans (settle_stall _ _), fun hw hu => completes_of_ok (exec_wfiTimeout_due hw hu)⟩

end Sys2Proof

end

section
/-! PROOFS. Control registers as MFC and MTC read and write them (06 R135 to R138, 15 R370); then their statement. -/

namespace Sys2Proof.Machine

/-! ## MFC (R135 to R138) -/

theorem xclk_me (s : State) : xclk s s.cur = if s.me.inFlagged then (s.clk - s.me.xclkBase) % 2 ^ 32 else 0 := rfl

/-- Outside the registers with values of their own, MFC reads the fields of the stored one. -/
theorem readCtl_eq_ctlValue (s : State) {n : Nat} (hy : n ≠ 0x090) (ht : n < 0x060 ∨ 0x07F < n) : readCtl s s.cur n = Spec.ctlValue s n := by
  have hx : BitVec.ofNat 64 (xclk s s.cur) = if s.me.inFlagged then BitVec.ofNat 64 ((s.clk - s.me.xclkBase) % 2 ^ 32) else 0 := by
    rw [xclk_me]
    split <;> rfl
  unfold readCtl Spec.ctlValue
  dsimp only
  split
  · rfl
  · rfl
  · rfl
  · rfl
  · rfl
  · exact hx
  · rfl
  · exact absurd rfl hy
  · rw [if_neg (by omega)]
    split
    · contradiction
    · contradiction
    · contradiction
    · contradiction
    · contradiction
    · contradiction
    · contradiction
    · rfl

theorem yokeWord_eq_yokeValue {s : State} (h : s.me.partnerOf = none) : yokeWord s s.cur = Spec.yokeValue s := by
  have hk : s.core (((s.core s.cur).partnerOf).getD s.cur) = s.me := by
    rw [show (s.core s.cur).partnerOf = none from h]; rfl
  unfold yokeWord Spec.yokeValue
  rw [hk]
  refine congrArg (BitVec.ofNat 64) ?_
  dsimp only
  generalize hme : (if s.me.yoke.isSome = true then s.cur / 2 * 2 else s.cur) = me
  generalize hpn : (if me % 2 = 0 then me + 1 else me - 1) = partner
  generalize s.nv.quar.contains partner = p
  generalize s.nv.quar.contains me = q
  have bit (b : Bool) (m : Nat) : (if b then m else 0) = (if b then 1 else 0) * m := by cases b <;> simp
  rw [bit p 4, bit q 2]
  cases s.me.yoke with
  | none => simp only [Option.isSome_none, Option.map_none, Option.getD_none, Bool.false_eq_true, if_false]; omega
  | some y => simp only [Option.isSome_some, Option.map_some, Option.getD_some, if_true]; omega

section
variable {s : State} {l : Lit} {d : BitVec 5} {n : BitVec 12} (h : Ready s [] [d.toNat]) (hl : ctlListed n.toNat = true)
include h hl

/-- MFC of a register outside TSH that nothing holds back. -/
theorem exec_mfc_plain (hb : (s.me.inCompute && mfcBarred n.toNat) = false) (hf : n.toNat = 0x011 → fpcFree s = .ok () ∧ fpcWait s = .ok ())
    (ht : n.toNat < 0x060 ∨ 0x07F < n.toNat) : exec (.mfc l d n) s = settle s (.ok (s.wroteG d.toNat (mfcValue s n.toNat))) := by
  have hnt : ¬ (0x060 ≤ n.toNat ∧ n.toNat ≤ 0x07F) := by omega
  have hd : boundG s.pre d.toNat = none := h.unbound (List.mem_singleton.mpr rfl)
  rw [exec_mfc, execMfc, withRegs_ready _ h]
  by_cases hn : n.toNat = 0x011
  · obtain ⟨hfree, hwait⟩ := hf hn
    simp only [if_pos hn, hwait, hfree, hl, hb, Bool.not_false, need_true, ok_bind, if_neg hnt, setG_plain _ hd]
  · simp only [if_neg hn, hl, hb, Bool.not_false, need_true, ok_bind, if_neg hnt, setG_plain _ hd]

theorem exec_mfc_barred (hb : (s.me.inCompute && mfcBarred n.toNat) = true) (hn : n.toNat ≠ 0x011) :
    exec (.mfc l d n) s = settle s (.error (trapC cDETERM)) := by
  rw [exec_mfc, execMfc, withRegs_ready _ h]
  simp only [if_neg hn, hl, hb, Bool.not_true, need_true, need_false, ok_bind, error_bind]

theorem exec_mfc_tsh {v : Word} (h0 : 0x060 ≤ n.toNat) (h1 : n.toNat ≤ 0x07F) (hb : s.me.inCompute = false)
    (hv : mfcTsh s (n.toNat - 0x060) = .ok v) : exec (.mfc l d n) s = settle s (.ok (s.wroteG d.toNat v)) := by
  rw [exec_mfc, execMfc, withRegs_ready _ h]
  simp only [if_neg (show ¬ n.toNat = 0x011 by omega), hl, hb, Bool.false_and, Bool.not_false, need_true, ok_bind]
  rw [if_pos ⟨h0, h1⟩, hv, ok_bind, setG_plain _ (h.unbound (List.mem_singleton.mpr rfl))]

end

theorem inCompute_of_unflagged {k : Core} (h : k.inFlagged = false) : k.inCompute = false := by
  unfold Core.inCompute
  unfold Core.inFlagged at h
  split
  · next o ho => rw [ho] at h; rw [show o.flagged = false from h]; rfl
  · rfl

/-- An unflagged unit names every tile. -/
theorem ownPart_unflagged {k : Core} (h : k.inFlagged = false) (ts as : List Nat) : ownPart k ts as = .ok () := by
  unfold ownPart
  unfold Core.inFlagged at h
  split
  · next o ho => rw [ho] at h; rw [show o.flagged = false from h]; rfl
  · rfl

theorem mfcReadsYoke : Spec.MfcReadsYoke := by
  intro s l d h hp
  have hval : mfcValue s 0x090 = Spec.yokeValue s := by
    rw [← yokeWord_eq_yokeValue hp]
    unfold mfcValue
    split <;> rfl
  refine completes_of_ok ((exec_mfc_plain h rfl (Bool.and_false _) (fun hn => absurd hn (by decide)) (by decide)).trans ?_)
  exact congrArg (fun v => settle s (.ok (s.wroteG d.toNat v))) hval

theorem mfcReadsControlRegisters : Spec.MfcReadsControlRegisters := by
  intro s l d n h hl hy
  have hbar (m : Nat) : mfcBarred m = true ↔ m ∈ [0x002, 0x004, 0x005, 0x012, 0x014, 0x0D0] := List.contains_iff_mem
  refine ⟨fun hc hn => traps_of_trapC (exec_mfc_barred h hl ?_ ?_), fun hn hyn ht hf => completes_of_ok ?_,
    fun h0 h1 hfl ho => completes_of_ok ?_, fun o k h0 h1 hfl ho hown => completes_of_ok ?_⟩
  · rw [hc, (hbar _).mpr hn]; rfl
  · rintro h11; rw [h11] at hn; revert hn; decide
  · have hb : (s.me.inCompute && mfcBarred n.toNat) = false := by
      by_cases hc : s.me.inCompute = true
      · rw [Bool.eq_false_iff.mpr (mt (hbar _).mp (hn hc)), Bool.and_false]
      · rw [Bool.eq_false_iff.mpr hc, Bool.false_and]
    have hfpc (h11 : n.toNat = 0x011) : fpcFree s = .ok () ∧ fpcWait s = .ok () := by
      obtain ⟨hq, hcap, hld⟩ := hf h11
      have hw : fpcWait s = .ok () := by rw [fpcWait, hq, hld]; rfl
      have ho : s.me.capOpen = false := by rw [Core.capOpen, hcap]
      exact ⟨by rw [fpcFree, hw, ho]; rfl, hw⟩
    have hval : mfcValue s n.toNat = Spec.ctlValue s n.toNat := by
      rw [← readCtl_eq_ctlValue s hyn ht]
      unfold mfcValue
      rw [hy]
      rfl
    rw [exec_mfc_plain h hl hb hfpc ht, hval]
  · refine exec_mfc_tsh h hl h0 h1 (inCompute_of_unflagged hfl) ?_
    rw [mfcTsh, ownPart_unflagged hfl, ho]; rfl
  · refine exec_mfc_tsh h hl h0 h1 (inCompute_of_unflagged hfl) ?_
    rw [mfcTsh, ownPart_unflagged hfl, hown, ho, ok_bind]
    exact if_pos ⟨rfl, rfl⟩

/-! ## MTC (R135, R137) -/

theorem getLsbD_maskWrite (m : Word × Word) (old v : Word) {i : Nat} (hi : i < 64) : (maskWrite m old v).getLsbD i =
    if m.1.getLsbD i then v.getLsbD i && !(m.2.getLsbD i && v.getLsbD i) else old.getLsbD i && !(m.2.getLsbD i && v.getLsbD i) := by
  rw [maskWrite, BitVec.getLsbD_and, BitVec.getLsbD_or, BitVec.getLsbD_and, BitVec.getLsbD_and, BitVec.getLsbD_not, BitVec.getLsbD_not,
    BitVec.getLsbD_and, decide_eq_true hi, Bool.true_and, Bool.true_and]
  cases m.1.getLsbD i <;> simp

theorem exec_mtc_plain {s : State} {l : Lit} {a : BitVec 5} {n : BitVec 12} (h : Ready s [a.toNat] [])
    (hw : mtcWait s n.toNat (gval s a.toNat) = .ok ()) (ha : mtcAccess s n.toNat = .ok ()) (hc : mtcCheck s n.toNat (gval s a.toNat) = .ok ())
    (ht : n.toNat < 0x060 ∨ 0x07F < n.toNat) : exec (.mtc l a n) s = settle s (.ok (s.updMe fun k =>
      k.setCtl n.toNat (maskWrite (ctlMask n.toNat) (k.ctl n.toNat) (gval s a.toNat)))) := by
  rw [exec_mtc, execMtc, withChecked_ready _ _ h]
  simp only [hw, ha, hc, ok_bind]
  rw [if_neg (by omega)]

theorem mtcWritesTheFields : Spec.MtcWritesTheFields := by
  intro s l a n h _ _ _ ht hw ha hc
  refine ⟨_, completes_of_ok (exec_mtc_plain h hw ha hc ht), fun i hi => ?_, fun m hm => ?_, ?_, ?_, rfl, rfl, rfl, fun c hcc => ?_⟩
  · rw [State.me_updMe, Core.ctl_setCtl, getLsbD_maskWrite _ _ _ hi]
  · rw [State.me_updMe, Core.ctl_setCtl_other _ _ hm]
  · rw [State.me_updMe, Core.setCtl_g]
  · rw [State.me_updMe, Core.setCtl_v]
  · exact State.core_updMe_other _ _ hcc

end Sys2Proof.Machine

namespace Sys2Proof

open Machine

/-- Settles O26: MFC reads what the owner of a register lets it, and MTC writes under the register's masks. -/
theorem controlRegisters : Obligations.ControlRegisters := ⟨mfcReadsYoke, mfcReadsControlRegisters, mtcWritesTheFields⟩

end Sys2Proof

end

section
/-! PROOFS. EXIT, YIELD, CANCEL and cores that their units leave (15 R355, R357; 02 R83, R191); then their statement. -/

namespace Sys2Proof.Machine

/-! ## General registers of a core whose unit leaves (R83, R355) -/

/-- Core c's general registers are the same in two states. -/
def SameG (c : Nat) (s u : State) : Prop := (u.core c).r.g = (s.core c).r.g

section
variable (c : Nat)

theorem SameG.refl (s : State) : SameG c s s := rfl

variable {c} in
theorem SameG.trans {s t u : State} (h : SameG c s t) (k : SameG c t u) : SameG c s u := Eq.trans k h

theorem sameG_setCore (s : State) {d : Nat} {k : Core} (h : k.r.g = (s.core d).r.g) : SameG c s (s.setCore d k) := by
  by_cases hd : c = d
  · subst hd; exact (congrArg (fun k => k.r.g) (State.core_setCore _ _ _)).trans h
  · exact congrArg (fun k => k.r.g) (State.core_setCore_other _ _ _ _ hd)

theorem sameG_foldl {α : Type} (f : State → α → State) (h : ∀ s a, SameG c s (f s a)) (l : List α) (s : State) : SameG c s (l.foldl f s) := by
  induction l generalizing s with
  | nil => exact .refl c s
  | cons a l ih => exact (h s a).trans (ih _)

theorem sameG_of_cores {s u : State} (h : u.cores = s.cores) : SameG c s u := by rw [SameG, State.core, State.core, h]

theorem sameG_journalLine (s : State) (d off : Nat) : SameG c s (journalLine s d off) := by
  unfold journalLine
  dsimp only
  split
  · exact .refl c s
  · refine SameG.trans (sameG_of_cores c (u := s.countEcc (localKey d (64 * (off / 64))) 64) rfl) (sameG_setCore c _ ?_)
    rw [Core.setCtl_g]
    rfl

theorem sameG_setBytes (s : State) (key : Nat) (bs : List Byte) : SameG c s (s.setBytes key bs) :=
  sameG_of_cores c (State.setBytes_frame bs s key).1

theorem sameG_setByte (s : State) (key : Nat) (b : Byte) : SameG c s (s.setByte key b) := sameG_of_cores c rfl

theorem sameG_setLocalByte (s : State) (d off : Nat) (b : Byte) : SameG c s (setLocalByte s d off b) := by
  have hj := sameG_journalLine c s d off
  unfold setLocalByte
  dsimp only
  refine SameG.trans ?_ (sameG_setByte c _ _ _)
  split
  · exact hj
  · refine (hj.trans (sameG_setBytes c _ (localKey d (4 * (off / 4))) [0, 0, 0, 0])).trans (sameG_setCore c _ ?_)
    exact congrArg (fun cs => (mget Core.idle cs d).r.g) (State.setBytes_frame [0, 0, 0, 0] (journalLine s d off) _).1.symm

theorem sameG_setLocal (s : State) (d off : Nat) (bs : List Byte) : SameG c s (setLocal s d off bs) := by
  induction bs generalizing s off with
  | nil => exact .refl c s
  | cons b bs ih => exact (sameG_setLocalByte c s d off b).trans (ih _ _)

theorem sameG_endCapture (s : State) (d : Nat) : SameG c s (endCapture s d) := by
  unfold endCapture
  split
  · exact .refl c s
  · next k _ =>
    dsimp only
    split
    · exact (sameG_of_cores c rfl).trans (sameG_setCore c _ rfl)
    · exact sameG_setCore c _ rfl

theorem sameG_endStream (s : State) (d b : Nat) : SameG c s (endStream s d b) := by
  unfold endStream
  split
  · exact .refl c s
  · dsimp only
    exact (sameG_setLocal c _ _ _ _).trans (sameG_setCore c _ (by rw [Core.setCtl_g]; rfl))

theorem sameG_putAway (s : State) (d : Nat) : SameG c s (putAway s d) :=
  (sameG_foldl c (fun s (x : Nat × Stream) => endStream s d x.1) (fun s x => sameG_endStream c s d x.1) _ _).trans
    (sameG_foldl c (fun s (x : Nat × Chute) => writeChute s d x.2) (fun s _ => sameG_setLocal c s d _ _) _ _)

theorem partnerCore_ne (d : Nat) : d ≠ partnerCore d := by
  unfold partnerCore
  split <;> omega

/-- The partner takes the leader's registers, which the leader keeps. -/
theorem sameG_mirrorPair (s : State) : SameG c s (mirrorPair s c) := by
  unfold mirrorPair
  split
  · exact congrArg (fun k => k.r.g) (State.core_setCore_other _ _ _ _ (partnerCore_ne c))
  · exact .refl c s

theorem sameG_unpair (s : State) (d : Nat) : SameG c s (unpair s d) := by
  have hm := mfind_map s.cores (fun x => if x.2.partnerOf = some d then
      (x.1, newEpoch { x.2 with partnerOf := none, r := { x.2.r with vl := 256, v := [], lanes := 0 } } 0) else x)
    (fun k => if k.partnerOf = some d then
      newEpoch { k with partnerOf := none, r := { k.r with vl := 256, v := [], lanes := 0 } } 0 else k) (fun x => by split <;> rfl) c
  unfold SameG State.core unpair mget
  dsimp only
  rw [hm]
  cases mfind s.cores c with
  | none => rfl
  | some k => simp only [Option.map_some, Option.getD_some]; split <;> rfl

theorem releaseMatrix_cores (s : State) (f : Nat) : (releaseMatrix s f).cores = s.cores := by
  unfold releaseMatrix
  split
  · rfl
  · split <;> rfl

end

/-- The state in which core c gives its unit up. -/
def beforeLeave (s : State) (c : Nat) : State :=
  let s := mirrorPair (putAway (endCapture s c) c) c
  unpair (if (s.core c).yoke.isSome then s.updCore (partnerCore c) fun k => { k with r := { k.r with vl := 256, v := [], lanes := 0 } } else s) c

/-- What a core holds without its unit. -/
def Core.left (k : Core) : Core :=
  { k with occ := none, r := { k.r with vl := 256, v := [], lanes := 0 }, seqr := [], vcap := none, wait := none, tfault := none,
           macroOp := none, aDone := false, preempt := none, yoke := none }

theorem Core.left_holds (k : Core) : k.left.occ = none ∧ k.left.r.g = k.r.g ∧ k.left.r.v = [] ∧ k.left.r.vl = 256 ∧ k.left.r.lanes = 0 ∧
    k.left.seqr = [] ∧ k.left.vcap = none ∧ k.left.wait = none ∧ k.left.yoke = none := ⟨rfl, rfl, rfl, rfl, rfl, rfl, rfl, rfl, rfl⟩

theorem leaveCore_eq (s : State) (c : Nat) : leaveCore s c = releaseMatrix ((beforeLeave s c).updCore c Core.left) (foldOf c) := rfl

theorem leaveCore_core (s : State) (c : Nat) : (leaveCore s c).core c = ((beforeLeave s c).core c).left := by
  rw [leaveCore_eq, State.core, releaseMatrix_cores]
  exact State.core_setCore _ _ _

theorem sameG_beforeLeave (s : State) (c : Nat) : SameG c s (beforeLeave s c) := by
  have h := ((sameG_endCapture c s c).trans (sameG_putAway c _ c)).trans (sameG_mirrorPair c _)
  unfold beforeLeave
  dsimp only
  refine (h.trans ?_).trans (sameG_unpair c _ c)
  split
  · exact congrArg (fun k => k.r.g) (State.core_setCore_other _ _ _ _ (partnerCore_ne c))
  · exact .refl c _

theorem leavingFreesTheCore : Spec.LeavingFreesTheCore := by
  intro s c k
  have hk : k = ((beforeLeave s c).core c).left := leaveCore_core s c
  have hg := sameG_beforeLeave s c
  clear_value k
  subst hk
  obtain ⟨ho, hr, hv, hvl, hl, hq, hcap, hw, hy⟩ := ((beforeLeave s c).core c).left_holds
  exact ⟨ho, hr.trans hg, hv, hvl, hl, hq, hcap, hw, hy⟩

/-! ## EXIT, YIELD and CANCEL (R355, R357) -/

theorem agentWord_ok {s : State} {p job v : Nat} (hb : agentBad s p job v 1 = false) (hh : s.me.hostFail = false) :
    agentWord s p job v = .ok ((agentRead s p job v).getD 0, agentCount s p job v 1) := by
  rw [agentWord, hb, hh]
  rfl

theorem exitAndYieldLeaveTheCore : Spec.ExitAndYieldLeaveTheCore := by
  intro s l o la ho hla hj
  refine ⟨fun hf hb hh hp => completes_of_ok ?_, fun hf => completes_of_ok ?_, fun hf => completes_of_ok ?_, fun hf => traps_of_trapC ?_⟩
  · have hex : exitBlock s o la = .ok (agentCount s o.part la.job (o.rcd + 8) 1) := by
      rw [exitBlock, agentWord_ok hb hh, ok_bind]
      exact if_pos hp
    rw [exec_exit, execExit, ho, hla]
    dsimp only
    rw [hj, ok_bind, hf, hex]
    rfl
  · rw [exec_exit, execExit, ho, hla]
    dsimp only
    rw [hj, ok_bind, hf]
    rfl
  · rw [exec_yield, execYield, unitOf, ho, hla]
    dsimp only
    rw [hf, if_neg Bool.false_ne_true, ok_bind, hj, ok_bind]
  · rw [exec_yield, execYield, unitOf, ho, hla]
    dsimp only
    rw [hf, if_pos rfl, error_bind]

section
variable {s : State} {l : Lit} {d a : BitVec 5} (h : Ready s [a.toNat] [d.toNat])

/-- The level that a CANCEL of the current core names. -/
abbrev cancelLv (s : State) (a : BitVec 5) : Level :=
  levelOf s (corePart s s.cur) (s.me.occ.map fun _ => s.me.job s) (gval s a.toNat)

/-- CANCEL after its register operands: its checks in order, then its answer and the cancel. -/
def cancelRes (s : State) (d a : BitVec 5) : Res State := do
  need (!s.me.inCompute) (trapC cDETERM)
  need (decide (cancelLv s a ≠ .nothing)) (trapC cILLEGAL)
  need (!s.me.occ.isSome || decide ((cancelLv s a).jobOf s (corePart s s.cur) = s.me.job s)) (trapC cPERMISSION)
  .ok (cancelLevel (s.wroteG d.toNat (BitVec.ofNat 64 (cancelLevel s (corePart s s.cur) (cancelLv s a)).1)) (corePart s s.cur)
    (cancelLv s a)).2

include h in
theorem exec_cancel_ready : exec (.cancel l d a) s = settle s (cancelRes s d a) := by
  have hd : boundG s.pre d.toNat = none := h.unbound (by simp)
  have hown : (if s.me.occ.isSome then some (s.me.job s) else none) = s.me.occ.map fun _ => s.me.job s := by
    cases s.me.occ <;> rfl
  rw [exec_cancel, execCancel, withRegs_ready _ h]
  simp only [hown, setG_plain _ hd, ok_bind]
  rfl

end

theorem cancelAnswersAndCancels : Spec.CancelAnswersAndCancels := by
  intro s l d a h p own lv
  refine ⟨fun hc => traps_of_trapC ?_, fun hc hn => traps_of_trapC ?_, fun j hc hn ho hj => traps_of_trapC ?_,
    fun hc hn ho => completes_of_ok ?_⟩
  · rw [exec_cancel_ready h, cancelRes, hc]; rfl
  · rw [exec_cancel_ready h, cancelRes, hc, Bool.not_false, need_true, ok_bind, decide_eq_false (not_not.mpr hn), need_false, error_bind]
  · obtain ⟨o, hocc, hjob⟩ := Option.map_eq_some_iff.mp ho
    have hno : (!s.me.occ.isSome || decide ((cancelLv s a).jobOf s (corePart s s.cur) = s.me.job s)) = false := by
      rw [hocc, decide_eq_false (fun e => hj (e.trans hjob))]; rfl
    rw [exec_cancel_ready h, cancelRes, hc, Bool.not_false, need_true, ok_bind, decide_eq_true hn, need_true, ok_bind, hno, need_false,
      error_bind]
  · have hok : (!s.me.occ.isSome || decide ((cancelLv s a).jobOf s (corePart s s.cur) = s.me.job s)) = true := by
      rcases ho with ho | ho
      · rw [Option.map_eq_none_iff.mp ho]; rfl
      · obtain ⟨o, hocc, hjob⟩ := Option.map_eq_some_iff.mp ho
        rw [decide_eq_true hjob.symm, Bool.or_true]
    rw [exec_cancel_ready h, cancelRes, hc, Bool.not_false, need_true, ok_bind, decide_eq_true hn, need_true, ok_bind, hok, need_true,
      ok_bind]

end Sys2Proof.Machine

namespace Sys2Proof

open Machine

/-- Settles O27: a core that is left keeps its general registers, and EXIT, YIELD and CANCEL end as their checks do. -/
theorem unitsLeaveTheirCores : Obligations.UnitsLeaveTheirCores := ⟨leavingFreesTheCore, exitAndYieldLeaveTheCore, cancelAnswersAndCancels⟩

end Sys2Proof

end

section
/-! PROOFS. Accesses: addresses, words checked, bytes written, and what own local memory keeps. -/

namespace Sys2Proof.Machine

/-! ## Addresses (R152, R153) -/

theorem windowOf_ownLocal {v : Nat} (h0 : localBase ≤ v) (h1 : v < localBase + 2 ^ 18) : windowOf v = .ownLocal := by
  have hl : localBase = 0x7F0000000000 := rfl
  have he : eventBase = 0x7C0000000000 := rfl
  have hc : commonBase = 0x7D0000000000 := rfl
  unfold windowOf
  rw [if_neg (by omega), if_neg (by omega), if_neg (by omega), if_neg (by omega), if_pos (by omega)]

theorem windowOf_common {v : Nat} (h0 : commonBase ≤ v) (h1 : v < commonBase + 2 ^ 28) : windowOf v = .common := by
  have he : eventBase = 0x7C0000000000 := rfl
  have hc : commonBase = 0x7D0000000000 := rfl
  unfold windowOf
  rw [if_neg (by omega), if_neg (by omega), if_pos (by omega)]

theorem bounds_of_common {v : Nat} (h : windowOf v = .common) : commonBase ≤ v ∧ v < commonBase + 2 ^ 28 := by
  unfold windowOf at h
  split at h
  · cases h
  · split at h
    · cases h
    · split at h
      · next hc => exact hc
      · split at h
        · cases h
        · split at h <;> cases h

/-- A scalar access has 1, 2, 4 or 8 bytes. -/
theorem size_cases : ∀ z : BitVec 2, 2 ^ z.toNat = 1 ∨ 2 ^ z.toNat = 2 ∨ 2 ^ z.toNat = 4 ∨ 2 ^ z.toNat = 8 := by decide

/-- A pointer's sum, judged (R150, R152). -/
theorem ptrAdd_inside {p : Word} {off : Int} (ht : p.toNat / 2 ^ 48 % 64 = 0) (h0 : 0 ≤ ptrSum p off) (h1 : ptrSum p off < 2 ^ 48) :
    ptrAdd p off = .ok (ptrSum p off).toNat := by
  have hin : ¬ (p.toNat / 2 ^ 48 % 64 ≠ 0 ∨ ptrSum p off < 0 ∨ 2 ^ 48 ≤ ptrSum p off) := by omega
  simp only [ptrAdd, fld_address, fld_reserved, if_neg hin]

theorem ptrAdd_outside {p : Word} {off : Int} (h : p.toNat / 2 ^ 48 % 64 ≠ 0 ∨ ptrSum p off < 0 ∨ 2 ^ 48 ≤ ptrSum p off) :
    ptrAdd p off = .error (trapC cTAG) := by
  simp only [ptrAdd, fld_address, fld_reserved, if_pos h]

/-! ## The words of an access (R154, R200) -/

/-- The blocks of a range lie in it, one after another. -/
theorem mem_parts {w v n : Nat} (hw : 0 < w) {x : Nat × Nat} (hx : x ∈ parts w v n) : v ≤ x.1 ∧ x.1 + x.2 ≤ v + n ∧ 0 < x.2 := by
  unfold parts at hx
  split at hx
  · cases hx
  · next hn =>
    obtain ⟨i, hi, rfl⟩ := List.mem_map.mp hx
    rw [List.mem_range] at hi
    have hlast := Nat.mul_div_le (v + n - 1) w
    have hq : w * (v / w) ≤ v := Nat.mul_div_le v w
    have hq' : v < w * (v / w) + w := by rw [← Nat.mul_succ]; exact Nat.lt_mul_div_succ v hw
    have hle : v / w ≤ (v + n - 1) / w := Nat.div_le_div_right (by omega)
    have hi' : w * (v / w + i) ≤ w * ((v + n - 1) / w) := Nat.mul_le_mul_left _ (by omega)
    have hge : w * (v / w) ≤ w * (v / w + i) := Nat.mul_le_mul_left _ (by omega)
    dsimp only
    omega

theorem foldlM_fixed {α β : Type} {f : β → α → Res β} {b : β} (l : List α) (h : ∀ a ∈ l, f b a = .ok b) : l.foldlM f b = .ok b := by
  induction l with
  | nil => rfl
  | cons a l ih => rw [List.foldlM_cons, h a (by simp), ok_bind, ih fun x hx => h x (by simp [hx])]

/-- An access each of whose words passes without a translation. -/
theorem checkRange_passes {s : State} {c v n : Nat} {w det : Bool} (h : ∀ x ∈ parts 4 v n, checkWord s c x.1 x.2 w det = .ok (none, s))
    (hl : (w && lentRange s c v n) = false) : checkRange s c v n w det = .ok ([], s) := by
  unfold checkRange
  rw [foldlM_fixed _ fun x hx => by rw [h x hx]; rfl]
  show ((need (!(w && lentRange s c v n)) (.stall s)) >>= fun _ => (.ok ([], s) : Res (SMap Nat × State))) = .ok ([], s)
  rw [hl]
  rfl

theorem checkAccess_passes {s : State} {c v n : Nat} {w det : Bool} (h : ∀ x ∈ parts 4 v n, checkWord s c x.1 x.2 w det = .ok (none, s))
    (hl : (w && lentRange s c v n) = false) : checkAccess s c v n w det = .ok ([], s) := by
  rw [checkAccess, checkRange_passes h hl]

/-- Bytes without an uncorrectable error among bytes without one (R240). -/
theorem bad_of_within {s : State} {key n key' n' : Nat} (h : s.bad key n = false) (h0 : key ≤ key') (h1 : key' + n' ≤ key + n) :
    s.bad key' n' = false := by
  simp only [State.bad, List.any_eq_false, Bool.and_eq_true, codeHit, decide_eq_true_eq, not_and, not_lt] at h ⊢
  intro e he hb hlt
  have := h e he hb (by omega)
  omega

/-- Bytes of one 64 MiB block of the Common lie next to each other (R245). -/
theorem commonKey_add (s : State) (p : Nat) {o i : Nat} (h : o % 2 ^ 26 + i < 2 ^ 26) : commonKey s p (o + i) = commonKey s p o + i := by
  have hd : (o + i) / 2 ^ 26 = o / 2 ^ 26 := by omega
  have hm : (o + i) % 2 ^ 26 = o % 2 ^ 26 + i := by omega
  simp only [commonKey, place, hd, hm]
  omega

/-! ## Bytes written -/

theorem byte_setBytes (bs : List Byte) (s : State) (k j : Nat) :
    (s.setBytes k bs).byte j = if k ≤ j ∧ j < k + bs.length then bs.getD (j - k) 0 else s.byte j := by
  induction bs generalizing s k with
  | nil => rw [if_neg (by simp)]; rfl
  | cons b bs ih =>
    rw [State.setBytes, ih, List.length_cons]
    by_cases hj : j = k
    · subst hj
      rw [if_neg (by omega), if_pos (by omega), State.byte_setByte, Nat.sub_self, List.getD_cons_zero]
    · rw [State.byte_setByte_other _ _ _ _ hj]
      by_cases h : k ≤ j ∧ j < k + (bs.length + 1)
      · rw [if_pos (by omega), if_pos h, show j - k = j - (k + 1) + 1 by omega, List.getD_cons_succ]
      · rw [if_neg (by omega), if_neg h]

@[simp] theorem length_leBytes (n x : Nat) : (leBytes n x).length = n := by
  induction n generalizing x with
  | zero => rfl
  | succ n ih => rw [leBytes, List.length_cons, ih]

theorem getD_leBytes {n i : Nat} (h : i < n) (x : Nat) : (leBytes n x).getD i 0 = BitVec.ofNat 8 (x / 2 ^ (8 * i)) := by
  induction n generalizing i x with
  | zero => omega
  | succ n ih =>
    rw [leBytes]
    cases i with
    | zero => rw [List.getD_cons_zero, Nat.mul_zero, pow_zero, Nat.div_one]
    | succ i => rw [List.getD_cons_succ, ih (by omega), Nat.div_div_eq_div_mul, show 256 * 2 ^ (8 * i) = 2 ^ (8 * (i + 1)) by
        rw [Nat.mul_succ, pow_add]; ring]

@[simp] theorem length_bytes (s : State) (key n : Nat) : (s.bytes key n).length = n := by simp [State.bytes]

/-! ## Own local memory (R155, R239, R242) -/

/-- What a core's local writes leave: everything but its local bytes, their valid bits, marks and journal. -/
structure WritesLocal (c : Nat) (s t : State) : Prop where
  folds : t.folds = s.folds
  parts : t.parts = s.parts
  cur : t.cur = s.cur
  latch : t.latch = s.latch
  clk : t.clk = s.clk
  layout : t.layout = s.layout
  nv : t.nv = s.nv
  others : ∀ d, d ≠ c → t.core d = s.core d
  occ : (t.core c).occ = (s.core c).occ
  g : (t.core c).r.g = (s.core c).r.g
  v : (t.core c).r.v = (s.core c).r.v
  pc : (t.core c).r.pc = (s.core c).r.pc
  npc : (t.core c).r.npc = (s.core c).r.npc
  stores : (t.core c).stores = (s.core c).stores
  streams : (t.core c).streams = (s.core c).streams

theorem WritesLocal.refl (c : Nat) (s : State) : WritesLocal c s s :=
  ⟨rfl, rfl, rfl, rfl, rfl, rfl, rfl, fun _ _ => rfl, rfl, rfl, rfl, rfl, rfl, rfl, rfl⟩

theorem WritesLocal.trans {c : Nat} {s t u : State} (h : WritesLocal c s t) (k : WritesLocal c t u) : WritesLocal c s u :=
  ⟨k.folds.trans h.folds, k.parts.trans h.parts, k.cur.trans h.cur, k.latch.trans h.latch, k.clk.trans h.clk, k.layout.trans h.layout,
    k.nv.trans h.nv, fun d hd => (k.others d hd).trans (h.others d hd), k.occ.trans h.occ, k.g.trans h.g, k.v.trans h.v, k.pc.trans h.pc,
    k.npc.trans h.npc, k.stores.trans h.stores, k.streams.trans h.streams⟩

theorem WritesLocal.of_setCore {c : Nat} (s : State) {k : Core} (hocc : k.occ = (s.core c).occ) (hg : k.r.g = (s.core c).r.g)
    (hv : k.r.v = (s.core c).r.v) (hpc : k.r.pc = (s.core c).r.pc) (hnpc : k.r.npc = (s.core c).r.npc)
    (hst : k.stores = (s.core c).stores) (hstr : k.streams = (s.core c).streams) : WritesLocal c s (s.setCore c k) := by
  have hk : (s.setCore c k).core c = k := State.core_setCore _ _ _
  exact ⟨rfl, rfl, rfl, rfl, rfl, rfl, rfl, fun d hd => State.core_setCore_other _ _ _ _ hd, by rw [hk, hocc], by rw [hk, hg], by rw [hk, hv],
    by rw [hk, hpc], by rw [hk, hnpc], by rw [hk, hst], by rw [hk, hstr]⟩

theorem setBytes_writesLocal (c : Nat) (s : State) (key : Nat) (bs : List Byte) : WritesLocal c s (s.setBytes key bs) := by
  obtain ⟨hc, hf, hp, hcur, hclk, -, hlay, hnv, hl⟩ := State.setBytes_frame bs s key
  have hcore (d : Nat) : (s.setBytes key bs).core d = s.core d := by rw [State.core, State.core, hc]
  exact ⟨hf, hp, hcur, hl, hclk, hlay, hnv, fun d _ => hcore d, by rw [hcore], by rw [hcore], by rw [hcore], by rw [hcore], by rw [hcore],
    by rw [hcore], by rw [hcore]⟩

theorem setByte_writesLocal (c : Nat) (s : State) (key : Nat) (b : Byte) : WritesLocal c s (s.setByte key b) :=
  setBytes_writesLocal c s key [b]

theorem countEcc_writesLocal (c : Nat) (s : State) (key n : Nat) : WritesLocal c s (s.countEcc key n) :=
  ⟨rfl, rfl, rfl, rfl, rfl, rfl, rfl, fun _ _ => rfl, rfl, rfl, rfl, rfl, rfl, rfl, rfl⟩

/-- A core with another journal (R243). -/
def Core.journalled (k : Core) (j sp : List JEntry) (bad : Bool) (l : Word) : Core :=
  { k with journal := j, jspill := sp, snapBad := bad }.setCtl 0x020 l

theorem journalLine_writesLocal (s : State) (c off : Nat) : WritesLocal c s (journalLine s c off) := by
  have put (t : State) (j sp : List JEntry) (bad : Bool) (l : Word) : WritesLocal c t (t.setCore c ((t.core c).journalled j sp bad l)) :=
    .of_setCore t rfl rfl rfl rfl rfl rfl rfl
  unfold journalLine
  dsimp only
  split
  · exact .refl c s
  · exact (countEcc_writesLocal c s (localKey c (64 * (off / 64))) 64).trans (put _ _ _ _ _)

/-- The journal holds no valid bits. -/
theorem journalLine_valid (s : State) (c off d : Nat) : ((journalLine s c off).core d).valid = (s.core d).valid := by
  have put (t : State) (j sp : List JEntry) (bad : Bool) (l : Word) :
      ((t.setCore c ((t.core c).journalled j sp bad l)).core d).valid = (t.core d).valid := by
    by_cases hd : d = c
    · subst hd; rw [State.core_setCore]; rfl
    · rw [State.core_setCore_other _ _ _ _ hd]
  unfold journalLine
  dsimp only
  split
  · rfl
  · exact put (s.countEcc (localKey c (64 * (off / 64))) 64) _ _ _ _

end Sys2Proof.Machine

end

section
/-! PROOFS. LD and ST of free registers: the address, its waits and its alignment. -/

namespace Sys2Proof.Machine

/-! ## LD and ST of free registers (R152, R153) -/

theorem need_holds {p : Prop} [Decidable p] (h : p) (e : Stop) : need (decide p) e = .ok () := by rw [decide_eq_true h, need_true]

theorem need_fails {p : Prop} [Decidable p] (h : ¬ p) (e : Stop) : need (decide p) e = .error e := by rw [decide_eq_false h, need_false]

theorem size_pos (z : BitVec 2) : 0 < 2 ^ z.toNat := Nat.two_pow_pos _

theorem ld_form {x : BitVec 1} {z : BitVec 2} (h : x = 0 ∨ z ≠ 3) : x = 0 ∨ 2 ^ z.toNat ≠ 8 := by
  have hz : ∀ z : BitVec 2, z ≠ 3 → 2 ^ z.toNat ≠ 8 := by decide
  exact h.imp_right (hz z)

section
variable {s : State} {d a r : BitVec 5} {z : BitVec 2} {x : BitVec 1} {o : BitVec 12} {l : Lit}

theorem exec_ld_ready (h : Ready s [a.toNat] [d.toNat]) (hx : x = 0 ∨ z ≠ 3) :
    exec (.ld l d a z x o) s = settle s (atPtr (gval s a.toNat) (o.toInt * (2 ^ z.toNat : Nat)) (fun v => loadWait s v (2 ^ z.toNat)) >>= fun _ =>
      ptrAdd (gval s a.toNat) (o.toInt * (2 ^ z.toNat : Nat)) >>= fun v => doLoad s s v (2 ^ z.toNat) d.toNat (x == 1)) := by
  rw [exec_ld, execLd]
  dsimp only
  rw [need_holds (ld_form hx), ok_bind, withChecked_ready _ _ h]

theorem exec_st_ready (h : Ready s [a.toNat, r.toNat] []) :
    exec (.st l r a z o) s = settle s (atPtr (gval s a.toNat) (o.toInt * (2 ^ z.toNat : Nat)) (fun v => storeWait s v (2 ^ z.toNat)) >>= fun _ =>
      ptrAdd (gval s a.toNat) (o.toInt * (2 ^ z.toNat : Nat)) >>= fun v => doStore s v (leBytes (2 ^ z.toNat) (gval s r.toNat).toNat) .ok) := by
  have hp (m : Option Nat) (t : State) : popLater s [a.toNat] [r.toNat] m t = .ok (m, t) :=
    popLater_ready (dests := []) m t (h.mono (by simp) (by simp))
  rw [exec_st, execSt, withLater_ready _ _ h]
  simp only [hp, ok_bind, countPops_none]

/-- The address of a load or store whose pointer and sum are in range. -/
theorem address_eq (ht : (gval s a.toNat).toNat / 2 ^ 48 % 64 = 0) (h0 : 0 ≤ Spec.address s a o (2 ^ z.toNat))
    (h1 : Spec.address s a o (2 ^ z.toNat) < 2 ^ 48) :
    ptrAdd (gval s a.toNat) (o.toInt * (2 ^ z.toNat : Nat)) = .ok (Spec.address s a o (2 ^ z.toNat)).toNat := ptrAdd_inside ht h0 h1

theorem address_outside (h : (gval s a.toNat).toNat / 2 ^ 48 % 64 ≠ 0 ∨ Spec.address s a o (2 ^ z.toNat) < 0 ∨
    2 ^ 48 ≤ Spec.address s a o (2 ^ z.toNat)) : ptrAdd (gval s a.toNat) (o.toInt * (2 ^ z.toNat : Nat)) = .error (trapC cTAG) :=
  ptrAdd_outside h

theorem loadWait_ok {v n : Nat} (hl : s.me.loads.length < 16) (hu : Spec.unhindered s clsR v n) (hc : Spec.covered s v n) :
    loadWait s v n = .ok () := by
  obtain ⟨hb, hf⟩ := hu
  unfold loadWait
  dsimp only
  rw [hb, hf, need_holds hl]
  cases hs : s.me.lastStore s s.cur (v, n) with
  | none => rfl
  | some b =>
    have hw : within (v, n) (b.va, b.bytes.length) = true := decide_eq_true (hc b hs)
    simp only [hw]
    rfl

theorem storeWait_ok {v n : Nat} (hu : Spec.unhindered s clsW v n) (hl : s.me.loadsMeet s s.cur (v, n) = false) (hr : Spec.storeRoom s v) :
    storeWait s v n = .ok () := by
  obtain ⟨hb, hf⟩ := hu
  unfold storeWait
  dsimp only
  rw [hb, hf, hl]
  rcases hr with hw | ⟨hw, hs⟩ | ⟨hw, ⟨hy, hs⟩ | ⟨y, hy, hs⟩⟩
  · rw [hw]; rfl
  · rw [hw, hs]; rfl
  · rw [hy]
    cases h : windowOf v <;> simp_all [need, decide_eq_true hs] <;> rfl
  · rw [hy]
    cases h : windowOf v <;> simp_all [need, decide_eq_true hs] <;> rfl

/-- A load whose waits are over goes on at its address. -/
theorem exec_ld_at (h : Ready s [a.toNat] [d.toNat]) (hx : x = 0 ∨ z ≠ 3) (ht : (gval s a.toNat).toNat / 2 ^ 48 % 64 = 0)
    (h0 : 0 ≤ Spec.address s a o (2 ^ z.toNat)) (h1 : Spec.address s a o (2 ^ z.toNat) < 2 ^ 48)
    (hw : loadWait s (Spec.address s a o (2 ^ z.toNat)).toNat (2 ^ z.toNat) = .ok ()) :
    exec (.ld l d a z x o) s = settle s (doLoad s s (Spec.address s a o (2 ^ z.toNat)).toNat (2 ^ z.toNat) d.toNat (x == 1)) := by
  have hp := address_eq (z := z) (o := o) ht h0 h1
  rw [exec_ld_ready h hx, atPtr, hp]
  exact congrArg (fun w => settle s (w >>= fun _ => _)) hw

theorem exec_st_at (h : Ready s [a.toNat, r.toNat] []) (ht : (gval s a.toNat).toNat / 2 ^ 48 % 64 = 0)
    (h0 : 0 ≤ Spec.address s a o (2 ^ z.toNat)) (h1 : Spec.address s a o (2 ^ z.toNat) < 2 ^ 48)
    (hw : storeWait s (Spec.address s a o (2 ^ z.toNat)).toNat (2 ^ z.toNat) = .ok ()) :
    exec (.st l r a z o) s =
      settle s (doStore s (Spec.address s a o (2 ^ z.toNat)).toNat (leBytes (2 ^ z.toNat) (gval s r.toNat).toNat) .ok) := by
  have hp := address_eq (z := z) (o := o) ht h0 h1
  rw [exec_st_ready h, atPtr, hp]
  exact congrArg (fun w => settle s (w >>= fun _ => _)) hw

end

theorem doLoad_misaligned {s : State} {v n d : Nat} {sx : Bool} (hw : loadWait s v n = .ok ()) (hv : v % n ≠ 0) :
    doLoad s s v n d sx = .error (trapA cMISALIGN false v) := by
  unfold doLoad
  dsimp only
  rw [hw, ok_bind, need_fails hv]
  rfl

theorem doStore_misaligned {s : State} {v : Nat} {bs : List Byte} {pop : State → Res State} (hw : storeWait s v bs.length = .ok ())
    (hv : v % bs.length ≠ 0) : doStore s v bs pop = .error (trapA cMISALIGN true v) := by
  unfold doStore
  dsimp only
  rw [hw, ok_bind, need_fails hv]
  rfl

/-- An integer that is not a multiple of n, as a natural number. -/
theorem toNat_emod_ne {v : Int} {n : Nat} (h0 : 0 ≤ v) (h : v % n ≠ 0) : v.toNat % n ≠ 0 := by
  intro hn
  apply h
  rw [← Int.toNat_of_nonneg h0, ← Int.natCast_emod, hn]
  rfl

end Sys2Proof.Machine

namespace Sys2Proof
open Machine

/-- Settles O28: the address is formed and judged before the alignment, which is judged once the waits are over. -/
theorem badAddressesTrapLoadsAndStores : Obligations.BadAddressesTrapLoadsAndStores := by
  intro s l d a z x o hr _ hx n v
  have hld : Ready s [a.toNat] [d.toNat] := hr.mono (by simp) (by simp)
  have hst : Ready s [a.toNat, d.toNat] [] := hr.mono (by simp) (by simp)
  refine ⟨fun h => ⟨traps_of_trapC ?_, traps_of_trapC ?_⟩, fun ht h0 h1 hm hu hl hc => traps_of_trapA (w := false) (a := v.toNat) ?_,
    fun ht h0 h1 hm hu hl hc => traps_of_trapA (w := true) (a := v.toNat) ?_⟩
  · rw [exec_ld_ready hld hx, atPtr, address_outside h]; rfl
  · rw [exec_st_ready hst, atPtr, address_outside h]; rfl
  · have hw := loadWait_ok hl hu hc
    rw [exec_ld_at hld hx ht h0 h1 hw, doLoad_misaligned hw (toNat_emod_ne h0 hm)]
  · have hw := storeWait_ok hu hl hc
    rw [exec_st_at hst ht h0 h1 hw, doStore_misaligned (by rw [length_leBytes]; exact hw) (by rw [length_leBytes]; exact toNat_emod_ne h0 hm)]

end Sys2Proof

end

section
/-! PROOFS. Own local memory: what its bytes read as, and the loads and stores of it. -/

namespace Sys2Proof.Machine

/-! ## Places of local bytes (R239, R242) -/

theorem localKey_space {c off : Nat} (hc : c < 6148) (ho : off < 2 ^ 18) : localKey c off / 2 ^ 64 = 4 := by
  simp only [localKey, place]; omega

theorem localKey_core {c off : Nat} (hc : c < 6148) (ho : off < 2 ^ 18) : localKey c off % 2 ^ 64 / 2 ^ 18 = c := by
  simp only [localKey, place]; omega

theorem localKey_offset {c off : Nat} (ho : off < 2 ^ 18) : localKey c off % 2 ^ 18 = off := by
  simp only [localKey, place]; omega

/-- A key of the local memories is a core's local byte. -/
theorem eq_localKey {key : Nat} (h : key / 2 ^ 64 = 4) : key = localKey (key % 2 ^ 64 / 2 ^ 18) (key % 2 ^ 18) := by
  simp only [localKey, place]; omega

theorem readKey_local (s : State) {c off : Nat} (hc : c < 6148) (ho : off < 2 ^ 18) :
    readKey s (localKey c off) = if (s.core c).validAt off then s.byte (localKey c off) else 0 := by
  rw [readKey, if_pos (localKey_space hc ho), localKey_core hc ho, localKey_offset ho]

theorem writeKey_local (s : State) {c off : Nat} (hc : c < 6148) (ho : off < 2 ^ 18) (b : Byte) :
    writeKey s (localKey c off) b = setLocalByte s c off b := by
  rw [writeKey, if_pos (localKey_space hc ho), localKey_core hc ho, localKey_offset ho]

/-! ## A local byte written (R155, R242) -/

/-- The word of a local byte, made valid. -/
def wordMadeValid (s : State) (c off : Nat) : State :=
  if (s.core c).validAt off then s
  else (s.setBytes (localKey c (4 * (off / 4))) [0, 0, 0, 0]).updCore c fun k => { k with valid := mset false k.valid (off / 4) true }

theorem setLocalByte_eq (s : State) (c off : Nat) (b : Byte) :
    setLocalByte s c off b = (wordMadeValid (journalLine s c off) c off).setByte (localKey c off) b := by
  have hk (t : State) (key : Nat) (bs : List Byte) : (t.setBytes key bs).core c = t.core c := by
    rw [State.core, State.core, (State.setBytes_frame bs t key).1]
  unfold setLocalByte wordMadeValid
  dsimp only
  rw [State.updCore, hk]
  rfl

theorem wordMadeValid_byte (s : State) (c off key : Nat) :
    (wordMadeValid s c off).byte key =
      if (s.core c).validAt off = false ∧ localKey c (4 * (off / 4)) ≤ key ∧ key < localKey c (4 * (off / 4)) + 4 then 0 else s.byte key := by
  unfold wordMadeValid
  split
  · next h => rw [if_neg (by simp [h])]
  · next h =>
    have hz : ∀ i, ([0, 0, 0, 0] : List Byte).getD i 0 = 0 := fun i => by
      rcases i with _ | _ | _ | _ | i <;> rfl
    show (s.setBytes _ _).byte key = _
    rw [byte_setBytes, hz]
    simp [h]

theorem wordMadeValid_valid (s : State) (c off d o : Nat) :
    ((wordMadeValid s c off).core d).validAt o = (if d = c ∧ o / 4 = off / 4 then true else (s.core d).validAt o) := by
  unfold wordMadeValid
  split
  · next h =>
    split
    · next hd => rw [hd.1, Core.validAt, hd.2]; exact h
    · rfl
  · have hk (e : Nat) : (s.setBytes (localKey c (4 * (off / 4))) [0, 0, 0, 0]).core e = s.core e := by
      rw [State.core, State.core, (State.setBytes_frame _ s _).1]
    by_cases hd : d = c
    · subst hd
      rw [State.updCore, State.core_setCore, hk]
      by_cases ho : o / 4 = off / 4
      · rw [if_pos ⟨rfl, ho⟩, Core.validAt, ho, mget_mset_same]
      · rw [if_neg fun h => ho h.2, Core.validAt, mget_mset_other _ _ _ _ _ ho]
        rfl
    · rw [State.updCore, State.core_setCore_other _ _ _ _ hd, hk, if_neg fun h => hd h.1]

theorem wordMadeValid_writesLocal (s : State) (c off : Nat) : WritesLocal c s (wordMadeValid s c off) := by
  unfold wordMadeValid
  split
  · exact .refl c s
  · exact (setBytes_writesLocal c s _ _).trans (.of_setCore _ rfl rfl rfl rfl rfl rfl rfl)

theorem setLocalByte_writesLocal (s : State) (c off : Nat) (b : Byte) : WritesLocal c s (setLocalByte s c off b) := by
  rw [setLocalByte_eq]
  exact ((journalLine_writesLocal s c off).trans (wordMadeValid_writesLocal _ c off)).trans (setByte_writesLocal c _ _ b)

/-- A local byte written is the byte read there, and no other byte reads otherwise than before. -/
theorem readKey_setLocalByte (s : State) {c off : Nat} (hc : c < 6148) (ho : off < 2 ^ 18) (b : Byte) (key : Nat) :
    readKey (setLocalByte s c off b) key = if key = localKey c off then b else readKey s key := by
  have hcore (d : Nat) (t : State) (k : Nat) (x : Byte) : (t.setByte k x).core d = t.core d := rfl
  have hj (k : Nat) : (journalLine s c off).byte k = s.byte k := by rw [State.byte, State.byte, journalLine_mem]
  have hv (d o : Nat) : ((journalLine s c off).core d).validAt o = (s.core d).validAt o := by
    rw [Core.validAt, journalLine_valid, Core.validAt]
  rw [setLocalByte_eq]
  by_cases hkey : key = localKey c off
  · subst hkey
    rw [if_pos rfl, readKey_local _ hc ho, hcore, wordMadeValid_valid, State.byte_setByte]
    simp
  · rw [if_neg hkey]
    by_cases h4 : key / 2 ^ 64 = 4
    · rw [readKey, readKey, if_pos h4, if_pos h4, hcore, wordMadeValid_valid, State.byte_setByte_other _ _ _ _ hkey, wordMadeValid_byte, hj, hv, hv]
      by_cases hw : key % 2 ^ 64 / 2 ^ 18 = c ∧ key % 2 ^ 18 / 4 = off / 4
      · have hrange : localKey c (4 * (off / 4)) ≤ key ∧ key < localKey c (4 * (off / 4)) + 4 := by
          obtain ⟨h1, h2⟩ := hw
          simp only [localKey, place]
          omega
        have hsame : (s.core (key % 2 ^ 64 / 2 ^ 18)).validAt (key % 2 ^ 18) = (s.core c).validAt off := by
          rw [hw.1, Core.validAt, hw.2, Core.validAt]
        rw [hsame, if_pos hw]
        cases (s.core c).validAt off <;> simp [hrange]
      · have hrange : ¬ (localKey c (4 * (off / 4)) ≤ key ∧ key < localKey c (4 * (off / 4)) + 4) := by
          simp only [localKey, place]
          omega
        simp only [if_neg hw, hrange, and_false, if_false]
    · have hrange : ¬ (localKey c (4 * (off / 4)) ≤ key ∧ key < localKey c (4 * (off / 4)) + 4) := by
        simp only [localKey, place]
        omega
      rw [readKey, readKey, if_neg h4, if_neg h4, State.byte_setByte_other _ _ _ _ hkey, wordMadeValid_byte, hj, if_neg fun h => hrange h.2]

theorem setLocal_writesLocal (bs : List Byte) (s : State) (c off : Nat) : WritesLocal c s (setLocal s c off bs) := by
  induction bs generalizing s off with
  | nil => exact .refl c s
  | cons b bs ih => exact (setLocalByte_writesLocal s c off b).trans (ih _ _)

/-- What local bytes read as after local bytes have been written. -/
theorem readKey_setLocal (bs : List Byte) (s : State) {c off : Nat} (hc : c < 6148) (ho : off + bs.length ≤ 2 ^ 18) (key : Nat) :
    readKey (setLocal s c off bs) key =
      if localKey c off ≤ key ∧ key < localKey c off + bs.length then bs.getD (key - localKey c off) 0 else readKey s key := by
  induction bs generalizing s off with
  | nil => rw [if_neg (by simp)]; rfl
  | cons b bs ih =>
    have hnext : localKey c (off + 1) = localKey c off + 1 := by simp only [localKey, place]; omega
    rw [List.length_cons] at ho ⊢
    rw [setLocal, ih _ (by omega), readKey_setLocalByte _ hc (by omega), hnext]
    by_cases hk : key = localKey c off
    · subst hk
      rw [if_neg (by omega), if_pos rfl, if_pos (by omega), Nat.sub_self, List.getD_cons_zero]
    · rw [if_neg hk]
      by_cases h : localKey c off ≤ key ∧ key < localKey c off + (bs.length + 1)
      · rw [if_pos (by omega), if_pos h, show key - localKey c off = key - (localKey c off + 1) + 1 by omega, List.getD_cons_succ]
      · rw [if_neg (by omega), if_neg h]

/-! ## An access of own local memory (R154, R155) -/

theorem placeOf_ownLocal (s : State) (c : Nat) (tr : SMap Nat) {v : Nat} (h0 : localBase ≤ v) (h1 : v < localBase + 2 ^ 18) :
    placeOf s c tr v = some (localKey c (v - localBase)) := by
  rw [placeOf, windowOf_ownLocal h0 h1]

theorem writeRange_ownLocal (bs : List Byte) (s : State) {c : Nat} (tr : SMap Nat) {v : Nat} (hc : c < 6148) (h0 : localBase ≤ v)
    (h1 : v + bs.length ≤ localBase + 2 ^ 18) : writeRange s c tr v bs = setLocal s c (v - localBase) bs := by
  induction bs generalizing s v with
  | nil => rfl
  | cons b bs ih =>
    rw [List.length_cons] at h1
    rw [writeRange, placeOf_ownLocal s c tr h0 (by omega)]
    dsimp only
    rw [writeKey_local s hc (by omega), ih _ (by omega) (by omega), setLocal, show v + 1 - localBase = v - localBase + 1 by omega]

theorem checkWord_ownLocal_write {s : State} {c v n : Nat} {det : Bool} (h0 : localBase ≤ v) (h1 : v < localBase + 2 ^ 18)
    (hl : v - localBase + n ≤ (s.core c).lmem s) (hm : ∀ a, v - localBase ≤ a → a < v - localBase + n → (s.core c).marginAt a = false) :
    checkWord s c v n true det = .ok (none, s) := by
  have hg : (span (v - localBase) n).any (fun a => (s.core c).marginAt a) = false := by
    rw [List.any_eq_false]
    intro a ha
    rw [mem_span] at ha
    simp [hm a ha.1 ha.2]
  unfold checkWord
  dsimp only
  rw [windowOf_ownLocal h0 h1]
  dsimp only
  rw [need_holds hl, hg]
  rfl

theorem checkWord_ownLocal_read {s : State} {c v n : Nat} {det : Bool} (h0 : localBase ≤ v) (h1 : v < localBase + 2 ^ 18)
    (hl : v - localBase + n ≤ (s.core c).lmem s)
    (hv : ∀ a, v - localBase ≤ a → a < v - localBase + n → (s.core c).validAt a = true ∧ (s.core c).staleAt a = none)
    (hb : s.bad (localKey c (v - localBase)) n = false) : checkWord s c v n false det = .ok (none, s) := by
  have hst : (span (v - localBase) n).any (fun a => ((s.core c).staleAt a).isSome) = false := by
    rw [List.any_eq_false]
    intro a ha
    rw [mem_span] at ha
    simp [(hv a ha.1 ha.2).2]
  have hin : firstInvalid (s.core c) (v - localBase) n = none := by
    rw [firstInvalid, List.find?_eq_none]
    intro a ha
    rw [mem_span] at ha
    simp [(hv a ha.1 ha.2).1]
  unfold checkWord
  dsimp only
  rw [windowOf_ownLocal h0 h1]
  dsimp only
  rw [need_holds hl, hst, hin, hb]
  simp [need]

theorem lentRange_of_writable {s : State} {v n : Nat} (h : Spec.localWritable s (v - localBase) n) : lentRange s s.cur v n = false := by
  have hl : (span (v - localBase) n).any (fun a => (s.core s.cur).lentAt a) = false := by
    rw [List.any_eq_false]
    intro a ha
    rw [mem_span] at ha
    exact Bool.eq_false_iff.mp (h.2 a ha.1 ha.2).2
  rw [lentRange, hl, Bool.and_false]

theorem checkAccess_ownLocal_write {s : State} {v n : Nat} {det : Bool} (h0 : localBase ≤ v) (h1 : v + n ≤ localBase + 2 ^ 18)
    (hw : Spec.localWritable s (v - localBase) n) : checkAccess s s.cur v n true det = .ok ([], s) := by
  refine checkAccess_passes (fun x hx => ?_) (by rw [lentRange_of_writable hw]; rfl)
  obtain ⟨hlo, hhi, hp⟩ := mem_parts (by decide) hx
  obtain ⟨hl, hm⟩ := hw
  refine checkWord_ownLocal_write (by omega) (by omega) ?_ fun a ha hb => (hm a (by omega) (by omega)).1
  show _ ≤ s.me.lmem s
  omega

theorem checkAccess_ownLocal_read {s : State} {v n : Nat} {det : Bool} (h0 : localBase ≤ v) (h1 : v + n ≤ localBase + 2 ^ 18)
    (hl : v - localBase + n ≤ s.me.lmem s)
    (hv : ∀ a, v - localBase ≤ a → a < v - localBase + n → s.me.validAt a = true ∧ s.me.staleAt a = none)
    (hb : s.bad (localKey s.cur (v - localBase)) n = false) : checkAccess s s.cur v n false det = .ok ([], s) := by
  refine checkAccess_passes (fun x hx => ?_) rfl
  obtain ⟨hlo, hhi, hp⟩ := mem_parts (by decide) hx
  refine checkWord_ownLocal_read (by omega) (by omega) ?_ (fun a ha hb => hv a (by omega) (by omega)) (bad_of_within hb ?_ ?_)
  · show _ ≤ s.me.lmem s
    omega
  · simp only [localKey, place]; omega
  · simp only [localKey, place]; omega

/-- A store to own local memory whose checks pass writes its bytes. -/
theorem doStore_ownLocal {s : State} {v : Nat} {bs : List Byte} (hc : s.cur < 6148) (hw : storeWait s v bs.length = .ok ())
    (ha : v % bs.length = 0) (h0 : localBase ≤ v) (h1 : v < localBase + 2 ^ 18) (h2 : v + bs.length ≤ localBase + 2 ^ 18)
    (hs : Spec.localWritable s (v - localBase) bs.length) : doStore s v bs .ok = .ok (setLocal s s.cur (v - localBase) bs) := by
  have hwin := windowOf_ownLocal h0 h1
  unfold doStore
  dsimp only
  rw [hw, ok_bind, need_holds ha, ok_bind, if_neg (by rw [hwin]; decide), checkAccess_ownLocal_write h0 h2 hs]
  dsimp only
  rw [ok_bind, if_pos hwin, writeRange_ownLocal bs s [] hc h0 h2]

/-- An address of own local memory leaves no 48 bits. -/
theorem lt_of_ownLocal {v : Int} {n : Nat} (h0 : 0 ≤ v) (h1 : v.toNat + n ≤ localBase + 2 ^ 18) : v < 2 ^ 48 := by
  have hb : localBase = 0x7F0000000000 := rfl
  omega

/-- The bytes of own local memory at consecutive offsets. -/
theorem localKey_add (c off i : Nat) : localKey c (off + i) = localKey c off + i := by
  simp only [localKey, place]; omega

theorem storeToOwnLocalMemory : Spec.StoreToOwnLocalMemory := by
  intro s l r a z o hr _ hc n v ht ha hv h0 h1 hu hl hst hw
  have hn : 0 < n := size_pos z
  have hin : Spec.address s a o n < 2 ^ 48 := lt_of_ownLocal ha h1
  have hlen : (leBytes n (gval s r.toNat).toNat).length = n := length_leBytes _ _
  have hwait : storeWait s v n = .ok () := storeWait_ok hu hl (.inr (.inl ⟨windowOf_ownLocal h0 (by omega), hst⟩))
  have hdo := doStore_ownLocal (bs := leBytes n (gval s r.toNat).toNat) hc (by rw [hlen]; exact hwait) (by rw [hlen]; exact hv) h0 (by omega)
    (by rw [hlen]; exact h1) (by rw [hlen]; exact hw)
  have hx : exec (.st l r a z o) s = settle s (.ok (setLocal s s.cur (v - localBase) (leBytes n (gval s r.toNat).toNat))) := by
    rw [exec_st_at hr ht ha hin hwait, hdo]
  have hread := readKey_setLocal (leBytes n (gval s r.toNat).toNat) s (c := s.cur) (off := v - localBase) hc (by rw [hlen]; omega)
  have hk := setLocal_writesLocal (leBytes n (gval s r.toNat).toNat) s s.cur (v - localBase)
  refine ⟨_, completes_of_ok hx, fun i hi => ?_, fun key hkey => ?_, ?_⟩
  · rw [hread, hlen, localKey_add, if_pos (by omega), Nat.add_sub_cancel_left, getD_leBytes hi]
  · rw [hread, hlen, if_neg]
    intro hr
    exact hkey (key - localKey s.cur (v - localBase)) (by omega) (by rw [localKey_add]; omega)
  · rw [State.me, hk.cur]
    exact ⟨hk.g, hk.pc, hk.npc, hk.v, hk.stores, hk.folds, hk.parts, hk.others⟩

/-! ## Loads of own local memory (R152, R240, R242, R257) -/

/-- Counting corrected errors changes their count alone. -/
theorem countEccRanges_eq (s : State) (c : Nat) (tr : SMap Nat) (rs : List (Nat × Nat)) :
    ∃ n, countEccRanges s c tr rs = { s with eccCount := n } := by
  unfold countEccRanges
  split
  · exact ⟨s.eccCount, rfl⟩
  · generalize (rs.flatMap fun r => pieces r.1 r.2) = xs
    induction xs using List.reverseRecOn with
    | nil => exact ⟨s.eccCount, rfl⟩
    | append_singleton xs x ih =>
      obtain ⟨n, hn⟩ := ih
      rw [List.foldl_append, hn, List.foldl_cons, List.foldl_nil]
      cases placeOf { s with eccCount := n } c tr x.1 with
      | none => exact ⟨n, rfl⟩
      | some key => exact ⟨_, rfl⟩

theorem leastOf_none {xs : List Nat} {f : Nat → Bool} (h : ∀ a ∈ xs, f a = false) : leastOf xs f = none := by
  have he : xs.filter f = [] := List.filter_eq_nil_iff.mpr fun a ha => by simp [h a ha]
  rw [leastOf, he]
  rfl

theorem countUninitRead_valid {s : State} {c : Nat} {rs : List (Nat × Nat)} (h : ∀ a ∈ localOffs rs, (s.core c).validAt a = true) :
    countUninitRead s c rs = s := by
  unfold countUninitRead
  dsimp only
  rw [leastOf_none fun a ha => by rw [h a ha]; rfl]
  exact ite_self s

theorem countStaleRead_fresh {s : State} {c : Nat} {rs : List (Nat × Nat)} (h : ∀ a ∈ localOffs rs, (s.core c).staleAt a = none) :
    countStaleRead s c rs = s := by
  unfold countStaleRead
  dsimp only
  rw [leastOf_none fun a ha => by rw [h a ha]; rfl]
  exact ite_self s

/-- Of words that are valid and not stale, a read counts corrected errors alone. -/
theorem countRead_clean {s : State} {c : Nat} {rs : List (Nat × Nat)}
    (h : ∀ a ∈ localOffs rs, (s.core c).validAt a = true ∧ (s.core c).staleAt a = none) : countRead s c rs = countEccRanges s c [] rs := by
  obtain ⟨n, hn⟩ := countEccRanges_eq s c [] rs
  have hcore : (countEccRanges s c [] rs).core c = s.core c := by rw [hn]; rfl
  rw [countRead, countStaleRead_fresh fun a ha => by rw [hcore, (h a ha).2], countUninitRead_valid fun a ha => by rw [hcore, (h a ha).1]]

theorem localOffs_ownLocal {v n : Nat} (h0 : localBase ≤ v) (h1 : v < localBase + 2 ^ 18) : localOffs [(v, n)] = span (v - localBase) n := by
  simp only [localOffs, List.flatMap_cons, List.flatMap_nil, List.append_nil, windowOf_ownLocal h0 h1, if_true]

theorem localBytes_valid {s : State} {c off n : Nat} (h : ∀ a, off ≤ a → a < off + n → (s.core c).validAt a = true) :
    localBytes s c off n = s.bytes (localKey c off) n := by
  refine List.map_congr_left fun i hi => ?_
  rw [List.mem_range] at hi
  rw [h (off + i) (by omega) (by omega), if_pos rfl, localKey_add]

theorem extLoad_bytes (x : BitVec 1) (bs : List Byte) :
    extLoad (x == 1) bs = if x = 1 then BitVec.ofInt 64 (sgn (8 * bs.length) (leNat bs)) else BitVec.ofNat 64 (leNat bs) := by
  simp only [extLoad, beq_iff_eq]

theorem loadFromOwnLocalMemory : Spec.LoadFromOwnLocalMemory := by
  intro s l d a z x o hr _ hx n v off ht ha hv h0 h1 hu hl hc hm hb hbad w
  have hn : 0 < n := size_pos z
  have hlt : v < localBase + 2 ^ 18 := by omega
  have hin : Spec.address s a o n < 2 ^ 48 := lt_of_ownLocal ha h1
  have hwait : loadWait s v n = .ok () := loadWait_ok hl hu hc
  have hwin := windowOf_ownLocal h0 hlt
  have hoffs : ∀ a ∈ localOffs [(v, n)], (s.core s.cur).validAt a = true ∧ (s.core s.cur).staleAt a = none := fun a ha => by
    rw [localOffs_ownLocal h0 hlt, mem_span] at ha
    exact hb a ha.1 ha.2
  have hbytes : localBytes s s.cur off n = s.bytes (localKey s.cur off) n := localBytes_valid fun a ha hb' => (hb a ha hb').1
  have hbound : boundG s.pre d.toNat = none := hr.unbound (by simp)
  have hset (e : Nat) (y : Word) : setG { s with eccCount := e } d.toNat y = .ok (State.wroteG { s with eccCount := e } d.toNat y) :=
    setG_plain y hbound
  obtain ⟨e, he⟩ := countEccRanges_eq s s.cur [] [(v, n)]
  refine completes_of_ok ?_
  rw [exec_ld_at hr hx ht ha hin hwait]
  refine congrArg (settle s) ?_
  show doLoad s s v n d.toNat (x == 1) = _
  unfold doLoad
  dsimp only
  rw [hwait, ok_bind, need_holds hv, ok_bind, if_neg (by rw [hwin]; decide), checkAccess_ownLocal_read h0 h1 hm hb hbad, ok_bind]
  dsimp only
  rw [if_pos hwin, countRead_clean hoffs, hbytes, he, hset, extLoad_bytes, length_bytes]

end Sys2Proof.Machine

namespace Sys2Proof
open Machine

/-- Settles O29: a store's bytes are the ones read at its places afterwards, a load's those read there before. -/
theorem ownLocalMemoryAccesses : Obligations.OwnLocalMemoryAccesses := ⟨storeToOwnLocalMemory, loadFromOwnLocalMemory⟩

end Sys2Proof

end

section
/-! PROOFS. The Common window: loads and stores that enter the core's lists, and the store buffer's drain. -/

namespace Sys2Proof.Machine

/-! ## The Common window (R153, R154, R245) -/

theorem length_partDies_le (l : Layout) (p : Nat) : (partDies l p).length ≤ 4 := by
  have hq (p : Nat) : (if p < 4 then [p] else []).length ≤ 4 := by split <;> simp
  unfold partDies
  split
  case h_6 => exact hq _
  all_goals decide

theorem commonSize_le (s : State) (p : Nat) : commonSize s p ≤ 2 ^ 28 := by
  have := length_partDies_le s.layout p
  rw [commonSize]
  omega

/-- An access of the Common that is aligned to its size lies in one block of 64 MiB. -/
theorem common_block {v n : Nat} (hn : n = 1 ∨ n = 2 ∨ n = 4 ∨ n = 8) (hv : v % n = 0) (h0 : commonBase ≤ v) :
    (v - commonBase) % 2 ^ 26 + n ≤ 2 ^ 26 := by
  have hc : commonBase = 0x7D0000000000 := rfl
  rcases hn with rfl | rfl | rfl | rfl <;> omega

theorem checkWord_common {s : State} {c v n : Nat} {w : Bool} (hw : windowOf v = .common)
    (hl : v - commonBase + n ≤ commonSize s (corePart s c)) (hb : w = true ∨ s.bad (commonKey s (corePart s c) (v - commonBase)) n = false) :
    checkWord s c v n w false = .ok (none, s) := by
  unfold checkWord
  dsimp only
  rw [hw]
  dsimp only
  rw [need_holds hl]
  rcases hb with rfl | hb
  · rfl
  · rw [hb, Bool.not_false, Bool.or_true]
    rfl

theorem checkAccess_common {s : State} {c v n : Nat} {w : Bool} (hn : n = 1 ∨ n = 2 ∨ n = 4 ∨ n = 8) (hv : v % n = 0)
    (hw : windowOf v = .common) (hl : v - commonBase + n ≤ commonSize s (corePart s c))
    (hb : w = true ∨ s.bad (commonKey s (corePart s c) (v - commonBase)) n = false) : checkAccess s c v n w false = .ok ([], s) := by
  obtain ⟨h0, -⟩ := bounds_of_common hw
  have hblock := common_block hn hv h0
  have hsize := commonSize_le s (corePart s c)
  refine checkAccess_passes (fun x hx => ?_) (by rw [lentRange, hw]; simp)
  obtain ⟨hlo, hhi, hp⟩ := mem_parts (by decide) hx
  refine checkWord_common (windowOf_common (by omega) (by omega)) (by omega) (hb.imp_right fun hb => ?_)
  have hk : commonKey s (corePart s c) (x.1 - commonBase) = commonKey s (corePart s c) (v - commonBase) + (x.1 - v) := by
    rw [show x.1 - commonBase = v - commonBase + (x.1 - v) by omega, commonKey_add _ _ (by omega)]
  exact bad_of_within hb (by omega) (by omega)

theorem placeOf_common (s : State) (c : Nat) (tr : SMap Nat) {v : Nat} (h : windowOf v = .common) :
    placeOf s c tr v = some (commonKey s (corePart s c) (v - commonBase)) := by rw [placeOf, h]

theorem lt_of_common {v : Int} (h0 : 0 ≤ v) (h : windowOf v.toNat = .common) : v < 2 ^ 48 := by
  obtain ⟨h1, h2⟩ := bounds_of_common h
  have hc : commonBase = 0x7D0000000000 := rfl
  omega

theorem doStore_common {s : State} {v : Nat} {bs : List Byte} (hn : bs.length = 1 ∨ bs.length = 2 ∨ bs.length = 4 ∨ bs.length = 8)
    (hw : storeWait s v bs.length = .ok ()) (hv : v % bs.length = 0) (hwin : windowOf v = .common)
    (hl : v - commonBase + bs.length ≤ commonSize s (corePart s s.cur)) (hd : s.me.inCompute = false) (hy : s.me.yoke = none) :
    doStore s v bs .ok = .ok (s.updMe fun k => { k with stores := k.stores ++ [{ va := v, key := commonKey s (corePart s s.cur) (v - commonBase), bytes := bs }] }) := by
  unfold doStore
  dsimp only
  rw [hw, ok_bind, need_holds hv, ok_bind, if_neg (by rw [hwin]; decide), State.det, hd, checkAccess_common hn hv hwin hl (.inl rfl)]
  dsimp only
  rw [ok_bind, if_neg (by rw [hwin]; decide), hy, placeOf_common _ _ _ hwin, Option.getD_some]

/-! ## Stores drain (R156) -/

theorem mayGo_of_up {s : State} (h : s.downLinks = []) (c key : Nat) (m : Bool × Bool) : s.mayGo c key m = true := by
  rw [State.mayGo, routeUp, h]
  rfl

/-- A core whose oldest buffered store has been performed (R156, R329). -/
def Core.storeDone (k : Core) (bs : List BufStore) : Core :=
  { k.landed reqStore with stores := bs, streams := k.streams.map fun x => (x.1, { x.2 with behind := x.2.behind - 1 }) }

theorem drainOne_eq {s : State} {c : Nat} {b : BufStore} {bs : List BufStore} (h : (s.core c).stores = b :: bs) :
    drainOne s c = (s.setBytes b.key b.bytes).updCore c (·.storeDone bs) := by
  rw [drainOne, h]
  rfl

theorem storeDrains (s : State) (c : Nat) (b : BufStore) (bs : List BufStore) (hs : (s.core c).stores = b :: bs) (hd : s.downLinks = [])
    (hl : (s.core c).loadsMeet s c (b.va, b.bytes.length) = false) :
    ∃ t, Completes (.storeDrain c) s t ∧ (t.core c).stores = bs ∧ (∀ i, i < b.bytes.length → t.byte (b.key + i) = b.bytes.getD i 0) ∧
      (∀ key, key < b.key ∨ b.key + b.bytes.length ≤ key → t.byte key = s.byte key) ∧ (t.core c).r = (s.core c).r ∧ t.folds = s.folds ∧
      t.parts = s.parts ∧ ∀ e, e ≠ c → t.core e = s.core e := by
  obtain ⟨hcores, hfolds, hparts, -⟩ := State.setBytes_frame b.bytes s b.key
  have hcore (d : Nat) : (s.setBytes b.key b.bytes).core d = s.core d := by rw [State.core, State.core, hcores]
  have hdue : drainDue s c = true := by
    rw [drainDue, hs]
    dsimp only
    rw [mayGo_of_up hd, hl]
    rfl
  refine ⟨(s.setBytes b.key b.bytes).updCore c (·.storeDone bs), ?_, ?_, ?_, ?_, ?_, hfolds, hparts, ?_⟩
  · rw [Completes, exec_storeDrain, execStoreDrain, hdue, drainOne_eq hs]
    rfl
  · rw [State.updCore, State.core_setCore]
    rfl
  · intro i hi
    show (s.setBytes b.key b.bytes).byte _ = _
    rw [byte_setBytes, if_pos (by omega), Nat.add_sub_cancel_left]
  · intro key hk
    exact State.byte_setBytes_outside _ _ _ _ hk
  · rw [State.updCore, State.core_setCore, hcore]
    rfl
  · intro e he
    rw [State.updCore, State.core_setCore_other _ _ _ _ he, hcore]

/-! ## Loads of the Common (R156) -/

theorem loadOfTheCommonIsOutstanding : Spec.LoadElsewhereIsOutstanding := by
  intro s l d a z x o hr _ hx n v ht ha hv hwin hl hd hb hu hlast hlen
  have hwait : loadWait s v n = .ok () := loadWait_ok hlen hu fun b h => by rw [hlast] at h; cases h
  have hbound : boundG s.pre d.toNat = none := hr.unbound (by simp)
  refine ⟨{ kind := .plain (x == 1), va := v, key := commonKey s (corePart s s.cur) (v - commonBase), tr := [], size := n,
            rd := d.toNat, escape := false, since := s.clk }, rfl, rfl, rfl, rfl, rfl, rfl, completes_of_ok ?_⟩
  rw [exec_ld_at hr hx ht ha (lt_of_common ha hwin) hwait]
  refine congrArg (settle s) ?_
  show doLoad s s v n d.toNat (x == 1) = _
  unfold doLoad
  dsimp only
  rw [hwait, ok_bind, need_holds hv, ok_bind, if_neg (by rw [hwin]; decide), State.det, hd,
    checkAccess_common (size_cases z) hv hwin hl (.inr hb), ok_bind]
  dsimp only
  rw [if_neg (by rw [hwin]; decide), hlast, gRoom, hbound, placeOf_common _ _ _ hwin, Option.getD_some]
  rfl

theorem loadForwardsFromTheStoreBuffer : Spec.LoadForwardsFromTheStoreBuffer := by
  intro s l d a z x o b hr _ hx n v ht ha hv hwin hl hd hb hu hlen hlast hva hve w
  have hwait : loadWait s v n = .ok () := loadWait_ok hlen hu fun b' h => by
    rw [hlast] at h
    cases h
    exact ⟨hva, hve⟩
  have hwithin : within (v, n) (b.va, b.bytes.length) = true := decide_eq_true ⟨hva, hve⟩
  have hbytes : ((b.bytes.drop (v - b.va)).take n).length = n := by
    rw [List.length_take, List.length_drop]
    omega
  refine completes_of_ok ?_
  rw [exec_ld_at hr hx ht ha (lt_of_common ha hwin) hwait]
  refine congrArg (settle s) ?_
  show doLoad s s v n d.toNat (x == 1) = _
  unfold doLoad
  dsimp only
  rw [hwait, ok_bind, need_holds hv, ok_bind, if_neg (by rw [hwin]; decide), State.det, hd,
    checkAccess_common (size_cases z) hv hwin hl (.inr hb), ok_bind]
  dsimp only
  rw [if_neg (by rw [hwin]; decide), hlast]
  dsimp only
  rw [if_pos hwithin, setG_plain _ (hr.unbound (by simp)), extLoad_bytes, hbytes]

end Sys2Proof.Machine

namespace Sys2Proof
open Machine

/-- Settles O30: a store is the last of the buffer, and a drain writes the first. -/
theorem storesAreBufferedAndDrain : Obligations.StoresAreBufferedAndDrain := by
  refine ⟨?_, fun s c b bs hs hd hl _ => storeDrains s c b bs hs hd hl⟩
  intro s l r a z o hr _ n v ht ha hv hwin hl hd hy hu hm hs b
  have hlen : (leBytes n (gval s r.toNat).toNat).length = n := length_leBytes _ _
  have hwait := storeWait_ok hu hm (.inr (.inr ⟨by rw [hwin]; decide, .inl ⟨hy, hs⟩⟩))
  refine completes_of_ok ?_
  rw [exec_st_at hr ht ha (lt_of_common ha hwin) hwait]
  exact congrArg (settle s) (doStore_common (by rw [hlen]; exact size_cases z) (by rw [hlen]; exact hwait) (by rw [hlen]; exact hv) hwin
    (by rw [hlen]; exact hl) hd hy)

end Sys2Proof

end

section
/-! PROOFS. Addresses placed alike in two states, and LOAD_RETURN. -/

namespace Sys2Proof.Machine

/-! ## Two states in which an address names one place (R239, R245, R249) -/

/-- The states place addresses alike: what the device's parts are, and which launches its cores work for. -/
structure SamePlaces (s t : State) : Prop where
  layout : t.layout = s.layout
  nv : t.nv = s.nv
  t2exp : t.t2exp = s.t2exp
  parts : t.parts = s.parts
  occ : ∀ c, (t.core c).occ = (s.core c).occ
  orphan : ∀ c, (t.core c).orphanOf = (s.core c).orphanOf

theorem SamePlaces.refl (s : State) : SamePlaces s s := ⟨rfl, rfl, rfl, rfl, fun _ => rfl, fun _ => rfl⟩

theorem SamePlaces.setByte {s t : State} (h : SamePlaces s t) (k : Nat) (b : Byte) : SamePlaces (s.setByte k b) (t.setByte k b) :=
  ⟨h.layout, h.nv, h.t2exp, h.parts, h.occ, h.orphan⟩

/-- A core changed in neither its unit nor the launch it still works for. -/
theorem SamePlaces.updCore (s : State) (c : Nat) {f : Core → Core} (ho : (f (s.core c)).occ = (s.core c).occ)
    (hp : (f (s.core c)).orphanOf = (s.core c).orphanOf) : SamePlaces s (s.updCore c f) := by
  refine ⟨rfl, rfl, rfl, rfl, fun d => ?_, fun d => ?_⟩ <;> by_cases hd : d = c
  · rw [hd, State.updCore, State.core_setCore, ho]
  · rw [State.updCore, State.core_setCore_other _ _ _ _ hd]
  · rw [hd, State.updCore, State.core_setCore, hp]
  · rw [State.updCore, State.core_setCore_other _ _ _ _ hd]

section
variable {s t : State} (h : SamePlaces s t)
include h

theorem SamePlaces.launch (p b : Nat) : t.launch p b = s.launch p b := by rw [State.launch, State.part, h.parts]; rfl

theorem SamePlaces.launchOf (c : Nat) : (t.core c).launchOf t = (s.core c).launchOf s := by
  simp only [Core.launchOf, h.occ, h.orphan, h.launch]

theorem SamePlaces.partFolds (p : Nat) : Machine.partFolds t p = Machine.partFolds s p := by
  rw [Machine.partFolds, Machine.partFolds, h.layout, h.nv]

theorem SamePlaces.partOfFold (f : Nat) : Machine.partOfFold t f = Machine.partOfFold s f := by
  rw [Machine.partOfFold, Machine.partOfFold, h.layout]

theorem SamePlaces.corePart (c : Nat) : Machine.corePart t c = Machine.corePart s c := by
  simp only [Machine.corePart, h.occ, h.partOfFold]

theorem SamePlaces.devFold (p f : Nat) : Machine.devFold t p f = Machine.devFold s p f := by
  rw [Machine.devFold, Machine.devFold, h.layout, h.nv, h.partFolds]

theorem SamePlaces.launchCore (p : Nat) (l : Launch) (k : Nat) : Machine.launchCore t p l k = Machine.launchCore s p l k := by
  rw [Machine.launchCore, Machine.launchCore, devCore, devCore, h.devFold]

theorem SamePlaces.commonKey (p o : Nat) : Machine.commonKey t p o = Machine.commonKey s p o := by
  rw [Machine.commonKey, Machine.commonKey, h.layout]

theorem SamePlaces.t2space (p : Nat) : Machine.t2space t p = Machine.t2space s p := by
  rw [Machine.t2space, Machine.t2space, t2sizes, t2sizes, h.layout, h.t2exp]

theorem SamePlaces.physKey (p ph : Nat) : Machine.physKey t p ph = Machine.physKey s p ph := by
  simp only [Machine.physKey, hbmSize, hbmKey, partSlice, t2Key, h.layout, h.t2space] <;> rfl

theorem SamePlaces.placeOf (c : Nat) (tr : SMap Nat) (v : Nat) : Machine.placeOf t c tr v = Machine.placeOf s c tr v := by
  simp only [Machine.placeOf, h.corePart, h.commonKey, h.physKey, h.launchOf, h.launchCore]

/-- Bytes read at addresses are the same in two states that place them alike, with the same memory and the same valid bits. -/
theorem SamePlaces.readRange (hm : t.mem = s.mem) (hv : ∀ c, (t.core c).valid = (s.core c).valid) (c : Nat) (tr : SMap Nat) (v n : Nat) :
    Machine.readRange t c tr v n = Machine.readRange s c tr v n := by
  have hk (key : Nat) : readKey t key = readKey s key := by
    rw [readKey, readKey, State.byte, State.byte, hm, Core.validAt, hv, Core.validAt]
  simp only [Machine.readRange, h.placeOf, funext hk]

end

/-! ## Bytes of the Common written (R245) -/

theorem partDies_lt : ∀ (l : Layout) (p i : Nat), (partDies l p).getD i 0 < 4 := by
  intro l p i
  have h : ∀ d ∈ partDies l p, d < 4 := by
    unfold partDies
    split <;> simp
  rcases Nat.lt_or_ge i (partDies l p).length with hi | hi
  · rw [List.getD_eq_getElem _ _ hi]
    exact h _ (List.getElem_mem hi)
  · rw [List.getD_eq_default _ _ hi]
    decide

theorem commonKey_space (s : State) (p o : Nat) : commonKey s p o / 2 ^ 64 = 1 := by
  have := partDies_lt s.layout p (o / 2 ^ 26)
  simp only [commonKey, place]
  omega

/-- Bytes written to the Common depend on what memory held and on no core. -/
theorem SamePlaces.writeRange_mem {c : Nat} {tr : SMap Nat} (bs : List Byte) : ∀ {s t : State} {v : Nat}, SamePlaces s t → t.mem = s.mem →
    commonBase ≤ v → v + bs.length ≤ commonBase + 2 ^ 28 → (Machine.writeRange t c tr v bs).mem = (Machine.writeRange s c tr v bs).mem := by
  induction bs with
  | nil => exact fun _ hm _ _ => hm
  | cons b bs ih =>
    intro s t v h hm h0 h1
    rw [List.length_cons] at h1
    have hk : ¬ Machine.commonKey s (Machine.corePart s c) (v - commonBase) / 2 ^ 64 = 4 := by rw [commonKey_space]; decide
    have hwin : windowOf v = .common := windowOf_common h0 (by omega)
    rw [Machine.writeRange, Machine.writeRange, h.placeOf, placeOf_common s c tr hwin]
    dsimp only
    rw [writeKey, writeKey, if_neg hk, if_neg hk]
    exact ih (h.setByte _ _) (by rw [State.setByte, State.setByte, hm]) (by omega) (by omega)

/-! ## LOAD_RETURN (R156, R292) -/

theorem overlay_unyoked {k : Core} (h : k.yoke = none) (v : Nat) (bs : List Byte) : overlay k v bs = bs := by
  have hz : ∀ as : List Nat, as.length = bs.length → List.zipWith (fun (_ : Nat) (b : Byte) => b) as bs = bs := fun as ha => by
    rw [List.zipWith_eq_zipWith_take_min]
    exact List.ext_getElem (by simp [ha]) fun i _ _ => by simp
  rw [overlay, h]
  exact hz _ (by simp [span])

@[simp] theorem length_readRange (s : State) (c : Nat) (tr : SMap Nat) (v n : Nat) : (readRange s c tr v n).length = n := by
  simp [readRange, span]

theorem bad_of_clean {s : State} (h : s.ecc = []) (key n : Nat) : s.bad key n = false := by rw [State.bad, h]; rfl

theorem countEccRanges_clean {s : State} (h : s.ecc = []) (c : Nat) (tr : SMap Nat) (rs : List (Nat × Nat)) : countEccRanges s c tr rs = s := by
  rw [countEccRanges, h]
  rfl

/-- The state once outstanding access i of core c is taken from the list. -/
def loadTaken (s : State) (c i : Nat) : State := s.updCore c fun k => { k with loads := k.loads.eraseIdx i }

theorem loadTaken_core (s : State) (c i : Nat) : (loadTaken s c i).core c = { s.core c with loads := (s.core c).loads.eraseIdx i } :=
  State.core_setCore s c _

theorem loadTaken_places (s : State) (c i : Nat) : SamePlaces s (loadTaken s c i) := .updCore s c rfl rfl

theorem loadTaken_valid (s : State) (c i d : Nat) : ((loadTaken s c i).core d).valid = (s.core d).valid := by
  by_cases hd : d = c
  · rw [hd, loadTaken_core]
  · rw [loadTaken, State.updCore, State.core_setCore_other _ _ _ _ hd]

/-- An access of an unyoked core returns where no word is damaged: what it reads is what the place holds. -/
theorem performLoad_clean {s : State} {c i : Nat} {ld : Load} (h : (s.core c).loads[i]? = some ld) (hy : (s.core c).yoke = none) (he : s.ecc = []) :
    performLoad s c i = match ld.kind with
      | .plain sx => deliverG (loadTaken s c i) c ld.rd (extLoad sx (readRange s c ld.tr ld.va ld.size))
      | .amo op x cmp _ _ =>
        deliverAction (writeRange (loadTaken s c i) c ld.tr ld.va
          (leBytes ld.size (amoNew op ld.size (leNat (readRange s c ld.tr ld.va ld.size)) x.toNat cmp.toNat))) c ld.rd
          (BitVec.ofNat 64 (leNat (readRange s c ld.tr ld.va ld.size)))
      | .vec n sx len => deliverV (loadTaken s c i) c ld.rd len (ldvElems n sx (readRange s c ld.tr ld.va ld.size))
      | .vecf fc bl len ftz =>
        let (ws, fl) := decodeMem fc bl ftz (readRange s c ld.tr ld.va ld.size) len
        deliverV ((loadTaken s c i).updCore c fun k => orFlags k fl) c ld.rd len (ws.map some) := by
  have hr : readRange (loadTaken s c i) c ld.tr ld.va ld.size = readRange s c ld.tr ld.va ld.size :=
    (loadTaken_places s c i).readRange rfl (loadTaken_valid s c i) _ _ _ _
  have hfail (p : Nat → Bool) (hp : ∀ a, p a = false) : (span ld.va ld.size).find? p = none :=
    List.find?_eq_none.mpr fun a _ => Bool.eq_false_iff.mp (hp a)
  have hyoke : ((loadTaken s c i).core c).yoke = none := by rw [loadTaken_core]; exact hy
  unfold performLoad
  rw [h]
  dsimp only
  rw [hfail]
  · dsimp only
    rw [show (s.updCore c fun k => { k with loads := k.loads.eraseIdx i }) = loadTaken s c i from rfl,
      countEccRanges_clean (s := loadTaken s c i) he, hr, overlay_unyoked hyoke] <;> rfl
  · intro a
    cases placeOf s c ld.tr a with
    | none => rfl
    | some key => exact bad_of_clean he key 1

theorem deliverG_plain {s : State} {c d : Nat} (v : Word) (h : boundG (s.core c) d = none) :
    deliverG s c d v = some (s.setCore c (if d = 0 then s.core c else
      { s.core c with r := { (s.core c).r with g := mset 0 (s.core c).r.g d v } })) := by
  unfold deliverG Core.deliverG
  split
  · rfl
  · rw [h]
    rfl

theorem loadDue_of {s : State} {c i : Nat} {ld : Load} (h : (s.core c).loads[i]? = some ld) (hy : (s.core c).yoke = none) (hs : ld.since + 4 ≤ s.clk)
    (hd : s.downLinks = []) (hm : ∀ m ∈ (s.core c).loads.take i, shares s c (ld.va, ld.size) (m.va, m.size) = false) : loadDue s c i = true := by
  have hany : ((s.core c).loads.take i).any (fun m => shares s c (ld.va, ld.size) (m.va, m.size)) = false := by
    rw [List.any_eq_false]
    exact fun m hmem => Bool.eq_false_iff.mp (hm m hmem)
  rw [loadDue, h]
  dsimp only
  rw [decide_eq_true hs, mayGo_of_up hd, hany, amoAgreed, State.agreed, hy, Bool.or_true]
  rfl

/-- A core whose register d an agent has written. -/
def Core.received (k : Core) (d : Nat) (v : Word) : Core := if d = 0 then k else { k with r := { k.r with g := mset 0 k.r.g d v } }

theorem Core.received_same (k : Core) {d : Nat} (v : Word) (h : d ≠ 0) : mget 0 (k.received d v).r.g d = v := by
  rw [Core.received, if_neg h]
  exact mget_mset_same _ _ _ _

theorem Core.received_other (k : Core) {d r : Nat} (v : Word) (h : r ≠ d) : mget 0 (k.received d v).r.g r = mget 0 k.r.g r := by
  unfold Core.received
  split
  · rfl
  · exact mget_mset_other _ _ _ _ _ h

theorem Core.received_loads (k : Core) (d : Nat) (v : Word) : (k.received d v).loads = k.loads := by
  unfold Core.received
  split <;> rfl

theorem loadReturnWritesRd : Spec.LoadReturnWritesRd := by
  intro s c i ld sx h hk hy hs hd he hm hb bs
  have hdue := loadDue_of h hy hs hd hm
  have hbound : boundG ((loadTaken s c i).core c) ld.rd = none := by rw [loadTaken_core]; exact hb
  have hp : performLoad s c i = some ((loadTaken s c i).setCore c (((loadTaken s c i).core c).received ld.rd (extLoad sx bs))) := by
    rw [performLoad_clean h hy he, hk]
    exact deliverG_plain _ hbound
  refine ⟨(loadTaken s c i).setCore c (((loadTaken s c i).core c).received ld.rd (extLoad sx bs)), ?_, ?_, rfl, rfl, ?_, ?_, ?_⟩
  · rw [Completes, exec_loadReturn, execLoadReturn, hp]
    dsimp only
    rw [hdue, event_due]
  · rw [State.core_setCore, Core.received_loads, loadTaken_core]
  · intro r hr
    rw [State.core_setCore, Core.received_other _ _ hr, loadTaken_core]
  · intro hr
    rw [State.core_setCore, Core.received_same _ _ hr]
    rfl
  · intro e hne
    rw [State.core_setCore_other _ _ _ _ hne, loadTaken, State.updCore, State.core_setCore_other _ _ _ _ hne]

end Sys2Proof.Machine

namespace Sys2Proof
open Machine

/-- Settles O31: what LD leaves to its return, what it takes from the store buffer, and what the return writes. -/
theorem loadsElsewhere : Obligations.LoadsElsewhere := ⟨loadOfTheCommonIsOutstanding, loadForwardsFromTheStoreBuffer, loadReturnWritesRd⟩

end Sys2Proof

end

section
/-! PROOFS. Atomic operations. -/

namespace Sys2Proof.Machine

/-! ## AMO arithmetic (R291) -/

/-- The two's-complement reading, by the half of the range. -/
theorem sgn_eq (n x : Nat) : sgn (n + 1) x = if x % 2 ^ (n + 1) < 2 ^ (n + 1) / 2 then ((x % 2 ^ (n + 1) : Nat) : Int)
    else ((x % 2 ^ (n + 1) : Nat) : Int) - ((2 ^ (n + 1) : Nat) : Int) := by
  have hhalf : 2 ^ (n + 1) / 2 = 2 ^ n := by rw [pow_succ]; omega
  have hcast : ((x : Int) % 2 ^ (n + 1)) = ((x % 2 ^ (n + 1) : Nat) : Int) := by push_cast; rfl
  rw [sgn, Nat.add_sub_cancel, hhalf, hcast]
  by_cases h : 2 ^ n ≤ x % 2 ^ (n + 1)
  · rw [if_pos h, if_neg (by omega)]
  · rw [if_neg h, if_pos (by omega)]

theorem amoIntegerOperations : Spec.AmoIntegerOperations := by
  intro op n old x cmp hop hn
  obtain ⟨m, hm⟩ : ∃ m, 8 * n = m + 1 := ⟨8 * n - 1, by omega⟩
  simp only [List.mem_cons, List.not_mem_nil, or_false] at hop
  rcases hop with rfl | rfl | rfl | rfl | rfl | rfl | rfl | rfl | rfl | rfl | rfl
  case inr.inl | inr.inr.inl => simp only [amoNew, amoInt, Spec.amoInt, hm, sgn_eq, Nat.mod_mod]
  all_goals simp [amoNew, Spec.amoInt]
  all_goals rfl

/-! ## An AMO of free registers (R290 to R293) -/

/-- Every AMO is the shared operation with its own number. -/
theorem exec_amo {i : Instr} {l : Lit} {op : Nat} {d a b : BitVec 5} {sc o : BitVec 2} {n : Nat} (h : Spec.Amo i l op d a b sc o n) (s : State) :
    exec i s = amo s l op d.toNat a.toNat b.toNat sc.toNat o.toNat n := by
  cases h <;> rfl

/-- An AMO has 4 or 8 bytes, and 4 where it is on FP32. -/
theorem amo_size {i : Instr} {l : Lit} {op : Nat} {d a b : BitVec 5} {sc o : BitVec 2} {n : Nat} (h : Spec.Amo i l op d a b sc o n) :
    (n = 4 ∨ n = 8) ∧ (n = 4 ∨ ¬(op = 1 ∨ op = 6 ∨ op = 7 ∨ op = 8)) := by
  have hz (z : BitVec 1) : ¬ z = 1#1 ∨ z = 1#1 := (em _).symm
  cases h <;> simp [hz]

section
variable {s : State} {d a b : Nat} {n : Nat} {o : BitVec 2} {v : Nat}

theorem amoWait_ok {sc : Nat} (hlen : s.me.loads.length < 16) (hu : Spec.unhindered s (clsR + clsW) v n)
    (hm : s.me.loadsMeet s s.cur (v, n) = false) (ho : 2 ≤ o.toNat → s.me.rwDone s s.cur = true)
    (hs : sc < 2 ∨ s.me.lastStore s s.cur (v, n) = none) : amoWait s v n sc o.toNat = .ok () := by
  obtain ⟨hb, hf⟩ := hu
  have hord : (decide (o.toNat / 2 % 2 = 0) || s.me.rwDone s s.cur) = true := by
    by_cases h2 : 2 ≤ o.toNat
    · rw [ho h2, Bool.or_true]
    · rw [decide_eq_true (by omega), Bool.true_or]
  have hlast : (decide (sc < 2) || (s.me.lastStore s s.cur (v, n)).isNone) = true := by
    rcases hs with h | h
    · rw [decide_eq_true h, Bool.true_or]
    · rw [h, Option.isNone_none, Bool.or_true]
  unfold amoWait
  dsimp only
  rw [need_holds hlen, hb, hf, hm, hord, hlast]
  rfl

end

/-! What an AMO does at its address, once its waits are over and its address is aligned: on own local memory, on a sync word, elsewhere. -/

def amoLocal (s : State) (l : Lit) (op d b n v : Nat) : Res State := do
  need (decide (windowOf v = .ownLocal)) (trapA cPERMISSION true v)
  let (tr, s1) ← checkAccess s s.cur v n true s.det
  amoReadChecks s1 s.cur v n tr
  let old := leNat (localBytes s1 s.cur (v - localBase) n)
  let s2 := countUninitRead (countEccRanges s1 s.cur tr [(v, n)]) s.cur [(v, n)]
  let s3 := writeRange s2 s.cur tr v (leBytes n (amoNew op n old (rbval s l b).toNat (gval s d).toNat))
  setG s3 d (BitVec.ofNat 64 old)

def amoSync (s : State) (l : Lit) (op d b n v : Nat) : Res State := do
  need (decide (eventBase + 0x2000 ≤ v ∧ v < eventBase + 0x3000)) (trapA cPERMISSION true v)
  let i := (v - eventBase - 0x2000) / 8
  let w := mget 0 (s.fold (foldOf s.cur)).sync i
  let old := fld w (8 * (v % 8) + 8 * n - 1) (8 * (v % 8))
  let w' := putFld w (8 * (v % 8) + 8 * n - 1) (8 * (v % 8)) (amoNew op n old (rbval s l b).toNat (gval s d).toNat)
  setG (s.updFold (foldOf s.cur) fun g => { g with sync := mset 0 g.sync i w' }) d (BitVec.ofNat 64 old)

def amoFar (s : State) (l : Lit) (op d b sc ord n v : Nat) : Res State := do
  need (decide (windowOf v = .global ∨ (windowOf v = .common ∧ sc = 2))) (trapA cPERMISSION true v)
  need (decide (sc = 2 ∨ fld (s.part (corePart s s.cur)).facc 19 16 ≠ 0)) (trapA cPERMISSION true v)
  let (tr, s1) ← checkAccess s s.cur v n true s.det
  amoReadChecks s1 s.cur v n tr
  gRoom s s1 d
  let ld : Load := { kind := .amo op (rbval s l b) (gval s d) sc (ord % 2 == 1), va := v, key := (placeOf s1 s.cur tr v).getD 0, tr := tr,
                     size := n, rd := d, escape := false, since := s.clk, pushed := if ord % 2 = 1 then s1.me.pushed else [] }
  .ok (s1.updMe fun k => { k with loads := k.loads ++ [ld] })

def amoActs (s : State) (l : Lit) (op d b sc ord n v : Nat) : Res State :=
  match sc with
  | 0 => amoLocal s l op d b n v
  | 1 => amoSync s l op d b n v
  | _ => amoFar s l op d b sc ord n v

theorem amo_acts {i : Instr} {l : Lit} {op : Nat} {d a b : BitVec 5} {sc o : BitVec 2} {n : Nat} {s : State} (hi : Spec.Amo i l op d a b sc o n)
    (hr : Ready s [a.toNat, b.toNat, d.toNat] [d.toNat]) (hf : sc ≠ 0 → s.me.inFlagged = false)
    (ht : (gval s a.toNat).toNat / 2 ^ 48 % 64 = 0) (hv : (gval s a.toNat).toNat % 2 ^ 48 % n = 0)
    (hw : amoWait s ((gval s a.toNat).toNat % 2 ^ 48) n sc.toNat o.toNat = .ok ()) :
    exec i s = settle s (amoActs s l op d.toNat b.toNat sc.toNat o.toNat n ((gval s a.toNat).toNat % 2 ^ 48)) := by
  have hp : ptrAdd (gval s a.toNat) 0 = .ok ((gval s a.toNat).toNat % 2 ^ 48) := by
    have hsum : ptrSum (gval s a.toNat) 0 = ((gval s a.toNat).toNat % 2 ^ 48 : Nat) := Int.add_zero _
    rw [ptrAdd_inside ht (by rw [hsum]; omega) (by rw [hsum]; omega), hsum, Int.toNat_natCast]
  have hflag : (s.me.inFlagged && decide (sc.toNat ≠ 0)) = false := by
    by_cases h : sc = 0
    · subst h; exact Bool.and_false _
    · rw [hf h, Bool.false_and]
  rw [exec_amo hi, amo, need_holds (amo_size hi).2, withChecked_ready (dests := [d.toNat]) _ _ (hr.mono (by split <;> simp) (by simp)), atPtr, hp]
  refine congrArg (settle s) ?_
  show (amoWait s ((gval s a.toNat).toNat % 2 ^ 48) n sc.toNat o.toNat >>= fun _ => _) = _
  rw [hw, ok_bind]
  dsimp only
  rw [fld_reserved, need_holds ht, ok_bind, fld_address, need_holds hv, ok_bind, hflag]
  rfl

/-! ## A sync word (R295) -/

theorem amoOnASyncWord : Spec.AmoOnASyncWord := by
  intro i l op d a b o n s hi hlatch hr hf hlen p v ht hv h0 h1 hu hm ho k w old new
  have hn : 0 < n := by rcases (amo_size hi).1 with h | h <;> omega
  have hwait : amoWait s v n 1 o.toNat = .ok () := amoWait_ok hlen hu hm ho (.inl (by decide))
  have hbound : boundG s.pre d.toNat = none := hr.unbound (by simp)
  have hpre (t : State) (hl : t.latch = s.latch) (hme : t.me = s.me) : boundG t.pre d.toNat = none := by
    rw [← hbound, State.pre, State.pre, hl, hme]
  have hold : fld w (8 * (v % 8) + 8 * n - 1) (8 * (v % 8)) = old := by
    rw [fld, show 8 * (v % 8) + 8 * n - 1 - 8 * (v % 8) + 1 = 8 * n by omega]
  refine completes_of_ok ?_
  rw [amo_acts hi hr (fun _ => hf) ht hv hwait]
  refine congrArg (settle s) ?_
  show amoSync s l op d.toNat b.toNat n v = _
  unfold amoSync
  rw [need_holds ⟨h0, h1⟩, ok_bind, rbval_toNat]
  show setG (s.updFold (foldOf s.cur) fun g => { g with sync := mset 0 g.sync k (putFld w (8 * (v % 8) + 8 * n - 1) (8 * (v % 8))
    (amoNew op n (fld w (8 * (v % 8) + 8 * n - 1) (8 * (v % 8))) (Spec.rb s l b).toNat (gval s d.toNat).toNat)) }) d.toNat
      (BitVec.ofNat 64 (fld w (8 * (v % 8) + 8 * n - 1) (8 * (v % 8)))) = _
  rw [hold]
  exact setG_plain _ (hpre _ rfl rfl)

/-! ## Memory (R290 to R293) -/

/-- What a write to memory leaves of the things that a later register write looks at. -/
structure KeepsStreams (s t : State) : Prop where
  latch : t.latch = s.latch
  cur : t.cur = s.cur
  streams : ∀ c, (t.core c).streams = (s.core c).streams

theorem KeepsStreams.trans {s t u : State} (h : KeepsStreams s t) (k : KeepsStreams t u) : KeepsStreams s u :=
  ⟨k.latch.trans h.latch, k.cur.trans h.cur, fun c => (k.streams c).trans (h.streams c)⟩

theorem WritesLocal.keepsStreams {c : Nat} {s t : State} (h : WritesLocal c s t) : KeepsStreams s t :=
  ⟨h.latch, h.cur, fun d => if hd : d = c then hd ▸ h.streams else by rw [h.others d hd]⟩

theorem writeKey_keepsStreams (s : State) (key : Nat) (b : Byte) : KeepsStreams s (writeKey s key b) := by
  unfold writeKey
  split
  · exact (setLocalByte_writesLocal _ _ _ _).keepsStreams
  · exact (setByte_writesLocal 0 _ _ _).keepsStreams

theorem writeRange_keepsStreams (bs : List Byte) (s : State) (c : Nat) (tr : SMap Nat) (v : Nat) :
    KeepsStreams s (writeRange s c tr v bs) := by
  induction bs generalizing s v with
  | nil => exact ⟨rfl, rfl, fun _ => rfl⟩
  | cons b bs ih =>
    rw [writeRange]
    split
    · exact (writeKey_keepsStreams s _ b).trans (ih _ _)
    · exact ih _ _

theorem boundG_congr_streams {k k' : Core} (h : k'.streams = k.streams) (d : Nat) : boundG k' d = boundG k d := by
  rw [boundG, boundG, h]

theorem KeepsStreams.setG {s t : State} (h : KeepsStreams s t) (hl : s.latch = none) {d : Nat} (hb : boundG s.me d = none) (v : Word) :
    Machine.setG t d v = .ok (t.wroteG d v) := by
  refine setG_plain v ?_
  have hp : t.pre = t.me := by rw [State.pre, h.latch, hl]
  rw [hp, boundG_congr_streams (k := s.me) (by rw [State.me, State.me, h.cur, h.streams]), hb]

theorem amoOnLocalMemory {l : Lit} {op : Nat} {d b : BitVec 5} {n : Nat} {s : State} {tr : SMap Nat} {s1 : State}
    {v : Nat} (hca : checkAccess s s.cur v n true s.det = .ok (tr, s1)) (hrc : amoReadChecks s1 s.cur v n tr = .ok ()) (hl : s1.latch = none)
    (hb : boundG s1.me d.toNat = none) (hcur : s1.cur = s.cur) (hwin : windowOf v = .ownLocal)
    (hval : ∀ j, j < n → s1.me.validAt (v - localBase + j) = true) :
    amoLocal s l op d.toNat b.toNat n v = .ok ((writeRange (countEccRanges s1 s.cur tr [(v, n)]) s.cur tr v
      (leBytes n (amoNew op n (leNat (s1.bytes (localKey s.cur (v - localBase)) n)) (Spec.rb s l b).toNat (gval s d.toNat).toNat))).wroteG d.toNat
      (BitVec.ofNat 64 (leNat (s1.bytes (localKey s.cur (v - localBase)) n)))) := by
  have hv' : ∀ a, v - localBase ≤ a → a < v - localBase + n → (s1.core s.cur).validAt a = true := fun a h0 h1 => by
    have := hval (a - (v - localBase)) (by omega)
    rwa [Nat.add_sub_cancel' h0, State.me, hcur] at this
  have hbytes : localBytes s1 s.cur (v - localBase) n = s1.bytes (localKey s.cur (v - localBase)) n := localBytes_valid hv'
  obtain ⟨e, he⟩ := countEccRanges_eq s1 s.cur tr [(v, n)]
  have hcnt : countUninitRead (countEccRanges s1 s.cur tr [(v, n)]) s.cur [(v, n)] = countEccRanges s1 s.cur tr [(v, n)] := by
    refine countUninitRead_valid fun x hx => ?_
    have hcore : (countEccRanges s1 s.cur tr [(v, n)]).core s.cur = s1.core s.cur := by rw [he]; rfl
    simp only [localOffs, List.flatMap_cons, List.flatMap_nil, List.append_nil, hwin, if_true, mem_span] at hx
    rw [hcore]
    exact hv' x hx.1 hx.2
  have hk : KeepsStreams s1 (countEccRanges s1 s.cur tr [(v, n)]) := by rw [he]; exact ⟨rfl, rfl, fun _ => rfl⟩
  unfold amoLocal
  rw [need_holds hwin, ok_bind, hca, ok_bind]
  dsimp only
  rw [hrc, ok_bind, hbytes, hcnt, rbval_toNat, (hk.trans (writeRange_keepsStreams _ _ _ _ _)).setG hl hb]

theorem amoIsOutstanding {l : Lit} {op : Nat} {d b : BitVec 5} {sc o : BitVec 2} {n : Nat} {s : State} {tr : SMap Nat} {s1 : State}
    {v : Nat} (hca : checkAccess s s.cur v n true s.det = .ok (tr, s1)) (hrc : amoReadChecks s1 s.cur v n tr = .ok ())
    (hb : boundG s.pre d.toNat = none) (hsc : sc = 2 ∧ (windowOf v = .global ∨ windowOf v = .common) ∨
      sc = 3 ∧ windowOf v = .global ∧ fld (s.part (corePart s s.cur)).facc 19 16 ≠ 0) :
    ∃ ld : Load, ld.va = v ∧ ld.size = n ∧ ld.rd = d.toNat ∧ ld.since = s.clk ∧
      ld.kind = .amo op (Spec.rb s l b) (gval s d.toNat) sc.toNat (o.toNat % 2 == 1) ∧
      amoFar s l op d.toNat b.toNat sc.toNat o.toNat n v = .ok (s1.updMe fun k => { k with loads := k.loads ++ [ld] }) := by
  refine ⟨{ kind := .amo op (Spec.rb s l b) (gval s d.toNat) sc.toNat (o.toNat % 2 == 1), va := v, key := (placeOf s1 s.cur tr v).getD 0,
            tr := tr, size := n, rd := d.toNat, escape := false, since := s.clk, pushed := if o.toNat % 2 = 1 then s1.me.pushed else [] },
    rfl, rfl, rfl, rfl, rfl, ?_⟩
  have hroom : gRoom s s1 d.toNat = .ok () := by rw [gRoom, hb]
  have hwin : windowOf v = .global ∨ windowOf v = .common ∧ sc.toNat = 2 := by
    rcases hsc with ⟨rfl, hw⟩ | ⟨-, hw, -⟩
    · exact hw.imp_right fun h => ⟨h, rfl⟩
    · exact .inl hw
  have hperm : sc.toNat = 2 ∨ fld (s.part (corePart s s.cur)).facc 19 16 ≠ 0 := by
    rcases hsc with ⟨rfl, -⟩ | ⟨-, -, hf⟩
    · exact .inl rfl
    · exact .inr hf
  unfold amoFar
  rw [need_holds hwin, ok_bind, need_holds hperm, ok_bind, hca, ok_bind]
  dsimp only
  rw [hrc, ok_bind, hroom, ok_bind, rbval_toNat]

/-- A core whose pair's last agreeing point has a delivered result too (R372). -/
def Core.agreedOn (k : Core) (d : Nat) (v : Word) : Core :=
  { k with yoke := k.yoke.map fun y => y.putAgreed (((y.agreedCore k).deliverG d v).getD (y.agreedCore k)) }

theorem deliverAction_plain {s : State} {c d : Nat} (v : Word) (hb : boundG (s.core c) d = none) :
    ∃ t, deliverAction s c d v = some t ∧ t.mem = s.mem ∧ (d ≠ 0 → mget 0 (t.core c).r.g d = v) := by
  have hg : deliverG s c d v = some (s.setCore c ((s.core c).received d v)) := deliverG_plain v hb
  refine ⟨(s.setCore c ((s.core c).received d v)).updCore c (·.agreedOn d v), by rw [deliverAction, hg]; rfl, rfl, fun hd => ?_⟩
  rw [State.updCore, State.core_setCore, State.core_setCore]
  exact Core.received_same _ _ hd

theorem writeRange_core_common {c : Nat} {tr : SMap Nat} (bs : List Byte) : ∀ {s : State} {v : Nat},
    commonBase ≤ v → v + bs.length ≤ commonBase + 2 ^ 28 → (writeRange s c tr v bs).cores = s.cores := by
  induction bs with
  | nil => exact fun _ _ => rfl
  | cons b bs ih =>
    intro s v h0 h1
    rw [List.length_cons] at h1
    have hk : ¬ commonKey s (corePart s c) (v - commonBase) / 2 ^ 64 = 4 := by rw [commonKey_space]; decide
    rw [writeRange, placeOf_common s c tr (windowOf_common h0 (by omega)), ih (by omega) (by omega)]
    dsimp only
    rw [writeKey, if_neg hk, State.setByte_cores]

theorem common_span {v n : Nat} (hn : 0 < n) (h0 : windowOf v = .common) (h1 : windowOf (v + n - 1) = .common) :
    commonBase ≤ v ∧ v + n ≤ commonBase + 2 ^ 28 := by
  obtain ⟨hlo, -⟩ := bounds_of_common h0
  obtain ⟨-, hhi⟩ := bounds_of_common h1
  exact ⟨hlo, by omega⟩

theorem amoReturns (s : State) (c j : Nat) (ld : Load) (op : Nat) (x cmp : Word) (sc : Nat) (acq : Bool)
    (h : (s.core c).loads[j]? = some ld) (hk : ld.kind = .amo op x cmp sc acq) (hy : (s.core c).yoke = none) (hs : ld.since + 4 ≤ s.clk)
    (hd : s.downLinks = []) (he : s.ecc = []) (htr : ld.tr = []) (hw : windowOf ld.va = .common)
    (hw' : windowOf (ld.va + ld.size - 1) = .common) (hsz : ld.size = 4 ∨ ld.size = 8)
    (hm : ∀ m ∈ (s.core c).loads.take j, shares s c (ld.va, ld.size) (m.va, m.size) = false) (hb : boundG (s.core c) ld.rd = none) :
    ∃ t, Completes (.loadReturn c j) s t ∧
      (ld.rd ≠ 0 → mget 0 (t.core c).r.g ld.rd = BitVec.ofNat 64 (leNat (readRange s c [] ld.va ld.size))) ∧
      t.mem = (writeRange s c [] ld.va
        (leBytes ld.size (amoNew op ld.size (leNat (readRange s c [] ld.va ld.size)) x.toNat cmp.toNat))).mem := by
  obtain ⟨h0, h1⟩ := common_span (hsz.elim (fun h => h ▸ by decide) fun h => h ▸ by decide) hw hw'
  have hlen (y : Nat) : ld.va + (leBytes ld.size y).length ≤ commonBase + 2 ^ 28 := by
    simpa only [length_leBytes] using h1
  have hcore (y : Nat) : (writeRange (loadTaken s c j) c [] ld.va (leBytes ld.size y)).core c =
      { s.core c with loads := (s.core c).loads.eraseIdx j } := by
    rw [State.core, writeRange_core_common _ h0 (hlen y)]
    exact loadTaken_core s c j
  obtain ⟨t, ht, hmem, hg⟩ := deliverAction_plain (c := c) (d := ld.rd)
    (s := writeRange (loadTaken s c j) c [] ld.va
      (leBytes ld.size (amoNew op ld.size (leNat (readRange s c [] ld.va ld.size)) x.toNat cmp.toNat)))
    (BitVec.ofNat 64 (leNat (readRange s c [] ld.va ld.size))) (by rw [hcore]; exact hb)
  have hp : performLoad s c j = some t := by
    rw [performLoad_clean h hy he, hk, htr]
    exact ht
  refine ⟨t, ?_, hg, hmem.trans ((loadTaken_places s c j).writeRange_mem _ rfl h0 (hlen _))⟩
  rw [Completes, exec_loadReturn, execLoadReturn, hp]
  dsimp only
  rw [loadDue_of h hy hs hd hm, event_due]

theorem amoOnMemory : Spec.AmoOnMemory := by
  refine ⟨?_, fun s c j ld op x cmp sc acq h hk hy hs hd he _ htr hw hw' hsz hm hb =>
    amoReturns s c j ld op x cmp sc acq h hk hy hs hd he htr hw hw' hsz hm hb⟩
  intro i l op d a b sc o n s tr s1 hi hlatch hr hf hlen p v ht hv hu hm ho hca hrc hl1 hb1 hcur
  have hbound : boundG s.pre d.toNat = none := hr.unbound (by simp)
  refine ⟨?_, ?_⟩
  · intro hsc hwin hval old new
    refine completes_of_ok ?_
    have hwait : amoWait s v n sc.toNat o.toNat = .ok () := amoWait_ok hlen hu hm ho (.inl (by rw [hsc]; decide))
    rw [amo_acts hi hr hf ht hv hwait, hsc]
    exact congrArg (settle s) (amoOnLocalMemory hca hrc hl1 hb1 hcur hwin hval)
  · intro hsc hlast
    have hwait : amoWait s v n sc.toNat o.toNat = .ok () := amoWait_ok hlen hu hm ho (.inr hlast)
    obtain ⟨ld, h1, h2, h3, h4, h5, h6⟩ := amoIsOutstanding (l := l) (op := op) (b := b) (o := o) hca hrc hbound hsc
    refine ⟨ld, h1, h2, h3, h4, h5, completes_of_ok ?_⟩
    rw [amo_acts hi hr hf ht hv hwait, ← h6]
    refine congrArg (settle s) ?_
    rcases hsc with ⟨rfl, -⟩ | ⟨rfl, -⟩ <;> rfl

end Sys2Proof.Machine

namespace Sys2Proof
open Machine

/-- Settles O32: the operations on integers, and an AMO at issue and at its return. -/
theorem atomicOperations : Obligations.AtomicOperations := ⟨amoIntegerOperations, amoOnASyncWord, amoOnMemory⟩

end Sys2Proof

end

section
/-! PROOFS. Fences and QFENCE. -/

namespace Sys2Proof.Machine

/-! ## Fences (R320 to R322) -/

theorem addFence_idle {s : State} {f : Fence} (h : f.pending s.me s s.cur = false) : addFence s f = s := by
  rw [addFence, h]
  rfl

theorem addFence_pending {s : State} {f : Fence} (h : f.pending s.me s s.cur = true) :
    addFence s f = s.updMe fun k => { k with fences := k.fences ++ [f] } := by
  rw [addFence, h, if_pos rfl]

theorem exec_fenceR_ready {s : State} {l : Lit} {a b : BitVec 5} (h : Ready s [a.toNat, b.toNat] []) :
    exec (.fenceR l a b) s = settle s (
      need (decide ((gval s a.toNat).toNat / 2 ^ 48 % 64 = 0 ∧ (gval s a.toNat).toNat % 2 ^ 48 + (Spec.rb s l b).toNat ≤ 2 ^ 48)) (trapC cTAG) >>=
      fun _ => .ok (if (Spec.rb s l b).toNat = 0 then s else addFence s
        { pred := 63, succ := 63, range := some ((gval s a.toNat).toNat % 2 ^ 48, (Spec.rb s l b).toNat), pushed := s.me.pushed })) := by
  rw [exec_fenceR, execFenceR, withRegs_ready _ h]
  simp only [fld_reserved, ptrAddr, fld_address, rbval_toNat]

/-- The queues that a QFENCE names. -/
theorem mem_named {m : BitVec 8} {q : Nat} : q ∈ (List.range 8).filter (fun q => m.getLsbD q) ↔ q < 8 ∧ m.getLsbD q = true := by
  rw [List.mem_filter, List.mem_range]

theorem deferredOf_none {k : Core} {qs : List Nat} (h : ∀ q ∈ qs, ∀ x, mfind k.queues q = some x → x.err = none) : k.deferredOf qs = none := by
  have hf : (qs.find? fun q => ((mfind k.queues q).bind (·.err)).isSome) = none := by
    rw [List.find?_eq_none]
    intro q hq
    cases hx : mfind k.queues q with
    | none => simp
    | some x => simp [h q hq x hx]
  rw [Core.deferredOf, hf]
  rfl

theorem deferredOf_lowest {k : Core} {m : BitVec 8} {q : Nat} {x : EQueue} {e : DefErr} (hq : q < 8) (hm : m.getLsbD q = true)
    (hx : mfind k.queues q = some x) (he : x.err = some e)
    (hlow : ∀ r y, r < q → m.getLsbD r = true → mfind k.queues r = some y → y.err = none) :
    k.deferredOf ((List.range 8).filter fun q => m.getLsbD q) = some (e.trap q) := by
  have hf : ((List.range 8).filter fun q => m.getLsbD q).find? (fun q => ((mfind k.queues q).bind (·.err)).isSome) = some q := by
    rw [List.find?_filter, List.find?_range_eq_some]
    refine ⟨by simp [hm, hx, he], List.mem_range.mpr hq, fun r hr => ?_⟩
    cases hb : m.getLsbD r with
    | false => simp
    | true =>
      cases hy : mfind k.queues r with
      | none => simp
      | some y => simp [hlow r y hr hb hy]
  rw [Core.deferredOf, hf]
  simp [hx, he]

theorem exec_qfence_empty {s : State} {l : Lit} {m : BitVec 8}
    (h : ∀ q y, q < 8 → m.getLsbD q = true → mfind s.me.queues q = some y → y.entries = []) :
    exec (.qfence l m) s = settle s (match s.me.deferredOf ((List.range 8).filter fun q => m.getLsbD q) with
      | some e => .error e
      | none => .ok s) := by
  have hall : (((List.range 8).filter fun q => m.getLsbD q).all fun q => ((mfind s.me.queues q).map fun x => x.entries.isEmpty).getD true) = true := by
    rw [List.all_eq_true]
    intro q hq
    obtain ⟨hq, hb⟩ := mem_named.mp hq
    cases hx : mfind s.me.queues q with
    | none => rfl
    | some x => simp [h q x hq hb hx]
  rw [exec_qfence, execQfence]
  dsimp only
  rw [hall] <;> rfl

theorem exec_qfence_waits {s : State} {l : Lit} {m : BitVec 8} {q : Nat} {x : EQueue} (hq : q < 8) (hm : m.getLsbD q = true)
    (hx : mfind s.me.queues q = some x) (he : x.entries ≠ []) : exec (.qfence l m) s = .next { s with issue := .stalled } := by
  have hall : (((List.range 8).filter fun q => m.getLsbD q).all fun q => ((mfind s.me.queues q).map fun x => x.entries.isEmpty).getD true) = false := by
    rw [List.all_eq_false]
    refine ⟨q, mem_named.mpr ⟨hq, hm⟩, ?_⟩
    simp [hx, he]
  rw [exec_qfence, execQfence]
  dsimp only
  rw [hall]
  rfl

end Sys2Proof.Machine

namespace Sys2Proof
open Machine

/-- Settles O33: what a fence finds pending decides whether it is recorded, and what the named queues hold how QFENCE ends. -/
theorem fencesAreRecordedOrEnd : Obligations.FencesAreRecordedOrEnd := by
  intro s l p u a b m hr f w n g
  refine ⟨fun h => ?_, fun h => ?_, fun ht hn h => ?_, fun ht hn h0 h => ?_, fun h => ?_, fun h => ?_, fun q x hq hm hx he => ?_,
    fun q x e hq hm hempty hx he hlow => ?_⟩
  · exact completes_of_ok (by rw [exec_fenceS, execFenceS, addFence_idle h])
  · exact completes_of_ok (by rw [exec_fenceS, execFenceS, addFence_pending h])
  · refine completes_of_ok ?_
    rw [exec_fenceR_ready hr, need_holds ⟨ht, hn⟩, ok_bind]
    rcases h with h | h
    · rw [if_pos h]
    · rw [addFence_idle h, ite_self]
  · refine completes_of_ok ?_
    rw [exec_fenceR_ready hr, need_holds ⟨ht, hn⟩, ok_bind, if_neg h0, addFence_pending h]
  · refine traps_of_trapC ?_
    rw [exec_fenceR_ready hr, need_fails (fun hok => ?_)]
    · rfl
    · rcases h with h | h
      · exact h hok.1
      · exact absurd hok.2 (Nat.not_le.mpr h)
  · refine completes_of_ok ?_
    rw [exec_qfence_empty fun q y hq hm hy => (h q hq hm y hy).1, deferredOf_none fun q hq y hy => ?_]
    obtain ⟨hq, hm⟩ := mem_named.mp hq
    exact (h q hq hm y hy).2
  · exact exec_qfence_waits hq hm hx he
  · refine ⟨_, ?_, by rw [exec_qfence_empty hempty, deferredOf_lowest hq hm hx he hlow]; rfl⟩
    rfl

end Sys2Proof

end

section
/-! PROOFS. Acceptance of vector instructions into the sequencer. -/

namespace Sys2Proof.Machine

/-! ## Acceptance of an entry (R193) -/

theorem vpops_unbound {s s' : State} {m : Option Nat} {len : Nat} {rs : List Nat} (h : ∀ r ∈ rs, boundV s.pre r = none) :
    vpops s s' m len rs = .ok ([], m, s') :=
  foldlM_fixed rs fun r hr => by rw [h r hr]

theorem vroom_unbound {s s' : State} {r len : Nat} (h : boundV s.pre r = none) : vroom s s' r len = .ok () := by rw [vroom, h]

theorem slices_eq (e : VEntry) : e.slices = Spec.slices e := rfl

/-- Without a capture an entry joins the queue. -/
theorem Core.accept_plain {k : Core} (h : k.vcap = none) (e : VEntry) : k.accept e = { k with seqr := k.seqr ++ [.one e] } := by
  unfold Core.accept
  split
  · next v hv =>
    rw [h] at hv
    cases hv
  · rfl

/-- The state once an entry stands last in the sequencer, with the slices it is to issue in. -/
def State.queuedV (s : State) (e : VEntry) : State :=
  s.updMe fun k => { k with seqr := k.seqr ++ [.one { e with left := Spec.slices e, since := s.clk }] }

section
variable {s : State} {e : VEntry}

theorem acceptEntry_full (h : 16 ≤ s.me.ventries.length) : acceptEntry s s e = .error .hold := by
  rw [acceptEntry, acceptPopped, Core.vroomy, need_fails (Nat.not_lt.mpr h)]
  rfl

theorem acceptEntry_roomy (h : s.me.ventries.length < 16) : acceptEntry s s e = (need (decide (s.pre.r.lanes ≠ 0)) (trapC cILLEGAL) >>= fun _ =>
    vpops s s none e.len e.vsrcs >>= fun x => (match e.vdest with
      | some d => vroom s x.2.2 d e.len
      | none => .ok ()) >>= fun _ => .ok ((countPops x.2.2 x.2.1).updMe fun k =>
        k.accept { e with pops := x.1, left := e.slices, since := s.clk })) := by
  rw [acceptEntry, acceptPopped, Core.vroomy, need_holds h, ok_bind]
  cases e.vdest <;> rfl

theorem acceptEntry_noLanes (h : s.me.ventries.length < 16) (hl : s.pre.r.lanes = 0) : acceptEntry s s e = .error (trapC cILLEGAL) := by
  rw [acceptEntry_roomy h, need_fails (fun h => h hl)]
  rfl

theorem acceptEntry_ok (h : s.me.ventries.length < 16) (hl : s.pre.r.lanes ≠ 0) (hv : ∀ r ∈ e.vregs, boundV s.pre r = none)
    (hc : s.me.vcap = none) (hp : e.pops = []) : acceptEntry s s e = .ok (s.queuedV e) := by
  have hsrc : ∀ r ∈ e.vsrcs, boundV s.pre r = none := fun r hr => hv r (by
    unfold VEntry.vregs
    split
    · exact List.mem_cons_of_mem _ hr
    · exact hr)
  have hdest : (match e.vdest with
      | some d => vroom s s d e.len
      | none => .ok ()) = .ok () := by
    cases hd : e.vdest with
    | none => rfl
    | some d => exact vroom_unbound (hv d (by simp [VEntry.vregs, hd]))
  have hacc : s.me.accept { e with pops := [], left := e.slices, since := s.clk } =
      { s.me with seqr := s.me.seqr ++ [.one { e with left := Spec.slices e, since := s.clk }] } := by
    rw [Core.accept_plain hc, slices_eq, ← hp]
  rw [acceptEntry_roomy h, need_holds hl, ok_bind, vpops_unbound hsrc, ok_bind, hdest, ok_bind, countPops_none]
  exact congrArg (fun k => Except.ok (s.setCore s.cur k)) hacc

end

/-- An instruction whose attempt is the acceptance of an entry over free vector registers. -/
theorem enters_sequencer {s : State} {i : Instr} {e : VEntry} (hx : exec i s = settle s (acceptEntry s s e)) (hc : s.me.vcap = none)
    (hp : e.pops = []) (hv : ∀ r ∈ e.vregs, boundV s.pre r = none) :
    (s.me.ventries.length < 16 → s.pre.r.lanes ≠ 0 → Completes i s (s.queuedV e)) ∧
    (s.me.ventries.length < 16 → s.pre.r.lanes = 0 → Traps i s cILLEGAL) ∧
    (16 ≤ s.me.ventries.length → exec i s = .next { s with issue := .held }) :=
  ⟨fun h hl => completes_of_ok (by rw [hx, acceptEntry_ok h hl hv hc hp]), fun h hl => traps_of_trapC (by rw [hx, acceptEntry_noLanes h hl]),
    fun h => by rw [hx, acceptEntry_full h, settle_hold]⟩

/-! ## The attempts of the A-slot vector instructions (R202) -/

theorem fld_eq_bit (w : Word) (i : Nat) : (fld w i i == 1) = w.getLsbD i := by
  have h : fld w i i = if w.getLsbD i then 1 else 0 := by
    rw [fld, Nat.sub_self, zero_add, pow_one, BitVec.getLsbD, Nat.testBit_eq_decide_div_mod_eq]
    have := Nat.mod_two_eq_zero_or_one (w.toNat / 2 ^ i)
    by_cases h1 : w.toNat / 2 ^ i % 2 = 1 <;> simp [h1]
    omega
  rw [h]
  cases w.getLsbD i <;> rfl

theorem entryOf_eq (s : State) (op : VOp) (d a b c : Nat) : entryOf s.pre op d a b c = Spec.entry s op d a b c 0 := by
  simp only [entryOf, Spec.entry, fpcRm, fpcSat, fpcFtz, nbvLevel, fld_eq_bit, if_true]
  simp [fld]

theorem entryOf_masked (s : State) (op : VOp) (d a b c : Nat) {k : Nat} (hk : k ≠ 0) :
    { entryOf s.pre op d a b c with mask := some (groupVal s k (maskRegs s.pre.r.vl)) } = Spec.entry s op d a b c k := by
  rw [entryOf_eq, groupVal_eq_groupNum]
  simp only [Spec.entry, if_neg hk, maskRegs, Spec.groupLen]

/-- A room that is asked for twice. -/
theorem need_twice {α : Type} (b : Bool) (e : Stop) (f : Res α) : (need b e >>= fun _ => (need b e >>= fun _ => f)) = (need b e >>= fun _ => f) := by
  cases b <;> rfl

theorem acceptEntry_room (s : State) (e : VEntry) : (need s.me.vroomy .hold >>= fun _ => acceptEntry s s e) = acceptEntry s s e :=
  need_twice _ _ _

/-- Where only the rounding of an entry is changed. -/
def withRm (rm : Nat) (e : VEntry) : VEntry := { e with rm := rm }

theorem vecOp_ready {s : State} {k : Nat} (op : VOp) (d a b c : Nat) (hr : Ready s (Spec.maskGroup s k) [])
    (h32 : ∀ r ∈ Spec.maskGroup s k, r < 32) (f : VEntry → VEntry)
    (hf : ∀ e m, { f e with mask := m } = f { e with mask := m }) :
    vecOp s op d a b c k f = settle s (acceptEntry s s (f (Spec.entry s op d a b c k))) := by
  have hn : maskRegs s.pre.r.vl = Spec.groupLen s := rfl
  by_cases hk : k = 0
  · subst hk
    have hr0 : Ready s [] [] := hr
    rw [vecOp]
    dsimp only
    rw [if_pos rfl, if_pos rfl, withPops_ready _ _ hr0, if_pos rfl, entryOf_eq]
    refine congrArg (settle s) ?_
    exact Eq.trans (by cases s.me.vroomy <;> rfl) (acceptEntry_room s (f (Spec.entry s op d a b c 0)))
  · have hg : Spec.maskGroup s k = span k (Spec.groupLen s) := if_neg hk
    have hlen : 0 < Spec.groupLen s := by rw [Spec.groupLen]; omega
    have hle : k + Spec.groupLen s ≤ 32 := by
      have := h32 (k + (Spec.groupLen s - 1)) (by rw [hg, mem_span]; omega)
      omega
    rw [hg] at hr
    rw [vecOp]
    dsimp only
    rw [if_neg hk, if_neg hk, hn, withPops_ready _ _ (show Ready s (group k (Spec.groupLen s)) [] from hr), if_neg hk,
      groupFree_ready hr hle (fun r hr => List.mem_append_left _ hr), hf, ← hn, entryOf_masked s op d a b c hk]
    refine congrArg (settle s) ?_
    exact Eq.trans (by cases s.me.vroomy <;> rfl) (acceptEntry_room s (f (Spec.entry s op d a b c k)))

/-- Every A-slot vector instruction but VCMP and VMOVS is the acceptance of the entry that R203 to R210 give it. -/
theorem exec_vec {s : State} {i : Instr} {e : VEntry} {gs : List Nat} (h : Spec.Vec s i e gs) (hr : Ready s gs []) (h32 : ∀ r ∈ gs, r < 32) :
    exec i s = settle s (acceptEntry s s e) := by
  have hcvt (o : VCvtOp) (d a : BitVec 4) (fc : Nat) (r : BitVec 3) (k : Nat) (hk : Ready s (Spec.maskGroup s k) [])
      (hk32 : ∀ r ∈ Spec.maskGroup s k, r < 32) (ok : (2 ≤ fc ∧ fc ≤ 8 ∨ fcInt fc = true) ∧ r.toNat ≤ 4) :
      vecCvt s o d.toNat a.toNat fc r.toNat k = settle s (acceptEntry s s
        (withRm (if r = 0 then (s.pre.ctl 0x011).toNat % 8 else r.toNat - 1) (Spec.entry s (.cvt o fc 0) d.toNat a.toNat 0 0 k))) := by
    have hok : ((decide (2 ≤ fc ∧ fc ≤ 8) || fcInt fc) && decide (r.toNat ≤ 4)) = true := by simpa using ok
    have hrm : rmField s.pre r.toNat = if r = 0 then (s.pre.ctl 0x011).toNat % 8 else r.toNat - 1 := by
      have hz : r.toNat = 0 ↔ r = 0 := by simp [BitVec.toNat_eq]
      have hfld (w : Word) : fld w 2 0 = w.toNat % 8 := by simp [fld]
      simp only [rmField, hz, fpcRm, hfld]
    rw [vecCvt, if_pos hok, ← hrm]
    exact vecOp_ready _ _ _ _ _ hk hk32 (withRm _) fun _ _ => rfl
  have hblk (o : VCvtOp) (d a : BitVec 4) (fc bl : Nat) (ok : fcOk (s.part (corePart s s.cur)).facc fc bl = true ∧ (fcBlock fc = true ∨ fc = 18))
      (h0 : Ready s [] []) : vecCvtBlock s o d.toNat a.toNat fc bl = settle s (acceptEntry s s (Spec.entry s (.cvt o fc bl) d.toNat a.toNat 0 0 0)) := by
    have hok : (fcOk (s.part (corePart s s.cur)).facc fc bl && (fcBlock fc || fc == 18)) = true := by simpa using ok
    rw [vecCvtBlock, if_pos hok]
    exact vecOp_ready (k := 0) _ _ _ _ _ h0 (by simp [Spec.maskGroup]) id fun _ _ => rfl
  cases h with
  | vsplat d g =>
    rw [exec_vsplat, execVsplat, withRegs_ready _ hr, entryOf_eq]
  | vnarrow d a c h r k ok => exact hcvt _ _ _ _ _ _ hr h32 ok
  | vwiden d a c h r k ok => exact hcvt _ _ _ _ _ _ hr h32 ok
  | vqrnd d a c h r k ok => exact hcvt _ _ _ _ _ _ hr h32 ok
  | vmxq d a c h l ok => exact hblk _ _ _ _ _ ok hr
  | vmxs d a c h l ok => exact hblk _ _ _ _ _ ok hr
  | vmxc d a c h l ok => exact hblk _ _ _ _ _ ok hr
  | vbaleq d a ok => exact hblk _ _ _ _ _ ⟨ok, .inr rfl⟩ hr
  | _ => exact vecOp_ready _ _ _ _ _ hr h32 id fun _ _ => rfl

/-! ## VCMP and VMOVS (R206, R210) -/

theorem capOpen_of_none {k : Core} (h : k.vcap = none) : k.capOpen = false := by rw [Core.capOpen, h]

theorem exec_vcmp {i : Instr} {o : VCmpOp} {a b : BitVec 4} {d : BitVec 5} (h : Spec.VCmp i o a b d) (s : State) :
    exec i s = vecCmp s o a.toNat b.toNat d.toNat := by
  cases h <;> rfl

theorem vecCmp_ready {s : State} {o : VCmpOp} {a b : Nat} {d : BitVec 5} (hr : Ready s [] (span d.toNat (Spec.groupLen s))) (hd : d ≠ 0)
    (h32 : d.toNat + Spec.groupLen s ≤ 32) (hc : s.me.vcap = none) (hlen : s.me.ventries.length < 16) :
    vecCmp s o a b d.toNat = settle s (acceptEntry s s { Spec.entry s (.cmp o) 0 a b 0 0 with gd := d.toNat }) := by
  have hn : maskRegs s.pre.r.vl = Spec.groupLen s := rfl
  have h0 : d.toNat ≠ 0 := by simpa [BitVec.toNat_eq] using hd
  have hok : (decide (d.toNat ≠ 0) && decide (d.toNat + Spec.groupLen s ≤ 32) && !s.me.capOpen) = true := by
    simp [h0, h32, capOpen_of_none hc]
  have hb : (!(span d.toNat (Spec.groupLen s)).any fun r => (boundG s.pre r).isSome) = true := by
    rw [Bool.not_eq_true', List.any_eq_false]
    intro r hmem
    simp [hr.unbound (List.mem_append_right _ hmem)]
  rw [vecCmp]
  dsimp only
  rw [hn, withRegs_ready _ (show Ready s [] (group d.toNat (Spec.groupLen s)) from hr), Core.vroomy, need_holds hlen, ok_bind, hok, need_true, ok_bind, group,
    hb, need_true, ok_bind, entryOf_eq]

theorem exec_vmovs_ready {s : State} {a : BitVec 4} {x : BitVec 8} {g : BitVec 5} (hr : Ready s [] [g.toNat]) (hc : s.me.vcap = none)
    (hlen : s.me.ventries.length < 16) : exec (.vmovs a x g) s = settle s (acceptEntry s s
      { Spec.entry s (.perm .movs) 0 a.toNat 0 0 0 with gd := g.toNat, val := BitVec.ofNat 64 x.toNat }) := by
  have hx : x.zeroExtend 64 = BitVec.ofNat 64 x.toNat := BitVec.eq_of_toNat_eq (by simp)
  rw [exec_vmovs, execVmovs, withRegs_ready _ hr, Core.vroomy, need_holds hlen, ok_bind, capOpen_of_none hc, Bool.not_false, need_true, ok_bind,
    hr.unbound (by simp), entryOf_eq, hx] <;> rfl

theorem vectorInstructionsEnterTheSequencer : Spec.VectorInstructionsEnterTheSequencer := by
  intro s i e gs hc queued
  refine ⟨fun h hr h32 hv => ?_, fun o a b d h hr hd h32 ha hb hlen hl => ?_, fun a x g hr ha hlen hl => ?_⟩
  · exact enters_sequencer (exec_vec h hr h32) hc (by cases h <;> rfl) hv
  · have hx := (exec_vcmp h s).trans (vecCmp_ready hr hd h32 hc hlen)
    refine (enters_sequencer hx hc rfl fun r hmem => ?_).1 hlen hl
    have hmem' : r ∈ [a.toNat, b.toNat] := hmem
    rcases List.mem_cons.mp hmem' with rfl | hmem'
    · exact ha
    · rw [List.mem_singleton.mp hmem']; exact hb
  · refine (enters_sequencer (exec_vmovs_ready hr hc hlen) hc rfl fun r hmem => ?_).1 hlen hl
    have hmem' : r ∈ [a.toNat] := hmem
    rw [List.mem_singleton.mp hmem']
    exact ha

end Sys2Proof.Machine

end

section
/-! PROOFS. VL, grants, captures and CLAIM. -/

namespace Sys2Proof.Machine

/-! ## VL, grants and captures (R82, R83, R197 to R199) -/

/-- Outside a packet the state before it is the state. -/
theorem pre_eq_me {s : State} (hl : s.latch = none) : s.pre = s.me := by rw [State.pre, hl]

theorem capOpen_pre {s : State} (hl : s.latch = none) : s.pre.capOpen = s.me.capOpen := by rw [pre_eq_me hl]

/-- A core with another vector length. -/
def Core.withVl (k : Core) (n : Nat) : Core := { k with r := { k.r with vl := n } }

/-- A register write after a change of the core that keeps its streams. -/
theorem setG_after {s t : State} (hl : s.latch = none) (hlt : t.latch = none) (hs : t.me.streams = s.me.streams) {d : Nat}
    (hb : boundG s.pre d = none) (v : Word) : setG t d v = .ok (t.wroteG d v) := by
  have hp : t.pre.streams = s.pre.streams := by rw [State.pre, State.pre, hl, hlt]; exact hs
  exact setG_plain v (by rw [boundG_congr hp]; exact hb)

section
variable {s : State} {l : Lit} {d a : BitVec 5} (hl : s.latch = none) (hr : Ready s [a.toNat] [d.toNat])
include hl hr

theorem exec_vsetl_open (hc : s.me.capOpen = true) : exec (.vsetl l d a) s = settle s (.error (trapC cILLEGAL)) := by
  rw [exec_vsetl, execVsetl, withRegs_ready _ hr, capOpen_pre hl, hc]
  rfl

theorem exec_vsetl_closed (hc : s.me.capOpen = false) : exec (.vsetl l d a) s = settle s (.ok
    ((s.updMe (·.withVl (max 0 (min 256 (gval s a.toNat).toInt)).toNat)).wroteG d.toNat
      (BitVec.ofNat 64 (max 0 (min 256 (gval s a.toNat).toInt)).toNat))) := by
  rw [exec_vsetl, execVsetl, withRegs_ready _ hr, capOpen_pre hl, hc, Bool.not_false, need_true, ok_bind]
  exact congrArg (settle s) (setG_after (t := s.updMe (·.withVl (max 0 (min 256 (gval s a.toNat).toInt)).toNat)) hl hl (by rw [State.me_updMe]; rfl)
    (hr.unbound (by simp)) _)

theorem exec_vsetli_illegal {n : BitVec 9} (hc : s.me.capOpen = true ∨ 256 < n.toNat) :
    exec (.vsetli l d n) s = settle s (.error (trapC cILLEGAL)) := by
  have hno : (decide (n.toNat ≤ 256) && !s.pre.capOpen) = false := by
    rw [capOpen_pre hl]
    rcases hc with h | h
    · rw [h, Bool.not_true, Bool.and_false]
    · rw [decide_eq_false (Nat.not_le.mpr h), Bool.false_and]
  rw [exec_vsetli, execVsetli, withRegs_ready (srcs := []) _ (hr.mono (by simp) (by simp)), hno]
  rfl

theorem exec_vsetli_closed {n : BitVec 9} (hc : s.me.capOpen = false) (hn : n.toNat ≤ 256) :
    exec (.vsetli l d n) s = settle s (.ok ((s.updMe (·.withVl n.toNat)).wroteG d.toNat (BitVec.ofNat 64 n.toNat))) := by
  have hv : n.zeroExtend 64 = BitVec.ofNat 64 n.toNat := BitVec.eq_of_toNat_eq (by simp)
  rw [exec_vsetli, execVsetli, withRegs_ready (srcs := []) _ (hr.mono (by simp) (by simp)), capOpen_pre hl, hc, decide_eq_true hn, hv]
  exact congrArg (settle s) (setG_after (t := s.updMe (·.withVl n.toNat)) hl hl (by rw [State.me_updMe]; rfl) (hr.unbound (by simp)) _)

theorem exec_vrep_illegal {m : BitVec 4} (hc : s.me.vcap ≠ none ∨ (gval s a.toNat).toNat = 0 ∨ 2 ^ 32 ≤ (gval s a.toNat).toNat) :
    exec (.vrep l a m) s = settle s (.error (trapC cILLEGAL)) := by
  have hno : (decide (1 ≤ (gval s a.toNat).toNat ∧ (gval s a.toNat).toNat < 2 ^ 32) && s.pre.vcap.isNone) = false := by
    rw [pre_eq_me hl]
    rcases hc with h | h
    · rw [Option.isNone_eq_false_iff.mpr (Option.isSome_iff_ne_none.mpr h), Bool.and_false]
    · rw [decide_eq_false (by omega), Bool.false_and]
  rw [exec_vrep, execVrep, withRegs_ready (dests := []) _ (hr.mono (by simp) (by simp))]
  dsimp only
  rw [hno]
  rfl

theorem exec_vrep_closed {m : BitVec 4} (hc : s.me.vcap = none) (h0 : 1 ≤ (gval s a.toNat).toNat) (h1 : (gval s a.toNat).toNat < 2 ^ 32) :
    exec (.vrep l a m) s = settle s (.ok (s.updMe fun c =>
      { c with vcap := some { left := m.toNat + 1, count := (gval s a.toNat).toNat, entries := [], suspended := false } })) := by
  have hok : (decide (1 ≤ (gval s a.toNat).toNat ∧ (gval s a.toNat).toNat < 2 ^ 32) && s.pre.vcap.isNone) = true := by
    rw [pre_eq_me hl, hc, decide_eq_true ⟨h0, h1⟩]
    rfl
  rw [exec_vrep, execVrep, withRegs_ready (dests := []) _ (hr.mono (by simp) (by simp))]
  dsimp only
  rw [hok]
  rfl

end

theorem exec_vdrain_open {s : State} {l : Lit} (hl : s.latch = none) (hc : s.me.capOpen = true) :
    exec (.vdrain l) s = settle s (.error (trapC cILLEGAL)) := by
  rw [exec_vdrain, execVdrain, capOpen_pre hl, hc]
  rfl

theorem exec_vdrain_closed {s : State} {l : Lit} (hl : s.latch = none) (hc : s.me.capOpen = false) :
    exec (.vdrain l) s = settle s (need s.me.seqr.isEmpty (.stall s) >>= fun _ => .ok s) := by
  rw [exec_vdrain, execVdrain, capOpen_pre hl, hc]
  rfl

/-! ## CLAIM (R197, R211) -/

/-- A core that has claimed lanes for r elements. -/
def Core.claims (k : Core) (n r : Nat) : Core :=
  { k with lanesWas := some (k.lanesWas.getD k.r.lanes), r := { k.r with lanes := n, lastReq := r } }

theorem claimLanes_eq (r : Nat) (s : State) (c : Nat) : claimLanes r s c = s.updCore c (·.claims (grantOf s c r) r) := rfl

theorem claimLanes_streams (r : Nat) (s : State) (c d : Nat) : ((claimLanes r s c).core d).streams = (s.core d).streams := by
  rw [claimLanes_eq, State.updCore]
  by_cases hd : d = c
  · rw [hd, State.core_setCore]; rfl
  · rw [State.core_setCore_other _ _ _ _ hd]

theorem claims_keep (r : Nat) (cs : List Nat) (s : State) : (cs.foldl (claimLanes r) s).latch = s.latch ∧ (cs.foldl (claimLanes r) s).cur = s.cur ∧
    ∀ d, ((cs.foldl (claimLanes r) s).core d).streams = (s.core d).streams := by
  induction cs generalizing s with
  | nil => exact ⟨rfl, rfl, fun _ => rfl⟩
  | cons c cs ih =>
    obtain ⟨h1, h2, h3⟩ := ih (claimLanes r s c)
    exact ⟨h1, h2, fun d => (h3 d).trans (claimLanes_streams r s c d)⟩

theorem exec_claim_illegal {s : State} {l : Lit} {d a : BitVec 5} {i : BitVec 15} (hl : s.latch = none) (hr : Ready s [a.toNat] [d.toNat])
    (h : s.me.capOpen = true ∨ (gval s a.toNat + BitVec.ofInt 64 i.toInt).toInt < 1 ∨ 256 < (gval s a.toNat + BitVec.ofInt 64 i.toInt).toInt) :
    exec (.claim l d a i) s = settle s (.error (trapC cILLEGAL)) := by
  have hi : i.signExtend 64 = BitVec.ofInt 64 i.toInt := rfl
  rw [exec_claim, execClaim, withRegs_ready _ hr, capOpen_pre hl, hi]
  rcases Bool.eq_false_or_eq_true s.me.capOpen with hc | hc
  · rw [hc]; rfl
  · rw [hc, Bool.not_false, need_true, ok_bind]
    dsimp only
    rw [need_fails]
    · rfl
    · rcases h with h | h
      · rw [hc] at h; cases h
      · omega

theorem exec_claim_closed {s : State} {l : Lit} {d a : BitVec 5} {i : BitVec 15} (hl : s.latch = none) (hr : Ready s [a.toNat] [d.toNat])
    (hc : s.me.capOpen = false) (h0 : 1 ≤ (gval s a.toNat + BitVec.ofInt 64 i.toInt).toInt)
    (h1 : (gval s a.toNat + BitVec.ofInt 64 i.toInt).toInt ≤ 256) :
    let n := (gval s a.toNat + BitVec.ofInt 64 i.toInt).toInt.toNat
    let u := (claimers s s.cur).foldl (claimLanes n) s
    exec (.claim l d a i) s = settle s (.ok (u.wroteG d.toNat
      (BitVec.ofNat 64 (32 * if s.me.inCompute then (n + 31) / 32 else u.me.r.lanes)))) := by
  intro n u
  obtain ⟨hlat, hcur, hstr⟩ := claims_keep n (claimers s s.cur) s
  have hi : i.signExtend 64 = BitVec.ofInt 64 i.toInt := rfl
  have hmin : min ((n + 31) / 32) 8 = (n + 31) / 32 := by omega
  have hv : (if s.me.inCompute = true then 32 * min ((n + 31) / 32) 8 else 32 * u.me.r.lanes) =
      32 * if s.me.inCompute = true then (n + 31) / 32 else u.me.r.lanes := by
    rw [hmin]
    split <;> rfl
  rw [exec_claim, execClaim, withRegs_ready _ hr, capOpen_pre hl, hc, Bool.not_false, need_true, ok_bind, hi]
  dsimp only
  rw [need_holds ⟨h0, h1⟩, ok_bind]
  refine congrArg (settle s) ?_
  show setG u d.toNat (BitVec.ofNat 64 (if s.me.inCompute = true then 32 * min ((n + 31) / 32) 8 else 32 * u.me.r.lanes)) = _
  rw [hv]
  exact setG_after hl (hlat.trans hl) (by rw [State.me, State.me, hcur, hstr]) (hr.unbound (by simp)) _

/-- The cores of a pair claim in increasing order, a core outside one alone. -/
theorem claimers_foldl (r : Nat) (s : State) : (claimers s s.cur).foldl (claimLanes r) s =
    if s.me.yoke.isSome then claimLanes r (claimLanes r s (s.cur / 2 * 2)) (s.cur / 2 * 2 + 1) else claimLanes r s s.cur := by
  rw [claimers, ← State.me]
  split <;> rfl

theorem vectorLengthGrantAndCapture : Spec.VectorLengthGrantAndCapture := by
  intro s l d a n m i hl hr x u r vl
  refine ⟨fun hc => ⟨?_, fun hn => ?_, fun hn => ?_, ?_, fun hbad => ?_, fun hs => ?_, fun hs => ?_⟩, fun hc h0 h1 => ?_, fun hbad => ?_,
    fun hc => ⟨?_, ?_, ?_, ?_⟩⟩
  · exact completes_of_ok (exec_vsetl_closed hl hr hc)
  · exact completes_of_ok (exec_vsetli_closed hl hr hc hn)
  · exact traps_of_trapC (exec_vsetli_illegal hl hr (.inr hn))
  · intro h0 h1 want takes even w
    have hu : w = (claimers s s.cur).foldl (claimLanes r.toNat) s := (claimers_foldl r.toNat s).symm
    rw [hu]
    exact completes_of_ok (exec_claim_closed hl hr hc h0 h1)
  · exact traps_of_trapC (exec_claim_illegal hl hr (.inr hbad))
  · exact completes_of_ok (by rw [exec_vdrain_closed hl hc, hs]; rfl)
  · have hne : s.me.seqr.isEmpty = false := List.isEmpty_eq_false_iff.mpr hs
    rw [exec_vdrain_closed hl hc, hne]
    rfl
  · exact completes_of_ok (exec_vrep_closed hl hr hc h0 h1)
  · exact traps_of_trapC (exec_vrep_illegal hl hr hbad)
  · exact traps_of_trapC (exec_vsetl_open hl hr hc)
  · exact traps_of_trapC (exec_vsetli_illegal hl hr (.inl hc))
  · exact traps_of_trapC (exec_claim_illegal hl hr (.inl hc))
  · exact traps_of_trapC (exec_vdrain_open hl hc)

end Sys2Proof.Machine

namespace Sys2Proof
open Machine

/-- Settles O34: VL, the grant and captures, and the entry of every A-slot vector instruction. -/
theorem vectorUnitEntry : Obligations.VectorUnitEntry := ⟨vectorLengthGrantAndCapture, vectorInstructionsEnterTheSequencer⟩

end Sys2Proof

end

section
/-! PROOFS. The integer and permutation entries at the head of the sequencer. -/

namespace Sys2Proof.Machine

/-! ## Lanes of the integer and permutation entries (R205, R210) -/

theorem sbyte_eq (w : Word32) (j : Nat) : sbyte w j = (w.extractLsb' (8 * j) 8).toInt := by
  have hn : (w.extractLsb' (8 * j) 8).toNat = w.toNat / 2 ^ (8 * j) % 256 := by
    rw [BitVec.extractLsb'_toNat, Nat.shiftRight_eq_div_pow]
  rw [sbyte, sgn_eq 7, BitVec.toInt_eq_toNat_cond, hn]
  norm_num
  split <;> split <;> omega

theorem ofInt_toInt_add (c : Word32) (x : Int) : c + BitVec.ofInt 32 x = BitVec.ofInt 32 (c.toInt + x) := by
  rw [BitVec.ofInt_add, BitVec.ofInt_toInt]

theorem ofInt_ite_min (a b : Word32) : (if b.slt a then b else a) = BitVec.ofInt 32 (min a.toInt b.toInt) := by
  rw [BitVec.slt_eq_decide]
  by_cases h : b.toInt < a.toInt
  · rw [if_pos (decide_eq_true h), min_eq_right h.le, BitVec.ofInt_toInt]
  · rw [if_neg (by simpa using h), min_eq_left (not_lt.mp h), BitVec.ofInt_toInt]

theorem ofInt_ite_max (a b : Word32) : (if a.slt b then b else a) = BitVec.ofInt 32 (max a.toInt b.toInt) := by
  rw [BitVec.slt_eq_decide]
  by_cases h : a.toInt < b.toInt
  · rw [if_pos (decide_eq_true h), max_eq_right h.le, BitVec.ofInt_toInt]
  · rw [if_neg (by simpa using h), max_eq_left (not_lt.mp h), BitVec.ofInt_toInt]

theorem ofNat_ite_min (a b : Word32) : (if b.ult a then b else a) = BitVec.ofNat 32 (min a.toNat b.toNat) := by
  rw [BitVec.ult_eq_decide]
  by_cases h : b.toNat < a.toNat
  · rw [if_pos (decide_eq_true h), min_eq_right h.le, BitVec.ofNat_toNat, BitVec.setWidth_eq]
  · rw [if_neg (by simpa using h), min_eq_left (not_lt.mp h), BitVec.ofNat_toNat, BitVec.setWidth_eq]

theorem ofNat_ite_max (a b : Word32) : (if a.ult b then b else a) = BitVec.ofNat 32 (max a.toNat b.toNat) := by
  rw [BitVec.ult_eq_decide]
  by_cases h : a.toNat < b.toNat
  · rw [if_pos (decide_eq_true h), max_eq_right h.le, BitVec.ofNat_toNat, BitVec.setWidth_eq]
  · rw [if_neg (by simpa using h), max_eq_left (not_lt.mp h), BitVec.ofNat_toNat, BitVec.setWidth_eq]

/-- The operation of a VINT entry on its three sources. -/
theorem lane_int {e : VEntry} {a b c : Nat → Word32} {o : VIntOp} {f : Nat → Word32} (h : Spec.Lane e a b c (.int o) f) (i : Nat) :
    o.elem (a i) (b i) (c i) = f i := by
  cases h with
  | add => exact BitVec.eq_of_toNat_eq (by simp [VIntOp.elem])
  | sub => exact BitVec.eq_of_toInt_eq (by rw [VIntOp.elem, BitVec.toInt_sub, BitVec.toInt_ofInt])
  | mul => exact BitVec.eq_of_toNat_eq (by simp [VIntOp.elem])
  | mulh => rfl
  | and => rfl
  | or => rfl
  | xor => rfl
  | sll => exact BitVec.eq_of_toNat_eq (by simp [VIntOp.elem, Nat.shiftLeft_eq])
  | srl =>
    refine BitVec.eq_of_toNat_eq ?_
    rw [BitVec.toNat_ofNat, Nat.mod_eq_of_lt (lt_of_le_of_lt (Nat.div_le_self _ _) (a i).isLt)]
    simp [VIntOp.elem, Nat.shiftRight_eq_div_pow]
  | sra => simp only [VIntOp.elem, BitVec.sshiftRight, Int.shiftRight_eq_div_pow]; push_cast; rfl
  | min => exact ofInt_ite_min _ _
  | max => exact ofInt_ite_max _ _
  | minu => exact ofNat_ite_min _ _
  | maxu => exact ofNat_ite_max _ _
  | adds => rfl
  | subs => rfl
  | mac => exact BitVec.eq_of_toNat_eq (by simp [VIntOp.elem])
  | dot4 =>
    rw [VIntOp.elem, ofInt_toInt_add]
    simp only [sbyte_eq, List.range_succ, List.range_zero]
    simp [Int.add_assoc]
  | abs =>
    have h0 : (0 : Int) ≤ ((a i).toInt.natAbs : Int) := Int.natCast_nonneg _
    rw [VIntOp.elem, clamp32, max_eq_right (by omega)]

/-! ## Elements written (R192, R196) -/

section
variable {f : SMap Word32 → Option Word32 × Nat → SMap Word32} {base : Nat} (hs : ∀ m w x, f m (some w, x) = mset 0 m (base + x) w)
  (hn : ∀ m x, f m (none, x) = m)
include hs hn

theorem mget_foldElems (ws : List (Option Word32)) (k : Nat) (m : SMap Word32) (j : Nat) :
    mget 0 ((ws.zipIdx k).foldl f m) (base + j) =
      if k ≤ j then (ws[j - k]?.join).getD (mget 0 m (base + j)) else mget 0 m (base + j) := by
  induction ws generalizing k m with
  | nil => simp
  | cons w ws ih =>
    rw [List.zipIdx_cons, List.foldl_cons, ih]
    rcases lt_trichotomy j k with h | h | h
    · rw [if_neg (by omega), if_neg (by omega)]
      cases w with
      | none => rw [hn]
      | some w => rw [hs, mget_mset_other _ _ _ _ _ (by omega)]
    · subst h
      rw [if_neg (by omega), if_pos le_rfl, Nat.sub_self]
      cases w with
      | none => rw [hn]; rfl
      | some w => rw [hs, mget_mset_same]; rfl
    · rw [if_pos (by omega), if_pos (by omega), show j - k = j - (k + 1) + 1 by omega, List.getElem?_cons_succ]
      cases w with
      | none => rw [hn]
      | some w => rw [hs, mget_mset_other _ _ _ _ _ (by omega)]

theorem mget_foldElems_other (ws : List (Option Word32)) (k : Nat) (m : SMap Word32) {q : Nat}
    (hq : ∀ x, k ≤ x → x < k + ws.length → q ≠ base + x) : mget 0 ((ws.zipIdx k).foldl f m) q = mget 0 m q := by
  induction ws generalizing k m with
  | nil => rfl
  | cons w ws ih =>
    rw [List.length_cons] at hq
    rw [List.zipIdx_cons, List.foldl_cons, ih _ _ fun x h0 h1 => hq x (by omega) (by omega)]
    cases w with
    | none => rw [hn]
    | some w => rw [hs, mget_mset_other _ _ _ _ _ (hq k le_rfl (by omega))]

end

theorem setElems_elem (k : Core) (r : Nat) (ws : List (Option Word32)) (i : Nat) :
    (k.setElems r ws).elem r i = (ws[i]?.join).getD (k.elem r i) := by
  show mget 0 (ws.zipIdx.foldl _ k.r.v) (256 * r + i) = _
  rw [mget_foldElems (fun _ _ _ => rfl) (fun _ _ => rfl), if_pos (Nat.zero_le i)]
  rfl

theorem setElems_elem_other (k : Core) {r q : Nat} (ws : List (Option Word32)) (hlen : ws.length ≤ 256) {i : Nat} (hi : i < 256) (hq : q ≠ r) :
    (k.setElems r ws).elem q i = k.elem q i :=
  mget_foldElems_other (base := 256 * r) (fun _ _ _ => rfl) (fun _ _ => rfl) ws 0 k.r.v fun x _ hx => by omega

/-! ## VECTOR_ENTRY_COMPLETE (R193, R194) -/

theorem each_elems (e : VEntry) (f : Nat → Word32 × Flags) :
    (e.each f).elems = (List.range e.len).map fun i => if e.active i then some (f i).1 else none := by
  simp only [VEntry.each, List.map_map]
  refine List.map_congr_left fun i _ => ?_
  show (if e.active i = true then (some (f i).1, (f i).2) else (none, 0)).1 = _
  split <;> rfl

theorem each_flags (e : VEntry) (f : Nat → Word32) : (e.each fun i => (f i, 0)).flags = 0 := by
  have h (l : List (Option Word32 × Flags)) (hl : ∀ x ∈ l, x.2 = 0) : l.foldl (fun a x => a ||| x.2) (0 : Flags) = 0 := by
    induction l with
    | nil => rfl
    | cons x l ih =>
      rw [List.foldl_cons, hl x (by simp)]
      exact ih fun y hy => hl y (by simp [hy])
  refine h _ fun x hx => ?_
  obtain ⟨i, _, rfl⟩ := List.mem_map.mp hx
  dsimp only
  split <;> rfl

/-- An entry of R205 or R210 has the lanes of the spec as its result, and nothing else. -/
theorem result_lane {e : VEntry} {k : Core} {ctr : Nat} {f : Nat → Word32} (hp : e.pops = [])
    (h : Spec.Lane e (k.elem e.va) (k.elem e.vb) (k.elem e.vc) e.op f) : e.result k ctr = e.each fun i => (f i, 0) := by
  have hsrc (r : Nat) : e.src k ctr r = k.elem r := funext fun i => by rw [VEntry.src, hp]; rfl
  unfold VEntry.result
  simp only [hsrc]
  generalize hop : e.op = op at h ⊢
  cases op with
  | int o =>
    dsimp only
    exact congrArg e.each (funext fun i => by rw [lane_int h i])
  | perm o => cases h <;> rfl
  | _ => cases h

theorem vdest_lane {e : VEntry} {a b c : Nat → Word32} {f : Nat → Word32} (h : Spec.Lane e a b c e.op f) : e.vdest = some e.vd := by
  unfold VEntry.vdest
  generalize e.op = op at h ⊢
  cases h <;> rfl

theorem slices_lane {e : VEntry} {a b c : Nat → Word32} {f : Nat → Word32} (h : Spec.Lane e a b c e.op f) : e.slices = 0 ↔ e.len = 0 := by
  have hz : e.slices = if e.len = 0 then 0 else (e.len + 31) / 32 := by
    unfold VEntry.slices
    generalize e.op = op at h ⊢
    cases h <;> rfl
  rw [hz]
  split <;> omega

/-- A core whose head entry, of no flags and of no store, has completed: the next of an entry without slices is eligible in the following clk
(R85). -/
def Core.entryDone (k : Core) (clk : Nat) (e : VEntry) (y : Core → Yoke → Yoke) : Core :=
  { orFlags k 0 with
    seqr := if e.slices = 0 then updHead (fun x => { x with since := clk }) (dropHead k.seqr) else dropHead k.seqr
    yoke := k.yoke.map (y k) }

theorem Core.entryDone_ctl (k : Core) (clk : Nat) (e : VEntry) (y : Core → Yoke → Yoke) (n : Nat) : (k.entryDone clk e y).ctl n = k.ctl n := by
  have h : (orFlags k 0).ctl n = k.ctl n := by
    rw [orFlags]
    by_cases hn : n = 0x011
    · rw [hn, Core.ctl_setCtl]; simp
    · rw [Core.ctl_setCtl_other _ _ hn]
  exact h

/-- The head of the sequencer, an entry of R205 or R210 over plain registers, completes. -/
theorem completeHead_lane {s : State} {c : Nat} {e : VEntry} {rest : List SeqItem} {f : Nat → Word32} (hs : (s.core c).seqr = .one e :: rest)
    (hl : (s.core c).loads = []) (hy : (s.core c).yoke = none) (hp : e.pops = []) (ha : e.again = false) (hv : boundV (s.core c) e.vd = none)
    (h : Spec.Lane e ((s.core c).elem e.va) ((s.core c).elem e.vb) ((s.core c).elem e.vc) e.op f) :
    ∃ y, completeHead s c = some ((s.setCore c ((s.core c).setElems e.vd ((List.range e.len).map fun i =>
      if e.active i then some (f i) else none))).updCore c (·.entryDone s.clk e y)) := by
  have hhead : (s.core c).vhead = some e := by rw [Core.vhead, hs]
  have hload : (s.core c).vloading e.vregs = false := by rw [Core.vloading, hl]; rfl
  have hpops : popsAgain s c e = some ([], s) := by rw [popsAgain, ha, hp]; rfl
  have heta : ({ e with pops := [] } : VEntry) = e := by rw [← hp]
  have hres := result_lane (ctr := s.freeCtr) hp h
  have hbytes : (e.each fun i => (f i, 0)).bytes = [] := rfl
  have hgreg : (e.each fun i => (f i, 0)).greg = none := rfl
  have hdel : deliverV s c e.vd e.len (e.each fun i => (f i, 0)).elems = some (s.setCore c ((s.core c).setElems e.vd
      ((List.range e.len).map fun i => if e.active i then some (f i) else none))) := by
    rw [deliverV, hv, each_elems]
  refine ⟨fun k y => if e.isStore then k.headStored y (vecRecords e (e.each fun i => (f i, 0))) else y, ?_⟩
  unfold completeHead
  dsimp only
  rw [hhead]
  simp only [Option.bind_eq_bind, Option.bind_some, hload, Bool.false_eq_true, if_false, hpops, heta, hres, hbytes, List.isEmpty_nil, Bool.not_true,
    Bool.false_and, if_true, vdest_lane h, hdel, hgreg, each_flags]
  rfl

theorem active_iff (e : VEntry) (i : Nat) : e.active i = true ↔ i < e.len ∧ ∀ m, e.mask = some m → m.testBit i = true := by
  unfold VEntry.active
  cases e.mask <;> simp

/-- The elements of vd that an entry of R205 or R210 leaves. -/
theorem lane_elem (k : Core) (e : VEntry) (f : Nat → Word32) (i : Nat) :
    (k.setElems e.vd ((List.range e.len).map fun i => if e.active i then some (f i) else none)).elem e.vd i =
      if i < e.len ∧ (∀ m, e.mask = some m → m.testBit i = true) then f i else k.elem e.vd i := by
  rw [setElems_elem, List.getElem?_map]
  by_cases hi : i < e.len
  · rw [List.getElem?_range hi, Option.map_some, Option.join_some]
    by_cases hact : e.active i = true
    · rw [if_pos hact, if_pos ((active_iff e i).mp hact)]
      rfl
    · rw [if_neg hact, if_neg fun h => hact ((active_iff e i).mpr h)]
      rfl
  · rw [List.getElem?_eq_none (by simpa using hi), if_neg fun h => hi h.1]
    rfl

end Sys2Proof.Machine

namespace Sys2Proof
open Machine

/-- Settles O35: the head entry's lanes are the only elements written, and FPC has no flag of theirs. -/
theorem vectorEntryWritesItsElements : Obligations.VectorEntryWritesItsElements := by
  intro s c e rest f hs hturn hl hy h0 hp ha hv hlen h
  obtain ⟨y, hdone⟩ := completeHead_lane hs hl hy hp ha hv h
  let ws := (List.range e.len).map fun i => if e.active i then some (f i) else none
  have hwslen : ws.length ≤ 256 := by simpa [ws] using hlen
  let t := (s.setCore c ((s.core c).setElems e.vd ws)).updCore c (·.entryDone s.clk e y)
  have hcore : t.core c = ((s.core c).setElems e.vd ws).entryDone s.clk e y := by
    simp only [t, State.updCore, State.core_setCore]
  have hturn' : s.hadTurn c = true := by
    rw [State.hadTurn]
    rcases hturn with h | h
    · rw [h, Bool.true_or]
    · rw [h, Bool.not_false, Bool.or_true]
  have hhead : ((s.core c).vhead.any fun e => decide (e.left = 0)) = true := by
    rw [Core.vhead, hs]
    exact decide_eq_true h0
  refine ⟨t, ?_, ?_, fun i _ => ?_, fun r i hi hne => ?_, ?_, ?_, fun n => ?_, rfl, rfl, fun x hx => ?_⟩
  · rw [Completes, exec_vectorEntryComplete, execVectorEntryComplete, hdone]
    dsimp only
    rw [hturn', hhead, Bool.and_true, event_due]
  · rw [hcore]
    show (if e.slices = 0 then updHead _ (dropHead (s.core c).seqr) else dropHead (s.core c).seqr) = _
    rw [hs]
    simp only [slices_lane h]
    rfl
  · rw [hcore]
    exact lane_elem (s.core c) e f i
  · rw [hcore]
    exact setElems_elem_other (s.core c) ws hwslen hi hne
  · rw [hcore]; rfl
  · rw [hcore]; rfl
  · rw [hcore, Core.entryDone_ctl]; rfl
  · simp only [t, State.updCore, State.core_setCore_other _ _ _ _ hx]

end Sys2Proof

end

section
/-! PROOFS. A vector access of the Common over two dies. -/

namespace Sys2Proof.Machine

/-! ## A range of the Common over two dies that are no neighbours (R26, R245) -/

/-- A device in two halves, west and east: core 0 works in the partition of dies 0 and 2, its g1 points to the last word of die 0's block of the
Common, VL is 2, and the first doubleword of die 2's block has an uncorrectable error. -/
def acrossDies : State :=
  { State.reset with
    layout := .westEast
    ecc := [(codeIx (commonKey { State.reset with layout := .westEast } 0 (2 ^ 26)), true)]
    cores := [(0, { Core.idle with r := { Core.idle.r with vl := 2, g := [(1, BitVec.ofNat 64 (commonBase + 2 ^ 26 - 4))] } })] }

/-- An LDV of two words whose second lies in die 2's block meets the error. -/
theorem acrossDies_traps : issueOf (exec (.ldv none 0 1 2 0 0) acrossDies) ≠ some .done := by decide +kernel

end Sys2Proof.Machine

namespace Sys2Proof
open Machine

/-- Refutes O36: a range of the Common may reach over its blocks of 64 MiB, and in a west or east half the blocks are no neighbours in memory.
At `acrossDies` the place of the first word and the bytes after it are sound, and the word that the load reads in the next block is not. -/
theorem not_vectorLoadsAndStores : ¬ Obligations.VectorLoadsAndStores := by
  intro h
  have hload := ((h acrossDies none 0 1 2 0 0 (by decide +kernel) rfl rfl rfl rfl (by decide +kernel) (by decide +kernel) rfl rfl rfl
    (by decide +kernel)).1 (by decide +kernel) (by decide +kernel)).1 (.inl (by decide +kernel)) (by decide +kernel)
  exact acrossDies_traps (congrArg issueOf hload)

end Sys2Proof

end

section
/-! PROOFS. Matrix instructions and moves enter their queue (R213, R218, R222 to R235): the checks in the model's order, and O37. -/

namespace Sys2Proof.Machine

/-! ## Queues of the engines (R218, R263) -/

theorem qmapEng_eq (s : State) (q : Nat) : qmapEng s.pre q = Spec.engine s q := by
  have hp : 2 ^ (4 * q) = 16 ^ q := by rw [pow_mul]; norm_num
  rw [qmapEng, Spec.engine, fld, hp, Nat.add_sub_cancel_left] <;> rfl

theorem queueWait_free {s : State} {q : Nat} (h : Spec.queueFree s q) : queueWait s q = .ok () := by
  have hn : (s.me.queue q).full = false := by
    have hlt : ¬ Config.queueRoom + 2 ≤ (s.me.queue q).entries.length := Nat.not_le.mpr h.1
    rw [EQueue.full, decide_eq_false hlt, Bool.and_false]
  rw [queueWait, hn]
  rfl

theorem enterQueue_free {s : State} {q : Nat} (h : Spec.queueFree s q) : enterQueue s q = .ok () := by
  have he : (s.me.queue q).err = none := h.2
  rw [enterQueue, queueWait_free h, ok_bind, he]

/-- No register is asked for. -/
theorem ready_nil (s : State) : Ready s [] [] := by
  refine ⟨rfl, ?_⟩
  unfold Core.failedRd
  split <;> rfl

/-! ## The engine's owner (R213, R235) -/

theorem useEngine_ok {s : State} {o : Occ} (h : Spec.mayOwn s o) : useEngine s = .ok (Spec.owning s o) := by
  obtain ⟨hocc, hown⟩ := h
  unfold useEngine Spec.owning
  rw [hocc]
  dsimp only
  rcases ho : (s.fold (foldOf s.cur)).owner with _ | ⟨p, b, t⟩
  · rw [ownMatrix, ho]
    rfl
  · obtain ⟨hp, ht⟩ := hown p b t ho
    rw [ownMatrix, ho]
    simp [hp, ht]

theorem useEngine_taken {s : State} {o : Occ} {p b : Nat} {t : Word} (hocc : s.me.occ = some o)
    (h : (s.fold (foldOf s.cur)).owner = some (p, b, t)) (ht : t ≠ s.me.ctl 0x040) : useEngine s = .error (trapC cMXCAP) := by
  unfold useEngine
  rw [hocc]
  dsimp only
  rw [ownMatrix, h]
  simp [ht]

theorem owning_cur (s : State) (o : Occ) : (Spec.owning s o).cur = s.cur := by
  unfold Spec.owning
  split <;> rfl

theorem owning_cores (s : State) (o : Occ) : (Spec.owning s o).cores = s.cores := by
  unfold Spec.owning
  split <;> rfl

theorem owning_latch (s : State) (o : Occ) : (Spec.owning s o).latch = s.latch := by
  unfold Spec.owning
  split <;> rfl

theorem ownPart_ok {k : Core} {o : Occ} {tiles accs : List Nat} (hocc : k.occ = some o) (h : Spec.ownTiles o tiles accs) :
    ownPart k tiles accs = .ok () := by
  have hb : (!o.flagged || (tiles.all (fun t => t / 4 == o.k % 8) && accs.all (fun a => a == o.k % 8))) = true := by
    cases hf : o.flagged with
    | false => rfl
    | true =>
      obtain ⟨h1, h2⟩ := h hf
      simpa using ⟨h1, h2⟩
  rw [ownPart, hocc]
  dsimp only
  rw [hb, need_true]

/-! ## A matrix entry accepted (R218) -/

theorem matrixEntry_eq {s : State} {c : Nat} (hc : c = s.cur) (op : MOp) (d a b : Nat) (ta tb : Word) :
    matrixEntry s c (foldOf c) op d a b ta tb = Spec.mxEntry s op d a b ta tb [] := by
  subst hc
  simp [matrixEntry, Spec.mxEntry, nbvLevel, umodeOf, pmodeOf, fld]

theorem acceptMatrix_eq (s : State) (q : Nat) (e : MEntry) : acceptMatrix s q e = Spec.mxQueued s q e := rfl

theorem matrixQueue_lowest {s : State} {q : Nat} (hq : q < 8) (h3 : Spec.engine s q = 3) (hlow : ∀ r, r < q → Spec.engine s r ≠ 3) :
    matrixQueue s.pre = .ok q := by
  have hf : ((List.range 8).find? fun q => qmapEng s.pre q == 3) = some q := by
    rw [List.find?_range_eq_some]
    refine ⟨by simp [qmapEng_eq, h3], List.mem_range.mpr hq, fun r hr => ?_⟩
    simp [qmapEng_eq, hlow r hr]
  rw [matrixQueue, hf]

theorem matrixQueue_none {s : State} (h : ∀ r, r < 8 → Spec.engine s r ≠ 3) : matrixQueue s.pre = .error (trapC cILLEGAL) := by
  have hf : ((List.range 8).find? fun q => qmapEng s.pre q == 3) = none := by
    rw [List.find?_eq_none]
    intro r hr
    simp [qmapEng_eq, h r (List.mem_range.mp hr)]
  rw [matrixQueue, hf]

/-! ## MMA, ACC and TILE in the A-slot (R222 to R228) -/

/-- The command's pointer: general register b for a streamed B. -/
def mxPtr (s : State) (gB : Option Nat) : Word :=
  match gB with
  | some r => gval s r
  | none => 0

/-- The wait of a streamed B for the fences that order its reads (R226). -/
def mxFence (s : State) (m : MCmd) (p : Word) : Res Unit :=
  match m with
  | .mma _ true _ a _ => need (!(s.me.fenced clsMR (streamedSpans (tshOf s a) p))) .hold
  | _ => .ok ()

/-- The room in the queue that a command of the A-slot enters, where there is one (R98). -/
def mxRoom (s : State) : Res Unit :=
  match matrixQueue s.pre with
  | .ok q => queueWait s q
  | .error _ => .ok ()

/-- The checks of a command of the A-slot in order, and its acceptance. -/
def mxIssue (s : State) (m : MCmd) (p : Word) (s' : State) : Res State := do
  let q ← matrixQueue s.pre
  enterQueue s' q
  let s1 ← useEngine s'
  ownPart s.me m.tiles m.accs
  let x ← m.resolve s1 s.cur (tshOf s) (s1.fold (foldOf s.cur)).m.arrived p s.det
  .ok (acceptMatrix s1 q (matrixEntry s1 s.cur (foldOf s.cur) x.1 x.2.1 x.2.2.1 x.2.2.2.1 x.2.2.2.2.1 x.2.2.2.2.2))

theorem matrixOp_ready {s : State} {m : MCmd} {gB : Option Nat} (hr : Ready s gB.toList []) :
    matrixOp s m gB = settle s (mxRoom s >>= fun _ => mxFence s m (mxPtr s gB) >>= fun _ => mxIssue s m (mxPtr s gB) s) := by
  unfold matrixOp
  dsimp only
  rw [withChecked_ready _ _ hr]
  refine congrArg (settle s) ?_
  unfold mxRoom mxIssue
  cases matrixQueue s.pre with
  | error e => rfl
  | ok q => exact bind_assoc _ _ _

/-- A command of the A-slot whose checks pass. -/
theorem matrixOp_ok {s : State} {o : Occ} {q : Nat} {m : MCmd} {gB : Option Nat} {op : MOp} {d a b : Nat} {ta tb : Word} (hr : Ready s gB.toList [])
    (hown : Spec.mayOwn s o) (hq : matrixQueue s.pre = .ok q) (hfree : Spec.queueFree s q) (hparts : Spec.ownTiles o m.tiles m.accs)
    (hfence : mxFence s m (mxPtr s gB) = .ok ())
    (hres : m.resolve (Spec.owning s o) s.cur (tshOf s) ((Spec.owning s o).fold (foldOf s.cur)).m.arrived (mxPtr s gB) s.det =
      .ok (op, d, a, b, ta, tb)) :
    matrixOp s m gB = settle s (.ok (Spec.mxQueued (Spec.owning s o) q (Spec.mxEntry (Spec.owning s o) op d a b ta tb []))) := by
  have hroom : mxRoom s = .ok () := by rw [mxRoom, hq]; exact queueWait_free hfree
  rw [matrixOp_ready hr, hroom, ok_bind, hfence, ok_bind, mxIssue, hq, ok_bind, enterQueue_free hfree, ok_bind, useEngine_ok hown, ok_bind,
    ownPart_ok hown.1 hparts, ok_bind, hres, ok_bind, matrixEntry_eq (owning_cur s o).symm, acceptMatrix_eq]

/-- TFWD or TTAKE whose checks pass (R229). -/
theorem tileMove_ok {s : State} {o : Occ} {q : Nat} {tiles : List Nat} {op : MOp} {a b : Nat} {chk : State → Res Unit} (hown : Spec.mayOwn s o)
    (hq : matrixQueue s.pre = .ok q) (hfree : Spec.queueFree s q) (hparts : Spec.ownTiles o tiles []) (hf : s.me.inFlagged = false)
    (hchk : chk (Spec.owning s o) = .ok ()) :
    tileMove s tiles op a b chk = settle s (.ok (Spec.mxQueued (Spec.owning s o) q
      (Spec.mxEntry (Spec.owning s o) op 0 a b (tshOf s a) (tshOf s b) []))) := by
  rw [tileMove, withRegs_ready _ (ready_nil s), hq, ok_bind, enterQueue_free hfree, ok_bind, useEngine_ok hown, ok_bind, hf, Bool.not_false, need_true,
    ok_bind, hchk, ok_bind, ownPart_ok hown.1 hparts, ok_bind, matrixEntry_eq (owning_cur s o).symm, acceptMatrix_eq]

/-- Every form of the A-slot over tiles and accumulators whose checks pass (R222, R227 to R229). -/
theorem exec_mx {s : State} {o : Occ} {q : Nat} {i : Instr} {tiles accs : List Nat} {op : MOp} {d a b : Nat} {ta tb : Word}
    (hown : Spec.mayOwn s o) (hq : matrixQueue s.pre = .ok q) (hfree : Spec.queueFree s q)
    (h : Spec.Mx s (tshOf s) ((Spec.owning s o).fold (foldOf s.cur)).m.arrived i tiles accs op d a b ta tb) (hparts : Spec.ownTiles o tiles accs) :
    exec i s = settle s (.ok (Spec.mxQueued (Spec.owning s o) q (Spec.mxEntry (Spec.owning s o) op d a b ta tb []))) := by
  have one {m : MCmd} (ht : m.tiles = tiles) (ha : m.accs = accs) (hfence : mxFence s m 0 = .ok ())
      (hres : m.resolve (Spec.owning s o) s.cur (tshOf s) ((Spec.owning s o).fold (foldOf s.cur)).m.arrived 0 s.det = .ok (op, d, a, b, ta, tb)) :
      matrixOp s m none = settle s (.ok (Spec.mxQueued (Spec.owning s o) q (Spec.mxEntry (Spec.owning s o) op d a b ta tb []))) :=
    matrixOp_ok (ready_nil s) hown hq hfree (by rw [ht, ha]; exact hparts) hfence hres
  cases h with
  | mma d a b h k => exact one (m := .mma false false d.toNat a.toNat b.toNat) rfl rfl rfl (by simp [MCmd.resolve, h, k])
  | mmaz d a b h k => exact one (m := .mma true false d.toNat a.toNat b.toNat) rfl rfl rfl (by simp [MCmd.resolve, h, k])
  | azero d => exact one (m := .azero d.toNat) rfl rfl rfl rfl
  | acopy d a => exact one (m := .acopy d.toNat a.toNat) rfl rfl rfl rfl
  | aadd d a i => exact one (m := .aadd d.toNat a.toNat (i == 1)) rfl rfl rfl rfl
  | tzero a h => exact one (m := .tzero a.toNat) rfl rfl rfl (by simp [MCmd.resolve, h])
  | tcopy a b h =>
    obtain ⟨h1, h2, h3⟩ := h
    exact one (m := .tcopy a.toNat b.toNat) rfl rfl rfl (by simp [MCmd.resolve, ← h2, h1, h3])
  | ttrn a b h =>
    obtain ⟨h1, h2, h3, h4, h5, h6⟩ := h
    have hf : (1 ≤ tshFc (tshOf s a.toNat) ∧ tshFc (tshOf s a.toNat) ≤ 5) ∨ tshFc (tshOf s a.toNat) = 15 ∨ tshFc (tshOf s a.toNat) = 17 := by
      simp only [List.mem_cons, List.not_mem_nil, or_false] at h2
      omega
    have hc : decide (tshFc (tshOf s a.toNat) = tshFc (tshOf s b.toNat) ∧
        ((1 ≤ tshFc (tshOf s a.toNat) ∧ tshFc (tshOf s a.toNat) ≤ 5) ∨ tshFc (tshOf s a.toNat) = 15 ∨ tshFc (tshOf s a.toNat) = 17) ∧
        tshRows (tshOf s a.toNat) = tshCols (tshOf s b.toNat) ∧ tshCols (tshOf s a.toNat) = tshRows (tshOf s b.toNat) ∧ a.toNat ≠ b.toNat) = true :=
      decide_eq_true ⟨h1, hf, h3, h4, h5⟩
    have hn : (((Spec.owning s o).fold (foldOf s.cur)).m.arrived.contains a.toNat) = false := by simpa using h6
    refine one (m := .ttrn a.toNat b.toNat) rfl rfl rfl ?_
    rw [MCmd.resolve, hc, hn]
    rfl
  | tfwd a r h =>
    have hn : (neighbour (Spec.owning s o) (foldOf s.cur) r.toNat).isSome = true := by
      rw [← h.2]
      congr 1
      unfold Spec.owning
      split <;> rfl
    exact tileMove_ok hown hq hfree hparts h.1 (by rw [hn]; rfl)
  | ttake a b h =>
    have hn : (((Spec.owning s o).fold (foldOf s.cur)).m.arrived.contains a.toNat) = false := by simpa using h.2
    exact tileMove_ok hown hq hfree hparts h.1 (by rw [hn]; rfl)

theorem matrixOp_trap {s : State} {m : MCmd} {e : Stop} (hroom : mxRoom s = .ok ()) (hfence : mxFence s m 0 = .ok ()) (h : mxIssue s m 0 s = .error e) :
    matrixOp s m none = settle s (.error e) := by
  rw [matrixOp_ready (gB := none) (ready_nil s), hroom, ok_bind, show mxPtr s none = 0 from rfl, hfence, ok_bind, h]

theorem matrixInstructionsEnterTheQueue : Spec.MatrixInstructionsEnterTheQueue := by
  intro s o q hown hq8 h3 hlow hfree T u arrived
  have hq := matrixQueue_lowest hq8 h3 hlow
  refine ⟨fun i tiles accs op d a b ta tb h hparts => completes_of_ok (exec_mx hown hq hfree h hparts), ?_,
    fun v d x b w hv hw => ?_, fun v d h => ?_⟩
  · intro z d a b hr p hparts hchk hcls hfence
    have hcls' : (mmaClass (tshFc (tshOf s a.toNat)) (ptrFc p)).isSome = true := by
      have hp : ptrFc p = p.toNat / 2 ^ 58 := by rw [ptrFc, fld]; exact Nat.mod_eq_of_lt (by have := p.isLt; omega)
      rw [hp]; exact hcls
    have hx : matrixOp s (.mma z true d.toNat a.toNat b.toNat) (some b.toNat) = settle s (.ok (Spec.mxQueued u q
        (Spec.mxEntry u (.mmaStreamed z p) d.toNat a.toNat 0 (T a.toNat) 0 []))) := by
      refine matrixOp_ok hr hown hq hfree hparts ?_ ?_
      · show need (!(s.me.fenced clsMR (streamedSpans (T a.toNat) p))) .hold = _
        rw [hfence]
        rfl
      · show (streamedCheck u s.cur p (tshCols (T a.toNat)) s.det >>= fun _ =>
          need (mmaClass (tshFc (T a.toNat)) (ptrFc p)).isSome (trapC cILLEGAL) >>= fun _ => _) = _
        rw [hchk, ok_bind, hcls', need_true]
        rfl
    cases z
    · exact completes_of_ok hx
    · exact completes_of_ok hx
  · have hpre : v.pre = s.pre := by rw [hv]; rfl
    have hme : v.me = s.me := by rw [hv]; rfl
    have hqv : matrixQueue v.pre = .ok q := by rw [hpre]; exact hq
    have hfreev : Spec.queueFree v q := by rw [Spec.queueFree, hme]; exact hfree
    have howner : (v.fold (foldOf v.cur)).owner = some (x, b, w) := by
      rw [hv]
      exact congrArg Fold.owner (State.fold_setFold _ _ _)
    refine traps_of_trapC ((exec_azero d v).trans (matrixOp_trap (m := .azero d.toNat) ?_ rfl ?_))
    · rw [mxRoom, hqv]
      exact queueWait_free hfreev
    · rw [mxIssue, hqv, ok_bind, enterQueue_free hfreev, ok_bind,
        useEngine_taken (o := o) (by rw [hme]; exact hown.1) howner (by rw [hme]; exact hw)]
      rfl
  · refine traps_of_trapC ((exec_azero d v).trans (matrixOp_trap (m := .azero d.toNat) ?_ rfl ?_))
    · rw [mxRoom, matrixQueue_none h]
    · rw [mxIssue, matrixQueue_none h]
      rfl

/-! ## TLD, TSTR, AMOV and ALD (R230 to R232) -/

theorem critRead_cur (s : State) : s.critRead.cur = s.cur := by
  unfold State.critRead
  split <;> rfl
/-- What a walk leaves once its readings are compared (R364). -/
def critWalked (s : State) : Except WalkFail Leaf → Except WalkFail Leaf × State
  | .ok l => if l.crit then (if s.critFails then .error .uncorrectable else .ok l, s.critRead) else (.ok l, s)
  | .error e => (.error e, s)

/-- `critWalk` as a function: the kernel meets its body under the binders, where it evaluates no walk. -/
theorem critWalk_def : critWalk = fun s p job va => match walk s p job va with
    | .ok l => if l.crit then (if s.critFails then .error .uncorrectable else .ok l, s.critRead) else (.ok l, s)
    | .error e => (.error e, s) := by
  delta critWalk
  rfl

theorem critWalk_eq (s : State) (p job va : Nat) : critWalk s p job va = critWalked s (walk s p job va) := by
  rw [critWalk_def]
  beta_reduce
  generalize walk s p job va = w
  cases w <;> rfl
theorem critWalked_cur (s : State) (w : Except WalkFail Leaf) : (critWalked s w).2.cur = s.cur := by
  cases w with
  | error e => rfl
  | ok l =>
    cases hc : l.crit with
    | false => simp [critWalked, hc]
    | true => simp [critWalked, hc, critRead_cur]
theorem critWalk_cur (s : State) (p job va : Nat) : (critWalk s p job va).2.cur = s.cur := by
  rw [critWalk_eq, critWalked_cur]

theorem dropBad_cur (s : State) (c va : Nat) : (dropBad s c va).cur = s.cur := by
  unfold dropBad
  split
  · split <;> rfl
  · rfl

/-- `translate` with its walk as an argument, so that the kernel finds no walk to evaluate in a proof about it. -/
def translateBy (cw : State → Nat → Nat → Nat → Except WalkFail Leaf × State) (s : State) (c va : Nat) (acc : BitVec 2) : Res (TlbEntry × State) :=
  let k := s.core c
  let job := k.job s
  let p := corePart s c
  let start : Res (TlbEntry × State) :=
    let (f, s) := beginFault s c va acc
    .error (.stall (s.updCore c fun k => { k with tfault := some f }))
  if isMgmt c then .ok ({ parity := false, job := 0, base := 0, size := 2 ^ 48, key := 0, w := true, crit := false }, s)
  else
    let s := dropBad s c va
    let k := s.core c
    match tlbFind k.tlb job va with
    | some e => .ok (e, s)
    | none =>
      let mine := k.tfault.filter fun f => decide (f.va = va)
      match mine.bind (·.answer), mine with
      | some false, _ => .error (.trap { cause := cTRANSLATION, acc := acc, val := true, data := va, deferred := none })
      | none, some f => if f.seq.isSome ∨ fld (s.part p).facc 1 1 = 1 then .error (.stall s) else start
      | _, _ =>
        if !walkUp s c reqWalk va then .error (.stall (s.updCore c fun k => { k with walkWait := some va }))
        else
        match cw s p job va with
        | (.ok l, s) =>
          let e := l.entry job va
          .ok (e, s.updCore c fun k => { k.landed reqWalk with tlb := e :: k.tlb, tfault := none, walkWait := none })
        | (.error .uncorrectable, s) =>
          .error (.trap { cause := cUNCORR, acc := acc, val := true, data := va, deferred := none, flips := some s.flips })
        | (.error .unmapped, _) => start

theorem translate_def : translate = translateBy critWalk := by
  delta translate translateBy
  rfl

/-- A translation that succeeds leaves the current core the same. -/
theorem translateBy_cur {cw : State → Nat → Nat → Nat → Except WalkFail Leaf × State} (hcw : ∀ s p job va, (cw s p job va).2.cur = s.cur)
    {s t : State} {c va : Nat} {acc : BitVec 2} {e : TlbEntry} (h : translateBy cw s c va acc = .ok (e, t)) : t.cur = s.cur := by
  rw [translateBy] at h
  dsimp only at h
  cases hm : isMgmt c with
  | true =>
    rw [hm, if_pos rfl] at h
    cases h
    rfl
  | false =>
    rw [hm, if_neg Bool.false_ne_true] at h
    rw [← dropBad_cur s c va]
    generalize dropBad s c va = s1 at h ⊢
    cases htl : tlbFind (s1.core c).tlb ((s.core c).job s) va with
    | some e1 =>
      rw [htl] at h
      cases h
      rfl
    | none =>
      rw [htl] at h
      dsimp only at h
      split at h
      · cases h
      · split at h <;> cases h
      · cases hw : walkUp s1 c reqWalk va with
        | false =>
          rw [hw, Bool.not_false, if_pos rfl] at h
          cases h
        | true =>
          rw [hw, Bool.not_true, if_neg Bool.false_ne_true] at h
          rw [← hcw s1 (corePart s c) ((s.core c).job s) va]
          generalize cw s1 (corePart s c) ((s.core c).job s) va = x at h ⊢
          obtain ⟨r, s2⟩ := x
          rcases r with (_ | _) | l
          · cases h
          · cases h
          · cases h
            rfl

theorem translate_cur {s t : State} {c va : Nat} {acc : BitVec 2} {e : TlbEntry} (h : translate s c va acc = .ok (e, t)) : t.cur = s.cur := by
  rw [translate_def] at h
  exact translateBy_cur critWalk_cur h

theorem of_need {p : Bool} {e : Stop} {α : Type} {f : Unit → Res α} {a : α} (h : (need p e >>= f) = .ok a) : p = true ∧ f () = .ok a := by
  cases p with
  | false => cases h
  | true => exact ⟨rfl, h⟩

theorem of_ok_bind {α β : Type} {x : Res α} {f : α → Res β} {b : β} (h : (x >>= f) = .ok b) : ∃ a, x = .ok a ∧ f a = .ok b := by
  cases x with
  | error e => cases h
  | ok a => exact ⟨a, rfl, h⟩

/-- A property of the value that every step of a fold keeps holds at its end. -/
theorem foldlM_keeps {α β : Type} {f : β → α → Res β} (P : β → Prop) (hf : ∀ b a b', f b a = .ok b' → P b → P b') (l : List α) {b b' : β}
    (h : l.foldlM f b = .ok b') (hb : P b) : P b' := by
  induction l generalizing b with
  | nil => cases h; exact hb
  | cons a l ih =>
    rw [List.foldlM_cons] at h
    obtain ⟨b1, h1, h2⟩ := of_ok_bind h
    exact ih h2 (hf _ _ _ h1 hb)

theorem checkWord_cur {s t : State} {c v n : Nat} {w det : Bool} {e : Option TlbEntry} (h : checkWord s c v n w det = .ok (e, t)) : t.cur = s.cur := by
  unfold checkWord at h
  dsimp only at h
  split at h
  · obtain ⟨-, h⟩ := of_need h
    cases w with
    | true =>
      obtain ⟨-, h⟩ := of_need h
      cases h
      rfl
    | false =>
      obtain ⟨-, h⟩ := of_need h
      obtain ⟨-, h⟩ := of_need h
      obtain ⟨-, h⟩ := of_need h
      cases h
      rfl
  · obtain ⟨-, h⟩ := of_need h
    obtain ⟨-, h⟩ := of_need h
    obtain ⟨-, h⟩ := of_need h
    cases h
    rfl
  · obtain ⟨-, h⟩ := of_need h
    obtain ⟨⟨e1, s1⟩, htr, h⟩ := of_ok_bind h
    obtain ⟨-, h⟩ := of_need h
    rw [← translate_cur htr]
    split at h
    · cases h
    · obtain ⟨-, h⟩ := of_need h
      cases h
      rfl
  · obtain ⟨-, h⟩ := of_need h
    cases h
  · obtain ⟨-, h⟩ := of_need h
    cases h

theorem checkRange_cur {s t : State} {c v n : Nat} {w det : Bool} {tr : SMap Nat} (h : checkRange s c v n w det = .ok (tr, t)) : t.cur = s.cur := by
  unfold checkRange at h
  obtain ⟨⟨tr1, s1⟩, hf, h⟩ := of_ok_bind h
  obtain ⟨-, h⟩ := of_need h
  cases h
  refine foldlM_keeps (fun x : SMap Nat × State => x.2.cur = s.cur) (fun x p x' hx hcur => ?_) _ hf rfl
  obtain ⟨⟨e, s2⟩, hw, hx⟩ := of_ok_bind hx
  have h2 : s2.cur = s.cur := (checkWord_cur hw).trans hcur
  cases e <;> cases hx <;> exact h2

theorem matrixRows_cur {s u v : State} {p : Word} {stride : Int} {rows n al : Nat} {w : Bool} {tr : SMap Nat}
    (h : matrixRows s u p stride rows n al w = .ok (tr, v)) : v.cur = u.cur := by
  unfold matrixRows at h
  obtain ⟨-, -, h⟩ := of_ok_bind h
  refine foldlM_keeps (fun x : SMap Nat × State => x.2.cur = u.cur) (fun x r x' hx hcur => ?_) _ h rfl
  obtain ⟨⟨tr1, s1⟩, hr, hx⟩ := of_ok_bind hx
  cases hx
  exact (checkRange_cur hr).trans hcur

theorem mxcQueue_free {s : State} {q : Nat} (he : Spec.engine s q = 3) (h : Spec.queueFree s q) :
    mxcQueue s s q = .ok () ∧ mxcWait s q = .ok () := by
  rw [mxcQueue, mxcWait, qmapEng_eq, he]
  exact ⟨enterQueue_free h, queueWait_free h⟩

theorem rowsWait_free {s : State} {p : Word} {stride : Int} {rows n : Nat} {w : Bool} (h : Spec.rowsFree s p stride rows n w) :
    rowsWait s p stride rows n w = .ok () := by
  obtain ⟨h1, h2, h3⟩ := h
  rw [rowsWait]
  simp only [ptrAddr, fld_address]
  generalize List.filterMap _ _ = rs at h1 h2 h3 ⊢
  rw [h1, h2]
  cases w with
  | false => rfl
  | true =>
    have hany : (rs.any fun r => s.me.loadsMeet s s.cur r) = false := by simpa using h3 rfl
    rw [hany]
    rfl

theorem tileMem_ok {s v : State} {l : Lit} {q : BitVec 3} {a b c : BitVec 5} {o : Occ} {tr : SMap Nat} {w : Bool} (hr : Ready s [a.toNat, b.toNat] [])
    (hown : Spec.mayOwn s o) (heng : Spec.engine s q.toNat = 3) (hfree : Spec.queueFree s q.toNat) (h53 : (gval s a.toNat).toNat / 2 ^ 48 % 64 = 0)
    (hparts : Spec.ownTiles o [c.toNat] []) (hsh : tshFc (tshOf s c.toNat) ≠ 0)
    (hfc : ptrFc (gval s a.toNat) = 0 ∨
      (ptrFc (gval s a.toNat) = tshFc (tshOf s c.toNat) ∧ ptrBl (gval s a.toNat) = tshBl (tshOf s c.toNat)))
    (hin : w = false → c.toNat ∉ ((Spec.owning s o).fold (foldOf s.cur)).m.arrived)
    (hrows : Spec.rowsFree s (gval s a.toNat) (Spec.rb s l b).toInt (tshRows (tshOf s c.toNat))
      (fcBytes (tshFc (tshOf s c.toNat)) (tshBl (tshOf s c.toNat)) (tshCols (tshOf s c.toNat))) w)
    (hm : matrixRows s (Spec.owning s o) (gval s a.toNat) (Spec.rb s l b).toInt (tshRows (tshOf s c.toNat))
      (fcBytes (tshFc (tshOf s c.toNat)) (tshBl (tshOf s c.toNat)) (tshCols (tshOf s c.toNat))) (fcAlign (tshFc (tshOf s c.toNat))) w =
        .ok (tr, v)) :
    tileMem s l q.toNat a.toNat b.toNat c.toNat w = settle s (.ok (Spec.mxQueued v q.toNat (Spec.mxEntry v
      (if w then .tstr (gval s a.toNat) (Spec.rb s l b) else .tld (gval s a.toNat) (Spec.rb s l b)) 0 c.toNat 0 (tshOf s c.toNat) 0 tr))) := by
  have hcur : s.cur = v.cur := ((matrixRows_cur hm).trans (owning_cur s o)).symm
  have hin' : (decide (tshFc (tshOf s c.toNat) ≠ 0) && (w || !((Spec.owning s o).fold (foldOf s.cur)).m.arrived.contains c.toNat)) = true := by
    cases w with
    | true => simpa using hsh
    | false => simpa using ⟨hsh, hin rfl⟩
  unfold tileMem
  dsimp only
  rw [rbval_toNat, withChecked_ready _ _ hr, (mxcQueue_free heng hfree).1, (mxcQueue_free heng hfree).2, if_neg hsh, rowsWait_free hrows, ok_bind, ok_bind,
    ok_bind, useEngine_ok hown, ok_bind, ownPart_ok hown.1 hparts, ok_bind, hin', need_true, ok_bind, need_holds ⟨(fld_reserved _).trans h53, hfc⟩,
    ok_bind, hm, ok_bind, matrixEntry_eq hcur, acceptMatrix_eq]
  rfl

/-- The bits of an accumulator shape that its fields leave (R232). -/
theorem shape_reserved {w : Word} (h : ∀ k ∈ [38, 39, 46, 47, 54, 55, 62, 63], w.getLsbD k = false) : Nat.land w.toNat 0xC0C0C0C000000000 = 0 := by
  have hmask : ∀ k < 64, (0xC0C0C0C000000000 : Nat).testBit k = true → k ∈ [38, 39, 46, 47, 54, 55, 62, 63] := by decide
  refine Nat.eq_of_testBit_eq fun k => ?_
  rw [show Nat.land w.toNat 0xC0C0C0C000000000 = w.toNat &&& 0xC0C0C0C000000000 from rfl, Nat.testBit_and, Nat.zero_testBit, Bool.and_eq_false_iff]
  by_cases hk : (0xC0C0C0C000000000 : Nat).testBit k = true
  · by_cases hlt : k < 64
    · exact Or.inl (h k (hmask k hlt hk))
    · exact Or.inl (BitVec.getLsbD_of_ge _ _ (Nat.le_of_not_lt hlt))
  · exact Or.inr (by simpa using hk)

theorem sgn_low (w : Word) : sgn 32 (fld w 31 0) = (BitVec.ofNat 32 w.toNat).toInt := by
  have hf : fld w 31 0 % 2 ^ 32 = w.toNat % 2 ^ 32 := by rw [fld]; omega
  rw [sgn, hf, BitVec.toInt_eq_toNat_cond, BitVec.toNat_ofNat]
  split <;> split <;> omega

/-- AMOV or ALD whose checks pass (R232). -/
theorem accMem_ok {s v : State} {l : Lit} {q : BitVec 3} {a b : BitVec 5} {d : BitVec 3} {o : Occ} {tr : SMap Nat} {w : Bool}
    {p st : Word} {rows cols : Nat} (hp : gval s a.toNat = p) (hst : Spec.rb s l b = st) (hrw : fld st 37 32 + 1 = rows) (hcl : fld st 45 40 + 1 = cols)
    (hr : Ready s [a.toNat, b.toNat] []) (hown : Spec.mayOwn s o) (heng : Spec.engine s q.toNat = 3) (hfree : Spec.queueFree s q.toNat)
    (hfmt : fld p 53 48 = 0 ∧ accBytes (ptrFc p) ≠ 0 ∧ ptrBl p = 0 ∧ (w ∨ ¬(ptrFc p = 4 ∨ ptrFc p = 5)))
    (hsh : Nat.land st.toNat 0xC0C0C0C000000000 = 0 ∧ fld st 53 48 + rows ≤ 64 ∧ fld st 61 56 + cols ≤ 64) (hparts : Spec.ownTiles o [] [d.toNat])
    (hrows : Spec.rowsFree s p (sgn 32 (fld st 31 0)) rows (accBytes (ptrFc p) * cols) w)
    (hm : matrixRows s (Spec.owning s o) p (sgn 32 (fld st 31 0)) rows (accBytes (ptrFc p) * cols) (accBytes (ptrFc p)) w = .ok (tr, v)) :
    accMem s l q.toNat a.toNat b.toNat d.toNat w = settle s (.ok (Spec.mxQueued v q.toNat (Spec.mxEntry v
      (if w then .amov p st else .ald p st) d.toNat 0 0 0 0 tr))) := by
  have hcur : s.cur = v.cur := ((matrixRows_cur hm).trans (owning_cur s o)).symm
  unfold accMem
  dsimp only
  rw [rbval_toNat, hp, hst, hrw, hcl, withChecked_ready _ _ hr, (mxcQueue_free heng hfree).1, (mxcQueue_free heng hfree).2, rowsWait_free hrows, ok_bind,
    ok_bind, ok_bind, need_holds hsh, ok_bind, useEngine_ok hown, ok_bind, ownPart_ok hown.1 hparts, ok_bind, need_holds hfmt, ok_bind, hm, ok_bind,
    matrixEntry_eq hcur, acceptMatrix_eq]
  rfl

theorem matrixMovesEnterTheQueue : Spec.MatrixMovesEnterTheQueue := by
  intro s l q a b c d o tr v _ hr hown heng hfree u T p st fc bl n hp
  have hfc : ptrFc p = fc := ptrFc_eq p
  refine ⟨fun hparts hsh hf => ⟨fun hrows hm => ?_, fun hin hrows hm => ?_⟩, ?_⟩
  · exact completes_of_ok (tileMem_ok (w := true) hr hown heng hfree hp hparts hsh (by rw [hfc]; exact hf) nofun hrows hm)
  · exact completes_of_ok (tileMem_ok (w := false) hr hown heng hfree hp hparts hsh (by rw [hfc]; exact hf) (fun _ => hin) hrows hm)
  · intro row0 col0 rows cols stride hbits hrow hcol hparts hacc hbl
    have hsgn : sgn 32 (fld st 31 0) = stride := sgn_low st
    refine ⟨fun hrows hm => ?_, fun h4 h5 hrows hm => ?_⟩
    · rw [← hsgn, ← hfc] at hrows hm
      exact completes_of_ok (accMem_ok (w := true) rfl rfl rfl rfl hr hown heng hfree
        ⟨(fld_reserved _).trans hp, by rw [hfc]; exact hacc, hbl, Or.inl rfl⟩ ⟨shape_reserved hbits, hrow, hcol⟩ hparts hrows hm)
    · rw [← hsgn, ← hfc] at hrows hm
      exact completes_of_ok (accMem_ok (w := false) rfl rfl rfl rfl hr hown heng hfree
        ⟨(fld_reserved _).trans hp, by rw [hfc]; exact hacc, hbl, Or.inr (by rw [hfc]; exact fun h => h.elim h4 h5)⟩ ⟨shape_reserved hbits, hrow, hcol⟩
        hparts hrows hm)

end Sys2Proof.Machine

namespace Sys2Proof
open Machine

/-- Settles O37: the checks of each form pass in the order the model makes them, and what it leaves is the entry accepted. -/
theorem matrixQueue : Obligations.MatrixQueue := ⟨matrixInstructionsEnterTheQueue, matrixMovesEnterTheQueue⟩

end Sys2Proof

end

section
/-! PROOFS. Matrix entries performed (R219, R224, R227, R228): blocks of a table, accumulator elements, and O38. -/

namespace Sys2Proof.Machine

/-! ## Blocks of a table (R215) -/

theorem mfind_filter {α : Type} (p : Nat → Bool) (m : SMap α) (k : Nat) : mfind (m.filter fun x => p x.1) k = if p k then mfind m k else none := by
  induction m with
  | nil => simp [mfind]
  | cons x m ih =>
    obtain ⟨j, u⟩ := x
    by_cases hj : j = k
    · subst hj
      cases hp : p j <;> simp [mfind, hp, ih]
    · cases hp : p j <;> simp [mfind, hp, ih, hj]

theorem msorted_filter {α : Type} (p : Nat × α → Bool) {m : SMap α} (h : msorted m = true) : msorted (m.filter p) = true := by
  induction m with
  | nil => rfl
  | cons x m ih =>
    obtain ⟨ha, hm⟩ := (msorted_cons x m).mp h
    cases hp : p x with
    | false => rw [List.filter_cons_of_neg (by simp [hp])]; exact ih hm
    | true =>
      rw [List.filter_cons_of_pos hp, msorted_cons]
      exact ⟨fun y hy => ha y (List.mem_filter.mp hy).1, ih hm⟩

/-- Entries stored one after another under moved keys. -/
theorem mfind_foldl_mput {α : Type} (a b : Nat) (l m : SMap α) (k : Nat) (hl : msorted l = true) (hb : ∀ x ∈ l, b ≤ x.1) :
    mfind (l.foldl (fun m x => mput m (x.1 - b + a) x.2) m) k = if a ≤ k then (mfind l (k - a + b)).or (mfind m k) else mfind m k := by
  induction l generalizing m with
  | nil => simp [mfind]
  | cons x l ih =>
    obtain ⟨ha, hs⟩ := (msorted_cons x l).mp hl
    have hx : b ≤ x.1 := hb x (List.mem_cons_self ..)
    rw [List.foldl_cons, ih _ hs fun y hy => hb y (List.mem_cons_of_mem _ hy)]
    by_cases hk : a ≤ k
    · rw [if_pos hk, if_pos hk]
      by_cases he : x.1 = k - a + b
      · rw [mfind_none_of_above l x.1 _ ha (by omega), show x.1 - b + a = k by omega, mfind_mput_same]
        simp [mfind, he]
      · rw [mfind_mput_other _ _ _ _ (by omega)]
        simp [mfind, he]
    · rw [if_neg hk, if_neg hk, mfind_mput_other _ _ _ _ (by omega)]

/-- What a table holds after a block of another was moved into it. -/
theorem mget_moveBlock {α : Type} (d : α) (m : SMap α) {src : SMap α} (hs : msorted src = true) (a b n k : Nat) :
    mget d (moveBlock m src a b n) k = if a ≤ k ∧ k < a + n then mget d src (k - a + b) else mget d m k := by
  have hk := mfind_filter (fun x => !(decide (a ≤ x ∧ x < a + n))) m k
  have hf := mfind_filter (fun x => decide (b ≤ x ∧ x < b + n)) src (k - a + b)
  rw [mget, moveBlock, mfind_foldl_mput a b _ _ k (msorted_filter _ hs) (fun x hx => by simp at hx; exact hx.2.1), hf, hk]
  by_cases h1 : a ≤ k
  · by_cases h2 : k < a + n
    · simp [h1, h2, mget, show k - a + b < b + n by omega]
    · simp [h1, h2, mget, show ¬ k - a + b < b + n by omega]
  · simp [h1, mget]

/-! ## Accumulator elements (R216) -/

theorem el_key_inj {a b i j i' j' : Nat} (hi : i < 64) (hj : j < 64) (hi' : i' < 64) (hj' : j' < 64)
    (h : 4096 * a + 64 * i + j = 4096 * b + 64 * i' + j') : a = b ∧ i = i' ∧ j = j' := by omega

theorem mem_grid {r c i j : Nat} : (i, j) ∈ grid r c ↔ i < r ∧ j < c := by
  rw [show grid r c = List.product (List.range r) (List.range c) from rfl, List.pair_mem_product, List.mem_range, List.mem_range]

theorem nodup_grid (r c : Nat) : (grid r c).Nodup := List.Nodup.product List.nodup_range List.nodup_range

/-- Elements of accumulator d written one after another, each a function of the element it replaces. -/
def elsWritten (d : Nat) (g : Nat → Nat → Word32 → Word32) (l : List (Nat × Nat)) (m : MState) : MState :=
  l.foldl (fun m x => m.setEl d x.1 x.2 (g x.1 x.2 (m.el d x.1 x.2))) m

theorem elsWritten_rest (d : Nat) (g : Nat → Nat → Word32 → Word32) (l : List (Nat × Nat)) (m : MState) :
    (elsWritten d g l m).tiles = m.tiles ∧ (elsWritten d g l m).tsh = m.tsh := by
  induction l generalizing m with
  | nil => exact ⟨rfl, rfl⟩
  | cons x l ih => exact ih _

theorem elsWritten_other {d : Nat} {g : Nat → Nat → Word32 → Word32} {l : List (Nat × Nat)} (hl : ∀ x ∈ l, x.1 < 64 ∧ x.2 < 64) {a i j : Nat}
    (hi : i < 64) (hj : j < 64) (h : a ≠ d ∨ (i, j) ∉ l) (m : MState) : (elsWritten d g l m).el a i j = m.el a i j := by
  induction l generalizing m with
  | nil => rfl
  | cons x l ih =>
    obtain ⟨h1, h2⟩ := hl x (List.mem_cons_self ..)
    refine (ih (fun y hy => hl y (List.mem_cons_of_mem _ hy)) (h.imp id fun hn hm => hn (List.mem_cons_of_mem _ hm)) _).trans
      (mget_mset_other _ _ _ _ _ fun hk => ?_)
    obtain ⟨rfl, rfl, rfl⟩ := el_key_inj hi hj h1 h2 hk
    exact h.elim (fun h => h rfl) fun h => h (List.mem_cons_self ..)

theorem elsWritten_el {d : Nat} {g : Nat → Nat → Word32 → Word32} {l : List (Nat × Nat)} (hl : ∀ x ∈ l, x.1 < 64 ∧ x.2 < 64) (hn : l.Nodup)
    {i j : Nat} (hm : (i, j) ∈ l) (m : MState) : (elsWritten d g l m).el d i j = g i j (m.el d i j) := by
  induction l generalizing m with
  | nil => cases hm
  | cons x l ih =>
    obtain ⟨hx, hn⟩ := List.nodup_cons.mp hn
    have hl' : ∀ y ∈ l, y.1 < 64 ∧ y.2 < 64 := fun y hy => hl y (List.mem_cons_of_mem _ hy)
    obtain ⟨hi, hj⟩ := hl _ hm
    by_cases he : (i, j) = x
    · subst he
      exact (elsWritten_other hl' hi hj (Or.inr hx) _).trans (mget_mset_same ..)
    · have hml : (i, j) ∈ l := (List.mem_cons.mp hm).resolve_left he
      refine (ih hl' hn hml _).trans (congrArg (g i j) (mget_mset_other _ _ _ _ _ fun hk => he ?_))
      obtain ⟨h1, h2⟩ := hl x (List.mem_cons_self ..)
      obtain ⟨-, h3, h4⟩ := el_key_inj hi hj h1 h2 hk
      exact Prod.ext h3 h4

theorem elsWritten_grid {d r c : Nat} {g : Nat → Nat → Word32 → Word32} (hr : r ≤ 64) (hc : c ≤ 64) (m : MState) {a i j : Nat} (hi : i < 64) (hj : j < 64) :
    (elsWritten d g (grid r c) m).el a i j = if a = d ∧ i < r ∧ j < c then g i j (m.el d i j) else m.el a i j := by
  have hl : ∀ x ∈ grid r c, x.1 < 64 ∧ x.2 < 64 := by
    rintro ⟨x, y⟩ h
    obtain ⟨h1, h2⟩ := mem_grid.mp h
    exact ⟨by omega, by omega⟩
  split
  · next h =>
    obtain ⟨rfl, h⟩ := h
    exact elsWritten_el hl (nodup_grid r c) (mem_grid.mpr h) m
  · next h => exact elsWritten_other hl hi hj (by rw [mem_grid]; tauto) m

/-! ## MMA and ACC entries (R224, R227) -/

theorem mapAcc_eq (m : MState) (d : Nat) (f : Nat → Nat → Word32) : m.mapAcc d f = elsWritten d (fun i j _ => f i j) (grid 64 64) m := rfl

/-- Element (i, j) of accumulator d after an MMA, from the element it replaces (R224). -/
def mmaEl (l : Nat) (isInt zero : Bool) (x y : List FVal) (old : Word32) : Word32 :=
  let ps := x.zip y
  let old : Word32 := if zero then 0 else old
  if isInt then old + BitVec.ofInt 32 (ps.foldl (fun t p => t + p.1.int * p.2.int) 0)
  else (dotLvl l (ps.map fun p => (mulVal p.1 p.2).1) (inLvl l old)).1

theorem mma_eq (m : MState) (l : Nat) (isInt zero : Bool) (d : Nat) (a b : List (List FVal)) :
    m.mma l isInt zero d a b = elsWritten d (fun i j old => mmaEl l isInt zero (a.getD i []) (b.getD j []) old) (grid a.length b.length) m := rfl

theorem foldl_add_eq (ps : List (FVal × FVal)) (t : Int) :
    ps.foldl (fun t p => t + p.1.int * p.2.int) t = t + (ps.map fun p => p.1.int * p.2.int).sum := by
  induction ps generalizing t with
  | nil => simp
  | cons p ps ih => rw [List.foldl_cons, ih, List.map_cons, List.sum_cons, add_assoc]

/-! ## The head entry of a matrix queue performed (R219) -/

/-- The state once entry e of queue q of core c has left the fold's matrix state as m. -/
def matrixDone (s : State) (c q : Nat) (e : MEntry) (m : MState) : State :=
  releaseMatrix (popEntry (s.updFold e.fold fun v => { v with m := m }) c q) e.fold

theorem releaseMatrix_mem (s : State) (f : Nat) : (releaseMatrix s f).mem = s.mem := by
  unfold releaseMatrix
  split
  · rfl
  · split <;> rfl

theorem releaseMatrix_matrix (s : State) (f : Nat) : ((releaseMatrix s f).fold f).m = (s.fold f).m := by
  unfold releaseMatrix
  split
  · rfl
  · split
    · rw [State.updFold, State.fold_setFold]
    · rfl

theorem releaseMatrix_core (s : State) (f x : Nat) : (releaseMatrix s f).core x = s.core x := by
  rw [State.core, State.core, releaseMatrix_cores]

theorem popEntry_r (s : State) (c q x : Nat) : ((popEntry s c q).core x).r = (s.core x).r := by
  unfold popEntry setEntries State.updCore
  by_cases h : x = c
  · subst h
    rw [State.core_setCore, State.core_setCore]
    rfl
  · rw [State.core_setCore_other _ _ _ _ h, State.core_setCore_other _ _ _ _ h]

theorem popEntry_entries {s : State} {c q : Nat} {e : QEntry} {rest : List QEntry} (h : (mget ⟨[], none⟩ (s.core c).queues q).entries = e :: rest) :
    (mget ⟨[], none⟩ ((popEntry s c q).core c).queues q).entries = rest := by
  have ht : ((s.core c).queue q).entries.tail = rest := by
    rw [show ((s.core c).queue q).entries = e :: rest from h]
    rfl
  unfold popEntry setEntries State.updCore
  rw [State.core_setCore, State.core_setCore, ht]
  exact congrArg EQueue.entries (mget_mput_same _ _ _ _)

theorem matrixDone_holds {s : State} {c q : Nat} {e : MEntry} {rest : List QEntry} (m : MState)
    (h : (mget ⟨[], none⟩ (s.core c).queues q).entries = .matrix e :: rest) :
    (mget ⟨[], none⟩ ((matrixDone s c q e m).core c).queues q).entries = rest ∧ ((matrixDone s c q e m).fold e.fold).m = m ∧
      (∀ x, ((matrixDone s c q e m).core x).r = (s.core x).r) ∧ (matrixDone s c q e m).mem = s.mem := by
  refine ⟨?_, ?_, fun x => ?_, releaseMatrix_mem _ _⟩
  · rw [matrixDone, releaseMatrix_core]
    exact popEntry_entries (s := s.updFold e.fold fun v => { v with m := m }) h
  · rw [matrixDone, releaseMatrix_matrix]
    exact congrArg Fold.m (State.fold_setFold _ _ _)
  · rw [matrixDone, releaseMatrix_core, popEntry_r]
    rfl

/-- An entry that may be performed, without an access to memory, leaves what `performMatrix` gives. -/
theorem matrixEntryPerform_done {s : State} {c q : Nat} {e : MEntry} {rest : List QEntry} {m : MState}
    (h : (mget ⟨[], none⟩ (s.core c).queues q).entries = .matrix e :: rest) (hy : (s.core c).yoke = none) (hd : s.downLinks = [])
    (hp : performMatrix s c q e = some (popEntry (s.updFold e.fold fun v => { v with m := m }) c q)) :
    Completes (.matrixEntryPerform c q) s (matrixDone s c q e m) := by
  have hh : headMatrix s c q = some e := by
    rw [headMatrix, headEntry, show ((s.core c).queue q).entries = .matrix e :: rest from h]
    rfl
  have ha : s.agreed c q 0 ((s.core c).queue q).entries.length = true := by rw [State.agreed, hy]
  have hu (tr : SMap Nat) (rs : List (Nat × Nat)) : rangesUp s c (reqQueue q) tr rs = true := by rw [rangesUp, hd]; rfl
  refine completes_of_ok ?_
  rw [exec_matrixEntryPerform, execMatrixEntryPerform, hh, Option.bind_some, ha, hu, Bool.and_self, if_pos rfl, hp]
  rfl

/-- What an MMA or ACC entry leaves in every accumulator. -/
def accAfter (m : MState) (e : MEntry) : MState :=
  match e.op with
  | .azero => { m with acc := moveBlock m.acc [] (4096 * e.d) 0 4096 }
  | .acopy => { m with acc := if e.d = e.a then m.acc else moveBlock m.acc m.acc (4096 * e.d) (4096 * e.a) 4096 }
  | .aadd int => m.mapAcc e.d fun i j => if int then m.el e.d i j + m.el e.a i j else accAdd e.lvl (m.el e.d i j) (m.el e.a i j)
  | .mma zero => m.mma e.lvl ((mmaClass (tshFc e.tshA) (tshFc e.tshB)).getD false) zero e.d
      ((List.range (tshRows e.tshA)).map fun i => m.rowVals e.lvl e.a e.tshA i) ((List.range (tshRows e.tshB)).map fun j => m.rowVals e.lvl e.b e.tshB j)
  | _ => m

theorem performMatrix_acc {s : State} {c q : Nat} {e : MEntry} (hf : e.faulted = none) (ht : matrixTurn (s.core c) e = true)
    (hop : e.op ∈ [.azero, .acopy, .aadd true, .aadd false, .mma true, .mma false]) :
    performMatrix s c q e = some (popEntry (s.updFold e.fold fun v => { v with m := accAfter (s.fold e.fold).m e }) c q) := by
  have hw : (!matrixTurn (s.core c) e || e.faulted.isSome) = false := by rw [ht, hf]; rfl
  simp only [List.mem_cons, List.not_mem_nil, or_false] at hop
  rcases hop with h | h | h | h | h | h <;> simp only [performMatrix, accAfter, hw, h] <;> rfl

theorem accAfter_rest {m : MState} {e : MEntry} : (accAfter m e).tiles = m.tiles ∧ (accAfter m e).tsh = m.tsh := by
  unfold accAfter
  split
  · exact ⟨rfl, rfl⟩
  · exact ⟨rfl, rfl⟩
  · rw [mapAcc_eq]
    exact elsWritten_rest _ _ _ _
  · rw [mma_eq]
    exact elsWritten_rest _ _ _ _
  · exact ⟨rfl, rfl⟩

theorem rowList_getD {f : Nat → List FVal} {n i : Nat} (h : i < n) : ((List.range n).map f).getD i [] = f i := by
  simp [List.getD_eq_getElem?_getD, h]

theorem mmaEl_eq (m : MState) (e : MEntry) (z : Bool) (i j : Nat) :
    mmaEl e.lvl ((mmaClass (tshFc e.tshA) (tshFc e.tshB)).getD false) z (m.rowVals e.lvl e.a e.tshA i) (m.rowVals e.lvl e.b e.tshB j) (m.el e.d i j) =
      let ps := (m.rowVals e.lvl e.a e.tshA i).zip (m.rowVals e.lvl e.b e.tshB j)
      let old : Word32 := if z then 0 else m.el e.d i j
      if mmaClass (tshFc e.tshA) (tshFc e.tshB) = some true then BitVec.ofInt 32 (old.toNat + (ps.map fun p => p.1.int * p.2.int).sum)
      else (dotLvl e.lvl (ps.map fun p => (mulVal p.1 p.2).1) (inLvl e.lvl old)).1 := by
  unfold mmaEl
  dsimp only
  rw [foldl_add_eq, zero_add]
  have hb : ((mmaClass (tshFc e.tshA) (tshFc e.tshB)).getD false = true) ↔ mmaClass (tshFc e.tshA) (tshFc e.tshB) = some true := by
    cases mmaClass (tshFc e.tshA) (tshFc e.tshB) <;> simp
  by_cases h : mmaClass (tshFc e.tshA) (tshFc e.tshB) = some true
  · rw [if_pos (hb.mpr h), if_pos h, BitVec.ofInt_add, BitVec.ofInt_natCast, BitVec.ofNat_toNat, BitVec.setWidth_eq]
  · rw [if_neg (mt hb.mp h), if_neg h]

/-- The accumulators after an MMA or ACC entry: d alone changes. -/
theorem accAfter_el {m : MState} {e : MEntry} (hs : msorted m.acc = true) (hop : e.op ∈ [.azero, .acopy, .aadd true, .aadd false, .mma true, .mma false])
    (hA : tshRows e.tshA ≤ 64) (hB : tshRows e.tshB ≤ 64) {a i j : Nat} (hi : i < 64) (hj : j < 64) :
    (accAfter m e).el a i j = if a = e.d then Spec.accNew m e i j else m.el a i j := by
  have block (src : SMap Word32) (hsrc : msorted src = true) (b : Nat) :
      mget 0 (moveBlock m.acc src (4096 * e.d) b 4096) (4096 * a + 64 * i + j) =
        if a = e.d then mget 0 src (b + 64 * i + j) else m.el a i j := by
    rw [mget_moveBlock _ _ hsrc]
    by_cases h : a = e.d
    · rw [if_pos (by omega), if_pos h]
      congr 1
      omega
    · rw [if_neg (by omega), if_neg h]
      rfl
  have add (int : Bool) : ((m.mapAcc e.d fun i j => if int then m.el e.d i j + m.el e.a i j else accAdd e.lvl (m.el e.d i j) (m.el e.a i j)).el a i j) =
      if a = e.d then (if int then m.el e.d i j + m.el e.a i j else accAdd e.lvl (m.el e.d i j) (m.el e.a i j)) else m.el a i j := by
    rw [mapAcc_eq, elsWritten_grid (le_refl 64) (le_refl 64) m hi hj]
    simp [hi, hj]
  have mul (z : Bool) (h : e.op = .mma z) : (accAfter m e).el a i j = if a = e.d then Spec.accNew m e i j else m.el a i j := by
    simp only [accAfter, h]
    rw [mma_eq, List.length_map, List.length_map, List.length_range, List.length_range, elsWritten_grid hA hB m hi hj]
    simp only [Spec.accNew, h]
    by_cases ha : a = e.d
    · subst ha
      by_cases hij : i < tshRows e.tshA ∧ j < tshRows e.tshB
      · rw [if_pos ⟨rfl, hij⟩, if_pos rfl, if_pos hij, rowList_getD hij.1, rowList_getD hij.2]
        exact mmaEl_eq m e z i j
      · rw [if_neg fun h => hij h.2, if_pos rfl, if_neg hij]
    · rw [if_neg fun h => ha h.1, if_neg ha]
  simp only [List.mem_cons, List.not_mem_nil, or_false] at hop
  rcases hop with h | h | h | h | h | h
  · simp only [accAfter, Spec.accNew, h]
    exact block [] rfl 0
  · simp only [accAfter, Spec.accNew, h]
    by_cases hda : e.d = e.a
    · rw [if_pos hda]
      split
      · next h => rw [h, hda]
      · rfl
    · rw [if_neg hda]
      exact block m.acc hs (4096 * e.a)
  · have hadd := add true
    simp only [if_true] at hadd
    simp only [accAfter, Spec.accNew, h, if_true]
    rw [hadd, BitVec.ofNat_add, BitVec.ofNat_toNat, BitVec.ofNat_toNat, BitVec.setWidth_eq, BitVec.setWidth_eq]
  · have hadd := add false
    simp only [Bool.false_eq_true, if_false] at hadd
    simp only [accAfter, Spec.accNew, h, Bool.false_eq_true, if_false]
    exact hadd
  · exact mul true h
  · exact mul false h

/-- What a TZERO or TCOPY entry leaves (R228). -/
def tileAfter (m : MState) (e : MEntry) : MState :=
  match e.op with
  | .tzero => m.loadTile e.a [] [] 0
  | _ => if e.a = e.b then m else m.loadTile e.a m.tiles m.scales e.b

theorem performMatrix_tile {s : State} {c q : Nat} {e : MEntry} (hf : e.faulted = none) (ht : matrixTurn (s.core c) e = true)
    (hop : e.op ∈ [.tzero, .tcopy]) :
    performMatrix s c q e = some (popEntry (s.updFold e.fold fun v => { v with m := tileAfter (s.fold e.fold).m e }) c q) := by
  have hw : (!matrixTurn (s.core c) e || e.faulted.isSome) = false := by rw [ht, hf]; rfl
  simp only [List.mem_cons, List.not_mem_nil, or_false] at hop
  rcases hop with h | h <;> simp only [performMatrix, tileAfter, hw, h] <;> rfl

theorem loadTile_tile (m : MState) {tiles scales : SMap Byte} (hs : msorted tiles = true) (a k : Nat) {n x : Nat} (hx : x < 4096) :
    (m.loadTile a tiles scales k).tile n x = if n = a then mget 0 tiles (4096 * k + x) else m.tile n x := by
  rw [MState.tile, MState.loadTile, mget_moveBlock _ _ hs]
  by_cases h : n = a
  · rw [if_pos (by omega), if_pos h]
    congr 1
    omega
  · rw [if_neg (by omega), if_neg h]
    rfl

theorem tileAfter_rest {m : MState} {e : MEntry} : (tileAfter m e).acc = m.acc ∧ (tileAfter m e).tsh = m.tsh := by
  unfold tileAfter
  split
  · exact ⟨rfl, rfl⟩
  · split <;> exact ⟨rfl, rfl⟩

theorem tileAfter_tile {m : MState} {e : MEntry} (hs : msorted m.tiles = true) (hop : e.op ∈ [.tzero, .tcopy]) {n x : Nat} (hx : x < 4096) :
    (tileAfter m e).tile n x = if n = e.a then (if e.op = .tzero then 0 else m.tile e.b x) else m.tile n x := by
  simp only [List.mem_cons, List.not_mem_nil, or_false] at hop
  rcases hop with h | h
  · simp only [tileAfter, h, if_true]
    exact loadTile_tile m rfl e.a 0 hx
  · simp only [tileAfter, h, reduceCtorEq, if_false]
    split
    · next hab =>
      split
      · next hn => rw [hn, hab]
      · rfl
    · exact loadTile_tile m hs e.a e.b hx

end Sys2Proof.Machine

namespace Sys2Proof
open Machine

/-- Settles O38: the entry leaves `accAfter` or `tileAfter` in its fold, and these change the one accumulator or tile. -/
theorem matrixEntriesPerform : Obligations.MatrixEntriesPerform := by
  intro s c q e rest hq hf ht hy hd m hacc htiles _
  refine ⟨fun hop hA hB => ?_, fun hop => ?_⟩
  · obtain ⟨h1, h2, h3, h4⟩ := matrixDone_holds (accAfter m e) hq
    refine ⟨matrixDone s c q e (accAfter m e), matrixEntryPerform_done hq hy hd (performMatrix_acc hf ht hop), h1, fun i j hi hj => ?_,
      fun a i j hi hj ha => ?_, ?_, ?_, h3, h4⟩ <;> rw [h2]
    · rw [accAfter_el hacc hop hA hB hi hj, if_pos rfl]
    · rw [accAfter_el hacc hop hA hB hi hj, if_neg ha]
    · exact accAfter_rest.1
    · exact accAfter_rest.2
  · obtain ⟨h1, h2, h3, h4⟩ := matrixDone_holds (tileAfter m e) hq
    refine ⟨matrixDone s c q e (tileAfter m e), matrixEntryPerform_done hq hy hd (performMatrix_tile hf ht hop), h1, fun x hx => ?_,
      fun n x hx hn => ?_, ?_, ?_, h3, h4⟩ <;> rw [h2]
    · rw [tileAfter_tile htiles hop hx, if_pos rfl]
    · rw [tileAfter_tile htiles hop hx, if_neg hn]
    · exact tileAfter_rest.1
    · exact tileAfter_rest.2

end Sys2Proof

end

section
/-! PROOFS. The answer of MXCMD that a down link holds back (O39 refuted), and tiles that arrive and streamed faults (O40). -/

namespace Sys2Proof.Machine

/-! ## A launch, for states that a statement is evaluated at -/

/-- A launch of one unit on folds 0 and 1 of partition 0. -/
def plainLaunch : Launch :=
  { rcd := 0x4000, plen := 0, param := 0, job := 1, phase := 0xFFF, graph := 0x3FFF, node := 0, succ := [], wdog := 0, pers := false,
    det := false, nbv := 0, units := 1, fcount := 2, fbase := 0, map := [], arena := 0x1000, anum := 4, bdom := 0, note := 0, nval := 0,
    code := 0x8000, entry := 0x8000, csize := 64, stack := 0, lmem := 0, patches := [], decls := [], routines := [], sched := [],
    nmacro := 1, mstore := 0, nss := 1, stage := .placed, queued := true, accept := 0, tag := 0, setup := [0, 1], homes := [], live := [0x1000],
    joins := [], starved := [], recvs := [] }

/-- Its unit. -/
def plainUnit : Occ :=
  { part := 0, blk := 0, k := 0, rcd := 0x1000, flagged := false, ss := 0, pos := 0, stage := 0, running := true, xrout := false, since := 0 }

/-- The device with the launch placed and its unit on core 0. -/
def plainState (k : Core) : State :=
  { State.reset with
    cores := [(0, { k with occ := some plainUnit })]
    parts := [(0, { Part.reset with launches := [(0, plainLaunch)] })] }

/-! ## An answer that a down link holds back (R233, R402) -/

/-- Core 0's MXCMD has its answer at fold 1, to which the link from fold 0 is down. -/
def answerCut : State := { plainState { Core.idle with wait := some (.mxcmd 0 1 0 0 (some 0)) } with downLinks := [(linkOf 0 1, 0)] }

theorem answerCut_waits : issueOf (exec (.mxcmdAnswer 0) answerCut) ≠ some .done := by decide +kernel

end Sys2Proof.Machine

namespace Sys2Proof
open Machine

/-- Refutes O39: MXCMD_ANSWER waits while a link on the answer's way is down, and the statement names no links. At `answerCut` the link between
folds 0 and 1 is down, and the answer that fold 1 has given does not arrive. -/
theorem not_mxcmdTravelsAndIsAnswered : ¬ Obligations.MxcmdTravelsAndIsAnswered := by
  intro h
  obtain ⟨-, -, -, hanswer, -⟩ := h answerCut none 0 0 0 0 (by decide +kernel) rfl
  exact answerCut_waits (congrArg issueOf (hanswer 0 0 1 0 0 0 (by decide +kernel)))

end Sys2Proof

namespace Sys2Proof.Machine

/-! ## Tiles that arrive (R229) -/

theorem mget_moveBlock_other {α : Type} (d : α) (m src : SMap α) {a b n k : Nat} (h : k < a ∨ a + n ≤ k) :
    mget d (moveBlock m src a b n) k = mget d m k := by
  have hk := mfind_filter (fun x => !(decide (a ≤ x ∧ x < a + n))) m k
  have hin : ¬(a ≤ k ∧ k < a + n) := by omega
  rw [decide_eq_false hin, Bool.not_false, if_pos rfl] at hk
  rw [mget, mget, ← hk, moveBlock]
  generalize (m.filter fun x => !(decide (a ≤ x.1 ∧ x.1 < a + n))) = m'
  have hl : ∀ x ∈ src.filter fun x => decide (b ≤ x.1 ∧ x.1 < b + n), b ≤ x.1 ∧ x.1 < b + n := fun x hx => by simpa using (List.mem_filter.mp hx).2
  generalize (src.filter fun x => decide (b ≤ x.1 ∧ x.1 < b + n)) = l at hl ⊢
  clear hk
  induction l generalizing m' with
  | nil => rfl
  | cons x l ih =>
    obtain ⟨h1, h2⟩ := hl x (List.mem_cons_self ..)
    exact (ih _ fun y hy => hl y (List.mem_cons_of_mem _ hy)).trans
      (congrArg (Option.getD · d) (mfind_mput_other _ _ _ _ (by omega)))

/-- The matrix state of a fold once a neighbour's tile n has come (R229). -/
def MState.arrive (m : MState) (n : Nat) (tsh : Word) (bytes scales : SMap Byte) : MState :=
  { m.loadTile n bytes scales 0 with
    tsh := mset 0 m.tsh n tsh, inbound := n :: m.inbound, arrived := if m.arrived.contains n then m.arrived else n :: m.arrived }

theorem State.fold_setFold_other (s : State) (f x : Nat) (v : Fold) (h : x ≠ f) : (s.setFold f v).fold x = s.fold x := mget_mput_other _ _ _ _ _ h

theorem releaseMatrix_fold (s : State) (f x : Nat) :
    ((releaseMatrix s f).fold x).m = (s.fold x).m ∧ ((releaseMatrix s f).fold x).shadow ≤ (s.fold x).shadow := by
  unfold releaseMatrix
  split
  · exact ⟨rfl, le_rfl⟩
  · split
    · by_cases hx : x = f
      · subst hx
        rw [State.updFold, State.fold_setFold]
        exact ⟨rfl, Nat.zero_le _⟩
      · rw [State.updFold, State.fold_setFold_other _ _ _ _ hx]
        exact ⟨rfl, le_rfl⟩
    · exact ⟨rfl, le_rfl⟩

/-- The state after the tile of entry e has come to fold g. -/
def tileCome (s : State) (c q g : Nat) (e : MEntry) (m : MState) : State :=
  releaseMatrix (releaseMatrix (popEntry (s.updFold g fun v => { v with m := m }) c q) e.fold) g

theorem tileCome_holds {s : State} {c q g : Nat} {e : MEntry} {rest : List QEntry} (m : MState)
    (h : (mget ⟨[], none⟩ (s.core c).queues q).entries = .matrix e :: rest) :
    (mget ⟨[], none⟩ ((tileCome s c q g e m).core c).queues q).entries = rest ∧ ((tileCome s c q g e m).fold g).m = m ∧
      (tileCome s c q g e m).mem = s.mem ∧ ∀ x, ((tileCome s c q g e m).core x).r = (s.core x).r := by
  refine ⟨?_, ?_, ?_, fun x => ?_⟩
  · rw [tileCome, releaseMatrix_core, releaseMatrix_core]
    exact popEntry_entries (s := s.updFold g fun v => { v with m := m }) h
  · rw [tileCome, (releaseMatrix_fold _ _ _).1, (releaseMatrix_fold _ _ _).1]
    exact congrArg Fold.m (State.fold_setFold _ _ _)
  · rw [tileCome, releaseMatrix_mem, releaseMatrix_mem]
    rfl
  · rw [tileCome, releaseMatrix_core, releaseMatrix_core, popEntry_r]
    rfl

theorem headMatrix_of {s : State} {c q : Nat} {e : MEntry} {rest : List QEntry} (h : (mget ⟨[], none⟩ (s.core c).queues q).entries = .matrix e :: rest) :
    headMatrix s c q = some e := by
  rw [headMatrix, headEntry, show ((s.core c).queue q).entries = .matrix e :: rest from h]
  rfl

/-- The state of the receiving fold once its engine belongs to the sender's launch (R213). -/
theorem ownMatrix_passes {s : State} {g part blk : Nat} {tag : Word} (h : ∀ p b w, (s.fold g).owner = some (p, b, w) → p = part ∧ w = tag) :
    ∃ u, ownMatrix s g part blk tag = some u ∧ u.cores = s.cores ∧ u.mem = s.mem ∧
      (u.fold g).m = if (s.fold g).owner = none then MState.zero else (s.fold g).m := by
  rcases ho : (s.fold g).owner with _ | ⟨p, b, w⟩
  · refine ⟨s.updFold g fun v => { v with owner := some (part, blk, tag), m := MState.zero, shadow := 0 }, by rw [ownMatrix, ho], rfl, rfl, ?_⟩
    rw [if_pos rfl]
    exact congrArg Fold.m (State.fold_setFold _ _ _)
  · refine ⟨s, ?_, rfl, rfl, by rw [if_neg (by simp)]⟩
    rw [ownMatrix, ho]
    exact if_pos (h p b w ho)

theorem ownMatrix_fails {s : State} {g part blk p b : Nat} {tag w : Word} (h : (s.fold g).owner = some (p, b, w)) (hn : ¬(p = part ∧ w = tag)) :
    ownMatrix s g part blk tag = none := by
  rw [ownMatrix, h]
  exact if_neg hn

/-! ## Queues that fail (R221) -/

theorem foldl_releaseMatrix (fs : List Nat) (s : State) :
    (fs.foldl releaseMatrix s).mem = s.mem ∧ (fs.foldl releaseMatrix s).cores = s.cores ∧ ∀ x, ((fs.foldl releaseMatrix s).fold x).m = (s.fold x).m ∧
      ((fs.foldl releaseMatrix s).fold x).shadow ≤ (s.fold x).shadow := by
  induction fs generalizing s with
  | nil => exact ⟨rfl, rfl, fun x => ⟨rfl, le_rfl⟩⟩
  | cons f fs ih =>
    obtain ⟨h1, h2, h3⟩ := ih (releaseMatrix s f)
    exact ⟨h1.trans (releaseMatrix_mem s f), h2.trans (releaseMatrix_cores s f),
      fun x => ⟨(h3 x).1.trans (releaseMatrix_fold s f x).1, (h3 x).2.trans (releaseMatrix_fold s f x).2⟩⟩

theorem failQueue_holds (s : State) (c q : Nat) (d : DefErr) :
    (failQueue s c q d).mem = s.mem ∧ mget ⟨[], none⟩ ((failQueue s c q d).core c).queues q = (⟨[], some d⟩ : EQueue) ∧
      ∀ x, ((failQueue s c q d).fold x).m = (s.fold x).m ∧ ((failQueue s c q d).core x).r = (s.core x).r ∧
        ((failQueue s c q d).fold x).shadow ≤ (s.fold x).shadow := by
  obtain ⟨h1, h2, h3⟩ := foldl_releaseMatrix (entryFolds ((s.core c).queue q).entries)
    (s.updCore c fun k => { k.landed (reqQueue q) with queues := mput k.queues q { entries := [], err := some d } })
  have hcore (x : Nat) : (failQueue s c q d).core x =
      (s.updCore c fun k => { k.landed (reqQueue q) with queues := mput k.queues q { entries := [], err := some d } }).core x :=
    congrArg (fun cs => mget _ cs x) h2
  refine ⟨h1, ?_, fun x => ⟨(h3 x).1, ?_, (h3 x).2⟩⟩
  · rw [hcore, State.updCore, State.core_setCore]
    exact mget_mput_same _ _ _ _
  · rw [hcore, State.updCore]
    by_cases hx : x = c
    · subst hx
      rw [State.core_setCore]
      rfl
    · rw [State.core_setCore_other _ _ _ _ hx]

/-! ## A streamed fault resolved (R226, R365) -/

theorem streamedBFaultResolved_again {s : State} {c q : Nat} {e : MEntry} {rest : List QEntry} {f : TransFault}
    (h : (mget ⟨[], none⟩ (s.core c).queues q).entries = .matrix e :: rest) (hf : e.faulted = some f) (ha : faultAnswer s c f = some true) :
    Completes (.streamedBFaultResolved c q) s ((setEntries s c q (.matrix { e with faulted := none } :: rest)).updFold e.fold fun v =>
      { v with shadow := v.shadow - 1 }) := by
  have hr : resolveEntry s c q (.matrix e) = some (setEntries s c q (.matrix { e with faulted := none } :: rest)) := by
    rw [resolveEntry, show (QEntry.matrix e).fault = some f from hf, Option.bind_some, ha, show ((s.core c).queue q).entries = .matrix e :: rest from h]
    rfl
  have hh : headMatrix (setEntries s c q (.matrix { e with faulted := none } :: rest)) c q = some { e with faulted := none } := by
    refine headMatrix_of (rest := rest) ?_
    rw [setEntries, State.updCore, State.core_setCore]
    exact congrArg EQueue.entries (mget_mput_same _ _ _ _)
  refine completes_of_ok ?_
  rw [exec_streamedBFaultResolved, execStreamedBFaultResolved, headMatrix_of h]
  dsimp only
  rw [hr]
  dsimp only
  rw [hh]
  rfl

theorem streamedBFaultResolved_fails {s : State} {c q : Nat} {e : MEntry} {rest : List QEntry} {f : TransFault}
    (h : (mget ⟨[], none⟩ (s.core c).queues q).entries = .matrix e :: rest) (hf : e.faulted = some f) (ha : faultAnswer s c f = some false) :
    Completes (.streamedBFaultResolved c q) s ((failQueue s c q { cause := cTRANSLATION, acc := f.acc, val := true, data := f.va }).updFold e.fold
      fun v => { v with shadow := v.shadow - 1 }) := by
  have hr : resolveEntry s c q (.matrix e) = some (failQueue s c q { cause := cTRANSLATION, acc := f.acc, val := true, data := f.va }) := by
    rw [resolveEntry, show (QEntry.matrix e).fault = some f from hf, Option.bind_some, ha]
  have hh : headMatrix (failQueue s c q { cause := cTRANSLATION, acc := f.acc, val := true, data := f.va }) c q = none := by
    have hq := (failQueue_holds s c q { cause := cTRANSLATION, acc := f.acc, val := true, data := f.va }).2.1
    rw [headMatrix, headEntry, Core.queue, show EQueue.none_ = ⟨[], none⟩ from rfl, hq]
    rfl
  refine completes_of_ok ?_
  rw [exec_streamedBFaultResolved, execStreamedBFaultResolved, headMatrix_of h]
  dsimp only
  rw [hr]
  dsimp only
  rw [hh]
  rfl

theorem tileArrival_comes {s u : State} {c q dir part blk g : Nat} {tag tsh : Word} {bytes scales : SMap Byte} {e : MEntry} {rest : List QEntry}
    (h : (mget ⟨[], none⟩ (s.core c).queues q).entries = .matrix e :: rest) (hop : e.op = .arriving dir part blk tag tsh bytes scales)
    (hg : neighbour s e.fold dir = some g) (hown : ownMatrix s g part blk tag = some u) (hin : e.a ∉ (u.fold g).m.inbound) :
    Completes (.tileArrival c q) s (tileCome u c q g e ((u.fold g).m.arrive e.a tsh bytes scales)) := by
  refine completes_of_ok ?_
  rw [exec_tileArrival, execTileArrival, headMatrix_of h]
  simp only [hop, hg, hown]
  have hb : (u.fold g).m.inbound.contains e.a = false := by simpa using hin
  simp only [hb]
  rfl

theorem tileArrival_rejected {s : State} {c q dir part blk g : Nat} {tag tsh : Word} {bytes scales : SMap Byte} {e : MEntry} {rest : List QEntry}
    (h : (mget ⟨[], none⟩ (s.core c).queues q).entries = .matrix e :: rest) (hop : e.op = .arriving dir part blk tag tsh bytes scales)
    (hg : neighbour s e.fold dir = some g) (hown : ownMatrix s g part blk tag = none) :
    Completes (.tileArrival c q) s (failQueue s c q { cause := cMXCAP, acc := 3, val := false, data := 0 }) := by
  refine completes_of_ok ?_
  rw [exec_tileArrival, execTileArrival, headMatrix_of h]
  simp only [hop, hg, hown]
  rfl

theorem arrive_tile_same (m : MState) (n : Nat) (tsh : Word) {bytes scales : SMap Byte} (hb : msorted bytes = true) {x : Nat} (hx : x < 4096) :
    (m.arrive n tsh bytes scales).tile n x = mget 0 bytes x := by
  refine (loadTile_tile m (scales := scales) hb n 0 hx).trans ?_
  rw [if_pos rfl, Nat.mul_zero, Nat.zero_add]

theorem arrive_tile_other (m : MState) {n k : Nat} (tsh : Word) {bytes scales : SMap Byte} (hn : k ≠ n) {x : Nat} (hx : x < 4096) :
    (m.arrive n tsh bytes scales).tile k x = m.tile k x := mget_moveBlock_other _ _ _ (by omega)

end Sys2Proof.Machine

namespace Sys2Proof
open Machine

/-- Settles O40: where the receiving engine may be taken, the tile comes to it (`MState.arrive`); else the queue fails, as it does where a fault has
no translation (`failQueue_holds`). -/
theorem tilesArriveAndStreamedFaultsResolve : Obligations.TilesArriveAndStreamedFaultsResolve := by
  intro s c q e rest h
  refine ⟨fun dir part blk tag tsh bytes scales g hop hg => ⟨fun m hm hown hin => ?_, fun p b w ho hn => ?_⟩,
    fun f hf ha => streamedBFaultResolved_again h hf ha, fun f hf ha => ?_⟩
  · obtain ⟨u, hu, hcores, hmem, hmu⟩ := ownMatrix_passes (blk := blk) hown
    rw [← hm] at hmu
    have hcore (x : Nat) : u.core x = s.core x := by rw [State.core, State.core, hcores]
    have hq : (mget ⟨[], none⟩ (u.core c).queues q).entries = .matrix e :: rest := by rw [hcore]; exact h
    obtain ⟨h1, h2, h3, h4⟩ := tileCome_holds (g := g) (m.arrive e.a tsh bytes scales) hq
    refine ⟨tileCome u c q g e (m.arrive e.a tsh bytes scales), ?_, h1, ?_, ?_, ?_, fun _ hb x hx => ?_, fun _ n x hx hn => ?_, h3.trans hmem,
      fun x => (h4 x).trans (by rw [hcore])⟩
    · have := tileArrival_comes h hop hg hu (by rw [hmu]; exact hin)
      rwa [hmu] at this
    · rw [h2]
      rfl
    · rw [h2]
      exact mget_mset_same _ _ _ _
    · rw [h2]
      rfl
    · rw [h2, arrive_tile_same m e.a tsh hb hx]
    · rw [h2, arrive_tile_other m tsh hn hx]
  · obtain ⟨h1, h2, h3⟩ := failQueue_holds s c q { cause := cMXCAP, acc := 3, val := false, data := 0 }
    exact ⟨_, tileArrival_rejected h hop hg (ownMatrix_fails ho hn), h1, fun x => ⟨(h3 x).1, (h3 x).2.1⟩, h2⟩
  · obtain ⟨h1, h2, h3⟩ := failQueue_holds s c q { cause := cTRANSLATION, acc := f.acc, val := true, data := f.va }
    refine ⟨_, streamedBFaultResolved_fails h hf ha, ?_, fun x => ⟨?_, (h3 x).2.1⟩, h1, h2⟩
    · rw [State.updFold, State.fold_setFold]
      exact Nat.sub_le_sub_right (h3 e.fold).2.2 1
    · rw [← (h3 x).1, State.updFold]
      by_cases hx : x = e.fold
      · rw [hx, State.fold_setFold]
      · rw [State.fold_setFold_other _ _ _ _ hx]

end Sys2Proof

end

section
/-! PROOFS. A copy that waits before its queue is judged (O41 refuted). -/

namespace Sys2Proof.Machine

/-! ## A copy that waits before its queue is judged (R98, R263) -/

/-- QMAP binds no queue to a copy engine, and a store of the core to the first word of the Common stands in its buffer; g1 and g3 point there. -/
def copyWaiting : State :=
  plainState { Core.idle with
    stores := [{ va := commonBase, key := commonKey State.reset 0 0, bytes := [1, 0, 0, 0] }]
    r := { Core.idle.r with g := [(1, BitVec.ofNat 64 commonBase), (2, 4), (3, BitVec.ofNat 64 commonBase)] } }

theorem copyWaiting_waits : issueOf (exec (.cpy none 0 1 2 3 0) copyWaiting) = some .held := by decide +kernel

/-- An attempt that trapped did not wait. -/
theorem not_traps_of_held {i : Instr} {s : State} {cause : BitVec 8} (h : issueOf (exec i s) = some .held) : ¬ Traps i s cause := by
  rintro ⟨t, -, ht⟩
  have hi := (congrArg issueOf ht).symm.trans h
  rw [issueOf, takeTrap_issue] at hi
  cases hi

end Sys2Proof.Machine

namespace Sys2Proof
open Machine

/-- Refutes O41: a copy waits for the accesses on its ranges before its queue is judged. At `copyWaiting` a buffered store to the destination holds
the copy, whose queue has no copy engine. -/
theorem not_copyEngine : ¬ Obligations.CopyEngine := by
  rintro ⟨hqueue, -⟩
  have htrap := (hqueue copyWaiting _ none 0 1 2 3 .cpy false (.cpy none 0 1 2 3 0) rfl (by decide +kernel)).2 (by decide +kernel) (by decide +kernel)
  exact not_traps_of_held copyWaiting_waits htrap

end Sys2Proof

end

section
/-! PROOFS. An SBIND that waits before its binding is judged (O42 refuted). -/

namespace Sys2Proof.Machine

/-! ## An SBIND that waits before its binding is judged (R98, R329) -/

/-- Binding 0 of the core is active, and an AMO of the core is outstanding. -/
def bindWaiting : State :=
  plainState { Core.idle with
    streams := [(0, streamOf [] 0)]
    loads := [{ kind := .amo 0 0 0 0 false, va := commonBase, key := 0, tr := [], size := 8, rd := 2, escape := false, since := 0 }] }

theorem bindWaiting_waits : issueOf (exec (.sbind none 24 1) bindWaiting) = some .held := by decide +kernel

end Sys2Proof.Machine

namespace Sys2Proof
open Machine

/-- Refutes O42: SBIND waits for the core's outstanding AMOs before its binding is judged. At `bindWaiting` the binding is active, and an AMO holds the
instruction that would trap with STREAM. -/
theorem not_streamsBindMoveAndEnd : ¬ Obligations.StreamsBindMoveAndEnd := by
  intro h
  obtain ⟨-, hbound, -⟩ := h bindWaiting none 24 1 0 rfl rfl
  exact not_traps_of_held bindWaiting_waits (hbound _ (by decide +kernel) rfl)

end Sys2Proof

end

section
/-! PROOFS. A piece that comes to a core whose journal is open (O44 refuted). -/

namespace Sys2Proof.Machine

/-! ## A piece that comes to a core whose journal is open (R243, R255) -/

/-- A declaration of four words in one block, periodic, with a margin of one. -/
def onePadWords : List Word := [0x10101, 4, 1] ++ List.replicate 29 0

/-- Its window on core 0, after the first muster. -/
def onePad : Paddock := { k := 0, decl := commonBase, words := onePadWords, box := 0x100, gen := 1, subs := [], stamps := [] }

/-- The piece that the core sends itself, for its face 2. -/
def onePiece : PieceMsg := { part := 0, blk := 0, win := 0, decl := commonBase, peer := 0, face := 2, tag := 1 }

/-- LMC.JEN is 1: the journal keeps what the piece overwrites, and LMC counts its lines. -/
def journalling : State :=
  plainState { Core.idle with padds := [(0, onePad)], pieces := [onePiece], r := { Core.idle.r with ctl := [(0x020, 256)] } }

theorem journalling_counts :
    (acceptPiece journalling 0 0 onePiece).map (fun u => decide ((u.core 0).r = (journalling.core 0).r)) = some false := by decide +kernel

end Sys2Proof.Machine

namespace Sys2Proof
open Machine

/-- Refutes O44: a piece is written through the journal of its receiver, whose count is a field of the control register LMC. At `journalling` the
piece that core 0 accepts changes it. -/
theorem not_paddocksBindMusterAndDrop : ¬ Obligations.PaddocksBindMusterAndDrop := by
  intro h
  obtain ⟨-, -, hpiece⟩ := h journalling none 0 0 0 0 rfl
  obtain ⟨u, hu, hne⟩ := Option.map_eq_some_iff.mp journalling_counts
  obtain ⟨-, -, hr⟩ := hpiece 0 0 onePiece u rfl rfl hu
  exact absurd (hr 0) (of_decide_eq_false hne)

end Sys2Proof

end

section
/-! PROOFS. Instructions that wait before they are judged (O46, O47 refuted). -/

namespace Sys2Proof.Machine

/-! ## Instructions that wait before they are judged (R98, R307, R310) -/

/-- g1 names no record of the arena, and a buffered store of the core meets the bytes there. -/
theorem dqpush_waits : issueOf (exec (.dqpush none 1) copyWaiting) = some .held := by decide +kernel

/-- A CHANNEL error is recorded, and a buffered store of the core meets the source of the next SEND. -/
def sendWaiting : State := copyWaiting.updMe fun k => { k with sendErr := true }

theorem sendWaiting_waits : issueOf (exec (.send (some 4) 2 1 0) sendWaiting) = some .held := by decide +kernel

end Sys2Proof.Machine

namespace Sys2Proof
open Machine

/-- Refutes O46: DQPUSH waits for the core's stores to the record's first word before it judges the record. At `copyWaiting` g1 lies outside the
arena, and a buffered store there holds the instruction that would trap with PERMISSION. -/
theorem not_dequesForkAndJoin : ¬ Obligations.DequesForkAndJoin := by
  intro h
  obtain ⟨hpush, -⟩ := h copyWaiting none 0 1 0 plainUnit plainLaunch (by decide +kernel) (by decide +kernel) rfl
  exact not_traps_of_held dqpush_waits ((hpush (by decide +kernel)).2 (by decide +kernel))

/-- Refutes O47: SEND waits for the core's stores to its source before it takes a recorded error. At `sendWaiting` a buffered store holds the
instruction that would trap with CHANNEL. -/
theorem not_messagesTravelChannels : ¬ Obligations.MessagesTravelChannels := by
  intro h
  obtain ⟨-, -, herr, -⟩ := h sendWaiting (some 4) 2 1 0 0
  exact not_traps_of_held sendWaiting_waits ((herr (by decide +kernel)).1 (by decide +kernel))

end Sys2Proof

end

section
/-! PROOFS. Chutes and the allocation mark (O43). -/

namespace Sys2Proof.Machine

/-! ## What a descriptor's read and LMINV need (R276, R281) -/

/-- A descriptor that can be read is not waited for. -/
theorem descWait_of_read {s u : State} {p : Word} {n : Nat} {ws : List Word} (h : descRead s (ptrAddr p) n = .ok (ws, u)) :
    descWait s p n = .ok () := by
  rw [descRead] at h
  obtain ⟨hlocal, h⟩ := of_need h
  obtain ⟨hfree, -⟩ := of_need h
  rw [Bool.not_eq_true'] at hfree
  rw [descWait, hfree, Bool.and_false, Bool.not_false, need_true]

theorem ptrAddr_toNat (p : Word) : ptrAddr p = p.toNat % 2 ^ 48 := fld_address p

/-- Invalidating words leaves what a later register write looks at. -/
theorem invalidate_keepsStreams (s : State) (c off n : Nat) : KeepsStreams s (invalidate s c off n) := by
  have word (t : State) (o : Nat) (v : SMap Bool) :
      KeepsStreams t ((journalLine t c o).updCore c fun k => { k with valid := v }) := by
    refine (journalLine_writesLocal t c o).keepsStreams.trans ⟨rfl, rfl, fun d => ?_⟩
    by_cases hd : d = c
    · subst hd; rw [State.updCore, State.core_setCore]
    · rw [State.updCore, State.core_setCore_other _ _ _ _ hd]
  unfold invalidate
  generalize List.range (n / 4) = is
  induction is generalizing s with
  | nil => exact ⟨rfl, rfl, fun _ => rfl⟩
  | cons i is ih => exact (word s _ _).trans (ih _)

section
variable {s : State} {l : Lit} {d a b : BitVec 5} {c : BitVec 4}

theorem completes_cbinit {ws : List Word} {u : State} (hr : Ready s [a.toNat] []) (htag : (gval s a.toNat).toNat / 2 ^ 48 % 64 = 0)
    (hplace : ptrAddr (gval s a.toNat) % 64 = 0 ∧ windowOf (ptrAddr (gval s a.toNat)) = .ownLocal ∧
      ptrAddr (gval s a.toNat) - localBase + 64 ≤ s.me.lmem s)
    (hread : descRead s (ptrAddr (gval s a.toNat)) 8 = .ok (ws, u)) (hok : chuteOk ws (ptrAddr (gval s a.toNat) - localBase) (s.me.heap s) = true) :
    Completes (.cbinit l a c) s (u.setChute s.cur c.toNat (chuteOf ws (ptrAddr (gval s a.toNat) - localBase))) := by
  refine completes_of_ok ?_
  rw [exec_cbinit, execCbinit, withChecked_ready _ _ hr, descWait_of_read hread, ok_bind]
  dsimp only
  rw [fld_reserved, need_holds htag, ok_bind, need_holds hplace, ok_bind, hread, ok_bind]
  dsimp only
  rw [hok]
  rfl

theorem setChute_streams (s : State) (n : Nat) (x : Chute) : (s.setChute s.cur n x).me.streams = s.me.streams := by
  have hk : (s.setChute s.cur n x).me = { s.me with chutes := mput s.me.chutes n x } := State.core_setCore _ _ _
  rw [hk]

theorem chutes_bound (hl : s.latch = none) (hr : Ready s [] [d.toNat]) {x : Chute} (hx : s.chute s.cur c.toNat = some x) :
    (1 ≤ x.filled → Completes (.cbpop l d c) s ((s.setChute s.cur c.toNat
      { x with filled := x.filled - 1, head := (x.head + 1) % x.nslot, held := x.held + 1 }).wroteG d.toNat
      (BitVec.ofNat 64 (localBase + x.addr + 64 + x.ssize * x.head)))) ∧
    (x.filled = 0 → exec (.cbpop l d c) s = .next { s with issue := .stalled }) ∧
    (1 ≤ x.held → s.me.loadsMeet s s.cur x.oldest = false →
      Completes (.cbpush l c) s (s.setChute s.cur c.toNat { x with free := x.free + 1, held := x.held - 1 })) ∧
    (x.held = 0 → Traps (.cbpush l c) s cSTREAM) ∧
    Completes (.cbstat l d c) s (s.wroteG d.toNat (BitVec.ofNat 64 (x.free + 2 ^ 16 * x.filled + 2 ^ 32 * x.head + 2 ^ 48 * x.held))) := by
  have hb : boundG s.pre d.toNat = none := hr.unbound (by simp)
  have hpush : exec (.cbpush l c) s = settle s (do
      need (decide (1 ≤ x.held)) (trapC cSTREAM)
      need (!(s.me.loadsMeet s s.cur x.oldest)) (.stall s)
      .ok (s.setChute s.cur c.toNat { x with free := x.free + 1, held := x.held - 1 })) := by
    rw [exec_cbpush, execCbpush, hx]
  refine ⟨fun h => completes_of_ok ?_, fun h => ?_, fun h hm => completes_of_ok ?_, fun h => traps_of_trapC ?_, completes_of_ok ?_⟩
  · rw [exec_cbpop, execCbpop, withRegs_ready _ hr, hx]
    dsimp only
    rw [need_holds h, ok_bind]
    exact congrArg (settle s) (setG_after (t := s.setChute s.cur c.toNat { x with
      filled := x.filled - 1, head := (x.head + 1) % x.nslot, held := x.held + 1 }) hl hl (setChute_streams s _ _) hb _)
  · rw [exec_cbpop, execCbpop, withRegs_ready _ hr, hx]
    dsimp only
    rw [need_fails (by omega), error_bind, settle_stall]
  · rw [hpush, need_holds h, ok_bind, hm, Bool.not_false, need_true, ok_bind]
  · rw [hpush, need_fails (by omega), error_bind]
  · rw [exec_cbstat, execCbstat, withRegs_ready _ hr, hx]
    exact congrArg (settle s) (setG_plain _ hb)

theorem chutes_unbound (hr : Ready s [] [d.toNat]) (hx : s.chute s.cur c.toNat = none) :
    Traps (.cbpop l d c) s cSTREAM ∧ Traps (.cbpush l c) s cSTREAM ∧ Completes (.cbstat l d c) s (s.wroteG d.toNat 0) := by
  refine ⟨traps_of_trapC ?_, traps_of_trapC ?_, completes_of_ok ?_⟩
  · rw [exec_cbpop, execCbpop, withRegs_ready _ hr, hx]
  · rw [exec_cbpush, execCbpush, hx]
  · rw [exec_cbstat, execCbstat, withRegs_ready _ hr, hx]
    exact congrArg (settle s) (setG_plain _ (hr.unbound (by simp)))

/-- A core with another allocation mark. -/
def Core.marked (k : Core) (n : Nat) : Core := { k with amark := n }

theorem completes_lmalloc (hl : s.latch = none) (hr : Ready s [b.toNat] [d.toNat]) {n floor : Nat}
    (hn : n = ((Spec.rb s l b).toNat + 63) / 64 * 64) (hf : floor = declFloor (((s.me.launchOf s).map (·.decls)).getD [])) :
    (s.me.amark < n + floor → Completes (.lmalloc l d b) s (s.wroteG d.toNat 0)) ∧
    (n + floor ≤ s.me.amark → Completes (.lmalloc l d b) s
      ((invalidate (s.updMe fun k => { k with amark := s.me.amark - n }) s.cur (s.me.amark - n) n).wroteG d.toNat
        (BitVec.ofNat 64 (localBase + (s.me.amark - n))))) := by
  have hb : boundG s.pre d.toNat = none := hr.unbound (by simp)
  subst hn hf
  refine ⟨fun h => completes_of_ok ?_, fun h => completes_of_ok ?_⟩
  · rw [exec_lmalloc, execLmalloc, withRegs_ready _ hr, rbval_toNat]
    dsimp only
    rw [if_pos h, setG_plain _ hb]
  · rw [exec_lmalloc, execLmalloc, withRegs_ready _ hr, rbval_toNat]
    dsimp only
    rw [if_neg (Nat.not_lt.mpr h)]
    obtain ⟨hlatch, hcur, hstr⟩ := invalidate_keepsStreams (s.updMe (·.marked (s.me.amark - ((Spec.rb s l b).toNat + 63) / 64 * 64))) s.cur
      (s.me.amark - ((Spec.rb s l b).toNat + 63) / 64 * 64) (((Spec.rb s l b).toNat + 63) / 64 * 64)
    refine congrArg (settle s) (setG_after hl (hlatch.trans hl) ?_ hb _)
    have hme : (s.updMe (·.marked (s.me.amark - ((Spec.rb s l b).toNat + 63) / 64 * 64))).me.streams = s.me.streams := by rw [State.me_updMe]; rfl
    exact (congrArg (fun x => (State.core _ x).streams) hcur).trans ((hstr _).trans hme)

theorem lmfree_outcome (hr : Ready s [a.toNat] []) {v : Nat} (hv : v = (gval s a.toNat).toNat) :
    (v % 64 = 0 ∧ localBase + s.me.amark ≤ v ∧ v ≤ localBase + s.me.heap s →
      Completes (.lmfree l a) s (s.updMe fun k => { k with amark := v - localBase })) ∧
    (¬ (v % 64 = 0 ∧ localBase + s.me.amark ≤ v ∧ v ≤ localBase + s.me.heap s) → Traps (.lmfree l a) s cILLEGAL) := by
  subst hv
  refine ⟨fun h => completes_of_ok ?_, fun h => traps_of_trapC ?_⟩
  · rw [exec_lmfree, execLmfree, withRegs_ready _ hr]
    dsimp only
    rw [need_holds h, ok_bind]
  · rw [exec_lmfree, execLmfree, withRegs_ready _ hr]
    dsimp only
    rw [need_fails h, error_bind]

theorem lminv_checks (hr : Ready s [a.toNat, b.toNat] []) {p v n : Nat} (hp : p = (gval s a.toNat).toNat) (hv : v = p % 2 ^ 48)
    (hn : n = (Spec.rb s l b).toNat) :
    (p / 2 ^ 48 % 64 ≠ 0 → Traps (.lminv l a b) s cTAG) ∧
    (p / 2 ^ 48 % 64 = 0 → (v % 4 ≠ 0 ∨ n % 4 ≠ 0) → Traps (.lminv l a b) s cMISALIGN) ∧
    (p / 2 ^ 48 % 64 = 0 → v % 4 = 0 → n % 4 = 0 → (v < localBase ∨ localBase + s.me.lmem s < v + n) → Traps (.lminv l a b) s cPERMISSION) ∧
    (p / 2 ^ 48 % 64 = 0 → v % 4 = 0 → n % 4 = 0 → localBase ≤ v → v + n ≤ localBase + s.me.lmem s → s.me.blocked s s.cur (v, n) = false →
      s.me.loadsMeet s s.cur (v, n) = false → (∀ i, i < n → s.me.marginAt (v - localBase + i) = false) → engLent s s.cur [(v, n)] = false →
      Completes (.lminv l a b) s (invalidate s s.cur (v - localBase) n)) := by
  have hve : ptrAddr (gval s a.toNat) = v := by rw [ptrAddr_toNat, hv, hp]
  have hex : exec (.lminv l a b) s = settle s (do
      need (decide (p / 2 ^ 48 % 64 = 0)) (trapC cTAG)
      need (decide (v % 4 = 0 ∧ n % 4 = 0)) (trapA cMISALIGN true v)
      need (decide (localBase ≤ v ∧ v + n ≤ localBase + s.me.lmem s)) (trapA cPERMISSION true v)
      need (!(s.me.blocked s s.cur (v, n)) && !(s.me.loadsMeet s s.cur (v, n))) .hold
      match (span (v - localBase) n).find? fun o => s.me.marginAt o with
      | some o => .error (trapA cGHOST true (localBase + o))
      | none => do
        need (!(engLent s s.cur [(v, n)])) (.stall s)
        .ok (invalidate s s.cur (v - localBase) n)) := by
    rw [exec_lminv, execLminv, withRegs_ready _ hr]
    dsimp only
    rw [hve, fld_reserved, rbval_toNat, ← hn, ← hp] <;> rfl
  refine ⟨fun h => traps_of_trapC ?_, fun h h' => traps_of_trapA (w := true) (a := v) ?_, fun h h1 h2 h' => traps_of_trapA (w := true) (a := v) ?_,
    fun h h1 h2 h3 h4 hblk hld hmar hlent => completes_of_ok ?_⟩
  · rw [hex, need_fails h, error_bind]
  · rw [hex, need_holds h, ok_bind, need_fails (by omega), error_bind]
  · rw [hex, need_holds h, ok_bind, need_holds ⟨h1, h2⟩, ok_bind, need_fails (by omega), error_bind]
  · have hnone : ((span (v - localBase) n).find? fun o => s.me.marginAt o) = none := by
      refine List.find?_eq_none.mpr fun o ho => ?_
      obtain ⟨hlo, hhi⟩ := mem_span.mp ho
      rw [← Nat.add_sub_cancel' hlo, hmar _ (by omega)]
      decide
    rw [hex, need_holds h, ok_bind, need_holds ⟨h1, h2⟩, ok_bind, need_holds ⟨h3, h4⟩, ok_bind, hblk, hld, hnone]
    dsimp only
    rw [hlent]
    rfl

end
end Sys2Proof.Machine

namespace Sys2Proof
open Machine

/-- Settles O43: the attempt's checks in their order, each decided by a hypothesis of the case. -/
theorem chutesAndLocalMemory : Obligations.ChutesAndLocalMemory := by
  intro s l d a b c hl
  refine ⟨fun ws u hr => ?_, fun hr x hx => chutes_bound hl hr hx, fun hr hx => chutes_unbound hr hx, fun hr => completes_lmalloc hl hr rfl rfl,
    fun hr => lmfree_outcome hr rfl, fun hr => lminv_checks hr rfl rfl rfl⟩
  intro p v htag halign hwin hin hread hok
  rw [show v = ptrAddr (gval s a.toNat) from (ptrAddr_toNat _).symm] at halign hwin hin hread hok ⊢
  exact completes_cbinit hr htag ⟨halign, hwin, hin⟩ hread hok

end Sys2Proof

end

section
/-! PROOFS. Supersteps (O48). -/

namespace Sys2Proof.Machine

/-! ## Supersteps (R299 to R304) -/

section
variable {s : State} {l : Lit} {a : BitVec 5}

theorem flaggedOf_unflagged (h : s.me.inFlagged = false) : flaggedOf s = .error (trapC cILLEGAL) := by
  rw [Core.inFlagged] at h
  rw [flaggedOf]
  cases ho : s.me.occ with
  | none => rfl
  | some o =>
    rw [ho] at h
    cases s.me.launchOf s with
    | none => rfl
    | some la => dsimp only; rw [if_neg (by simpa using h)]

theorem flaggedOf_flagged {o : Occ} {la : Launch} (ho : s.me.occ = some o) (hla : s.me.launchOf s = some la) (hf : o.flagged = true) :
    flaggedOf s = .ok (o, la) := by rw [flaggedOf, ho, hla]; exact if_pos hf

/-- BDOM and SSYNC belong to flagged launches. -/
theorem supersteps_unflagged (hr : Ready s [a.toNat] []) (h : s.me.inFlagged = false) : Traps (.bdom l a) s cILLEGAL ∧ Traps (.ssync l) s cILLEGAL := by
  refine ⟨traps_of_trapC ?_, traps_of_trapC ?_⟩
  · rw [exec_bdom, execBdom, withRegs_ready _ hr, flaggedOf_unflagged h, error_bind]
  · rw [exec_ssync, execSsync, flaggedOf_unflagged h, error_bind]

section
variable {o : Occ} {la : Launch} (ho : s.me.occ = some o) (hla : s.me.launchOf s = some la) (hf : o.flagged = true)
include ho hla hf

theorem exec_bdom_flagged (hr : Ready s [a.toNat] []) : exec (.bdom l a) s = settle s (do
    need (decide ((gval s a.toNat).toNat < 2 ^ 16) && (domainCores la (gval s a.toNat).toNat).contains o.k) (trapC cILLEGAL)
    need (!s.me.inCompute) (trapC cDETERM)
    .ok (s.updMe fun k => k.setCtl 0x0C0 (gval s a.toNat))) := by
  rw [exec_bdom, execBdom, withRegs_ready _ hr, flaggedOf_flagged ho hla hf, ok_bind]

/-- BDOM names a domain that holds the core. -/
theorem bdom_outcomes (hr : Ready s [a.toNat] []) :
    ((gval s a.toNat).toNat < 2 ^ 16 ∧ o.k ∈ domainCores la (gval s a.toNat).toNat →
      (s.me.inCompute = false → Completes (.bdom l a) s (s.updMe fun k => k.setCtl 0x0C0 (gval s a.toNat))) ∧
      (s.me.inCompute = true → Traps (.bdom l a) s cDETERM)) ∧
    (¬ ((gval s a.toNat).toNat < 2 ^ 16 ∧ o.k ∈ domainCores la (gval s a.toNat).toNat) → Traps (.bdom l a) s cILLEGAL) := by
  have hmem : (decide ((gval s a.toNat).toNat < 2 ^ 16) && (domainCores la (gval s a.toNat).toNat).contains o.k) =
      decide ((gval s a.toNat).toNat < 2 ^ 16 ∧ o.k ∈ domainCores la (gval s a.toNat).toNat) := by simp
  have hex := exec_bdom_flagged (l := l) ho hla hf hr
  rw [hmem] at hex
  refine ⟨fun h => ⟨fun hc => completes_of_ok ?_, fun hc => traps_of_trapC ?_⟩, fun h => traps_of_trapC ?_⟩
  · rw [hex, need_holds h, ok_bind, hc, Bool.not_false, need_true, ok_bind]
  · rw [hex, need_holds h, ok_bind, hc, Bool.not_true, need_false, error_bind]
  · rw [hex, need_fails h, error_bind]

/-- SSYNC ends the compute phase, where the routine is the last of it. -/
theorem ssync_outcomes :
    (lastCompute s s.me = true → joinAgents s s = .ok () → Completes (.ssync l) s (arrive (putAway (endCapture s s.cur) s.cur) s.cur)) ∧
    (lastCompute s s.me = false → Traps (.ssync l) s cDETERM) := by
  refine ⟨fun h hj => completes_of_ok ?_, fun h => traps_of_trapC ?_⟩
  · rw [exec_ssync, execSsync, flaggedOf_flagged ho hla hf, ok_bind, h, need_true, ok_bind, hj, ok_bind]
  · rw [exec_ssync, execSsync, flaggedOf_flagged ho hla hf, ok_bind, h, need_false, error_bind]

end

/-- An event with its condition met takes its effect. -/
theorem completes_of_event {i : Instr} {s t : State} {due : Bool} (h : exec i s = event s due t) (hd : due = true) : Completes i s t := by
  rw [Completes, h, hd, event_due]

theorem completes_superstepRelease {p b d : Nat} {la : Launch} (hla : s.launch p b = some la) (hdet : la.det = true) (hc : (s.part p).contrec = [])
    (hst : stagesOf s p b d = []) {cs : List Nat} (hcs : cs = (domainCores la d).map (launchCore s p la)) (hne : cs ≠ [])
    (harr : ∀ c ∈ cs, ∃ o, (s.core c).occ = some o ∧ o.part = p ∧ o.blk = b ∧ o.stage = 1 ∧ ((s.core c).ctl 0x0C0).toNat % 2 ^ 16 = d) :
    Completes (.superstepRelease p b d) s (cs.foldl goOn (cs.foldl openPhase (cs.foldl takeSnap (applyStages s p b d)))) := by
  have hmem : domainMembers s p la d = cs := hcs.symm
  have hall : (cs.all fun c => match (s.core c).occ with
      | some o => o.part == p && o.blk == b && o.stage == 1 && fld ((s.core c).ctl 0x0C0) 15 0 == d
      | none => false) = true := by
    refine List.all_eq_true.mpr fun c hc => ?_
    obtain ⟨o, ho, hp, hb, hs, hd⟩ := harr c hc
    have hfld : fld ((s.core c).ctl 0x0C0) 15 0 = d := by rw [← hd]; simp [fld]
    rw [ho]
    simp [hp, hb, hs, hfld]
  have hdue : releaseDue s p b d = true := by
    rw [releaseDue, hla]
    dsimp only
    rw [hmem, hc, hst, hdet]
    simp only [Bool.true_and, List.any_nil, Bool.not_false, Bool.and_true, List.all_nil, Bool.and_eq_true]
    exact ⟨by simpa using hne, hall⟩
  have heff : superstepRelease s p b d = cs.foldl goOn (cs.foldl openPhase (cs.foldl takeSnap (applyStages s p b d))) := by
    rw [superstepRelease, hla, ← hmem]
  rw [← heff]
  exact completes_of_event (exec_superstepRelease p b d s) hdue

theorem exchangePhaseEnd_outcomes {c : Nat} {o : Occ} {la : Launch} (ho : (s.core c).occ = some o) (hla : (s.core c).launchOf s = some la)
    (hf : o.flagged = true) (hst : o.stage = 3) (hc : (s.part o.part).contrec = [])
    (ht : 16 * (((s.core c).ctl 0x0C1).toNat / 2 ^ 16 % 2 ^ 16) ≤ (s.clk - (s.core c).xclkBase) % 2 ^ 32) (hw : (s.core c).awaited s = []) :
    (o.ss + 1 < la.nss → Completes (.exchangePhaseEnd c) s (nextRoutine (s.updCore c fun k =>
      { k with occ := some { o with ss := o.ss + 1, stage := 0, running := false } }) c)) ∧
    (la.nss ≤ o.ss + 1 → Completes (.exchangePhaseEnd c) s (launchMember (leaveCore s c) o.part o.blk 1)) := by
  have hfld : fld ((s.core c).ctl 0x0C1) 31 16 = ((s.core c).ctl 0x0C1).toNat / 2 ^ 16 % 2 ^ 16 := by simp [fld]
  have hxclk : xclk s c = (s.clk - (s.core c).xclkBase) % 2 ^ 32 := by
    have hin : (s.core c).inFlagged = true := by rw [Core.inFlagged, ho]; exact hf
    rw [xclk]
    exact if_pos hin
  have hdue : phaseOver s c = true := by
    rw [phaseOver, ho]
    dsimp only
    rw [hw, hc, hf, hfld, hxclk, decide_eq_true ⟨hst, ht⟩]
    rfl
  refine ⟨fun h => ?_, fun h => ?_⟩
  · have heff : nextSuperstep s c = nextRoutine (s.updCore c fun k => { k with occ := some { o with ss := o.ss + 1, stage := 0, running := false } }) c := by
      rw [nextSuperstep, ho, hla]
      exact if_pos h
    rw [← heff]
    exact completes_of_event (exec_exchangePhaseEnd c s) hdue
  · have heff : nextSuperstep s c = launchMember (leaveCore s c) o.part o.blk 1 := by
      rw [nextSuperstep, ho, hla]
      exact if_neg (Nat.not_lt.mpr h)
    rw [← heff]
    exact completes_of_event (exec_exchangePhaseEnd c s) hdue

end
end Sys2Proof.Machine

namespace Sys2Proof
open Machine

/-- Settles O48: the checks of BDOM and SSYNC in their order, and the two events with their conditions met. -/
theorem superstepsSynchronise : Obligations.SuperstepsSynchronise := by
  intro s l a
  refine ⟨fun hr h => supersteps_unflagged hr h, fun o la hr ho hla hf => ?_, fun p b d la hla hdet hc hst => ?_,
    fun c o la ho hla hf hst hc ht hw => exchangePhaseEnd_outcomes ho hla hf hst hc ht hw⟩
  · obtain ⟨hin, hout⟩ := bdom_outcomes (l := l) ho hla hf hr
    exact ⟨fun hm => (hin hm).1, fun hm => (hin hm).2, hout, ssync_outcomes ho hla hf⟩
  · exact fun hne harr => completes_superstepRelease hla hdet hc hst rfl hne harr

end Sys2Proof

end

section
/-! PROOFS. A transfer past the core's own local memory (O49 refuted). -/

namespace Sys2Proof.Machine

/-! ## A transfer past the core's own local memory (R305) -/

/-- The launch of `plainLaunch` as a flagged one, with a transfer of two lines in slot 0, and more local memory than a core has. -/
def overrunLaunch : Launch :=
  { plainLaunch with det := true, lmem := 2 ^ 18 + 64, sched := [0, 0x100000000, 0, 0x1000000] }

/-- Core 0 runs an exchange routine; g1 points to the last line of its local memory, whose words and those past it are listed as valid. The first
byte of core 1's local memory, which the second line would reach, is 5 in an invalid word. -/
def overrun : State :=
  { State.reset with
    cores := [(0, { Core.idle with
      occ := some { plainUnit with flagged := true, xrout := true, stage := 3 }
      r := { Core.idle.r with g := [(1, 0x7F000003FFC0)] }
      valid := (List.range 32).map fun i => (65520 + i, true) })]
    parts := [(0, { Part.reset with launches := [(0, overrunLaunch)] })]
    mem := [(localKey 1 0, 5)] }

/-- The transfers that the current core holds after an attempt. -/
def xfersOf (o : Host.Outcome State Fault Refusal) : List Xfer :=
  match o with
  | .next t => t.me.xfers
  | _ => []

theorem overrun_sends : (xfersOf (exec (.xsend none 1 0) overrun)).map (·.bytes[64]?) = [some 5] := by decide +kernel

end Sys2Proof.Machine

namespace Sys2Proof
open Machine

/-- Refutes O49: past the end of its core's local memory, which a launch's LMEM above 256 KiB leaves open, XSEND reads the bytes by the sender's
valid bits, where the statement reads them by the next core's. At `overrun` byte 64 of the transfer is 5, not 0. -/
theorem not_scheduledTransfers : ¬ Obligations.ScheduledTransfers := by
  intro h
  obtain ⟨hsend, -⟩ := h overrun none 0 1 0 0 _ _ rfl rfl rfl rfl
  obtain ⟨-, -, hentry⟩ := hsend (by decide +kernel) (by decide +kernel)
  obtain ⟨-, -, hnow, -⟩ := hentry { slot := 0, src := 0, dst := 0, chan := 0, doff := 0, nline := 2 } rfl (by decide +kernel)
  obtain ⟨u, hu, -, hx, -⟩ := hnow (by decide +kernel) (by decide +kernel) (by decide +kernel) (by decide +kernel) (by decide +kernel)
    (by decide +kernel) (by decide +kernel)
  have hb := (congrArg (fun o => (xfersOf o).map (·.bytes[64]?)) hu).symm.trans overrun_sends
  have hx' : ({ u with issue := .done } : State).me.xfers = u.me.xfers := rfl
  rw [xfersOf, hx', hx] at hb
  exact absurd hb (by decide +kernel)

end Sys2Proof

end

section
/-! PROOFS. Wear, host writes and outside requests (O55). -/

namespace Sys2Proof.Machine

/-- What an event that is due does, and what it does where it is not, from its meaning. -/
theorem event_spec {i : Instr} {s t : State} {due : Bool} {effect : State → Prop} (h : exec i s = event s due t) (he : due = true → effect t) :
    Spec.Event i s due effect :=
  ⟨fun hd => ⟨t, completes_of_event h hd, he hd⟩, fun hd => by rw [h, hd, event_waits]⟩

/-! ## Wear and scrubs (R240, R412) -/

theorem thermNext_armed (l t : Int) : thermNext (.armed l) t = if min l t + 40 ≤ t then (.counted t, true) else (.armed (min l t), false) := rfl

theorem thermNext_counted (h t : Int) : thermNext (.counted h) t = if t ≤ max h t - 40 then (.armed t, false) else (.counted (max h t), false) := rfl

theorem thermalSample_spec (s : State) (d : Nat) (temp : Int) :
    Spec.Event (.thermalSample d temp) s (s.powered && decide (d < 4)) (fun t => Spec.Same s t ∧ t.temps = mput s.temps d temp ∧
      t.hotPend = (if 90 < temp then bump s.hotPend d else s.hotPend) ∧
      (∀ l, mget (.armed temp) s.therm d = .armed l →
        (min l temp + 40 ≤ temp → t.nv = { s.nv with exc := bump s.nv.exc d } ∧ mget (.armed temp) t.therm d = .counted temp) ∧
        (¬ min l temp + 40 ≤ temp → t.nv = s.nv ∧ mget (.counted temp) t.therm d = .armed (min l temp))) ∧
      (∀ h, mget (.armed temp) s.therm d = .counted h → t.nv = s.nv ∧
        mget (.armed (temp + 1)) t.therm d = if temp ≤ max h temp - 40 then .armed temp else .counted (max h temp))) := by
  refine event_spec (exec_thermalSample d temp s) fun _ => ⟨⟨rfl, rfl, rfl, rfl, rfl, rfl⟩, rfl, rfl, fun l hl => ?_, fun h hh => ?_⟩
  · dsimp only
    rw [hl, thermNext_armed]
    refine ⟨fun hx => ?_, fun hx => ?_⟩
    · rw [if_pos hx]
      exact ⟨rfl, mget_mput_same _ _ _ _⟩
    · rw [if_neg hx]
      exact ⟨rfl, mget_mput_same _ _ _ _⟩
  · dsimp only
    rw [hh, thermNext_counted]
    by_cases hx : temp ≤ max h temp - 40
    · rw [if_pos hx, if_pos hx]
      exact ⟨rfl, mget_mput_same _ _ _ _⟩
    · rw [if_neg hx, if_neg hx]
      exact ⟨rfl, mget_mput_same _ _ _ _⟩

/-! ## What the host and other devices write (R335, R336) -/

theorem byte_setByte (s : State) (k j : Nat) (b : Byte) : (s.setByte k b).byte j = if j = k then b else s.byte j := by
  by_cases h : j = k
  · rw [if_pos h, h, State.byte_setByte]
  · rw [if_neg h, State.byte_setByte_other _ _ _ _ h]

/-- One byte that the host writes, at its place in the data. -/
def hostByte (p a : Nat) (s : State) (x : Byte × Nat) : State :=
  match ringKey s p (a + x.2) 1 with
  | some k => s.setByte k x.1
  | none => s

theorem hostByte_frame (p a : Nat) (s : State) (x : Byte × Nat) :
    (hostByte p a s x).cores = s.cores ∧ (hostByte p a s x).folds = s.folds ∧ (hostByte p a s x).parts = s.parts ∧
      ∀ q v n, ringKey (hostByte p a s x) q v n = ringKey s q v n := by
  unfold hostByte
  split
  · exact ⟨rfl, rfl, rfl, fun _ _ _ => rfl⟩
  · exact ⟨rfl, rfl, rfl, fun _ _ _ => rfl⟩

theorem hostByte_byte (p a : Nat) (s : State) (x : Byte × Nat) (key : Nat) :
    (hostByte p a s x).byte key = if ringKey s p (a + x.2) 1 = some key then x.1 else s.byte key := by
  unfold hostByte
  cases hk : ringKey s p (a + x.2) 1 with
  | none => rfl
  | some k =>
    dsimp only
    rw [byte_setByte]
    by_cases h : key = k
    · rw [if_pos h, if_pos (by rw [h])]
    · rw [if_neg h, if_neg fun he => h (Option.some.inj he).symm]

/-- The host's bytes from place `n` of the data on. -/
theorem hostBytes_frame (p a : Nat) (xs : List (Byte × Nat)) (s : State) :
    (xs.foldl (hostByte p a) s).cores = s.cores ∧ (xs.foldl (hostByte p a) s).folds = s.folds ∧ (xs.foldl (hostByte p a) s).parts = s.parts := by
  induction xs generalizing s with
  | nil => exact ⟨rfl, rfl, rfl⟩
  | cons x xs ih =>
    obtain ⟨hc, hf, hp⟩ := ih (hostByte p a s x)
    obtain ⟨hc', hf', hp', -⟩ := hostByte_frame p a s x
    exact ⟨hc.trans hc', hf.trans hf', hp.trans hp'⟩

/-- A place that no byte of the data goes to keeps its own. -/
theorem hostBytes_other (p a : Nat) (xs : List (Byte × Nat)) (s : State) (key : Nat) (h : ∀ x ∈ xs, ringKey s p (a + x.2) 1 ≠ some key) :
    (xs.foldl (hostByte p a) s).byte key = s.byte key := by
  induction xs generalizing s with
  | nil => rfl
  | cons x xs ih =>
    obtain ⟨-, -, -, hr⟩ := hostByte_frame p a s x
    rw [List.foldl_cons, ih _ fun y hy => by rw [hr]; exact h y (List.mem_cons_of_mem _ hy), hostByte_byte,
      if_neg (h x List.mem_cons_self)]

/-- The last byte of the data that goes to a place is what it reads then. -/
theorem hostBytes_last (p a : Nat) (xs ys : List (Byte × Nat)) (x : Byte × Nat) (s : State) (key : Nat) (hx : ringKey s p (a + x.2) 1 = some key)
    (h : ∀ y ∈ ys, ringKey s p (a + y.2) 1 ≠ some key) : ((xs ++ x :: ys).foldl (hostByte p a) s).byte key = x.1 := by
  induction xs generalizing s with
  | nil =>
    obtain ⟨-, -, -, hr⟩ := hostByte_frame p a s x
    rw [List.nil_append, List.foldl_cons, hostBytes_other p a ys _ key fun y hy => by rw [hr]; exact h y hy, hostByte_byte, if_pos hx]
  | cons z xs ih =>
    obtain ⟨-, -, -, hr⟩ := hostByte_frame p a s z
    exact ih _ (by rw [hr]; exact hx) fun y hy => by rw [hr]; exact h y hy

/-- The data with its places, cut at place i. -/
theorem zipIdx_split {α : Type} {l : List α} {i : Nat} {b : α} (h : l[i]? = some b) :
    l.zipIdx = l.zipIdx.take i ++ (b, i) :: l.zipIdx.drop (i + 1) := by
  have hi : l.zipIdx[i]? = some (b, i) := by rw [List.getElem?_zipIdx, h]; simp
  obtain ⟨hlt, hget⟩ := List.getElem?_eq_some_iff.mp hi
  rw [← hget, List.cons_getElem_drop_succ, List.take_append_drop]

theorem mem_drop_zipIdx {α : Type} {l : List α} {n : Nat} {x : α × Nat} (h : x ∈ l.zipIdx.drop n) : n ≤ x.2 ∧ x.2 < l.length := by
  obtain ⟨j, hj, hx⟩ := List.mem_iff_getElem.mp h
  rw [List.getElem_drop, List.getElem_zipIdx] at hx
  rw [List.length_drop, List.length_zipIdx] at hj
  subst hx
  simp only
  omega

theorem hostMemoryWrite_spec (s : State) (p a : Nat) (data : List Byte) :
    Spec.Event (.hostMemoryWrite p a data) s (windowUp s p && (ringKey s p a data.length).isSome) (fun t =>
      t.cores = s.cores ∧ t.folds = s.folds ∧ t.parts = s.parts ∧
      (∀ key, (∀ i, i < data.length → ringKey s p (a + i) 1 ≠ some key) → t.byte key = s.byte key) ∧
      ∀ i b key, data[i]? = some b → ringKey s p (a + i) 1 = some key →
        (∀ j, i < j → j < data.length → ringKey s p (a + j) 1 ≠ some key) → t.byte key = b) := by
  have hex : exec (.hostMemoryWrite p a data) s = event s (windowUp s p && (ringKey s p a data.length).isSome) (data.zipIdx.foldl (hostByte p a) s) := rfl
  refine event_spec hex fun _ => ?_
  obtain ⟨hc, hf, hp⟩ := hostBytes_frame p a data.zipIdx s
  refine ⟨hc, hf, hp, fun key h => ?_, fun i b key hi hk h => ?_⟩
  · refine hostBytes_other p a _ s key fun x hx => h x.2 ?_
    exact (mem_drop_zipIdx (n := 0) hx).2
  · rw [zipIdx_split hi]
    refine hostBytes_last p a _ _ (b, i) s key hk fun y hy => ?_
    obtain ⟨hlo, hhi⟩ := mem_drop_zipIdx hy
    exact h y.2 hlo hhi

theorem systemScope_none (s : State) (p k a : Nat) (op : BitVec 5) (dbl : Bool) (x cmp : Word) (h : ringKey s p a (if dbl then 8 else 4) = none) :
    exec (.systemScopeRequest ⟨p, k⟩ a op dbl x cmp) s = .next { s with issue := .held } := by
  rw [exec_systemScopeRequest, execSystemScopeRequest]
  dsimp only
  rw [h]
  rfl

theorem fpCode (op : BitVec 5) : [1, 6, 7, 8].contains op.toNat = decide (op = 1 ∨ op = 6 ∨ op = 7 ∨ op = 8) := by
  revert op; decide

theorem systemScope_spec (s : State) (p k a : Nat) (op : BitVec 5) (dbl : Bool) (x cmp : Word) {key n : Nat} (hn : n = if dbl then 8 else 4)
    (h : ringKey s p a n = some key) :
    Spec.Event (.systemScopeRequest ⟨p, k⟩ a op dbl x cmp) s (windowUp s p && (partPorts s p).contains k && linkUp s k &&
        decide (fld (s.part p).facc 19 16 ≠ 0 ∧ a % n = 0) && !(dbl && decide (op = 1 ∨ op = 6 ∨ op = 7 ∨ op = 8)) && !(s.bad key n)) (fun t =>
      t.cores = s.cores ∧ t.parts = s.parts ∧
      t = (let u := s.countEcc key n
        if op.toNat ≤ 14 then u.setBytes key (leBytes n (amoNew op.toNat n (leNat (s.bytes key n)) x.toNat cmp.toNat)) else u)) := by
  refine event_spec (t := if op.toNat ≤ 14 then (s.countEcc key n).setBytes key
    (leBytes n (amoNew op.toNat n (leNat (s.bytes key n)) x.toNat cmp.toNat)) else s.countEcc key n) ?_ fun _ => ?_
  · rw [exec_systemScopeRequest, execSystemScopeRequest, ← fpCode]
    dsimp only
    rw [← hn, h]
  · split
    · obtain ⟨hc, -, hp, -⟩ := State.setBytes_frame (leBytes n (amoNew op.toNat n (leNat (s.bytes key n)) x.toNat cmp.toNat)) (s.countEcc key n) key
      exact ⟨hc, hp, rfl⟩
    · exact ⟨rfl, rfl, rfl⟩

/-! ## Registers of the window (R10) -/

theorem exec_registerWrite_imgaddr (s : State) (p : Nat) (v : Word) : exec (.registerWrite p 0x0360 v) s =
    event s (s.powered && decide (fld s.boot 3 0 = 5) && s.bootPlan.isEmpty) { s with imgAddr := some v } := by
  rw [exec_registerWrite, execRegisterWrite, if_pos rfl]

theorem exec_registerWrite_reg (s : State) (p : Nat) {off : Nat} (v : Word) (h : off ≠ 0x0360) :
    exec (.registerWrite p off v) s = event s (windowUp s p && decide (off % 8 = 0)) (writeReg s p off v) := if_neg h

/-- A register of the window takes its value while the window is up. -/
theorem registerWrite_spec (s : State) (p : Nat) {off : Nat} (v : Word) (h : off ≠ 0x0360) (h8 : off % 8 = 0) {effect : State → Prop}
    (he : effect (writeReg s p off v)) : Spec.Event (.registerWrite p off v) s (windowUp s p) effect := by
  have hdue : windowUp s p = (windowUp s p && decide (off % 8 = 0)) := by rw [decide_eq_true h8, Bool.and_true]
  rw [hdue]
  exact event_spec (exec_registerWrite_reg s p v h) fun _ => he

end Sys2Proof.Machine

namespace Sys2Proof
open Machine

/-- Settles O55: each event's condition and effect, and the bytes of a host write by induction over its data. -/
theorem hostWritesAndWear : Obligations.HostWritesAndWear := by
  intro s d p a c k w off temp v x cmp data op dbl
  refine ⟨thermalSample_spec s d temp, event_spec (exec_wearMinutesFlush s) fun _ => ⟨⟨rfl, rfl, rfl, rfl, rfl, rfl⟩, rfl, rfl⟩,
    event_spec (exec_scrub c w s) fun _ => ⟨⟨rfl, rfl, rfl, rfl, rfl, rfl⟩, rfl, mfind_mdel_same _ _⟩,
    event_spec (exec_registerWrite_imgaddr s p v) fun _ => ⟨⟨rfl, rfl, rfl, rfl, rfl, rfl⟩, rfl⟩, fun hoff h8 => ?_,
    registerWrite_spec s p v (by decide) (by decide) rfl, registerWrite_spec s p v (by decide) (by decide) rfl,
    registerWrite_spec s p v (by decide) (by decide) fun hlo hhi => ?_, hostMemoryWrite_spec s p a data, systemScope_none s p k a op dbl x cmp,
    fun key h => systemScope_spec s p k a op dbl x cmp rfl h⟩
  · rw [exec_registerWrite_reg s p v hoff, decide_eq_false h8, Bool.and_false, event_waits]
  · show s.updPart p (fun q => { q with fqLog := if 4 ≤ fld v 4 0 ∧ fld v 4 0 ≤ 12 then fld v 4 0 else q.fqLog }) = _
    rw [State.updPart, State.updPart, if_pos ⟨hlo, hhi⟩]

end Sys2Proof

end

section
/-! PROOFS. TLBINV and TLBPROBE (O53). -/

namespace Sys2Proof.Machine

/-! ## TLBINV (R366) -/

/-- A core without the TLB entries that an invalidation hits. -/
def Core.dropTlb (hit : TlbEntry → Bool) (k : Core) : Core := { k with tlb := k.tlb.filter fun e => !hit e }

/-- An invalidation over some cores. -/
def dropTlbs (hit : TlbEntry → Bool) (cs : List Nat) (s : State) : State := cs.foldl (fun s c => s.updCore c (Core.dropTlb hit)) s

theorem dropTlbs_frame (hit : TlbEntry → Bool) (cs : List Nat) (s : State) :
    (dropTlbs hit cs s).mem = s.mem ∧ (dropTlbs hit cs s).folds = s.folds ∧ (dropTlbs hit cs s).parts = s.parts := by
  unfold dropTlbs
  induction cs generalizing s with
  | nil => exact ⟨rfl, rfl, rfl⟩
  | cons c cs ih => exact ih (s.updCore c (Core.dropTlb hit))

/-- Dropping entries twice drops them once. -/
theorem Core.dropTlb_twice (hit : TlbEntry → Bool) (k : Core) : (k.dropTlb hit).dropTlb hit = k.dropTlb hit := by
  simp only [Core.dropTlb, List.filter_filter, Bool.and_self]

theorem dropTlbs_core (hit : TlbEntry → Bool) (cs : List Nat) (s : State) (c : Nat) :
    (dropTlbs hit cs s).core c = if c ∈ cs then (s.core c).dropTlb hit else s.core c := by
  unfold dropTlbs
  induction cs generalizing s with
  | nil => simp
  | cons d cs ih =>
    rw [List.foldl_cons, ih]
    by_cases hd : c = d
    · subst hd
      rw [State.updCore, State.core_setCore, Core.dropTlb_twice, ite_self, if_pos List.mem_cons_self]
    · rw [State.updCore, State.core_setCore_other _ _ _ _ hd]
      simp [hd]

section
variable {s : State} {l : Lit} {a b d : BitVec 5} {u : BitVec 2}

/-- What a TLBINV hits. -/
def tlbHit (s : State) (v n : Nat) (e : TlbEntry) : Bool := e.job == s.me.job s && (n == 0 || meets (e.base, e.size) (v, n))

theorem exec_tlbinv_ready (hr : Ready s [a.toNat, b.toNat] []) : exec (.tlbinv l a b u) s = settle s (do
    need (decide (u ≠ 3)) (trapC cILLEGAL)
    need (!s.me.inCompute) (trapC cDETERM)
    need (decide ((gval s a.toNat).toNat / 2 ^ 48 % 64 = 0 ∧ (gval s a.toNat).toNat % 2 ^ 48 + (Spec.rb s l b).toNat ≤ 2 ^ 48)) (trapC cTAG)
    need (s.me.rwDone s s.cur) (.stall s)
    .ok (dropTlbs (tlbHit s ((gval s a.toNat).toNat % 2 ^ 48) (Spec.rb s l b).toNat) (tlbScope s s.cur u.toNat) s)) := by
  rw [exec_tlbinv, execTlbinv, withRegs_ready _ hr]
  dsimp only
  rw [rbval_toNat, fld_reserved, ptrAddr_toNat]
  rfl

theorem tlbScope_cases (hu : u ≠ 3) : tlbScope s s.cur u.toNat = if u = 0 then [s.cur] else if u = 1 then span (8 * foldOf s.cur) 8
    else (s.cores.map (·.1)).filter fun x => corePart s x == corePart s s.cur := by
  have hcases : u = 0 ∨ u = 1 ∨ u = 2 := by revert u; decide
  obtain h | h | h := hcases <;> subst h <;> rfl

/-! ## TLBPROBE (R364, R366) -/

theorem critWalk_ok_of {p job v : Nat} {f : Leaf} (h : (critWalk s p job v).1 = .ok f) : walk s p job v = .ok f := by
  rw [critWalk_eq] at h
  cases hw : walk s p job v with
  | error e => rw [hw] at h; cases h
  | ok g =>
    rw [hw, critWalked] at h
    split at h
    · split at h
      · cases h
      · exact h
    · exact h

theorem critWalk_of_error {p job v : Nat} {e : WalkFail} (h : walk s p job v = .error e) : critWalk s p job v = (.error e, s) := by
  rw [critWalk_eq, h]
  rfl

/-- Reading a CRIT leaf leaves what a later register write looks at. -/
theorem critRead_keeps (s : State) : s.critRead.latch = s.latch ∧ s.critRead.cur = s.cur ∧ s.critRead.cores = s.cores ∧ s.critRead.mem = s.mem ∧
    s.critRead.parts = s.parts := by
  unfold State.critRead
  split <;> exact ⟨rfl, rfl, rfl, rfl, rfl⟩

theorem critWalk_keeps (s : State) (p job v : Nat) : (critWalk s p job v).2.latch = s.latch ∧ (critWalk s p job v).2.cur = s.cur ∧
    (critWalk s p job v).2.cores = s.cores ∧ (critWalk s p job v).2.mem = s.mem ∧ (critWalk s p job v).2.parts = s.parts := by
  rw [critWalk_eq]
  cases walk s p job v with
  | error e => exact ⟨rfl, rfl, rfl, rfl, rfl⟩
  | ok f =>
    rw [critWalked]
    split
    · exact critRead_keeps s
    · exact ⟨rfl, rfl, rfl, rfl, rfl⟩

theorem exec_tlbprobe_ready (hr : Ready s [a.toNat] [d.toNat]) {v : Nat} (hv : v = (gval s a.toNat).toNat % 2 ^ 48) :
    exec (.tlbprobe l d a) s = settle s (do
      need (!s.me.inCompute) (trapC cDETERM)
      need (decide ((gval s a.toNat).toNat / 2 ^ 48 % 64 = 0)) (trapC cTAG)
      setG (probeRead s v) d.toNat (probeWord s s.cur v)) := by
  rw [exec_tlbprobe, execTlbprobe, withRegs_ready _ hr]
  dsimp only
  rw [fld_reserved, ptrAddr_toNat, ← hv]

/-- An answer is written after the readings, which leave the registers as they are. -/
theorem setG_probeRead (hl : s.latch = none) (hb : boundG s.pre d.toNat = none) (v : Nat) (w : Word) :
    setG (probeRead s v) d.toNat w = .ok ((probeRead s v).wroteG d.toNat w) := by
  obtain ⟨hlatch, hcur, hcores, -⟩ := critWalk_keeps s (corePart s s.cur) (s.me.job s) v
  unfold probeRead
  split
  · exact setG_plain w hb
  · refine setG_after hl (hlatch.trans hl) ?_ hb w
    rw [State.me, State.core, hcur, hcores]
    rfl

theorem completes_tlbprobe (hl : s.latch = none) (hr : Ready s [a.toNat] [d.toNat]) {v : Nat} (hv : v = (gval s a.toNat).toNat % 2 ^ 48)
    (hc : s.me.inCompute = false) (ht : (gval s a.toNat).toNat / 2 ^ 48 % 64 = 0) :
    Completes (.tlbprobe l d a) s ((probeRead s v).wroteG d.toNat (probeWord s s.cur v)) := by
  refine completes_of_ok ?_
  rw [exec_tlbprobe_ready hr hv, hc, Bool.not_false, need_true, ok_bind, need_holds ht, ok_bind, setG_probeRead hl (hr.unbound (by simp))]

/-- The answer as a function of the compared walk and of the walk. -/
def probeAnswer (mgmt : Bool) : Except WalkFail Leaf → Except WalkFail Leaf → Word
  | .ok l, _ => BitVec.ofNat 64 ((if mgmt then l.phys % 2 ^ 48 / 2 ^ 12 * 2 ^ 12 else 0) + (if l.crit then 2 ^ 6 else 0) +
      leafSize l.size * 2 ^ 4 + l.tgt * 2 ^ 2 + (if l.w then 2 else 0) + 1)
  | .error .uncorrectable, .ok _ => 0x80
  | _, _ => 0

theorem probeWord_local {s : State} {c v : Nat} (h : windowOf v ≠ .global) : probeWord s c v = 0 := by rw [probeWord, if_pos h]

theorem probeWord_global {s : State} {c v : Nat} {x y : Except WalkFail Leaf} (h : windowOf v = .global)
    (hx : (critWalk s (corePart s c) ((s.core c).job s) v).1 = x) (hy : walk s (corePart s c) ((s.core c).job s) v = y) :
    probeWord s c v = probeAnswer (isMgmt c) x y := by
  rw [probeWord, if_neg (not_not.mpr h), hx, hy]
  rfl

/-- The bits of a valid leaf's answer, in the statement's order. -/
theorem probeAnswer_ok (mgmt : Bool) (f : Leaf) (w : Except WalkFail Leaf) : probeAnswer mgmt (.ok f) w =
    BitVec.ofNat 64 ((if mgmt then f.phys % 2 ^ 48 / 2 ^ 12 * 2 ^ 12 else 0) + 1 + (if f.w then 2 else 0) + f.tgt * 4 +
      (if f.size = 2 ^ 30 then 32 else if f.size = 2 ^ 21 then 16 else 0) + (if f.crit then 64 else 0)) := by
  have hsize : leafSize f.size * 2 ^ 4 = if f.size = 2 ^ 30 then 32 else if f.size = 2 ^ 21 then 16 else 0 := by
    rw [leafSize]
    split
    · rfl
    · split <;> rfl
  rw [probeAnswer, hsize, show (2 : Nat) ^ 6 = 64 from rfl]
  refine congrArg (BitVec.ofNat 64) ?_
  generalize (if f.size = 2 ^ 30 then 32 else if f.size = 2 ^ 21 then 16 else 0) = z
  omega

end
end Sys2Proof.Machine

namespace Sys2Proof
open Machine

/-- Settles O53: TLBINV's checks in their order and the entries that it drops core by core; TLBPROBE's answer from the compared walk. -/
theorem tlbInvalidatesAndProbes : Obligations.TlbInvalidatesAndProbes := by
  intro s l d a b u hl hr w v n
  have hinv : Ready s [a.toNat, b.toNat] [] := hr.mono (by simp) (by simp)
  have hprobe : Ready s [a.toNat] [d.toNat] := hr.mono (by simp) (by simp)
  have hex := exec_tlbinv_ready (l := l) (u := u) hinv
  refine ⟨fun hu => traps_of_trapC ?_, fun hu hc => ⟨traps_of_trapC ?_, traps_of_trapC ?_⟩, fun hu hc hbad => traps_of_trapC ?_,
    fun hu hc ht hn hrw => ?_, fun hu hc ht hn hrw => ?_, fun hc ht => traps_of_trapC ?_, fun hc ht => ⟨fun hwin => ?_, fun hwin => ?_⟩⟩
  · rw [hex, need_fails (not_not.mpr hu), error_bind]
  · rw [hex, need_holds hu, ok_bind, hc, Bool.not_true, need_false, error_bind]
  · rw [exec_tlbprobe_ready hprobe rfl, hc, Bool.not_true, need_false, error_bind]
  · rw [hex, need_holds hu, ok_bind, hc, Bool.not_false, need_true, ok_bind, need_fails (fun h => hbad.elim (· h.1) (Nat.not_lt.mpr h.2)), error_bind]
  · rw [hex, need_holds hu, ok_bind, hc, Bool.not_false, need_true, ok_bind, need_holds ⟨ht, hn⟩, ok_bind, hrw, need_false, error_bind,
      settle_stall]
  · intro hit scope
    obtain ⟨hmem, hfolds, hparts⟩ := dropTlbs_frame (tlbHit s v n) scope s
    refine ⟨dropTlbs (tlbHit s v n) scope s, completes_of_ok ?_, fun c hin => ?_, fun c hout => ?_, fun c => ?_, hmem, hfolds, hparts⟩
    · rw [hex, need_holds hu, ok_bind, hc, Bool.not_false, need_true, ok_bind, need_holds ⟨ht, hn⟩, ok_bind, hrw, need_true, ok_bind,
        tlbScope_cases hu]
    · rw [dropTlbs_core, if_pos hin]
      rfl
    · rw [dropTlbs_core, if_neg hout]
    · rw [dropTlbs_core]
      split <;> rfl
  · rw [exec_tlbprobe_ready hprobe rfl, hc, Bool.not_false, need_true, ok_bind, need_fails ht, error_bind]
  · have h := completes_tlbprobe (l := l) hl hprobe (v := v) rfl hc ht
    rwa [probeWord_local hwin, probeRead, if_pos hwin] at h
  · have h := completes_tlbprobe (l := l) hl hprobe (v := v) rfl hc ht
    rw [probeRead, if_neg (not_not.mpr hwin)] at h
    refine ⟨fun f hf => ?_, fun f hf hwalk => ?_, fun e he => ?_⟩
    · rwa [probeWord_global hwin hf rfl, probeAnswer_ok] at h
    · rwa [probeWord_global hwin hf hwalk] at h
    · have hzero : probeAnswer (isMgmt s.cur) (.error e) (.error e) = 0 := by cases e <;> rfl
      rwa [probeWord_global hwin (congrArg Prod.fst (critWalk_of_error he)) he, hzero] at h

end Sys2Proof

end

section
/-! PROOFS. The event unit (O45). -/

namespace Sys2Proof.Machine

/-! ## Loads and stores of the event unit (R295 to R297) -/

theorem leNat_leBytes (n x : Nat) : leNat (leBytes n x) = x % 2 ^ (8 * n) := by
  induction n generalizing x with
  | zero => simp [leBytes, leNat, Nat.mod_one]
  | succ n ih =>
    rw [leBytes, leNat, ih, show 8 * (n + 1) = 8 + 8 * n by ring, Nat.pow_add, Nat.mod_mul]
    simp

theorem ofNat_leBytes (w : Word) : BitVec.ofNat 64 (leNat (leBytes 8 w.toNat)) = w := by
  rw [leNat_leBytes, Nat.mod_eq_of_lt (show w.toNat < 2 ^ (8 * 8) from w.isLt), BitVec.ofNat_toNat, BitVec.setWidth_eq]

theorem windowOf_eventUnit {off : Nat} (h : off < 2 ^ 40) : windowOf (eventBase + off) = .eventUnit := by
  rw [windowOf, if_neg (by unfold eventBase; omega), if_pos ⟨Nat.le_add_right _ _, by omega⟩]

section
variable {s : State} {l : Lit} {d a r : BitVec 5} {o : BitVec 12} {off : Nat}

/-- A doubleword load of the event unit whose waits are over. -/
theorem exec_ld_event (hr : Ready s [a.toNat] [d.toNat]) (htag : (gval s a.toNat).toNat / 2 ^ 48 % 64 = 0)
    (hv : Spec.address s a o 8 = (eventBase + off : Nat)) (h8 : off % 8 = 0) (hoff : off < 2 ^ 16) (hf : s.me.inFlagged = false)
    (hu : Spec.unhindered s clsR (eventBase + off) 8) (hld : s.me.loads = []) (hbuf : s.me.buffered = []) :
    exec (.ld l d a 3 0 o) s = settle s (eventLoad s off >>= fun x => setG x.2 d.toNat x.1) := by
  have hcov : Spec.covered s (eventBase + off) 8 := fun b hb => by rw [Core.lastStore, hbuf] at hb; cases hb
  have hwait : loadWait s (eventBase + off) 8 = .ok () := loadWait_ok (by rw [hld]; exact Nat.zero_lt_succ _) hu hcov
  have hv' : Spec.address s a o (2 ^ (3 : BitVec 2).toNat) = (eventBase + off : Nat) := hv
  rw [exec_ld_at hr (.inl rfl) htag (by rw [hv']; exact Int.natCast_nonneg _) (by rw [hv']; unfold eventBase; omega)
    (by rw [hv', Int.toNat_natCast]; exact hwait), hv', Int.toNat_natCast]
  refine congrArg (settle s) ?_
  unfold doLoad
  dsimp only
  rw [show (2 : Nat) ^ (3 : BitVec 2).toNat = 8 from rfl, hwait, ok_bind, need_holds (by unfold eventBase; omega), ok_bind,
    if_pos (windowOf_eventUnit (by omega)), hf, Bool.not_false, need_true, ok_bind, need_holds rfl, ok_bind, Nat.add_sub_cancel_left]

/-- A doubleword store to the event unit whose waits are over. -/
theorem exec_st_event (hr : Ready s [a.toNat, r.toNat] []) (htag : (gval s a.toNat).toNat / 2 ^ 48 % 64 = 0)
    (hv : Spec.address s a o 8 = (eventBase + off : Nat)) (h8 : off % 8 = 0) (hoff : off < 2 ^ 16) (hf : s.me.inFlagged = false)
    (hu : Spec.unhindered s clsW (eventBase + off) 8) (hld : s.me.loads = []) :
    exec (.st l r a 3 o) s = settle s (eventStore s off (gval s r.toNat)) := by
  have hmeet : s.me.loadsMeet s s.cur (eventBase + off, 8) = false := by rw [Core.loadsMeet, hld]; rfl
  have hwait : storeWait s (eventBase + off) 8 = .ok () := storeWait_ok hu hmeet (.inl (windowOf_eventUnit (by omega)))
  have hv' : Spec.address s a o (2 ^ (3 : BitVec 2).toNat) = (eventBase + off : Nat) := hv
  rw [exec_st_at hr htag (by rw [hv']; exact Int.natCast_nonneg _) (by rw [hv']; unfold eventBase; omega)
    (by rw [hv', Int.toNat_natCast]; exact hwait), hv', Int.toNat_natCast]
  refine congrArg (settle s) ?_
  unfold doStore
  dsimp only
  rw [show (2 : Nat) ^ (3 : BitVec 2).toNat = 8 from rfl, length_leBytes, hwait, ok_bind, need_holds (by unfold eventBase; omega), ok_bind,
    if_pos (windowOf_eventUnit (by omega)), hf, Bool.not_false, need_true, ok_bind, need_holds rfl, ok_bind, Nat.add_sub_cancel_left, ofNat_leBytes]
  cases he : eventStore s off (gval s r.toNat) with
  | ok t => exact he
  | error e =>
    cases e with
    | trap t => rfl
    | hold => exact he
    | stall t => exact he

/-! ## What the lines answer (R295 to R297) -/

theorem foldl_fixed {α β : Type} {f : β → α → β} {t : β} {xs : List α} (h : ∀ x ∈ xs, f t x = t) : xs.foldl f t = t := by
  induction xs with
  | nil => rfl
  | cons x xs ih => rw [List.foldl_cons, h x List.mem_cons_self, ih fun y hy => h y (List.mem_cons_of_mem _ hy)]

/-- No core of the fold waits: an added count is all that happens. -/
theorem addEvent_idle {f e n : Nat} (he : (s.fold f).evwait = []) (hw : ∀ j, j < 8 → (s.core (8 * f + j)).wait = none) :
    addEvent s f e n = s.updFold f fun v => { v with events := mset 0 v.events e (min ((s.fold f).event e + n) (2 ^ 32 - 1)) } := by
  have hn : (s.fold f).evwait.length = 0 := by rw [he, List.length_nil]
  unfold addEvent
  dsimp only
  rw [hn, serveEvents]
  refine foldl_fixed fun j hj => ?_
  have hj' : ((s.setFold f { s.fold f with events := mset 0 (s.fold f).events e (min ((s.fold f).event e + n) (2 ^ 32 - 1)) }).core (8 * f + j)).wait =
    none := hw j (List.mem_range.mp hj)
  rw [hj']

section
variable {i : Nat} (hi : i < 16)
include hi

theorem eventLoad_mutex_free (hw : s.me.wait = none) (hm : ((s.fold (foldOf s.cur)).mutex i).holder = none) :
    eventLoad s (0x100 + 8 * i) = .ok (1, s.updFold (foldOf s.cur) fun v =>
      { v with mutexes := mput v.mutexes i { (s.fold (foldOf s.cur)).mutex i with holder := some s.me.runner } }) := by
  unfold eventLoad
  dsimp only
  rw [hw]
  dsimp only
  rw [if_neg (by omega), if_pos (by omega), show (0x100 + 8 * i) % 0x100 / 8 = i by omega, hm]
  rfl

theorem eventLoad_count (hw : s.me.wait = none) (hc : (s.fold (foldOf s.cur)).event i ≠ 0) (he : (s.fold (foldOf s.cur)).evwait = []) :
    eventLoad s (0x200 + 8 * i) = .ok (BitVec.ofNat 64 ((s.fold (foldOf s.cur)).event i), s.updFold (foldOf s.cur) fun v =>
      { v with events := mset 0 v.events i ((s.fold (foldOf s.cur)).event i - 1) }) := by
  unfold eventLoad
  dsimp only
  rw [hw]
  dsimp only
  rw [if_neg (by omega), if_neg (by omega), if_pos (by omega), show (0x200 + 8 * i) % 0x100 / 8 = i by omega,
    if_pos ⟨Nat.pos_of_ne_zero hc, by rw [he]; rfl⟩]
  rfl

theorem eventLoad_config (hw : s.me.wait = none) : eventLoad s (0x1000 + 8 * i) = .ok (((s.fold (foldOf s.cur)).barrier i).word, s) := by
  unfold eventLoad
  dsimp only
  rw [hw]
  dsimp only
  rw [if_neg (by omega), if_neg (by omega), if_neg (by omega), if_pos (by omega), show (0x1000 + 8 * i) % 0x100 / 8 = i by omega]

theorem eventLoad_sync (hw : s.me.wait = none) : eventLoad s (0x2000 + 8 * i) = .ok (mget 0 (s.fold (foldOf s.cur)).sync i, s) := by
  unfold eventLoad
  dsimp only
  rw [hw]
  dsimp only
  rw [if_neg (by omega), if_neg (by omega), if_neg (by omega), if_neg (by omega), if_pos (by omega), show (0x2000 + 8 * i - 0x2000) / 8 = i by omega]

theorem eventLoad_barrier_foreign (hw : s.me.wait = none) (hm : ((s.fold (foldOf s.cur)).barrier i).memb.getLsbD (s.cur % 8) = false) :
    eventLoad s (8 * i) = .error (trapA cPERMISSION false (eventBase + 8 * i)) := by
  unfold eventLoad
  dsimp only
  rw [hw]
  dsimp only
  rw [if_pos (by omega), show (8 * i) % 0x100 / 8 = i by omega, hm, need_false, error_bind]

theorem eventLoad_barrier_joins (hw : s.me.wait = none) (hm : ((s.fold (foldOf s.cur)).barrier i).memb.getLsbD (s.cur % 8) = true)
    (hrw : s.me.rwDone s s.cur = true) :
    eventLoad s (8 * i) = .error (.stall ((s.updFold (foldOf s.cur) fun v => { v with
        barriers := mput v.barriers i { (s.fold (foldOf s.cur)).barrier i with arrived := ((s.fold (foldOf s.cur)).barrier i).arrived ++ [s.cur % 8] } }).updMe
      fun k => { k with wait := some (.barrier i ((s.fold (foldOf s.cur)).barrier i).gen) })) := by
  unfold eventLoad
  dsimp only
  rw [hw]
  dsimp only
  rw [if_pos (by omega), show (8 * i) % 0x100 / 8 = i by omega, hm, need_true, ok_bind, hrw]
  rfl

theorem eventStore_mutex_release {w : Word} (hm : ((s.fold (foldOf s.cur)).mutex i).holder = some s.me.runner)
    (hws : ((s.fold (foldOf s.cur)).mutex i).waiters = []) (hrw : s.me.rwDone s s.cur = true) :
    eventStore s (0x100 + 8 * i) w = .ok (s.updFold (foldOf s.cur) fun v =>
      { v with mutexes := mput v.mutexes i { (s.fold (foldOf s.cur)).mutex i with holder := none } }) := by
  unfold eventStore
  dsimp only
  rw [if_pos (by omega), show (0x100 + 8 * i) % 0x100 / 8 = i by omega, need_holds hm, ok_bind, hrw, need_true, ok_bind, passMutex, hws]
  rfl

theorem eventStore_mutex_foreign {w : Word} (hm : ((s.fold (foldOf s.cur)).mutex i).holder ≠ some s.me.runner) :
    eventStore s (0x100 + 8 * i) w = .error (trapA cPERMISSION true (eventBase + (0x100 + 8 * i))) := by
  unfold eventStore
  dsimp only
  rw [if_pos (by omega), show (0x100 + 8 * i) % 0x100 / 8 = i by omega, need_fails hm, error_bind]

theorem eventStore_count {w : Word} (he : (s.fold (foldOf s.cur)).evwait = []) (hws : ∀ j, j < 8 → (s.core (8 * foldOf s.cur + j)).wait = none)
    (hrw : s.me.rwDone s s.cur = true) :
    eventStore s (0x200 + 8 * i) w = .ok (s.updFold (foldOf s.cur) fun v =>
      { v with events := mset 0 v.events i (min ((s.fold (foldOf s.cur)).event i + w.toNat) (2 ^ 32 - 1)) }) := by
  unfold eventStore
  dsimp only
  rw [if_neg (by omega), if_pos (by omega), show (0x200 + 8 * i) % 0x100 / 8 = i by omega, hrw, need_true, ok_bind, addEvent_idle he hws]

theorem eventStore_config {w : Word} (hst : s.me.stores = []) (ha : ((s.fold (foldOf s.cur)).barrier i).arrived = []) :
    eventStore s (0x1000 + 8 * i) w = .ok (s.updFold (foldOf s.cur) fun v => { v with
      barriers := mput v.barriers i { (s.fold (foldOf s.cur)).barrier i with dom := w.toNat / 2 ^ 16 % 2 ^ 16, memb := BitVec.ofNat 8 w.toNat } }) := by
  have hdom : fld w 31 16 = w.toNat / 2 ^ 16 % 2 ^ 16 := rfl
  have hmemb : BitVec.ofNat 8 (fld w 7 0) = BitVec.ofNat 8 w.toNat := BitVec.eq_of_toNat_eq (by simp [fld])
  unfold eventStore
  dsimp only
  rw [if_neg (by omega), if_neg (by omega), if_pos (by omega), show (0x1000 + 8 * i) % 0x100 / 8 = i by omega, hst, ha, hdom, hmemb]
  rfl

theorem eventStore_sync {w : Word} (hst : s.me.stores = []) :
    eventStore s (0x2000 + 8 * i) w = .ok (s.updFold (foldOf s.cur) fun v => { v with sync := mset 0 v.sync i w }) := by
  unfold eventStore
  dsimp only
  rw [if_neg (by omega), if_neg (by omega), if_neg (by omega), if_pos (by omega), show (0x2000 + 8 * i - 0x2000) / 8 = i by omega, hst]
  rfl

end

theorem eventLoad_released {v : Word} (hw : s.me.wait = some (.released v)) :
    eventLoad s off = .ok (v, s.updMe fun k => { k with wait := none }) := by
  unfold eventLoad
  dsimp only
  rw [hw]
  rfl

/-- BARRIER_RELEASE of a line of one fold with one member, which has arrived. -/
theorem completes_barrierRelease {f c : Nat} {i : Nat} (hdom : ((s.fold f).barrier i).dom = 0) (harr : ((s.fold f).barrier i).arrived = [c])
    (hmemb : ∀ j, j < 8 → ((s.fold f).barrier i).memb.getLsbD j = decide (j = c)) {gen : Nat} (hgen : gen = (((s.fold f).barrier i).gen + 1) % 256) :
    Completes (.barrierRelease f i) s
      ((s.updFold f fun v => { v with barriers := mput v.barriers i { (s.fold f).barrier i with gen := gen, arrived := [] } }).updCore
        (8 * f + c) fun k => { k with wait := some (.released (BitVec.ofNat 64 gen)) }) := by
  have hfolds : barrierFolds s f i = [f] := by rw [barrierFolds]; exact if_pos hdom
  have hfull : ((s.fold f).barrier i).full = true := by
    refine List.all_eq_true.mpr fun j hj => ?_
    rw [hmemb j (List.mem_range.mp hj), harr]
    by_cases h : j = c
    · simp [h]
    · simp [h]
  have hdue : barrierDue s f i = true := by
    rw [barrierDue, hfolds, harr]
    simp [hfull]
  rw [Completes, exec_barrierRelease, execBarrierRelease, hdue, event_due, hfolds]
  subst hgen
  refine congrArg (fun t : State => Host.Outcome.next { t with issue := .done }) ?_
  rw [List.foldl_cons, List.foldl_nil]
  dsimp only
  rw [harr]
  rfl

/-! ## EVWAIT, EVSIG and EVCNT (R298) -/

section
variable {b e : BitVec 5} {u : Occ} {la : Launch} (ho : s.me.occ = some u) (hla : s.me.launchOf s = some la)
include ho

theorem unflagged_flagged (h : u.flagged = true) : unflagged s = .error (trapC cDETERM) := by
  have hf : s.me.inFlagged = true := by rw [Core.inFlagged, ho]; exact h
  rw [unflagged, hf, Bool.not_true, need_false]

theorem unflagged_unflagged (h : u.flagged = false) : unflagged s = .ok () := by
  have hf : s.me.inFlagged = false := by rw [Core.inFlagged, ho]; exact h
  rw [unflagged, hf, Bool.not_false, need_true]

theorem events_flagged (hr : Ready s [a.toNat, b.toNat] [d.toNat]) (h : u.flagged = true) :
    Traps (.evwait l e) s cDETERM ∧ Traps (.evsig l a b e) s cDETERM ∧ Traps (.evcnt l d e) s cDETERM := by
  have hbar := unflagged_flagged ho h
  refine ⟨traps_of_trapC ?_, traps_of_trapC ?_, traps_of_trapC ?_⟩
  · rw [exec_evwait, execEvwait, hbar, error_bind]
  · rw [exec_evsig, execEvsig, withRegs_ready (dests := []) _ (hr.mono (by simp) (by simp)), hbar, error_bind]
  · rw [exec_evcnt, execEvcnt, withRegs_ready (srcs := []) _ (hr.mono (by simp) (by simp)), hbar, error_bind]

theorem completes_evcnt (hr : Ready s [] [d.toNat]) (h : u.flagged = false) :
    Completes (.evcnt l d e) s (s.wroteG d.toNat (BitVec.ofNat 64 ((s.fold (foldOf s.cur)).event e.toNat))) := by
  refine completes_of_ok ?_
  rw [exec_evcnt, execEvcnt, withRegs_ready _ hr, unflagged_unflagged ho h, ok_bind, setG_plain _ (hr.unbound (by simp))]

include hla

theorem unitOf_unit (h : u.flagged = false) : unitOf s = .ok (u, la) := by
  rw [unitOf, ho, hla]
  simp [h]

theorem completes_evwait_takes (h : u.flagged = false) (hc : s.pre.capOpen = false) (hn : (s.fold (foldOf s.cur)).event e.toNat ≠ 0)
    (hw : (s.fold (foldOf s.cur)).evwait.any (fun w => w.1 == e.toNat) = false) :
    Completes (.evwait l e) s (s.updFold (foldOf s.cur) fun f =>
      { f with events := mset 0 f.events e.toNat ((s.fold (foldOf s.cur)).event e.toNat - 1) }) := by
  refine completes_of_ok ?_
  rw [exec_evwait, execEvwait, unflagged_unflagged ho h, ok_bind, hc, Bool.not_false, need_true, ok_bind, unitOf_unit ho hla h, ok_bind]
  dsimp only
  rw [if_pos ⟨Nat.pos_of_ne_zero hn, by rw [hw]; rfl⟩]
  rfl

theorem completes_evwait_suspends (h : u.flagged = false) (hc : s.pre.capOpen = false) (hn : (s.fold (foldOf s.cur)).event e.toNat = 0)
    (hj : joinAgents s s = .ok ()) :
    Completes (.evwait l e) s (suspendUnit (s.updFold (foldOf s.cur) fun f => { f with evwait := f.evwait ++ [(e.toNat, .unit_ u.blk u.rcd)] })
      s.cur 3 4 s.me.r.npc.toNat) := by
  refine completes_of_ok ?_
  rw [exec_evwait, execEvwait, unflagged_unflagged ho h, ok_bind, hc, Bool.not_false, need_true, ok_bind, unitOf_unit ho hla h, ok_bind]
  dsimp only
  rw [if_neg fun hpos => Nat.ne_of_gt hpos.1 hn, hj, ok_bind]

theorem exec_evsig_unit (hr : Ready s [a.toNat, b.toNat] []) (h : u.flagged = false) : exec (.evsig l a b e) s = settle s (do
    need (decide ((gval s a.toNat).toNat < la.fcount ∧ 1 ≤ (Spec.rb s l b).toNat ∧ (Spec.rb s l b).toNat < 2 ^ 32)) (trapC cILLEGAL)
    need (s.me.rwDone s s.cur) (.stall s)
    need (routeUp s (foldOf s.cur) (devFold s u.part (la.fbase + (gval s a.toNat).toNat)) (false, false))
      (.stall (s.updMe fun k => { k with wait := some (.evsig (devFold s u.part (la.fbase + (gval s a.toNat).toNat))) }))
    .ok (addEvent (s.updMe fun k => { k with wait := none }) (devFold s u.part (la.fbase + (gval s a.toNat).toNat)) e.toNat
      (Spec.rb s l b).toNat)) := by
  rw [exec_evsig, execEvsig, withRegs_ready _ hr, unflagged_unflagged ho h, ok_bind, unitOf_unit ho hla h, ok_bind]
  dsimp only
  rw [rbval_toNat]

end
end
end Sys2Proof.Machine

namespace Sys2Proof
open Machine

/-- The lines of the event unit, each by its load or store at the line's offset. -/
theorem eventUnitLines : Spec.EventUnitLines := by
  intro s l d a r o i hr hl hi f line m cnt w
  have hrd : Ready s [a.toNat] [d.toNat] := hr.mono (by simp) (by simp)
  have hrs : Ready s [a.toNat, r.toNat] [] := hr.mono (by simp) (by simp)
  have hb : boundG s.pre d.toNat = none := hr.unbound (by simp)
  have load {off : Nat} (hoff : off < 2 ^ 16) (ha : Spec.eventAccess s a o clsR off) :
      exec (.ld l d a 3 0 o) s = settle s (eventLoad s off >>= fun x => setG x.2 d.toNat x.1) := by
    obtain ⟨htag, hv, h8, hf, hu, hld, hbuf, -, -⟩ := ha
    exact exec_ld_event hrd htag hv h8 hoff hf hu hld hbuf
  have store {off : Nat} (hoff : off < 2 ^ 16) (ha : Spec.eventAccess s a o clsW off) :
      exec (.st l r a 3 o) s = settle s (eventStore s off w) := by
    obtain ⟨htag, hv, h8, hf, hu, hld, -, -, -⟩ := ha
    exact exec_st_event hrs htag hv h8 hoff hf hu hld
  have answers {v : Word} {g : Fold → Fold} : setG (s.updFold (foldOf s.cur) g) d.toNat v = .ok ((s.updFold (foldOf s.cur) g).wroteG d.toNat v) :=
    setG_after (t := s.updFold (foldOf s.cur) g) hl hl rfl hb v
  have waits {cls off : Nat} (ha : Spec.eventAccess s a o cls off) : s.me.wait = none ∧ s.me.rwDone s s.cur = true ∧ s.me.stores = [] := by
    obtain ⟨-, -, -, -, -, -, hbuf, hw, hrw⟩ := ha
    exact ⟨hw, hrw, (List.append_eq_nil_iff.mp hbuf).1⟩
  refine ⟨fun ha hm => completes_of_ok ?_, fun ha hm hws => completes_of_ok ?_,
    fun ha hm => traps_of_trapA (w := true) (a := eventBase + (0x100 + 8 * i)) ?_,
    fun ha hc he => completes_of_ok ?_,
    fun ha he hws => completes_of_ok ?_, fun ha => completes_of_ok ?_, fun ha harr => completes_of_ok ?_, fun ha => completes_of_ok ?_,
    fun ha => completes_of_ok ?_, fun ha hm => traps_of_trapA (w := false) (a := eventBase + 8 * i) ?_, fun ha hm => ?_,
    fun v htag hv hf hu hld hbuf hw => completes_of_ok ?_,
    fun g c hdom hg harr hmemb => ?_⟩
  · rw [load (by omega) ha, eventLoad_mutex_free hi (waits ha).1 hm, ok_bind, answers]
    rfl
  · rw [store (by omega) ha, eventStore_mutex_release hi hm hws (waits ha).2.1]
    rfl
  · rw [store (by omega) ha, eventStore_mutex_foreign hi hm]
  · rw [load (by omega) ha, eventLoad_count hi (waits ha).1 hc he, ok_bind, answers]
    rfl
  · rw [store (by omega) ha, eventStore_count hi he hws (waits ha).2.1]
    rfl
  · rw [load (by omega) ha, eventLoad_config hi (waits ha).1, ok_bind, setG_plain _ hb]
    rfl
  · rw [store (by omega) ha, eventStore_config hi (waits ha).2.2 harr]
    rfl
  · rw [load (by omega) ha, eventLoad_sync hi (waits ha).1, ok_bind, setG_plain _ hb]
  · rw [store (by omega) ha, eventStore_sync hi (waits ha).2.2]
    rfl
  · rw [load (by omega) ha, eventLoad_barrier_foreign hi (waits ha).1 hm, error_bind]
  · intro u
    rw [load (by omega) ha, eventLoad_barrier_joins hi (waits ha).1 hm (waits ha).2.1, error_bind, settle_stall]
    rfl
  · rw [exec_ld_event hrd htag hv (by omega) (by omega) hf hu hld hbuf, eventLoad_released hw, ok_bind,
      setG_after (t := s.updMe fun k => { k with wait := none }) hl hl (by rw [State.me_updMe]) hb]
  · subst hg
    exact completes_barrierRelease hdom harr hmemb rfl

/-- EVWAIT, EVSIG and EVCNT, each by its checks in order. -/
theorem eventInstructions : Spec.EventInstructions := by
  intro s l d a b e o la hr ho hla v cnt
  have hrs : Ready s [a.toNat, b.toNat] [] := hr.mono (by simp) (by simp)
  refine ⟨events_flagged ho hr, completes_evcnt ho (hr.mono (by simp) (by simp)), completes_evwait_takes ho hla, completes_evwait_suspends ho hla, ?_⟩
  intro t n g
  refine ⟨fun h ht h1 hn hrw => ⟨fun hup => completes_of_ok ?_, fun hup => ?_⟩, fun h hbad => traps_of_trapC ?_, fun h ht h1 hn hrw => ?_⟩
  · rw [exec_evsig_unit ho hla hrs h, need_holds ⟨ht, h1, hn⟩, ok_bind, hrw, need_true, ok_bind, show routeUp s _ g (false, false) = true from hup,
      need_true, ok_bind]
  · rw [exec_evsig_unit ho hla hrs h, need_holds ⟨ht, h1, hn⟩, ok_bind, hrw, need_true, ok_bind, show routeUp s _ g (false, false) = false from hup,
      need_false, error_bind, settle_stall]
  · rw [exec_evsig_unit ho hla hrs h, need_fails (by omega), error_bind]
  · rw [exec_evsig_unit ho hla hrs h, need_holds ⟨ht, h1, hn⟩, ok_bind, hrw, need_false, error_bind, settle_stall]

/-- Settles O45: the lines and the instructions of the event unit. -/
theorem eventUnit : Obligations.EventUnit := ⟨eventUnitLines, eventInstructions⟩

end Sys2Proof

end

section
/-! PROOFS. Power, start-up, attestation and the layout (O54). -/

namespace Sys2Proof.Machine

/-! ## BOOTST (R409) -/

theorem bootWord_toNat {st retr ms : Nat} (hs : st < 16) (hr : retr < 16) : (bootWord st retr ms).toNat = ms % 2 ^ 32 * 2 ^ 32 + retr * 16 + st := by
  rw [bootWord, BitVec.toNat_ofNat, Nat.mod_eq_of_lt]
  have := Nat.mod_lt ms (show 0 < 2 ^ 32 by decide)
  omega

theorem enter_boot (s : State) (st ms : Nat) (later : List (Nat × Nat)) : (s.enter st ms later).boot = bootWord st (fld s.boot 7 4) ms := by
  unfold State.enter
  dsimp only
  split <;> rfl

theorem enter_frame (s : State) (st ms : Nat) (later : List (Nat × Nat)) : (s.enter st ms later).bootPlan = later ∧
    (s.enter st ms later).cores = s.cores ∧ (s.enter st ms later).mem = s.mem ∧ (s.enter st ms later).image = s.image := by
  unfold State.enter
  dsimp only
  split <;> exact ⟨rfl, rfl, rfl, rfl⟩

theorem retr_lt (w : Word) : fld w 7 4 < 16 := Nat.mod_lt _ (by decide)

theorem enter_state (s : State) {st : Nat} (ms : Nat) (later : List (Nat × Nat)) (h : st < 16) : fld (s.enter st ms later).boot 3 0 = st := by
  have hr := retr_lt s.boot
  rw [enter_boot, fld, bootWord_toNat h hr]
  omega

theorem enter_ms (s : State) {st : Nat} (ms : Nat) (later : List (Nat × Nat)) (h : st < 16) : fld (s.enter st ms later).boot 63 32 = ms % 2 ^ 32 := by
  have hr := retr_lt s.boot
  rw [enter_boot, fld, bootWord_toNat h hr]
  omega

/-- RETR's bits stay. -/
theorem enter_retr (s : State) {st c : Nat} (ms : Nat) (later : List (Nat × Nat)) (h : st < 16) (hc : c < 4) :
    fld (s.enter st ms later).boot (4 + c) (4 + c) = fld s.boot (4 + c) (4 + c) := by
  have hr : fld s.boot 7 4 = s.boot.toNat / 16 % 16 := rfl
  rw [enter_boot, hr, fld, fld, bootWord_toNat h (Nat.mod_lt _ (by decide))]
  have hcases : c = 0 ∨ c = 1 ∨ c = 2 ∨ c = 3 := by omega
  obtain rfl | rfl | rfl | rfl := hcases <;> omega

theorem trained_retr {s : State} {c : Nat} (hc : c < 4) (h : classOf s.retrain c ≠ []) : fld (trained s c).boot (4 + c) (4 + c) = 1 := by
  have hb : (trained s c).boot = putFld s.boot (4 + c) (4 + c) 1 := by
    unfold trained
    dsimp only
    rw [if_neg (by simpa using h)]
  rw [hb]
  exact fld_putFld_same _ (Nat.le_refl _) (by omega) (by rw [Nat.sub_self]; decide)

theorem trained_frame (s : State) (c : Nat) : (trained s c).cores = s.cores ∧ (trained s c).mem = s.mem ∧ (trained s c).nv.image = s.nv.image := by
  unfold trained
  dsimp only
  split <;> exact ⟨rfl, rfl, rfl⟩

theorem imagePortUp_frame (s : State) (up : Bool) : (imagePortUp s up).cores = s.cores ∧ (imagePortUp s up).mem = s.mem := by
  unfold imagePortUp
  dsimp only
  split <;> exact ⟨rfl, rfl⟩

/-! ## The next state of start-up (R407, R409, R410) -/

/-- The state st of start-up entered at a millisecond. -/
def bootNext (s : State) (st ms : Nat) (later : List (Nat × Nat)) : State :=
  match st with
  | 2 => if Config.verified s.nv.firmware then s.enter 2 ms later else s.enter 15 ms []
  | 3 => (trained s 0).enter 3 ms later
  | 4 => (trained s 1).enter 4 ms later
  | 5 => imageStart (trained s 2) ms
  | 6 => imageRead s ms
  | st => s.enter st ms later

theorem bootStep_due {s : State} {st ms : Nat} {later : List (Nat × Nat)} (hplan : s.bootPlan = (st, ms) :: later) (hp : s.powered = true)
    (hc : ms * clkMs ≤ s.clk) : bootStep s = bootNext s st ms later := by
  rw [bootStep, hplan]
  dsimp only
  rw [if_neg (by simp [hp, hc])]
  rfl

theorem bootStep_waits {s : State} {st ms : Nat} {later : List (Nat × Nat)} (hplan : s.bootPlan = (st, ms) :: later) (hc : s.clk < ms * clkMs) :
    bootStep s = s := by
  rw [bootStep, hplan]
  exact if_pos (.inr hc)

/-- The state with a runtime image. -/
def State.withImage (s : State) (bs : List Byte) : State := { s with image := bs }

/-- Whatever the image read finds, one state is entered, and the cores and memory stay. -/
theorem imageRead_cases (s : State) (ms : Nat) : ∃ u : State, u.cores = s.cores ∧ u.mem = s.mem ∧
    imageRead s ms = match (imageBytes s).filter Config.verified with
      | some bs => (u.withImage bs).enter 6 ms [(7, ms + 800)]
      | none => u.enter 15 ms [] := by
  obtain ⟨hc, hm⟩ := imagePortUp_frame s false
  exact ⟨{ imagePortUp s false with imgAddr := none, imgLen := 0 }, hc, hm, rfl⟩

theorem imageStart_cases (s : State) (ms : Nat) : ∃ (u : State) (later : List (Nat × Nat)), u.cores = s.cores ∧ u.mem = s.mem ∧
    imageStart s ms = u.enter (if imageSourceOk s.nv.image then 5 else 15) ms later := by
  unfold imageStart
  cases imageSourceOk s.nv.image with
  | false => exact ⟨s, [], rfl, rfl, rfl⟩
  | true =>
    by_cases hv : imageVia s = 1
    · exact ⟨s, [], rfl, rfl, by rw [if_neg (by decide), if_pos hv, if_pos rfl]⟩
    · obtain ⟨hc, hm⟩ := imagePortUp_frame s true
      exact ⟨imagePortUp s true, [(6, ms + 1200)], hc, hm, by rw [if_neg (by decide), if_neg hv, if_pos rfl]⟩

/-- A step of start-up enters one state, FAIL among them, and leaves the cores and memory. -/
theorem bootNext_enters (s : State) (st ms : Nat) (later : List (Nat × Nat)) : ∃ (u : State) (st' : Nat) (later' : List (Nat × Nat)),
    u.cores = s.cores ∧ u.mem = s.mem ∧ (st < 16 → st' < 16) ∧ bootNext s st ms later = u.enter st' ms later' := by
  unfold bootNext
  split
  · split
    · exact ⟨s, 2, later, rfl, rfl, fun _ => by decide, rfl⟩
    · exact ⟨s, 15, [], rfl, rfl, fun _ => by decide, rfl⟩
  · obtain ⟨hc, hm, -⟩ := trained_frame s 0
    exact ⟨_, 3, later, hc, hm, fun _ => by decide, rfl⟩
  · obtain ⟨hc, hm, -⟩ := trained_frame s 1
    exact ⟨_, 4, later, hc, hm, fun _ => by decide, rfl⟩
  · obtain ⟨hc, hm, -⟩ := trained_frame s 2
    obtain ⟨u, later', huc, hum, he⟩ := imageStart_cases (trained s 2) ms
    exact ⟨u, _, later', huc.trans hc, hum.trans hm, fun _ => by split <;> decide, he⟩
  · obtain ⟨u, hc, hm, he⟩ := imageRead_cases s ms
    rw [he]
    cases (imageBytes s).filter Config.verified with
    | some bs => exact ⟨u.withImage bs, 6, [(7, ms + 800)], hc, hm, fun _ => by decide, rfl⟩
    | none => exact ⟨u, 15, [], hc, hm, fun _ => by decide, rfl⟩
  · exact ⟨s, st, later, rfl, rfl, id, rfl⟩

/-! ## Power (R408, R411, R412) -/

theorem powerLoss_spec (s : State) : Spec.Event .powerLoss s s.powered (fun t => t.powered = false ∧ t.cores = State.reset.cores ∧
    t.parts = State.reset.parts ∧ t.folds = State.reset.folds ∧ t.mem = s.mem.filter (fun c => decide (c.1 / 2 ^ 64 = 2 ∨ c.1 / 2 ^ 64 = 3 ∨ c.1 / 2 ^ 64 = 6)) ∧
    t.nv = { s.nv with poweredClk := s.nv.poweredClk + s.clk }) := by
  refine event_spec (exec_powerLoss s) fun hp => ⟨rfl, rfl, rfl, rfl, ?_, ?_⟩
  · refine List.filter_congr fun c _ => ?_
    simp
  · show { s.nv with poweredClk := poweredClk s } = _
    rw [poweredClk, if_pos hp]

/-- What start-up at power-good begins with. -/
theorem powerUp_wear (s : State) (temp : Int) : (powerUp s temp).nv =
    { (s.cold.nv.kept) with
      pwrDie := (List.range 4).foldl bump s.cold.nv.kept.pwrDie, pwrStack := (List.range 8).foldl bump s.cold.nv.kept.pwrStack } := rfl

theorem kept_of_store {n : NV} (h : n.form ≠ .bare false) : n.kept = n := by
  unfold NV.kept
  split
  · next hf => exact absurd hf h
  · rfl

theorem kept_of_bare {n : NV} (h : n.form = .bare false) :
    n.kept = { n with records := [], pwrDie := [], exc := [], hotm := [], pwrStack := [] } := by
  rw [NV.kept, h]

theorem kept_frame (n : NV) : n.kept.quar = n.quar ∧ n.kept.image = n.image ∧ n.kept.firmware = n.firmware := by
  unfold NV.kept
  split <;> exact ⟨rfl, rfl, rfl⟩

/-- The items that train fully at power-good are those whose records may not be used. -/
theorem powerUp_retrain (s : State) (temp : Int) (k : Nat) : k ∈ (powerUp s temp).retrain ↔ k < 48 ∧ recordUsable (powerUp s temp) k = false := by
  have hr : (powerUp s temp).retrain = badRecords (powerUp s temp) := rfl
  rw [hr, badRecords, List.mem_filter, trainItems, List.mem_range, Bool.not_eq_true']

theorem powerGood_spec (s : State) (temp : Int) :
    Spec.Event (.powerGood temp) s (!s.powered || (decide (fld s.boot 3 0 = 0) && s.bootPlan.isEmpty)) (fun t => t.powered = true ∧
      (s.nv.form ≠ .bare false → t.nv.pwrDie = [0, 1, 2, 3].foldl bump s.nv.pwrDie ∧
        t.nv.pwrStack = [0, 1, 2, 3, 4, 5, 6, 7].foldl bump s.nv.pwrStack) ∧
      (s.nv.form = .bare false → t.nv.pwrDie = [0, 1, 2, 3].foldl bump [] ∧ t.nv.pwrStack = [0, 1, 2, 3, 4, 5, 6, 7].foldl bump []) ∧
      t.nv.quar = s.nv.quar ∧ t.nv.image = s.nv.image ∧ t.nv.firmware = s.nv.firmware ∧ t.boot = 0 ∧
      (∀ k, k ∈ t.retrain ↔ k < 48 ∧ recordUsable t k = false) ∧ t.bootPlan = bootTimes t.retrain) := by
  refine event_spec (exec_powerGood temp s) fun _ => ?_
  obtain ⟨hq, hi, hf⟩ := kept_frame s.cold.nv
  refine ⟨rfl, fun h => ?_, fun h => ?_, ?_, ?_, ?_, rfl, powerUp_retrain s temp, rfl⟩
  · have hk : s.cold.nv.kept = s.cold.nv := kept_of_store h
    rw [powerUp_wear, hk]
    exact ⟨rfl, rfl⟩
  · have hk := kept_of_bare (n := s.cold.nv) h
    rw [powerUp_wear, hk]
    exact ⟨rfl, rfl⟩
  · rw [powerUp_wear]; exact hq
  · rw [powerUp_wear]; exact hi
  · rw [powerUp_wear]; exact hf

/-! ## Attestation and the layout (R25, R26, R407) -/

theorem attestation_spec (s : State) (d0 : Word) : Spec.Event (.attestationRequest d0) s (s.powered && decide (2 ≤ fld s.boot 3 0 ∧ fld s.boot 3 0 ≤ 7))
    (fun t => ∃ ms, t = { s with spdm := s.spdm ++ [d0 :: ms ++ [Config.attest d0 ms]] } ∧ ms.length = 2 + nparts s.layout ∧
      ms.take 2 = [Config.digest s.nv.firmware, Config.digest s.image] ∧
      ∀ p, p < nparts s.layout → ms[2 + p]? = some (Config.digest (leBytes 8 (s.part p).facc.toNat))) := by
  refine event_spec (exec_attestationRequest d0 s) fun _ => ⟨_, rfl, ?_, rfl, fun p hp => ?_⟩
  · rw [List.length_cons, List.length_cons, List.length_map, List.length_range]
    omega
  · rw [show 2 + p = p + 1 + 1 by omega, List.getElem?_cons_succ, List.getElem?_cons_succ, List.getElem?_map, List.getElem?_range hp]
    rfl

/-- A core after a layout change. -/
def coreCleared (x : Nat × Core) : Nat × Core :=
  let k := x.2
  if x.1 < 6144 then
    (x.1, { Core.idle with
      stores := k.stores, loads := k.loads.filter Load.isAmo, thirds := k.thirds, trans := k.trans
      r := { Regs.zero with ctl := mset 0 [] 0x091 (k.ctl 0x091) } })
  else x

/-- The device under a new layout. -/
def layoutChanged (s : State) (lay : Layout) : State :=
  startSvc { s with
    busy := false, layout := lay, parts := [], folds := [], cores := s.cores.map coreCleared, slots := [], ringStart := s.clk
    ports := s.ports.map fun x => (x.1, x.2 &&& 0x000000FFFFFF0000) }

theorem exec_layoutChange (s : State) (lay : Layout) : exec (.partitionLayoutChange lay) s =
    event s (s.powered && decide (fld s.boot 3 0 = 7)) (if layoutBusy s then { s with busy := true } else layoutChanged s lay) := rfl

theorem mget_map_range {α : Type} (d : α) (f : Nat → α) {n p : Nat} (h : p < n) : mget d ((List.range n).map fun p => (p, f p)) p = f p := by
  have hfind (xs : List Nat) (hp : p ∈ xs) : mfind (xs.map fun p => (p, f p)) p = some (f p) := by
    induction xs with
    | nil => cases hp
    | cons x xs ih =>
      rw [List.map_cons, mfind]
      by_cases hx : x = p
      · rw [if_pos hx, hx]
      · rw [if_neg hx]
        exact ih ((List.mem_cons.mp hp).resolve_left fun he => hx he.symm)
  rw [mget, hfind _ (List.mem_range.mpr h), Option.getD_some]

theorem layoutChanged_part (s : State) (lay : Layout) {p : Nat} (h : p < nparts lay) :
    (layoutChanged s lay).part p = { Part.reset with svcNext := s.clk + 1024 } :=
  mget_map_range Part.reset (fun _ => { Part.reset with svcNext := s.clk + 1024 }) h

theorem layoutChanged_port (s : State) (lay : Layout) (k : Nat) : mget 0 (layoutChanged s lay).ports k = mget 0 s.ports k &&& 0x000000FFFFFF0000 := by
  show mget 0 (s.ports.map fun x => (x.1, x.2 &&& 0x000000FFFFFF0000)) k = _
  rw [mget, mfind_map _ _ (fun v : Word => v &&& 0x000000FFFFFF0000) fun _ => rfl, mget]
  cases mfind s.ports k with
  | none => rfl
  | some v => rfl

theorem mfind_coreCleared (cs : SMap Core) {c : Nat} (hc : c < 6144) :
    mfind (cs.map coreCleared) c = (mfind cs c).map fun k => (coreCleared (c, k)).2 := by
  induction cs with
  | nil => rfl
  | cons x cs ih =>
    have hk : (coreCleared x).1 = x.1 := by unfold coreCleared; dsimp only; split <;> rfl
    obtain ⟨j, k⟩ := x
    rw [List.map_cons, show coreCleared (j, k) = (j, (coreCleared (j, k)).2) from Prod.ext hk rfl, mfind, mfind]
    by_cases hj : j = c
    · rw [if_pos hj, if_pos hj, hj]; rfl
    · rw [if_neg hj, if_neg hj, ih]

theorem layoutChanged_core (s : State) (lay : Layout) {c : Nat} (hc : c < 6144) :
    ((layoutChanged s lay).core c).occ = none ∧ ((layoutChanged s lay).core c).r.g = [] := by
  have hcore : (layoutChanged s lay).core c = mget Core.idle (s.cores.map coreCleared) c := rfl
  rw [hcore, mget, mfind_coreCleared _ hc]
  cases mfind s.cores c with
  | none => exact ⟨rfl, rfl⟩
  | some k =>
    rw [Option.map_some, Option.getD_some, coreCleared, if_pos hc]
    exact ⟨rfl, rfl⟩

theorem layoutChange_spec (s : State) (lay : Layout) : Spec.Event (.partitionLayoutChange lay) s (s.powered && decide (fld s.boot 3 0 = 7)) (fun t =>
    (layoutBusy s = true → t = { s with busy := true }) ∧
    (layoutBusy s = false → t.layout = lay ∧ t.busy = false ∧ t.folds = [] ∧ t.slots = [] ∧ t.ringStart = s.clk ∧
      (∀ k, mget 0 t.ports k = mget 0 s.ports k &&& 0x000000FFFFFF0000) ∧
      t.mem = s.mem ∧ t.nv = s.nv ∧ (∀ p, p < nparts lay → t.part p = { Part.reset with svcNext := s.clk + 1024 }) ∧
      ∀ c, c < 6144 → (t.core c).occ = none ∧ (t.core c).r.g = [])) := by
  refine event_spec (exec_layoutChange s lay) fun _ => ⟨fun hb => if_pos hb, fun hb => ?_⟩
  rw [hb, if_neg Bool.false_ne_true]
  exact ⟨rfl, rfl, rfl, rfl, rfl, layoutChanged_port s lay, rfl, rfl, fun p hp => layoutChanged_part s lay hp, fun c hc => layoutChanged_core s lay hc⟩

end Sys2Proof.Machine

namespace Sys2Proof
open Machine

/-- What each step of start-up enters. -/
theorem bootStep_spec (s : State) {st ms : Nat} {later : List (Nat × Nat)} (hplan : s.bootPlan = (st, ms) :: later) (hp : s.powered = true)
    (hc : ms * clkMs ≤ s.clk) :
    (st = 1 → fld (bootStep s).boot 3 0 = 1 ∧ (bootStep s).bootPlan = later) ∧
    (st = 2 → fld (bootStep s).boot 3 0 = if Config.verified s.nv.firmware then 2 else 15) ∧
    (st = 3 ∨ st = 4 → fld (bootStep s).boot 3 0 = st ∧ (bootStep s).bootPlan = later ∧
      (classOf s.retrain (st - 3) ≠ [] → fld (bootStep s).boot (1 + st) (1 + st) = 1)) ∧
    (st = 5 → fld (bootStep s).boot 3 0 = if imageSourceOk s.nv.image then 5 else 15) ∧
    (st = 6 → (∀ bs, imageBytes s = some bs → Config.verified bs = true →
        fld (bootStep s).boot 3 0 = 6 ∧ (bootStep s).image = bs ∧ (bootStep s).bootPlan = [(7, ms + 800)]) ∧
      (imageBytes s = none → fld (bootStep s).boot 3 0 = 15)) ∧
    (st = 7 → fld (bootStep s).boot 3 0 = 7 ∧ (bootStep s).ringStart = s.clk ∧ (bootStep s).slots = []) ∧
    (st ≤ 7 → fld (bootStep s).boot 63 32 = ms % 2 ^ 32) ∧ (bootStep s).cores = s.cores ∧ (bootStep s).mem = s.mem := by
  rw [bootStep_due hplan hp hc]
  obtain ⟨u, st', later', hcores, hmem, hlt, he⟩ := bootNext_enters s st ms later
  obtain ⟨-, hec, hem, -⟩ := enter_frame u st' ms later'
  refine ⟨?_, ?_, ?_, ?_, ?_, ?_, fun h => ?_, by rw [he, hec, hcores], by rw [he, hem, hmem]⟩
  · rintro rfl
    exact ⟨enter_state s ms later (by decide), (enter_frame s 1 ms later).1⟩
  · rintro rfl
    rw [bootNext]
    split
    · exact enter_state s ms later (by decide)
    · exact enter_state s ms [] (by decide)
  · rintro (rfl | rfl)
    · exact ⟨enter_state _ ms later (by decide), (enter_frame _ 3 ms later).1,
        fun h => (enter_retr (c := 0) _ ms later (by decide) (by decide)).trans (trained_retr (by decide) h)⟩
    · exact ⟨enter_state _ ms later (by decide), (enter_frame _ 4 ms later).1,
        fun h => (enter_retr (c := 1) _ ms later (by decide) (by decide)).trans (trained_retr (by decide) h)⟩
  · rintro rfl
    obtain ⟨-, -, hi⟩ := trained_frame s 2
    obtain ⟨v, later'', -, -, hv⟩ := imageStart_cases (trained s 2) ms
    rw [bootNext, hv, hi]
    exact enter_state v ms later'' (by split <;> decide)
  · rintro rfl
    obtain ⟨v, -, -, hv⟩ := imageRead_cases s ms
    rw [bootNext, hv]
    refine ⟨fun bs hb hver => ?_, fun hb => ?_⟩
    · rw [hb, Option.filter_some, if_pos hver]
      obtain ⟨hplan', -, -, himg⟩ := enter_frame (v.withImage bs) 6 ms [(7, ms + 800)]
      exact ⟨enter_state _ ms _ (by decide), himg, hplan'⟩
    · rw [hb]
      exact enter_state _ ms _ (by decide)
  · rintro rfl
    exact ⟨enter_state s ms later (by decide), rfl, rfl⟩
  · rw [he]
    exact enter_ms u ms later' (hlt (by omega))

/-- Settles O54: each event's condition and effect, and start-up as one state entered at each step. -/
theorem startUpAndLayout : Obligations.StartUpAndLayout := by
  intro s temp d0 d1 d2 n lay
  exact ⟨powerLoss_spec s, powerGood_spec s temp, fun st ms later hplan hp hc => bootStep_spec s hplan hp hc,
    fun st ms later hplan hc => bootStep_waits hplan hc,
    event_spec (exec_imageSourceWrite d0 d1 d2 s) fun _ => ⟨rfl, rfl, rfl, rfl, rfl, rfl, rfl⟩,
    event_spec (exec_imglenWrite n s) fun _ => ⟨rfl, rfl, rfl, rfl, rfl, rfl, rfl, rfl, rfl, rfl⟩, attestation_spec s d0, layoutChange_spec s lay⟩

end Sys2Proof

end

section
/-! PROOFS. Negotiation, queue control and record reads (O56). -/

namespace Sys2Proof.Machine

/-! ## Feature negotiation (R32, R33) -/

section
variable (s : State) (p i : Nat) (v : Word)

theorem updPart_part (f : Part → Part) : (s.updPart p f).part p = f (s.part p) := State.part_setPart s p _

theorem faccWrite_spec : Spec.Event (.faccWrite p v) s (windowUp s p && fld v 63 63 == 0) (fun t =>
    ((s.part p).done = true → t = s) ∧
    ((s.part p).done = false → t = s.updPart p fun q => { q with facc := faccValue s.nv.feat v })) :=
  event_spec (exec_faccWrite p v s) fun _ => ⟨fun h => if_pos h, fun h => if_neg (by rw [h]; decide)⟩

/-- Bringing ports up changes ports alone. -/
theorem bringPorts_frame (facc : Word) : (bringPorts s p facc).nv = s.nv ∧ (bringPorts s p facc).parts = s.parts ∧
    (bringPorts s p facc).mem = s.mem ∧ (bringPorts s p facc).cores = s.cores := by
  unfold bringPorts
  dsimp only
  by_cases h : fld facc 19 16 = 0
  · rw [if_pos h]; exact ⟨rfl, rfl, rfl, rfl⟩
  · rw [if_neg h]; exact ⟨rfl, rfl, rfl, rfl⟩

theorem negotiationDone_spec : Spec.Event (.negotiationDone p v) s (windowUp s p && fld v 63 63 == 1) (fun t =>
    ((s.part p).done = true → t = s) ∧
    ((s.part p).done = false → t.nv = { s.nv with trainBit := fld (faccValue s.nv.feat v) 5 5 == 1 } ∧
      (t.part p).facc = faccValue s.nv.feat v ||| 0x8000000000000000 ∧ t.mem = s.mem ∧ t.cores = s.cores ∧
      (t.part p).queues = (s.part p).queues.map (fun y => (y.1, y.2.start true)))) := by
  refine event_spec (exec_negotiationDone p v s) fun _ => ⟨fun h => if_pos h, fun h => ?_⟩
  rw [h, if_neg Bool.false_ne_true]
  generalize hu : State.updPart _ p _ = u
  obtain ⟨hnv, hparts, hmem, hcores⟩ := bringPorts_frame u p (faccValue s.nv.feat v)
  have hpart : (bringPorts u p (faccValue s.nv.feat v)).part p = u.part p := by rw [State.part, State.part, hparts]
  rw [hpart, hnv, hmem, hcores, ← hu, updPart_part]
  exact ⟨rfl, rfl, rfl, rfl, rfl⟩

/-! ## Queue control (R64, R66) -/

theorem queueWrite_eq (f : Part → Queue → Queue) : queueWrite s p i f = event s (windowUp s p && decide (i < share s 64))
    (s.updPart p fun q => q.setQueue i ((f (s.part p) ((s.part p).queue i)).start (s.part p).done)) := rfl

theorem queueDisable_state (x : Queue) : (match x.st with
    | .disabled => x
    | .halted => { x with en := false }
    | _ => { x with en := false, st := .disabled }) =
    if x.st = .disabled then x else if x.st = .halted then { x with en := false } else { x with en := false, st := .disabled } := by
  cases x.st <;> rfl

theorem queueDisable_spec : Spec.Event (.queueDisable p i) s (windowUp s p && decide (i < share s 64)) (fun t =>
    t = s.updPart p fun q => q.setQueue i (Queue.start (if ((s.part p).queue i).st = .disabled then (s.part p).queue i else
      if ((s.part p).queue i).st = .halted then { (s.part p).queue i with en := false }
      else { (s.part p).queue i with en := false, st := .disabled }) q.done)) := by
  refine event_spec (exec_queueDisable p i s) fun _ => ?_
  rw [← queueDisable_state]
  rfl

/-! ## Reads of a record (R65, R66) -/

/-- The turn goes to a queue whose read may be made, once negotiation is done. -/
theorem queueTurn_reads {j : Nat} (h : queueTurn s p = some j) : (s.part p).done = true ∧ ∃ y, (j, y) ∈ (s.part p).queues ∧
    ((decide (y.st = .fetch) || decide (y.st = .retry ∧ y.waitEnd ≤ s.clk)) && !readWaits s p j) = true := by
  unfold queueTurn at h
  dsimp only at h
  cases hd : (s.part p).done with
  | false => rw [hd] at h; cases h
  | true =>
    rw [hd, Bool.not_true, if_neg Bool.false_ne_true] at h
    refine ⟨rfl, ?_⟩
    have hmem : j ∈ ((s.part p).queues.filter fun x =>
        (decide (x.2.st = .fetch) || decide (x.2.st = .retry ∧ x.2.waitEnd ≤ s.clk)) && !readWaits s p x.1).map (·.1) := by
      cases hf : (((s.part p).queues.filter fun x =>
          (decide (x.2.st = .fetch) || decide (x.2.st = .retry ∧ x.2.waitEnd ≤ s.clk)) && !readWaits s p x.1).map (·.1)).find?
            fun i => decide ((s.part p).qturn ≤ i) with
      | some k =>
        rw [hf] at h
        cases h
        exact List.mem_of_find?_eq_some hf
      | none =>
        rw [hf] at h
        exact List.mem_of_mem_head? h
    obtain ⟨⟨k, y⟩, hy, hk⟩ := List.mem_map.mp hmem
    obtain ⟨hin, hp⟩ := List.mem_filter.mp hy
    cases hk
    exact ⟨y, hin, hp⟩

/-- A record that is complete is decided on. -/
theorem finishRead_sealed {miss : Queue → Queue} {w : List Word} (hr : readRecord s p i = some w) (hw : sealed ((s.part p).queue i) w = true) :
    finishRead s p i miss = decideRecord s p i w := by
  rw [finishRead, hr]
  exact if_pos hw

theorem finishRead_missed {miss : Queue → Queue} {w : List Word} (hr : readRecord s p i = some w) (hw : sealed ((s.part p).queue i) w = false) :
    finishRead s p i miss = s.updPart p fun q => q.setQueue i ((miss ((s.part p).queue i)).start q.done) := by
  rw [finishRead, hr]
  dsimp only
  rw [hw, if_neg Bool.false_ne_true]
  rfl

theorem finishRead_none {miss : Queue → Queue} (hr : readRecord s p i = none) : finishRead s p i miss = haltQueue s p i 7 := by
  rw [finishRead, hr]

theorem queue_setQueue (q : Part) (x : Queue) : (q.setQueue i x).queue i = x := mget_mput_same _ _ _ _

/-- A queue that is blocked keeps its record. -/
theorem served_blocked (x : Queue) : ((served p i (s.setPart p ((s.part p).setQueue i x))).part p).queue i = x := by
  rw [served, updPart_part, State.part_setPart]
  exact queue_setQueue i (s.part p) x

end

section
variable {s : State} {p i : Nat} {w : List Word}

theorem decideRecord_refused {e : Nat} (h : recordCode s p (readTables s p w) = some e) : decideRecord s p i w = haltQueue s p i e := by
  rw [decideRecord]
  rw [h]

theorem decideRecord_noBlock (h : recordCode s p (readTables s p w) = none) (hb : nextBlock s (s.part p) = none) :
    decideRecord s p i w = s.setPart p ((s.part p).setQueue i { (s.part p).queue i with st := .blocked }) := by
  rw [decideRecord]
  dsimp only
  rw [h]
  dsimp only
  rw [hb]

theorem decideRecord_homeHeld {b : Nat} (h : recordCode s p (readTables s p w) = none) (hb : nextBlock s (s.part p) = some b)
    (hh : homeHeld (s.part p) ((s.part p).queue i).recordAddr = true) :
    decideRecord s p i w = s.setPart p ((s.part p).setQueue i { (s.part p).queue i with st := .blocked }) := by
  rw [decideRecord]
  dsimp only
  rw [h]
  dsimp only
  rw [hb]
  dsimp only
  rw [hh, if_pos rfl]

theorem decideRecord_accepted {b : Nat} (h : recordCode s p (readTables s p w) = none) (hb : nextBlock s (s.part p) = some b)
    (hh : homeHeld (s.part p) ((s.part p).queue i).recordAddr = false)
    (hk : fld (s.part p).facc 0 0 = 0 → (ringKey s p ((s.part p).queue i).recordAddr 128).isSome = true) :
    decideRecord s p i w = acceptRecord s p i b (readTables s p w) := by
  rw [decideRecord]
  rw [h]
  dsimp only
  rw [hb]
  dsimp only
  rw [hh, if_neg Bool.false_ne_true, if_neg]
  rintro ⟨h0, hn⟩
  rw [Option.isNone_iff_eq_none] at hn
  have := hk h0
  rw [hn] at this
  cases this

end
end Sys2Proof.Machine

namespace Sys2Proof
open Machine

/-- Settles O56: negotiation, queue control, and a read's outcomes by the front end's decision. -/
theorem queuesAndNegotiation : Obligations.QueuesAndNegotiation := by
  intro s p i v q x up put turn reads
  refine ⟨fun j h => queueTurn_reads s p h, faccWrite_spec s p v, negotiationDone_spec s p v, event_spec (exec_functionReset p s) fun _ => rfl,
    event_spec (exec_queueEnable p i s) fun _ => rfl, queueDisable_spec s p i, event_spec (exec_queueReset p i s) fun _ => rfl,
    event_spec (exec_qkick p i s) fun _ => rfl, event_spec (exec_recordRead p i s) fun _ => ?_, event_spec (exec_retryWaitEnd p i s) fun _ => ?_,
    event_spec (exec_blockedReread p i s) fun _ => rfl⟩
  · refine ⟨fun hr => by rw [finishRead_none s p i hr]; rfl, fun w hr hw => by rw [finishRead_missed s p i hr hw]; rfl, fun w hr hw => ?_⟩
    rw [finishRead_sealed s p i hr hw]
    refine ⟨fun e he => by rw [decideRecord_refused he]; rfl, fun hc hb => ?_, fun b hc hb hh => ?_, fun b hc hb hh hk => ?_⟩
    · rw [decideRecord_noBlock hc hb]
      exact served_blocked s p i _
    · rw [decideRecord_homeHeld hc hb hh]
      exact served_blocked s p i _
    · rw [decideRecord_accepted hc hb hh hk]
      rfl
  · refine ⟨fun hr => by rw [finishRead_none s p i hr]; rfl, fun w hr hw => by rw [finishRead_missed s p i hr hw]; rfl⟩

end Sys2Proof

end

section
/-! PROOFS. Host cancels, removal, placement, NOTE and the watchdog (O57). -/

namespace Sys2Proof.Machine

/-! ## Host cancels and removal (R69, R70) -/

section
variable (s : State) (p b c : Nat) (v : Word)

/-- HCANCEL's answer for a level. -/
def cancelAnswer (s : State) (p : Nat) (lv : Level) : Nat :=
  match lv with
  | .nothing => 4
  | .unit_ _ _ => 2
  | .launch b => if ((s.part p).blk .launch b).done then 3 else 2
  | .block k i j => if ((s.part p).blk k (if k = .job then j else i)).done then 3 else 2

theorem cancelLevel_answer (lv : Level) : (cancelLevel s p lv).1 = cancelAnswer s p lv := by
  cases lv with
  | nothing => rfl
  | unit_ b r => rfl
  | launch b => rw [cancelLevel, cancelAnswer]; split <;> rfl
  | block k i j =>
    rw [cancelLevel, cancelAnswer]
    by_cases hd : ((s.part p).blk k (if k = .job then j else i)).done = true
    · rw [if_pos hd, if_pos hd]
    · rw [if_neg hd, if_neg hd]

/-- A level that is complete, or is none, changes nothing. -/
theorem cancelLevel_idle {lv : Level} (h : cancelAnswer s p lv = 3 ∨ cancelAnswer s p lv = 4) : (cancelLevel s p lv).2 = s := by
  cases lv with
  | nothing => rfl
  | unit_ b r => exact absurd h (by rw [cancelAnswer]; decide)
  | launch b =>
    rw [cancelAnswer] at h
    rw [cancelLevel]
    split
    · rfl
    · next hd => rw [if_neg hd] at h; exact absurd h (by decide)
  | block k i j =>
    rw [cancelAnswer] at h
    rw [cancelLevel]
    by_cases hd : ((s.part p).blk k (if k = .job then j else i)).done = true
    · rw [if_pos hd]
    · rw [if_neg hd] at h
      exact absurd h (by decide)

theorem hcancel_spec : Spec.Event (.hcancel p v) s (windowUp s p) (fun t =>
    ((s.part p).hcres = 1 → t = s) ∧
    ((s.part p).hcres ≠ 1 → ∀ r, r = cancelAnswer s p (levelOf s p none v) →
      ((r = 3 ∨ r = 4) → t = s.updPart p fun q => { q with hcres := r }) ∧ (t.part p).hcres = r)) := by
  refine event_spec (exec_hcancel p v s) fun _ => ⟨fun h => if_pos h, fun h r hr => ?_⟩
  rw [if_neg h, updPart_part, cancelLevel_answer, ← hr]
  refine ⟨fun hidle => ?_, rfl⟩
  rw [cancelLevel_idle s p (by rwa [← hr])]

theorem hjobrm_spec : Spec.Event (.hjobrm p v) s (windowUp s p) (fun t =>
    ((s.part p).hjres = 1 → t = s) ∧
    ((s.part p).hjres ≠ 1 → share s 4096 ≤ fld v 11 0 → t = s.updPart p fun q => { q with hjres := 3 })) := by
  refine event_spec (exec_hjobrm p v s) fun _ => ⟨fun h => if_pos h, fun h hj => ?_⟩
  rw [if_neg h, if_pos hj]

theorem completes_hjobrm (hup : windowUp s p = true) (h : (s.part p).hjres ≠ 1) (hj : fld v 11 0 < share s 4096) :
    Completes (.hjobrm p v) s (cancelAbove (s.updPart p fun q =>
      { q with hjres := 1, hjob := fld v 11 0, jobs := mupd Job.reset q.jobs (fld v 11 0) fun x => { x with weight := 0 } }) p .job (fld v 11 0) 2) := by
  refine completes_of_event ?_ hup
  rw [exec_hjobrm, execHjobrm]
  dsimp only
  rw [if_neg h, if_neg (Nat.not_le.mpr hj)]

theorem jobRemovalComplete_spec : Spec.Event (.jobRemovalComplete p) s (decide ((s.part p).hjres = 1) &&
      (s.part p).launches.all (fun x => x.2.job != (s.part p).hjob || ((s.part p).blk .launch x.1).done) && (jobCores s p (s.part p).hjob).isEmpty)
    (fun t => (t.part p).hjres = 2 ∧ (t.part p).jobs = mdel (s.part p).jobs (s.part p).hjob ∧ t.cores = s.cores ∧ t.mem = s.mem) := by
  refine event_spec (exec_jobRemovalComplete p s) fun _ => ?_
  rw [State.part_setPart]
  exact ⟨rfl, rfl, rfl, rfl⟩

/-! ## Page tables and service counts (R61, R71) -/

/-- A table whose entries a function changes, each under its own key. -/
theorem mfind_mapKey {α β : Type} {f : Nat × α → Nat × β} (hf : ∀ x, (f x).1 = x.1) (m : SMap α) (k : Nat) :
    mfind (m.map f) k = (mfind m k).map fun v => (f (k, v)).2 := by
  induction m with
  | nil => rfl
  | cons x m ih =>
    obtain ⟨i, v⟩ := x
    rw [List.map_cons, show f (i, v) = (i, (f (i, v)).2) from Prod.ext (hf _) rfl, mfind, mfind]
    by_cases hi : i = k
    · rw [if_pos hi, if_pos hi, hi, Option.map_some]
    · rw [if_neg hi, if_neg hi, ih]

/-- A core of the table after a new root. -/
def rootDropped (s : State) (p j : Nat) (x : Nat × Core) : Nat × Core :=
  if partOfFold s (foldOf x.1) = p then (x.1, { x.2 with tlb := x.2.tlb.filter (·.job != j) }) else x

theorem newRoot_core (j root k : Nat) (hk : partOfFold s (foldOf k) = p) :
    ((newRoot s p j root).core k).tlb = (s.core k).tlb.filter (·.job != j) := by
  have hcore : (newRoot s p j root).core k = mget Core.idle (s.cores.map (rootDropped s p j)) k := rfl
  rw [hcore, mget, mfind_mapKey (fun x => by unfold rootDropped; split <;> rfl), State.core, mget]
  cases mfind s.cores k with
  | none => rfl
  | some v => rw [Option.map_some, Option.getD_some, Option.getD_some, rootDropped, if_pos hk]

theorem newRoot_job (j root : Nat) : mget Job.reset ((newRoot s p j root).part p).jobs j =
    { mget Job.reset (s.part p).jobs j with ptroot := root, heldRoot := none } := by
  rw [newRoot, updPart_part]
  exact mget_mput_same _ _ _ _

theorem ptrootApply_spec {r : Nat} (hr : (mget Job.reset (s.part p).jobs b).heldRoot = some r) :
    Spec.Event (.ptrootApply p b) s (!((s.part p).launches.any fun x => x.2.job == b && decide (x.2.stage = .placed))) (fun t =>
      ((mget Job.reset (t.part p).jobs b).ptroot = r ∧ (mget Job.reset (t.part p).jobs b).heldRoot = none) ∧
      (∀ k, partOfFold s (foldOf k) = p → (t.core k).tlb = (s.core k).tlb.filter (·.job != b)) ∧ t.mem = s.mem) := by
  refine event_spec (t := newRoot s p b r) ?_ fun _ => ?_
  · rw [exec_ptrootApply, execPtrootApply, hr]
  · rw [newRoot_job]
    exact ⟨⟨rfl, rfl⟩, fun k hk => newRoot_core s p b r k hk, rfl⟩

theorem ptrootApply_idle (h : (mget Job.reset (s.part p).jobs b).heldRoot = none) : exec (.ptrootApply p b) s = .next { s with issue := .held } := by
  rw [exec_ptrootApply, execPtrootApply, h, event_waits]

/-- A job with its served time raised. -/
def svcRaised (s : State) (p : Nat) (x : Nat × Job) : Nat × Job :=
  let h := (jobFolds s p x.1).length
  let d := if x.2.weight = 0 then (if h = 0 then 0 else Config.svcRise h) else h * 65536 / x.2.weight
  (x.1, { x.2 with svc := min (2 ^ 48 - 1) (x.2.svc + d) })

theorem exec_svcTick_eq : exec (.svcTick p) s = event s (decide ((s.part p).svcNext ≤ s.clk)) (s.setPart p { touchSvc (s.part p) with
    jobs := (touchSvc (s.part p)).jobs.map (svcRaised s p), svcNext := (s.part p).svcNext + 1024 }) := rfl

theorem svcTick_spec : Spec.Event (.svcTick p) s (decide ((s.part p).svcNext ≤ s.clk)) (fun t =>
    (t.part p).svcNext = (s.part p).svcNext + 1024 ∧ t.cores = s.cores ∧ t.mem = s.mem ∧
    ∀ j y, mfind (touchSvc (s.part p)).jobs j = some y → y.weight ≠ 0 → ∃ z, mfind (t.part p).jobs j = some z ∧
      z = { y with svc := min (2 ^ 48 - 1) (y.svc + (jobFolds s p j).length * 65536 / y.weight) }) := by
  refine event_spec (exec_svcTick_eq s p) fun _ => ?_
  rw [State.part_setPart]
  refine ⟨rfl, rfl, rfl, fun j y hy hw => ⟨(svcRaised s p (j, y)).2, ?_, ?_⟩⟩
  · dsimp only
    rw [mfind_mapKey (f := svcRaised s p) (fun _ => rfl), hy, Option.map_some]
  · unfold svcRaised
    dsimp only
    rw [if_neg hw]

/-! ## Placement, NOTE and the watchdog (R55, R74 to R81) -/

theorem unitPlace_busy (h : coreFree s c = false) : exec (.unitPlace c) s = .next { s with issue := .held } := by
  rw [exec_unitPlace]
  unfold execUnitPlace
  rw [h, if_neg Bool.false_ne_true, event_waits]

theorem completes_unitPlace {x : Nat × Source} {l : Launch} (hf : coreFree s c = true) (hx : nextUnit s c = some x)
    (hl : s.launch (partOfFold s (foldOf c)) x.1 = some l) :
    Completes (.unitPlace c) s (takeUnit ((takeFrom s c x.1 x.2).1.updPart (partOfFold s (foldOf c)) touchSvc) (partOfFold s (foldOf c)) x.1 c
      (takeFrom s c x.1 x.2).2 l) := by
  obtain ⟨b, src⟩ := x
  have hex : exec (.unitPlace c) s = event s true (takeUnit ((takeFrom s c b src).1.updPart (partOfFold s (foldOf c)) touchSvc)
      (partOfFold s (foldOf c)) b c (takeFrom s c b src).2 l) := by
    rw [exec_unitPlace]
    unfold execUnitPlace
    rw [hf, if_pos rfl, hx]
    dsimp only at hl ⊢
    rw [hl]
  exact completes_of_event hex rfl

theorem gangPlace_spec {l : Launch} (hl : s.launch p b = some l) : Spec.Event (.gangPlace p b) s (gangDue s p b l)
    (fun t => t = if routesDown s p l then cancelForLink s p b else placeGang s p b l) :=
  event_spec (t := if routesDown s p l then cancelForLink s p b else placeGang s p b l) (by rw [exec_gangPlace, execGangPlace, hl]) fun _ => rfl

theorem exec_noteWrite_some {l : Launch} (hl : s.launch p b = some l) : exec (.noteWrite p b) s =
    event s (decide (l.stage = .done ∧ l.note ≠ 0) && launchQuiet s p b l) (writeNote s p b l) := by
  rw [exec_noteWrite]
  unfold execNoteWrite
  rw [hl]

theorem writeNote_ok {l : Launch} {k : Nat} (h : notePlace s p l = .ok k) : writeNote s p b l =
    (s.setBytes k (leBytes 8 (((s.part p).blk .launch b).status * 2 ^ 56 + l.nval.toNat))).updPart p fun q =>
      { q with launches := mput q.launches b { l with stage := .noted } } := by
  unfold writeNote
  rw [h]

theorem writeNote_cores (l : Launch) : (writeNote s p b l).cores = s.cores := by
  cases h : notePlace s p l with
  | ok k =>
    rw [writeNote_ok s p b h, State.updPart_cores]
    generalize leBytes 8 (((s.part p).blk .launch b).status * 2 ^ 56 + l.nval.toNat) = bs
    exact (State.setBytes_frame bs s k).1
  | error e =>
    unfold writeNote
    rw [h]
    rfl

/-- A failed NOTE leaves the cores alone too. -/
theorem noteWrite_spec {l : Launch} (hl : s.launch p b = some l) :
    Spec.Event (.noteWrite p b) s (decide (l.stage = .done ∧ l.note ≠ 0) && launchQuiet s p b l) (fun t =>
      (∀ k, notePlace s p l = .ok k → (t.part p).launches = mput (s.part p).launches b { l with stage := .noted } ∧
        t.mem = (s.setBytes k (leBytes 8 (((s.part p).blk .launch b).status * 2 ^ 56 + l.nval.toNat))).mem) ∧ t.cores = s.cores) := by
  refine event_spec (exec_noteWrite_some s p b hl) fun _ => ⟨fun k hk => ?_, writeNote_cores s p b l⟩
  rw [writeNote_ok s p b hk]
  generalize leBytes 8 (((s.part p).blk .launch b).status * 2 ^ 56 + l.nval.toNat) = bs
  obtain ⟨-, -, hp, -⟩ := State.setBytes_frame bs s k
  rw [updPart_part, State.part, hp]
  exact ⟨rfl, rfl⟩

theorem watchdogFire_idle (h : watchdogDue s c = none) : exec (.watchdogFire c) s = .next { s with issue := .held } := by
  rw [exec_watchdogFire, execWatchdogFire, h, event_waits]

/-- The record that a watchdog writes. -/
def watchdogErr (s : State) (p b : Nat) (l : Launch) : ErrRec :=
  let k := (firing s p b l).getD 0
  let d := launchCore s p l k
  let r := ((watchdogDue s d).map (·.2)).getD 0
  let pc := if (s.core d).occ.isSome then (s.core d).r.pc.toNat else fld ((agentRead s p l.job r).getD 0) 47 3 * 8
  { core := k, status := 3, cause := cWATCHDOG, epc := pc, einfo := 0, unit_ := r }

theorem exec_watchdogFire_due {y : Nat × Nat} {l : Launch} (hy : watchdogDue s c = some y) (hl : s.launch (partOfFold s (foldOf c)) y.1 = some l) :
    exec (.watchdogFire c) s = event s (s.hadTurn c) (cancelLaunch
      (writeErr s (partOfFold s (foldOf c)) y.1 (watchdogErr s (partOfFold s (foldOf c)) y.1 l)) (partOfFold s (foldOf c)) y.1 3) := by
  obtain ⟨b, r⟩ := y
  rw [exec_watchdogFire, execWatchdogFire, hy]
  dsimp only at hl ⊢
  rw [hl]
  rfl

end
end Sys2Proof.Machine

namespace Sys2Proof
open Machine

/-- Settles O57: each event's condition and effect, HCANCEL's answer by the level that it names. -/
theorem schedulerEvents : Obligations.SchedulerEvents := by
  intro s p b c v q
  refine ⟨?_, hjobrm_spec s p v, fun hup h hj => completes_hjobrm s p v hup h hj, jobRemovalComplete_spec s p,
    fun r hr => ptrootApply_spec s p b hr, ptrootApply_idle s p b, svcTick_spec s p, unitPlace_busy s c,
    fun x l hf hx hl => completes_unitPlace s c hf hx hl, fun l hl => ⟨gangPlace_spec s p b hl, noteWrite_spec s p b hl⟩, watchdogFire_idle s c,
    fun y l hy hl => ⟨fun ht => ?_, watchdogErr s (partOfFold s (foldOf c)) y.1 l, rfl, rfl, rfl, fun ht => ?_⟩⟩
  · obtain ⟨hdue, hwait⟩ := hcancel_spec s p v
    refine ⟨fun h => ?_, hwait⟩
    obtain ⟨t, ht, hbusy, hanswer⟩ := hdue h
    refine ⟨t, ht, hbusy, fun hq r hr => hanswer hq r ?_⟩
    cases hlv : levelOf s p none v <;> rw [hlv] at hr <;> exact hr
  · rw [exec_watchdogFire_due s c hy hl, ht, event_waits]
  · exact completes_of_event (exec_watchdogFire_due s c hy hl) ht

end Sys2Proof

end

section
/-! PROOFS. Checkpoints, links and escapes (O60). -/

namespace Sys2Proof.Machine

/-! ## Stopping and restoring a job (R414, R415) -/

/-- Bytes written one by one leave everything but memory and the marks of errors. -/
theorem setBytes_list_frame {α : Type} (key : α → Nat) (val : α → Byte) (xs : List α) (s : State) :
    (xs.foldl (fun t x => t.setByte (key x) (val x)) s).cores = s.cores := by
  induction xs generalizing s with
  | nil => rfl
  | cons x xs ih => exact ih (s.setByte (key x) (val x))

theorem setBytes_list_other {α : Type} (key : α → Nat) (val : α → Byte) (xs : List α) (s : State) (k : Nat) (h : ∀ x ∈ xs, key x ≠ k) :
    (xs.foldl (fun t x => t.setByte (key x) (val x)) s).byte k = s.byte k := by
  induction xs generalizing s with
  | nil => rfl
  | cons x xs ih =>
    rw [List.foldl_cons, ih _ fun y hy => h y (List.mem_cons_of_mem _ hy), State.byte_setByte_other _ _ _ _ fun he => h x List.mem_cons_self he.symm]

section
variable (s : State) (p : Nat) (v : Word)

/-- A place outside the area keeps its byte when the area is emptied. -/
theorem clearArea_byte (list : Nat) {k : Nat} (h : areaOffset s p list k = none) : (clearArea s p list).byte k = s.byte k := by
  rw [State.byte, State.byte, mget, mget]
  refine congrArg (fun o => Option.getD o (unlisted k)) ?_
  exact (mfind_filter (fun a => (areaOffset s p list a).isNone) s.mem k).trans (if_pos (by rw [h]; rfl))

theorem areaOffset_outside {list k : Nat} (h : ∀ a, areaBase list ≤ a → outerKey s p a ≠ k) : areaOffset s p list k = none := by
  unfold areaOffset
  cases outerAddr s p k with
  | none => rfl
  | some a =>
    rw [Option.bind_some, if_neg]
    rintro ⟨hlo, -, hk⟩
    exact h a hlo hk

theorem writeArea_cores (list : Nat) (im : SMap Byte) (ws : List Word) : (writeArea s p list im ws).cores = s.cores := by
  unfold writeArea
  exact (setBytes_list_frame (fun x : Byte × Nat => outerKey s p (areaBase list + schedAt + x.2)) (fun x => x.1) _ _).trans
    (setBytes_list_frame (fun x : Nat × Byte => outerKey s p (areaBase list + x.1)) (fun x => ~~~x.2) _ _)

theorem writeArea_byte (list : Nat) (im : SMap Byte) (ws : List Word) {k : Nat} (h : ∀ a, areaBase list ≤ a → outerKey s p a ≠ k) :
    (writeArea s p list im ws).byte k = s.byte k := by
  unfold writeArea
  refine (setBytes_list_other (fun x : Byte × Nat => outerKey s p (areaBase list + schedAt + x.2)) (fun x => x.1) _ _ k
    fun x _ => h _ (by omega)).trans ?_
  refine (setBytes_list_other (fun x : Nat × Byte => outerKey s p (areaBase list + x.1)) (fun x => ~~~x.2) _ _ k fun x _ => h _ (by omega)).trans ?_
  exact clearArea_byte s p list (areaOffset_outside s p h)

theorem phaseWritten_cores : (phaseWritten s p).cores = s.cores := by
  unfold phaseWritten
  exact (setBytes_list_frame (fun x : Nat × Nat => x.2) (fun x => s.byte x.1) _ _).trans (writeArea_cores s p _ _ _)

theorem phaseWritten_byte {k : Nat} (h : ∀ a, areaBase (s.part p).psList ≤ a → outerKey s p a ≠ k)
    (hl : ∀ x ∈ listedBytes s p (s.part p).psList, x.2 ≠ k) : (phaseWritten s p).byte k = s.byte k := by
  unfold phaseWritten
  exact (setBytes_list_other (fun x : Nat × Nat => x.2) (fun x => s.byte x.1) _ _ k hl).trans (writeArea_byte s p _ _ _ h)

theorem psAllowed_iff : psAllowed s p v = true ↔
    (s.part p).psBusy = false ∧ (mfind (s.part p).jobs (fld v 11 0)).isSome = true ∧ fld v 11 0 < share s 4096 := by
  rw [psAllowed, psWord]
  simp only [Bool.and_eq_true, Bool.not_eq_true', decide_eq_true_eq, and_assoc]

theorem phaseStop_spec : Spec.Event (.phaseStop p v) s (windowUp s p && fld v 12 12 == 0) (fun t =>
    (¬ ((s.part p).psBusy = false ∧ (mfind (s.part p).jobs (fld v 11 0)).isSome = true ∧ fld v 11 0 < share s 4096) →
      t = s.setPart p { s.part p with psres := 4 }) ∧
    ((s.part p).psBusy = false ∧ (mfind (s.part p).jobs (fld v 11 0)).isSome = true ∧ fld v 11 0 < share s 4096 →
      (t.part p).psres = 1 ∧ (t.part p).psBusy = true ∧ (mget Job.reset (t.part p).jobs (fld v 11 0)).stopped = true ∧
      (t.part p).queues = (s.part p).queues ∧ t.mem = s.mem ∧ t.cores = s.cores)) := by
  refine event_spec (exec_phaseStop p v s) fun _ => ⟨fun h => if_neg fun ha => h ((psAllowed_iff s p v).mp ha), fun h => ?_⟩
  rw [if_pos ((psAllowed_iff s p v).mpr h), State.part_setPart]
  refine ⟨rfl, rfl, ?_, rfl, rfl, rfl⟩
  exact congrArg Job.stopped (mget_mput_same Job.reset _ _ _)

theorem phaseStopWrite_spec : Spec.Event (.phaseStopWrite p) s ((s.part p).psBusy && !jobBusy s p (s.part p).psJob) (fun t => t.cores = s.cores ∧
    ((s.part p).psres ≠ 2 → t = s.updPart p fun q => { q with psres := 2 }) ∧
    ((s.part p).psres = 2 → (t.part p).psres = 3 ∧ (t.part p).psBusy = false ∧ t.mem = (phaseWritten s p).mem ∧
      ∀ key, (∀ a, areaBase (s.part p).psList ≤ a → outerKey s p a ≠ key) → (∀ x, x ∈ listedBytes s p (s.part p).psList → x.2 ≠ key) →
        t.byte key = s.byte key)) := by
  refine event_spec (exec_phaseStopWrite p s) fun _ => ?_
  by_cases h : (s.part p).psres = 2
  · rw [if_pos h]
    refine ⟨phaseWritten_cores s p, fun hn => absurd h hn, fun _ => ?_⟩
    rw [updPart_part]
    exact ⟨rfl, rfl, rfl, fun key hk hl => phaseWritten_byte s p hk hl⟩
  · rw [if_neg h]
    exact ⟨rfl, fun _ => rfl, fun h2 => absurd h2 h⟩

/-- The restored device, before the launches that are ready are released. -/
def restoredBytes (s : State) (p list : Nat) (x : SavedJob) : State :=
  (listedBytes s p list).foldl (fun t y => t.setByte y.1 (s.byte y.2)) (restoreSlots (restoreCommon s p (areaImage s p list)) p x.slots)

theorem exec_phaseRestore_eq : exec (.phaseRestore p v) s = event s (windowUp s p && fld v 12 12 == 1)
    (match if psAllowed s p v && !(s.part p).launches.any (fun x => decide (x.2.stage = .placed)) then areaJob s p (fld v 63 13 * 8192) else none with
     | some x =>
       if x.job = fld v 11 0 then
         releaseReady ((restoredBytes s p (fld v 63 13 * 8192) x).updPart p fun q =>
           { restoreJob (restoredBytes s p (fld v 63 13 * 8192) x) p q x with psres := 3 }) p
       else s.setPart p { s.part p with psres := 4 }
     | none => s.setPart p { s.part p with psres := 4 }) := rfl

theorem phaseRestore_spec {list job : Nat} (hlist : list = fld v 63 13 * 8192) (hjob : job = fld v 11 0) {allowed : Prop}
    (ha : allowed ↔ (s.part p).psBusy = false ∧ (mfind (s.part p).jobs job).isSome = true ∧ job < share s 4096) :
    Spec.Event (.phaseRestore p v) s (windowUp s p && fld v 12 12 == 1) (fun t =>
      ((¬ allowed ∨ (s.part p).launches.any (fun x => decide (x.2.stage = .placed)) = true ∨ ∀ x, areaJob s p list = some x → x.job ≠ job) →
        t = s.setPart p { s.part p with psres := 4 }) ∧
      (∀ x, allowed → (s.part p).launches.any (fun x => decide (x.2.stage = .placed)) = false → areaJob s p list = some x → x.job = job →
        t = releaseReady ((restoredBytes s p list x).updPart p fun q => { restoreJob (restoredBytes s p list x) p q x with psres := 3 }) p)) := by
  subst hlist hjob
  have hallow : psAllowed s p v = true ↔ allowed := (psAllowed_iff s p v).trans ha.symm
  refine event_spec (exec_phaseRestore_eq s p v) fun _ => ⟨fun h => ?_, fun x hal hpl hx hj => ?_⟩
  · cases hpl : (s.part p).launches.any fun x => decide (x.2.stage = .placed) with
    | true => rw [Bool.not_true, Bool.and_false, if_neg Bool.false_ne_true]
    | false =>
      cases hal : psAllowed s p v with
      | false => rw [Bool.false_and, if_neg Bool.false_ne_true]
      | true =>
        rw [Bool.not_false, Bool.and_true, if_pos rfl]
        cases hx : areaJob s p (fld v 63 13 * 8192) with
        | none => rfl
        | some x =>
          refine if_neg fun hj => ?_
          rw [hpl] at h
          rcases h with h | h | h
          · exact h (hallow.mp hal)
          · cases h
          · exact h x hx hj
  · rw [hpl, hallow.mpr hal, Bool.not_false, Bool.and_true, if_pos rfl, hx]
    exact if_pos hj

end

/-! ## Links (R399 to R402) -/

section
variable (s : State) (k good : Nat)

theorem setPort_frame (hi lo v : Nat) : (setPort s k hi lo v).replays = s.replays ∧ (setPort s k hi lo v).cores = s.cores ∧
    (setPort s k hi lo v).mem = s.mem ∧ (setPort s k hi lo v).parts = s.parts ∧ (setPort s k hi lo v).msix = s.msix := by
  unfold setPort
  split <;> exact ⟨rfl, rfl, rfl, rfl, rfl⟩

theorem setPort_port (hi lo v : Nat) (hk : k < 36) : mget 0 (setPort s k hi lo v).ports k = putFld (mget 0 s.ports k) hi lo v := by
  unfold setPort
  rw [if_pos hk]
  exact mget_mset_same _ _ _ _

theorem raiseFevt_frame (p bit : Nat) : (raiseFevt s p bit).replays = s.replays ∧ (raiseFevt s p bit).cores = s.cores ∧
    (raiseFevt s p bit).mem = s.mem ∧ (raiseFevt s p bit).ports = s.ports ∧ (raiseFevt s p bit).msix = s.msix ++ [(p, 1)] :=
  ⟨rfl, rfl, rfl, rfl, rfl⟩

theorem raiseFevt_bit (p : Nat) {bit : Nat} (h : bit < 64) : fld ((raiseFevt s p bit).part p).fevt bit bit = 1 := by
  have hp : ((raiseFevt s p bit).part p).fevt = putFld (s.part p).fevt bit bit 1 := congrArg Part.fevt (updPart_part s p fun q => { q with fevt := putFld q.fevt bit bit 1 })
  rw [hp]
  exact fld_putFld_same _ (Nat.le_refl _) h (by rw [Nat.sub_self]; decide)

theorem linkCrcError_spec (again : Bool) : Spec.Event (.linkCrcError ⟨k, again⟩) s (s.powered && linkUp s k && decide (mget 0 s.replays k < 8)) (fun t =>
    mget 0 t.replays k = (if again then mget 0 s.replays k + 1 else 1) ∧ t.cores = s.cores ∧ t.mem = s.mem ∧
    (k < 36 → mget 0 t.ports k = putFld (mget 0 s.ports k) 39 24 (min 65535 (fld (mget 0 s.ports k) 39 24 + 1)))) := by
  refine event_spec (exec_linkCrcError ⟨k, again⟩ s) fun _ => ?_
  obtain ⟨hr, hc, hm, -, -⟩ := setPort_frame s k 39 24 (min 65535 (fld (mget 0 s.ports k) 39 24 + 1))
  refine ⟨?_, hc, hm, fun hk => setPort_port s k _ _ _ hk⟩
  exact (mget_mset_same _ _ _ _).trans (by rw [hr])

/-- A retrained link's port before the outcome: RETRAIN counts, and the replays begin again. -/
def retrained (s : State) (k : Nat) : State :=
  setPort { s with replays := mset 0 s.replays k 0 } k 23 16 (min 255 (fld (mget 0 s.ports k) 23 16 + 1))

theorem retrained_facts : mget 0 (retrained s k).replays k = 0 ∧ (retrained s k).cores = s.cores ∧ (retrained s k).mem = s.mem ∧
    (retrained s k).parts = s.parts ∧ (retrained s k).msix = s.msix ∧
    (k < 36 → fld (mget 0 (retrained s k).ports k) 23 16 = min 255 (fld (mget 0 s.ports k) 23 16 + 1)) := by
  obtain ⟨hr, hc, hm, hp, hx⟩ := setPort_frame { s with replays := mset 0 s.replays k 0 } k 23 16 (min 255 (fld (mget 0 s.ports k) 23 16 + 1))
  refine ⟨?_, hc, hm, hp, hx, fun hk => ?_⟩
  · rw [retrained, hr]
    exact mget_mset_same 0 s.replays k 0
  · rw [retrained, setPort_port _ k _ _ _ hk]
    exact fld_putFld_same _ (by decide) (by decide) (by show _ < 256; omega)

/-- A link that goes down. -/
def wentDown (s : State) (k : Nat) : State :=
  { s with downLinks := mput s.downLinks k false, downSince := mput s.downSince k s.clk }

theorem wentDown_frame : (wentDown s k).replays = s.replays ∧ (wentDown s k).cores = s.cores ∧ (wentDown s k).mem = s.mem ∧
    (wentDown s k).ports = s.ports ∧ (wentDown s k).msix = s.msix := ⟨rfl, rfl, rfl, rfl, rfl⟩

/-- The outcome by the lanes that are good. -/
def retrainOutcome (s : State) (p k good : Nat) : State :=
  if 4 ≤ good then setPort s k 1 1 0
  else if 2 ≤ good then raiseFevt (setPort s k 1 1 1) p 0
  else raiseFevt (wentDown (setPort (setPort s k 1 1 0) k 0 0 0) k) p 1

theorem exec_linkRetrain_eq : exec (.linkRetrain k good) s = event s (linkUp s k && decide (8 ≤ mget 0 s.replays k))
    (retrainOutcome (retrained s k) (linkPart s k) k good) := rfl

/-- Two fields of a word that lie apart. -/
theorem fld_put_low (w : Word) (b : Nat) (hb : b < 16) (x : Nat) : fld (putFld w b b x) 23 16 = fld w 23 16 :=
  fld_putFld_other _ _ (Nat.le_refl _) (by omega) (by decide) (.inr (by omega))

theorem fld_put_bit (w : Word) {b x : Nat} (hb : b < 64) (hx : x < 2) : fld (putFld w b b x) b b = x :=
  fld_putFld_same _ (Nat.le_refl _) hb (by rw [Nat.sub_self]; exact hx)

theorem linkRetrain_spec : Spec.Event (.linkRetrain k good) s (linkUp s k && decide (8 ≤ mget 0 s.replays k)) (fun t =>
    mget 0 t.replays k = 0 ∧ t.cores = s.cores ∧ t.mem = s.mem ∧
    (k < 36 → fld (mget 0 t.ports k) 23 16 = min 255 (fld (mget 0 s.ports k) 23 16 + 1) ∧
      (4 ≤ good → fld (mget 0 t.ports k) 1 1 = 0) ∧ (good = 2 ∨ good = 3 → fld (mget 0 t.ports k) 1 1 = 1) ∧
      (good < 2 → fld (mget 0 t.ports k) 0 0 = 0 ∧ fld (mget 0 t.ports k) 1 1 = 0)) ∧
    (4 ≤ good → t.parts = s.parts ∧ t.msix = s.msix) ∧
    (good = 2 ∨ good = 3 → fld (t.part (linkPart s k)).fevt 0 0 = 1 ∧ t.msix = s.msix ++ [(linkPart s k, 1)]) ∧
    (good < 2 → t.down k = true ∧ fld (t.part (linkPart s k)).fevt 1 1 = 1 ∧ t.msix = s.msix ++ [(linkPart s k, 1)])) := by
  refine event_spec (exec_linkRetrain_eq s k good) fun _ => ?_
  obtain ⟨hr, hc, hm, hp, hx, hport⟩ := retrained_facts s k
  rw [retrainOutcome]
  by_cases h4 : 4 ≤ good
  · rw [if_pos h4]
    obtain ⟨hr1, hc1, hm1, hp1, hx1⟩ := setPort_frame (retrained s k) k 1 1 0
    refine ⟨by rw [hr1, hr], by rw [hc1, hc], by rw [hm1, hm], fun hk => ?_, fun _ => ⟨by rw [hp1, hp], by rw [hx1, hx]⟩,
      fun h => absurd h (by omega), fun h => absurd h (by omega)⟩
    rw [setPort_port _ k _ _ _ hk, fld_put_low _ 1 (by decide)]
    exact ⟨hport hk, fun _ => fld_put_bit _ (by decide) (by decide), fun h => absurd h (by omega), fun h => absurd h (by omega)⟩
  · by_cases h2 : 2 ≤ good
    · rw [if_neg h4, if_pos h2]
      obtain ⟨hr1, hc1, hm1, hp1, hx1⟩ := setPort_frame (retrained s k) k 1 1 1
      obtain ⟨hr2, hc2, hm2, hport2, hx2⟩ := raiseFevt_frame (setPort (retrained s k) k 1 1 1) (linkPart s k) 0
      refine ⟨by rw [hr2, hr1, hr], by rw [hc2, hc1, hc], by rw [hm2, hm1, hm], fun hk => ?_, fun h => absurd h h4,
        fun _ => ⟨raiseFevt_bit _ _ (by decide), by rw [hx2, hx1, hx]⟩, fun h => absurd h (by omega)⟩
      rw [hport2, setPort_port _ k _ _ _ hk, fld_put_low _ 1 (by decide)]
      exact ⟨hport hk, fun h => absurd h h4, fun _ => fld_put_bit _ (by decide) (by decide), fun h => absurd h (by omega)⟩
    · rw [if_neg h4, if_neg h2]
      obtain ⟨hr1, hc1, hm1, hp1, hx1⟩ := setPort_frame (retrained s k) k 1 1 0
      obtain ⟨hr2, hc2, hm2, hp2, hx2⟩ := setPort_frame (setPort (retrained s k) k 1 1 0) k 0 0 0
      obtain ⟨hr3, hc3, hm3, hport3, hx3⟩ := wentDown_frame (setPort (setPort (retrained s k) k 1 1 0) k 0 0 0) k
      obtain ⟨hr4, hc4, hm4, hport4, hx4⟩ := raiseFevt_frame (wentDown (setPort (setPort (retrained s k) k 1 1 0) k 0 0 0) k) (linkPart s k) 1
      refine ⟨by rw [hr4, hr3, hr2, hr1, hr], by rw [hc4, hc3, hc2, hc1, hc], by rw [hm4, hm3, hm2, hm1, hm], fun hk => ?_,
        fun h => absurd h h4, fun h => absurd h (by omega), fun _ => ⟨?_, raiseFevt_bit _ _ (by decide), by rw [hx4, hx3, hx2, hx1, hx]⟩⟩
      · rw [hport4, hport3, setPort_port _ k 0 0 0 hk, setPort_port _ k 1 1 0 hk, fld_put_low _ 0 (by decide), fld_put_low _ 1 (by decide)]
        refine ⟨hport hk, fun h => absurd h h4, fun h => absurd h (by omega), fun _ => ⟨fld_put_bit _ (by decide) (by decide), ?_⟩⟩
        rw [fld_putFld_other _ _ (by decide) (by decide) (by decide) (.inr (by decide)), fld_put_bit _ (by decide) (by decide)]
      · exact congrArg Option.isSome (mfind_mput_same (setPort (setPort (retrained s k) k 1 1 0) k 0 0 0).downLinks k false)

theorem links_up (h : mfind s.downLinks k = none) : exec (.downLinkTimeout k) s = .next { s with issue := .held } ∧
    exec (.linkReturn k) s = .next { s with issue := .held } := by
  refine ⟨?_, ?_⟩
  · rw [exec_downLinkTimeout]
    unfold execDownLinkTimeout
    rw [h, event_waits]
  · have hd : s.down k = false := by rw [State.down, h]; rfl
    rw [exec_linkReturn]
    unfold execLinkReturn
    rw [hd]
    rfl

theorem downLinkTimeout_waiting {ended : Bool} {w : LinkWait} (h : mfind s.downLinks k = some ended)
    (hw : s.linkWaits.find? (fun w => w.link == k) = some w) :
    Spec.Event (.downLinkTimeout k) s (decide (w.since + 2000000 ≤ s.clk)) (fun t => t = linkGone s k) := by
  refine event_spec (t := linkGone s k) ?_ fun _ => rfl
  rw [exec_downLinkTimeout]
  unfold execDownLinkTimeout
  rw [h]
  dsimp only
  rw [hw]

theorem downLinkTimeout_first {ended : Bool} (h : mfind s.downLinks k = some ended) (hw : s.linkWaits.find? (fun w => w.link == k) = none) :
    Spec.Event (.downLinkTimeout k) s (linkWaited s k) (fun t =>
      t = if ended then linkGone s k else { s with linkWaits := s.linkWaits ++ [⟨k, s.clk⟩] }) := by
  refine event_spec (t := if ended then linkGone s k else { s with linkWaits := s.linkWaits ++ [⟨k, s.clk⟩] }) ?_ fun _ => rfl
  rw [exec_downLinkTimeout]
  unfold execDownLinkTimeout
  rw [h]
  dsimp only
  rw [hw]

/-- A link that has returned. -/
def returned (s : State) (k : Nat) : State :=
  { s with downLinks := mdel s.downLinks k, downSince := mdel s.downSince k, linkWaits := s.linkWaits.filter fun w => w.link != k }

theorem exec_linkReturn_eq : exec (.linkReturn k) s = event s (s.down k) (returned (setPort s k 0 0 1) k) := rfl

theorem linkReturn_spec : Spec.Event (.linkReturn k) s (s.down k) (fun t => t.down k = false ∧ t.linkWaits = s.linkWaits.filter (fun w => w.link != k) ∧
    t.cores = s.cores ∧ t.mem = s.mem ∧ t.parts = s.parts ∧ (k < 36 → fld (mget 0 t.ports k) 0 0 = 1)) := by
  refine event_spec (exec_linkReturn_eq s k) fun _ => ?_
  obtain ⟨-, hc, hm, hp, -⟩ := setPort_frame s k 0 0 1
  have hw : (setPort s k 0 0 1).linkWaits = s.linkWaits := by unfold setPort; split <;> rfl
  refine ⟨congrArg Option.isSome (mfind_mdel_same _ k), ?_, hc, hm, hp, fun hk => ?_⟩
  · rw [← hw]; rfl
  · exact (congrArg (fun w => fld w 0 0) (setPort_port s k 0 0 1 hk)).trans (fld_put_bit _ (by decide) (by decide))

end

/-! ## Escapes (R20, R388) -/

section
variable (s : State) (c i : Nat)

/-- A core whose request i has moved. -/
def Core.escapedTo (k : Core) (i : Nat) (m : Bool × Bool) : Core :=
  { k with escapes := (if m.1 then [2 * i] else []) ++ (if m.2 then [2 * i + 1] else []) ++ k.escapes.filter (· / 2 != i) }

theorem escapedTo_same (k : Core) (i : Nat) (m : Bool × Bool) :
    ((k.escapedTo i m).escapes.contains (2 * i), (k.escapedTo i m).escapes.contains (2 * i + 1)) = m := by
  have h0 : 2 * i ∉ k.escapes.filter (· / 2 != i) := fun h => by
    have := (List.mem_filter.mp h).2
    simp at this
  have h1 : 2 * i + 1 ∉ k.escapes.filter (· / 2 != i) := fun h => by
    have h2 := (List.mem_filter.mp h).2
    rw [show (2 * i + 1) / 2 = i by omega] at h2
    simp at h2
  obtain ⟨a, b⟩ := m
  unfold Core.escapedTo
  cases a <;> cases b <;> simp only [if_true, if_false, Bool.false_eq_true, List.nil_append, List.cons_append, List.contains_eq_mem, List.mem_cons,
    h0, h1] <;> simp

theorem escapedTo_other (k : Core) {i j : Nat} (m : Bool × Bool) (h : j ≠ i) :
    ((k.escapedTo i m).escapes.contains (2 * j), (k.escapedTo i m).escapes.contains (2 * j + 1)) =
      (k.escapes.contains (2 * j), k.escapes.contains (2 * j + 1)) := by
  have hkeep (n : Nat) (hn : n / 2 = j) : (k.escapedTo i m).escapes.contains n = k.escapes.contains n := by
    have h0 : n ≠ 2 * i := by omega
    have h1 : n ≠ 2 * i + 1 := by omega
    have hd : n / 2 ≠ i := by omega
    obtain ⟨a, b⟩ := m
    unfold Core.escapedTo
    cases a <;> cases b <;> simp [h0, h1, hd]
  rw [hkeep _ (by omega), hkeep _ (by omega)]

/-- The way on that a place gives a request. -/
def moves (s : State) (c key : Nat) (m : Bool × Bool) : Option (Bool × Bool) := escapes s (foldOf c) (keyFold s c key) m

/-- An ESCAPE_MOVE with its next state, or none. -/
def escapeEvent (s : State) (c : Nat) (t : Option State) : Host.Outcome State Fault Refusal :=
  match t with
  | some t => event s (!fixedOnly s c) t
  | none => event s false s

theorem exec_escapeMove_load {x : Load} (hx : (s.core c).loads[i]? = some x) : exec (.escapeMove c i) s = escapeEvent s c
    ((moves s c x.key x.moved).bind fun m => if x.since + 64 ≤ s.clk then
      some (s.updCore c fun k => { k with loads := k.loads.set i { x with escape := m.1, back := m.2 } }) else none) := by
  rw [exec_escapeMove]
  unfold execEscapeMove
  dsimp only
  rw [hx]
  rfl

theorem exec_escapeMove_request (hx : (s.core c).loads[i]? = none) : exec (.escapeMove c i) s = escapeEvent s c
    (((requests s c)[i - (s.core c).loads.length]?).bind fun r => (r.2.findSome? fun key => moves s c key (s.escaped c r.1)).map fun m =>
      s.updCore c fun k => k.escapedTo r.1 m) := by
  rw [exec_escapeMove]
  unfold execEscapeMove
  dsimp only
  rw [hx]
  rfl

theorem escapeMove_request_spec {r : Nat × List Nat} {m : Bool × Bool} (hx : (s.core c).loads[i]? = none)
    (hr : (requests s c)[i - (s.core c).loads.length]? = some r) (hm : (r.2.findSome? fun key => moves s c key (s.escaped c r.1)) = some m) :
    Spec.Event (.escapeMove c i) s (!fixedOnly s c) (fun t => t.escaped c r.1 = m ∧ (∀ j, j ≠ r.1 → t.escaped c j = s.escaped c j) ∧
      (t.core c).r = (s.core c).r ∧ t.mem = s.mem) := by
  refine event_spec (t := s.updCore c fun k => k.escapedTo r.1 m) ?_ fun _ => ?_
  · rw [exec_escapeMove_request s c i hx, hr, Option.bind_some, hm]
    rfl
  · have hcore : (s.updCore c fun k => k.escapedTo r.1 m).core c = (s.core c).escapedTo r.1 m := State.core_setCore _ _ _
    refine ⟨?_, fun j hj => ?_, by rw [hcore]; rfl, rfl⟩
    · rw [State.escaped, hcore]
      exact escapedTo_same _ _ _
    · rw [State.escaped, hcore]
      exact escapedTo_other _ _ hj

theorem escapeMove_load_spec {x : Load} {m : Bool × Bool} (hx : (s.core c).loads[i]? = some x) (hm : moves s c x.key x.moved = some m) :
    Spec.Event (.escapeMove c i) s (!fixedOnly s c && decide (x.since + 64 ≤ s.clk)) (fun t =>
      t = s.updCore c fun k => { k with loads := k.loads.set i { x with escape := m.1, back := m.2 } }) := by
  have hex := exec_escapeMove_load s c i hx
  rw [hm, Option.bind_some] at hex
  refine event_spec (t := s.updCore c fun k => { k with loads := k.loads.set i { x with escape := m.1, back := m.2 } }) ?_ fun _ => rfl
  by_cases ht : x.since + 64 ≤ s.clk
  · rw [hex, if_pos ht, decide_eq_true ht, Bool.and_true]
    rfl
  · rw [hex, if_neg ht, decide_eq_false ht, Bool.and_false, event_waits]
    rfl

end
end Sys2Proof.Machine

namespace Sys2Proof
open Machine

/-- Settles O60: each event's condition and effect; the bytes that a phase stop leaves, by induction over what it writes. -/
theorem checkpointAndLinkEvents : Obligations.CheckpointAndLinkEvents := by
  intro s p c i k good v again q job list allowed
  refine ⟨phaseStop_spec s p v, phaseStopWrite_spec s p, phaseRestore_spec s p v rfl rfl Iff.rfl, linkCrcError_spec s k again,
    linkRetrain_spec s k good, links_up s k, fun w h hw => downLinkTimeout_waiting s k h hw, downLinkTimeout_first s k,
    downLinkTimeout_first s k, linkReturn_spec s k, fun r m hx hr hm => escapeMove_request_spec s c i hx hr hm, fun r hx hr hm => ?_,
    fun hx hr => ?_, fun x hx => ⟨fun m hm => escapeMove_load_spec s c i hx hm, fun hm => ?_⟩⟩
  · rw [exec_escapeMove_request s c i hx, hr, Option.bind_some,
      show (r.2.findSome? fun key => moves s c key (s.escaped c r.1)) = none from hm]
    rfl
  · rw [exec_escapeMove_request s c i hx, hr]
    rfl
  · rw [exec_escapeMove_load s c i hx, show moves s c x.key x.moved = none from hm]
    rfl

end Sys2Proof

end

section
/-! PROOFS. Lines of code, translation faults and rollback, and accesses to the host. -/

namespace Sys2Proof.Machine

/-! ## Addresses that the device's agents read (R47, R247) -/

section
variable {s t : State} (h : SamePlaces s t) (hm : t.mem = s.mem) (he : t.ecc = s.ecc)
include h hm he

omit h hm in
theorem bad_of_ecc (key n : Nat) : t.bad key n = s.bad key n := by rw [State.bad, he]; rfl

omit h he in
theorem bytes_of_mem (key n : Nat) : t.bytes key n = s.bytes key n := by simp only [State.bytes, State.byte, hm]

theorem SamePlaces.walkFrom (p va fuel table : Nat) : Machine.walkFrom t p va fuel table = Machine.walkFrom s p va fuel table := by
  induction fuel generalizing table with
  | zero => rfl
  | succ fuel ih =>
    have hk : hbmKey t p = hbmKey s p := by funext o; simp only [hbmKey, partSlice, h.layout] <;> rfl
    rw [Machine.walkFrom, Machine.walkFrom]
    simp only [show hbmSize t p = hbmSize s p by rw [hbmSize, h.layout]; rfl, hk, bad_of_ecc he, bytes_of_mem hm, State.part, h.parts, h.physKey, ih] <;> rfl

theorem SamePlaces.walk (p job va : Nat) : Machine.walk t p job va = Machine.walk s p job va := by
  rw [Machine.walk, Machine.walk, h.walkFrom hm he, State.part, h.parts]
  rfl

theorem SamePlaces.agentKey (p job v : Nat) : Machine.agentKey t p job v = Machine.agentKey s p job v := by
  have hc : commonSize t p = commonSize s p := by rw [commonSize, h.layout]; rfl
  simp only [Machine.agentKey, hc, h.commonKey, h.walk hm he, h.physKey] <;> rfl

theorem SamePlaces.agentRead (p job v : Nat) : Machine.agentRead t p job v = Machine.agentRead s p job v := by
  rw [Machine.agentRead, Machine.agentRead, h.agentKey hm he]
  simp only [bad_of_ecc he, bytes_of_mem hm]

theorem SamePlaces.patchLine (p : Nat) (l : Launch) (a : Nat) (bs : List Byte) : Machine.patchLine t p l a bs = Machine.patchLine s p l a bs := by
  simp only [Machine.patchLine, h.agentRead hm he] <;> rfl

end

/-! ## Translations and the cores they leave alone (R249) -/

theorem dropBad_occ (s : State) (c va d : Nat) : ((dropBad s c va).core d).occ = (s.core d).occ := by
  unfold dropBad
  split
  · split
    · exact (SamePlaces.updCore s c (f := fun k => { k with tlb := k.tlb.erase _ }) rfl rfl).occ d
    · rfl
  · rfl

theorem translateBy_occ {cw : State → Nat → Nat → Nat → Except WalkFail Leaf × State} (hcw : ∀ s p job va, (cw s p job va).2.cores = s.cores)
    {s t : State} {c va : Nat} {acc : BitVec 2} {e : TlbEntry} (h : translateBy cw s c va acc = .ok (e, t)) (d : Nat) :
    (t.core d).occ = (s.core d).occ := by
  rw [translateBy] at h
  dsimp only at h
  cases hm : isMgmt c with
  | true =>
    rw [hm, if_pos rfl] at h
    cases h
    rfl
  | false =>
    rw [hm, if_neg Bool.false_ne_true] at h
    rw [← dropBad_occ s c va]
    generalize dropBad s c va = s1 at h ⊢
    cases htl : tlbFind (s1.core c).tlb ((s.core c).job s) va with
    | some e1 =>
      rw [htl] at h
      cases h
      rfl
    | none =>
      rw [htl] at h
      dsimp only at h
      split at h
      · cases h
      · split at h <;> cases h
      · cases hw : walkUp s1 c reqWalk va with
        | false =>
          rw [hw, Bool.not_false, if_pos rfl] at h
          cases h
        | true =>
          rw [hw, Bool.not_true, if_neg Bool.false_ne_true] at h
          have hc := hcw s1 (corePart s c) ((s.core c).job s) va
          generalize cw s1 (corePart s c) ((s.core c).job s) va = x at h hc
          obtain ⟨r, s2⟩ := x
          have hd : (s2.core d).occ = (s1.core d).occ := congrArg (fun cs => (mget Core.idle cs d).occ) hc
          rcases r with (_ | _) | l
          · cases h
          · cases h
          · cases h
            rw [← hd]
            by_cases hdc : d = c
            · rw [hdc, State.updCore, State.core_setCore]
              rfl
            · rw [State.updCore, State.core_setCore_other _ _ _ _ hdc]

theorem codeKey_occ {s t : State} {c a n key : Nat} (h : codeKey s c a n = .ok (key, t)) (d : Nat) : (t.core d).occ = (s.core d).occ := by
  obtain ⟨⟨key', u⟩, hx, h⟩ := of_ok_bind h
  obtain ⟨-, h⟩ := of_need h
  obtain ⟨-, h⟩ := of_need h
  cases h
  split at hx
  · dsimp only at hx
    split at hx
    · rw [(Prod.mk.inj (Except.ok.inj hx)).2]
    · cases hx
  · obtain ⟨⟨e, v⟩, ht, hx⟩ := of_ok_bind hx
    dsimp only at hx
    split at hx
    · rw [← (Prod.mk.inj (Except.ok.inj hx)).2]
      rw [translate_def] at ht
      exact translateBy_occ (fun s p job va => (critWalk_keeps s p job va).2.2.1) ht d
    · cases hx
  · cases hx

/-! ## Lines of code filled (R91, R92) -/

/-- The state with another count of corrected errors. -/
def State.withEccCount (s : State) (n : Nat) : State := { s with eccCount := n }

theorem SamePlaces.withEccCount {s t : State} (h : SamePlaces s t) (n : Nat) : SamePlaces s (t.withEccCount n) :=
  ⟨h.layout, h.nv, h.t2exp, h.parts, h.occ, h.orphan⟩

theorem foldl_withEccCount {α : Type} {f : State → α → State} (hf : ∀ s a, ∃ n, f s a = s.withEccCount n) (l : List α) (s : State) :
    ∃ n, l.foldl f s = s.withEccCount n := by
  induction l generalizing s with
  | nil => exact ⟨s.eccCount, rfl⟩
  | cons a l ih =>
    obtain ⟨n, hn⟩ := hf s a
    obtain ⟨m, hm⟩ := ih (s.withEccCount n)
    exact ⟨m, by rw [List.foldl_cons, hn, hm]; rfl⟩

theorem agentCount_withEccCount (s : State) (p job v n : Nat) : ∃ m, agentCount s p job v n = s.withEccCount m := by
  unfold agentCount
  split
  · exact ⟨s.eccCount, rfl⟩
  · refine foldl_withEccCount (fun s i => ?_) _ s
    split
    · exact ⟨_, rfl⟩
    · exact ⟨s.eccCount, rfl⟩

/-- The state whose fold takes the line, once the bytes at `key` were read and their corrected errors counted. -/
def lineRead (u : State) (c p key : Nat) (l : Launch) (line : Nat) : State :=
  (patchWords l line).foldl (fun s v => agentCount s p l.job v 1) ((u.countEcc key 64).updCore c fun k => k.landed reqFetch)

theorem lineRead_eq (u : State) (c p key : Nat) (l : Launch) (line : Nat) :
    ∃ n, lineRead u c p key l line = (u.updCore c fun k => k.landed reqFetch).withEccCount n := by
  obtain ⟨n, hn⟩ := foldl_withEccCount (fun s v => agentCount_withEccCount s p l.job v 1) (patchWords l line)
    ((u.countEcc key 64).updCore c fun k => k.landed reqFetch)
  exact ⟨n, hn.trans rfl⟩

/-- The line as its fold takes it. -/
def filledLine (s : State) (o : Occ) (l : Launch) (line : Nat) (raw : List Byte) : ICLine :=
  { part := o.part, blk := o.blk, addr := line, raw := raw, bytes := (patchLine s o.part l line raw).1, marked := (patchLine s o.part l line raw).2, bad := false }

/-- Fold f with a line filled last. -/
def lineFilled (s : State) (f n : Nat) (x : ICLine) : State :=
  { s with lineBad := n }.updFold f fun f => { f with icache := putLine f.icache x }

theorem findLine_lineFilled {s : State} {c n : Nat} {x : ICLine} {o : Occ} (ho : (s.core c).occ = some o) (hp : x.part = o.part) (hb : x.blk = o.blk)
    (ha : x.addr % 64 = 0) (hx : x.bad = false) : findLine (lineFilled s (foldOf c) n x) c x.addr = some x := by
  have hf : (lineFilled s (foldOf c) n x).fold (foldOf c) = { s.fold (foldOf c) with icache := putLine (s.fold (foldOf c)).icache x } :=
    State.fold_setFold _ _ _
  have ho' : ((lineFilled s (foldOf c) n x).core c).occ = some o := ho
  have hhit : (x.part == o.part && x.blk == o.blk && x.addr == x.addr / 64 * 64 && !x.bad) = true := by
    have : x.addr = x.addr / 64 * 64 := by omega
    rw [hp, hb, hx, ← this]
    simp
  rw [findLine, ho']
  dsimp only
  rw [hf, putLine, List.take_succ_cons]
  exact List.find?_cons_of_pos hhit

theorem exec_icacheFill_idle {s : State} {c line : Nat} (h : (s.core c).occ = none) : exec (.icacheFill c line) s = .next { s with issue := .held } := by
  rw [exec_icacheFill]
  unfold execIcacheFill
  dsimp only
  rw [h]
  rfl

section
variable {s : State} {c line : Nat} {o : Occ} {l : Launch} (ho : (s.core c).occ = some o) (hl : (s.core c).launchOf s = some l)
  (hrun : o.running = true) (htf : (s.core c).tfault = none) (ha : line % 64 = 0) (h1 : line < l.code + l.csize) (h2 : l.code < line + 64)
  (hno : findLine s c line = none)
include ho hl hrun htf ha h1 h2 hno

/-- The line is read: the cause of one that is damaged goes to the packet that needs it, and else the fold takes the line. -/
theorem exec_icacheFill_key {key : Nat} {u : State} (hk : codeKey s c line 64 = .ok (key, u)) : exec (.icacheFill c line) s =
    match patchFault u o.part l line with
    | some t => if neededLine s c == some line then deliverTrap u c t else event s false s
    | none =>
      let t := lineRead u c o.part key l line
      event s true (lineFilled t (foldOf c) (t.lineBad + ((t.fold (foldOf c)).icache.filter fun y =>
        y.part == o.part && y.blk == o.blk && y.addr == line && y.bad).length) (filledLine t o l line (t.bytes key 64))) := by
  rw [exec_icacheFill]
  unfold execIcacheFill
  dsimp only
  rw [ho, hl]
  dsimp only
  rw [htf, hrun, decide_eq_true (⟨ha, h1, h2⟩ : line % 64 = 0 ∧ line < l.code + l.csize ∧ l.code < line + 64), hno]
  simp only [Bool.not_true, Option.isSome_none, Bool.or_self, if_neg Bool.false_ne_true, hk] <;> rfl

theorem exec_icacheFill_trap {e : Trap} (hk : codeKey s c line 64 = .error (.trap e)) : exec (.icacheFill c line) s =
    if neededLine s c == some line then deliverTrap s c e else event s false s := by
  rw [exec_icacheFill]
  unfold execIcacheFill
  dsimp only
  rw [ho, hl]
  dsimp only
  rw [htf, hrun, decide_eq_true (⟨ha, h1, h2⟩ : line % 64 = 0 ∧ line < l.code + l.csize ∧ l.code < line + 64), hno]
  simp only [Bool.not_true, Option.isSome_none, Bool.or_self, if_neg Bool.false_ne_true, hk]

theorem completes_icacheFill {key : Nat} {u : State} (hk : codeKey s c line 64 = .ok (key, u)) (hp : patchFault u o.part l line = none) :
    ∃ t x, Completes (.icacheFill c line) s t ∧ findLine t c line = some x ∧ x.addr = line ∧ x.raw = u.bytes key 64 ∧
      x.bytes = (patchLine u o.part l line (u.bytes key 64)).1 ∧ x.bad = false ∧ t.mem = u.mem ∧ t.parts = u.parts ∧
      (t.fold (foldOf c)).icache.length ≤ 1024 := by
  have hex := exec_icacheFill_key ho hl hrun htf ha h1 h2 hno hk
  rw [hp] at hex
  dsimp only at hex
  obtain ⟨n, hn⟩ := lineRead_eq u c o.part key l line
  rw [hn] at hex
  have hsame : SamePlaces u ((u.updCore c fun k => k.landed reqFetch).withEccCount n) :=
    (SamePlaces.updCore u c (f := fun k => k.landed reqFetch) rfl rfl).withEccCount n
  have hocc : (((u.updCore c fun k => k.landed reqFetch).withEccCount n).core c).occ = some o := (hsame.occ c).trans ((codeKey_occ hk c).trans ho)
  have hmem : ((u.updCore c fun k => k.landed reqFetch).withEccCount n).mem = u.mem := rfl
  have hecc : ((u.updCore c fun k => k.landed reqFetch).withEccCount n).ecc = u.ecc := rfl
  have hparts : ((u.updCore c fun k => k.landed reqFetch).withEccCount n).parts = u.parts := rfl
  generalize (u.updCore c fun k => k.landed reqFetch).withEccCount n = v at hex hsame hocc hmem hecc hparts
  refine ⟨_, _, completes_of_event hex rfl, findLine_lineFilled (x := filledLine v o l line (v.bytes key 64)) hocc rfl rfl ha rfl, rfl,
    bytes_of_mem hmem key 64, ?_, rfl, hmem, hparts, ?_⟩
  · rw [filledLine, hsame.patchLine hmem hecc, bytes_of_mem hmem]
  · rw [lineFilled, State.updFold, State.fold_setFold, putLine]
    exact List.length_take_le _ _

end

/-! ## Translation faults (R365, R404) -/

/-- The state once a walk has answered the fault f of core c. -/
def walkAnswers (s : State) (c : Nat) (f : TransFault) : Except WalkFail Leaf × State → State
  | (.error .unmapped, _) => s.updCore c fun k => { k with tfault := some { f with answer := some false } }
  | (.error .uncorrectable, _) => s.updCore c fun k => { k with tfault := some { f with answer := some true } }
  | (.ok l, s1) => (s1.updCore c fun v => { v with tlb := l.entry ((s.core c).job s) f.va :: v.tlb }).updCore c fun k =>
      { k with tfault := some { f with answer := some true } }

theorem exec_translationResolve_fault {s : State} {c : Nat} {f : TransFault} (hf : (s.core c).tfault = some f) : exec (.translationResolve c) s =
    event s (f.answer.isNone && f.seq.isNone && fld (s.part (corePart s c)).facc 1 1 == 1)
      (walkAnswers s c f (critWalk s (corePart s c) ((s.core c).job s) f.va)) := by
  rw [exec_translationResolve]
  unfold execTranslationResolve
  obtain ⟨cw, hcw⟩ : ∃ cw, cw = critWalk := ⟨_, rfl⟩
  rw [← hcw]
  dsimp only
  rw [hf]
  dsimp only
  generalize cw s (corePart s c) ((s.core c).job s) f.va = x
  obtain ⟨(_ | _) | l, s1⟩ := x <;> rfl

theorem exec_translationResolve_idle {s : State} {c : Nat} (hf : (s.core c).tfault = none) :
    exec (.translationResolve c) s = .next { s with issue := .held } := by
  rw [exec_translationResolve]
  unfold execTranslationResolve
  obtain ⟨cw, hcw⟩ : ∃ cw, cw = critWalk := ⟨_, rfl⟩
  rw [← hcw]
  dsimp only
  rw [hf]
  rfl

theorem updCore_twice_core (s : State) (c : Nat) (f g : Core → Core) : ((s.updCore c f).updCore c g).core c = g (f (s.core c)) := by
  rw [State.updCore, State.core_setCore, State.updCore, State.core_setCore]

theorem updCore_core_other (s : State) {c d : Nat} (f : Core → Core) (h : d ≠ c) : (s.updCore c f).core d = s.core d :=
  State.core_setCore_other _ _ _ _ h

/-- A walk's answer stands at the core, and a leaf that it reached in the core's TLB. -/
theorem walkAnswers_holds {s : State} (c : Nat) (f : TransFault) {x : Except WalkFail Leaf × State} {w : Except WalkFail Leaf}
    (hcores : x.2.cores = s.cores) (hmem : x.2.mem = s.mem) (hw : x.1 = .error .unmapped ↔ w = .error .unmapped) :
    (∃ a : Bool, (a = false ↔ w = .error .unmapped) ∧ ((walkAnswers s c f x).core c).tfault = some { f with answer := some a }) ∧
    (∀ l, x.1 = .ok l → ((walkAnswers s c f x).core c).tlb = l.entry ((s.core c).job s) f.va :: (s.core c).tlb) ∧
    ((walkAnswers s c f x).core c).r = (s.core c).r ∧ (walkAnswers s c f x).mem = s.mem ∧
      ∀ d, d ≠ c → (walkAnswers s c f x).core d = s.core d := by
  have hcore (d : Nat) : x.2.core d = s.core d := congrArg (fun cs => mget Core.idle cs d) hcores
  obtain ⟨(_ | _) | l, s1⟩ := x <;> rw [← hw, walkAnswers]
  · rw [State.updCore, State.core_setCore]
    refine ⟨⟨false, by simp, rfl⟩, ?_, rfl, rfl, fun d hd => State.core_setCore_other _ _ _ _ hd⟩
    intro l h
    cases h
  · rw [State.updCore, State.core_setCore]
    refine ⟨⟨true, by simp, rfl⟩, ?_, rfl, rfl, fun d hd => State.core_setCore_other _ _ _ _ hd⟩
    intro l h
    cases h
  · rw [updCore_twice_core, hcore c]
    refine ⟨⟨true, by simp, rfl⟩, fun l' h => ?_, rfl, hmem, fun d hd => ?_⟩
    · rw [Except.ok.inj h]
    · rw [updCore_core_other _ _ hd, updCore_core_other _ _ hd, hcore d]

theorem critWalked_unmapped (s : State) (w : Except WalkFail Leaf) : (critWalked s w).1 = .error .unmapped ↔ w = .error .unmapped := by
  unfold critWalked
  split
  · simp only [reduceCtorEq, iff_false]
    split
    · split <;> simp
    · simp
  · simp

theorem translationResolve_spec {s : State} {c : Nat} {f : TransFault} (hf : (s.core c).tfault = some f) :
    Spec.Event (.translationResolve c) s (f.answer.isNone && f.seq.isNone && fld (s.part (corePart s c)).facc 1 1 == 1) (fun t =>
      (∃ a : Bool, (a = false ↔ walk s (corePart s c) ((s.core c).job s) f.va = .error .unmapped) ∧
        (t.core c).tfault = some { f with answer := some a }) ∧
      (∀ l, (critWalk s (corePart s c) ((s.core c).job s) f.va).1 = .ok l → (t.core c).tlb = l.entry ((s.core c).job s) f.va :: (s.core c).tlb) ∧
      (t.core c).r = (s.core c).r ∧ t.mem = s.mem ∧ ∀ d, d ≠ c → t.core d = s.core d) := by
  obtain ⟨-, -, hcores, hmem, -⟩ := critWalk_keeps s (corePart s c) ((s.core c).job s) f.va
  refine event_spec (exec_translationResolve_fault hf) fun _ => walkAnswers_holds c f hcores hmem ?_
  rw [critWalk_eq]
  exact critWalked_unmapped s _

/-- A core of the table whose partition's fault n is answered with a. -/
def coreAnswered (s : State) (p n : Nat) (a : Bool) (x : Nat × Core) : Nat × Core :=
  if corePart s x.1 = p then
    (x.1, { x.2 with
      tfault := answerFault n a x.2.tfault
      queues := x.2.queues.map fun q => (q.1, { q.2 with entries := q.2.entries.map fun e => e.withFault (answerFault n a e.fault) }) })
  else x

theorem answerFaults_core (s : State) (p n : Nat) (a : Bool) (d : Nat) :
    (answerFaults s p n a).core d = (mfind s.cores d).elim Core.idle fun k => (coreAnswered s p n a (d, k)).2 := by
  have hkey : ∀ x, (coreAnswered s p n a x).1 = x.1 := fun x => by unfold coreAnswered; split <;> rfl
  have h := mfind_mapKey hkey s.cores d
  rw [State.core, mget]
  rw [show (answerFaults s p n a).cores = s.cores.map (coreAnswered s p n a) from rfl, h]
  cases mfind s.cores d <;> rfl

theorem answerFaults_holds (s : State) (p n : Nat) (a : Bool) :
    (∀ d, corePart s d ≠ p → (answerFaults s p n a).core d = s.core d) ∧
    ∀ d, corePart s d = p → ((answerFaults s p n a).core d).r = (s.core d).r ∧
      ((answerFaults s p n a).core d).tfault = answerFault n a (s.core d).tfault := by
  refine ⟨fun d hd => ?_, fun d hd => ?_⟩ <;> rw [answerFaults_core, State.core, mget] <;> cases mfind s.cores d with
  | none => trivial
  | some k => simp [coreAnswered, hd]

theorem fqRetry_spec (s : State) (p : Nat) (sq : Word32) (a : Bool) :
    Spec.Event (if a then .fqRetry p sq else .fqDeliver p sq) s (windowUp s p && faultOpen s p sq.toNat) (fun t =>
      t.mem = s.mem ∧ t.parts = s.parts ∧ (∀ d, corePart s d ≠ p → t.core d = s.core d) ∧
      ∀ d, corePart s d = p → (t.core d).r = (s.core d).r ∧
        (t.core d).tfault = (s.core d).tfault.map fun f => if f.seq = some sq.toNat ∧ f.answer = none then { f with answer := some a } else f) := by
  have hans (n : Nat) (f : Option TransFault) :
      answerFault n a f = f.map fun f => if f.seq = some n ∧ f.answer = none then { f with answer := some a } else f := by
    simp only [answerFault, Option.isNone_iff_eq_none] <;> rfl
  obtain ⟨h1, h2⟩ := answerFaults_holds s p sq.toNat a
  refine event_spec (t := answerFaults s p sq.toNat a) ?_ fun _ => ⟨rfl, rfl, h1, fun d hd => ?_⟩
  · cases a <;> rfl
  · rw [← hans]
    exact h2 d hd

/-! ## Rollback and the host's decisions (R368, R369, R405) -/

theorem rollback_spec (s : State) (p b : Nat) :
    Spec.Event (.rollback p b) s ((s.part p).contrec.any fun x => x.blk == b && x.kind == 0) (fun t =>
      ((gangHeld s p b).any (fun d => decide (3 ≤ (s.core d).rollbacks) || (s.core d).snapBad) = true →
        t = cancelLaunch (s.updPart p fun q => { q with contrec := q.contrec.filter (·.blk != b) }) p b 4) ∧
      ((gangHeld s p b).any (fun d => decide (3 ≤ (s.core d).rollbacks) || (s.core d).snapBad) = false → t = rollBack s p b)) := by
  refine event_spec (t := rollBack s p b) rfl fun _ => ⟨fun h => ?_, fun _ => rfl⟩
  rw [rollBack]
  exact if_pos h

/-- A core without saved lines takes the registers and the unit of its snapshot. -/
theorem restoreSnap_holds {s : State} {c : Nat} {n : Snap} (hn : (s.core c).snap = some n) (hj : (s.core c).journal = []) (hs : (s.core c).jspill = []) :
    ((restoreSnap s c).core c).r = { (s.core c).r with ctl := n.ctl } ∧ ((restoreSnap s c).core c).occ = n.occ ∧
    ((restoreSnap s c).core c).chutes = n.chutes ∧ ((restoreSnap s c).core c).streams = n.streams ∧
    ((restoreSnap s c).core c).amark = n.amark ∧ ((restoreSnap s c).core c).padds = n.padds ∧ (restoreSnap s c).mem = s.mem ∧
    ∀ d, d ≠ c → (restoreSnap s c).core d = s.core d := by
  have hc (t : State) (f : Nat) (g : Fold → Fold) (d : Nat) : (t.updFold f g).core d = t.core d := rfl
  rw [restoreSnap]
  dsimp only
  rw [hj, hs, hn]
  simp only [List.append_nil, List.foldl_nil, hc, State.updCore, State.core_setCore, true_and]
  exact ⟨rfl, fun d hd => State.core_setCore_other _ _ _ _ hd⟩

theorem exec_contans_idle {s : State} {p : Nat} (h : nextDecision s p = none) :
    exec (.contansContinue p) s = .next { s with issue := .held } ∧ exec (.contansCancel p) s = .next { s with issue := .held } := by
  rw [exec_contansContinue, exec_contansCancel]
  unfold execContansContinue execContansCancel
  rw [h]
  exact ⟨rfl, rfl⟩

theorem resumePair_core (s : State) (c : Nat) :
    (resumePair s c).core c = { s.core c with occ := (s.core c).occ.map fun o => { o with running := true } } := State.core_setCore _ _ _

section
variable {s : State} {p : Nat} {x : Contain} (h : nextDecision s p = some x)
include h

theorem contansContinue_spec : Spec.Event (.contansContinue p) s (windowUp s p) (fun t =>
    (x.kind = 1 → t = rollBack s p x.blk) ∧
    (x.kind ≠ 1 → t.mem = s.mem ∧ (t.core x.core).r = (s.core x.core).r ∧ (t.core x.core).yoke = (s.core x.core).yoke ∧
      (t.core x.core).occ = (s.core x.core).occ.map (fun o => { o with running := true }) ∧
      (t.part p).contrec = (s.part p).contrec.filter fun y => !(y.core == x.core && y.kind == 2))) := by
  have hex : exec (.contansContinue p) s = event s (windowUp s p) (if x.kind = 1 then rollBack s p x.blk else
      (resumePair s x.core).updPart p fun q => { q with contrec := q.contrec.filter fun y => !(y.core == x.core && y.kind == 2) }) := by
    rw [exec_contansContinue]
    unfold execContansContinue
    rw [h]
  refine event_spec hex fun _ => ⟨fun hk => if_pos hk, fun hk => ?_⟩
  rw [if_neg hk]
  have hcore : ((resumePair s x.core).updPart p fun q => { q with contrec := q.contrec.filter fun y => !(y.core == x.core && y.kind == 2) }).core x.core =
    { s.core x.core with occ := (s.core x.core).occ.map fun o => { o with running := true } } := resumePair_core s x.core
  rw [hcore]
  exact ⟨rfl, rfl, rfl, rfl, congrArg Part.contrec (State.part_setPart _ _ _)⟩

theorem contansCancel_spec : Spec.Event (.contansCancel p) s (windowUp s p) (fun t =>
    (x.kind ≠ 2 → t = cancelLaunch s p x.blk 4) ∧
    (x.kind = 2 → ∃ e : ErrRec, e.cause = cYOKE ∧ e.status = 4 ∧ t = cancelLaunch (writeErr s p x.blk e) p x.blk 4)) := by
  have hex : exec (.contansCancel p) s = event s (windowUp s p) (cancelLaunch (if x.kind = 2 then writeErr s p x.blk
      { core := ((s.core x.core).occ.map (·.k)).getD 0, status := 4, cause := cYOKE, epc := (s.core x.core).r.pc.toNat, einfo := 0,
        unit_ := ((s.core x.core).occ.map (·.rcd)).getD 0 } else s) p x.blk 4) := by
    rw [exec_contansCancel]
    unfold execContansCancel
    rw [h]
  refine event_spec hex fun _ => ⟨fun hk => by rw [if_neg hk], fun hk => ⟨_, ?_, ?_, by rw [if_pos hk]⟩⟩ <;> rfl

end

/-! ## Host completions (R403) -/

theorem hostCompletionTimeout_image {s : State} {c : Nat} {err : Bool} (h : isMgmt c = true) :
    exec (.hostCompletionTimeout ⟨c, err⟩) s = event s (imageReading s) { s with imgBad := true } := by
  rw [exec_hostCompletionTimeout]
  unfold execHostCompletionTimeout
  exact if_pos h

section
variable {s : State} {c : Nat} {err : Bool} (hm : isMgmt c = false)
include hm

/-- The trap of a load of address v whose completion fails. -/
def hostTrap (v : Nat) : Trap := { cause := cUNCORR, acc := 0, val := true, data := v, deferred := none }

theorem exec_hostCompletionTimeout_load {ld : Load} (hld : (s.core c).loads.find? (fun x => isHost x.key) = some ld) :
    exec (.hostCompletionTimeout ⟨c, err⟩) s = if err || decide (ld.since + hostTimeout ≤ s.clk) then
      deliverTrap (s.updCore c fun k => { k with loads := k.loads.erase ld }) c (hostTrap ld.va) else event s false s := by
  rw [exec_hostCompletionTimeout]
  unfold execHostCompletionTimeout
  dsimp only
  rw [hm, if_neg Bool.false_ne_true, hld]
  rfl

variable (hl : (s.core c).loads.find? (fun x => isHost x.key) = none)
include hl

theorem exec_hostCompletionTimeout_none (hr : hostRequest s c = none) : exec (.hostCompletionTimeout ⟨c, err⟩) s = event s false s := by
  rw [exec_hostCompletionTimeout]
  unfold execHostCompletionTimeout
  dsimp only
  rw [hm, if_neg Bool.false_ne_true, hl]
  dsimp only
  rw [hr]

theorem exec_hostCompletionTimeout_some {i : Nat} {u : State} (hr : hostRequest s c = some (i, u)) : exec (.hostCompletionTimeout ⟨c, err⟩) s =
    match mfind (s.core c).hostSince i with
    | some t => event s (err || decide (t + hostTimeout ≤ s.clk)) (u.updCore c fun k => k.landed i)
    | none => event s true (if err then u.updCore c fun k => k.landed i else
        s.updCore c fun k => { k with hostSince := mput k.hostSince i s.clk }) := by
  rw [exec_hostCompletionTimeout]
  unfold execHostCompletionTimeout
  dsimp only
  rw [hm, if_neg Bool.false_ne_true, hl]
  dsimp only
  rw [hr] <;> rfl

theorem completes_hostCompletionTimeout_err {i : Nat} {u : State} (hr : hostRequest s c = some (i, u)) :
    Completes (.hostCompletionTimeout ⟨c, true⟩) s (u.updCore c fun k => k.landed i) := by
  have hex := exec_hostCompletionTimeout_some (err := true) hm hl hr
  cases hs : mfind (s.core c).hostSince i with
  | none =>
    rw [hs] at hex
    exact completes_of_event hex rfl
  | some t =>
    rw [hs] at hex
    exact completes_of_event hex rfl

/-- A queue whose head waits for the host ends with the error, and its engine is released. -/
theorem hostCompletionTimeout_queue {i v : Nat} (he : hostEntry s c = some (i, v)) :
    ∃ t, Completes (.hostCompletionTimeout ⟨c, true⟩) s t ∧ t.mem = s.mem ∧ (∀ x, (t.core x).r = (s.core x).r ∧ (t.fold x).m = (s.fold x).m) ∧
      mget ⟨[], none⟩ (t.core c).queues i = ⟨[], some { cause := cUNCORR, acc := 0, val := true, data := v }⟩ := by
  have hr : hostRequest s c = some (reqQueue i, failQueue s c i (hostTrap v).held) := by
    rw [hostRequest, he]
    rfl
  obtain ⟨h1, h2, h3⟩ := failQueue_holds s c i (hostTrap v).held
  refine ⟨_, completes_hostCompletionTimeout_err hm hl hr, h1, fun x => ⟨?_, (h3 x).1⟩, ?_⟩
  · rw [← (h3 x).2.1, State.updCore]
    by_cases hx : x = c
    · rw [hx, State.core_setCore]
      rfl
    · rw [State.core_setCore_other _ _ _ _ hx]
  · rw [State.updCore, State.core_setCore]
    exact h2

end
end Sys2Proof.Machine

namespace Sys2Proof
open Machine

/-- Settles O59: what each recovery event does where it is due, from its meaning. -/
theorem recoveryEvents : Obligations.RecoveryEvents := by
  unfold Obligations.RecoveryEvents
  intro s p b c line sq o l err
  refine ⟨fun h => exec_icacheFill_idle h, fun key u ho hl hrun htf ha h1 h2 hno hk => ⟨fun hp => completes_icacheFill ho hl hrun htf ha h1 h2 hno hk hp,
      fun e hp => ?_⟩, fun e ho hl hrun htf ha h1 h2 hno hk => ?_, fun f hf => translationResolve_spec hf, fun h => exec_translationResolve_idle h,
    fqRetry_spec s p sq, rollback_spec s p b, fun n hn hj hs => restoreSnap_holds hn hj hs, fun h => exec_contans_idle h,
    fun x h => ⟨contansContinue_spec h, contansCancel_spec h⟩, fun h => event_spec (hostCompletionTimeout_image h) fun _ => rfl,
    fun ld hm hld => ⟨fun h => ?_, fun h h1 => ?_⟩, fun i u hm hl hr => ⟨fun from_ hs => ?_, fun hs he => ?_, fun hs he => ?_⟩,
    fun i v hm hl he => hostCompletionTimeout_queue hm hl he, fun hm hl hr => exec_hostCompletionTimeout_none hm hl hr⟩
  · rw [exec_icacheFill_key ho hl hrun htf ha h1 h2 hno hk, hp]
    simp only [beq_iff_eq]
    rfl
  · rw [exec_icacheFill_trap ho hl hrun htf ha h1 h2 hno hk]
    simp only [beq_iff_eq]
    rfl
  · rw [exec_hostCompletionTimeout_load hm hld, if_pos (by rw [Bool.or_eq_true, decide_eq_true_eq]; exact h)]
    rfl
  · rw [exec_hostCompletionTimeout_load hm hld, if_neg (by rw [h, Bool.false_or, decide_eq_true_eq]; exact Nat.not_le.mpr h1)]
    rfl
  · have hex := exec_hostCompletionTimeout_some (err := err) hm hl hr
    rw [hs] at hex
    exact event_spec hex fun _ => rfl
  · rw [he]
    exact completes_hostCompletionTimeout_err hm hl hr
  · have hex := exec_hostCompletionTimeout_some (err := err) hm hl hr
    rw [hs, he] at hex
    rw [he]
    exact completes_of_event hex rfl

end Sys2Proof

end

section
/-! PROOFS. A pre-emption's request, save, force and resumption. -/

namespace Sys2Proof.Machine

variable (s : State) (p b c : Nat)

/-! ## The request (R360) -/

/-- Cores of a list marked for a pre-emption at a time. -/
def preemptMarked (t : Nat) (cs : List Nat) (s : State) : State := cs.foldl (fun s c => s.updCore c fun k => { k with preempt := some t }) s

theorem preemptMarked_frame (t : Nat) (cs : List Nat) : (preemptMarked t cs s).mem = s.mem ∧ (preemptMarked t cs s).parts = s.parts ∧
    (preemptMarked t cs s).clk = s.clk := by
  unfold preemptMarked
  induction cs generalizing s with
  | nil => exact ⟨rfl, rfl, rfl⟩
  | cons d cs ih =>
    obtain ⟨h1, h2, h3⟩ := ih (s.updCore d fun k => { k with preempt := some t })
    exact ⟨h1, h2, h3⟩

theorem preemptMarked_core (t : Nat) (cs : List Nat) :
    (preemptMarked t cs s).core c = if c ∈ cs then { s.core c with preempt := some t } else s.core c := by
  unfold preemptMarked
  induction cs generalizing s with
  | nil => simp
  | cons d cs ih =>
    rw [List.foldl_cons, ih]
    by_cases hd : c = d
    · subst hd
      rw [State.updCore, State.core_setCore, ite_self, if_pos List.mem_cons_self]
    · rw [State.updCore, State.core_setCore_other _ _ _ _ hd]
      simp [hd]

/-- The clock read anew at every core is the clock of the request. -/
theorem foldl_preempt (cs : List Nat) :
    cs.foldl (fun s c => s.updCore c fun k => { k with preempt := some s.clk }) s = preemptMarked s.clk cs s := by
  unfold preemptMarked
  induction cs generalizing s with
  | nil => rfl
  | cons d cs ih => rw [List.foldl_cons, List.foldl_cons, ih] <;> rfl

/-- The cores that hold a unit of a launch block. -/
def unitCores : List Nat := (s.cores.map (·.1)).filter (holdsUnit s p b)

theorem exec_hpreempt_busy (h : Word) (hb : (s.part p).hpres = 1) : exec (.hpreempt p h) s = event s (windowUp s p) s := by
  rw [exec_hpreempt]
  unfold execHpreempt
  dsimp only
  rw [if_pos hb]

theorem exec_hpreempt_other {h : Word} (hb : (s.part p).hpres ≠ 1) (hn : ∀ n, levelOf s p none h ≠ .launch n) :
    exec (.hpreempt p h) s = event s (windowUp s p) (s.setPart p { s.part p with hpres := 4 }) := by
  rw [exec_hpreempt]
  unfold execHpreempt
  dsimp only
  rw [if_neg hb]
  split
  · next n hl => exact absurd hl (hn n)
  · rfl

theorem exec_hpreempt_launch {h : Word} (hb : (s.part p).hpres ≠ 1) (hl : levelOf s p none h = .launch b) :
    exec (.hpreempt p h) s = event s (windowUp s p) (if unitCores s p b = [] then s.setPart p { s.part p with hpres := 3 }
      else preemptMarked s.clk (unitCores s p b) (s.setPart p { s.part p with hpres := 1, hpre := some b })) := by
  rw [exec_hpreempt]
  unfold execHpreempt
  dsimp only
  rw [if_neg hb, hl]
  dsimp only
  rw [foldl_preempt]
  rfl

theorem mem_unitCores {d : Nat} : d ∈ unitCores s p b ↔ (∃ x ∈ s.cores, x.1 = d) ∧ holdsUnit s p b d = true := by
  simp [unitCores]

theorem hpreempt_spec (h : Word) : Spec.Event (.hpreempt p h) s (windowUp s p) (fun t =>
    ((s.part p).hpres = 1 → t = s) ∧
    ((s.part p).hpres ≠ 1 → (∀ n, levelOf s p none h ≠ .launch n) → t = s.setPart p { s.part p with hpres := 4 }) ∧
    ((s.part p).hpres ≠ 1 → levelOf s p none h = .launch b →
      ((∀ x, x ∈ s.cores → holdsUnit s p b x.1 = false) → t = s.setPart p { s.part p with hpres := 3 }) ∧
      ((∃ x, x ∈ s.cores ∧ holdsUnit s p b x.1 = true) → (t.part p).hpres = 1 ∧ (t.part p).hpre = some b ∧ t.mem = s.mem ∧
        ∀ x, x ∈ s.cores → (t.core x.1).r = (s.core x.1).r ∧
          (t.core x.1).preempt = if holdsUnit s p b x.1 then some s.clk else (s.core x.1).preempt))) := by
  by_cases hb : (s.part p).hpres = 1
  · exact event_spec (exec_hpreempt_busy s p h hb) fun _ => ⟨fun _ => rfl, fun hn => absurd hb hn, fun hn => absurd hb hn⟩
  by_cases hl : ∃ n, levelOf s p none h = .launch n
  · obtain ⟨n, hl⟩ := hl
    refine event_spec (exec_hpreempt_launch s p n hb hl) fun _ => ⟨fun h1 => absurd h1 hb, fun _ hn => absurd hl (hn n), fun _ hl' => ?_⟩
    obtain rfl : n = b := by
      rw [hl] at hl'
      exact Level.launch.inj hl'
    refine ⟨fun hno => if_pos ?_, fun hex => ?_⟩
    · refine List.eq_nil_iff_forall_not_mem.mpr fun d hd => ?_
      obtain ⟨⟨x, hx, rfl⟩, hu⟩ := (mem_unitCores s p n).mp hd
      rw [hno x hx] at hu
      cases hu
    · obtain ⟨x, hx, hu⟩ := hex
      have hne : unitCores s p n ≠ [] := List.ne_nil_of_mem ((mem_unitCores s p n).mpr ⟨⟨x, hx, rfl⟩, hu⟩)
      rw [if_neg hne]
      obtain ⟨hm, hp, -⟩ := preemptMarked_frame (s.setPart p { s.part p with hpres := 1, hpre := some n }) s.clk (unitCores s p n)
      have hpart : (preemptMarked s.clk (unitCores s p n) (s.setPart p { s.part p with hpres := 1, hpre := some n })).part p =
          { s.part p with hpres := 1, hpre := some n } := by
        rw [State.part, hp]
        exact State.part_setPart _ _ _
      rw [hpart]
      refine ⟨rfl, rfl, hm, fun y hy => ?_⟩
      rw [preemptMarked_core]
      have hiff : y.1 ∈ unitCores s p n ↔ holdsUnit s p n y.1 = true := by
        rw [mem_unitCores]
        exact ⟨fun h => h.2, fun h => ⟨⟨y, hy, rfl⟩, h⟩⟩
      by_cases hu : holdsUnit s p n y.1 = true
      · rw [if_pos (hiff.mpr hu), if_pos hu]
        exact ⟨rfl, rfl⟩
      · rw [if_neg (fun h => hu (hiff.mp h)), if_neg hu]
        exact ⟨rfl, rfl⟩
  · have hn : ∀ n, levelOf s p none h ≠ .launch n := fun n hl' => hl ⟨n, hl'⟩
    exact event_spec (exec_hpreempt_other s p hb hn) fun _ => ⟨fun h1 => absurd h1 hb, fun _ _ => rfl, fun _ hl' => absurd hl' (hn b)⟩

/-! ## The save (R361, R362) -/

theorem exec_corePreempt_idle (h : (s.core c).preempt = none) : exec (.corePreempt c) s = .next { s with issue := .held } := by
  rw [exec_corePreempt]
  unfold execCorePreempt
  dsimp only
  rw [h]
  split
  · split
    · split <;> rfl
    · rfl
  · rfl

/-- A core that takes part in no fold's save: its own save is all that happens. -/
theorem exec_corePreempt_alone {i : Nat} {l : Launch} (hb : (s.part (partOfFold s (foldOf c))).hpre = some b)
    (hl : s.launch (partOfFold s (foldOf c)) b = some l) (hi : freeCtx (s.part (partOfFold s (foldOf c))) = some i)
    (hf : (lastOfFold s (partOfFold s (foldOf c)) b c && ownsFold s (partOfFold s (foldOf c)) b (foldOf c)) = false) :
    exec (.corePreempt c) s =
      event s ((s.core c).preempt.isSome && preemptPoint (s.core c) && preemptReady s c && !cancelPending s (partOfFold s (foldOf c)))
        (preemptCheck (saveCore s (partOfFold s (foldOf c)) b c i l) (partOfFold s (foldOf c))) := by
  rw [exec_corePreempt]
  unfold execCorePreempt
  dsimp only
  rw [hb, Option.bind_some, hl, hi, Option.map_some]
  dsimp only
  rw [hf, if_neg Bool.false_ne_true]

theorem endCapture_tlb : ((endCapture s c).core c).tlb = (s.core c).tlb := by
  unfold endCapture
  split
  · rfl
  · dsimp only
    split <;> rw [State.updCore, State.core_setCore] <;> rfl

theorem mirrorPair_core : (mirrorPair s c).core c = s.core c := by
  unfold mirrorPair
  split
  · exact State.core_setCore_other _ _ _ _ (partnerCore_ne c)
  · rfl

theorem preemptCheck_core (d : Nat) : (preemptCheck s p).core d = s.core d := by
  unfold preemptCheck
  split
  · rfl
  · split <;> rfl

theorem preemptCheck_ctxAreas : ((preemptCheck s p).part p).ctxAreas = (s.part p).ctxAreas := by
  unfold preemptCheck
  split
  · rfl
  · split
    · rfl
    · dsimp only
      rw [State.updPart, State.part_setPart]

theorem saveCore_holds (i : Nat) (l : Launch) :
    let t := saveCore s p b c i l
    (t.core c).occ = none ∧ (t.core c).r.g = [] ∧ (t.core c).preempt = none ∧ (t.core c).tlb = (s.core c).tlb ∧
      ∃ a, mfind (t.part p).ctxAreas i = some a ∧ a.blk = b ∧ a.core.r.g = ((endCapture s c).core c).r.g := by
  have hcore : (mirrorPair (endCapture s c) c).core c = (endCapture s c).core c := mirrorPair_core (endCapture s c) c
  have htlb := endCapture_tlb s c
  intro t
  have ht : t = saveCore s p b c i l := rfl
  clear_value t
  subst ht
  unfold saveCore
  simp only [State.core_setCore]
  generalize endCapture s c = u at hcore htlb ⊢
  rw [hcore, ← htlb]
  refine ⟨rfl, rfl, rfl, ?_, _, (congrArg (fun q => mfind q.ctxAreas i) (State.part_setPart _ _ _)).trans (mfind_mput_same _ _ _), rfl, ?_⟩
  · split <;> rfl
  · dsimp only
    split
    · exact Core.setCtl_g _ _ _
    · rfl

theorem corePreempt_spec {i : Nat} {l : Launch} (hb : (s.part (partOfFold s (foldOf c))).hpre = some b)
    (hl : s.launch (partOfFold s (foldOf c)) b = some l) (hi : freeCtx (s.part (partOfFold s (foldOf c))) = some i)
    (hf : (lastOfFold s (partOfFold s (foldOf c)) b c && ownsFold s (partOfFold s (foldOf c)) b (foldOf c)) = false) :
    Spec.Event (.corePreempt c) s
      ((s.core c).preempt.isSome && preemptPoint (s.core c) && preemptReady s c && !cancelPending s (partOfFold s (foldOf c))) (fun t =>
        (t.core c).occ = none ∧ (t.core c).r.g = [] ∧ (t.core c).preempt = none ∧ (t.core c).tlb = (s.core c).tlb ∧
        ∃ a, mfind (t.part (partOfFold s (foldOf c))).ctxAreas i = some a ∧ a.blk = b ∧ a.core.r.g = ((endCapture s c).core c).r.g) := by
  refine event_spec (exec_corePreempt_alone s b c hb hl hi hf) fun _ => ?_
  rw [preemptCheck_core, preemptCheck_ctxAreas]
  exact saveCore_holds s _ b c i l

/-! ## The area's image (R362) -/

/-- The parts of a core's image that every core has. -/
def imageHead (l : Launch) (run : Bool) : List (Nat × List Byte) :=
  [(0, dwBytes [BitVec.ofNat 64 (0x58544330 + if run then 2 ^ 32 else 0), l.handle,
      BitVec.ofNat 64 (l.indexOf (8 * logFold s (partOfFold s (foldOf c)) (foldOf c) + c % 8)), BitVec.ofNat 64 (s.core c).r.pc.toNat, 0, 0, 0, 0]),
   (0x40, dwBytes ((List.range 32).map fun r => if r = 0 then 0 else mget 0 (s.core c).r.g r)),
   (0x800, dwBytes ((List.range 256).map fun n => if ctlListed n then readCtl s c n else 0)),
   (0x1000, (List.range 4096).flatMap fun i => leBytes 4 ((s.core c).elem (i / 256) (i % 256)).toNat),
   (0x5000, [(s.core c).r.vl, (s.core c).r.lastReq, if (s.core c).vcap.isSome then 1 else 0, (s.core c).repsLeft, (s.core c).entriesHeld].flatMap
      fun n => leBytes 8 n),
   (0x5040, seqImage s (s.core c))]

theorem coreImage_eq (l : Launch) (run : Bool) : ∃ free chutes unbound pads marks deque errs bits spills, coreImage s c b l run =
    imageHead s c l run ++ ((s.core c).streams.map fun x => (0x5400 + 64 * x.1, dwBytes x.2.image)) ++ free ++ chutes ++ unbound ++ pads ++
      [marks, deque, errs, bits, (0x10000, (List.range l.lmem).map fun a => s.byte (localKey c a)), spills] :=
  ⟨_, _, _, _, _, _, _, _, _, rfl⟩

theorem mem_coreImage (l : Launch) (run : Bool) {x : Nat × List Byte} (h : x ∈ imageHead s c l run ∨
    x ∈ (s.core c).streams.map (fun x => (0x5400 + 64 * x.1, dwBytes x.2.image)) ∨
    x = (0x10000, (List.range l.lmem).map fun a => s.byte (localKey c a))) : x ∈ coreImage s c b l run := by
  obtain ⟨free, chutes, unbound, pads, marks, deque, errs, bits, spills, he⟩ := coreImage_eq s b c l run
  rw [he]
  simp only [List.mem_append, List.mem_cons]
  rcases h with h | h | h
  · exact .inl (.inl (.inl (.inl (.inl (.inl h)))))
  · exact .inl (.inl (.inl (.inl (.inl (.inr h)))))
  · exact .inr (.inr (.inr (.inr (.inr (.inl h)))))

/-! ## The force and the resumption (R361, R363) -/

theorem preemptForceTimeout_spec : Spec.Event (.preemptForceTimeout c) s (forceDue s c) (fun t =>
    (t.core c).r = (s.core c).r ∧ (t.core c).wait = none ∧ (t.core c).occ = (s.core c).occ.map (fun o => { o with running := false }) ∧
    t.mem = s.mem ∧ t.parts = s.parts ∧ ∀ d, d ≠ c → t.core d = s.core d) := by
  have hex : exec (.preemptForceTimeout c) s = event s (forceDue s c) (forceStop s c) := rfl
  have hkeep (d : Nat) : (leaveLines s c).core d = s.core d := rfl
  refine event_spec hex fun _ => ?_
  rw [forceStop, State.updCore, State.core_setCore, hkeep]
  exact ⟨rfl, rfl, rfl, rfl, rfl, fun d hd => (State.core_setCore_other _ _ _ _ hd).trans (hkeep d)⟩

theorem launchResume_spec {l : Launch} (hl : s.launch p b = some l) :
    Spec.Event (.launchResume p b) s (resumeDue s p b l) (fun t => t = resumeLaunch s p b l) := by
  refine event_spec (t := resumeLaunch s p b l) ?_ fun _ => rfl
  rw [exec_launchResume]
  unfold execLaunchResume
  rw [hl]

theorem exec_without_launch (hl : s.launch p b = none) : exec (.launchResume p b) s = .next { s with issue := .held } ∧
    exec (.gangPlace p b) s = .next { s with issue := .held } ∧ exec (.noteWrite p b) s = .next { s with issue := .held } := by
  rw [exec_launchResume, exec_gangPlace, exec_noteWrite]
  unfold execLaunchResume execGangPlace execNoteWrite
  rw [hl]
  exact ⟨rfl, rfl, rfl⟩

end Sys2Proof.Machine

namespace Sys2Proof
open Machine

/-- Settles O58: what each event of a pre-emption does where it is due, and what an area holds, from their meanings. -/
theorem preemptionEvents : Obligations.PreemptionEvents := by
  unfold Obligations.PreemptionEvents
  intro s p b c h l
  refine ⟨hpreempt_spec s p b h, exec_corePreempt_idle s c, fun i hb hl hi hf => corePreempt_spec s b c hb hl hi hf, fun run => ?_,
    preemptForceTimeout_spec s c, launchResume_spec s p b, exec_without_launch s p b⟩
  have hhead {x : Nat × List Byte} (hx : x ∈ imageHead s c l run) : x ∈ coreImage s c b l run := mem_coreImage s b c l run (.inl hx)
  refine ⟨hhead ?_, hhead ?_, hhead ?_, hhead ?_, hhead ?_, fun x hx => mem_coreImage s b c l run (.inr (.inl (List.mem_map_of_mem hx))),
    mem_coreImage s b c l run (.inr (.inr rfl))⟩ <;> unfold imageHead
  · exact List.mem_cons_self
  · exact .tail _ List.mem_cons_self
  · exact .tail _ (.tail _ List.mem_cons_self)
  · exact .tail _ (.tail _ (.tail _ List.mem_cons_self))
  · exact .tail _ (.tail _ (.tail _ (.tail _ List.mem_cons_self)))

end Sys2Proof

end

section
/-! PROOFS. Yoked pairs, and the ends of their intervals. -/

namespace Sys2Proof.Machine

/-! ## The cores of a pair (R371) -/

section
variable (s : State) (c : Nat)

theorem mirrorPair_partner (h : (s.core c).yoke.isSome = true) : (mirrorPair s c).core (partnerCore c) =
    { s.core (partnerCore c) with
      r := { (s.core c).r with lanes := (s.core (partnerCore c)).r.lanes, lastReq := (s.core (partnerCore c)).r.lastReq }, journal := [], jspill := [] } := by
  rw [mirrorPair, if_pos h, State.updCore, State.core_setCore]

theorem mirrorPair_other {d : Nat} (h : d ≠ partnerCore c) : (mirrorPair s c).core d = s.core d := by
  unfold mirrorPair
  split
  · exact State.core_setCore_other _ _ _ _ h
  · rfl

theorem mirrorPair_frame : (mirrorPair s c).mem = s.mem ∧ (mirrorPair s c).parts = s.parts ∧ (mirrorPair s c).latch = s.latch ∧
    (mirrorPair s c).cur = s.cur ∧ (mirrorPair s c).nv = s.nv := by
  unfold mirrorPair
  split <;> exact ⟨rfl, rfl, rfl, rfl, rfl⟩

theorem pairUpd_core (g : Core → Core) : (pairUpd s c g).core c = g (s.core c) := by
  rw [pairUpd, updCore_core_other _ _ (partnerCore_ne c), State.updCore, State.core_setCore]

theorem pairUpd_partner (g : Core → Core) : (pairUpd s c g).core (partnerCore c) = g (s.core (partnerCore c)) := by
  rw [pairUpd, State.updCore, State.core_setCore, updCore_core_other _ _ (partnerCore_ne c).symm]

theorem newEpoch_jen (k : Core) {jen : Nat} (h : jen < 2) : fld ((newEpoch k jen).ctl 0x020) 8 8 = jen := by
  rw [newEpoch, Core.ctl_setCtl]
  exact fld_putFld_same _ (by decide) (by decide) h

theorem newEpoch_ctl (k : Core) (jen : Nat) {n : Nat} (h : n ≠ 0x020) : (newEpoch k jen).ctl n = k.ctl n := Core.ctl_setCtl_other _ _ h

theorem newEpoch_keeps (k : Core) (jen : Nat) : (newEpoch k jen).r.g = k.r.g ∧ (newEpoch k jen).r.v = k.r.v ∧ (newEpoch k jen).r.pc = k.r.pc ∧
    (newEpoch k jen).journal = [] ∧ (newEpoch k jen).yoke = k.yoke ∧ (newEpoch k jen).wait = k.wait ∧ (newEpoch k jen).streams = k.streams ∧
    (newEpoch k jen).stores = k.stores ∧ (newEpoch k jen).trans = k.trans ∧ (newEpoch k jen).thirds = k.thirds ∧
    (newEpoch k jen).partnerOf = k.partnerOf := ⟨rfl, rfl, rfl, rfl, rfl, rfl, rfl, rfl, rfl, rfl, rfl⟩

end

/-! ## YOKE (R371) -/

section
variable {s : State} {l : Lit} {d : BitVec 5}

theorem yokeAllowed_ok (h : s.me.inFlagged = false ∧ (s.part (corePart s s.cur)).facc.getLsbD 7 = true) : yokeAllowed s = .ok () := by
  rw [yokeAllowed, fld_eq_bit, h.1, h.2]
  rfl

theorem yokeAllowed_illegal (h : ¬ (s.me.inFlagged = false ∧ (s.part (corePart s s.cur)).facc.getLsbD 7 = true)) :
    yokeAllowed s = .error (trapC cILLEGAL) := by
  have hf : (!s.me.inFlagged && (s.part (corePart s s.cur)).facc.getLsbD 7) = false := by
    rw [← Bool.not_eq_true, Bool.and_eq_true, Bool.not_eq_true']
    exact h
  rw [yokeAllowed, fld_eq_bit, hf, need_false]

/-- The device once the pair has formed, before YOKE's answer is written. -/
def pairFormed (s : State) : State :=
  let s1 := s.updMe fun k => { k with wait := none, yoke := some Yoke.start }
  let s2 := pairEpoch (s1.updCore (partnerCore s.cur) fun k => { k with partnerOf := some s.cur }) s.cur 1
  grantPartner s2 s.cur s2.me.r.lastReq

/-- The leader and its partner as the pair forms, before the partner takes the leader's registers. -/
def pairBound (s : State) : State :=
  ((s.updMe fun k => { k with wait := none, yoke := some Yoke.start }).updCore (partnerCore s.cur) fun k => { k with partnerOf := some s.cur }).updCore s.cur
    fun k => newEpoch k 1

/-- The leader of a pair that has just formed. -/
def Core.leading (k : Core) : Core := newEpoch { k with wait := none, yoke := some Yoke.start } 1

theorem pairBound_core (s : State) : (pairBound s).core s.cur = s.me.leading ∧
    (pairBound s).core (partnerCore s.cur) = { s.core (partnerCore s.cur) with partnerOf := some s.cur } ∧
    ∀ c, c ≠ s.cur → c ≠ partnerCore s.cur → (pairBound s).core c = s.core c := by
  have hne := partnerCore_ne s.cur
  unfold pairBound
  refine ⟨?_, ?_, fun c hc ho => ?_⟩
  · rw [State.updCore, State.core_setCore, updCore_core_other _ _ hne]
    exact congrArg (fun k => newEpoch k 1) (State.core_setCore s s.cur _)
  · rw [updCore_core_other _ _ hne.symm, State.updCore, State.core_setCore]
    exact congrArg (fun k : Core => { k with partnerOf := some s.cur }) (State.core_setCore_other s s.cur _ _ hne.symm)
  · rw [updCore_core_other _ _ hc, updCore_core_other _ _ ho]
    exact State.core_setCore_other s s.cur _ _ hc

theorem pairFormed_eq (s : State) : pairFormed s = (mirrorPair (pairBound s) s.cur).updCore (partnerCore s.cur) fun k =>
    { k with r := { k.r with
        lanes := grantOf (mirrorPair (pairBound s) s.cur) (partnerCore s.cur) (mirrorPair (pairBound s) s.cur).me.r.lastReq
        lastReq := (mirrorPair (pairBound s) s.cur).me.r.lastReq } } := by
  have hy : ((mirrorPair (pairBound s) s.cur).core s.cur).yoke.isSome = true := by
    rw [mirrorPair_core, (pairBound_core s).1]
    rfl
  exact if_pos hy

theorem exec_yoke_ready (hr : Ready s [] [d.toNat]) : exec (.yoke l d) s = settle s (do
    yokeAllowed s
    if s.me.yoke.isSome then setG s d.toNat 0
    else if s.nv.quar.contains s.cur && s.nv.quar.contains (partnerCore s.cur) then setG s d.toNat 2
    else if holdsPersistent s (partnerCore s.cur) then setG (s.updMe fun k => { k with wait := none }) d.toNat 1
    else do
      need (s.core (partnerCore s.cur)).occ.isNone (.stall (s.updMe fun k => { k with wait := some .yoke }))
      setG (pairFormed s) d.toNat 0) := by
  rw [exec_yoke, execYoke, withRegs_ready _ hr]
  rfl

/-- What the pair's cores hold once it has formed. -/
theorem pairFormed_holds (s : State) : let t := pairFormed s
    t.me = s.me.leading ∧
    (t.core (partnerCore s.cur)).partnerOf = some s.cur ∧ (t.core (partnerCore s.cur)).r.g = s.me.r.g ∧
    (t.core (partnerCore s.cur)).r.v = s.me.r.v ∧ (t.core (partnerCore s.cur)).r.pc = s.me.r.pc ∧
    (t.core (partnerCore s.cur)).r.ctl = s.me.leading.r.ctl ∧
    t.mem = s.mem ∧ t.latch = s.latch ∧ t.cur = s.cur ∧ ∀ c, c ≠ s.cur → c ≠ partnerCore s.cur → t.core c = s.core c := by
  intro t
  have ht : t = pairFormed s := rfl
  clear_value t
  rw [ht, pairFormed_eq]
  obtain ⟨hc, ho, hrest⟩ := pairBound_core s
  obtain ⟨hmem, -, hlatch, hcur, -⟩ := mirrorPair_frame (pairBound s) s.cur
  have hpart := mirrorPair_partner (pairBound s) s.cur (by rw [hc]; rfl)
  rw [hc, ho] at hpart
  have hlead : (mirrorPair (pairBound s) s.cur).core s.cur = s.me.leading := (mirrorPair_core _ _).trans hc
  have hother : ∀ c, c ≠ s.cur → c ≠ partnerCore s.cur → (mirrorPair (pairBound s) s.cur).core c = s.core c :=
    fun c h h' => (mirrorPair_other _ _ h').trans (hrest c h h')
  generalize mirrorPair (pairBound s) s.cur = m at hmem hlatch hcur hpart hlead hother ⊢
  have hme : (m.updCore (partnerCore s.cur) fun k => { k with r := { k.r with
      lanes := grantOf m (partnerCore s.cur) m.me.r.lastReq, lastReq := m.me.r.lastReq } }).me = s.me.leading := by
    rw [State.me, show (m.updCore (partnerCore s.cur) _).cur = s.cur from hcur, updCore_core_other _ _ (partnerCore_ne s.cur), hlead]
  refine ⟨hme, ?_, ?_, ?_, ?_, ?_, hmem, hlatch, hcur, fun c h h' => (updCore_core_other _ _ h').trans (hother c h h')⟩ <;>
    rw [State.updCore, State.core_setCore, hpart] <;> rfl

section
variable (hl : s.latch = none) (hr : Ready s [] [d.toNat]) (ha : s.me.inFlagged = false ∧ (s.part (corePart s s.cur)).facc.getLsbD 7 = true)
include hr ha

theorem completes_yoke_paired (hy : s.me.yoke.isSome = true) : Completes (.yoke l d) s (s.wroteG d.toNat 0) := by
  refine completes_of_ok ?_
  rw [exec_yoke_ready hr, yokeAllowed_ok ha, ok_bind, if_pos hy, setG_plain _ (hr.unbound (by simp))]

variable (hy : s.me.yoke = none)
include hy

theorem exec_yoke_single : exec (.yoke l d) s = settle s (
    if s.nv.quar.contains s.cur && s.nv.quar.contains (partnerCore s.cur) then setG s d.toNat 2
    else if holdsPersistent s (partnerCore s.cur) then setG (s.updMe fun k => { k with wait := none }) d.toNat 1
    else do
      need (s.core (partnerCore s.cur)).occ.isNone (.stall (s.updMe fun k => { k with wait := some .yoke }))
      setG (pairFormed s) d.toNat 0) := by
  rw [exec_yoke_ready hr, yokeAllowed_ok ha, ok_bind, hy, Option.isSome_none, if_neg Bool.false_ne_true]

theorem completes_yoke_quarantined (hq : s.cur ∈ s.nv.quar ∧ partnerCore s.cur ∈ s.nv.quar) : Completes (.yoke l d) s (s.wroteG d.toNat 2) := by
  have hc : (s.nv.quar.contains s.cur && s.nv.quar.contains (partnerCore s.cur)) = true := by simpa using hq
  refine completes_of_ok ?_
  rw [exec_yoke_single hr ha hy, if_pos hc, setG_plain _ (hr.unbound (by simp))]

variable (hq : ¬ (s.cur ∈ s.nv.quar ∧ partnerCore s.cur ∈ s.nv.quar))
include hq

theorem exec_yoke_unquarantined : exec (.yoke l d) s = settle s (
    if holdsPersistent s (partnerCore s.cur) then setG (s.updMe fun k => { k with wait := none }) d.toNat 1
    else do
      need (s.core (partnerCore s.cur)).occ.isNone (.stall (s.updMe fun k => { k with wait := some .yoke }))
      setG (pairFormed s) d.toNat 0) := by
  have hc : ¬ (s.nv.quar.contains s.cur && s.nv.quar.contains (partnerCore s.cur)) = true := by simpa using hq
  rw [exec_yoke_single hr ha hy, if_neg hc]

include hl in
theorem completes_yoke_persistent (hp : holdsPersistent s (partnerCore s.cur) = true) :
    Completes (.yoke l d) s ((s.updMe fun k => { k with wait := none }).wroteG d.toNat 1) := by
  refine completes_of_ok ?_
  rw [exec_yoke_unquarantined hr ha hy hq, if_pos hp]
  exact congrArg (settle s) (setG_after (t := s.updMe fun k => { k with wait := none }) hl hl (by rw [State.me_updMe]) (hr.unbound (by simp)) _)

variable (hp : holdsPersistent s (partnerCore s.cur) = false)
include hp

theorem exec_yoke_busy (ho : (s.core (partnerCore s.cur)).occ ≠ none) :
    exec (.yoke l d) s = settle s (.error (.stall (s.updMe fun k => { k with wait := some .yoke }))) := by
  rw [exec_yoke_unquarantined hr ha hy hq, hp, if_neg Bool.false_ne_true, Option.isNone_eq_false_iff.mpr (Option.isSome_iff_ne_none.mpr ho), need_false,
    error_bind]

include hl in
theorem completes_yoke_formed (ho : (s.core (partnerCore s.cur)).occ = none) : Completes (.yoke l d) s ((pairFormed s).wroteG d.toNat 0) := by
  obtain ⟨hme, -, -, -, -, -, -, hlatch, -⟩ := pairFormed_holds s
  refine completes_of_ok ?_
  rw [exec_yoke_unquarantined hr ha hy hq, hp, if_neg Bool.false_ne_true, ho, Option.isNone_none, need_true, ok_bind]
  exact congrArg (settle s) (setG_after hl (hlatch.trans hl) (by rw [hme]; rfl) (hr.unbound (by simp)) _)

end

theorem wroteG_core_other (s : State) (d : Nat) (v : Word) {c : Nat} (h : c ≠ s.cur) : (s.wroteG d v).core c = s.core c := by
  unfold State.wroteG
  split
  · rfl
  · exact State.core_setCore_other _ _ _ _ h

/-- What YOKE leaves at both cores where it answers 0 to a core that was alone. -/
theorem yoke_formed_holds (s : State) (d : BitVec 5) {t : State} (ht : t = (pairFormed s).wroteG d.toNat 0) :
    t.me.yoke = some Yoke.start ∧ (t.core (partnerCore s.cur)).partnerOf = some s.cur ∧ t.me.journal = [] ∧ fld (t.me.ctl 0x020) 8 8 = 1 ∧ t.me.wait = none ∧
    (t.core (partnerCore s.cur)).r.g = s.me.r.g ∧ (t.core (partnerCore s.cur)).r.v = s.me.r.v ∧ (t.core (partnerCore s.cur)).r.pc = s.me.r.pc ∧
    fld ((t.core (partnerCore s.cur)).ctl 0x020) 8 8 = 1 ∧ (d ≠ 0 → mget 0 t.me.r.g d.toNat = 0) ∧ t.mem = s.mem ∧
    ∀ c, c ≠ s.cur → c ≠ partnerCore s.cur → t.core c = s.core c := by
  obtain ⟨hme, hp, hg, hv, hpc, hctl, hmem, -, hcur, hother⟩ := pairFormed_holds s
  have hjen : fld (s.me.leading.ctl 0x020) 8 8 = 1 := newEpoch_jen _ (by decide)
  have hother' {c : Nat} (h : c ≠ s.cur) : ((pairFormed s).wroteG d.toNat 0).core c = (pairFormed s).core c := wroteG_core_other _ _ _ (by rwa [hcur])
  rw [ht, hother' (partnerCore_ne s.cur).symm]
  refine ⟨?_, hp, ?_, ?_, ?_, hg, hv, hpc, ?_, fun hd => ?_, (wroteG_frame _ _ _).1.trans hmem, fun c h h' => (hother' h).trans (hother c h h')⟩
  · rw [wroteG_me, hme]
    split <;> rfl
  · rw [wroteG_me, hme]
    split <;> rfl
  · rw [wroteG_me, hme]
    split <;> exact hjen
  · rw [wroteG_me, hme]
    split <;> rfl
  · rw [Core.ctl, hctl]
    exact hjen
  · have hd' : d.toNat ≠ 0 := fun h => hd (BitVec.eq_of_toNat_eq h)
    rw [wroteG_me, if_neg hd']
    exact mget_mset_same (0 : Word) (pairFormed s).me.r.g d.toNat 0

/-! ## UNYOKE (R371) -/

theorem exec_unyoke_eq : exec (.unyoke l) s = settle s (do
    yokeAllowed s
    match s.me.yoke with
    | none => .ok s
    | some y =>
      if y.ivpos = 0 ∧ y.held = [] then .ok (dissolve s s.cur)
      else .error (.stall (s.updMe fun k => { k with yoke := some { y with close := true } }))) := by
  rw [exec_unyoke, execUnyoke] <;> rfl

theorem dissolve_eq (s : State) (h : s.me.yoke.isSome = true) :
    let own : State := s.updMe fun k => Spec.epoch k 0
    let same : State := own.updCore (partnerCore s.cur) fun k =>
      { k with r := { own.me.r with lanes := k.r.lanes, lastReq := k.r.lastReq }, journal := [], jspill := [] }
    let alone : State := same.updMe fun k => { k with yoke := none }
    dissolve s s.cur = alone.updCore (partnerCore s.cur) fun k => { k with partnerOf := none, r := { k.r with vl := 256, v := [], lanes := 0 } } := by
  have hy : ((s.updCore s.cur fun k => newEpoch k 0).core s.cur).yoke.isSome = true := by
    rw [State.updCore, State.core_setCore]
    exact h
  have hm : pairEpoch s s.cur 0 = (s.updCore s.cur fun k => newEpoch k 0).updCore (partnerCore s.cur) fun k =>
      { k with r := { ((s.updCore s.cur fun k => newEpoch k 0).core s.cur).r with lanes := k.r.lanes, lastReq := k.r.lastReq }, journal := [], jspill := [] } := by
    rw [pairEpoch, mirrorPair, if_pos hy]
  rw [dissolve, hm]
  rfl

end

/-! ## Intervals that agree (R372) -/

section
variable (s : State) (c : Nat) (y : Yoke)

/-- The leader whose interval has agreed, as its new epoch begins. -/
def Core.intervalKept (k : Core) (y : Yoke) : Core := newEpoch ({ k with stores := k.stores ++ y.held }.setCtl 0x091 y.fp) 1

/-- The pair's interval that begins at an agreeing point. -/
def Core.intervalNext (k : Core) (y : Yoke) : Yoke :=
  { Yoke.start with agree := some (k.intervalKept y).r, point := some (k.intervalKept y).point, late := y.late }

theorem Core.intervalKept_fp (k : Core) (y : Yoke) : (k.intervalKept y).ctl 0x091 = y.fp := by
  rw [Core.intervalKept, newEpoch_ctl _ _ (by decide), Core.ctl_setCtl]

/-- Both cores once the agreeing point has moved. -/
def pairMoved : State := mirrorPair (s.setCore c { (s.core c).intervalKept y with yoke := some ((s.core c).intervalNext y) }) c

theorem pairMoved_core : (pairMoved s c y).core c = { (s.core c).intervalKept y with yoke := some ((s.core c).intervalNext y) } := by
  rw [pairMoved, mirrorPair_core, State.core_setCore]

theorem pairMoved_partner : (pairMoved s c y).core (partnerCore c) = { s.core (partnerCore c) with
    r := { ((s.core c).intervalKept y).r with lanes := (s.core (partnerCore c)).r.lanes, lastReq := (s.core (partnerCore c)).r.lastReq }
    journal := [], jspill := [] } := by
  rw [pairMoved, mirrorPair_partner _ _ (by rw [State.core_setCore]; rfl), State.core_setCore, State.core_setCore_other _ _ _ _ (partnerCore_ne c).symm]

theorem intervalAgrees_eq : intervalAgrees s c y =
    if y.state = 2 then pairUpd (pairMoved s c y) c fun k => { k with trans := k.trans + 1 } else pairMoved s c y := rfl

theorem intervalAgrees_holds {t : State} (ht : t = intervalAgrees s c y) :
    (t.core c).stores = (s.core c).stores ++ y.held ∧ (t.core c).journal = [] ∧ (t.core c).ctl 0x091 = y.fp ∧ (t.core (partnerCore c)).ctl 0x091 = y.fp ∧
    (t.core c).r.g = (s.core c).r.g ∧ (t.core (partnerCore c)).r.g = (s.core c).r.g ∧ t.mem = s.mem ∧
    (t.core c).trans = (s.core c).trans + (if y.state = 2 then 1 else 0) ∧ (t.core c).yoke = some ((s.core c).intervalNext y) ∧
    (t.core c).thirds = (s.core c).thirds ∧ (t.core (partnerCore c)).thirds = (s.core (partnerCore c)).thirds := by
  have hmem : (pairMoved s c y).mem = s.mem := (mirrorPair_frame _ c).1
  have hfp := (s.core c).intervalKept_fp y
  have hlead := pairMoved_core s c y
  have hpart := pairMoved_partner s c y
  rw [ht, intervalAgrees_eq]
  by_cases h2 : y.state = 2
  · rw [if_pos h2, if_pos h2, pairUpd_core, pairUpd_partner, hlead, hpart]
    exact ⟨rfl, rfl, hfp, hfp, rfl, rfl, hmem, rfl, rfl, rfl, rfl⟩
  · rw [if_neg h2, if_neg h2, hlead, hpart]
    exact ⟨rfl, rfl, hfp, hfp, rfl, rfl, hmem, rfl, rfl, rfl, rfl⟩

/-! ## Intervals that disagree (R373) -/

/-- A core with other valid bits. -/
def Core.withValid (k : Core) (vs : SMap Bool) : Core := { k with valid := vs }

/-- Lines of local memory restored change no register. -/
theorem restoreLines_frame (js : List JEntry) : (∃ vs, (js.foldl (restoreLine c) s).core c = (s.core c).withValid vs) ∧
    (js.foldl (restoreLine c) s).parts = s.parts ∧ (js.foldl (restoreLine c) s).cur = s.cur := by
  induction js generalizing s with
  | nil => exact ⟨⟨(s.core c).valid, rfl⟩, rfl, rfl⟩
  | cons j js ih =>
    obtain ⟨⟨vs, h1⟩, h2, h3⟩ := ih (restoreLine c s j)
    have hcores : (s.setBytes (localKey c (64 * j.line)) j.bytes).cores = s.cores := (State.setBytes_frame _ _ _).1
    have hcore : ∃ ws, (restoreLine c s j).core c = (s.core c).withValid ws :=
      ⟨_, (State.core_setCore _ _ _).trans (congrArg (fun cs => (mget Core.idle cs c).withValid _) hcores)⟩
    obtain ⟨ws, hcore⟩ := hcore
    rw [List.foldl_cons, h1, hcore]
    refine ⟨⟨vs, rfl⟩, h2.trans ?_, h3.trans ?_⟩
    · exact (State.setBytes_frame j.bytes s (localKey c (64 * j.line))).2.2.1
    · exact (State.setBytes_frame j.bytes s (localKey c (64 * j.line))).2.2.2.1

/-- Shadow regions freed change folds alone. -/
theorem freeShadows_frame (es : List QEntry) : (freeShadows s es).cores = s.cores ∧ (freeShadows s es).parts = s.parts ∧ (freeShadows s es).cur = s.cur := by
  refine List.foldlRecOn es _ (motive := fun t : State => t.cores = s.cores ∧ t.parts = s.parts ∧ t.cur = s.cur) ⟨rfl, rfl, rfl⟩ fun t h e _ => ?_
  split
  · split <;> exact h
  · exact h

/-- What the leader holds at the agreeing point that it is set back to. -/
theorem yokeRestore_holds {t : State} {st n : Nat} (hy : (s.core c).yoke = some y) (ht : t = yokeRestore s c st n) :
    (t.core c).r = { y.agree.getD (s.core c).r with lanes := (s.core c).r.lanes } ∧ (t.core c).journal = [] ∧
    (t.core c).seqr = (y.point.getD (s.core c).point).seqr ∧ (∃ z, (t.core c).yoke = some z ∧ z.state = st ∧ z.held = [] ∧ z.ivpos = 0) ∧
    (t.core c).occ = (s.core c).occ ∧ t.parts = s.parts ∧ t.cur = s.cur := by
  obtain ⟨hc1, hp1, hu1⟩ := freeShadows_frame s ((s.core c).queues.flatMap fun q => q.2.entries.drop (q.2.entries.length - mget 0 y.queued q.1))
  rw [ht, yokeRestore]
  dsimp only
  rw [hy]
  dsimp only
  have hcore : (freeShadows s ((s.core c).queues.flatMap fun q => q.2.entries.drop (q.2.entries.length - mget 0 y.queued q.1))).core c = s.core c :=
    congrArg (fun cs => mget Core.idle cs c) hc1
  generalize freeShadows s _ = u at hcore hp1 hu1 ⊢
  obtain ⟨⟨vs, hc2⟩, hp2, hu2⟩ := restoreLines_frame u c ((s.core c).journal ++ (s.core c).jspill)
  rw [hcore] at hc2
  generalize ((s.core c).journal ++ (s.core c).jspill).foldl (restoreLine c) u = v at hc2 hp2 hu2 ⊢
  refine ⟨?_, ?_, ?_, ?_, ?_, ?_, ?_⟩
  · rw [mirrorPair_core, State.updCore, State.core_setCore, hc2]
    rfl
  · rw [mirrorPair_core, State.updCore, State.core_setCore]
  · rw [mirrorPair_core, State.updCore, State.core_setCore]
  · rw [mirrorPair_core, State.updCore, State.core_setCore]
    exact ⟨_, rfl, rfl, rfl, rfl⟩
  · rw [mirrorPair_core, State.updCore, State.core_setCore, hc2]
    rfl
  · exact (mirrorPair_frame _ _).2.1.trans (hp2.trans hp1)
  · exact (mirrorPair_frame _ _).2.2.2.1.trans (hu2.trans hu1)

theorem intervalDisagrees_first (h : y.state = 1) : intervalDisagrees s c y = yokeRestore s c 2 0 := if_pos h

theorem intervalDisagrees_third (h : y.state ≠ 1) (hf : fld (s.part (corePart s c)).facc 4 4 = 1) (ht : thirdPossible s c = true) :
    intervalDisagrees s c y = s.updCore c fun k => { k with yoke := some { y with state := 3, close := true } } := by
  rw [intervalDisagrees, if_neg h]
  exact if_pos ⟨hf, ht⟩

/-- The pair stopped as pre-empted at its last agreeing point. -/
def pairStopped : State := (yokeRestore s c 1 0).updCore c fun k => { k with occ := k.occ.map fun o => { o with running := false } }

/-- The decision about launch block `blk` that the host owes. -/
def decisionOwed (blk : Nat) : State :=
  let s2 := (pairStopped s c).updPart (corePart s c) fun q => { q with contrec := q.contrec ++ [{ blk := blk, core := c, kind := 2 }] }
  { s2 with msix := s2.msix ++ [(corePart s c, 3)] }

theorem intervalDisagrees_host (h : y.state ≠ 1) (hn : ¬ (fld (s.part (corePart s c)).facc 4 4 = 1 ∧ thirdPossible s c = true)) :
    intervalDisagrees s c y = decisionOwed s c (((s.core c).occ.map (·.blk)).getD 0) := by
  rw [intervalDisagrees, if_neg h]
  exact if_neg hn

theorem decisionOwed_holds {k : Occ} (hy : (s.core c).yoke = some y) (ho : (s.core c).occ = some k) (blk : Nat) :
    ((decisionOwed s c blk).core c).occ = some { k with running := false } ∧
    ((decisionOwed s c blk).core c).r = { y.agree.getD (s.core c).r with lanes := (s.core c).r.lanes } ∧
    ((decisionOwed s c blk).part (corePart s c)).contrec = (s.part (corePart s c)).contrec ++ [{ blk := blk, core := c, kind := 2 }] := by
  obtain ⟨hr, -, -, -, hocc, hparts, -⟩ := yokeRestore_holds s c y (st := 1) (n := 0) hy rfl
  have hcore : (decisionOwed s c blk).core c = (pairStopped s c).core c := by
    unfold decisionOwed
    generalize pairStopped s c = v
    rfl
  have hpart : (pairStopped s c).part (corePart s c) = s.part (corePart s c) := by
    rw [pairStopped, State.part, State.part, ← hparts]
    rfl
  refine ⟨?_, ?_, ?_⟩
  · rw [hcore, pairStopped, State.updCore, State.core_setCore, hocc, ho]
    rfl
  · rw [hcore, pairStopped, State.updCore, State.core_setCore]
    exact hr
  · rw [← hpart]
    exact congrArg Part.contrec (State.part_setPart _ _ _)

end

/-! ## INTERVAL_END and THIRD_RUN_COMPLETE (R372, R373) -/

theorem Core.flushLate_keeps (k : Core) : k.flushLate.r = k.r ∧ k.flushLate.stores = k.stores ∧ k.flushLate.trans = k.trans ∧ k.flushLate.occ = k.occ ∧
    k.flushLate.orphanOf = k.orphanOf ∧ k.flushLate.point = k.point := by
  unfold Core.flushLate
  split <;> exact ⟨rfl, rfl, rfl, rfl, rfl, rfl⟩

section
variable {s : State} {c : Nat} {y : Yoke}

/-- The state whose pair has recorded what has landed. -/
def lateFlushed (s : State) (c : Nat) : State := s.updCore c Core.flushLate

theorem lateFlushed_core : (lateFlushed s c).core c = (s.core c).flushLate := State.core_setCore _ _ _

theorem lateFlushed_partner : (lateFlushed s c).core (partnerCore c) = s.core (partnerCore c) := State.core_setCore_other _ _ _ _ (partnerCore_ne c).symm

theorem lateFlushed_places : SamePlaces s (lateFlushed s c) :=
  .updCore s c (Core.flushLate_keeps _).2.2.2.1 (Core.flushLate_keeps _).2.2.2.2.1

/-- An interval that agrees, seen from the state in which it ends. -/
theorem intervalAgreed_holds {t : State} (ht : t = intervalAgrees (lateFlushed s c) c y) :
    (t.core c).stores = (s.core c).stores ++ y.held ∧ (t.core c).journal = [] ∧ (t.core c).ctl 0x091 = y.fp ∧ (t.core (partnerCore c)).ctl 0x091 = y.fp ∧
    (t.core c).r.g = (s.core c).r.g ∧ (t.core (partnerCore c)).r.g = (s.core c).r.g ∧ t.mem = s.mem ∧
    (t.core c).trans = (s.core c).trans + (if y.state = 2 then 1 else 0) ∧
    ∃ z, (t.core c).yoke = some z ∧ z.state = 1 ∧ z.fp = 0 ∧ z.ivpos = 0 ∧ z.held = [] ∧ z.late = y.late ∧ z.agree.isSome = true := by
  obtain ⟨hst, hj, hfp, hfpo, hg, hgo, hm, htr, hy, -, -⟩ := intervalAgrees_holds (lateFlushed s c) c y ht
  obtain ⟨hr, hstores, htrans, -, -, -⟩ := (s.core c).flushLate_keeps
  rw [lateFlushed_core] at hst hg hgo htr
  rw [hstores] at hst
  rw [hr] at hg hgo
  rw [htrans] at htr
  exact ⟨hst, hj, hfp, hfpo, hg, hgo, hm, htr, _, hy, rfl, rfl, rfl, rfl, rfl, rfl⟩

/-- An interval that differs for the first time, seen from the state in which it ends. -/
theorem intervalRepeated_holds {t : State} (hy : (s.core c).flushLate.yoke = some y) (ht : t = yokeRestore (lateFlushed s c) c 2 0) :
    (t.core c).r = { y.agree.getD (s.core c).r with lanes := (s.core c).r.lanes } ∧ (t.core c).journal = [] ∧
    (t.core c).seqr = (y.point.getD (s.core c).point).seqr ∧ ∃ z, (t.core c).yoke = some z ∧ z.state = 2 ∧ z.held = [] ∧ z.ivpos = 0 := by
  obtain ⟨h1, h2, h3, h4, -⟩ := yokeRestore_holds (lateFlushed s c) c y (by rw [lateFlushed_core, hy]) ht
  obtain ⟨hr, -, -, -, -, hp⟩ := (s.core c).flushLate_keeps
  rw [lateFlushed_core, hr] at h1
  rw [lateFlushed_core, hp] at h3
  exact ⟨h1, h2, h3, h4⟩

theorem lateFlushed_mayThird : (fld ((lateFlushed s c).part (corePart (lateFlushed s c) c)).facc 4 4 = 1 ∧ thirdPossible (lateFlushed s c) c = true) ↔
    (s.part (corePart s c)).facc.getLsbD 4 = true ∧ thirdPossible s c = true := by
  have hthird : thirdPossible (lateFlushed s c) c = thirdPossible s c := rfl
  have hpart : (lateFlushed s c).part (corePart s c) = s.part (corePart s c) := rfl
  rw [lateFlushed_places.corePart, hthird, hpart, ← fld_eq_bit, beq_iff_eq]

theorem completes_intervalEnd (hy : (s.core c).flushLate.yoke = some y) (hd : intervalDue s c = true) : Completes (.intervalEnd c) s
    (if y.other.isNone then intervalAgrees (lateFlushed s c) c y else intervalDisagrees (lateFlushed s c) c y) := by
  have hyu : ((s.updCore c Core.flushLate).core c).yoke = some y := by rw [State.updCore, State.core_setCore, hy]
  refine completes_of_event ?_ hd
  rw [exec_intervalEnd]
  unfold execIntervalEnd
  dsimp only
  rw [hyu]
  rfl

theorem completes_intervalEnd_agreed (hy : (s.core c).flushLate.yoke = some y) (hd : intervalDue s c = true) (ho : y.other = none) :
    Completes (.intervalEnd c) s (intervalAgrees (lateFlushed s c) c y) := by
  have h := completes_intervalEnd hy hd
  rwa [ho, Option.isNone_none, if_pos rfl] at h

theorem completes_intervalEnd_differing (hy : (s.core c).flushLate.yoke = some y) (hd : intervalDue s c = true) (ho : y.other ≠ none) :
    Completes (.intervalEnd c) s (intervalDisagrees (lateFlushed s c) c y) := by
  have h := completes_intervalEnd hy hd
  rwa [Option.isNone_eq_false_iff.mpr (Option.isSome_iff_ne_none.mpr ho), if_neg Bool.false_ne_true] at h

/-- A core is quarantined, and the pair has gone on by a third run. -/
def quarantined (s : State) (c b : Nat) : State :=
  pairUpd { s with nv := { s.nv with quar := if s.nv.quar.contains b then s.nv.quar else b :: s.nv.quar } } c fun k => { k with thirds := k.thirds + 1 }

theorem quarantined_holds (s : State) (c b : Nat) : b ∈ (quarantined s c b).nv.quar ∧ (quarantined s c b).mem = s.mem ∧
    (quarantined s c b).core c = { s.core c with thirds := (s.core c).thirds + 1 } ∧
    (quarantined s c b).core (partnerCore c) = { s.core (partnerCore c) with thirds := (s.core (partnerCore c)).thirds + 1 } := by
  refine ⟨?_, rfl, pairUpd_core _ _ _, pairUpd_partner _ _ _⟩
  change b ∈ if s.nv.quar.contains b then s.nv.quar else b :: s.nv.quar
  split
  · next h => exact List.contains_iff_mem.mp h
  · exact List.mem_cons_self

/-- The pair goes on from a third run that agrees with fingerprint fp, and core b is quarantined. -/
theorem thirdRun_holds (s : State) (c b : Nat) (y : Yoke) {t : State} (ht : t = quarantined (intervalAgrees s c { y with state := 1 }) c b) :
    b ∈ t.nv.quar ∧ t.mem = s.mem ∧ (t.core c).r.g = (s.core c).r.g ∧ (t.core c).thirds = (s.core c).thirds + 1 ∧
    (t.core (partnerCore c)).thirds = (s.core (partnerCore c)).thirds + 1 ∧ (t.core c).stores = (s.core c).stores ++ y.held ∧
    (t.core c).journal = [] ∧ (t.core c).ctl 0x091 = y.fp ∧ (t.core (partnerCore c)).ctl 0x091 = y.fp := by
  obtain ⟨hst, hj, hfp, hfpo, hg, -, hm, -, -, ht1, ht2⟩ := intervalAgrees_holds s c { y with state := 1 } rfl
  obtain ⟨hq, hqm, hqc, hqo⟩ := quarantined_holds (intervalAgrees s c { y with state := 1 }) c b
  rw [ht, hqc, hqo]
  exact ⟨hq, hqm.trans hm, hg, congrArg (· + 1) ht1, congrArg (· + 1) ht2, hst, hj, hfp, hfpo⟩

theorem completes_thirdRun (hy : (s.core c).yoke = some y) (hd : thirdDue s c = true) (fp : Word) : Completes (.thirdRunComplete c fp) s
    (if fp = y.fp then quarantined (intervalAgrees s c { y with state := 1 }) c (partnerCore c)
     else if some fp = y.other then quarantined (intervalAgrees s c { y with state := 1, fp := fp }) c c
     else { takeTrap { yokeRestore s c 1 0 with cur := c } { cause := cYOKE, acc := 3, val := false, data := 0, deferred := none } false with
       cur := (yokeRestore s c 1 0).cur }) := by
  have ho : (if c % 2 = 0 then c / 2 * 2 + 1 else c / 2 * 2) = partnerCore c := by unfold partnerCore; split <;> omega
  have hc : (if c % 2 = 0 then c / 2 * 2 else c / 2 * 2 + 1) = c := by split <;> omega
  refine completes_of_event ?_ hd
  rw [exec_thirdRunComplete]
  unfold execThirdRunComplete
  rw [hy]
  dsimp only
  rw [ho, hc]
  rfl

end
end Sys2Proof.Machine

namespace Sys2Proof
open Machine

/-- Settles O52: YOKE's answers in their order, and what both cores hold after each end of an interval. -/
theorem pairsRunAndCompare : Obligations.PairsRunAndCompare := by
  unfold Obligations.PairsRunAndCompare
  intro s l d hl hr
  refine ⟨fun h => ⟨traps_of_trapC ?_, traps_of_trapC ?_⟩, fun ha hy hq => completes_yoke_quarantined hr ha hy hq,
    fun ha hy hq hp => completes_yoke_persistent hl hr ha hy hq hp, fun ha hy hq hp => ⟨fun ho _ => ?_, fun ho => ?_⟩, fun ha hy => ?_,
    fun y ha hy => ⟨completes_yoke_paired hr ha (by rw [hy]; rfl), fun hi hh => ?_, fun h => ?_⟩,
    fun c y hy hd => ⟨fun ho => ?_, fun ho hst => ?_, fun ho hst hf ht => ?_, fun k ho hst hn hk => ?_⟩,
    fun c y fp hy hd => ⟨fun hfp => ?_, fun hfp ho => ?_, fun hfp ho => ?_⟩⟩
  · rw [exec_yoke_ready hr, yokeAllowed_illegal h, error_bind]
  · rw [exec_unyoke_eq, yokeAllowed_illegal h, error_bind]
  · exact ⟨_, completes_yoke_formed hl hr ha hy hq hp ho, yoke_formed_holds s d rfl⟩
  · rw [exec_yoke_busy hr ha hy hq hp ho, settle_stall]
  · refine completes_of_ok ?_
    rw [exec_unyoke_eq, yokeAllowed_ok ha, ok_bind, hy]
  · refine completes_of_ok ?_
    rw [exec_unyoke_eq, yokeAllowed_ok ha, ok_bind, hy]
    dsimp only
    rw [if_pos ⟨hi, hh⟩, dissolve_eq s (by rw [hy]; rfl)]
    rfl
  · rw [exec_unyoke_eq, yokeAllowed_ok ha, ok_bind, hy]
    dsimp only
    rw [if_neg (by tauto), settle_stall]
  · exact ⟨_, completes_intervalEnd_agreed hy hd ho, intervalAgreed_holds rfl⟩
  · refine ⟨_, completes_intervalEnd_differing hy hd ho, ?_⟩
    rw [intervalDisagrees_first _ _ _ hst]
    exact intervalRepeated_holds hy rfl
  · refine ⟨_, completes_intervalEnd_differing hy hd ho, ?_⟩
    obtain ⟨hf', ht'⟩ := lateFlushed_mayThird.mpr ⟨hf, ht⟩
    rw [intervalDisagrees_third _ _ _ hst hf' ht', State.updCore, State.core_setCore]
    exact ⟨_, rfl, rfl, rfl, rfl⟩
  · refine ⟨_, completes_intervalEnd_differing hy hd ho, ?_⟩
    have hno : ¬ ((s.part (corePart s c)).facc.getLsbD 4 = true ∧ thirdPossible s c = true) := by
      rintro ⟨h1, h2⟩
      rcases hn with h | h
      · exact Bool.false_ne_true (h.symm.trans h1)
      · exact Bool.false_ne_true (h.symm.trans h2)
    obtain ⟨hrk, -, -, hok, -, -⟩ := (s.core c).flushLate_keeps
    have hocc : ((lateFlushed s c).core c).occ = some k := by rw [lateFlushed_core, hok, hk]
    rw [intervalDisagrees_host _ _ _ hst (fun h => hno (lateFlushed_mayThird.mp h)), hocc]
    have h := decisionOwed_holds (lateFlushed s c) c y (by rw [lateFlushed_core, hy]) hocc k.blk
    rw [lateFlushed_places.corePart, lateFlushed_core, hrk] at h
    exact h
  · refine ⟨_, completes_thirdRun hy hd fp, ?_⟩
    rw [if_pos hfp]
    obtain ⟨h1, h2, h3, h4, h5, h6, -⟩ := thirdRun_holds s c (partnerCore c) y rfl
    exact ⟨h1, h2, h3, h4, h5, h6⟩
  · refine ⟨_, completes_thirdRun hy hd fp, ?_⟩
    rw [if_neg hfp, if_pos ho.symm]
    obtain ⟨h1, h2, h3, h4, h5, h6, h7, h8, h9⟩ := thirdRun_holds s c c { y with fp := fp } rfl
    exact ⟨h1, h2, h3, h4, h5, h6, h7, h8, h9⟩
  · have h := completes_thirdRun hy hd fp
    rw [if_neg hfp, if_neg (fun h => ho h.symm)] at h
    obtain ⟨-, -, -, -, -, -, hcur⟩ := yokeRestore_holds s c y (st := 1) (n := 0) hy rfl
    rw [hcur] at h
    exact h

end Sys2Proof

end

section
/-! PROOFS. Drove instructions, which join their core's FIFO or act on its capture. -/

namespace Sys2Proof.Machine

/-! ## Checks that leave the streams as they are -/

theorem KeepsStreams.refl (s : State) : KeepsStreams s s := ⟨rfl, rfl, fun _ => rfl⟩

theorem KeepsStreams.updCore (s : State) (c : Nat) {f : Core → Core} (h : (f (s.core c)).streams = (s.core c).streams) : KeepsStreams s (s.updCore c f) := by
  refine ⟨rfl, rfl, fun d => ?_⟩
  by_cases hd : d = c
  · rw [hd, State.updCore, State.core_setCore, h]
  · rw [State.updCore, State.core_setCore_other _ _ _ _ hd]

theorem dropBad_keepsStreams (s : State) (c va : Nat) : KeepsStreams s (dropBad s c va) := by
  unfold dropBad
  split
  · split
    · exact (KeepsStreams.updCore s c (f := fun k => { k with tlb := k.tlb.erase _ }) rfl).trans ⟨rfl, rfl, fun _ => rfl⟩
    · exact .refl s
  · exact .refl s

theorem translateBy_keepsStreams {cw : State → Nat → Nat → Nat → Except WalkFail Leaf × State} (hcw : ∀ s p job va, KeepsStreams s (cw s p job va).2)
    {s t : State} {c va : Nat} {acc : BitVec 2} {e : TlbEntry} (h : translateBy cw s c va acc = .ok (e, t)) : KeepsStreams s t := by
  rw [translateBy] at h
  dsimp only at h
  cases hm : isMgmt c with
  | true =>
    rw [hm, if_pos rfl] at h
    cases h
    exact .refl s
  | false =>
    rw [hm, if_neg Bool.false_ne_true] at h
    refine (dropBad_keepsStreams s c va).trans ?_
    generalize dropBad s c va = s1 at h ⊢
    cases htl : tlbFind (s1.core c).tlb ((s.core c).job s) va with
    | some e1 =>
      rw [htl] at h
      cases h
      exact .refl _
    | none =>
      rw [htl] at h
      dsimp only at h
      split at h
      · cases h
      · split at h <;> cases h
      · cases hw : walkUp s1 c reqWalk va with
        | false =>
          rw [hw, Bool.not_false, if_pos rfl] at h
          cases h
        | true =>
          rw [hw, Bool.not_true, if_neg Bool.false_ne_true] at h
          refine (hcw s1 (corePart s c) ((s.core c).job s) va).trans ?_
          generalize cw s1 (corePart s c) ((s.core c).job s) va = x at h ⊢
          obtain ⟨r, s2⟩ := x
          rcases r with (_ | _) | l
          · cases h
          · cases h
          · cases h
            exact .updCore s2 c rfl

theorem critWalk_keepsStreams (s : State) (p job va : Nat) : KeepsStreams s (critWalk s p job va).2 := by
  obtain ⟨hl, hc, hcores, -, -⟩ := critWalk_keeps s p job va
  exact ⟨hl, hc, fun d => congrArg (fun cs => (mget Core.idle cs d).streams) hcores⟩

theorem translate_keepsStreams {s t : State} {c va : Nat} {acc : BitVec 2} {e : TlbEntry} (h : translate s c va acc = .ok (e, t)) : KeepsStreams s t := by
  rw [translate_def] at h
  exact translateBy_keepsStreams critWalk_keepsStreams h

theorem checkWord_keepsStreams {s t : State} {c v n : Nat} {w det : Bool} {e : Option TlbEntry} (h : checkWord s c v n w det = .ok (e, t)) :
    KeepsStreams s t := by
  unfold checkWord at h
  dsimp only at h
  split at h
  · obtain ⟨-, h⟩ := of_need h
    cases w with
    | true =>
      obtain ⟨-, h⟩ := of_need h
      cases h
      exact .refl s
    | false =>
      obtain ⟨-, h⟩ := of_need h
      obtain ⟨-, h⟩ := of_need h
      obtain ⟨-, h⟩ := of_need h
      cases h
      exact .refl s
  · obtain ⟨-, h⟩ := of_need h
    obtain ⟨-, h⟩ := of_need h
    obtain ⟨-, h⟩ := of_need h
    cases h
    exact .refl s
  · obtain ⟨-, h⟩ := of_need h
    obtain ⟨⟨e1, s1⟩, htr, h⟩ := of_ok_bind h
    obtain ⟨-, h⟩ := of_need h
    refine (translate_keepsStreams htr).trans ?_
    split at h
    · cases h
    · obtain ⟨-, h⟩ := of_need h
      cases h
      exact .refl _
  · obtain ⟨-, h⟩ := of_need h
    cases h
  · obtain ⟨-, h⟩ := of_need h
    cases h

theorem checkRange_keepsStreams {s t : State} {c v n : Nat} {w det : Bool} {tr : SMap Nat} (h : checkRange s c v n w det = .ok (tr, t)) :
    KeepsStreams s t := by
  unfold checkRange at h
  obtain ⟨⟨tr1, s1⟩, hf, h⟩ := of_ok_bind h
  obtain ⟨-, h⟩ := of_need h
  cases h
  refine foldlM_keeps (fun x : SMap Nat × State => KeepsStreams s x.2) (fun x p x' hx hkeep => ?_) _ hf (.refl s)
  obtain ⟨⟨e, s2⟩, hw, hx⟩ := of_ok_bind hx
  have h2 : KeepsStreams s s2 := hkeep.trans (checkWord_keepsStreams hw)
  cases e <;> cases hx <;> exact h2

/-! ## Requests join the FIFO (R312, R313) -/

section
variable {s : State} {l : Lit} {d a b : BitVec 5} {w : BitVec 3} {key : Word32}

theorem droveAccept_ok {r : DroveReq} (hb : boundG s.pre r.rd = none) (hn : s.me.drove.length < 8) (hf : s.me.fences = []) (hl : s.me.loads = []) :
    droveAccept s r = .ok (Spec.droveJoins s r) := by
  have hroom : gRoom s s r.rd = .ok () := by rw [gRoom, hb]
  have hfence (cls : Nat) (rs : List Span) : s.me.fenced cls rs = false := by rw [Core.fenced, hf, hl]; rfl
  rw [droveAccept]
  dsimp only
  rw [hroom, ite_self, ok_bind, hfence, decide_eq_true hn, Bool.not_false, Bool.and_self, need_true, ok_bind]
  rfl

theorem droveKey_ok (hk : Spec.droveKey s a key) : droveKey s a.toNat = .ok key := by
  obtain ⟨hw, he, hbad⟩ := hk
  have hkey : (gval s a.toNat).truncate 32 = key := by
    refine BitVec.eq_of_toNat_eq ?_
    rw [BitVec.toNat_setWidth, hw]
    exact Nat.mod_eq_of_lt key.isLt
  have hhi : fld (gval s a.toNat) 63 32 = 0 := by
    have := key.isLt
    rw [fld, hw]
    omega
  have hnot : (s.fold (devFold s (corePart s s.cur) (keyHome key))).badKeys.contains key = false := by
    simpa [keyHome] using hbad
  rw [droveKey, he]
  dsimp only
  rw [hhi, need_holds rfl, ok_bind, hkey, hnot, Bool.not_false, need_true, ok_bind]

theorem heldKey_none {k : Core} (h : ∀ c, k.cap = some c → c.key ≠ key) : heldKey k key = .ok none := by
  have hf : k.cap.filter (fun x => x.key == key) = none := by
    cases hc : k.cap with
    | none => rfl
    | some c => simp [Option.filter, h c hc]
  rw [heldKey, hf]

theorem heldKey_some {k : Core} {c : Capture} {n : Nat} (hc : k.cap = some c) (hk : c.key = key) (hs : c.slot = some n) (hd : k.drove = []) :
    heldKey k key = .ok (some c) := by
  have hf : k.cap.filter (fun x => x.key == key) = some c := by simp [hc, Option.filter, hk]
  rw [heldKey, hf]
  dsimp only
  rw [hs, hd]
  rfl

/-- The checks that open a drove instruction with a key pass. -/
theorem droveKey_bind (hk : Spec.droveKey s a key) {α : Type} (f : Word32 → Res α) : (droveKey s a.toNat >>= f) = f key := by
  rw [droveKey_ok hk, ok_bind]

theorem unflagged_ok (h : s.me.inFlagged = false) : unflagged s = .ok () := by rw [unflagged, h]; rfl

theorem needHome_eq : needHome s key = need (decide (logFold s (corePart s s.cur) (foldOf s.cur) = key.toNat / 2 ^ 22)) (trapC cPERMISSION) := rfl

section
variable (hr : Ready s [a.toNat, b.toNat, d.toNat] [d.toNat])
include hr

theorem exec_dboard_ready : exec (.dboard l d a b) s = settle s (do
    let key ← droveKey s a.toNat
    unflagged s
    needHome s key
    droveAccept s (droveReq s .board key d.toNat (Spec.rb s l b) 0 0)) := by
  rw [exec_dboard, execDboard, withRegs_ready _ (hr.mono (by simp) (by simp))]
  simp only [rbval_toNat]

theorem exec_dread_ready : exec (.dread l d a w) s = settle s (do
    need (decide (w ≠ 7)) (trapC cILLEGAL)
    let key ← droveKey s a.toNat
    match ← heldKey s.me key with
    | some x => setG (droveDone s s.cur x.slot) d.toNat (x.buf.getD w.toNat 0)
    | none => droveAccept s (droveReq s .read key d.toNat 0 0 w.toNat)) := by
  rw [exec_dread, execDread, withRegs_ready _ (hr.mono (by simp) (by simp))] <;> rfl

theorem exec_dput_ready : exec (.dput l a b w) s = settle s (do
    need (decide (w ≠ 7)) (trapC cILLEGAL)
    let key ← droveKey s a.toNat
    unflagged s
    match ← heldKey s.me key with
    | none => .error (trapC cILLEGAL)
    | some x => .ok (droveDone (s.updMe fun k => { k with cap := some { x with buf := x.buf.set w.toNat (Spec.rb s l b) } }) s.cur x.slot)) := by
  rw [exec_dput, execDput, withRegs_ready _ (hr.mono (by simp) (by simp))]
  simp only [rbval_toNat] <;> rfl

theorem exec_drel_ready : exec (.drel l a) s = settle s (do
    let key ← droveKey s a.toNat
    unflagged s
    match ← heldKey s.me key with
    | none => .error (trapC cILLEGAL)
    | some _ => droveAccept s (droveReq s .rel key 0 0 0 0)) := by
  rw [exec_drel, execDrel, withRegs_ready _ (hr.mono (by simp) (by simp))] <;> rfl

theorem exec_dcap_ready : exec (.dcap l a) s = settle s (do
    let key ← droveKey s a.toNat
    unflagged s
    need s.me.cap.isNone (trapC cILLEGAL)
    let s1 ← droveAccept s (droveReq s .cap key 0 0 0 0)
    .ok (s1.updMe fun k => { k with cap := some { key := key, slot := none, buf := [], orig := [], since := s.clk } })) := by
  rw [exec_dcap, execDcap, withRegs_ready _ (hr.mono (by simp) (by simp))]

theorem exec_dlap_ready : exec (.dlap l d) s = settle s (do
    need (!s.me.inCompute) (trapC cDETERM)
    match s.me.droveErr with
    | some (e, _) => .error (e.trap 8)
    | none => do
      need s.me.drove.isEmpty (.stall s)
      setG s d.toNat (s.me.ctl 0x0D0)) := by
  rw [exec_dlap, execDlap, withRegs_ready _ (hr.mono (by simp) (by simp))] <;> rfl

theorem exec_dalight_ready : exec (.dalight l d a b) s = settle s (do
    let key ← droveKey s a.toNat
    unflagged s
    needHome s key
    need (decide ((Spec.rb s l b).toNat / 2 ^ 48 % 64 = 0)) (trapC cTAG)
    need (decide ((Spec.rb s l b).toNat % 2 ^ 48 + 56 ≤ 2 ^ 48)) (trapC cTAG)
    need (decide ((Spec.rb s l b).toNat % 2 ^ 48 % 8 = 0)) (trapA cMISALIGN true ((Spec.rb s l b).toNat % 2 ^ 48))
    need (windowOf ((Spec.rb s l b).toNat % 2 ^ 48) == .common || windowOf ((Spec.rb s l b).toNat % 2 ^ 48) == .global)
      (trapA cPERMISSION true ((Spec.rb s l b).toNat % 2 ^ 48))
    let (tr, s1) ← checkRange s s.cur ((Spec.rb s l b).toNat % 2 ^ 48) 56 true false
    droveAccept s1 { droveReq s .alight key d.toNat (BitVec.ofNat 64 ((Spec.rb s l b).toNat % 2 ^ 48)) 0 0 with tr := tr }) := by
  rw [exec_dalight, execDalight, withRegs_ready _ (hr.mono (by simp) (by simp))]
  simp only [rbval_toNat, ptrAddr_toNat, fld_reserved] <;> rfl

omit hr in
/-- Every DRMW is `drmw` with its operation, and its new word the operation's. -/
theorem exec_drmw {i : Instr} {op : Nat} {f : Word → Word → Word → Word} (h : Spec.Drmw i l op d a b w f) :
    exec i s = drmw s l op d.toNat a.toNat b.toNat w.toNat ∧ f = drmwNew op := by
  cases h <;> exact ⟨rfl, rfl⟩

theorem drmw_ready (op : Nat) : drmw s l op d.toNat a.toNat b.toNat w.toNat = settle s (do
    need (decide (w.toNat ≠ 7)) (trapC cILLEGAL)
    let key ← droveKey s a.toNat
    need (!(s.me.inFlagged && [5, 6, 10, 11].contains op)) (trapC cDETERM)
    match ← heldKey s.me key with
    | some x =>
      setG (droveDone (s.updMe fun k => { k with cap := some { x with buf := x.buf.set w.toNat (drmwNew op (x.buf.getD w.toNat 0) (Spec.rb s l b)
        (gval s d.toNat)) } }) s.cur x.slot) d.toNat (x.buf.getD w.toNat 0)
    | none => droveAccept s (droveReq s (.rmw op) key d.toNat (Spec.rb s l b)
        (if s.me.inFlagged then BitVec.ofNat 64 (fld (s.me.ctl 0x0C0) 15 0) else gval s d.toNat) w.toNat)) := by
  have hr' : Ready s ([a.toNat, b.toNat] ++ if op = 11 then [d.toNat] else []) [d.toNat] := by
    refine hr.mono (fun r h => ?_) (by simp)
    rcases List.mem_append.mp h with h | h
    · exact List.mem_append_left [d.toNat] h
    · split at h
      · simp only [List.mem_singleton] at h
        simp [h]
      · cases h
  rw [drmw, withRegs_ready _ hr']
  simp only [rbval_toNat] <;> rfl

/-! ## A capture's buffer (R316, R318) -/

omit hr in
theorem droveDone_keepsStreams (t : State) (c : Nat) (n : Option Nat) : KeepsStreams t (droveDone t c n) := .updCore t c rfl

omit hr in
theorem captured_keepsStreams (t : State) (x : Capture) (c : Nat) (n : Option Nat) :
    KeepsStreams t (droveDone (t.updMe fun k => { k with cap := some x }) c n) :=
  (KeepsStreams.updCore t t.cur (f := fun k => { k with cap := some x }) rfl).trans (droveDone_keepsStreams _ c n)

section
variable (hl : s.latch = none) (hk : Spec.droveKey s a key)
include hl hk

/-- A write of rd after a change that keeps the streams. -/
theorem setG_kept {t : State} (h : KeepsStreams s t) (v : Word) : setG t d.toNat v = .ok (t.wroteG d.toNat v) :=
  h.setG hl (by rw [← pre_eq_me hl]; exact hr.unbound (by simp)) v

theorem dboard_holds (hn : s.me.drove.length < 8) (hf : s.me.fences = []) (hld : s.me.loads = []) (hu : s.me.inFlagged = false) :
    (logFold s (corePart s s.cur) (foldOf s.cur) = key.toNat / 2 ^ 22 →
      Completes (.dboard l d a b) s (Spec.droveJoins s (droveReq s .board key d.toNat (Spec.rb s l b) 0 0))) ∧
    (¬ logFold s (corePart s s.cur) (foldOf s.cur) = key.toNat / 2 ^ 22 → Traps (.dboard l d a b) s cPERMISSION) := by
  refine ⟨fun h => completes_of_ok ?_, fun h => traps_of_trapC ?_⟩ <;>
    rw [exec_dboard_ready hr, droveKey_bind hk, unflagged_ok hu, ok_bind, needHome_eq]
  · rw [need_holds h, ok_bind, droveAccept_ok (hr.unbound (by simp [droveReq])) hn hf hld]
  · rw [need_fails h, error_bind]

theorem completes_dalight {v : Nat} {tr : SMap Nat} {u : State} (hv : v = (Spec.rb s l b).toNat % 2 ^ 48) (hu : s.me.inFlagged = false)
    (hh : logFold s (corePart s s.cur) (foldOf s.cur) = key.toNat / 2 ^ 22) (ht : (Spec.rb s l b).toNat / 2 ^ 48 % 64 = 0) (h8 : v % 8 = 0)
    (hend : v + 56 ≤ 2 ^ 48) (hw : windowOf v = .common ∨ windowOf v = .global) (hck : checkRange s s.cur v 56 true false = .ok (tr, u))
    (hn : u.me.drove.length < 8) (hf : u.me.fences = []) (hld : u.me.loads = []) :
    Completes (.dalight l d a b) s (Spec.droveJoins u { droveReq s .alight key d.toNat (BitVec.ofNat 64 v) 0 0 with tr := tr }) := by
  have hwin : (windowOf v == .common || windowOf v == .global) = true := by
    rcases hw with h | h <;> rw [h] <;> rfl
  have hkeep := checkRange_keepsStreams hck
  have hb : boundG u.pre d.toNat = none := by
    rw [State.pre, hkeep.latch, hl]
    exact (boundG_congr_streams (k := s.me) (by rw [State.me, State.me, hkeep.cur, hkeep.streams]) _).trans
      (by rw [← pre_eq_me hl]; exact hr.unbound (by simp))
  refine completes_of_ok ?_
  rw [exec_dalight_ready hr, droveKey_bind hk, unflagged_ok hu, ok_bind, needHome_eq, need_holds hh, ok_bind, need_holds ht, ok_bind, ← hv,
    need_holds hend, ok_bind, need_holds h8, ok_bind, hwin, need_true, ok_bind, hck, ok_bind]
  dsimp only
  rw [droveAccept_ok hb hn hf hld]

theorem completes_dread_joins (hn : s.me.drove.length < 8) (hf : s.me.fences = []) (hld : s.me.loads = []) (hw : w ≠ 7)
    (hc : ∀ c, s.me.cap = some c → c.key ≠ key) :
    Completes (.dread l d a w) s (Spec.droveJoins s (droveReq s .read key d.toNat 0 0 w.toNat)) := by
  refine completes_of_ok ?_
  rw [exec_dread_ready hr, need_holds hw, ok_bind, droveKey_bind hk, heldKey_none hc, ok_bind]
  dsimp only
  rw [droveAccept_ok (hr.unbound (by simp [droveReq])) hn hf hld]

/-- A DRMW whose operation the launch allows, past its checks. -/
theorem drmw_allowed {op : Nat} (hw : w ≠ 7) (ho : s.me.inFlagged = false ∨ op ∉ [5, 6, 10, 11]) :
    drmw s l op d.toNat a.toNat b.toNat w.toNat = settle s (do
      match ← heldKey s.me key with
      | some x =>
        setG (droveDone (s.updMe fun k => { k with cap := some { x with buf := x.buf.set w.toNat (drmwNew op (x.buf.getD w.toNat 0) (Spec.rb s l b)
          (gval s d.toNat)) } }) s.cur x.slot) d.toNat (x.buf.getD w.toNat 0)
      | none => droveAccept s (droveReq s (.rmw op) key d.toNat (Spec.rb s l b)
          (if s.me.inFlagged then BitVec.ofNat 64 (fld (s.me.ctl 0x0C0) 15 0) else gval s d.toNat) w.toNat)) := by
  have hw' : w.toNat ≠ 7 := fun h => hw (BitVec.eq_of_toNat_eq h)
  have hok : (!(s.me.inFlagged && [5, 6, 10, 11].contains op)) = true := by
    rcases ho with h | h
    · rw [h]
      rfl
    · have : [5, 6, 10, 11].contains op = false := by simpa using h
      rw [this, Bool.and_false]
      rfl
  rw [drmw_ready hr, need_holds hw', ok_bind, droveKey_bind hk, hok, need_true, ok_bind] <;> rfl

theorem completes_drmw_joins {op : Nat} (hn : s.me.drove.length < 8) (hf : s.me.fences = []) (hld : s.me.loads = []) (hw : w ≠ 7)
    (ho : s.me.inFlagged = false ∨ op ∉ [5, 6, 10, 11]) (hc : ∀ c, s.me.cap = some c → c.key ≠ key) :
    drmw s l op d.toNat a.toNat b.toNat w.toNat = settle s (.ok (Spec.droveJoins s (droveReq s (.rmw op) key d.toNat (Spec.rb s l b)
      (if s.me.inFlagged then BitVec.ofNat 64 (fld (s.me.ctl 0x0C0) 15 0) else gval s d.toNat) w.toNat))) := by
  rw [drmw_allowed hr hl hk hw ho, heldKey_none hc, ok_bind]
  dsimp only
  rw [droveAccept_ok (hr.unbound (by simp [droveReq])) hn hf hld]

theorem drmw_determ {op : Nat} (hw : w ≠ 7) (hu : s.me.inFlagged = true) (ho : op ∈ [5, 6, 10, 11]) :
    drmw s l op d.toNat a.toNat b.toNat w.toNat = settle s (.error (trapC cDETERM)) := by
  have hw' : w.toNat ≠ 7 := fun h => hw (BitVec.eq_of_toNat_eq h)
  have hno : [5, 6, 10, 11].contains op = true := by simpa using ho
  rw [drmw_ready hr, need_holds hw', ok_bind, droveKey_bind hk, hu, hno, Bool.and_self, Bool.not_true, need_false, error_bind]

theorem dcap_holds (hn : s.me.drove.length < 8) (hf : s.me.fences = []) (hld : s.me.loads = []) (hu : s.me.inFlagged = false) :
    (s.me.cap = none → Completes (.dcap l a) s ((Spec.droveJoins s (droveReq s .cap key 0 0 0 0)).updMe fun k =>
      { k with cap := some { key := key, slot := none, buf := [], orig := [], since := s.clk } })) ∧
    (s.me.cap ≠ none → Traps (.dcap l a) s cILLEGAL) := by
  refine ⟨fun h => completes_of_ok ?_, fun h => traps_of_trapC ?_⟩ <;> rw [exec_dcap_ready hr, droveKey_bind hk, unflagged_ok hu, ok_bind]
  · rw [h, Option.isNone_none, need_true, ok_bind, droveAccept_ok (by rfl) hn hf hld, ok_bind]
  · rw [Option.isNone_eq_false_iff.mpr (Option.isSome_iff_ne_none.mpr h), need_false, error_bind]

section
variable {c : Capture} {n : Nat} (hc : s.me.cap = some c) (hck : c.key = key) (hs : c.slot = some n) (hd : s.me.drove = [])
include hc hck hs hd

theorem completes_dread_captured (hw : w ≠ 7) :
    Completes (.dread l d a w) s ((droveDone s s.cur c.slot).wroteG d.toNat (c.buf.getD w.toNat 0)) := by
  refine completes_of_ok ?_
  rw [exec_dread_ready hr, need_holds hw, ok_bind, droveKey_bind hk, heldKey_some hc hck hs hd, ok_bind]
  dsimp only
  rw [setG_kept hr hl hk (droveDone_keepsStreams _ _ _)]

theorem drmw_captured {op : Nat} (hw : w ≠ 7) (hu : s.me.inFlagged = false) : drmw s l op d.toNat a.toNat b.toNat w.toNat = settle s (.ok
    ((droveDone (s.updMe fun k => { k with cap := some { c with buf := c.buf.set w.toNat (drmwNew op (c.buf.getD w.toNat 0) (Spec.rb s l b)
      (gval s d.toNat)) } }) s.cur c.slot).wroteG d.toNat (c.buf.getD w.toNat 0))) := by
  rw [drmw_allowed hr hl hk hw (.inl hu), heldKey_some hc hck hs hd, ok_bind]
  dsimp only
  rw [setG_kept hr hl hk (captured_keepsStreams _ _ _ _)]

theorem completes_dput_captured (hw : w ≠ 7) (hu : s.me.inFlagged = false) : Completes (.dput l a b w) s
    (droveDone (s.updMe fun k => { k with cap := some { c with buf := c.buf.set w.toNat (Spec.rb s l b) } }) s.cur c.slot) := by
  refine completes_of_ok ?_
  rw [exec_dput_ready hr, need_holds hw, ok_bind, droveKey_bind hk, unflagged_ok hu, ok_bind, heldKey_some hc hck hs hd, ok_bind]

theorem completes_drel_captured (hf : s.me.fences = []) (hld : s.me.loads = []) (hu : s.me.inFlagged = false) :
    Completes (.drel l a) s (Spec.droveJoins s (droveReq s .rel key 0 0 0 0)) := by
  have hn : s.me.drove.length < 8 := by rw [hd]; decide
  refine completes_of_ok ?_
  rw [exec_drel_ready hr, droveKey_bind hk, unflagged_ok hu, ok_bind, heldKey_some hc hck hs hd, ok_bind]
  dsimp only
  rw [droveAccept_ok (by rfl) hn hf hld]

end
end
end
end

theorem droveInstructionsJoinTheFifo : Spec.DroveInstructionsJoinTheFifo := by
  intro s l d a b w key hl hr
  refine ⟨fun h => ⟨traps_of_trapC ?_, traps_of_trapC ?_⟩, fun hk hn hf hld =>
      ⟨fun hu hh => (dboard_holds hr hl hk hn hf hld hu).1 hh, fun hu hh => (dboard_holds hr hl hk hn hf hld hu).2 hh,
        fun tr u hu hh ht h8 hend hw hck hn' hf' hld' => completes_dalight hr hl hk rfl hu hh ht h8 hend hw hck hn' hf' hld',
        fun hw hc => ⟨completes_dread_joins hr hl hk hn hf hld hw hc, fun i op f hi hu => completes_of_ok ?_, fun i op f hi hu ho => completes_of_ok ?_⟩,
        fun i op f hi hw hu ho => traps_of_trapC ?_, fun hu hc => (dcap_holds hr hl hk hn hf hld hu).1 hc,
        fun hu hc => (dcap_holds hr hl hk hn hf hld hu).2 hc, fun c n hc hck hs hd =>
          ⟨fun hw => completes_dread_captured hr hl hk hc hck hs hd hw, fun i op f hi hw hu => completes_of_ok ?_,
            fun hw hu => completes_dput_captured hr hl hk hc hck hs hd hw hu, fun hu => completes_drel_captured hr hl hk hc hck hs hd hf hld hu⟩⟩,
    fun h => traps_of_trapC ?_, fun h he hd => completes_of_ok ?_, fun h he hd => ?_⟩
  · rw [exec_dread_ready hr, need_fails (not_not.mpr h), error_bind]
  · rw [exec_dput_ready hr, need_fails (not_not.mpr h), error_bind]
  · rw [(exec_drmw hi).1, completes_drmw_joins hr hl hk hn hf hld hw (.inl hu) hc, hu, if_neg Bool.false_ne_true]
    rfl
  · have hdom : fld (s.me.ctl 0x0C0) 15 0 = (s.me.ctl 0x0C0).toNat % 2 ^ 16 := by simp [fld]
    rw [(exec_drmw hi).1, completes_drmw_joins hr hl hk hn hf hld hw (.inr ho) hc, hu, if_pos rfl, hdom]
    rfl
  · rw [(exec_drmw hi).1, drmw_determ hr hl hk hw hu ho]
  · rw [(exec_drmw hi).1, drmw_captured hr hl hk hc hck hs hd hw hu, (exec_drmw (s := s) hi).2]
  · rw [exec_dlap_ready hr, h, Bool.not_true, need_false, error_bind]
  · rw [exec_dlap_ready hr, h, Bool.not_false, need_true, ok_bind, he]
    dsimp only
    rw [hd, List.isEmpty_nil, need_true, ok_bind, setG_plain _ (hr.unbound (by simp))]
  · have hne : s.me.drove.isEmpty = false := by simpa using hd
    rw [exec_dlap_ready hr, h, Bool.not_false, need_true, ok_bind, he]
    dsimp only
    rw [hne, need_false, error_bind, settle_stall]

end Sys2Proof.Machine

end

section
/-! PROOFS. Requests at the drove's stops, and their failures. -/

namespace Sys2Proof.Machine

/-! ## Slots read and written (R259, R260) -/

section
variable (s : State) (i : Nat)

theorem slot_setSlot (x : DSlot) : (s.setSlot i x).slot i = x := mget_mset_same DSlot.empty s.slots i x

theorem slot_setSlot_other (x : DSlot) {k : Nat} (h : k ≠ i) : (s.setSlot i x).slot k = s.slot k := mget_mset_other DSlot.empty s.slots i k x h

theorem readSlot_slot : (readSlot s i).slot i = { s.slot i with soft := false } := by
  unfold readSlot
  split
  · exact slot_setSlot s i _
  · next h =>
    have hf : (s.slot i).soft = false := by simpa using h
    generalize s.slot i = x at hf ⊢
    obtain ⟨soft, state, key, hold, words⟩ := x
    subst hf
    rfl

theorem readSlot_slot_other {k : Nat} (h : k ≠ i) : (readSlot s i).slot k = s.slot k := by
  unfold readSlot
  split
  · exact slot_setSlot_other s i _ h
  · rfl

theorem readSlot_frame : (readSlot s i).cores = s.cores ∧ (readSlot s i).folds = s.folds ∧ (readSlot s i).mem = s.mem ∧ (readSlot s i).clk = s.clk := by
  unfold readSlot
  split <;> exact ⟨rfl, rfl, rfl, rfl⟩

end

/-! ## Results delivered to the core that asked (R88, R313) -/

theorem deliverAction_frame {s : State} {c d : Nat} (v : Word) (hb : boundG (s.core c) d = none) :
    ∃ t, deliverAction s c d v = some t ∧ t.mem = s.mem ∧ t.clk = s.clk ∧ t.slots = s.slots ∧ t.folds = s.folds ∧
      (t.core c).drove = (s.core c).drove ∧ (d ≠ 0 → mget 0 (t.core c).r.g d = v) := by
  have hg : deliverG s c d v = some (s.setCore c ((s.core c).received d v)) := deliverG_plain v hb
  have hdrove : ((s.core c).received d v).drove = (s.core c).drove := by
    unfold Core.received
    split <;> rfl
  refine ⟨(s.setCore c ((s.core c).received d v)).updCore c (·.agreedOn d v), by rw [deliverAction, hg]; rfl, rfl, rfl, rfl, rfl, ?_, fun hd => ?_⟩ <;>
    rw [State.updCore, State.core_setCore, State.core_setCore]
  · exact hdrove
  · exact Core.received_same _ _ hd

/-! ## The stop acts on a slot (R312 to R316) -/

section
variable {s : State} {c j i t : Nat} {r : DroveReq}

/-- The device once the request is taken from its FIFO and the slot is read. -/
def slotReached (s : State) (c j i : Nat) : State := readSlot (dropRequest s c j) i

theorem slotReached_core : (slotReached s c j i).core c = { s.core c with drove := (s.core c).drove.eraseIdx j } := by
  rw [slotReached, State.core, (readSlot_frame _ _).1]
  exact State.core_setCore _ _ _

theorem slotReached_frame : (slotReached s c j i).mem = s.mem ∧ (slotReached s c j i).clk = s.clk ∧ (slotReached s c j i).folds = s.folds ∧
    (slotReached s c j i).slot i = { s.slot i with soft := false } ∧ ∀ k, k ≠ i → (slotReached s c j i).slot k = s.slot k := by
  obtain ⟨-, h2, h3, h4⟩ := readSlot_frame (dropRequest s c j) i
  exact ⟨h3, h4, h2, readSlot_slot _ _, fun k hk => readSlot_slot_other _ _ hk⟩

/-- The device once a request has completed at a slot that passes. -/
def slotDone (u : State) (c i clk : Nat) : State := (droveDone u c (some i)).updFold (foldOf c) fun v => { v with stopNext := clk + 1 }

theorem droveDone_core (u : State) (c : Nat) (n : Option Nat) : ((droveDone u c n).core c).drove = (u.core c).drove ∧
    ((droveDone u c n).core c).r.g = (u.core c).r.g := by
  rw [droveDone, State.updCore, State.core_setCore]
  exact ⟨rfl, rfl⟩

theorem slotDone_holds (u : State) (c i clk : Nat) : (slotDone u c i clk).clk = u.clk ∧ ((slotDone u c i clk).core c).drove = (u.core c).drove ∧
    ((slotDone u c i clk).core c).r.g = (u.core c).r.g ∧ (∀ k, (slotDone u c i clk).slot k = u.slot k) ∧ (slotDone u c i clk).mem = u.mem ∧
    ((slotDone u c i clk).fold (foldOf c)).stopNext = clk + 1 ∧ ∀ f, f ≠ foldOf c → (slotDone u c i clk).fold f = u.fold f := by
  obtain ⟨h1, h2⟩ := droveDone_core u c (some i)
  refine ⟨rfl, h1, h2, fun _ => rfl, rfl, ?_, fun f hf => ?_⟩
  · rw [slotDone, State.updFold, State.fold_setFold]
  · rw [slotDone, State.updFold, State.fold_setFold_other _ _ _ _ hf]
    rfl

section
variable (hy : (s.core c).yoke = none)
include hy

theorem agreed_unyoked (i j n : Nat) : s.agreed c i j n = true := by rw [State.agreed, hy]

theorem completes_droveRequestApply {u : State} (hn : droveNext s c = some (j, r, .slot i t)) (ht : t ≤ s.clk)
    (ha : actOnSlot (dropRequest s c j) c i r = some u) : Completes (.droveRequestApply c) s (slotDone u c i s.clk) := by
  have hdue : (s.agreed c 8 j (s.core c).drove.length && decide (t ≤ s.clk)) = true := by
    rw [agreed_unyoked hy, decide_eq_true ht]
    rfl
  refine completes_of_event ?_ hdue
  rw [exec_droveRequestApply]
  unfold execDroveRequestApply
  dsimp only
  rw [hn]
  dsimp only
  rw [ha]
  rfl

variable (hb : boundG (s.core c) r.rd = none)
include hb

/-- What a request that completes with a value leaves, from the state w in which the stop has acted on the slot. -/
theorem slotAction_holds {w : State} {v : Word} (hn : droveNext s c = some (j, r, .slot i t)) (ht : t ≤ s.clk)
    (ha : actOnSlot (dropRequest s c j) c i r = deliverAction w c r.rd v) (hcore : w.core c = { s.core c with drove := (s.core c).drove.eraseIdx j })
    (hclk : w.clk = s.clk) (hmem : w.mem = s.mem) (hslots : ∀ k, k ≠ i → w.slot k = s.slot k) :
    ∃ u, (Completes (.droveRequestApply c) s u ∧ u.clk = s.clk ∧ (u.core c).drove = (s.core c).drove.eraseIdx j ∧
      (∀ k, k ≠ i → u.slot k = s.slot k) ∧ (u.fold (foldOf c)).stopNext = s.clk + 1) ∧ (r.rd ≠ 0 → mget 0 (u.core c).r.g r.rd = v) ∧
      u.slot i = w.slot i ∧ u.mem = s.mem ∧ ∀ f, f ≠ foldOf c → u.fold f = w.fold f := by
  have hbw : boundG (w.core c) r.rd = none := by rw [hcore, ← hb]; rfl
  obtain ⟨u, hu, hum, huc, hus, huf, hud, hug⟩ := deliverAction_frame v hbw
  obtain ⟨h1, h2, h3, h4, h5, h6, h7⟩ := slotDone_holds u c i s.clk
  have hslot (k : Nat) : u.slot k = w.slot k := congrArg (fun m => mget DSlot.empty m k) hus
  refine ⟨_, ⟨completes_droveRequestApply hy hn ht (ha.trans hu), h1.trans (huc.trans hclk), ?_, fun k hk => ?_, h6⟩, fun hd => ?_, ?_, h5.trans (hum.trans hmem),
    fun f hf => (h7 f hf).trans (congrArg (fun m => mget Fold.idle m f) huf)⟩
  · rw [h2, hud, hcore]
  · rw [h4, hslot, hslots k hk]
  · rw [h3, hug hd]
  · rw [h4, hslot]

variable (hn : droveNext s c = some (j, r, .slot i t)) (ht : t ≤ s.clk)
include hn ht

theorem droveRead_holds (hop : r.op = .read) :
    ∃ u, (Completes (.droveRequestApply c) s u ∧ u.clk = s.clk ∧ (u.core c).drove = (s.core c).drove.eraseIdx j ∧
      (∀ k, k ≠ i → u.slot k = s.slot k) ∧ (u.fold (foldOf c)).stopNext = s.clk + 1) ∧
      (r.rd ≠ 0 → mget 0 (u.core c).r.g r.rd = (s.slot i).words.getD r.word 0) ∧
      u.slot i = { s.slot i with soft := false } ∧ u.mem = s.mem ∧ ∀ f, f ≠ foldOf c → u.fold f = s.fold f := by
  obtain ⟨h1, h2, h3, h4, h5⟩ := slotReached_frame (s := s) (c := c) (j := j) (i := i)
  have ha : actOnSlot (dropRequest s c j) c i r = deliverAction (slotReached s c j i) c r.rd ((s.slot i).words.getD r.word 0) := by
    unfold actOnSlot
    rw [hop]
    change deliverAction (slotReached s c j i) c r.rd (((slotReached s c j i).slot i).words.getD r.word 0) = _
    rw [h4]
  obtain ⟨u, ha, hg, hs, hm, hf⟩ := slotAction_holds hy hb hn ht ha slotReached_core h2 h1 h5
  exact ⟨u, ha, hg, hs.trans h4, hm, fun f hne => (hf f hne).trans (congrArg (fun m => mget Fold.idle m f) h3)⟩

theorem droveBoard_holds (hop : r.op = .board) :
    ∃ u, (Completes (.droveRequestApply c) s u ∧ u.clk = s.clk ∧ (u.core c).drove = (s.core c).drove.eraseIdx j ∧
      (∀ k, k ≠ i → u.slot k = s.slot k) ∧ (u.fold (foldOf c)).stopNext = s.clk + 1) ∧ (r.rd ≠ 0 → mget 0 (u.core c).r.g r.rd = 0) ∧ u.mem = s.mem ∧
      u.slot i = { soft := false, state := .live, key := r.key, hold := 0, words := r.v :: List.replicate 6 0 } := by
  obtain ⟨h1, h2, -, -, h5⟩ := slotReached_frame (s := s) (c := c) (j := j) (i := i)
  have ha : actOnSlot (dropRequest s c j) c i r = deliverAction ((slotReached s c j i).setSlot i
      { soft := false, state := .live, key := r.key, hold := 0, words := r.v :: List.replicate 6 0 }) c r.rd 0 := by
    unfold actOnSlot
    rw [hop]
    rfl
  obtain ⟨u, ha, hg, hs, hm, -⟩ := slotAction_holds hy hb hn ht ha slotReached_core h2 h1 fun k hk => (slot_setSlot_other _ _ _ hk).trans (h5 k hk)
  exact ⟨u, ha, hg, hm, hs.trans (slot_setSlot _ _ _)⟩

theorem droveRmw_holds {op : Nat} {o : Occ} (hop : r.op = .rmw op) (ho : (s.core c).occ = some o) (hu : o.flagged = false) :
    ∃ u, (Completes (.droveRequestApply c) s u ∧ u.clk = s.clk ∧ (u.core c).drove = (s.core c).drove.eraseIdx j ∧
      (∀ k, k ≠ i → u.slot k = s.slot k) ∧ (u.fold (foldOf c)).stopNext = s.clk + 1) ∧
      (r.rd ≠ 0 → mget 0 (u.core c).r.g r.rd = (s.slot i).words.getD r.word 0) ∧ u.mem = s.mem ∧
      u.slot i = { s.slot i with soft := false, words := (s.slot i).words.set r.word (drmwNew op ((s.slot i).words.getD r.word 0) r.v r.cmp) } := by
  obtain ⟨h1, h2, -, h4, h5⟩ := slotReached_frame (s := s) (c := c) (j := j) (i := i)
  have ho' : ((slotReached s c j i).core c).occ = some o := by rw [slotReached_core, ← ho]
  have ha : actOnSlot (dropRequest s c j) c i r = deliverAction ((slotReached s c j i).setSlot i
      { s.slot i with soft := false, words := (s.slot i).words.set r.word (drmwNew op ((s.slot i).words.getD r.word 0) r.v r.cmp) }) c r.rd
        ((s.slot i).words.getD r.word 0) := by
    unfold actOnSlot
    rw [hop]
    rw [slotReached] at ho' h4 ⊢
    dsimp only
    rw [ho']
    dsimp only
    rw [hu, if_neg Bool.false_ne_true, h4]
  obtain ⟨u, ha, hg, hs, hm, -⟩ := slotAction_holds hy hb hn ht ha slotReached_core h2 h1 fun k hk => (slot_setSlot_other _ _ _ hk).trans (h5 k hk)
  exact ⟨u, ha, hg, hm, hs.trans (slot_setSlot _ _ _)⟩

end

/-- An answer without a slot (R312, R313). -/
theorem droveAnswer_holds {v : Word} (hy : (s.core c).yoke = none) (hb : boundG (s.core c) r.rd = none) (hn : droveNext s c = some (j, r, .answer v t))
    (ht : t ≤ s.clk) :
    ∃ u, Completes (.droveRequestApply c) s u ∧ u.clk = s.clk ∧ (r.rd ≠ 0 → mget 0 (u.core c).r.g r.rd = v) ∧ u.slots = s.slots := by
  have hbw : boundG ((dropRequest s c j).core c) r.rd = none := by
    rw [dropRequest, State.updCore, State.core_setCore, ← hb]
    rfl
  obtain ⟨u, hu, -, huc, hus, -, -, hug⟩ := deliverAction_frame v hbw
  have hdue : (s.agreed c 8 j (s.core c).drove.length && decide (t ≤ s.clk)) = true := by
    rw [agreed_unyoked hy, decide_eq_true ht]
    rfl
  refine ⟨droveDone u c none, completes_of_event ?_ hdue, huc, fun hd => ?_, hus⟩
  · rw [exec_droveRequestApply]
    unfold execDroveRequestApply
    dsimp only
    rw [hn]
    dsimp only
    rw [hu]
  · rw [(droveDone_core u c none).2, hug hd]

/-! ## Failures (R260, R313, R318) -/

/-- The core whose request j fails, with the requests behind it. -/
def Core.droveFailed (k : Core) (j : Nat) (e : DefErr) : Core :=
  { k with
    drove := k.drove.take j
    droveErr := some ((k.droveErr.map (·.1)).getD e, (k.droveErr.map (·.2)).getD [] ++ ((k.drove.drop j).filter (·.op.returns)).map (·.rd))
    cap := if (k.drove.drop j).any fun q => decide (q.op = .cap) then none else k.cap }

theorem droveFail_holds {cause : BitVec 8} (hn : droveNext s c = some (j, r, .fail cause t)) (ht : t ≤ s.clk) (he : (s.core c).droveErr = none) :
    ∃ u, Completes (.droveRequestFail c) s u ∧ (u.core c).drove = (s.core c).drove.take j ∧ u.slots = s.slots ∧ u.mem = s.mem ∧
      ∃ rds, (u.core c).droveErr = some ({ cause := cause, acc := 3, val := false, data := r.key.toNat }, rds) := by
  have hex : exec (.droveRequestFail c) s = event s (decide (t ≤ s.clk))
      ((s.updCore c fun k => k.droveFailed j { cause := cause, acc := 3, val := false, data := r.key.toNat }).updFold
        (devFold (s.updCore c fun k => k.droveFailed j { cause := cause, acc := 3, val := false, data := r.key.toNat })
          (corePart (s.updCore c fun k => k.droveFailed j { cause := cause, acc := 3, val := false, data := r.key.toNat }) c) (keyHome r.key))
        fun v => { v with badKeys := v.badKeys.filter (· != r.key) }) := by
    rw [exec_droveRequestFail]
    unfold execDroveRequestFail
    rw [hn]
    rfl
  have hcore : (s.updCore c fun k => k.droveFailed j { cause := cause, acc := 3, val := false, data := r.key.toNat }).core c =
      (s.core c).droveFailed j { cause := cause, acc := 3, val := false, data := r.key.toNat } := State.core_setCore _ _ _
  have herr : ((s.core c).droveFailed j { cause := cause, acc := 3, val := false, data := r.key.toNat }).droveErr =
      some ({ cause := cause, acc := 3, val := false, data := r.key.toNat }, [] ++ (((s.core c).drove.drop j).filter (·.op.returns)).map (·.rd)) := by
    rw [Core.droveFailed, he]
    rfl
  exact ⟨_, completes_of_event hex (decide_eq_true ht), congrArg Core.drove hcore, rfl, rfl, _, (congrArg Core.droveErr hcore).trans herr⟩

/-- The core's capture has run out. -/
def captureEnded (s : State) (c : Nat) (key : Word32) : State :=
  (endCapture s c).updCore c fun k => { k with
    droveErr := some ({ cause := cDROVE, acc := 3, val := false, data := key.toNat }, 32 :: (k.droveErr.map (·.2)).getD []) }

theorem captureTimeout_holds {x : Capture} {n : Nat} (hx : (s.core c).cap = some x) (hs : x.slot = some n) (ht : x.since + 16384 ≤ s.clk) :
    ∃ u rds, Completes (.captureTimeout c) s u ∧ (u.core c).cap = none ∧
      (u.core c).droveErr = some ({ cause := cDROVE, acc := 3, val := false, data := x.key.toNat }, rds) := by
  have hex : exec (.captureTimeout c) s = event s (x.slot.isSome && decide (x.since + 16 * 1024 ≤ s.clk)) (captureEnded s c x.key) := by
    rw [exec_captureTimeout]
    unfold execCaptureTimeout
    rw [hx]
    rfl
  have hdue : (x.slot.isSome && decide (x.since + 16 * 1024 ≤ s.clk)) = true := by
    rw [hs, decide_eq_true ht]
    rfl
  have hcap : ((endCapture s c).core c).cap = none := by
    unfold endCapture
    rw [hx]
    dsimp only
    rw [State.updCore, State.core_setCore]
  have hcore : (captureEnded s c x.key).core c = { (endCapture s c).core c with
      droveErr := some ({ cause := cDROVE, acc := 3, val := false, data := x.key.toNat }, 32 :: (((endCapture s c).core c).droveErr.map (·.2)).getD []) } :=
    State.core_setCore _ _ _
  exact ⟨_, _, completes_of_event hex hdue, (congrArg Core.cap hcore).trans hcap, congrArg Core.droveErr hcore⟩

end

/-- A core whose requests for a key have seen it leave at clk t. -/
def Core.keyLeft (k : Core) (key : Word32) (t : Nat) : Core :=
  { k with drove := k.drove.map fun r => if r.key = key then { r with seen := t } else r }

theorem keyLeaves_r (s : State) (i k : Nat) : ((keyLeaves s i).core k).r = (s.core k).r := by
  have hm := mfind_mapKey (f := fun y : Nat × Core => if partOfFold s (foldOf y.1) = i % nparts s.layout then (y.1, y.2.keyLeft (s.slot i).key s.clk) else y)
    (fun y => by split <;> rfl) s.cores k
  have hcores : (keyLeaves s i).cores =
    s.cores.map fun y => if partOfFold s (foldOf y.1) = i % nparts s.layout then (y.1, y.2.keyLeft (s.slot i).key s.clk) else y := rfl
  rw [State.core, State.core, mget, mget, hcores, hm]
  cases mfind s.cores k with
  | none => rfl
  | some x =>
    dsimp only [Option.map_some, Option.getD_some]
    split <;> rfl

/-- The device once slot i is emptied by an error. -/
def slotEmptied (s : State) (i : Nat) : State :=
  ((keyLeaves s i).setSlot i DSlot.empty).updFold (devFold s (i % nparts s.layout) (keyHome (s.slot i).key)) fun v =>
    { v with badKeys := if v.badKeys.contains (s.slot i).key then v.badKeys else (s.slot i).key :: v.badKeys }

/-- A slot that an uncorrectable error empties. -/
theorem droveSlotError_holds (s : State) {i : Nat} (hi : i < 1024) (he : (s.slot i).state ≠ .empty) :
    ∃ u, Completes (.droveSlotError i) s u ∧ u.slot i = DSlot.empty ∧ (∀ k, k ≠ i → u.slot k = s.slot k) ∧ (∀ k, (u.core k).r = (s.core k).r) ∧ u.mem = s.mem ∧
      (s.slot i).key ∈ (u.fold (devFold s (i % nparts s.layout) ((s.slot i).key.toNat / 2 ^ 22))).badKeys := by
  have hex : exec (.droveSlotError i) s = event s (decide (i < 1024)) (if (s.slot i).state = .empty then s else slotEmptied s i) := rfl
  rw [if_neg he] at hex
  have hslot (k : Nat) : (slotEmptied s i).slot k = ((keyLeaves s i).setSlot i DSlot.empty).slot k := rfl
  refine ⟨_, completes_of_event hex (decide_eq_true hi), (hslot i).trans (slot_setSlot _ _ _), fun k hk => (hslot k).trans (slot_setSlot_other _ _ _ hk),
    fun k => keyLeaves_r s i k, rfl, ?_⟩
  have hfold : ((slotEmptied s i).fold (devFold s (i % nparts s.layout) (keyHome (s.slot i).key))).badKeys =
      (if (s.fold (devFold s (i % nparts s.layout) (keyHome (s.slot i).key))).badKeys.contains (s.slot i).key then
        (s.fold (devFold s (i % nparts s.layout) (keyHome (s.slot i).key))).badKeys
      else (s.slot i).key :: (s.fold (devFold s (i % nparts s.layout) (keyHome (s.slot i).key))).badKeys) :=
    congrArg Fold.badKeys (State.fold_setFold _ _ _)
  change (s.slot i).key ∈ ((slotEmptied s i).fold (devFold s (i % nparts s.layout) (keyHome (s.slot i).key))).badKeys
  rw [hfold]
  split
  · next h => exact List.contains_iff_mem.mp h
  · exact List.mem_cons_self

theorem droveRequestsComplete : Spec.DroveRequestsComplete := by
  intro s c j r hy hb
  refine ⟨fun i t hn ht => ⟨fun hop => droveRead_holds hy hb hn ht hop, fun op o hop ho hu => droveRmw_holds hy hb hn ht hop ho hu,
    fun hop => droveBoard_holds hy hb hn ht hop⟩, fun v t hn ht => droveAnswer_holds hy hb hn ht, fun cause t hn ht he => droveFail_holds hn ht he,
    fun x n hx hs ht => captureTimeout_holds hx hs ht, fun i hi he => droveSlotError_holds s hi he⟩

end Sys2Proof.Machine

namespace Sys2Proof
open Machine

/-- Settles O50: the issue of drove instructions, and the stop's action on the request that droveNext names. -/
theorem drove : Obligations.Drove := ⟨droveInstructionsJoinTheFifo, droveRequestsComplete⟩

end Sys2Proof

end

section
/-! PROOFS. Collectives (20 R384 to R398): what VSSET, VSMARK, VSWAIT and VSDIG do once their descriptor is checked, and the beats. -/

namespace Sys2Proof.Machine

section
variable {s : State} {l : Lit} {d a b : BitVec 5} {ds : List Word} {u : State}

/-- A register write in a state without a latch. -/
theorem setG_unlatched {t : State} {r : Nat} (hl : t.latch = none) (hb : boundG t.me r = none) (v : Word) : setG t r v = .ok (t.wroteG r v) :=
  setG_plain v (by rw [pre_eq_me hl]; exact hb)

/-- Two branches that go on alike. -/
theorem ite_bind_same {α β : Type} {c : Prop} [Decidable c] (x y : Res α) (f : α → Res β) :
    (if c then x >>= f else y >>= f) = (if c then x else y) >>= f := by split <;> rfl

theorem ptrFc_toNat (p : Word) : ptrFc p = p.toNat / 2 ^ 58 := by
  have := p.isLt
  simp only [ptrFc, fld]
  omega

theorem ptrBl_toNat (p : Word) : ptrBl p = p.toNat / 2 ^ 54 % 16 := rfl

/-! ## VSSET (R393) -/

/-- VSSET once its regions have been checked and its packet's accesses performed. -/
def vssetOpen (s : State) (l : Lit) (d b : BitVec 5) (ds table : List Word) (tr : SMap Nat) (s5 : State) : Res State :=
  let p := corePart s s.cur
  let facc := (s.part p).facc
  let src := dw ds 1
  let dst := dw ds 2
  let sb := if cdSends ds (cdRank ds) then fcBytes (ptrFc src) (ptrBl src) (cdCount ds) else 0
  let db := fcBytes (ptrFc dst) (ptrBl dst) (cdElems ds (cdRank ds))
  let shared := collShared ds table
  let lvl := fld (s.me.ctl 0x010) 2 0
  let open_ := mfind (s5.part p).streams (cdVs ds)
  if (open_.map fun x => decide (x.shared ≠ shared ∨ x.level ≠ lvl)).getD false then setG s5 d.toNat 1
  else if (open_.bind fun x => x.rankOf (cdRank ds)).any fun r => !r.closed then setG s5 d.toNat 2
  else do
    match if sb = 0 then .ok () else judgeAll s5 s.cur tr [(ptrAddr src, sb)] with
    | .error f => .error (f.stop s)
    | .ok () => do
      need (!(engLent s5 s.cur (if ownChunks ds = [] then [] else [(ptrAddr dst, db)]))) (.stall s)
      let (es, s6) ← match open_ with
        | some _ => .ok ([], s5)
        | none => collEntries s5 ds table
      let direct := fld facc 2 2 == 1
      let x := open_.getD { level := lvl, shared := shared, ranks := [], aborted := false, direct := direct, routers := es,
                            flows := if direct then steadingFlows s6 p ds table else [], inq := [], bank := [], out := [], sent := [], digests := [] }
      setG (openRank s6 ds tr (rbval s l b.toNat) x) d.toNat 0

theorem exec_vsset_determ (hr : Ready s [a.toNat, b.toNat] [d.toNat]) (hc : s.me.inCompute = true) :
    exec (.vsset l d a b) s = settle s (.error (trapC cDETERM)) := by
  rw [exec_vsset]
  unfold execVsset
  rw [withRegs_ready _ hr, hc, Bool.not_true, need_false, error_bind]

section
variable (hr : Ready s [a.toNat, b.toNat] [d.toNat]) (hc : s.me.inCompute = false) (hd : collDesc s (gval s a.toNat) = .ok (ds, u))
include hr hc hd

theorem exec_vsset_illegal (hv : collValid (s.part (corePart s s.cur)).facc ds = false) :
    exec (.vsset l d a b) s = settle s (.error (trapC cILLEGAL)) := by
  rw [exec_vsset]
  unfold execVsset
  rw [withRegs_ready _ hr, hc, Bool.not_false, need_true, ok_bind, hd, ok_bind]
  dsimp only
  rw [hv, need_false, error_bind]

theorem exec_vsset_open {v x : State} {table : List Word} {tr : SMap Nat} (hv : collValid (s.part (corePart s s.cur)).facc ds = true)
    (hf : fcOk (s.part (corePart s s.cur)).facc (cdWfc ds) (cdWbl ds) = true) (hsrc : copyPtr s .cpy (dw ds 1) = .ok ())
    (hdst : copyPtr s .cpy (dw ds 2) = .ok ()) (h1 : fcClass ((dw ds 1).toNat / 2 ^ 58) = fcClass (cdWfc ds))
    (h2 : fcClass ((dw ds 2).toNat / 2 ^ 58) = fcClass (cdWfc ds)) (ht : collTable u ds = .ok (table, v))
    (hdev : table.all (fun t => fld t 7 0 == s.nv.dev) = true ∨ fld (s.part (corePart s s.cur)).facc 19 16 ≠ 0)
    (hreg : Spec.vsRegions v ds (dw ds 1) (dw ds 2) = .ok (tr, x)) (hrw : x.me.rwDone x s.cur = true) :
    exec (.vsset l d a b) s = settle s (vssetOpen s l d b ds table tr x) := by
  have hclass : fcClass (ptrFc (dw ds 1)) = fcClass (cdWfc ds) ∧ fcClass (ptrFc (dw ds 2)) = fcClass (cdWfc ds) := by
    rw [ptrFc_toNat, ptrFc_toNat]
    exact ⟨h1, h2⟩
  have hdevs : (table.all (fun t => fld t 7 0 == s.nv.dev) || decide (fld (s.part (corePart s s.cur)).facc 19 16 ≠ 0)) = true := by
    rcases hdev with h | h
    · rw [h, Bool.true_or]
    · rw [decide_eq_true h, Bool.or_true]
  unfold Spec.vsRegions at hreg
  rw [← ptrFc_toNat, ← ptrFc_toNat, ← ptrBl_toNat, ← ptrBl_toNat, ← ptrAddr_toNat, ← ptrAddr_toNat] at hreg
  dsimp only at hreg
  rw [ite_bind_same] at hreg
  obtain ⟨⟨tr1, s3⟩, hr1, hreg⟩ := of_ok_bind hreg
  dsimp only at hreg
  rw [ite_bind_same] at hreg
  obtain ⟨⟨tr2, s4⟩, hr2, hreg⟩ := of_ok_bind hreg
  dsimp only at hreg
  rw [exec_vsset]
  unfold execVsset
  rw [withRegs_ready _ hr, hc, Bool.not_false, need_true, ok_bind, hd, ok_bind]
  dsimp only
  rw [hv, need_true, ok_bind, hf, need_true, ok_bind, hsrc, ok_bind, hdst, ok_bind, need_holds hclass, ok_bind, ht, ok_bind]
  dsimp only
  rw [hdevs, need_true, ok_bind, ite_bind_same, hr1, ok_bind]
  dsimp only
  rw [ite_bind_same, hr2, ok_bind]
  dsimp only
  rw [ite_bind_same, hreg, ok_bind]
  dsimp only
  rw [hrw, need_true, ok_bind]
  rfl

end

theorem level_toNat (w : Word) : fld w 2 0 = w.toNat % 8 := by simp [fld]

section
variable {x : State} {table : List Word} {tr : SMap Nat} (hl : x.latch = none) (hb : boundG x.me d.toNat = none)

/-- What VSSET sends a rank's contribution from. -/
def sentBytes (ds : List Word) : Nat := if cdSends ds (cdRank ds) then fcBytes (ptrFc (dw ds 1)) (ptrBl (dw ds 1)) (cdCount ds) else 0

/-- The stream that VSSET opens where none is open. -/
def vssetStream (s n : State) (ds table : List Word) (es : SMap RouterEntry) : VStream :=
  { level := fld (s.me.ctl 0x010) 2 0, shared := collShared ds table, ranks := [], aborted := false,
    direct := fld (s.part (corePart s s.cur)).facc 2 2 == 1, routers := es,
    flows := if fld (s.part (corePart s s.cur)).facc 2 2 == 1 then steadingFlows n (corePart s s.cur) ds table else [],
    inq := [], bank := [], out := [], sent := [], digests := [] }

/-- The checks of an opening rank's regions for an engine's entries. -/
def vssetChecks (s x : State) (ds : List Word) (tr : SMap Nat) : Prop :=
  (sentBytes ds ≠ 0 → judgeAll x s.cur tr [(ptrAddr (dw ds 1), sentBytes ds)] = .ok ()) ∧
  engLent x s.cur (if ownChunks ds = [] then [] else
    [(ptrAddr (dw ds 2), fcBytes (ptrFc (dw ds 2)) (ptrBl (dw ds 2)) (cdElems ds (cdRank ds)))]) = false

section
include hl hb

theorem vssetOpen_differs {y : VStream} (hy : mfind (x.part (corePart s s.cur)).streams (cdVs ds) = some y)
    (h : y.shared ≠ collShared ds table ∨ y.level ≠ fld (s.me.ctl 0x010) 2 0) :
    vssetOpen s l d b ds table tr x = .ok (x.wroteG d.toNat 1) := by
  rw [vssetOpen]
  dsimp only
  rw [hy, Option.map_some, Option.getD_some, decide_eq_true h, if_pos rfl, setG_unlatched hl hb]

theorem vssetOpen_again {y : VStream} {r : Rank} (hy : mfind (x.part (corePart s s.cur)).streams (cdVs ds) = some y)
    (h : ¬ (y.shared ≠ collShared ds table ∨ y.level ≠ fld (s.me.ctl 0x010) 2 0)) (hr : y.rankOf (cdRank ds) = some r) (hc : r.closed = false) :
    vssetOpen s l d b ds table tr x = .ok (x.wroteG d.toNat 2) := by
  rw [vssetOpen]
  dsimp only
  rw [hy, Option.map_some, Option.getD_some, decide_eq_false h, if_neg Bool.false_ne_true, Option.bind_some, hr, Option.any_some, hc, if_pos (by rfl),
    setG_unlatched hl hb]

end

section
variable (hck : vssetChecks s x ds tr)
include hck

theorem judge_of_checks : (if sentBytes ds = 0 then .ok () else judgeAll x s.cur tr [(ptrAddr (dw ds 1), sentBytes ds)]) = Except.ok () := by
  split
  · rfl
  · next h => exact hck.1 h

/-- A rank joins a stream that is open. -/
theorem vssetOpen_joins {y : VStream} (hy : mfind (x.part (corePart s s.cur)).streams (cdVs ds) = some y)
    (h : ¬ (y.shared ≠ collShared ds table ∨ y.level ≠ fld (s.me.ctl 0x010) 2 0)) (hcl : ∀ r, y.rankOf (cdRank ds) = some r → r.closed = true)
    (hzb : boundG (openRank x ds tr (Spec.rb s l b) y).me d.toNat = none) (hzl : (openRank x ds tr (Spec.rb s l b) y).latch = none) :
    vssetOpen s l d b ds table tr x = .ok ((openRank x ds tr (Spec.rb s l b) y).wroteG d.toNat 0) := by
  have hjudge := judge_of_checks hck
  obtain ⟨-, hlent⟩ := hck
  have hany : (y.rankOf (cdRank ds)).any (fun r => !r.closed) = false := by
    cases hr : y.rankOf (cdRank ds) with
    | none => rfl
    | some r => rw [Option.any_some, hcl r hr, Bool.not_true]
  rw [sentBytes] at hjudge
  rw [vssetOpen]
  dsimp only
  rw [hy, Option.map_some, Option.getD_some, decide_eq_false h, if_neg Bool.false_ne_true, Option.bind_some, hany, if_neg Bool.false_ne_true, hjudge]
  dsimp only
  rw [hlent, Bool.not_false, need_true, ok_bind]
  rw [ok_bind]
  dsimp only
  rw [Option.getD_some, rbval_toNat, setG_unlatched hzl hzb]

/-- A stream opens with its first rank. -/
theorem vssetOpen_new {es : SMap RouterEntry} {n : State} (hy : mfind (x.part (corePart s s.cur)).streams (cdVs ds) = none)
    (hent : collEntries x ds table = .ok (es, n))
    (hzb : boundG (openRank n ds tr (Spec.rb s l b) (vssetStream s n ds table es)).me d.toNat = none)
    (hzl : (openRank n ds tr (Spec.rb s l b) (vssetStream s n ds table es)).latch = none) :
    vssetOpen s l d b ds table tr x = .ok ((openRank n ds tr (Spec.rb s l b) (vssetStream s n ds table es)).wroteG d.toNat 0) := by
  have hjudge := judge_of_checks hck
  obtain ⟨-, hlent⟩ := hck
  rw [sentBytes] at hjudge
  rw [vssetOpen]
  dsimp only
  rw [hy, Option.map_none, Option.getD_none, if_neg Bool.false_ne_true, Option.bind_none, Option.any_none, if_neg Bool.false_ne_true, hjudge]
  dsimp only
  rw [hlent, Bool.not_false, need_true, ok_bind]
  rw [hent, ok_bind]
  dsimp only
  rw [Option.getD_none, rbval_toNat]
  exact setG_unlatched hzl hzb _

end
end

/-! ## VSMARK, VSWAIT and VSDIG (R395 to R397) -/

section
variable (hr : Ready s [a.toNat, b.toNat] [d.toNat])
include hr

theorem exec_vsmark_determ (hc : s.me.inCompute = true) : exec (.vsmark l a) s = settle s (.error (trapC cDETERM)) := by
  rw [exec_vsmark]
  unfold execVsmark
  rw [withRegs_ready _ (hr.mono (by simp) (by simp)), hc, Bool.not_true, need_false, error_bind]

omit hr in
theorem vsmark_number (w : Word) : fld w 63 12 = 0 ↔ w.toNat < 2 ^ 12 := by
  have := w.isLt
  rw [fld]
  omega

section
variable (hc : s.me.inCompute = false)
include hc

theorem exec_vsmark_wide (h : 2 ^ 12 ≤ (gval s a.toNat).toNat) : exec (.vsmark l a) s = settle s (.error (trapC cILLEGAL)) := by
  rw [exec_vsmark]
  unfold execVsmark
  rw [withRegs_ready _ (hr.mono (by simp) (by simp)), hc, Bool.not_false, need_true, ok_bind]
  dsimp only
  rw [need_fails (fun h' => absurd ((vsmark_number _).mp h') (Nat.not_lt.mpr h)), error_bind]

theorem exec_vsmark_none (h : (gval s a.toNat).toNat < 2 ^ 12) (hn : (mfind (s.part (corePart s s.cur)).streams (gval s a.toNat).toNat).bind
    (fun x => (x.marking (foldOf s.cur) s.cur).map fun r => (x, r.rank)) = none) : exec (.vsmark l a) s = settle s (.error (trapC cILLEGAL)) := by
  rw [exec_vsmark]
  unfold execVsmark
  rw [withRegs_ready _ (hr.mono (by simp) (by simp)), hc, Bool.not_false, need_true, ok_bind]
  dsimp only
  rw [need_holds ((vsmark_number _).mpr h), ok_bind, hn]

theorem exec_vsmark_some {x : VStream} {r : Rank} (h : (gval s a.toNat).toNat < 2 ^ 12)
    (hx : mfind (s.part (corePart s s.cur)).streams (gval s a.toNat).toNat = some x) (hm : x.marking (foldOf s.cur) s.cur = some r) :
    exec (.vsmark l a) s = settle s (.ok (if x.aborted then s else s.updPart (corePart s s.cur) fun q =>
      { q with streams := mput q.streams (gval s a.toNat).toNat (x.sendFrom (foldOf s.cur) r.rank fun away => [.marker away [r.rank]]) })) := by
  rw [exec_vsmark]
  unfold execVsmark
  rw [withRegs_ready _ (hr.mono (by simp) (by simp)), hc, Bool.not_false, need_true, ok_bind]
  dsimp only
  rw [need_holds ((vsmark_number _).mpr h), ok_bind, hx, Option.bind_some, hm, Option.map_some]

end
end

section
variable (hr : Ready s [a.toNat, b.toNat] [d.toNat])
include hr

theorem exec_vswait_determ (hc : s.me.inCompute = true) : exec (.vswait l d a) s = settle s (.error (trapC cDETERM)) := by
  rw [exec_vswait]
  unfold execVswait
  rw [withRegs_ready _ (hr.mono (by simp) (by simp)), hc, Bool.not_true, need_false, error_bind]

theorem exec_vsdig_determ (hc : s.me.inCompute = true) : exec (.vsdig l d a) s = settle s (.error (trapC cDETERM)) := by
  rw [exec_vsdig]
  unfold execVsdig
  rw [withRegs_ready _ (hr.mono (by simp) (by simp)), hc, Bool.not_true, need_false, error_bind]

variable (hc : s.me.inCompute = false)
include hc

theorem exec_vswait_refused {e : Stop} (ho : openPart s (gval s a.toNat) = .error e) : exec (.vswait l d a) s = settle s (.error e) := by
  rw [exec_vswait]
  unfold execVswait
  rw [withRegs_ready _ (hr.mono (by simp) (by simp)), hc, Bool.not_false, need_true, ok_bind, ho, error_bind]

theorem exec_vsdig_refused {e : Stop} (ho : openPart s (gval s a.toNat) = .error e) : exec (.vsdig l d a) s = settle s (.error e) := by
  rw [exec_vsdig]
  unfold execVsdig
  rw [withRegs_ready _ (hr.mono (by simp) (by simp)), hc, Bool.not_false, need_true, ok_bind]
  dsimp only
  rw [ho, error_bind]

end

/-- VSWAIT and VSDIG check the descriptor as VSSET does. -/
theorem openPart_invalid {w : Word} (hd : collDesc s w = .ok (ds, u)) (hv : collValid (u.part (corePart u u.cur)).facc ds = false) :
    openPart s w = .error (trapC cILLEGAL) := by
  rw [openPart, hd, ok_bind]
  dsimp only
  rw [hv, need_false, error_bind]

/-- The digest of rank r's result region. -/
def rankDigest (u : State) (p : Nat) (r : Rank) : Nat :=
  digestOf (rankRead u p r (ptrAddr (dw r.desc 2)) (fcBytes (ptrFc (dw r.desc 2)) (ptrBl (dw r.desc 2)) (cdElems r.desc r.rank)))

/-- A stream with rank r's next digest compared. -/
def VStream.counted (x : VStream) (r : Rank) : VStream :=
  { x with ranks := x.ranks.map fun t => if t.rank = r.rank then { t with ndig := r.ndig + 1 } else t }

/-- The partition has FEVT bit 2 and its interrupt for a digest that differs. -/
def digestsDiffer (s : State) (p : Nat) : State :=
  let t := s.updPart p fun v => { v with fevt := putFld v.fevt 2 2 1 }
  { t with msix := t.msix ++ [(p, 1)] }

/-- The lowest of n ranks whose digest of number k is not rank 0's. -/
def VStream.differs (x : VStream) (n k : Nat) : Option Nat :=
  let all := (List.range n).map fun q => x.digest q k
  (List.range n).find? fun q => decide ((all.getD q none).getD 0 ≠ (all.headD none).getD 0)

/-- VSDIG without an address for its digest, once the rank's part is done. -/
def vsdigOpen (s : State) (d : Nat) (ds : List Word) (x : VStream) (r : Rank) (u : State) : Res State :=
  let p := corePart s s.cur
  if x.aborted then setG u d 1
  else match x.digest r.rank r.ndig with
    | none => .error (.stall (s.updPart p fun v =>
        { v with streams := mput v.streams (cdVs ds) (VStream.addDigest s p r.rank (rankDigest u p r) x) }))
    | some _ => do
      need (((List.range (cdNrank ds)).map fun q => x.digest q r.ndig).all (·.isSome)) (.stall s)
      let t := u.updPart p fun v => { v with streams := mput v.streams (cdVs ds) (x.counted r) }
      match x.differs (cdNrank ds) r.ndig with
      | none => setG t d 0
      | some q => setG (digestsDiffer t p) d (BitVec.ofNat 64 (1 + q))

section
variable {x : VStream} {r : Rank}

section
variable (hr : Ready s [a.toNat, b.toNat] [d.toNat]) (hc : s.me.inCompute = false) (ho : openPart s (gval s a.toNat) = .ok (ds, x, r, u))
include hr hc ho

theorem exec_vswait_waits (hp : partDone u x r = false) : exec (.vswait l d a) s = settle s (.error (.stall s)) := by
  rw [exec_vswait]
  unfold execVswait
  rw [withRegs_ready _ (hr.mono (by simp) (by simp)), hc, Bool.not_false, need_true, ok_bind, ho, ok_bind]
  dsimp only
  rw [hp, need_false, error_bind]

theorem exec_vswait_closes (hp : partDone u x r = true) (hl : u.latch = none) (hb : boundG u.me d.toNat = none) :
    exec (.vswait l d a) s =
      settle s (.ok ((closeRank u (corePart s s.cur) (cdVs ds) x r.rank).wroteG d.toNat (if x.aborted then 1 else 0))) := by
  rw [exec_vswait]
  unfold execVswait
  rw [withRegs_ready _ (hr.mono (by simp) (by simp)), hc, Bool.not_false, need_true, ok_bind, ho, ok_bind]
  dsimp only
  rw [hp, need_true, ok_bind, setG_unlatched (by rw [closeRank]; exact hl) (by rw [closeRank]; exact hb)]

theorem exec_vsdig_kind (hk : cdKind ds = 1 ∨ cdKind ds = 4) : exec (.vsdig l d a) s = settle s (.error (trapC cILLEGAL)) := by
  rw [exec_vsdig]
  unfold execVsdig
  rw [withRegs_ready _ (hr.mono (by simp) (by simp)), hc, Bool.not_false, need_true, ok_bind]
  dsimp only
  rw [ho, ok_bind]
  dsimp only
  rw [need_fails (by omega), error_bind]

/-- VSDIG with the result there and no address for its digest. -/
theorem exec_vsdig_done (hk1 : cdKind ds ≠ 1) (hk4 : cdKind ds ≠ 4) (hdig : (dw ds 7).toNat % 2 ^ 48 = 0) (hp : partDone u x r = true) :
    exec (.vsdig l d a) s = settle s (vsdigOpen s d.toNat ds x r u) := by
  rw [exec_vsdig]
  unfold execVsdig
  rw [withRegs_ready _ (hr.mono (by simp) (by simp)), hc, Bool.not_false, need_true, ok_bind]
  dsimp only
  rw [ho, ok_bind]
  dsimp only
  rw [need_holds ⟨hk1, hk4⟩, ok_bind, fld_address, if_pos hdig, ok_bind]
  dsimp only
  rw [hp, need_true, ok_bind, vsdigOpen]
  by_cases ha : x.aborted = true
  · rw [if_pos ha, if_pos ha]
  · rw [if_neg ha, if_neg ha]
    cases hdg : x.digest r.rank r.ndig with
    | none => rfl
    | some mine =>
      dsimp only
      simp only [if_pos hdig]
      rfl

end

section
variable (ha : x.aborted = false)
include ha

theorem vsdigOpen_sends {k : Nat} (hn : x.digest r.rank r.ndig = none) :
    vsdigOpen s k ds x r u = .error (.stall (s.updPart (corePart s s.cur) fun v =>
      { v with streams := mput v.streams (cdVs ds) (VStream.addDigest s (corePart s s.cur) r.rank (rankDigest u (corePart s s.cur) r) x) })) := by
  rw [vsdigOpen, ha, if_neg Bool.false_ne_true, hn]

variable {mine : Nat} {f : Nat → Nat} (hm : x.digest r.rank r.ndig = some mine) (hf : ∀ q, q < cdNrank ds → x.digest q r.ndig = some (f q))

omit ha in
include hf in
theorem digests_known : ((List.range (cdNrank ds)).map fun q => x.digest q r.ndig).all (·.isSome) = true := by
  rw [List.all_map, List.all_eq_true]
  intro q hq
  rw [Function.comp_apply, hf q (List.mem_range.mp hq), Option.isSome_some]

omit ha in
include hf in
/-- A rank's digest differs where its value is not rank 0's. -/
theorem differs_at {q : Nat} (hq : q < cdNrank ds) :
    ((((List.range (cdNrank ds)).map fun q => x.digest q r.ndig).getD q none).getD 0 ≠
      (((List.range (cdNrank ds)).map fun q => x.digest q r.ndig).headD none).getD 0) ↔ f q ≠ f 0 := by
  have hval (k : Nat) (hk : k < cdNrank ds) : ((List.range (cdNrank ds)).map fun q => x.digest q r.ndig)[k]? = some (some (f k)) := by
    rw [List.getElem?_map, List.getElem?_range hk, Option.map_some, hf k hk]
  have hpos : 0 < cdNrank ds := by omega
  rw [List.getD_eq_getElem?_getD, hval q hq, List.headD_eq_head?_getD, List.head?_eq_getElem?, hval 0 hpos]
  rfl

omit ha in
include hf in
theorem differs_none (hall : ∀ q, q < cdNrank ds → f q = f 0) : x.differs (cdNrank ds) r.ndig = none := by
  rw [VStream.differs, List.find?_eq_none]
  intro q hq
  rw [List.mem_range] at hq
  rw [decide_eq_true_eq, differs_at hf hq]
  exact not_not_intro (hall q hq)

omit ha in
include hf in
theorem differs_least {q : Nat} (hq : q < cdNrank ds) (hne : f q ≠ f 0) (hlow : ∀ k, k < q → f k = f 0) :
    x.differs (cdNrank ds) r.ndig = some q := by
  rw [VStream.differs, List.find?_range_eq_some]
  refine ⟨by rw [decide_eq_true_eq, differs_at hf hq]; exact hne, List.mem_range.mpr hq, fun k hk => ?_⟩
  rw [Bool.not_eq_eq_eq_not, Bool.not_true, decide_eq_false_iff_not, differs_at hf (by omega)]
  exact not_not_intro (hlow k hk)

include hm hf

theorem vsdigOpen_equal {k : Nat} (hl : u.latch = none) (hb : boundG u.me k = none) (hall : ∀ q, q < cdNrank ds → f q = f 0) :
    vsdigOpen s k ds x r u =
      .ok ((u.updPart (corePart s s.cur) fun v => { v with streams := mput v.streams (cdVs ds) (x.counted r) }).wroteG k 0) := by
  rw [vsdigOpen, ha, if_neg Bool.false_ne_true, hm]
  dsimp only
  rw [digests_known hf, need_true, ok_bind, differs_none hf hall]
  dsimp only
  rw [setG_unlatched (by exact hl) (by exact hb)]

theorem vsdigOpen_differ {k q : Nat} (hl : u.latch = none) (hb : boundG u.me k = none) (hq : q < cdNrank ds) (hne : f q ≠ f 0)
    (hlow : ∀ k, k < q → f k = f 0) :
    vsdigOpen s k ds x r u =
      .ok ((digestsDiffer (u.updPart (corePart s s.cur) fun v => { v with streams := mput v.streams (cdVs ds) (x.counted r) })
        (corePart s s.cur)).wroteG k (BitVec.ofNat 64 (1 + q))) := by
  rw [vsdigOpen, ha, if_neg Bool.false_ne_true, hm]
  dsimp only
  rw [digests_known hf, need_true, ok_bind, differs_least hf hq hne hlow]
  dsimp only
  rw [setG_unlatched (by exact hl) (by exact hb)]

end
end
end

/-! ## The beats (R386, R394) -/

theorem exec_routerBeat_some {q f vs : Nat} {x y : VStream} (hx : mfind (s.part q).streams vs = some x) (hy : VStream.beat s f x = some y) :
    exec (.routerBeat q f vs) s = event s true (s.updPart q fun k => { k with streams := mput k.streams vs y }) := by
  rw [exec_routerBeat, execRouterBeat, hx, Option.bind_some, hy]

theorem exec_portBeatArrival_chunk {q vs i : Nat} {x : VStream} {r z : Rank} {y : State} (hx : mfind (s.part q).streams vs = some x)
    (ha : x.aborted = false) (hr : x.ranks[i]? = some r) (hy : chunkArrives s q r = some (y, z)) :
    exec (.portBeatArrival q vs (.chunk i)) s = event s true (y.updPart q fun k => { k with streams := mput k.streams vs (x.setRank z) }) := by
  rw [exec_portBeatArrival, execPortBeatArrival, hx, Option.filter_some, ha, Bool.not_false, if_pos rfl, Option.bind_some]
  dsimp only
  rw [hr, Option.bind_some, hy, Option.map_some]

theorem exec_portBeatArrival_other {q vs : Nat} {v : Arrival} {x y : VStream} (hx : mfind (s.part q).streams vs = some x)
    (ha : x.aborted = false) (hv : ∀ i, v ≠ .chunk i) (hy : x.arrives s q v = some y) :
    exec (.portBeatArrival q vs v) s = event s true (s.updPart q fun k => { k with streams := mput k.streams vs y }) := by
  rw [exec_portBeatArrival, execPortBeatArrival, hx, Option.filter_some, ha, Bool.not_false, if_pos rfl, Option.bind_some]
  cases v with
  | chunk i => exact absurd rfl (hv i)
  | elem k rs i w => rw [hy, Option.map_some]
  | marker k rs => rw [hy, Option.map_some]
  | digest k t w => rw [hy, Option.map_some]
  | sent die => rw [hy, Option.map_some]

theorem vssetStream_eq (s n : State) (ds table : List Word) (es : SMap RouterEntry) :
    vssetStream s n ds table es =
      { level := (s.me.ctl 0x010).toNat % 8, shared := collShared ds table, ranks := [], aborted := false,
        direct := (s.part (corePart s s.cur)).facc.getLsbD 2, routers := es,
        flows := if (s.part (corePart s s.cur)).facc.getLsbD 2 then steadingFlows n (corePart s s.cur) ds table else [],
        inq := [], bank := [], out := [], sent := [], digests := [] } := by
  rw [vssetStream, level_toNat, fld_eq_bit]

theorem vssetChecks_of {s x : State} {ds : List Word} {tr : SMap Nat}
    (hj : cdSends ds (cdRank ds) = true → fcBytes ((dw ds 1).toNat / 2 ^ 58) ((dw ds 1).toNat / 2 ^ 54 % 16) (cdCount ds) ≠ 0 →
      judgeAll x s.cur tr [((dw ds 1).toNat % 2 ^ 48, fcBytes ((dw ds 1).toNat / 2 ^ 58) ((dw ds 1).toNat / 2 ^ 54 % 16) (cdCount ds))] = .ok ())
    (hlent : engLent x s.cur (if ownChunks ds = [] then [] else [((dw ds 2).toNat % 2 ^ 48,
      fcBytes ((dw ds 2).toNat / 2 ^ 58) ((dw ds 2).toNat / 2 ^ 54 % 16) (cdElems ds (cdRank ds)))]) = false) : vssetChecks s x ds tr := by
  rw [← ptrFc_toNat, ← ptrBl_toNat, ← ptrAddr_toNat] at hj hlent
  refine ⟨fun h => ?_, hlent⟩
  rw [sentBytes] at h ⊢
  by_cases hs : cdSends ds (cdRank ds) = true
  · rw [if_pos hs] at h ⊢
    exact hj hs h
  · exact absurd (if_neg hs) h

end Sys2Proof.Machine

namespace Sys2Proof
open Machine

/-- Settles O51: each instruction runs through its checks in the order of R393 to R397, and what follows them is said once: `vssetOpen` for a
descriptor that passed, `openPart` for VSWAIT and VSDIG, `vsdigOpen` for a part that is done. -/
theorem collectivesRun : Obligations.CollectivesRun := by
  unfold Obligations.CollectivesRun
  intro s l d a b hlatch hr
  refine ⟨fun hc => ⟨traps_of_trapC (exec_vsset_determ hr hc), traps_of_trapC (exec_vsmark_determ hr hc), traps_of_trapC (exec_vswait_determ hr hc),
      traps_of_trapC (exec_vsdig_determ hr hc)⟩,
    fun ds u table v tr x es n hc hd => ⟨fun hv => traps_of_trapC (exec_vsset_illegal hr hc hd hv),
      fun hv hf hsrc hdst h1 h2 ht hdev hreg hl hb hrw => ?_⟩, fun hc hn => ?_, fun x hc hw hx => ⟨fun hm => ?_, fun r hm => ⟨fun ha => ?_, fun ha => ?_⟩⟩,
    fun ds u hc hd hv => ⟨traps_of_trapC (exec_vswait_refused hr hc (openPart_invalid hd hv)),
      traps_of_trapC (exec_vsdig_refused hr hc (openPart_invalid hd hv))⟩,
    fun ds x r u hc ho hl hb hcur => ⟨fun hp => ?_, fun hp => completes_of_ok (exec_vswait_closes hr hc ho hp hl hb), fun hk1 hk4 hdig hp => ?_,
      fun hk => traps_of_trapC (exec_vsdig_kind hr hc ho hk)⟩,
    fun q f vs x y hx hy => completes_of_event (exec_routerBeat_some hx hy) rfl,
    fun q vs i x r y z hx ha hi hy => completes_of_event (exec_portBeatArrival_chunk hx ha hi hy) rfl,
    fun q vs v x y hx ha hv hy => completes_of_event (exec_portBeatArrival_other hx ha hv hy) rfl⟩
  · have hexec := exec_vsset_open (l := l) hr hc hd hv hf hsrc hdst h1 h2 ht hdev hreg hrw
    rw [← level_toNat]
    refine ⟨fun y hy hne => completes_of_ok (hexec.trans (congrArg _ (vssetOpen_differs hl hb hy hne))),
      fun y r hy hsh hlev hrank hcl => completes_of_ok (hexec.trans (congrArg _ (vssetOpen_again hl hb hy (by tauto) hrank hcl))),
      fun y hy hj hlent hzb hzl => ?_⟩
    have hck := vssetChecks_of hj hlent
    rcases hy with ⟨hy, rfl, hsh, hlev, hcl⟩ | ⟨hy, hent, rfl⟩
    · exact completes_of_ok (hexec.trans (congrArg _ (vssetOpen_joins hck hy (by tauto) hcl hzb hzl)))
    · rw [level_toNat, ← vssetStream_eq] at hzb hzl ⊢
      exact completes_of_ok (hexec.trans (congrArg _ (vssetOpen_new hck hy hent hzb hzl)))
  · by_cases hw : 2 ^ 12 ≤ (gval s a.toNat).toNat
    · exact traps_of_trapC (exec_vsmark_wide hr hc hw)
    · rcases hn with hn | hn
      · exact absurd hn hw
      · exact traps_of_trapC (exec_vsmark_none hr hc (Nat.lt_of_not_le hw) (by rw [hn, Option.bind_none]))
  · exact traps_of_trapC (exec_vsmark_none hr hc hw (by rw [hx, Option.bind_some, hm, Option.map_none]))
  · exact completes_of_ok ((exec_vsmark_some hr hc hw hx hm).trans (by rw [if_pos ha]))
  · exact completes_of_ok ((exec_vsmark_some hr hc hw hx hm).trans (by rw [if_neg (Bool.not_eq_true _ ▸ ha)]))
  · rw [exec_vswait_waits hr hc ho hp, settle_stall]
  · have hexec := exec_vsdig_done (l := l) hr hc ho hk1 hk4 hdig hp
    refine ⟨fun ha => completes_of_ok (hexec.trans ?_), fun ha hn => hexec.trans ?_, fun mine f ha hm hf hpos => ⟨fun hall => ?_, fun q hq hne hlow => ?_⟩⟩
    · rw [vsdigOpen, if_pos ha, setG_unlatched hl hb]
    · rw [vsdigOpen_sends ha hn, settle_stall] <;> rfl
    · exact completes_of_ok (hexec.trans (congrArg _ (vsdigOpen_equal ha hm hf hl hb hall)))
    · exact completes_of_ok (hexec.trans (congrArg _ (vsdigOpen_differ ha hm hf hl hb hq hne hlow)))

end Sys2Proof

end

section
/-! PROOFS. Memory stays canonical (10): the rules by which a state, an attempt, an option and an answer keep it so; and the operations of the state, of launches and of traps. -/

namespace Sys2Proof.Machine

/-- Memory is in its canonical form. -/
abbrev Canon (s : State) : Prop := Memory.wf s.mem = true

/-- An attempt that stops waits in a state whose memory is canonical. -/
def Stop.Sound : Stop → Prop
  | .stall t => Canon t
  | _ => True

/-- An attempt that goes on gives a result with P; one that stops is sound. -/
def Keeps {α : Type} (P : α → Prop) : Res α → Prop
  | .ok a => P a
  | .error e => e.Sound

/-- What an optional result holds has P. -/
def Yields {α : Type} (P : α → Prop) : Option α → Prop
  | some a => P a
  | none => True

/-- The next state that a meaning answers has canonical memory. -/
def Answers : Host.Outcome State Fault Refusal → Prop
  | .next t => Canon t
  | _ => True

section
variable {s t : State} {α β γ : Type} {P : α → Prop} {Q : β → Prop}

theorem Canon.of (h : Canon s) (e : t.mem = s.mem) : Canon t := by rw [Canon, e]; exact h

theorem Canon.ite {c : Prop} [Decidable c] (hs : Canon s) (ht : Canon t) : Canon (if c then s else t) := by split <;> assumption

theorem Canon.foldl {f : State → γ → State} {xs : List γ} (h : Canon s) (hf : ∀ t x, Canon t → Canon (f t x)) : Canon (xs.foldl f s) :=
  List.foldlRecOn xs f h fun t ht x _ => hf t x ht

theorem foldl_keeps {f : α → γ → α} {xs : List γ} {a : α} (h : P a) (hf : ∀ a x, P a → P (f a x)) : P (xs.foldl f a) :=
  List.foldlRecOn xs f h fun a ha x _ => hf a x ha

theorem keeps_bind {x : Res α} {f : α → Res β} (hx : Keeps P x) (hf : ∀ a, P a → Keeps Q (f a)) : Keeps Q (x >>= f) := by
  cases x with
  | ok a => exact hf a hx
  | error e => exact hx

theorem keeps_need_trap {b : Bool} {t : Trap} {f : Unit → Res β} (hf : Keeps Q (f ())) : Keeps Q (need b (.trap t) >>= f) := by
  cases b with
  | false => exact trivial
  | true => exact hf

theorem keeps_need_hold {b : Bool} {f : Unit → Res β} (hf : Keeps Q (f ())) : Keeps Q (need b .hold >>= f) := by
  cases b with
  | false => exact trivial
  | true => exact hf

theorem keeps_need_stall {b : Bool} {f : Unit → Res β} (ht : Canon t) (hf : Keeps Q (f ())) : Keeps Q (need b (.stall t) >>= f) := by
  cases b with
  | false => exact ht
  | true => exact hf

theorem keeps_check {b : Bool} {e : Stop} (he : e.Sound) : Keeps (fun _ => True) (need b e) := by
  cases b with
  | false => exact he
  | true => exact trivial

theorem keeps_map {x : Res α} {f : α → β} (hx : Keeps P x) (hf : ∀ a, P a → Q (f a)) : Keeps Q (x.map f) := by
  cases x with
  | ok a => exact hf a hx
  | error e => exact hx

theorem keeps_ite {c : Prop} [Decidable c] {x y : Res α} (hx : Keeps P x) (hy : Keeps P y) :
    Keeps P (if c then x else y) := by split <;> assumption

theorem keeps_foldlM {f : α → γ → Res α} {xs : List γ} {a : α} (h : P a) (hf : ∀ a x, P a → Keeps P (f a x)) :
    Keeps P (xs.foldlM f a) := by
  induction xs generalizing a with
  | nil => exact h
  | cons x xs ih =>
    rw [List.foldlM_cons]
    exact keeps_bind (hf a x h) fun _ => ih

theorem Keeps.of_ok {x : Res α} {a : α} (hx : Keeps P x) (e : x = .ok a) : P a := by subst e; exact hx
theorem Keeps.of_error {x : Res α} {e : Stop} (hx : Keeps P x) (he : x = .error e) : e.Sound := by subst he; exact hx

theorem yields_bind {x : Option α} {f : α → Option β} (hx : Yields P x) (hf : ∀ a, P a → Yields Q (f a)) : Yields Q (x.bind f) := by
  cases x with
  | none => exact trivial
  | some a => exact hf a hx

theorem yields_map {x : Option α} {f : α → β} (hx : Yields P x) (hf : ∀ a, P a → Q (f a)) : Yields Q (x.map f) := by
  cases x with
  | none => exact trivial
  | some a => exact hf a hx

theorem yields_none : Yields P none := trivial

theorem yields_ite {c : Prop} [Decidable c] {x y : Option α} (hx : Yields P x) (hy : Yields P y) : Yields P (if c then x else y) := by
  split <;> assumption

theorem yields_foldlM {f : α → γ → Option α} {xs : List γ} {a : α} (h : P a) (hf : ∀ a x, P a → Yields P (f a x)) :
    Yields P (xs.foldlM f a) := by
  induction xs generalizing a with
  | nil => exact h
  | cons x xs ih =>
    rw [List.foldlM_cons]
    exact yields_bind (hf a x h) fun _ => ih

theorem yields_getD {x : Option State} (hx : Yields Canon x) (hs : Canon s) : Canon (x.getD s) := by
  cases x with
  | none => exact hs
  | some a => exact hx

theorem yields_any (x : Option α) : Yields (fun _ => True) x := by cases x <;> trivial
theorem Yields.of_some {x : Option α} {a : α} (hx : Yields P x) (e : x = some a) : P a := by subst e; exact hx

end

/-! ## Functions of Machine/Memory.lean -/

theorem Canon.setCore {s : State} {c : Nat} {v : Core} (h : Canon s) : Canon (State.setCore s c v) :=
  h

theorem Canon.updCore {s : State} {c : Nat} {f : Core → Core} (h : Canon s) : Canon (State.updCore s c f) :=
  h.setCore.of rfl

theorem Canon.setFold {s : State} {f : Nat} {v : Fold} (h : Canon s) : Canon (State.setFold s f v) :=
  h

theorem Canon.updFold {s : State} {f : Nat} {g : Fold → Fold} (h : Canon s) : Canon (State.updFold s f g) :=
  h.setFold.of rfl

theorem Canon.setPart {s : State} {p : Nat} {v : Part} (h : Canon s) : Canon (State.setPart s p v) :=
  h

theorem Canon.updPart {s : State} {p : Nat} {f : Part → Part} (h : Canon s) : Canon (State.updPart s p f) :=
  h.setPart.of rfl

theorem Canon.setMe {s : State} {v : Core} (h : Canon s) : Canon (State.setMe s v) :=
  h.setCore.of rfl

theorem Canon.updMe {s : State} {f : Core → Core} (h : Canon s) : Canon (State.updMe s f) :=
  h.updCore.of rfl

theorem Canon.setByte {s : State} {key : Nat} {b : Byte} (h : Canon s) : Canon (s.setByte key b) := State.setByte_wf s key b h

theorem Canon.setBytes {s : State} {key : Nat} {bs : List Byte} (h : Canon s) : Canon (s.setBytes key bs) := State.setBytes_wf bs s key h

theorem Canon.countEcc {s : State} {key n : Nat} (h : Canon s) : Canon (State.countEcc s key n) :=
  h

theorem Canon.critWalk {s : State} {p job va : Nat} (h : Canon s) : Canon (critWalk s p job va).2 := by
  rw [Canon, (critWalk_keeps s p job va).2.2.2.1]
  exact h

theorem Canon.posted {s : State} {p : Nat} {v : Part} {m : List (Nat × Nat)} (h : Canon s) : Canon { s.setPart p v with msix := m } := h

theorem Canon.beginFault {s : State} {c va : Nat} {acc : BitVec 2} (h : Canon s) : Canon (beginFault s c va acc).2 := by
  delta Machine.beginFault
  dsimp only
  split
  · exact h
  · exact h.setBytes.posted

theorem Canon.dropBad {s : State} {c va : Nat} (h : Canon s) : Canon (dropBad s c va) := by
  unfold Machine.dropBad
  split
  · exact Canon.ite h h
  · exact h

theorem Canon.translateBy {cw : State → Nat → Nat → Nat → Except WalkFail Leaf × State}
    (hcw : ∀ s p job va, Canon s → Canon (cw s p job va).2)
    {s : State} {c va : Nat} {acc : BitVec 2} (h : Canon s) : Keeps (fun x => Canon x.2) (translateBy cw s c va acc) := by
  have hstart := h.beginFault (c := c) (va := va) (acc := acc)
  have hdrop := h.dropBad (c := c) (va := va)
  rw [Machine.translateBy]
  generalize Machine.beginFault s c va acc = bf at hstart ⊢
  generalize Machine.dropBad s c va = t at hdrop ⊢
  dsimp only
  refine keeps_ite h ?_
  split
  · exact hdrop
  · split
    · exact trivial
    · exact keeps_ite hdrop hstart
    · refine keeps_ite hdrop ?_
      have hwalk := hcw t (corePart s c) ((s.core c).job s) va hdrop
      generalize cw t (corePart s c) ((s.core c).job s) va = w at hwalk ⊢
      split
      · exact hwalk
      · exact trivial
      · exact hstart

theorem Canon.translate {s : State} {c va : Nat} {acc : BitVec 2} (h : Canon s) : Keeps (fun x => Canon x.2) (translate s c va acc) := by
  rw [translate_def]
  have hw : ∀ s p job va, Canon s → Canon (Machine.critWalk s p job va).2 := fun _ _ _ _ h => h.critWalk
  exact Canon.translateBy hw h

theorem Canon.setLocal {s : State} {c off : Nat} {bs : List Byte} (h : Canon s) : Canon (setLocal s c off bs) := setLocal_wf bs s c off h

theorem Canon.invalidate {s : State} {c off n : Nat} (h : Canon s) : Canon (invalidate s c off n) := by
  rw [Canon, invalidate_mem]
  exact h

theorem Canon.ptrAdd {p : Word} {off : Int} : Keeps (fun _ => True) (ptrAdd p off) :=
  keeps_ite trivial trivial

theorem Canon.checkWord {s : State} {c v n : Nat} {write det : Bool} (h : Canon s) :
    Keeps (fun x => Canon x.2) (checkWord s c v n write det) := by
  unfold Machine.checkWord
  dsimp only
  split
  · exact keeps_need_trap (keeps_ite (keeps_need_trap h) (keeps_need_trap (keeps_need_trap (keeps_need_trap h))))
  · exact keeps_need_trap (keeps_need_trap (keeps_need_trap h))
  · refine keeps_need_trap (keeps_bind h.translate fun _ h1 => keeps_need_trap ?_)
    split
    · exact trivial
    · exact keeps_need_trap h1
  · exact keeps_need_trap trivial
  · exact keeps_need_trap trivial

theorem Canon.checkRange {s : State} {c v n : Nat} {write det : Bool} (h : Canon s) :
    Keeps (fun x => Canon x.2) (checkRange s c v n write det) := by
  unfold Machine.checkRange
  refine keeps_bind (P := fun (x : _ × State) => Canon x.2) ?_ fun _ h1 => keeps_need_stall h1 h1
  refine keeps_foldlM (P := fun (x : _ × State) => Canon x.2) h fun _ _ h1 => keeps_bind h1.checkWord fun x2 h2 => ?_
  obtain ⟨y0, u⟩ := x2
  dsimp only
  split <;> exact h2

theorem Canon.checkAccess {s : State} {c v n : Nat} {write det : Bool} (h : Canon s) :
    Keeps (fun x => Canon x.2) (checkAccess s c v n write det) := by
  unfold Machine.checkAccess
  split
  · rename_i heq
    have h1 := h.checkRange.of_error heq
    split <;> exact trivial
  · exact h.checkRange

theorem Canon.writeKey {s : State} {k : Nat} {b : Byte} (h : Canon s) : Canon (writeKey s k b) := writeKey_wf s k b h

theorem Canon.writeRange {s : State} {c v : Nat} {tr : SMap Nat} {bs : List Byte} (h : Canon s) : Canon (writeRange s c tr v bs) :=
  writeRange_wf bs s c tr v h

theorem Canon.countEccRanges {s : State} {c : Nat} {tr : SMap Nat} {ranges : List (Nat × Nat)} (h : Canon s) :
    Canon (countEccRanges s c tr ranges) := by
  unfold Machine.countEccRanges
  refine Canon.ite h (h.foldl fun _ _ h1 => ?_)
  split
  · exact h1.countEcc
  · exact h1

theorem Canon.countUninitRead {s : State} {c : Nat} {ranges : List (Nat × Nat)} (h : Canon s) : Canon (countUninitRead s c ranges) := by
  unfold Machine.countUninitRead
  extract_lets k
  refine Canon.ite ?_ h
  split
  · exact h.setCore
  · exact h

theorem Canon.countStaleRead {s : State} {c : Nat} {ranges : List (Nat × Nat)} (h : Canon s) : Canon (countStaleRead s c ranges) := by
  unfold Machine.countStaleRead
  extract_lets k
  refine Canon.ite ?_ h
  split
  · exact h.setCore
  · exact h

theorem Canon.countRead {s : State} {c : Nat} {ranges : List (Nat × Nat)} (h : Canon s) : Canon (countRead s c ranges) :=
  h.countEccRanges.countStaleRead.countUninitRead.of rfl

/-! ## Functions of Machine/Wire.lean -/

theorem Canon.rankWrite {p : Nat} {r : Rank} {bs : List Byte} : ∀ {s : State} {v : Nat}, Canon s → Canon (rankWrite s p r v bs) := by
  induction bs with
  | nil => exact fun h => h
  | cons b bs ih =>
    intro s v h
    refine ih ?_
    split
    · exact h.writeKey
    · exact h

theorem Canon.abortChunk {p : Nat} {r : Rank} {s : State} {j : Nat} (h : Canon s) : Canon (abortChunk p r s j) :=
  h.rankWrite.of rfl

theorem Canon.abortStream {s : State} {p vs : Nat} (h : Canon s) : Canon (abortStream s p vs) := by
  unfold Machine.abortStream
  split
  · exact h
  · extract_lets t1 q q1 t2
    have ht1 : Canon t1 := h.foldl fun _ _ h1 => h1.foldl fun _ _ h2 => h2.abortChunk
    have ht2 : Canon t2 := ht1.setPart
    clear_value t1 t2
    exact ht2

/-! ## Functions of Machine/Launch.lean -/

theorem Canon.agentCount {s : State} {p job v n : Nat} (h : Canon s) : Canon (agentCount s p job v n) := by
  unfold Machine.agentCount
  refine Canon.ite h (h.foldl fun _ _ h1 => ?_)
  split
  · exact h1.countEcc
  · exact h1

theorem Canon.agentWrite {s : State} {p job v : Nat} {w : Word} (h : Canon s) : Canon (agentWrite s p job v w) := by
  unfold Machine.agentWrite
  split
  · exact h.setBytes
  · exact h

theorem Canon.dropUnit {s : State} {p blk rcd : Nat} (h : Canon s) : Canon (dropUnit s p blk rcd) :=
  h

theorem Canon.makeReady {s : State} {p blk rcd : Nat} {l : Launch} (h : Canon s) : Canon (makeReady s p blk rcd l) := by
  unfold Machine.makeReady
  split
  · exact h.updCore
  · extract_lets w0 aff
    exact h.updFold

theorem Canon.setRecState {s : State} {p job rcd st : Nat} (h : Canon s) : Canon (setRecState s p job rcd st) := by
  unfold Machine.setRecState
  split
  · exact h.agentWrite
  · exact h

theorem Canon.wakeUnit {s : State} {p blk rcd : Nat} {aff : Option Nat} (h : Canon s) : Canon (wakeUnit s p blk rcd aff) := by
  unfold Machine.wakeUnit
  split
  · exact h
  · extract_lets t1 t2
    have ht1 : Canon t1 := h.setRecState
    have ht2 : Canon t2 := by
      unfold t2
      split
      · exact ht1.agentWrite
      · exact ht1
    clear_value t1 t2
    exact ht2.makeReady

theorem Canon.joinDecrement {s : State} {p : Nat} {l : Launch} {jb : Nat} (h : Canon s) :
    Yields (fun x => Canon x.2) (joinDecrement s p l jb) := by
  unfold Machine.joinDecrement
  dsimp only
  split
  · exact yields_none
  · refine yields_ite yields_none (yields_ite ?_ (h.agentWrite.of rfl))
    split
    · exact yields_ite (h.agentWrite.updPart.wakeUnit.of rfl) (h.agentWrite.of rfl)
    · exact h.agentWrite.of rfl

theorem Canon.writeErr {s : State} {p blk : Nat} {r : ErrRec} (h : Canon s) : Canon (writeErr s p blk r) :=
  h.updPart.of rfl

theorem Canon.releaseReady {s : State} {p : Nat} (h : Canon s) : Canon (releaseReady s p) := by
  unfold Machine.releaseReady
  refine h.foldl fun _ _ h1 => ?_
  extract_lets src t1
  have ht1 : Canon t1 := h1.updPart
  clear_value t1
  exact ht1.foldl fun _ _ h2 => h2.makeReady

theorem Canon.launchDone {s : State} {p blk status : Nat} {cancelled : Bool} (h : Canon s) :
    Canon (launchDone s p blk status cancelled) := by
  unfold Machine.launchDone
  split
  · exact h
  · extract_lets t1
    have ht1 : Canon t1 := h.updPart
    clear_value t1
    exact ht1.releaseReady

theorem Canon.launchMember {s : State} {p blk status : Nat} (h : Canon s) : Canon (launchMember s p blk status) := by
  unfold Machine.launchMember
  extract_lets b b' t1
  have ht1 : Canon t1 := h.updPart
  clear_value t1
  exact Canon.ite h (Canon.ite ht1.launchDone ht1)

theorem Canon.endCapture {s : State} {c : Nat} (h : Canon s) : Canon (endCapture s c) := by
  unfold Machine.endCapture
  split
  · exact h
  · extract_lets t1
    have ht1 : Canon t1 := by
      unfold t1
      split
      · exact h
      · exact h
    clear_value t1
    exact ht1.updCore

theorem Canon.release {s : State} {c : Nat} {v : Word} (h : Canon s) : Canon (release s c v) :=
  h.updCore.of rfl

theorem Canon.passMutex {s : State} {f i : Nat} (h : Canon s) : Canon (passMutex s f i) := by
  unfold Machine.passMutex
  extract_lets v m
  split
  · exact h.setFold
  · exact h.setFold.release

theorem Canon.releaseMutexes {s : State} {p : Nat} {held : Nat × Nat → Bool} (h : Canon s) : Canon (releaseMutexes s p held) :=
  h.foldl fun _ _ h1 => Canon.ite (h1.foldl fun _ _ h2 => h2.passMutex) h1

theorem Canon.freeShadows {s : State} {es : List QEntry} (h : Canon s) : Canon (freeShadows s es) := by
  unfold Machine.freeShadows
  refine h.foldl fun _ _ h1 => ?_
  split
  · exact Canon.ite h1.updFold h1
  · exact h1

theorem Canon.leaveLines {s : State} {c : Nat} (h : Canon s) : Canon (leaveLines s c) :=
  h.updFold.of rfl

theorem Canon.clearCore {s : State} {c : Nat} (h : Canon s) : Canon (clearCore s c) := by
  unfold Machine.clearCore
  extract_lets k t1 t2 live t3
  have ht1 : Canon t1 := h.endCapture.leaveLines
  have ht2 : Canon t2 := by
    unfold t2
    split
    · exact ht1.updPart
    · exact ht1
  have ht3 : Canon t3 := Canon.ite ht2.updCore ht2
  clear_value t1 t2 t3
  exact ht3.updCore

theorem Canon.mirrorPair {s : State} {c : Nat} (h : Canon s) : Canon (mirrorPair s c) :=
  Canon.ite h.updCore h

theorem Canon.unpair {s : State} {c : Nat} (h : Canon s) : Canon (unpair s c) :=
  h

theorem Canon.releaseMatrix {s : State} {f : Nat} (h : Canon s) : Canon (releaseMatrix s f) := by
  unfold Machine.releaseMatrix
  split
  · exact h
  · exact Canon.ite h.updFold h

theorem Canon.foldWakes {s : State} {f : Nat} (h : Canon s) : Canon (foldWakes s f) :=
  Canon.ite h h.updFold

theorem Canon.stopCore {s : State} {c : Nat} (h : Canon s) : Canon (stopCore s c) :=
  h.clearCore.unpair.foldl fun _ _ h1 => h1.releaseMatrix

theorem Canon.preemptCheck {s : State} {p : Nat} (h : Canon s) : Canon (preemptCheck s p) := by
  unfold Machine.preemptCheck
  split
  · exact h
  · refine Canon.ite h ?_
    extract_lets away
    exact h.updPart

theorem Canon.unitGone {s : State} {p blk rcd status : Nat} (h : Canon s) : Canon (unitGone s p blk rcd status) := by
  unfold Machine.unitGone
  split
  · exact h
  · extract_lets t1 jb t2 t3 starved out t4 t5 t6
    have ht1 : Canon t1 := h.releaseMutexes.dropUnit
    have ht2 : Canon t2 := ht1.agentCount.setRecState
    have ht3 : Canon t3 := Canon.ite ht2 (yields_getD (yields_map ht2.joinDecrement fun _ h1 => h1) ht2)
    have ht4 : Canon t4 := ht3.updPart
    have ht5 : Canon t5 := ht4.foldl fun _ _ h1 => h1.releaseMatrix
    have ht6 : Canon t6 := ht5.foldl fun _ _ h1 => Canon.ite h1 h1.wakeUnit
    clear_value t1 t2 t3 t4 t5 t6
    exact ht6.launchMember.preemptCheck

theorem Canon.cancelUnit {s : State} {p blk rcd status : Nat} (h : Canon s) : Canon (cancelUnit s p blk rcd status) := by
  unfold Machine.cancelUnit
  extract_lets t1
  have ht1 : Canon t1 := by
    unfold t1
    split
    · exact h.stopCore.of rfl
    · exact h.updPart.of rfl
  clear_value t1
  exact ht1.unitGone

theorem Canon.abortCollectives {s : State} {p blk : Nat} (h : Canon s) : Canon (abortCollectives s p blk) :=
  h.foldl fun _ _ h1 => h1.abortStream

theorem Canon.cancelOne {s : State} {p blk status : Nat} (h : Canon s) : Canon (cancelOne s p blk status) := by
  unfold Machine.cancelOne
  split
  · exact h
  · refine Canon.ite h ?_
    extract_lets mine t1 t2 sweep t3 t4 t5 t6 b gone t7
    have ht1 : Canon t1 := (h.foldl fun _ _ h1 => h1.stopCore).releaseMutexes
    have ht2 : Canon t2 := Canon.ite ht1 (ht1.foldl fun _ _ h1 => h1.dropUnit.setRecState)
    have ht3 : Canon t3 := ht2
    have ht4 : Canon t4 := ht3.abortCollectives
    have ht5 : Canon t5 := ht4.foldl fun _ _ h1 => h1.updCore
    have ht6 : Canon t6 := ht5.updPart
    have ht7 : Canon t7 := ht6.updPart
    clear_value t1 t2 t3 t4 t5 t6 t7
    exact ht7.launchDone.foldl fun _ _ h1 => h1.releaseMatrix

theorem Canon.sweepDead {p n : Nat} : ∀ {s : State}, Canon s → Canon (sweepDead p n s) := by
  induction n with
  | zero => exact fun h => h
  | succ n ih =>
    intro s h
    rw [Machine.sweepDead]
    split
    · exact ih h.cancelOne
    · exact h

theorem Canon.cancelLaunch {s : State} {p blk status : Nat} (h : Canon s) : Canon (cancelLaunch s p blk status) :=
  h.cancelOne.sweepDead.of rfl

theorem Canon.cancelAbove {s : State} {p : Nat} {k : BKind} {i status : Nat} (h : Canon s) : Canon (cancelAbove s p k i status) :=
  ((h.setPart.foldl fun _ _ h1 => h1.cancelLaunch).updPart).of rfl

theorem Canon.cancelLevel {s : State} {p : Nat} {lv : Level} (h : Canon s) : Canon (cancelLevel s p lv).2 := by
  unfold Machine.cancelLevel
  dsimp only
  split
  · exact h
  · exact h.cancelUnit.of rfl
  · split
    · exact h
    · exact h.cancelLaunch.of rfl
  · split
    · split
      · exact h
      · exact h.cancelAbove.of rfl
    · split
      · exact h
      · exact h.cancelAbove.of rfl

theorem Canon.endFailed {s : State} {c status : Nat} {cause : BitVec 8} {epc : Nat} {einfo : Word} (h : Canon s) :
    Canon (endFailed s c status cause epc einfo) := by
  unfold Machine.endFailed
  split
  · extract_lets t1
    have ht1 : Canon t1 := h.updCore
    clear_value t1
    exact ht1
  · extract_lets t1
    have ht1 : Canon t1 := h.writeErr
    clear_value t1
    exact Canon.ite ht1.cancelLaunch ht1.cancelUnit

/-! ## Functions of Machine/Ops.lean -/

theorem Canon.restoreLine {c : Nat} {s : State} {j : JEntry} (h : Canon s) : Canon (restoreLine c s j) :=
  h.setBytes.updCore.of rfl

theorem Canon.yokeRestore {s : State} {c state consumed : Nat} (h : Canon s) : Canon (yokeRestore s c state consumed) := by
  unfold Machine.yokeRestore
  extract_lets k src
  split
  · exact h
  · extract_lets t1 t2 awaited y' n ts src1
    have ht1 : Canon t1 := h.freeShadows
    have ht2 : Canon t2 := ht1.foldl fun _ _ h1 => h1.restoreLine
    clear_value t1 t2
    exact ht2.updCore.mirrorPair

theorem Canon.discardWork {s : State} {c : Nat} (h : Canon s) : Canon (discardWork s c) :=
  h.endCapture.leaveLines.freeShadows.updCore.of rfl

theorem Canon.stopGang {s : State} {p b : Nat} (h : Canon s) : Canon (stopGang s p b) := by
  unfold Machine.stopGang
  extract_lets t1 undo drop
  have ht1 : Canon t1 := h.foldl fun _ _ h1 => h1.discardWork
  clear_value t1
  exact Canon.abortCollectives ht1

theorem Canon.contain {s : State} {c : Nat} {t : Trap} {einfo : Word} (h : Canon s) : Canon (contain s c t einfo) := by
  unfold Machine.contain
  extract_lets k
  split
  · exact h.endFailed
  · extract_lets hw t1 e t2
    have ht1 : Canon t1 := h.writeErr
    have ht2 : Canon t2 := ht1.stopGang.updPart
    clear_value t1 t2
    refine Canon.ite (Canon.ite ht1 (Canon.ite ht1.cancelLaunch (Canon.ite ht2 ht2))) ?_
    split
    · exact Canon.ite h.endFailed h.yokeRestore
    · exact h.endFailed

theorem Canon.takeTrap {s : State} {t : Trap} {slotA : Bool} (h : Canon s) : Canon (takeTrap s t slotA) := by
  unfold Machine.takeTrap
  extract_lets c einfo own t1 t2 t3 k cap estat estat1 k1 h1 vcap src t4
  have ht1 : Canon t1 := Canon.ite h h
  have ht2 : Canon t2 := ht1
  have ht3 : Canon t3 := ht2.updCore.endCapture
  have ht4 : Canon t4 := Canon.ite ht3.contain (Canon.ite ht3.endFailed ht3.setCore)
  clear_value t1 t2 t3 t4
  exact ht4

theorem Canon.returnFromTrap {s : State} (h : Canon s) : Canon (returnFromTrap s) :=
  h.setMe.of rfl

theorem Canon.settle {s : State} {r : Res State} (h : Canon s) (hr : Keeps Canon r) : Answers (settle s r) := by
  cases r with
  | ok t => exact hr
  | error e =>
    cases e with
    | trap t => exact h.takeTrap
    | hold => exact h
    | stall t => exact hr

theorem Canon.event {s0 : State} {due : Bool} {s : State} (h : Canon s0) (h1 : Canon s) : Answers (event s0 due s) := by
  unfold Machine.event
  split
  · exact h1
  · exact h

end Sys2Proof.Machine

end

section
/-! PROOFS. Memory stays canonical: operands, control registers, queue entries, order, loads and stores. -/

namespace Sys2Proof.Machine

/-! ## Functions of Machine/Operands.lean -/

theorem Canon.ringRead {trapMode : Bool} {es : List RingEntry} : Keeps (fun _ => True) (ringRead trapMode es) := by
  unfold Machine.ringRead
  refine keeps_foldlM (P := fun _ => True) trivial fun _ _ _ => ?_
  split
  · exact trivial
  · exact trivial
  · exact keeps_ite trivial trivial

theorem Canon.popStream {s : State} {b n : Nat} (h : Canon s) : Keeps (fun x => Canon x.2.2) (popStream s b n) :=
  keeps_need_trap (keeps_need_trap (keeps_need_hold (keeps_bind Canon.ringRead fun _ _ => h.setMe.of rfl)))

theorem Canon.countPops {s : State} {m : Option Nat} (h : Canon s) : Canon (countPops s m) := by
  unfold Machine.countPops
  split
  · exact h.updMe
  · exact h

theorem Canon.pushStream {s : State} {b : Nat} {ws : List Word} (h : Canon s) : Keeps Canon (pushStream s b ws) :=
  keeps_need_trap (keeps_need_trap (keeps_need_hold h.setMe))

theorem Canon.popEach {bs : List Nat} {m : Option Nat} {s : State} (h : Canon s) : Keeps (fun x => Canon x.2) (popEach bs m s) :=
  keeps_foldlM (P := fun (x : _ × State) => Canon x.2) h fun _ _ h1 => keeps_map h1.popStream fun _ h2 => h2

theorem Canon.withLater {s : State} {srcs later dests : List Nat} {chk : Res Unit} {f : Option Nat → State → Res State} (h : Canon s)
    (hc : Keeps (fun _ => True) chk) (hf : ∀ m t, Canon t → Keeps Canon (f m t)) : Keeps Canon (withLater s srcs later dests chk f) := by
  unfold Machine.withLater
  refine keeps_need_hold (keeps_bind hc fun _ _ => ?_)
  split
  · exact trivial
  · exact keeps_bind h.popEach fun x hx => hf _ _ hx

theorem Canon.popLater {s : State} {srcs later : List Nat} {m : Option Nat} {s' : State} (h : Canon s) (h1 : Canon s') :
    Keeps (fun x => Canon x.2) (popLater s srcs later m s') := by
  unfold Machine.popLater
  split
  · exact trivial
  · exact h1.popEach

theorem Canon.withPops {s : State} {srcs dests : List Nat} {chk : Res Unit} {f : Option Nat → State → Res State} (h : Canon s)
    (hc : Keeps (fun _ => True) chk) (hf : ∀ m t, Canon t → Keeps Canon (f m t)) : Keeps Canon (withPops s srcs dests chk f) :=
  h.withLater hc hf

theorem Canon.withChecked {s : State} {srcs dests : List Nat} {chk : Res Unit} {f : State → Res State} (h : Canon s)
    (hc : Keeps (fun _ => True) chk) (hf : ∀ t, Canon t → Keeps Canon (f t)) : Keeps Canon (withChecked s srcs dests chk f) :=
  h.withPops hc fun _ _ ht => hf _ ht.countPops

theorem Canon.withRegs {s : State} {srcs dests : List Nat} {f : State → Res State} (h : Canon s)
    (hf : ∀ t, Canon t → Keeps Canon (f t)) : Keeps Canon (withRegs s srcs dests f) :=
  h.withChecked trivial hf

theorem Canon.setG {s : State} {d : Nat} {v : Word} (h : Canon s) : Keeps Canon (setG s d v) := by
  unfold Machine.setG
  refine keeps_ite h ?_
  split
  · exact h.pushStream
  · exact h.updMe

theorem Canon.gRoom {s s' : State} {d : Nat} (h : Canon s) (h1 : Canon s') : Keeps (fun _ => True) (gRoom s s' d) := by
  unfold Machine.gRoom
  dsimp only
  split
  · exact trivial
  · exact keeps_need_trap (keeps_check (by trivial))

theorem Canon.groupFree {s : State} {first n : Nat} (h : Canon s) : Keeps (fun _ => True) (groupFree s first n) :=
  keeps_need_trap (keeps_check (by trivial))

theorem Canon.setGroup {s : State} {first n v : Nat} (h : Canon s) : Keeps Canon (setGroup s first n v) :=
  keeps_foldlM (P := Canon) h fun _ _ h1 => h1.setG

theorem Canon.deliverG {s : State} {c d : Nat} {v : Word} (h : Canon s) : Yields Canon (deliverG s c d v) :=
  yields_map (yields_any _) fun _ _ => h.setCore

theorem Canon.deliverAction {s : State} {c d : Nat} {v : Word} (h : Canon s) : Yields Canon (deliverAction s c d v) :=
  yields_map h.deliverG fun _ h1 => h1.updCore

/-! ## Functions of Machine/Control.lean -/

theorem Canon.codeKey {s : State} {c a n : Nat} (h : Canon s) : Keeps (fun x => Canon x.2) (codeKey s c a n) := by
  unfold Machine.codeKey
  dsimp only
  refine keeps_bind (P := fun (x : _ × State) => Canon x.2) ?_ fun _ h1 => keeps_need_hold (keeps_need_trap h1)
  split
  · exact keeps_ite h trivial
  · refine keeps_bind h.translate fun _ h1 => ?_
    split
    · exact h1
    · exact trivial
  · exact trivial

theorem Canon.readCode {s : State} {c a n : Nat} (h : Canon s) : Keeps (fun x => Canon x.2) (readCode s c a n) :=
  keeps_foldlM (P := fun (x : _ × State) => Canon x.2) h fun _ _ h1 => keeps_bind h1.codeKey fun _ h2 => h2

theorem Canon.cachedCode {s : State} {a n : Nat} (h : Canon s) : Keeps (fun _ => True) (cachedCode s a n) := by
  unfold Machine.cachedCode
  refine keeps_ite trivial ?_
  split <;> exact trivial

theorem Canon.execNopCSlot {x0 : Lit} {s : State} (h : Canon s) : Answers (execNopCSlot x0 s) :=
  h.settle h

theorem Canon.execMovi {x0 : Lit} {d : BitVec 5} {i : BitVec 20} {s : State} (h : Canon s) : Answers (execMovi x0 d i s) :=
  h.settle (h.withRegs fun _ h1 => h1.setG)

theorem Canon.ldlPool {s : State} {d : Nat} {p : BitVec 18} {n : Nat} {ext : Nat → Word} (h : Canon s) : Answers (ldlPool s d p n ext) :=
  h.settle (h.withRegs fun _ h1 => keeps_need_trap (keeps_need_trap (keeps_bind h.cachedCode fun _ _ => h1.setG)))

theorem Canon.execLdlW {x0 : Lit} {d : BitVec 5} {p : BitVec 18} {s : State} (h : Canon s) : Answers (execLdlW x0 d p s) :=
  h.ldlPool

theorem Canon.execLdlD {x0 : Lit} {d : BitVec 5} {p : BitVec 18} {s : State} (h : Canon s) : Answers (execLdlD x0 d p s) :=
  h.ldlPool

theorem Canon.execLdlC {d : BitVec 5} {lit : Word32} {s : State} (h : Canon s) : Answers (execLdlC d lit s) :=
  h.settle (h.withRegs fun _ h1 => h1.setG)

theorem Canon.addPtr {p : Word} {off : Int} : Keeps (fun _ => True) (addPtr p off) :=
  keeps_bind Canon.ptrAdd fun _ _ => trivial

theorem Canon.execAdda {l : Lit} {d a b : BitVec 5} {s : State} (h : Canon s) : Answers (execAdda l d a b s) :=
  h.settle (h.withRegs fun _ h1 => keeps_bind Canon.addPtr fun _ _ => h1.setG)

theorem Canon.execLea {l : Lit} {d a b : BitVec 5} {h : BitVec 3} {s : State} (hs : Canon s) : Answers (execLea l d a b h s) :=
  hs.settle (hs.withRegs fun _ h1 => keeps_bind Canon.addPtr fun _ _ => h1.setG)

theorem Canon.execPtag {l : Lit} {d a b : BitVec 5} {s : State} (h : Canon s) : Answers (execPtag l d a b s) :=
  h.settle (h.withLater trivial fun _ _ h1 => keeps_need_trap (keeps_bind (h.popLater h1) fun _ h2 => keeps_need_trap h2.countPops.setG))

theorem Canon.execPfmt {x0 : Lit} {d a : BitVec 5} {s : State} (h : Canon s) : Answers (execPfmt x0 d a s) :=
  h.settle (h.withRegs fun _ h1 => h1.setG)

theorem Canon.execPbase {x0 : Lit} {d a : BitVec 5} {s : State} (h : Canon s) : Answers (execPbase x0 d a s) :=
  h.settle (h.withRegs fun _ h1 => h1.setG)

theorem Canon.jump {s : State} {t : Int} (h : Canon s) : Canon (State.jump s t) :=
  h.updMe.of rfl

theorem Canon.branchIf {s s' : State} {b : Bool} {disp : Int} (h : Canon s) (h1 : Canon s') : Canon (branchIf s s' b disp) :=
  Canon.ite h1.jump h1

theorem Canon.execBr {l : Lit} {a b : BitVec 5} {c : BitVec 4} {p : BitVec 11} {s : State} (h : Canon s) :
    Answers (execBr l a b c p s) := by
  unfold Machine.execBr
  refine h.settle (h.withRegs fun _ h1 => ?_)
  split
  · exact h.branchIf h1
  · exact trivial

theorem Canon.bbitOne {s : State} {l : Lit} {a b n : Nat} {p : BitVec 11} {want : Bool} (h : Canon s) :
    Answers (bbitOne s l a b n p want) :=
  h.settle (h.withChecked h.groupFree fun _ h1 => h.branchIf h1)

theorem Canon.bbitAll {s : State} {a n : Nat} {p : BitVec 11} {zero : Bool} (h : Canon s) : Answers (bbitAll s a n p zero) :=
  h.settle (h.withChecked h.groupFree fun _ h1 => h.branchIf h1)

theorem Canon.execBbc {l : Lit} {a b : BitVec 5} {n : BitVec 2} {p : BitVec 11} {s : State} (h : Canon s) :
    Answers (execBbc l a b n p s) :=
  h.bbitOne

theorem Canon.execBbs {l : Lit} {a b : BitVec 5} {n : BitVec 2} {p : BitVec 11} {s : State} (h : Canon s) :
    Answers (execBbs l a b n p s) :=
  h.bbitOne

theorem Canon.execBbz {x0 : Lit} {a : BitVec 5} {n : BitVec 2} {p : BitVec 11} {s : State} (h : Canon s) : Answers (execBbz x0 a n p s) :=
  h.bbitAll

theorem Canon.execBbnz {x0 : Lit} {a : BitVec 5} {n : BitVec 2} {p : BitVec 11} {s : State} (h : Canon s) :
    Answers (execBbnz x0 a n p s) :=
  h.bbitAll

theorem Canon.execJ {x0 : Lit} {p : BitVec 20} {s : State} (h : Canon s) : Answers (execJ x0 p s) :=
  h.settle h.jump

theorem Canon.execJl {x0 : Lit} {p : BitVec 20} {s : State} (h : Canon s) : Answers (execJl x0 p s) :=
  h.settle (h.withRegs fun _ h1 => keeps_map h1.setG fun _ h2 => h2.jump)

theorem Canon.execJr {l : Lit} {d a b : BitVec 5} {s : State} (h : Canon s) : Answers (execJr l d a b s) :=
  h.settle (h.withRegs fun _ h1 => keeps_need_trap (keeps_need_trap (keeps_map h1.setG fun _ h2 => h2.jump)))

theorem Canon.macroEntry {s : State} {e rx ry rz : Nat} (h : Canon s) : Keeps (fun x => Canon x.2) (macroEntry s e rx ry rz) := by
  unfold Machine.macroEntry
  dsimp only
  split
  · refine keeps_ite trivial ?_
    split
    · exact h
    · exact keeps_bind h.readCode fun _ h1 => keeps_need_trap (keeps_bind h1.readCode fun _ h2 => keeps_need_trap (h2.updFold.of rfl))
  · exact trivial

theorem Canon.execMacroOp {x y z : BitVec 5} {e : BitVec 8} {x0 : Word32} {s : State} (h : Canon s) :
    Answers (execMacroOp x y z e x0 s) := by
  unfold Machine.execMacroOp
  dsimp only
  refine h.settle (keeps_bind h.macroEntry fun _ h1 => ?_)
  split
  · exact trivial
  · exact h1.updMe

/-! ## Functions of Machine/Order.lean -/

theorem Canon.deferredOf {k : Core} {qs : List Nat} : Yields Stop.Sound (Core.deferredOf k qs) :=
  yields_bind (yields_any _) fun _ _ => yields_map (yields_any _) fun _ _ => trivial

theorem Canon.streamErr {k : Core} : Yields Stop.Sound (Core.streamErr k) :=
  yields_bind (yields_any _) fun _ _ => yields_map (yields_any _) fun _ _ => trivial

/-! ## Functions of Machine/LoadStore.lean -/

theorem Canon.serveEvents {f e n : Nat} : ∀ {s : State}, Canon s → Canon (serveEvents s f e n) := by
  induction n with
  | zero => exact fun h => h
  | succ n ih =>
    intro s h
    unfold Machine.serveEvents
    extract_lets v cnt
    split
    · refine Canon.ite h ?_
      extract_lets t1 p t2
      have ht1 : Canon t1 := h.setFold
      have ht2 : Canon t2 := by
        unfold t2
        split
        · exact ht1.release
        · exact ht1.wakeUnit
      exact ih ht2
    · exact h

theorem Canon.addEvent {s : State} {f e n : Nat} (h : Canon s) : Canon (addEvent s f e n) := by
  unfold Machine.addEvent
  extract_lets v t1 t2
  have ht1 : Canon t1 := h.setFold
  have ht2 : Canon t2 := by
    unfold t2
    refine ht1.foldl fun _ _ h1 => ?_
    split
    · exact h1.updCore.of rfl
    · exact h1.updCore.of rfl
    · exact h1
  clear_value t1 t2
  exact ht2.serveEvents

theorem Canon.eventLoad {s : State} {o : Nat} (h : Canon s) : Keeps (fun x => Canon x.2) (eventLoad s o) := by
  unfold Machine.eventLoad
  dsimp only
  split
  · exact h.setMe.of rfl
  · exact h.updCore
  · exact keeps_ite (keeps_need_trap (keeps_ite h.setFold.updCore h.updCore))
      (keeps_ite (keeps_ite (h.setFold.of rfl) h.setFold.updCore) (keeps_ite (keeps_ite (h.setFold.of rfl) h.setFold.updCore)
  (keeps_ite h (keeps_ite h trivial))))

theorem Canon.eventStore {s : State} {o : Nat} {w : Word} (h : Canon s) : Keeps Canon (eventStore s o w) :=
  keeps_ite (keeps_need_trap (keeps_need_stall h h.passMutex)) (keeps_ite (keeps_need_stall h h.addEvent)
      (keeps_ite (keeps_need_stall h h.setFold) (keeps_ite (keeps_need_stall h h.setFold) trivial)))

theorem Canon.execBarrierRelease {f b : Nat} {s : State} (h : Canon s) : Answers (execBarrierRelease f b s) := by
  unfold Machine.execBarrierRelease
  dsimp only
  exact h.event (h.foldl fun _ _ h1 => h1.setFold.foldl fun _ _ h2 => h2.release)

theorem Canon.loadWait {s : State} {v n : Nat} (h : Canon s) : Keeps (fun _ => True) (loadWait s v n) := by
  unfold Machine.loadWait
  dsimp only
  refine keeps_need_hold (keeps_need_hold ?_)
  split
  · exact keeps_check (by trivial)
  · exact trivial

theorem Canon.doLoad {s0 s : State} {v n d : Nat} {sx : Bool} (h : Canon s0) (h1 : Canon s) : Keeps Canon (doLoad s0 s v n d sx) := by
  unfold Machine.doLoad
  dsimp only
  refine keeps_bind h1.loadWait fun _ _ => ?_
  refine keeps_need_trap (keeps_ite (keeps_need_trap (keeps_need_trap (keeps_bind h1.eventLoad fun _ h3 => h3.setG))) ?_)
  refine keeps_bind h1.checkAccess fun _ h3 => keeps_ite h3.countRead.setG ?_
  split
  · exact keeps_ite h3.setG h3.setG
  · exact keeps_bind (h.gRoom h3) fun _ _ => h3.updMe

theorem Canon.atPtr {p : Word} {off : Int} {w : Nat → Res Unit} (hw : ∀ v, Keeps (fun _ => True) (w v)) :
    Keeps (fun _ => True) (atPtr p off w) := by
  unfold Machine.atPtr
  split
  · exact hw _
  · exact trivial

theorem Canon.execLd {x0 : Lit} {d a : BitVec 5} {z : BitVec 2} {x : BitVec 1} {o : BitVec 12} {s : State} (h : Canon s) :
    Answers (execLd x0 d a z x o s) :=
  h.settle (keeps_need_trap (h.withChecked (Canon.atPtr fun _ => h.loadWait) fun _ h1 => keeps_bind Canon.ptrAdd fun _ _ => h.doLoad h1))

theorem Canon.storeWait {s : State} {v n : Nat} (h : Canon s) : Keeps (fun _ => True) (storeWait s v n) := by
  unfold Machine.storeWait
  dsimp only
  refine keeps_need_hold ?_
  split
  · exact trivial
  · exact keeps_check (by trivial)
  · exact keeps_check (by trivial)
  · exact keeps_check (by trivial)

theorem Canon.doStore {s : State} {v : Nat} {bs : List Byte} {pop : State → Res State} (h : Canon s)
    (hp : ∀ t, Canon t → Keeps Canon (pop t)) : Keeps Canon (doStore s v bs pop) := by
  unfold Machine.doStore
  dsimp only
  have hc := h.checkAccess (c := s.cur) (v := v) (n := bs.length) (write := true) (det := s.det)
  refine keeps_bind h.storeWait fun _ _ => keeps_need_trap (keeps_ite (keeps_need_trap (keeps_need_trap ?_)) ?_)
  · generalize v - eventBase = o
    generalize BitVec.ofNat 64 (leNat bs) = w
    split
    · exact trivial
    · exact keeps_bind (hp _ h) fun _ ht => ht.eventStore
  · split
    · next heq =>
      have h1 := hc.of_error heq
      exact keeps_ite (keeps_bind (hp _ h) fun _ _ => h1) h1
    · next heq => exact hc.of_error heq
    · next heq =>
      have h1 := hc.of_ok heq
      refine keeps_bind (hp _ h1) fun _ ht => keeps_ite ht.writeRange ?_
      split <;> exact ht.updMe

theorem Canon.execSt {x0 : Lit} {r a : BitVec 5} {z : BitVec 2} {o : BitVec 12} {s : State} (h : Canon s) :
    Answers (execSt x0 r a z o s) :=
  h.settle (h.withLater (Canon.atPtr fun _ => h.storeWait) fun _ _ h1 => keeps_bind Canon.ptrAdd fun _ _ => h1.doStore fun _ h3 =>
      keeps_bind (h.popLater h3) fun _ h4 => h4.countPops)

theorem Canon.amoReadChecks {s : State} {c v n : Nat} {tr : SMap Nat} (h : Canon s) :
    Keeps (fun _ => True) (amoReadChecks s c v n tr) := by
  unfold Machine.amoReadChecks
  dsimp only
  split
  · exact trivial
  · split <;> exact trivial

theorem Canon.amoWait {s : State} {v n sc ord : Nat} (h : Canon s) : Keeps (fun _ => True) (amoWait s v n sc ord) :=
  keeps_need_hold (keeps_need_hold (keeps_need_hold (keeps_check (by trivial))))

theorem Canon.amo {s : State} {l : Lit} {op d a b sc ord n : Nat} (h : Canon s) : Answers (amo s l op d a b sc ord n) := by
  unfold Machine.amo
  dsimp only
  refine h.settle (keeps_need_trap ?_)
  refine h.withChecked (Canon.atPtr fun _ => h.amoWait) fun _ h1 => keeps_need_trap (keeps_need_trap (keeps_need_trap ?_))
  split
  · exact keeps_need_trap (keeps_bind h1.checkAccess fun _ h2 => keeps_bind h2.amoReadChecks fun _ _ =>
      h2.countEccRanges.countUninitRead.writeRange.setG)
  · exact keeps_need_trap h1.updFold.setG
  · exact keeps_need_trap (keeps_need_trap (keeps_bind h1.checkAccess fun _ h2 => keeps_bind h2.amoReadChecks fun _ _ => keeps_bind
      (h.gRoom h2) fun _ _ => h2.updMe))

theorem Canon.execAmoAdd {l : Lit} {d a b : BitVec 5} {sc o : BitVec 2} {z : BitVec 1} {s : State} (h : Canon s) :
    Answers (execAmoAdd l d a b sc o z s) :=
  h.amo

theorem Canon.execAmoFadd {l : Lit} {d a b : BitVec 5} {sc o : BitVec 2} {s : State} (h : Canon s) :
    Answers (execAmoFadd l d a b sc o s) :=
  h.amo

theorem Canon.execAmoMin {l : Lit} {d a b : BitVec 5} {sc o : BitVec 2} {z : BitVec 1} {s : State} (h : Canon s) :
    Answers (execAmoMin l d a b sc o z s) :=
  h.amo

theorem Canon.execAmoMax {l : Lit} {d a b : BitVec 5} {sc o : BitVec 2} {z : BitVec 1} {s : State} (h : Canon s) :
    Answers (execAmoMax l d a b sc o z s) :=
  h.amo

theorem Canon.execAmoMinu {l : Lit} {d a b : BitVec 5} {sc o : BitVec 2} {z : BitVec 1} {s : State} (h : Canon s) :
    Answers (execAmoMinu l d a b sc o z s) :=
  h.amo

theorem Canon.execAmoMaxu {l : Lit} {d a b : BitVec 5} {sc o : BitVec 2} {z : BitVec 1} {s : State} (h : Canon s) :
    Answers (execAmoMaxu l d a b sc o z s) :=
  h.amo

theorem Canon.execAmoFmin {l : Lit} {d a b : BitVec 5} {sc o : BitVec 2} {s : State} (h : Canon s) :
    Answers (execAmoFmin l d a b sc o s) :=
  h.amo

theorem Canon.execAmoFmax {l : Lit} {d a b : BitVec 5} {sc o : BitVec 2} {s : State} (h : Canon s) :
    Answers (execAmoFmax l d a b sc o s) :=
  h.amo

theorem Canon.execAmoAmax {l : Lit} {d a b : BitVec 5} {sc o : BitVec 2} {s : State} (h : Canon s) :
    Answers (execAmoAmax l d a b sc o s) :=
  h.amo

theorem Canon.execAmoAnd {l : Lit} {d a b : BitVec 5} {sc o : BitVec 2} {z : BitVec 1} {s : State} (h : Canon s) :
    Answers (execAmoAnd l d a b sc o z s) :=
  h.amo

theorem Canon.execAmoOr {l : Lit} {d a b : BitVec 5} {sc o : BitVec 2} {z : BitVec 1} {s : State} (h : Canon s) :
    Answers (execAmoOr l d a b sc o z s) :=
  h.amo

theorem Canon.execAmoXor {l : Lit} {d a b : BitVec 5} {sc o : BitVec 2} {z : BitVec 1} {s : State} (h : Canon s) :
    Answers (execAmoXor l d a b sc o z s) :=
  h.amo

theorem Canon.execAmoSwap {l : Lit} {d a b : BitVec 5} {sc o : BitVec 2} {z : BitVec 1} {s : State} (h : Canon s) :
    Answers (execAmoSwap l d a b sc o z s) :=
  h.amo

theorem Canon.execAmoCas {l : Lit} {d a b : BitVec 5} {sc o : BitVec 2} {z : BitVec 1} {s : State} (h : Canon s) :
    Answers (execAmoCas l d a b sc o z s) :=
  h.amo

theorem Canon.execAmoAmaxrst {l : Lit} {d a b : BitVec 5} {sc o : BitVec 2} {z : BitVec 1} {s : State} (h : Canon s) :
    Answers (execAmoAmaxrst l d a b sc o z s) :=
  h.amo

theorem Canon.deliverV {s : State} {c r len : Nat} {ws : List (Option Word32)} (h : Canon s) : Yields Canon (deliverV s c r len ws) := by
  unfold Machine.deliverV
  dsimp only
  split
  · exact h.setCore
  · exact yields_ite h.setCore (yields_ite (Canon.setCore h) yields_none)

theorem Canon.performLoad {s : State} {c i : Nat} (h : Canon s) : Yields Canon (performLoad s c i) := by
  unfold Machine.performLoad
  dsimp only
  split
  · exact yields_none
  · split
    · exact Canon.contain h
    · split
      · exact h.updCore.countEccRanges.deliverG
      · exact h.updCore.countEccRanges.writeRange.deliverAction
      · exact h.updCore.countEccRanges.deliverV
      · exact h.updCore.countEccRanges.updCore.deliverV

theorem Canon.execLoadReturn {c i : Nat} {s : State} (h : Canon s) : Answers (execLoadReturn c i s) := by
  unfold Machine.execLoadReturn
  split
  · rename_i heq
    have h1 := h.performLoad.of_some heq
    exact h.event h1
  · exact h.event h

theorem Canon.drainOne {s : State} {c : Nat} (h : Canon s) : Canon (drainOne s c) := by
  unfold Machine.drainOne
  split
  · exact h.setBytes.updCore
  · exact h

theorem Canon.execStoreDrain {c : Nat} {s : State} (h : Canon s) : Answers (execStoreDrain c s) :=
  h.event h.drainOne

end Sys2Proof.Machine

end

section
/-! PROOFS. Memory stays canonical: the vector unit, the engines, matrix and copy entries. -/

namespace Sys2Proof.Machine

/-! ## Functions of Machine/Vector.lean -/

theorem Canon.vroom {s s' : State} {r len : Nat} (h : Canon s) (h1 : Canon s') : Keeps (fun _ => True) (vroom s s' r len) := by
  unfold Machine.vroom
  dsimp only
  split
  · exact trivial
  · exact keeps_need_trap (keeps_check (by trivial))

theorem Canon.vpops {s s' : State} {m : Option Nat} {len : Nat} {rs : List Nat} (h : Canon s) (h1 : Canon s') :
    Keeps (fun x => Canon x.2.2) (vpops s s' m len rs) := by
  unfold Machine.vpops
  refine keeps_foldlM (P := fun (x : _ × _ × State) => Canon x.2.2) h1 fun _ _ h2 => ?_
  split
  · exact keeps_need_trap (keeps_ite h2 (keeps_bind h2.popStream fun _ h3 => h3))
  · exact h2

theorem Canon.acceptPopped {s s' : State} {m : Option Nat} {e : VEntry} (h : Canon s) (h1 : Canon s') :
    Keeps Canon (acceptPopped s s' m e) := by
  unfold Machine.acceptPopped
  refine keeps_need_hold (keeps_need_trap (keeps_bind (h.vpops h1) fun x h2 => ?_))
  obtain ⟨y0, y1, u⟩ := x
  dsimp only
  split
  · exact keeps_bind (h.vroom h2) fun _ _ => h2.countPops.updMe
  · exact keeps_bind (P := fun _ => True) trivial fun _ _ => h2.countPops.updMe

theorem Canon.acceptEntry {s s' : State} {e : VEntry} (h : Canon s) (h1 : Canon s') : Keeps Canon (acceptEntry s s' e) :=
  h.acceptPopped h1

theorem Canon.vecOp {s : State} {op : VOp} {d a b c k : Nat} {f : VEntry → VEntry} (h : Canon s) : Answers (vecOp s op d a b c k f) :=
  h.settle (h.withPops (keeps_need_hold (keeps_ite trivial h.groupFree)) fun _ _ h1 => h.acceptPopped h1)

theorem Canon.vecCmp {s : State} {o : VCmpOp} {a b gd : Nat} (h : Canon s) : Answers (vecCmp s o a b gd) :=
  h.settle (h.withRegs fun _ h1 => keeps_need_hold (keeps_need_trap (keeps_need_trap (h.acceptEntry h1))))

theorem Canon.writeSome {c : Nat} {tr : SMap Nat} {bs : List (Option Byte)} :
    ∀ {s : State} {v : Nat}, Canon s → Canon (writeSome s c tr v bs) := by
  induction bs with
  | nil => exact fun h => h
  | cons b bs ih =>
    intro s v h
    unfold Machine.writeSome
    refine ih ?_
    split
    · exact h.writeRange
    · exact h

theorem Canon.popsAgain {s : State} {c : Nat} {e : VEntry} (h : Canon s) : Yields (fun x => Canon x.2) (popsAgain s c e) := by
  unfold Machine.popsAgain
  dsimp only
  refine yields_ite h (yields_map (P := fun (x : _ × _ × State) => Canon x.2.2) ?_ fun _ h1 => ?_)
  · refine yields_foldlM (P := fun (x : _ × _ × State) => Canon x.2.2) h fun _ _ h1 => ?_
    split
    · refine yields_ite (h1.setCore.of rfl) (yields_ite yields_none ?_)
      split
      · exact h1.setCore.of rfl
      · exact h1.setCore.of rfl
      · exact yields_none
    · exact h1
  · split
    · exact h1.updCore
    · exact h1

theorem Canon.completeHead {s : State} {c : Nat} (h : Canon s) : Yields Canon (completeHead s c) := by
  unfold Machine.completeHead
  extract_lets k
  refine yields_bind (yields_any _) fun e _ => yields_ite trivial (yields_bind h.popsAgain fun x hx => ?_)
  obtain ⟨ps, s1⟩ := x
  dsimp -zeta only
  extract_lets e' r lent s2 done finish deliver
  have hs2 : Canon s2 := Canon.ite hx hx
  have hdone (t : State) (ht : Canon t) : Canon (done t) := ht.updCore
  have hfinish (t : State) (ht : Canon t) : Yields Canon (finish t) := by
    unfold finish
    refine yields_ite (hdone t ht) ?_
    split
    · exact yields_ite (hdone _ ht.writeSome) (yields_ite (hdone _ ht.updCore) (yields_ite trivial h.updCore))
    · exact hdone _ ht.writeSome
  have hdeliver (t : State) (ht : Canon t) : Yields Canon (deliver t) := by
    unfold deliver
    split
    · exact yields_bind ht.deliverG hfinish
    · exact yields_bind (yields_foldlM ht fun _ _ hu => hu.deliverG) hfinish
    · exact yields_bind (P := Canon) ht hfinish
  refine yields_ite trivial ?_
  split
  · exact yields_bind hs2.deliverV hdeliver
  · exact yields_bind (P := Canon) hs2 hdeliver

theorem Canon.arbiterClk {s : State} {f : Nat} (h : Canon s) : Canon (arbiterClk s f) := by
  unfold Machine.arbiterClk
  extract_lets v el w credit late order total first pay t1 src
  have ht1 : Canon t1 := foldl_keeps (P := fun (x : _ × State) => Canon x.2) h fun _ _ h1 => h1.setCore.of rfl
  clear_value t1
  exact ht1.setFold

theorem Canon.restFolds {s : State} {busy : List Nat} (h : Canon s) : Canon (restFolds s busy) :=
  h

theorem Canon.tick {s : State} {n : Nat} (h : Canon s) : Canon (State.tick s n) :=
  h

theorem Canon.passClks {fuel : Nat} : ∀ {n : Nat} {s : State}, Canon s → Canon (passClks fuel n s) := by
  induction fuel with
  | zero =>
    intro n s h
    rw [Machine.passClks]
    exact h.tick
  | succ fuel ih =>
    intro n s h
    cases n with
    | zero => exact h
    | succ n =>
      unfold Machine.passClks
      extract_lets fs t1
      have ht1 : Canon t1 := (h.restFolds.foldl fun _ _ h1 => h1.arbiterClk).tick
      exact Canon.ite h.restFolds.tick (Canon.ite ht1 (ih ht1))

/-! ## Functions of Machine/Operands.lean -/

theorem Canon.advance {s : State} {n : Nat} (h : Canon s) : Canon (State.advance s n) :=
  h.passClks.of rfl

theorem Canon.execVectorEntryComplete {c : Nat} {s : State} (h : Canon s) : Answers (execVectorEntryComplete c s) := by
  unfold Machine.execVectorEntryComplete
  split
  · rename_i heq
    have h1 := h.completeHead.of_some heq
    exact h.event h1
  · exact h.event h

theorem Canon.grantPartner {s : State} {c r : Nat} (h : Canon s) : Canon (grantPartner s c r) := by
  unfold Machine.grantPartner
  refine Canon.ite ?_ h
  extract_lets d
  exact h.updCore

theorem Canon.claimLanes {r : Nat} {s : State} {c : Nat} (h : Canon s) : Canon (claimLanes r s c) :=
  h.updCore.of rfl

theorem Canon.execClaim {x0 : Lit} {d a : BitVec 5} {i : BitVec 15} {s : State} (h : Canon s) : Answers (execClaim x0 d a i s) :=
  h.settle (h.withRegs fun _ h1 => keeps_need_trap (keeps_need_trap ((h1.foldl fun _ _ h2 => h2.claimLanes).setG)))

theorem Canon.execVsetl {x0 : Lit} {d a : BitVec 5} {s : State} (h : Canon s) : Answers (execVsetl x0 d a s) :=
  h.settle (h.withRegs fun _ h1 => keeps_need_trap h1.updMe.setG)

theorem Canon.execVsetli {x0 : Lit} {d : BitVec 5} {n : BitVec 9} {s : State} (h : Canon s) : Answers (execVsetli x0 d n s) :=
  h.settle (h.withRegs fun _ h1 => keeps_need_trap h1.updMe.setG)

theorem Canon.execVrep {x0 : Lit} {a : BitVec 5} {n : BitVec 4} {s : State} (h : Canon s) : Answers (execVrep x0 a n s) :=
  h.settle (h.withRegs fun _ h1 => keeps_need_trap h1.updMe)

theorem Canon.execVdrain {x0 : Lit} {s : State} (h : Canon s) : Answers (execVdrain x0 s) :=
  h.settle (keeps_need_trap (keeps_need_stall h h))

theorem Canon.vecAddr {p : Word} {off : Int} {bytes : Nat} : Keeps (fun _ => True) (vecAddr p off bytes) :=
  keeps_ite trivial trivial

theorem Canon.vecAlign {v : Int} {al : Nat} {write : Bool} : Keeps (fun _ => True) (vecAlign v al write) :=
  keeps_check (by trivial)

theorem Canon.atVec {p : Word} {off : Int} {bytes : Nat} {w : Nat → Res Unit} (hw : ∀ v, Keeps (fun _ => True) (w v)) :
    Keeps (fun _ => True) (atVec p off bytes w) := by
  unfold Machine.atVec
  split
  · exact keeps_ite trivial (hw _)
  · exact trivial

theorem Canon.vecLoadWait {s : State} {d v bytes : Nat} (h : Canon s) : Keeps (fun _ => True) (vecLoadWait s d v bytes) :=
  keeps_need_hold (keeps_check (by trivial))

theorem Canon.vecLoad {s s' : State} {d : Nat} {v bytes : Nat} {kind : LoadKind} {deliver : List Byte → List (Option Word32) × Flags}
    (h : Canon s) (h1 : Canon s') : Keeps Canon (vecLoad s s' d v bytes kind deliver) := by
  unfold Machine.vecLoad
  dsimp only
  refine keeps_bind h1.vecLoadWait fun _ _ => ?_
  refine keeps_bind h1.checkRange fun _ h3 => keeps_bind (h.vroom h3) fun _ _ => keeps_ite ?_ h3.updMe
  split
  · rename_i heq
    have h5 := h3.countRead.updMe.deliverV.of_some heq
    exact h5
  · exact trivial

theorem Canon.execLdv {x0 : Lit} {d : BitVec 4} {a : BitVec 5} {z : BitVec 2} {x : BitVec 1} {o : BitVec 12} {s : State} (h : Canon s) :
    Answers (execLdv x0 d a z x o s) :=
  h.settle (keeps_need_trap (h.withChecked (keeps_bind (Canon.atVec fun _ => h.vecLoadWait) fun _ _ => keeps_check (by trivial))
      fun _ h1 => keeps_bind Canon.vecAddr fun _ _ => keeps_bind Canon.vecAlign fun _ _ => keeps_ite h1 (h.vecLoad h1)))

theorem Canon.vecFmt {s : State} {p : Word} (h : Canon s) : Keeps (fun _ => True) (vecFmt s p) :=
  keeps_check (by trivial)

theorem Canon.execLdf {x0 : Lit} {d : BitVec 4} {a : BitVec 5} {o : BitVec 12} {s : State} (h : Canon s) : Answers (execLdf x0 d a o s) :=
  h.settle (h.withChecked (keeps_bind (Canon.atVec fun _ => h.vecLoadWait) fun _ _ => keeps_check (by trivial)) fun _ h1 => keeps_bind
      h.vecFmt fun _ _ => keeps_bind Canon.vecAddr fun _ _ => keeps_bind Canon.vecAlign fun _ _ => keeps_ite h1 (h.vecLoad h1))

theorem Canon.vecStoreWait {s : State} {v bytes : Nat} (h : Canon s) : Keeps (fun _ => True) (vecStoreWait s v bytes) :=
  keeps_check (by trivial)

theorem Canon.vecStore {s s' : State} {op : VOp} {r : Nat} {v : Int} {bytes : Nat} (h : Canon s) (h1 : Canon s') :
    Keeps Canon (vecStore s s' op r v bytes) :=
  keeps_ite (h.acceptEntry h1) (keeps_bind h1.vecStoreWait fun _ _ => keeps_bind h1.checkRange fun _ h3 => h.acceptEntry h3)

theorem Canon.execStv {x0 : Lit} {r : BitVec 4} {a : BitVec 5} {z : BitVec 2} {o : BitVec 12} {s : State} (h : Canon s) :
    Answers (execStv x0 r a z o s) :=
  h.settle (keeps_need_trap (h.withChecked (keeps_need_hold (keeps_bind (Canon.atVec fun _ => h.vecStoreWait) fun _ _ => keeps_check
      (by trivial))) fun _ h1 => keeps_bind Canon.vecAddr fun _ _ => keeps_bind Canon.vecAlign fun _ _ => h.vecStore h1))

theorem Canon.execStf {x0 : Lit} {r : BitVec 4} {a : BitVec 5} {o : BitVec 12} {s : State} (h : Canon s) : Answers (execStf x0 r a o s) :=
  h.settle (h.withChecked (keeps_need_hold (keeps_bind (Canon.atVec fun _ => h.vecStoreWait) fun _ _ => keeps_check (by trivial)))
      fun _ h1 => keeps_bind h.vecFmt fun _ _ => keeps_bind Canon.vecAddr fun _ _ => keeps_bind Canon.vecAlign fun _ _ => h.vecStore h1)

theorem Canon.execVadd {d a b : BitVec 4} {k : BitVec 5} {s : State} (h : Canon s) : Answers (execVadd d a b k s) :=
  h.vecOp

theorem Canon.execVsub {d a b : BitVec 4} {k : BitVec 5} {s : State} (h : Canon s) : Answers (execVsub d a b k s) :=
  h.vecOp

theorem Canon.execVmul {d a b : BitVec 4} {k : BitVec 5} {s : State} (h : Canon s) : Answers (execVmul d a b k s) :=
  h.vecOp

theorem Canon.execVdiv {d a b : BitVec 4} {k : BitVec 5} {s : State} (h : Canon s) : Answers (execVdiv d a b k s) :=
  h.vecOp

theorem Canon.execVsqrt {d a : BitVec 4} {k : BitVec 5} {s : State} (h : Canon s) : Answers (execVsqrt d a k s) :=
  h.vecOp

theorem Canon.execVfma {d a b c : BitVec 4} {k : BitVec 5} {s : State} (h : Canon s) : Answers (execVfma d a b c k s) :=
  h.vecOp

theorem Canon.execVfms {d a b c : BitVec 4} {k : BitVec 5} {s : State} (h : Canon s) : Answers (execVfms d a b c k s) :=
  h.vecOp

theorem Canon.execVmin {d a b : BitVec 4} {k : BitVec 5} {s : State} (h : Canon s) : Answers (execVmin d a b k s) :=
  h.vecOp

theorem Canon.execVmax {d a b : BitVec 4} {k : BitVec 5} {s : State} (h : Canon s) : Answers (execVmax d a b k s) :=
  h.vecOp

theorem Canon.execVabs {d a : BitVec 4} {k : BitVec 5} {s : State} (h : Canon s) : Answers (execVabs d a k s) :=
  h.vecOp

theorem Canon.execVneg {d a : BitVec 4} {k : BitVec 5} {s : State} (h : Canon s) : Answers (execVneg d a k s) :=
  h.vecOp

theorem Canon.execVdot {d a b c : BitVec 4} {k : BitVec 5} {s : State} (h : Canon s) : Answers (execVdot d a b c k s) :=
  h.vecOp

theorem Canon.execVaddBf2 {d a b : BitVec 4} {k : BitVec 5} {s : State} (h : Canon s) : Answers (execVaddBf2 d a b k s) :=
  h.vecOp

theorem Canon.execVmulBf2 {d a b : BitVec 4} {k : BitVec 5} {s : State} (h : Canon s) : Answers (execVmulBf2 d a b k s) :=
  h.vecOp

theorem Canon.execVfmaBf2 {d a b c : BitVec 4} {k : BitVec 5} {s : State} (h : Canon s) : Answers (execVfmaBf2 d a b c k s) :=
  h.vecOp

theorem Canon.execVdot2Bf {d a b c : BitVec 4} {k : BitVec 5} {s : State} (h : Canon s) : Answers (execVdot2Bf d a b c k s) :=
  h.vecOp

theorem Canon.execViadd {d a b : BitVec 4} {k : BitVec 5} {s : State} (h : Canon s) : Answers (execViadd d a b k s) :=
  h.vecOp

theorem Canon.execVisub {d a b : BitVec 4} {k : BitVec 5} {s : State} (h : Canon s) : Answers (execVisub d a b k s) :=
  h.vecOp

theorem Canon.execVimul {d a b : BitVec 4} {k : BitVec 5} {s : State} (h : Canon s) : Answers (execVimul d a b k s) :=
  h.vecOp

theorem Canon.execVimulh {d a b : BitVec 4} {k : BitVec 5} {s : State} (h : Canon s) : Answers (execVimulh d a b k s) :=
  h.vecOp

theorem Canon.execViand {d a b : BitVec 4} {k : BitVec 5} {s : State} (h : Canon s) : Answers (execViand d a b k s) :=
  h.vecOp

theorem Canon.execVior {d a b : BitVec 4} {k : BitVec 5} {s : State} (h : Canon s) : Answers (execVior d a b k s) :=
  h.vecOp

theorem Canon.execVixor {d a b : BitVec 4} {k : BitVec 5} {s : State} (h : Canon s) : Answers (execVixor d a b k s) :=
  h.vecOp

theorem Canon.execVisll {d a b : BitVec 4} {k : BitVec 5} {s : State} (h : Canon s) : Answers (execVisll d a b k s) :=
  h.vecOp

theorem Canon.execVisrl {d a b : BitVec 4} {k : BitVec 5} {s : State} (h : Canon s) : Answers (execVisrl d a b k s) :=
  h.vecOp

theorem Canon.execVisra {d a b : BitVec 4} {k : BitVec 5} {s : State} (h : Canon s) : Answers (execVisra d a b k s) :=
  h.vecOp

theorem Canon.execVimin {d a b : BitVec 4} {k : BitVec 5} {s : State} (h : Canon s) : Answers (execVimin d a b k s) :=
  h.vecOp

theorem Canon.execVimax {d a b : BitVec 4} {k : BitVec 5} {s : State} (h : Canon s) : Answers (execVimax d a b k s) :=
  h.vecOp

theorem Canon.execViminu {d a b : BitVec 4} {k : BitVec 5} {s : State} (h : Canon s) : Answers (execViminu d a b k s) :=
  h.vecOp

theorem Canon.execVimaxu {d a b : BitVec 4} {k : BitVec 5} {s : State} (h : Canon s) : Answers (execVimaxu d a b k s) :=
  h.vecOp

theorem Canon.execViadds {d a b : BitVec 4} {k : BitVec 5} {s : State} (h : Canon s) : Answers (execViadds d a b k s) :=
  h.vecOp

theorem Canon.execVisubs {d a b : BitVec 4} {k : BitVec 5} {s : State} (h : Canon s) : Answers (execVisubs d a b k s) :=
  h.vecOp

theorem Canon.execVimac {d a b c : BitVec 4} {k : BitVec 5} {s : State} (h : Canon s) : Answers (execVimac d a b c k s) :=
  h.vecOp

theorem Canon.execVidot4 {d a b c : BitVec 4} {k : BitVec 5} {s : State} (h : Canon s) : Answers (execVidot4 d a b c k s) :=
  h.vecOp

theorem Canon.execViabs {d a : BitVec 4} {k : BitVec 5} {s : State} (h : Canon s) : Answers (execViabs d a k s) :=
  h.vecOp

theorem Canon.execVcmpFeq {a b : BitVec 4} {d : BitVec 5} {s : State} (h : Canon s) : Answers (execVcmpFeq a b d s) :=
  h.vecCmp

theorem Canon.execVcmpFne {a b : BitVec 4} {d : BitVec 5} {s : State} (h : Canon s) : Answers (execVcmpFne a b d s) :=
  h.vecCmp

theorem Canon.execVcmpFlt {a b : BitVec 4} {d : BitVec 5} {s : State} (h : Canon s) : Answers (execVcmpFlt a b d s) :=
  h.vecCmp

theorem Canon.execVcmpFle {a b : BitVec 4} {d : BitVec 5} {s : State} (h : Canon s) : Answers (execVcmpFle a b d s) :=
  h.vecCmp

theorem Canon.execVcmpFun {a b : BitVec 4} {d : BitVec 5} {s : State} (h : Canon s) : Answers (execVcmpFun a b d s) :=
  h.vecCmp

theorem Canon.execVcmpIeq {a b : BitVec 4} {d : BitVec 5} {s : State} (h : Canon s) : Answers (execVcmpIeq a b d s) :=
  h.vecCmp

theorem Canon.execVcmpIne {a b : BitVec 4} {d : BitVec 5} {s : State} (h : Canon s) : Answers (execVcmpIne a b d s) :=
  h.vecCmp

theorem Canon.execVcmpIlt {a b : BitVec 4} {d : BitVec 5} {s : State} (h : Canon s) : Answers (execVcmpIlt a b d s) :=
  h.vecCmp

theorem Canon.execVcmpIle {a b : BitVec 4} {d : BitVec 5} {s : State} (h : Canon s) : Answers (execVcmpIle a b d s) :=
  h.vecCmp

theorem Canon.execVcmpIltu {a b : BitVec 4} {d : BitVec 5} {s : State} (h : Canon s) : Answers (execVcmpIltu a b d s) :=
  h.vecCmp

theorem Canon.execVcmpIleu {a b : BitVec 4} {d : BitVec 5} {s : State} (h : Canon s) : Answers (execVcmpIleu a b d s) :=
  h.vecCmp

theorem Canon.execVrsum {d a : BitVec 4} {k : BitVec 5} {s : State} (h : Canon s) : Answers (execVrsum d a k s) :=
  h.vecOp

theorem Canon.execVrmax {d a : BitVec 4} {k : BitVec 5} {s : State} (h : Canon s) : Answers (execVrmax d a k s) :=
  h.vecOp

theorem Canon.execVrmin {d a : BitVec 4} {k : BitVec 5} {s : State} (h : Canon s) : Answers (execVrmin d a k s) :=
  h.vecOp

theorem Canon.execVramax {d a : BitVec 4} {k : BitVec 5} {s : State} (h : Canon s) : Answers (execVramax d a k s) :=
  h.vecOp

theorem Canon.execVmaxi {d a : BitVec 4} {k : BitVec 5} {s : State} (h : Canon s) : Answers (execVmaxi d a k s) :=
  h.vecOp

theorem Canon.execVmini {d a : BitVec 4} {k : BitVec 5} {s : State} (h : Canon s) : Answers (execVmini d a k s) :=
  h.vecOp

theorem Canon.execVrisum {d a : BitVec 4} {k : BitVec 5} {s : State} (h : Canon s) : Answers (execVrisum d a k s) :=
  h.vecOp

theorem Canon.execVrimax {d a : BitVec 4} {k : BitVec 5} {s : State} (h : Canon s) : Answers (execVrimax d a k s) :=
  h.vecOp

theorem Canon.execVrimin {d a : BitVec 4} {k : BitVec 5} {s : State} (h : Canon s) : Answers (execVrimin d a k s) :=
  h.vecOp

theorem Canon.execVrimaxu {d a : BitVec 4} {k : BitVec 5} {s : State} (h : Canon s) : Answers (execVrimaxu d a k s) :=
  h.vecOp

theorem Canon.execVriminu {d a : BitVec 4} {k : BitVec 5} {s : State} (h : Canon s) : Answers (execVriminu d a k s) :=
  h.vecOp

theorem Canon.execVrand {d a : BitVec 4} {k : BitVec 5} {s : State} (h : Canon s) : Answers (execVrand d a k s) :=
  h.vecOp

theorem Canon.execVror {d a : BitVec 4} {k : BitVec 5} {s : State} (h : Canon s) : Answers (execVror d a k s) :=
  h.vecOp

theorem Canon.execVrxor {d a : BitVec 4} {k : BitVec 5} {s : State} (h : Canon s) : Answers (execVrxor d a k s) :=
  h.vecOp

theorem Canon.execVexp2 {d a : BitVec 4} {k : BitVec 5} {s : State} (h : Canon s) : Answers (execVexp2 d a k s) :=
  h.vecOp

theorem Canon.execVexpe {d a : BitVec 4} {k : BitVec 5} {s : State} (h : Canon s) : Answers (execVexpe d a k s) :=
  h.vecOp

theorem Canon.execVlog2 {d a : BitVec 4} {k : BitVec 5} {s : State} (h : Canon s) : Answers (execVlog2 d a k s) :=
  h.vecOp

theorem Canon.execVrcp {d a : BitVec 4} {k : BitVec 5} {s : State} (h : Canon s) : Answers (execVrcp d a k s) :=
  h.vecOp

theorem Canon.execVrsq {d a : BitVec 4} {k : BitVec 5} {s : State} (h : Canon s) : Answers (execVrsq d a k s) :=
  h.vecOp

theorem Canon.execVmov {d a : BitVec 4} {k : BitVec 5} {s : State} (h : Canon s) : Answers (execVmov d a k s) :=
  h.vecOp

theorem Canon.execVsplat {d : BitVec 4} {g : BitVec 5} {s : State} (h : Canon s) : Answers (execVsplat d g s) :=
  h.settle (h.withRegs fun _ h1 => h.acceptEntry h1)

theorem Canon.execVmovs {a : BitVec 4} {i : BitVec 8} {g : BitVec 5} {s : State} (h : Canon s) : Answers (execVmovs a i g s) := by
  unfold Machine.execVmovs
  refine h.settle (h.withRegs fun _ h1 => keeps_need_hold (keeps_need_trap ?_))
  dsimp only
  split
  · exact keeps_need_trap (keeps_need_hold (h.acceptEntry h1))
  · exact keeps_bind (P := fun _ => True) trivial fun _ _ => h.acceptEntry h1

theorem Canon.execVsel {d a b : BitVec 4} {k : BitVec 5} {s : State} (h : Canon s) : Answers (execVsel d a b k s) :=
  h.vecOp

theorem Canon.execViota {d : BitVec 4} {k : BitVec 5} {s : State} (h : Canon s) : Answers (execViota d k s) :=
  h.vecOp

theorem Canon.execVidx {d a b : BitVec 4} {k : BitVec 5} {s : State} (h : Canon s) : Answers (execVidx d a b k s) :=
  h.vecOp

theorem Canon.vecCvt {s : State} {o : VCvtOp} {d a fc r k : Nat} (h : Canon s) : Answers (vecCvt s o d a fc r k) := by
  unfold Machine.vecCvt
  split
  · exact h.vecOp
  · exact h.settle trivial

theorem Canon.vecCvtBlock {s : State} {o : VCvtOp} {d a fc bl : Nat} (h : Canon s) : Answers (vecCvtBlock s o d a fc bl) := by
  unfold Machine.vecCvtBlock
  split
  · exact h.vecOp
  · exact h.settle trivial

theorem Canon.execVnarrow {d a c : BitVec 4} {h : BitVec 1} {r : BitVec 3} {k : BitVec 5} {s : State} (hs : Canon s) :
    Answers (execVnarrow d a c h r k s) :=
  hs.vecCvt

theorem Canon.execVwiden {d a c : BitVec 4} {h : BitVec 1} {r : BitVec 3} {k : BitVec 5} {s : State} (hs : Canon s) :
    Answers (execVwiden d a c h r k s) :=
  hs.vecCvt

theorem Canon.execVqrnd {d a c : BitVec 4} {h : BitVec 1} {r : BitVec 3} {k : BitVec 5} {s : State} (hs : Canon s) :
    Answers (execVqrnd d a c h r k s) :=
  hs.vecCvt

theorem Canon.execVmxq {d a c : BitVec 4} {h : BitVec 1} {l : BitVec 3} {s : State} (hs : Canon s) : Answers (execVmxq d a c h l s) :=
  hs.vecCvtBlock

theorem Canon.execVmxs {d a c : BitVec 4} {h : BitVec 1} {l : BitVec 3} {s : State} (hs : Canon s) : Answers (execVmxs d a c h l s) :=
  hs.vecCvtBlock

theorem Canon.execVmxc {d a c : BitVec 4} {h : BitVec 1} {l : BitVec 3} {s : State} (hs : Canon s) : Answers (execVmxc d a c h l s) :=
  hs.vecCvtBlock

theorem Canon.execVbaleq {d a : BitVec 4} {s : State} (h : Canon s) : Answers (execVbaleq d a s) :=
  h.vecCvtBlock

/-! ## Functions of Machine/Engines.lean -/

theorem Canon.queueWait {s : State} {q : Nat} (h : Canon s) : Keeps (fun _ => True) (queueWait s q) :=
  keeps_check (by trivial)

theorem Canon.enterQueue {s : State} {q : Nat} (h : Canon s) : Keeps (fun _ => True) (enterQueue s q) := by
  unfold Machine.enterQueue
  refine keeps_bind h.queueWait fun _ _ => ?_
  split <;> exact trivial

theorem Canon.pushEntry {s : State} {q : Nat} {e : QEntry} (h : Canon s) : Canon (pushEntry s q e) :=
  h.updMe.of rfl

theorem Canon.setEntries {s : State} {c q : Nat} {es : List QEntry} (h : Canon s) : Canon (setEntries s c q es) :=
  h.updCore.of rfl

theorem Canon.popEntry {s : State} {c q : Nat} (h : Canon s) : Canon (popEntry s c q) :=
  h.setEntries.updCore.of rfl

theorem Canon.failQueue {s : State} {c q : Nat} {d : DefErr} (h : Canon s) : Canon (failQueue s c q d) :=
  h.updCore.foldl fun _ _ h1 => h1.releaseMatrix

theorem Canon.stop {s : State} {f : EngFail} (h : Canon s) : (EngFail.stop s f).Sound := by
  unfold EngFail.stop
  split
  · exact trivial
  · exact trivial
  · exact h

theorem Canon.copyRange {s : State} {c v n : Nat} {write det : Bool} {hit : Nat → Bool} {tr : SMap Nat} (h : Canon s) :
    Keeps (fun x => Canon x.2) (copyRange s c v n write det hit tr) := by
  unfold Machine.copyRange
  refine keeps_foldlM (P := fun (x : _ × State) => Canon x.2) h fun _ _ h1 => ?_
  split
  · exact h1.stop
  · exact keeps_ite (keeps_bind h1.translate fun _ h2 => keeps_need_trap (keeps_need_trap h2)) h1

theorem Canon.apply {n : EngNotes} {s : State} {c : Nat} (h : Canon s) : Canon (EngNotes.apply n s c) :=
  h

theorem Canon.engCount {s : State} {c um pm : Nat} {ranges : List Span} (h : Canon s) : Canon (engCount s c um pm ranges) := by
  unfold Machine.engCount
  extract_lets vs stale t1
  have ht1 : Canon t1 := by
    unfold t1
    split
    · exact h.updCore.of rfl
    · exact h
  clear_value t1
  split
  · exact ht1.updCore
  · exact ht1

theorem Canon.engRead {s : State} {c um pm : Nat} {tr : SMap Nat} {ranges : List Span} (h : Canon s) :
    Canon (engRead s c um pm tr ranges) :=
  h.countEccRanges.engCount.of rfl

theorem Canon.stopEntry {s : State} {c q va : Nat} {e : QEntry} {acc : BitVec 2} (h : Canon s) : Canon (stopEntry s c q va e acc) := by
  unfold Machine.stopEntry
  have hf := h.beginFault (c := c) (va := va) (acc := acc)
  generalize Machine.beginFault s c va acc = x at hf ⊢
  obtain ⟨f, t⟩ := x
  exact Canon.setEntries hf

theorem Canon.resolveEntry {s : State} {c q : Nat} {e : QEntry} (h : Canon s) : Yields Canon (resolveEntry s c q e) := by
  unfold Machine.resolveEntry
  refine yields_bind (yields_any _) fun _ _ => ?_
  split
  · exact h.setEntries
  · exact h.failQueue
  · exact yields_ite h.stopEntry yields_none

/-! ## Functions of Machine/Matrix.lean -/

theorem Canon.ownMatrix {s : State} {f p blk : Nat} {tag : Word} (h : Canon s) : Yields Canon (ownMatrix s f p blk tag) := by
  unfold Machine.ownMatrix
  split
  · exact h.updFold
  · exact yields_ite h yields_none

theorem Canon.useEngine {s : State} (h : Canon s) : Keeps Canon (useEngine s) := by
  unfold Machine.useEngine
  split
  · exact trivial
  · split
    · rename_i heq
      have h1 := h.ownMatrix.of_some heq
      exact h1
    · exact trivial

theorem Canon.ownPart {k : Core} {tiles accs : List Nat} : Keeps (fun _ => True) (ownPart k tiles accs) := by
  unfold Machine.ownPart
  dsimp only
  split
  · exact keeps_check (by trivial)
  · exact trivial

theorem Canon.streamedCheck {s : State} {c : Nat} {p : Word} {k : Nat} {det : Bool} (h : Canon s) :
    Keeps (fun _ => True) (streamedCheck s c p k det) := by
  unfold Machine.streamedCheck
  dsimp only
  refine keeps_need_trap (keeps_need_trap ?_)
  split
  · refine keeps_bind (P := fun _ => True) trivial fun _ _ => keeps_foldlM (P := fun _ => True) trivial fun _ _ _ => ?_
    split
    · exact trivial
    · split
      · exact h.stop
      · exact trivial
  · refine keeps_bind (P := fun _ => True) trivial fun _ _ => keeps_foldlM (P := fun _ => True) trivial fun _ _ _ => ?_
    split
    · exact trivial
    · split
      · exact h.stop
      · exact trivial

theorem Canon.resolve {m : MCmd} {s : State} {c : Nat} {tsh : Nat → Word} {arrived : List Nat} {ptr : Word} {det : Bool} (h : Canon s) :
    Keeps (fun _ => True) (MCmd.resolve m s c tsh arrived ptr det) := by
  unfold MCmd.resolve
  dsimp only
  split
  · exact keeps_ite (keeps_bind h.streamedCheck fun _ _ => keeps_need_trap trivial) (keeps_need_trap trivial)
  · exact trivial
  · exact trivial
  · exact trivial
  · exact keeps_need_trap trivial
  · exact keeps_need_trap trivial
  · exact keeps_need_trap trivial

theorem Canon.matrixQueue {k : Core} : Keeps (fun _ => True) (matrixQueue k) := by
  unfold Machine.matrixQueue
  split <;> exact trivial

theorem Canon.acceptMatrix {s : State} {q : Nat} {e : MEntry} (h : Canon s) : Canon (acceptMatrix s q e) :=
  h.pushEntry.updFold.of rfl

theorem Canon.matrixOp {s : State} {m : MCmd} {gB : Option Nat} (h : Canon s) : Answers (matrixOp s m gB) := by
  unfold Machine.matrixOp
  dsimp only
  refine h.settle ?_
  refine h.withChecked ?_ fun _ h1 => keeps_bind Canon.matrixQueue fun _ _ => keeps_bind h1.enterQueue fun _ _ => keeps_bind h1.useEngine
      fun _ h4 => keeps_bind Canon.ownPart fun _ _ => keeps_bind h4.resolve fun _ _ => h4.acceptMatrix
  split
  · rename_i heq
    have h1 := Canon.matrixQueue.of_ok heq
    refine keeps_bind h.queueWait fun _ _ => ?_
    split
    · exact keeps_check (by trivial)
    · exact trivial
  · rename_i heq
    have h1 := Canon.matrixQueue.of_error heq
    refine keeps_bind (P := fun _ => True) trivial fun _ _ => ?_
    split
    · exact keeps_check (by trivial)
    · exact trivial

theorem Canon.execMma {d : BitVec 3} {a b : BitVec 5} {sb : BitVec 1} {s : State} (h : Canon s) : Answers (execMma d a b sb s) :=
  h.matrixOp

theorem Canon.execMmaz {d : BitVec 3} {a b : BitVec 5} {sb : BitVec 1} {s : State} (h : Canon s) : Answers (execMmaz d a b sb s) :=
  h.matrixOp

theorem Canon.execAzero {d : BitVec 3} {s : State} (h : Canon s) : Answers (execAzero d s) :=
  h.matrixOp

theorem Canon.execAcopy {d a : BitVec 3} {s : State} (h : Canon s) : Answers (execAcopy d a s) :=
  h.matrixOp

theorem Canon.execAadd {d a : BitVec 3} {i : BitVec 1} {s : State} (h : Canon s) : Answers (execAadd d a i s) :=
  h.matrixOp

theorem Canon.execTzero {a : BitVec 5} {s : State} (h : Canon s) : Answers (execTzero a s) :=
  h.matrixOp

theorem Canon.execTcopy {a b : BitVec 5} {s : State} (h : Canon s) : Answers (execTcopy a b s) :=
  h.matrixOp

theorem Canon.execTtrn {a b : BitVec 5} {s : State} (h : Canon s) : Answers (execTtrn a b s) :=
  h.matrixOp

theorem Canon.tileMove {s : State} {tiles : List Nat} {op : MOp} {a b : Nat} {chk : State → Res Unit} (h : Canon s)
    (hc : ∀ t, Canon t → Keeps (fun _ => True) (chk t)) : Answers (tileMove s tiles op a b chk) :=
  h.settle (h.withRegs fun _ h1 => keeps_bind Canon.matrixQueue fun _ _ => keeps_bind h1.enterQueue fun _ _ => keeps_bind h1.useEngine
      fun _ h4 => keeps_need_trap (keeps_bind (hc _ h4) fun _ _ => keeps_bind Canon.ownPart fun _ _ => h4.acceptMatrix))

theorem Canon.execTfwd {a : BitVec 5} {r : BitVec 2} {s : State} (h : Canon s) : Answers (execTfwd a r s) :=
  h.tileMove fun _ _ => keeps_check (by trivial)

theorem Canon.execTtake {a b : BitVec 5} {s : State} (h : Canon s) : Answers (execTtake a b s) :=
  h.tileMove fun _ _ => keeps_check (by trivial)

theorem Canon.rowsWait {s : State} {p : Word} {stride : Int} {rows n : Nat} {write : Bool} (h : Canon s) :
    Keeps (fun _ => True) (rowsWait s p stride rows n write) :=
  keeps_check (by trivial)

theorem Canon.matrixRows {s s' : State} {p : Word} {stride : Int} {rows n al : Nat} {write : Bool} (h : Canon s) (h1 : Canon s') :
    Keeps (fun x => Canon x.2) (matrixRows s s' p stride rows n al write) :=
  keeps_bind (keeps_foldlM (P := fun _ => True) trivial fun _ _ _ => keeps_need_trap (keeps_check (by trivial))) fun x _ => keeps_foldlM
      (P := fun (x : _ × State) => Canon x.2) h1 fun _ _ h3 => keeps_bind h3.checkRange fun _ h4 => h4

theorem Canon.mxcWait {s : State} {q : Nat} (h : Canon s) : Keeps (fun _ => True) (mxcWait s q) :=
  keeps_ite h.queueWait trivial

theorem Canon.mxcQueue {s s' : State} {q : Nat} (h : Canon s) (h1 : Canon s') : Keeps (fun _ => True) (mxcQueue s s' q) :=
  keeps_need_trap h1.enterQueue

theorem Canon.tileMem {s : State} {l : Lit} {q a b t : Nat} {write : Bool} (h : Canon s) : Answers (tileMem s l q a b t write) :=
  h.settle (h.withChecked (keeps_bind h.mxcWait fun _ _ => keeps_ite trivial h.rowsWait) fun _ h1 => keeps_bind (h.mxcQueue h1) fun _ _ =>
      keeps_bind h1.useEngine fun _ h3 => keeps_bind Canon.ownPart fun _ _ => keeps_need_trap
  (keeps_need_trap (keeps_bind (h.matrixRows h3) fun _ h5 => h5.acceptMatrix)))

theorem Canon.execTld {l : Lit} {q : BitVec 3} {a b c : BitVec 5} {s : State} (h : Canon s) : Answers (execTld l q a b c s) :=
  h.tileMem

theorem Canon.execTstr {l : Lit} {q : BitVec 3} {a b c : BitVec 5} {s : State} (h : Canon s) : Answers (execTstr l q a b c s) :=
  h.tileMem

theorem Canon.accMem {s : State} {l : Lit} {q a b d : Nat} {write : Bool} (h : Canon s) : Answers (accMem s l q a b d write) :=
  h.settle (h.withChecked (keeps_bind h.mxcWait fun _ _ => h.rowsWait) fun _ h1 => keeps_bind (h.mxcQueue h1) fun _ _ => keeps_need_trap
      (keeps_bind h1.useEngine fun _ h3 => keeps_bind Canon.ownPart fun _ _ => keeps_need_trap
  (keeps_bind (h.matrixRows h3) fun _ h5 => h5.acceptMatrix)))

theorem Canon.execAmov {l : Lit} {q : BitVec 3} {a b : BitVec 5} {c : BitVec 3} {s : State} (h : Canon s) :
    Answers (execAmov l q a b c s) :=
  h.accMem

theorem Canon.execAld {l : Lit} {q : BitVec 3} {a b : BitVec 5} {c : BitVec 3} {s : State} (h : Canon s) :
    Answers (execAld l q a b c s) :=
  h.accMem

theorem Canon.execMxcmd {l : Lit} {q : BitVec 3} {a b c : BitVec 5} {s : State} (h : Canon s) : Answers (execMxcmd l q a b c s) := by
  unfold Machine.execMxcmd
  dsimp only
  refine h.settle (h.withLater (keeps_ite h.mxcWait trivial) fun _ _ h1 => ?_)
  split
  · exact keeps_ite (keeps_bind (keeps_ite (h.popLater h1) h1) fun _ h2 => h2.countPops.updMe) (keeps_ite trivial trivial)
  · exact h
  · exact keeps_bind (h.mxcQueue h1) fun _ _ => keeps_bind h.useEngine fun _ h3 => keeps_need_trap
      (keeps_need_trap (keeps_need_trap (keeps_bind (keeps_ite (h.popLater h1) h1) fun _ _ => h3.updMe)))

theorem Canon.execMxcmdRemoteAccept {c : Nat} {s : State} (h : Canon s) : Answers (execMxcmdRemoteAccept c s) := by
  unfold Machine.execMxcmdRemoteAccept
  extract_lets k
  split
  · extract_lets f up answer bad
    have hanswer (t : State) (a : Word) (ht : Canon t) : Canon (answer t a) := ht.updCore
    split
    · exact h.event h.updCore
    · split
      · next s1 m heq _ =>
        have h1 := h.ownMatrix.of_some heq
        split
        · extract_lets s2 free s3
          have h2 : Canon s2 := h1
          have h3 : Canon s3 := h2.acceptMatrix.updCore
          exact h.event (hanswer s3 0 h3)
        · exact h.event (hanswer _ _ h)
      · exact h.event (hanswer _ _ h)
  · exact h.event h

theorem Canon.execMxcmdAnswer {c : Nat} {s : State} (h : Canon s) : Answers (execMxcmdAnswer c s) := by
  unfold Machine.execMxcmdAnswer
  split
  · exact h.event h.release
  · exact h.event h

theorem Canon.performMatrix {s : State} {c q : Nat} {e : MEntry} (h : Canon s) : Yields Canon (performMatrix s c q e) := by
  unfold Machine.performMatrix
  dsimp only
  refine yields_ite yields_none ?_
  split
  · exact h.updFold.popEntry
  · refine yields_ite yields_none ?_
    split
    · split
      · exact h.apply.stopEntry.updFold
      · exact h.apply.failQueue
      · exact yields_none
      · exact h.apply.engRead.updFold.popEntry
  · exact h.updFold.popEntry
  · exact h.updFold.popEntry
  · exact h.updFold.popEntry
  · exact h.updFold.popEntry
  · exact h.updFold.popEntry
  · exact h.updFold.popEntry
  · exact h.setEntries
  · exact yields_none
  · exact yields_ite h.updFold.popEntry yields_none
  · split
    · exact h.failQueue
    · exact yields_none
    · exact h.engRead.updFold.popEntry
  · exact yields_ite yields_none (((h.foldl fun _ _ h1 => h1.writeRange).updFold).popEntry)
  · exact yields_ite yields_none (((h.foldl fun _ _ h1 => h1.writeRange).updFold).popEntry)
  · split
    · exact h.failQueue
    · exact yields_none
    · exact h.engRead.updFold.popEntry

theorem Canon.execMatrixEntryPerform {c q : Nat} {s : State} (h : Canon s) : Answers (execMatrixEntryPerform c q s) := by
  unfold Machine.execMatrixEntryPerform
  split
  · rename_i heq
    have h1 := Yields.of_some (P := fun (x : State × _) => Canon x.1)
      (by exact yields_bind (yields_any _) fun _ _ => yields_ite (yields_map h.performMatrix fun _ h2 => h2) yields_none) heq
    exact h.event h1.releaseMatrix
  · exact h.event h

theorem Canon.execTileArrival {c q : Nat} {s : State} (h : Canon s) : Answers (execTileArrival c q s) := by
  unfold Machine.execTileArrival
  dsimp only
  split
  · split
    · split
      · exact h.event h
      · split
        · exact h.event h.failQueue
        · rename_i heq
          have h1 := h.ownMatrix.of_some heq
          split
          · exact h.event h
          · exact h.event h1.updFold.popEntry.releaseMatrix.releaseMatrix
    · exact h.event h
  · exact h.event h

theorem Canon.execStreamedBFaultResolved {c q : Nat} {s : State} (h : Canon s) : Answers (execStreamedBFaultResolved c q s) := by
  unfold Machine.execStreamedBFaultResolved
  dsimp only
  split
  · split
    · rename_i heq
      have h1 := h.resolveEntry.of_some heq
      exact h.event (Canon.ite h1 h1.updFold)
    · exact h.event h
  · exact h.event h

end Sys2Proof.Machine

end

section
/-! PROOFS. Memory stays canonical: streams, chutes, paddocks, units, synchronisation, the drove and the exchange. -/

namespace Sys2Proof.Machine

/-! ## Functions of Machine/Copy.lean -/

theorem Canon.descAddr {w : Word} : Keeps (fun _ => True) (descAddr w) :=
  keeps_need_trap (keeps_need_trap trivial)

theorem Canon.descWait {s : State} {p : Word} {n : Nat} (h : Canon s) : Keeps (fun _ => True) (descWait s p n) :=
  keeps_check (by trivial)

theorem Canon.descRead {s : State} {a n : Nat} (h : Canon s) : Keeps (fun x => Canon x.2) (descRead s a n) := by
  unfold Machine.descRead
  dsimp only
  refine keeps_need_trap (keeps_need_hold ?_)
  split
  · exact trivial
  · split
    · exact trivial
    · exact h.countEccRanges.countUninitRead.of rfl

theorem Canon.setChute {s : State} {c ch : Nat} {x : Chute} (h : Canon s) : Canon (State.setChute s c ch x) :=
  h.updCore.of rfl

theorem Canon.writeChute {s : State} {c : Nat} {x : Chute} (h : Canon s) : Canon (writeChute s c x) :=
  h.setLocal.of rfl

theorem Canon.takeSlot {s : State} {c ch : Nat} (h : Canon s) : Canon (takeSlot s c ch) := by
  unfold Machine.takeSlot
  split
  · exact h.setChute
  · exact h

theorem Canon.fillSlot {s : State} {c ch : Nat} (h : Canon s) : Canon (fillSlot s c ch) := by
  unfold Machine.fillSlot
  split
  · exact h
  · extract_lets x t1 t2 p mine
    have ht1 : Canon t1 := h.setChute
    have ht2 : Canon t2 := Canon.ite ht1.writeChute ht1
    clear_value t1 t2
    split
    · exact ht2
    · split
      · exact ht2
      · extract_lets t3 t4
        have ht3 : Canon t3 := ht2.updPart
        have ht4 : Canon t4 := ht3.setRecState
        clear_value t3 t4
        exact ht4.updCore

theorem Canon.copyPtr {s : State} {op : COp} {p : Word} (h : Canon s) : Keeps (fun _ => True) (copyPtr s op p) :=
  keeps_check (by trivial)

theorem Canon.copyAlign {p : Word} {write : Bool} : Keeps (fun _ => True) (copyAlign p write) :=
  keeps_check (by trivial)

theorem Canon.chuteWindow {s : State} {p : Word} {det : Bool} (h : Canon s) : Keeps (fun _ => True) (chuteWindow s p det) := by
  unfold Machine.chuteWindow
  dsimp only
  split
  · exact keeps_check (by trivial)
  · exact keeps_need_trap (keeps_check (by trivial))
  · exact trivial

theorem Canon.copyWindows {s : State} {e : CEntry} {det : Bool} (h : Canon s) : Keeps (fun x => Canon x.2) (copyWindows s e det) :=
  keeps_bind (keeps_foldlM (P := fun (x : _ × State) => Canon x.2) h fun _ _ h1 => h1.copyRange) fun x h1 => keeps_foldlM
      (P := fun (x : _ × State) => Canon x.2) h1 fun _ _ h2 => h2.copyRange

theorem Canon.copyWait {s : State} {q : Nat} {op : COp} {ch : Bool} {dst src x : Word} (h : Canon s) :
    Keeps (fun _ => True) (copyWait s q op ch dst src x) :=
  keeps_ite (keeps_bind h.queueWait fun _ _ => keeps_ite (keeps_bind (P := fun _ => True) trivial fun _ _ => keeps_ite
      (keeps_check (by trivial)) trivial) (keeps_bind h.descWait fun _ _ => keeps_ite (keeps_check (by trivial)) trivial))
  (keeps_bind (P := fun _ => True) trivial fun _ _ => keeps_ite (keeps_bind (P := fun _ => True) trivial fun _ _ => keeps_ite
  (keeps_check (by trivial)) trivial) (keeps_bind h.descWait fun _ _ => keeps_ite (keeps_check (by trivial)) trivial))

theorem Canon.copyOp {s : State} {l : Lit} {q a b c : Nat} {op : COp} {ch : Bool} (h : Canon s) : Answers (copyOp s l q a b c op ch) :=
  h.settle (h.withChecked h.copyWait fun _ h1 => keeps_need_trap (keeps_bind h1.enterQueue fun x _ => keeps_need_trap
      (keeps_bind h.copyPtr fun _ _ => keeps_ite (keeps_bind (P := fun _ => True) trivial fun _ _ => keeps_ite
  (keeps_bind (P := fun _ => True) trivial fun _ _ => keeps_bind Canon.copyAlign fun _ _ => keeps_bind Canon.copyAlign fun _ _ =>
  keeps_ite (keeps_bind (P := fun (x : _ × State) => Canon x.2) h1 fun _ h8 => keeps_need_trap
  (keeps_need_trap (keeps_need_trap (keeps_ite (keeps_bind h8.chuteWindow fun _ _ => keeps_bind h8.copyWindows fun _ h10 => h10.pushEntry)
  (keeps_bind (P := fun _ => True) trivial fun _ _ => keeps_bind h8.copyWindows fun _ h10 => h10.pushEntry)))))
  (keeps_bind h1.descRead fun _ h8 => keeps_need_trap (keeps_need_trap (keeps_need_trap
  (keeps_ite (keeps_bind h8.chuteWindow fun _ _ => keeps_bind h8.copyWindows fun _ h10 => h10.pushEntry)
  (keeps_bind (P := fun _ => True) trivial fun _ _ => keeps_bind h8.copyWindows fun _ h10 => h10.pushEntry))))))
  (keeps_bind Canon.descAddr fun _ _ => keeps_bind Canon.copyAlign fun _ _ => keeps_bind Canon.copyAlign fun _ _ => keeps_ite
  (keeps_bind (P := fun (x : _ × State) => Canon x.2) h1 fun _ h8 => keeps_need_trap
  (keeps_need_trap (keeps_need_trap (keeps_ite (keeps_bind h8.chuteWindow fun _ _ => keeps_bind h8.copyWindows fun _ h10 => h10.pushEntry)
  (keeps_bind (P := fun _ => True) trivial fun _ _ => keeps_bind h8.copyWindows fun _ h10 => h10.pushEntry)))))
  (keeps_bind h1.descRead fun _ h8 => keeps_need_trap (keeps_need_trap (keeps_need_trap
  (keeps_ite (keeps_bind h8.chuteWindow fun _ _ => keeps_bind h8.copyWindows fun _ h10 => h10.pushEntry)
  (keeps_bind (P := fun _ => True) trivial fun _ _ => keeps_bind h8.copyWindows fun _ h10 => h10.pushEntry)))))))
  (keeps_bind h.copyPtr fun _ _ => keeps_need_trap (keeps_ite (keeps_bind (P := fun _ => True) trivial fun _ _ => keeps_bind
  Canon.copyAlign fun _ _ => keeps_bind Canon.copyAlign fun _ _ => keeps_ite
  (keeps_bind (P := fun (x : _ × State) => Canon x.2) h1 fun _ h8 => keeps_need_trap
  (keeps_need_trap (keeps_need_trap (keeps_ite (keeps_bind h8.chuteWindow fun _ _ => keeps_bind h8.copyWindows fun _ h10 => h10.pushEntry)
  (keeps_bind (P := fun _ => True) trivial fun _ _ => keeps_bind h8.copyWindows fun _ h10 => h10.pushEntry)))))
  (keeps_bind h1.descRead fun _ h8 => keeps_need_trap (keeps_need_trap (keeps_need_trap
  (keeps_ite (keeps_bind h8.chuteWindow fun _ _ => keeps_bind h8.copyWindows fun _ h10 => h10.pushEntry)
  (keeps_bind (P := fun _ => True) trivial fun _ _ => keeps_bind h8.copyWindows fun _ h10 => h10.pushEntry))))))
  (keeps_bind Canon.descAddr fun _ _ => keeps_bind Canon.copyAlign fun _ _ => keeps_bind Canon.copyAlign fun _ _ => keeps_ite
  (keeps_bind (P := fun (x : _ × State) => Canon x.2) h1 fun _ h8 => keeps_need_trap
  (keeps_need_trap (keeps_need_trap (keeps_ite (keeps_bind h8.chuteWindow fun _ _ => keeps_bind h8.copyWindows fun _ h10 => h10.pushEntry)
  (keeps_bind (P := fun _ => True) trivial fun _ _ => keeps_bind h8.copyWindows fun _ h10 => h10.pushEntry)))))
  (keeps_bind h1.descRead fun _ h8 => keeps_need_trap (keeps_need_trap (keeps_need_trap
  (keeps_ite (keeps_bind h8.chuteWindow fun _ _ => keeps_bind h8.copyWindows fun _ h10 => h10.pushEntry)
  (keeps_bind (P := fun _ => True) trivial fun _ _ => keeps_bind h8.copyWindows fun _ h10 => h10.pushEntry)))))))))))

theorem Canon.execCpy {l : Lit} {q : BitVec 3} {a b c : BitVec 5} {h : BitVec 1} {s : State} (hs : Canon s) :
    Answers (execCpy l q a b c h s) :=
  hs.copyOp

theorem Canon.execCpya {l : Lit} {q : BitVec 3} {a b c : BitVec 5} {h : BitVec 1} {s : State} (hs : Canon s) :
    Answers (execCpya l q a b c h s) :=
  hs.copyOp

theorem Canon.execGath {l : Lit} {q : BitVec 3} {a b c : BitVec 5} {h : BitVec 1} {s : State} (hs : Canon s) :
    Answers (execGath l q a b c h s) :=
  hs.copyOp

theorem Canon.execScat {l : Lit} {q : BitVec 3} {a b c : BitVec 5} {s : State} (h : Canon s) : Answers (execScat l q a b c s) :=
  h.copyOp

theorem Canon.execCpyw {l : Lit} {q : BitVec 3} {a b c : BitVec 5} {h : BitVec 1} {s : State} (hs : Canon s) :
    Answers (execCpyw l q a b c h s) :=
  hs.copyOp

theorem Canon.execCpyz {l : Lit} {q : BitVec 3} {a b : BitVec 5} {h : BitVec 1} {s : State} (hs : Canon s) :
    Answers (execCpyz l q a b h s) :=
  hs.copyOp

theorem Canon.putCode {s : State} {c : Nat} {tr : SMap Nat} {d : CopyDest} {fc p code : Nat} (h : Canon s) :
    Canon (putCode s c tr d fc p code) :=
  h.writeRange.of rfl

theorem Canon.putOut {s : State} {c : Nat} {tr : SMap Nat} {d : CopyDest} {fc : Nat} {o : CopyOut} (h : Canon s) :
    Canon (putOut s c tr d fc o) := by
  unfold Machine.putOut
  split
  · exact h.writeRange
  · exact h.foldl fun _ _ h1 => h1.putCode

theorem Canon.failCopy {s : State} {c q : Nat} {d : CopyDest} {e : DefErr} (h : Canon s) : Canon (failCopy s c q d e) := by
  unfold Machine.failCopy
  refine Canon.failQueue ?_
  split
  · exact h.takeSlot
  · exact h

theorem Canon.finishCopy {s : State} {c q : Nat} {e : CEntry} {d : CopyDest} {o : CopyOut} {ranges : List Span} (h : Canon s) :
    Canon (finishCopy s c q e d o ranges) := by
  unfold Machine.finishCopy
  extract_lets k fc t1
  have ht1 : Canon t1 := h.engRead
  clear_value t1
  split
  · exact ht1.putOut.popEntry
  · split
    · exact ht1.failCopy
    · extract_lets t2
      have ht2 : Canon t2 := ht1.putOut.takeSlot.fillSlot
      clear_value t2
      exact Canon.ite ht2.failQueue ht2.popEntry

theorem Canon.failElements {s : State} {c q : Nat} {e : CEntry} {d : CopyDest} {x : DefErr} (h : Canon s) :
    Canon (failElements s c q e d x) :=
  h.engRead.putOut.failCopy.of rfl

theorem Canon.performElements {s : State} {c q : Nat} {e : CEntry} {d : CopyDest} (h : Canon s) :
    Yields Canon (performElements s c q e d) := by
  unfold Machine.performElements
  dsimp only
  split
  · exact h.apply.finishCopy
  · exact h.apply.stopEntry
  · exact h.apply.failElements
  · exact yields_none

theorem Canon.performCopy {s : State} {c q : Nat} {e : CEntry} (h : Canon s) : Yields Canon (performCopy s c q e) := by
  unfold Machine.performCopy
  refine yields_ite yields_none (yields_bind (yields_any _) fun _ _ => yields_ite h.performElements (yields_ite yields_none ?_))
  split
  · split
    · exact h.failCopy
    · exact yields_none
    · exact Canon.finishCopy h

theorem Canon.copyReady {s : State} {c q : Nat} (h : Canon s) : Yields Canon (copyReady s c q) :=
  yields_bind (yields_any _) fun _ _ => yields_ite h.performCopy yields_none

theorem Canon.execCopyEntryPerform {c q : Nat} {s : State} (h : Canon s) : Answers (execCopyEntryPerform c q s) := by
  unfold Machine.execCopyEntryPerform
  split
  · rename_i heq
    have h1 := h.copyReady.of_some heq
    exact h.event h1.updFold
  · exact h.event h

theorem Canon.resolveCopy {s : State} {c q : Nat} {e : CEntry} (h : Canon s) : Yields Canon (resolveCopy s c q e) := by
  unfold Machine.resolveCopy
  split
  · exact h.failElements
  · exact h.resolveEntry

theorem Canon.execCopyFaultResolved {c q : Nat} {s : State} (h : Canon s) : Answers (execCopyFaultResolved c q s) := by
  unfold Machine.execCopyFaultResolved
  split
  · rename_i heq
    have h1 := Yields.of_some (P := Canon) (by exact yields_bind (yields_any _) fun _ _ => h.resolveCopy) heq
    exact h.event h1
  · exact h.event h

/-! ## Functions of Machine/Feed.lean -/

theorem Canon.execCbinit {x0 : Lit} {a : BitVec 5} {c : BitVec 4} {s : State} (h : Canon s) : Answers (execCbinit x0 a c s) :=
  h.settle (h.withChecked h.descWait fun _ h1 => keeps_need_trap (keeps_need_trap
      (keeps_bind h1.descRead fun _ h2 => keeps_need_trap h2.setChute)))

theorem Canon.popSlot {s : State} {ch : Nat} {x : Chute} (h : Canon s) : Canon (popSlot s ch x).2 :=
  h.setChute.of rfl

theorem Canon.execCbpop {x0 : Lit} {d : BitVec 5} {c : BitVec 4} {s : State} (h : Canon s) : Answers (execCbpop x0 d c s) := by
  unfold Machine.execCbpop
  refine h.settle (h.withRegs fun _ h1 => ?_)
  split
  · exact trivial
  · exact keeps_need_stall h h1.setChute.setG

theorem Canon.execCbpush {x0 : Lit} {c : BitVec 4} {s : State} (h : Canon s) : Answers (execCbpush x0 c s) := by
  unfold Machine.execCbpush
  refine h.settle ?_
  split
  · exact trivial
  · exact keeps_need_trap (keeps_need_stall h h.setChute)

theorem Canon.execCbstat {x0 : Lit} {d : BitVec 5} {c : BitVec 4} {s : State} (h : Canon s) : Answers (execCbstat x0 d c s) :=
  h.settle (h.withRegs fun _ h1 => h1.setG)

theorem Canon.bindStream {s : State} {c b : Nat} {t : Stream} (h : Canon s) : Canon (bindStream s c b t) :=
  h.updCore.of rfl

theorem Canon.bindWait {s : State} (h : Canon s) : Keeps (fun _ => True) (bindWait s) :=
  keeps_check (by trivial)

theorem Canon.execSbind {x0 : Lit} {d a : BitVec 5} {s : State} (h : Canon s) : Answers (execSbind x0 d a s) :=
  h.settle (h.withChecked (keeps_bind h.bindWait fun _ _ => h.descWait) fun _ h1 => keeps_need_trap
      (keeps_need_trap (keeps_need_trap (keeps_need_trap (keeps_bind h1.descRead fun _ h2 => keeps_need_trap
  (keeps_need_trap h2.bindStream))))))

theorem Canon.endStream {s : State} {c b : Nat} (h : Canon s) : Canon (endStream s c b) := by
  unfold Machine.endStream
  split
  · exact h
  · extract_lets t1
    have ht1 : Canon t1 := h.setLocal
    clear_value t1
    exact ht1.updCore

theorem Canon.streamErrOf {t : Stream} {b : Nat} : Keeps (fun _ => True) (streamErrOf t b) := by
  unfold Machine.streamErrOf
  split <;> exact trivial

theorem Canon.execSunbind {x0 : Lit} {d : BitVec 5} {s : State} (h : Canon s) : Answers (execSunbind x0 d s) := by
  unfold Machine.execSunbind
  dsimp only
  refine h.settle (keeps_need_trap ?_)
  split
  · exact trivial
  · exact keeps_need_stall h (keeps_bind Canon.streamErrOf fun _ _ => h.endStream)

theorem Canon.execSstat {x0 : Lit} {d a : BitVec 5} {s : State} (h : Canon s) : Answers (execSstat x0 d a s) :=
  h.settle (h.withRegs fun _ h1 => keeps_need_trap h1.setG)

theorem Canon.execSdrain {x0 : Lit} {d : BitVec 5} {s : State} (h : Canon s) : Answers (execSdrain x0 d s) := by
  unfold Machine.execSdrain
  dsimp only
  refine h.settle (keeps_need_trap ?_)
  split
  · exact trivial
  · exact keeps_need_trap (keeps_need_stall h (keeps_bind Canon.streamErrOf fun _ _ => h))

theorem Canon.streamAccess {s : State} {c : Nat} {v : Int} {n al : Nat} {write : Bool} (h : Canon s) :
    Keeps (fun x => Canon x.2) (streamAccess s c v n al write) := by
  unfold Machine.streamAccess
  dsimp only
  refine keeps_need_trap (keeps_need_trap (keeps_ite (keeps_need_trap ?_) h.checkRange))
  split
  · exact trivial
  · exact keeps_ite trivial (h.countStaleRead.of rfl)

theorem Canon.putFill {s : State} {c b : Nat} {t : Stream} {e : RingEntry} (h : Canon s) : Canon (putFill s c b t e) :=
  h.setLocal.updCore.of rfl

theorem Canon.fillStream {s : State} {c b : Nat} {t : Stream} (h : Canon s) : Yields Canon (fillStream s c b t) := by
  unfold Machine.fillStream
  dsimp only
  split
  · exact h.putFill
  · exact yields_none
  · rename_i heq
    have h1 := h.streamAccess.of_error heq
    exact yields_ite yields_none h1
  · rename_i heq
    have h1 := h.streamAccess.of_ok heq
    exact h1.countEccRanges.putFill

theorem Canon.execStreamFill {c b : Nat} {s : State} (h : Canon s) : Answers (execStreamFill c b s) := by
  unfold Machine.execStreamFill
  split
  · rename_i heq
    have h1 := Yields.of_some (P := Canon) (by exact yields_bind (yields_any _) fun _ _ => yields_ite h.fillStream yields_none) heq
    exact h.event h1
  · exact h.event h

theorem Canon.drainEntry {s : State} {c b : Nat} {t : Stream} (h : Canon s) : Yields Canon (drainEntry s c b t) := by
  unfold Machine.drainEntry
  dsimp only
  split
  · exact h.updCore
  · exact yields_none
  · rename_i heq
    have h1 := h.streamAccess.of_error heq
    exact yields_ite yields_none h1
  · rename_i heq
    have h1 := h.streamAccess.of_ok heq
    exact h1.writeRange.updCore

theorem Canon.execStreamDrainEntry {c b : Nat} {s : State} (h : Canon s) : Answers (execStreamDrainEntry c b s) := by
  unfold Machine.execStreamDrainEntry
  split
  · rename_i heq
    have h1 := Yields.of_some (P := Canon) (by exact yields_bind (yields_any _) fun _ _ => yields_ite h.drainEntry yields_none) heq
    exact h.event h1
  · exact h.event h

theorem Canon.execLmalloc {l : Lit} {d b : BitVec 5} {s : State} (h : Canon s) : Answers (execLmalloc l d b s) :=
  h.settle (h.withRegs fun _ h1 => keeps_ite h1.setG h1.updMe.invalidate.setG)

theorem Canon.execLmfree {x0 : Lit} {a : BitVec 5} {s : State} (h : Canon s) : Answers (execLmfree x0 a s) :=
  h.settle (h.withRegs fun _ h1 => keeps_need_trap h1.updMe)

theorem Canon.execLminv {l : Lit} {a b : BitVec 5} {s : State} (h : Canon s) : Answers (execLminv l a b s) := by
  unfold Machine.execLminv
  dsimp only
  refine h.settle (h.withRegs fun _ h1 => keeps_need_trap (keeps_need_trap (keeps_need_trap (keeps_need_hold ?_))))
  split
  · exact trivial
  · exact keeps_need_stall h h1.invalidate

/-! ## Functions of Machine/Margins.lean -/

theorem Canon.bindCells {s : State} {c : Nat} {ws : List Word} {b : List Nat} {box : Nat} (h : Canon s) :
    Canon (bindCells s c ws b box) := by
  unfold Machine.bindCells
  extract_lets w val cells t1 n
  have ht1 : Canon t1 := by
    unfold t1
    refine h.foldl fun _ _ h1 => ?_
    split
    · exact h1.setLocal.of rfl
    · exact h1
  clear_value t1
  refine ht1.foldl fun _ _ h1 => ?_
  extract_lets ghost
  exact Canon.ite h1.invalidate h1

theorem Canon.execPdecl {l : Lit} {a b : BitVec 5} {w : BitVec 2} {s : State} (h : Canon s) : Answers (execPdecl l a b w s) :=
  h.settle (h.withRegs fun _ h1 => keeps_need_trap (keeps_need_trap (keeps_need_trap
      (keeps_need_trap (keeps_need_trap (keeps_need_trap (keeps_need_trap
  (keeps_ite (keeps_need_trap (keeps_bind (P := fun (x : _ × State) => Canon x.2) h1 fun _ h2 => h2.countEccRanges.bindCells.updMe))
  (keeps_need_trap (keeps_need_trap (keeps_bind h1.descRead fun x h2 => keeps_need_trap
  (keeps_bind h2.descRead fun _ h3 => keeps_need_trap (keeps_bind (P := fun (x : _ × State) => Canon x.2) h3 fun _ h4 =>
  h4.countEccRanges.bindCells.updMe)))))))))))))

theorem Canon.boundPad {s : State} {w : Nat} (h : Canon s) : Keeps (fun _ => True) (boundPad s w) := by
  unfold Machine.boundPad
  split <;> exact trivial

theorem Canon.execMuster {x0 : Lit} {w : BitVec 2} {s : State} (h : Canon s) : Answers (execMuster x0 w s) :=
  h.settle (keeps_need_hold (keeps_need_trap (keeps_bind h.boundPad fun _ _ => keeps_need_stall h h.setMe)))

theorem Canon.execGwait {l : Lit} {b : BitVec 5} {w : BitVec 2} {s : State} (h : Canon s) : Answers (execGwait l b w s) :=
  h.settle (h.withRegs fun _ h1 => keeps_bind h1.boundPad fun _ _ => keeps_need_trap (keeps_need_stall h h1))

theorem Canon.execGstat {x0 : Lit} {d : BitVec 5} {w : BitVec 2} {s : State} (h : Canon s) : Answers (execGstat x0 d w s) :=
  h.settle (h.withRegs fun _ h1 => h1.setG)

theorem Canon.execPdrop {x0 : Lit} {w : BitVec 2} {s : State} (h : Canon s) : Answers (execPdrop x0 w s) :=
  h.settle (keeps_bind h.boundPad fun _ _ => keeps_need_stall h h.setMe)

theorem Canon.acceptPiece {s : State} {c i : Nat} {m : PieceMsg} (h : Canon s) : Yields Canon (acceptPiece s c i m) := by
  unfold Machine.acceptPiece
  dsimp only
  exact yields_bind (yields_any _) fun _ _ => yields_map (yields_any _) fun _ _ =>
      ((h.countEccRanges.foldl fun _ _ h3 => h3.setLocal).updCore).updCore

theorem Canon.execPieceAccept {c i : Nat} {s : State} (h : Canon s) : Answers (execPieceAccept c i s) := by
  unfold Machine.execPieceAccept
  split
  · rename_i heq
    have h1 := Yields.of_some (P := Canon) (by exact yields_bind (yields_any _) fun _ _ => h.acceptPiece) heq
    exact h.event h1
  · exact h.event h

/-! ## Functions of Machine/Units.lean -/

theorem Canon.prepareDecl {p job c : Nat} {s : State} {d : Decl} (h : Canon s) : Canon (prepareDecl p job c s d) := by
  unfold Machine.prepareDecl
  split
  · extract_lets ws t1 t2
    have ht1 : Canon t1 := h.agentCount
    have ht2 : Canon t2 := ht1.setLocal
    clear_value t1 t2
    exact ht2.updCore
  · exact h.setLocal
  · exact h.updCore

theorem Canon.setupCore {s : State} {p blk c : Nat} {l : Launch} (h : Canon s) : Canon (setupCore s p blk c l) := by
  unfold Machine.setupCore
  extract_lets lc k src k1 t1 ctl t2 t3 other
  have ht1 : Canon t1 := h.setCore.foldl fun _ _ h1 => h1.prepareDecl
  have ht2 : Canon t2 := ht1.updCore
  have ht3 : Canon t3 := ht2.updFold
  clear_value t1 t2 t3
  exact Canon.ite h ht3.updPart

theorem Canon.bindDecls {c : Nat} {l : Launch} {s : State} (h : Canon s) : Canon (bindDecls c l s) := by
  unfold Machine.bindDecls
  extract_lets leaves t1 t2
  have ht1 : Canon t1 := by
    unfold t1
    refine h.foldl fun _ _ h1 => ?_
    extract_lets ws t3
    have ht3 : Canon t3 := Canon.ite h1.countEccRanges h1
    clear_value t3
    split
    · split
      · exact Canon.ite ht3 ht3.bindStream
      · exact ht3
    · exact Canon.ite ht3.setChute ht3.updCore
    · exact ht3
  have ht2 : Canon t2 := Canon.takeTrap ht1
  clear_value t1 t2
  exact Canon.ite ht2 ht1

theorem Canon.beginRun {s : State} {c : Nat} {l : Launch} {o : Occ} {pc : Nat} {vs : List Word} (h : Canon s) :
    Canon (beginRun s c l o pc vs) :=
  h.foldWakes.updCore.updCore.bindDecls.of rfl

theorem Canon.takeUnit {s : State} {p blk c rcd : Nat} {l : Launch} (h : Canon s) : Canon (takeUnit s p blk c rcd l) := by
  unfold Machine.takeUnit
  extract_lets ws w0 susp t1 k fail t2 t3 vs o t4 t5
  have ht1 : Canon t1 := h.agentCount
  have ht2 : Canon t2 := ht1.setupCore
  have ht3 : Canon t3 := ht2.agentWrite
  have ht4 : Canon t4 := ht3.beginRun
  have ht5 : Canon t5 := Canon.ite ht4.updCore ht4
  clear_value t1 t2 t3 t4 t5
  exact Canon.ite (ht1.writeErr.cancelUnit.of rfl) (Canon.ite (ht1.writeErr.cancelUnit.of rfl) ht5.updPart)

theorem Canon.joinAgents {s0 s : State} (h : Canon s0) (h1 : Canon s) : Keeps (fun _ => True) (joinAgents s0 s) := by
  unfold Machine.joinAgents
  dsimp only
  refine keeps_need_trap (keeps_need_stall h ?_)
  split
  · rename_i heq
    have h2 := Canon.deferredOf.of_some heq
    exact h2
  · split
    · exact trivial
    · split
      · rename_i heq
        have h2 := Canon.streamErr.of_some heq
        exact h2
      · exact keeps_check (by trivial)

theorem Canon.putAway {s : State} {c : Nat} (h : Canon s) : Canon (putAway s c) :=
  (h.foldl fun _ _ h1 => h1.endStream).foldl fun _ _ h1 => h1.writeChute

theorem Canon.leaveCore {s : State} {c : Nat} (h : Canon s) : Canon (leaveCore s c) :=
  ((((Canon.ite h.endCapture.putAway.mirrorPair.updCore h.endCapture.putAway.mirrorPair).unpair).updCore).releaseMatrix).of rfl

theorem Canon.suspendUnit {s : State} {c st susp pc : Nat} (h : Canon s) : Canon (suspendUnit s c st susp pc) := by
  unfold Machine.suspendUnit
  extract_lets k
  split
  · extract_lets t w0 t1 t2 t3
    have ht1 : Canon t1 := h.agentWrite
    have ht2 : Canon t2 := ht1.foldl fun _ _ h1 => h1.agentWrite
    have ht3 : Canon t3 := ht2.leaveCore.updCore
    clear_value t1 t2 t3
    exact Canon.ite ht3.makeReady ht3
  · exact h

theorem Canon.unitOf {s : State} (h : Canon s) : Keeps (fun _ => True) (unitOf s) := by
  unfold Machine.unitOf
  split
  · exact keeps_ite trivial trivial
  · exact trivial

theorem Canon.arrive {s : State} {c : Nat} (h : Canon s) : Canon (arrive s c) :=
  h.updCore.of rfl

theorem Canon.nextRoutine {s : State} {c : Nat} (h : Canon s) : Canon (nextRoutine s c) := by
  unfold Machine.nextRoutine
  extract_lets k
  split
  · extract_lets rs x go first o'
    split
    · exact h.beginRun
    · exact Canon.ite h.updCore h.arrive
  · exact h

theorem Canon.endRoutine {s : State} {c : Nat} (h : Canon s) : Canon (endRoutine s c) :=
  h.endCapture.putAway.updCore.nextRoutine.of rfl

/-! ## Functions of Machine/Sync.lean -/

theorem Canon.unflagged {s : State} (h : Canon s) : Keeps (fun _ => True) (unflagged s) :=
  keeps_check (by trivial)

theorem Canon.execEvwait {x0 : Lit} {e : BitVec 5} {s : State} (h : Canon s) : Answers (execEvwait x0 e s) :=
  h.settle (keeps_bind h.unflagged fun _ _ => keeps_need_trap (keeps_bind h.unitOf fun _ _ => keeps_ite h.setFold
      (keeps_bind (h.joinAgents h) fun _ _ => h.updFold.suspendUnit)))

theorem Canon.execEvsig {l : Lit} {a b e : BitVec 5} {s : State} (h : Canon s) : Answers (execEvsig l a b e s) :=
  h.settle (h.withRegs fun _ h1 => keeps_bind h.unflagged fun _ _ => keeps_bind h.unitOf fun _ _ => keeps_need_trap
      (keeps_need_stall h (keeps_need_stall h.updMe h1.updMe.addEvent)))

theorem Canon.execEvcnt {x0 : Lit} {d e : BitVec 5} {s : State} (h : Canon s) : Answers (execEvcnt x0 d e s) :=
  h.settle (h.withRegs fun _ h1 => keeps_bind h.unflagged fun _ _ => h1.setG)

theorem Canon.toReady {s : State} {c : Nat} {x : Nat × Nat} (h : Canon s) : Canon (toReady s c x) :=
  h.updFold.of rfl

theorem Canon.spillEntry {s : State} {c : Nat} {x : Nat × Nat} (h : Canon s) : Canon (spillEntry s c x) :=
  h.setLocal.updCore.of rfl

theorem Canon.pushDeque {s : State} {c blk rcd : Nat} (h : Canon s) : Canon (pushDeque s c blk rcd) := by
  unfold Machine.pushDeque
  extract_lets k old t1
  have ht1 : Canon t1 := h.setCore
  clear_value t1
  exact Canon.ite h.setCore (Canon.ite ht1.toReady (Canon.ite ht1.spillEntry ht1.updCore.toReady.spillEntry))

theorem Canon.agentWord {s : State} {p job v : Nat} (h : Canon s) : Keeps (fun x => Canon x.2) (agentWord s p job v) :=
  keeps_need_trap (h.agentCount.of rfl)

theorem Canon.execDqpush {x0 : Lit} {a : BitVec 5} {s : State} (h : Canon s) : Answers (execDqpush x0 a s) :=
  h.settle (h.withChecked (keeps_check (by trivial)) fun _ h1 => keeps_bind h.unitOf fun _ _ => keeps_need_trap
      (keeps_bind h1.agentWord fun _ h3 => keeps_need_trap h3.pushDeque))

theorem Canon.execDqpop {x0 : Lit} {d : BitVec 5} {s : State} (h : Canon s) : Answers (execDqpop x0 d s) := by
  unfold Machine.execDqpop
  refine h.settle (h.withRegs fun _ h1 => keeps_bind h.unitOf fun _ _ => ?_)
  split
  · exact h1.setMe.setG
  · exact h1.setG

theorem Canon.execDqsteal {x0 : Lit} {d a : BitVec 5} {s : State} (h : Canon s) : Answers (execDqsteal x0 d a s) := by
  unfold Machine.execDqsteal
  dsimp only
  refine h.settle (h.withRegs fun _ h1 => keeps_bind h.unitOf fun _ _ => keeps_need_trap ?_)
  split
  · exact h1.setCore.setG
  · exact h1.setG

theorem Canon.joinBlock {s : State} {w : Word} (h : Canon s) : Keeps Canon (joinBlock s w) :=
  keeps_need_trap (keeps_need_trap (keeps_need_trap (keeps_bind h.checkRange fun _ h1 => h1)))

theorem Canon.arenaCheck {s : State} {p blk : Nat} (h : Canon s) : Canon (arenaCheck s p blk) := by
  unfold Machine.arenaCheck
  split
  · exact h
  · exact Canon.ite h.cancelLaunch h

theorem Canon.execFork {l : Lit} {d a b : BitVec 5} {s : State} (h : Canon s) : Answers (execFork l d a b s) := by
  unfold Machine.execFork
  dsimp only
  refine h.settle (h.withRegs fun _ h1 => keeps_bind h.unitOf fun x _ => keeps_need_trap (keeps_need_trap (keeps_ite ?_ ?_)))
  · refine keeps_bind (P := Canon) h1 fun _ h3 => keeps_need_stall h (keeps_ite ?_ ?_)
    · refine keeps_bind (P := fun (x : _ × State) => Canon x.2) h3 fun _ h4 => keeps_need_trap ?_
      split
      · exact keeps_bind (h.joinAgents h4) fun _ _ => h4.suspendUnit.updPart.arenaCheck
      · exact (((Canon.ite h4 h4.agentWrite).foldl fun _ _ h5 => h5.agentWrite).updPart).pushDeque
    · refine keeps_bind h3.agentWord fun _ h4 => keeps_need_trap ?_
      split
      · exact keeps_bind (h.joinAgents h4) fun _ _ => h4.suspendUnit.updPart.arenaCheck
      · exact (((Canon.ite h4 h4.agentWrite).foldl fun _ _ h5 => h5.agentWrite).updPart).pushDeque
  · refine keeps_bind h1.joinBlock fun _ h3 => keeps_need_stall h (keeps_ite ?_ ?_)
    · refine keeps_bind (P := fun (x : _ × State) => Canon x.2) h3 fun _ h4 => keeps_need_trap ?_
      split
      · exact keeps_bind (h.joinAgents h4) fun _ _ => h4.suspendUnit.updPart.arenaCheck
      · exact (((Canon.ite h4 h4.agentWrite).foldl fun _ _ h5 => h5.agentWrite).updPart).pushDeque
    · refine keeps_bind h3.agentWord fun _ h4 => keeps_need_trap ?_
      split
      · exact keeps_bind (h.joinAgents h4) fun _ _ => h4.suspendUnit.updPart.arenaCheck
      · exact (((Canon.ite h4 h4.agentWrite).foldl fun _ _ h5 => h5.agentWrite).updPart).pushDeque

theorem Canon.execJoin {x0 : Lit} {a : BitVec 5} {s : State} (h : Canon s) : Answers (execJoin x0 a s) :=
  h.settle (h.withRegs fun _ h1 => keeps_need_trap (keeps_bind h.unitOf fun _ _ => keeps_bind h1.joinBlock fun _ h3 => keeps_need_stall h
      (keeps_bind h3.agentWord fun _ h4 => keeps_need_trap (keeps_ite h4.agentWrite.agentWrite
  (keeps_bind (h.joinAgents h4) fun _ _ => h4.agentWrite.agentWrite.updPart.suspendUnit)))))

theorem Canon.sendError {s : State} (h : Canon s) : Keeps (fun _ => True) (sendError s) :=
  keeps_check (by trivial)

theorem Canon.sendWait {s : State} {r : Span} {j chan : Nat} (h : Canon s) : Keeps (fun _ => True) (sendWait s r j chan) :=
  keeps_check (by trivial)

theorem Canon.execSend {l : Lit} {d a b : BitVec 5} {s : State} (h : Canon s) : Answers (execSend l d a b s) := by
  unfold Machine.execSend
  dsimp only
  refine h.settle (h.withChecked h.sendWait fun _ h1 => keeps_bind h.sendError fun _ _ => ?_)
  refine keeps_need_trap (keeps_bind h.copyPtr fun _ _ => keeps_need_trap (keeps_bind h.unflagged fun _ _ => ?_))
  refine keeps_need_trap (keeps_bind Canon.copyAlign fun _ _ => keeps_bind h1.copyRange fun _ h6 => ?_)
  split
  · exact h.stop
  · exact h6.engCount.updMe

theorem Canon.arriveMessage {s : State} {c : Nat} {m : Msg} (h : Canon s) : Yields Canon (arriveMessage s c m) :=
  yields_map (yields_any _) fun _ _ => h.countEccRanges.setLocal.takeSlot.fillSlot.updCore.of rfl

theorem Canon.execMessageArrival {c : Nat} {s : State} (h : Canon s) : Answers (execMessageArrival c s) := by
  unfold Machine.execMessageArrival
  split
  · rename_i heq
    have h1 := Yields.of_some (P := Canon) (by exact yields_bind (yields_any _) fun _ _ => h.arriveMessage) heq
    exact h.event h1
  · exact h.event h

theorem Canon.recvContext {s : State} {ch : Nat} (h : Canon s) : Keeps (fun _ => True) (recvContext s ch) := by
  unfold Machine.recvContext
  refine keeps_bind h.sendError fun _ _ => ?_
  split <;> exact trivial

theorem Canon.execRecv {x0 : Lit} {d : BitVec 5} {c : BitVec 4} {s : State} (h : Canon s) : Answers (execRecv x0 d c s) :=
  h.settle (h.withRegs fun _ h1 => keeps_need_trap (keeps_bind h1.recvContext fun _ _ => keeps_ite h1.setChute.setG
      (keeps_bind h.unitOf fun _ _ => keeps_bind (h.joinAgents h1) fun _ _ => h1.suspendUnit.updPart)))

theorem Canon.execRecvt {l : Lit} {d b : BitVec 5} {c : BitVec 4} {s : State} (h : Canon s) : Answers (execRecvt l d b c s) := by
  unfold Machine.execRecvt
  dsimp only
  refine h.settle (h.withRegs fun _ h1 => keeps_bind h1.recvContext fun _ _ => keeps_need_trap (keeps_ite h1.popSlot.updMe.setG ?_))
  split
  · exact h
  · exact keeps_need_trap h.updMe

theorem Canon.execRecvtTimeout {c : Nat} {s : State} (h : Canon s) : Answers (execRecvtTimeout c s) := by
  unfold Machine.execRecvtTimeout
  split
  · exact h.event h.updCore
  · exact h.event h

/-! ## Functions of Machine/Drove.lean -/

theorem Canon.setSlot {s : State} {i : Nat} {x : DSlot} (h : Canon s) : Canon (State.setSlot s i x) :=
  h

theorem Canon.keyLeaves {s : State} {i : Nat} (h : Canon s) : Canon (keyLeaves s i) :=
  h

theorem Canon.droveDone {s : State} {c : Nat} {slot : Option Nat} (h : Canon s) : Canon (droveDone s c slot) :=
  h.updCore.of rfl

theorem Canon.droveKey {s : State} {a : Nat} (h : Canon s) : Keeps (fun _ => True) (droveKey s a) := by
  unfold Machine.droveKey
  dsimp only
  split
  · exact trivial
  · exact keeps_need_trap (keeps_need_trap trivial)

theorem Canon.droveAccept {s : State} {r : DroveReq} (h : Canon s) : Keeps Canon (droveAccept s r) :=
  keeps_ite (keeps_bind (h.gRoom h) fun _ _ => keeps_need_hold h.setMe)
      (keeps_bind (P := fun _ => True) trivial fun _ _ => keeps_need_hold h.setMe)

theorem Canon.heldKey {k : Core} {key : Word32} : Keeps (fun _ => True) (heldKey k key) := by
  unfold Machine.heldKey
  split
  · exact trivial
  · exact keeps_need_hold trivial

theorem Canon.needHome {s : State} {key : Word32} (h : Canon s) : Keeps (fun _ => True) (needHome s key) :=
  keeps_check (by trivial)

theorem Canon.execDboard {l : Lit} {d a b : BitVec 5} {s : State} (h : Canon s) : Answers (execDboard l d a b s) :=
  h.settle (h.withRegs fun _ h1 => keeps_bind h.droveKey fun _ _ => keeps_bind h.unflagged fun _ _ => keeps_bind h.needHome fun _ _ =>
      h1.droveAccept)

theorem Canon.execDalight {l : Lit} {d a b : BitVec 5} {s : State} (h : Canon s) : Answers (execDalight l d a b s) :=
  h.settle (h.withRegs fun _ h1 => keeps_bind h.droveKey fun _ _ => keeps_bind h.unflagged fun _ _ => keeps_bind h.needHome fun _ _ =>
      keeps_need_trap (keeps_need_trap (keeps_need_trap (keeps_need_trap (keeps_bind h1.checkRange fun _ h5 => h5.droveAccept)))))

theorem Canon.execDread {x0 : Lit} {d a : BitVec 5} {w : BitVec 3} {s : State} (h : Canon s) : Answers (execDread x0 d a w s) := by
  unfold Machine.execDread
  refine h.settle (h.withRegs fun _ h1 => keeps_need_trap (keeps_bind h.droveKey fun _ _ => keeps_bind Canon.heldKey fun _ _ => ?_))
  split
  · exact h1.droveDone.setG
  · exact h1.droveAccept

theorem Canon.drmw {s : State} {l : Lit} {opr d a b w : Nat} (h : Canon s) : Answers (drmw s l opr d a b w) := by
  unfold Machine.drmw
  dsimp only
  refine h.settle (h.withRegs fun _ h1 => ?_)
  refine keeps_need_trap (keeps_bind h.droveKey fun _ _ => keeps_need_trap (keeps_bind Canon.heldKey fun _ _ => ?_))
  split
  · exact h1.updMe.droveDone.setG
  · exact h1.droveAccept

theorem Canon.execDrmwAdd {l : Lit} {d a b : BitVec 5} {w : BitVec 3} {s : State} (h : Canon s) : Answers (execDrmwAdd l d a b w s) :=
  h.drmw

theorem Canon.execDrmwMin {l : Lit} {d a b : BitVec 5} {w : BitVec 3} {s : State} (h : Canon s) : Answers (execDrmwMin l d a b w s) :=
  h.drmw

theorem Canon.execDrmwMax {l : Lit} {d a b : BitVec 5} {w : BitVec 3} {s : State} (h : Canon s) : Answers (execDrmwMax l d a b w s) :=
  h.drmw

theorem Canon.execDrmwMinu {l : Lit} {d a b : BitVec 5} {w : BitVec 3} {s : State} (h : Canon s) : Answers (execDrmwMinu l d a b w s) :=
  h.drmw

theorem Canon.execDrmwMaxu {l : Lit} {d a b : BitVec 5} {w : BitVec 3} {s : State} (h : Canon s) : Answers (execDrmwMaxu l d a b w s) :=
  h.drmw

theorem Canon.execDrmwFmin {l : Lit} {d a b : BitVec 5} {w : BitVec 3} {s : State} (h : Canon s) : Answers (execDrmwFmin l d a b w s) :=
  h.drmw

theorem Canon.execDrmwFmax {l : Lit} {d a b : BitVec 5} {w : BitVec 3} {s : State} (h : Canon s) : Answers (execDrmwFmax l d a b w s) :=
  h.drmw

theorem Canon.execDrmwAnd {l : Lit} {d a b : BitVec 5} {w : BitVec 3} {s : State} (h : Canon s) : Answers (execDrmwAnd l d a b w s) :=
  h.drmw

theorem Canon.execDrmwOr {l : Lit} {d a b : BitVec 5} {w : BitVec 3} {s : State} (h : Canon s) : Answers (execDrmwOr l d a b w s) :=
  h.drmw

theorem Canon.execDrmwXor {l : Lit} {d a b : BitVec 5} {w : BitVec 3} {s : State} (h : Canon s) : Answers (execDrmwXor l d a b w s) :=
  h.drmw

theorem Canon.execDrmwSwap {l : Lit} {d a b : BitVec 5} {w : BitVec 3} {s : State} (h : Canon s) : Answers (execDrmwSwap l d a b w s) :=
  h.drmw

theorem Canon.execDrmwCas {l : Lit} {d a b : BitVec 5} {w : BitVec 3} {s : State} (h : Canon s) : Answers (execDrmwCas l d a b w s) :=
  h.drmw

theorem Canon.execDcap {x0 : Lit} {a : BitVec 5} {s : State} (h : Canon s) : Answers (execDcap x0 a s) :=
  h.settle (h.withRegs fun _ h1 => keeps_bind h.droveKey fun _ _ => keeps_bind h.unflagged fun _ _ => keeps_need_trap
      (keeps_bind h1.droveAccept fun _ h4 => h4.updMe))

theorem Canon.execDput {l : Lit} {a b : BitVec 5} {w : BitVec 3} {s : State} (h : Canon s) : Answers (execDput l a b w s) := by
  unfold Machine.execDput
  dsimp only
  refine h.settle (h.withRegs fun _ h1 => ?_)
  refine keeps_need_trap (keeps_bind h.droveKey fun _ _ => keeps_bind h.unflagged fun _ _ => keeps_bind Canon.heldKey fun _ _ => ?_)
  split
  · exact trivial
  · exact h1.updMe.droveDone

theorem Canon.execDrel {x0 : Lit} {a : BitVec 5} {s : State} (h : Canon s) : Answers (execDrel x0 a s) := by
  unfold Machine.execDrel
  refine h.settle (h.withRegs fun _ h1 => ?_)
  refine keeps_bind h.droveKey fun _ _ => keeps_bind h.unflagged fun _ _ => keeps_bind Canon.heldKey fun _ _ => ?_
  split
  · exact trivial
  · exact h1.droveAccept

theorem Canon.execDlap {x0 : Lit} {d : BitVec 5} {s : State} (h : Canon s) : Answers (execDlap x0 d s) := by
  unfold Machine.execDlap
  refine h.settle (h.withRegs fun _ h1 => keeps_need_trap ?_)
  split
  · exact trivial
  · exact keeps_need_stall h h1.setG

theorem Canon.dropRequest {s : State} {c i : Nat} (h : Canon s) : Canon (dropRequest s c i) :=
  h.updCore.of rfl

theorem Canon.stageOp {s : State} {f ss : Nat} {x : Stage} (h : Canon s) : Canon (stageOp s f ss x) :=
  h.updFold.of rfl

theorem Canon.readSlot {s : State} {i : Nat} (h : Canon s) : Canon (readSlot s i) := by
  unfold Machine.readSlot
  refine Canon.ite ?_ h
  extract_lets src t1
  have ht1 : Canon t1 := h.setSlot
  clear_value t1
  exact ht1

theorem Canon.actOnSlot {s : State} {c i : Nat} {r : DroveReq} (h : Canon s) : Yields Canon (actOnSlot s c i r) := by
  unfold Machine.actOnSlot
  dsimp only
  split
  · exact h.readSlot.setSlot.deliverAction
  · exact h.readSlot.setSlot.writeRange.keyLeaves.setSlot.deliverAction
  · exact h.readSlot.deliverAction
  · split
    · exact yields_ite h.readSlot.stageOp.deliverAction h.readSlot.setSlot.deliverAction
    · exact h.readSlot.setSlot.deliverAction
  · exact h.readSlot.setSlot.updCore
  · exact h.readSlot
  · split
    · exact h.readSlot.setSlot.updCore
    · exact h.readSlot

theorem Canon.execDroveRequestApply {c : Nat} {s : State} (h : Canon s) : Answers (execDroveRequestApply c s) := by
  unfold Machine.execDroveRequestApply
  dsimp only
  split
  · split
    · rename_i heq
      have h1 := h.dropRequest.actOnSlot.of_some heq
      exact h.event h1.droveDone.updFold
    · exact h.event h
  · split
    · rename_i heq
      have h1 := h.dropRequest.deliverAction.of_some heq
      exact h.event h1.droveDone
    · exact h.event h
  · exact h.event h

theorem Canon.execDroveRequestFail {c : Nat} {s : State} (h : Canon s) : Answers (execDroveRequestFail c s) := by
  unfold Machine.execDroveRequestFail
  dsimp only
  split
  · exact h.event h.updCore.updFold
  · exact h.event h

theorem Canon.execCaptureTimeout {c : Nat} {s : State} (h : Canon s) : Answers (execCaptureTimeout c s) := by
  unfold Machine.execCaptureTimeout
  dsimp only
  split
  · exact h.event h.endCapture.updCore
  · exact h.event h

theorem Canon.execDroveSlotError {i : Nat} {s : State} (h : Canon s) : Answers (execDroveSlotError i s) :=
  h.event (Canon.ite h h.keyLeaves.setSlot.updFold)

/-! ## Functions of Machine/Exchange.lean -/

theorem Canon.flaggedOf {s : State} (h : Canon s) : Keeps (fun _ => True) (flaggedOf s) := by
  unfold Machine.flaggedOf
  split
  · exact keeps_ite trivial trivial
  · exact trivial

theorem Canon.execBdom {x0 : Lit} {a : BitVec 5} {s : State} (h : Canon s) : Answers (execBdom x0 a s) :=
  h.settle (h.withRegs fun _ h1 => keeps_bind h.flaggedOf fun _ _ => keeps_need_trap (keeps_need_trap h1.updMe))

theorem Canon.execSsync {x0 : Lit} {s : State} (h : Canon s) : Answers (execSsync x0 s) :=
  h.settle (keeps_bind h.flaggedOf fun _ _ => keeps_need_trap (keeps_bind (h.joinAgents h) fun _ _ => h.endCapture.putAway.arrive))

theorem Canon.applyStage {p : Nat} {s : State} {x : Stage} (h : Canon s) : Canon (applyStage p s x) := by
  delta Machine.applyStage
  generalize slotOf s p x.key = i
  cases i with
  | none => exact h
  | some i => exact h.setSlot

theorem Canon.applyStages {s : State} {p blk d : Nat} (h : Canon s) : Canon (applyStages s p blk d) :=
  h.foldl fun _ _ h1 => h1.applyStage

theorem Canon.openPhase {s : State} {c : Nat} (h : Canon s) : Canon (openPhase s c) := by
  unfold Machine.openPhase
  extract_lets k lmc
  split
  · extract_lets r xslot k1 src
    exact h.setCore
  · exact h

theorem Canon.takeSnap {s : State} {c : Nat} (h : Canon s) : Canon (takeSnap s c) :=
  h.setCore.updFold.of rfl

theorem Canon.goOn {s : State} {c : Nat} (h : Canon s) : Canon (goOn s c) :=
  Canon.ite h h.nextRoutine

theorem Canon.superstepRelease {s : State} {p b d : Nat} (h : Canon s) : Canon (superstepRelease s p b d) := by
  unfold Machine.superstepRelease
  split
  · exact h
  · extract_lets cs t1 t2 t3
    have ht1 : Canon t1 := h.applyStages
    have ht2 : Canon t2 := ht1.foldl fun _ _ h1 => h1.takeSnap
    have ht3 : Canon t3 := ht2.foldl fun _ _ h1 => h1.openPhase
    clear_value t1 t2 t3
    exact ht3.foldl fun _ _ h1 => h1.goOn

theorem Canon.execSuperstepRelease {p b d : Nat} {s : State} (h : Canon s) : Answers (execSuperstepRelease p b d s) :=
  h.event h.superstepRelease

theorem Canon.nextSuperstep {s : State} {c : Nat} (h : Canon s) : Canon (nextSuperstep s c) := by
  unfold Machine.nextSuperstep
  extract_lets k
  split
  · exact Canon.ite h.setCore.nextRoutine h.leaveCore.launchMember
  · exact h

theorem Canon.execExchangePhaseEnd {c : Nat} {s : State} (h : Canon s) : Answers (execExchangePhaseEnd c s) :=
  h.event h.nextSuperstep

theorem Canon.xsendWait {s : State} {l : Lit} {v : Word} {b : Nat} (h : Canon s) : Keeps (fun _ => True) (xsendWait s l v b) := by
  unfold Machine.xsendWait
  dsimp only
  split
  · exact keeps_bind h.descWait fun _ _ => keeps_check (by trivial)
  · exact trivial

theorem Canon.execXsend {l : Lit} {a b : BitVec 5} {s : State} (h : Canon s) : Answers (execXsend l a b s) := by
  unfold Machine.execXsend
  dsimp only
  refine h.settle (h.withChecked h.xsendWait fun _ h1 => keeps_bind h.flaggedOf fun _ _ => keeps_need_trap ?_)
  split
  · exact trivial
  · exact keeps_need_trap (keeps_need_trap (keeps_need_trap (keeps_need_trap
      (keeps_bind h1.descRead fun _ h3 => keeps_need_stall h h3.updMe))))

theorem Canon.writeTransfer {s : State} {c i : Nat} (h : Canon s) : Yields Canon (writeTransfer s c i) := by
  unfold Machine.writeTransfer
  dsimp only
  exact yields_bind (yields_any _) fun _ _ => yields_map (yields_any _) fun _ _ => h.setLocal.updCore.updCore

theorem Canon.execExchangeTransferWrite {c i : Nat} {s : State} (h : Canon s) : Answers (execExchangeTransferWrite c i s) := by
  unfold Machine.execExchangeTransferWrite
  split
  · rename_i heq
    have h1 := h.writeTransfer.of_some heq
    exact h.event h1
  · exact h.event h

theorem Canon.execXrecv {x0 : Lit} {d : BitVec 5} {c : BitVec 4} {s : State} (h : Canon s) : Answers (execXrecv x0 d c s) := by
  unfold Machine.execXrecv
  dsimp only
  refine h.settle (h.withRegs fun _ h1 => keeps_bind h.flaggedOf fun _ _ => keeps_need_trap ?_)
  split
  · exact trivial
  · exact keeps_need_stall h h1.updMe.setG

/-! ## Functions of Machine/Fences.lean -/

theorem Canon.addFence {s : State} {f : Fence} (h : Canon s) : Canon (addFence s f) :=
  Canon.ite h.updMe h

theorem Canon.execFenceR {l : Lit} {a b : BitVec 5} {s : State} (h : Canon s) : Answers (execFenceR l a b s) :=
  h.settle (h.withRegs fun _ h1 => keeps_need_trap (Canon.ite h1 h1.addFence))

theorem Canon.execFenceS {x0 : Lit} {p u : BitVec 6} {s : State} (h : Canon s) : Answers (execFenceS x0 p u s) :=
  h.settle h.addFence

theorem Canon.execQfence {x0 : Lit} {m : BitVec 8} {s : State} (h : Canon s) : Answers (execQfence x0 m s) := by
  unfold Machine.execQfence
  dsimp only
  refine h.settle (keeps_need_stall h ?_)
  split
  · rename_i heq
    have h1 := Canon.deferredOf.of_some heq
    exact h1
  · exact h

end Sys2Proof.Machine

end

section
/-! PROOFS. Memory stays canonical: collectives, pairs, the system, the front end and the scheduler. -/

namespace Sys2Proof.Machine

/-! ## Functions of Machine/Coll.lean -/

theorem Canon.collJudge {s : State} {tr : SMap Nat} {v n : Nat} (h : Canon s) : Keeps Canon (collJudge s tr v n) := by
  unfold Machine.collJudge
  refine keeps_need_trap ?_
  split
  · exact h.stop
  · exact h.countEccRanges

theorem Canon.collDesc {s : State} {w : Word} (h : Canon s) : Keeps (fun x => Canon x.2) (collDesc s w) :=
  keeps_need_trap (keeps_need_trap (keeps_need_trap (keeps_need_hold (keeps_bind h.checkRange fun _ h1 => keeps_bind h1.collJudge
      fun _ h2 => h2))))

theorem Canon.collRead {s : State} {v n : Nat} (h : Canon s) : Keeps (fun x => Canon x.2) (collRead s v n) :=
  keeps_need_hold (keeps_bind h.copyRange fun _ h1 => keeps_bind h1.collJudge fun _ h2 => h2)

theorem Canon.collTable {s : State} {d : List Word} (h : Canon s) : Keeps (fun x => Canon x.2) (collTable s d) :=
  keeps_bind h.collRead fun _ h1 => h1

theorem Canon.collEntries {s : State} {d table : List Word} (h : Canon s) : Keeps (fun x => Canon x.2) (collEntries s d table) := by
  unfold Machine.collEntries
  dsimp only
  refine keeps_ite h (keeps_bind h.collRead fun _ h1 => keeps_need_trap (keeps_bind h1.collRead fun _ h2 => ?_))
  split
  · exact trivial
  · exact keeps_need_trap h2

theorem Canon.rankRange {s : State} {v n al : Nat} {write : Bool} {tr : SMap Nat} (h : Canon s) :
    Keeps (fun x => Canon x.2) (rankRange s v n al write tr) :=
  keeps_need_trap (keeps_need_trap (keeps_bind h.copyRange fun _ h1 => h1))

theorem Canon.ownChunk {p : Nat} {x : State × Rank} {j : Nat} (h : Canon x.1) : Canon (ownChunk p x j).1 :=
  h.rankWrite.rankWrite.of rfl

theorem Canon.openRank {s : State} {d : List Word} {tr : SMap Nat} {epoch : Word} {x : VStream} (h : Canon s) :
    Canon (openRank s d tr epoch x) :=
  ((foldl_keeps (P := fun (x : State × _) => Canon x.1) ((Canon.ite h.engRead h).of rfl) fun _ _ h1 => h1.ownChunk).updPart).of rfl

theorem Canon.execVsset {l : Lit} {d a b : BitVec 5} {s : State} (h : Canon s) : Answers (execVsset l d a b s) := by
  unfold Machine.execVsset
  dsimp only
  refine h.settle (h.withRegs fun _ h1 => ?_)
  refine keeps_need_trap (keeps_bind h1.collDesc fun x h2 => keeps_need_trap (keeps_need_trap (keeps_bind h.copyPtr fun _ _ => ?_)))
  refine keeps_bind h.copyPtr fun _ _ => keeps_need_trap (keeps_bind h2.collTable fun _ h5 => keeps_need_trap (keeps_ite ?_ ?_))
  · refine keeps_bind (P := fun (x : _ × State) => Canon x.2) h5 fun _ h6 => keeps_ite ?_ ?_
    · refine keeps_bind (P := fun (x : _ × State) => Canon x.2) h6 fun _ h7 => keeps_ite ?_ ?_
      · refine keeps_bind (P := fun (x : _ × State) => Canon x.2) h7 fun _ h8 => ?_
        refine keeps_need_stall h (keeps_ite h8.setG (keeps_ite h8.setG ?_))
        split
        · exact h.stop
        · refine keeps_need_stall h ?_
          split
          · exact keeps_bind (P := fun (x : _ × State) => Canon x.2) h8 fun _ h9 => h9.openRank.setG
          · exact keeps_bind h8.collEntries fun _ h9 => h9.openRank.setG
      · refine keeps_bind h7.rankRange fun _ h8 => keeps_need_stall h (keeps_ite h8.setG (keeps_ite h8.setG ?_))
        split
        · exact h.stop
        · refine keeps_need_stall h ?_
          split
          · exact keeps_bind (P := fun (x : _ × State) => Canon x.2) h8 fun _ h9 => h9.openRank.setG
          · exact keeps_bind h8.collEntries fun _ h9 => h9.openRank.setG
    · refine keeps_bind h6.rankRange fun _ h7 => keeps_ite ?_ ?_
      · refine keeps_bind (P := fun (x : _ × State) => Canon x.2) h7 fun _ h8 => ?_
        refine keeps_need_stall h (keeps_ite h8.setG (keeps_ite h8.setG ?_))
        split
        · exact h.stop
        · refine keeps_need_stall h ?_
          split
          · exact keeps_bind (P := fun (x : _ × State) => Canon x.2) h8 fun _ h9 => h9.openRank.setG
          · exact keeps_bind h8.collEntries fun _ h9 => h9.openRank.setG
      · refine keeps_bind h7.rankRange fun _ h8 => keeps_need_stall h (keeps_ite h8.setG (keeps_ite h8.setG ?_))
        split
        · exact h.stop
        · refine keeps_need_stall h ?_
          split
          · exact keeps_bind (P := fun (x : _ × State) => Canon x.2) h8 fun _ h9 => h9.openRank.setG
          · exact keeps_bind h8.collEntries fun _ h9 => h9.openRank.setG
  · refine keeps_bind h5.rankRange fun _ h6 => keeps_ite ?_ ?_
    · refine keeps_bind (P := fun (x : _ × State) => Canon x.2) h6 fun _ h7 => keeps_ite ?_ ?_
      · refine keeps_bind (P := fun (x : _ × State) => Canon x.2) h7 fun _ h8 => ?_
        refine keeps_need_stall h (keeps_ite h8.setG (keeps_ite h8.setG ?_))
        split
        · exact h.stop
        · refine keeps_need_stall h ?_
          split
          · exact keeps_bind (P := fun (x : _ × State) => Canon x.2) h8 fun _ h9 => h9.openRank.setG
          · exact keeps_bind h8.collEntries fun _ h9 => h9.openRank.setG
      · refine keeps_bind h7.rankRange fun _ h8 => keeps_need_stall h (keeps_ite h8.setG (keeps_ite h8.setG ?_))
        split
        · exact h.stop
        · refine keeps_need_stall h ?_
          split
          · exact keeps_bind (P := fun (x : _ × State) => Canon x.2) h8 fun _ h9 => h9.openRank.setG
          · exact keeps_bind h8.collEntries fun _ h9 => h9.openRank.setG
    · refine keeps_bind h6.rankRange fun _ h7 => keeps_ite ?_ ?_
      · refine keeps_bind (P := fun (x : _ × State) => Canon x.2) h7 fun _ h8 => ?_
        refine keeps_need_stall h (keeps_ite h8.setG (keeps_ite h8.setG ?_))
        split
        · exact h.stop
        · refine keeps_need_stall h ?_
          split
          · exact keeps_bind (P := fun (x : _ × State) => Canon x.2) h8 fun _ h9 => h9.openRank.setG
          · exact keeps_bind h8.collEntries fun _ h9 => h9.openRank.setG
      · refine keeps_bind h7.rankRange fun _ h8 => keeps_need_stall h (keeps_ite h8.setG (keeps_ite h8.setG ?_))
        split
        · exact h.stop
        · refine keeps_need_stall h ?_
          split
          · exact keeps_bind (P := fun (x : _ × State) => Canon x.2) h8 fun _ h9 => h9.openRank.setG
          · exact keeps_bind h8.collEntries fun _ h9 => h9.openRank.setG

theorem Canon.execVsmark {x0 : Lit} {a : BitVec 5} {s : State} (h : Canon s) : Answers (execVsmark x0 a s) := by
  unfold Machine.execVsmark
  dsimp only
  refine h.settle (h.withRegs fun _ h1 => keeps_need_trap (keeps_need_trap ?_))
  split
  · exact trivial
  · exact Canon.ite h1 h1.updPart

theorem Canon.openPart {s : State} {w : Word} (h : Canon s) : Keeps (fun x => Canon x.2.2.2) (openPart s w) := by
  unfold Machine.openPart
  refine keeps_bind h.collDesc fun _ h1 => keeps_need_trap (keeps_bind h1.collTable fun x1 h2 => ?_)
  obtain ⟨y0, u⟩ := x1
  dsimp only
  split
  · exact trivial
  · split
    · exact trivial
    · exact h2

theorem Canon.closeRank {s : State} {p vs : Nat} {x : VStream} {q : Nat} (h : Canon s) : Canon (closeRank s p vs x q) :=
  h.updPart.of rfl

theorem Canon.execVswait {x0 : Lit} {d a : BitVec 5} {s : State} (h : Canon s) : Answers (execVswait x0 d a s) :=
  h.settle (h.withRegs fun _ h1 => keeps_need_trap (keeps_bind h1.openPart fun _ h2 => keeps_need_stall h h2.closeRank.setG))

theorem Canon.execVsdig {x0 : Lit} {d a : BitVec 5} {s : State} (h : Canon s) : Answers (execVsdig x0 d a s) := by
  unfold Machine.execVsdig
  refine h.settle (h.withRegs fun u h1 => keeps_need_trap ?_)
  extract_lets p
  refine keeps_bind h1.openPart fun x h2 => ?_
  obtain ⟨ds, x, r, s1⟩ := x
  dsimp -zeta only
  refine keeps_need_trap ?_
  extract_lets dig n dst all first bad x' go
  have hgo (y : SMap Nat × State) (hy : Canon y.2) : Keeps Canon (go y) := by
    unfold go
    refine keeps_need_stall h (keeps_ite hy.setG ?_)
    split
    · exact h.updPart
    · refine keeps_need_stall h ?_
      extract_lets s3 s4
      have hs3 : Canon s3 := Canon.ite hy hy.writeRange
      have hs4 : Canon s4 := hs3.updPart
      clear_value s4 bad
      split
      · exact hs4.setG
      · next s5 _ _ =>
        have hs5 : Canon s5 := hs4.updPart
        have hs6 : Canon { s5 with msix := s5.msix ++ [(p, 1)] } := hs5
        exact hs6.setG
  exact keeps_ite (keeps_bind (P := fun (x : SMap Nat × State) => Canon x.2) h2 hgo) (keeps_bind h2.copyRange hgo)

theorem Canon.execRouterBeat {p f vs : Nat} {s : State} (h : Canon s) : Answers (execRouterBeat p f vs s) := by
  unfold Machine.execRouterBeat
  split
  · exact h.event h.updPart
  · exact h.event h

theorem Canon.chunkArrives {s : State} {p : Nat} {r : Rank} (h : Canon s) : Yields (fun x => Canon x.1) (chunkArrives s p r) := by
  unfold Machine.chunkArrives
  dsimp only
  split
  · exact h.rankWrite.of rfl
  · exact yields_map (yields_any _) fun _ _ => h.rankWrite.of rfl

theorem Canon.execPortBeatArrival {p vs : Nat} {a : Arrival} {s : State} (h : Canon s) : Answers (execPortBeatArrival p vs a s) := by
  unfold Machine.execPortBeatArrival
  split
  · rename_i heq
    have h1 := Yields.of_some (P := fun (x : _ × State) => Canon x.2) (by
        refine yields_bind (yields_any _) fun _ _ => ?_
        split
        · exact yields_bind (yields_any _) fun _ _ => yields_map h.chunkArrives fun _ h3 => h3
        · exact yields_map (yields_any _) fun _ _ => h) heq
    exact h.event h1.updPart
  · exact h.event h

/-! ## Functions of Machine/Yoke.lean -/

theorem Canon.yokeAllowed {s : State} (h : Canon s) : Keeps (fun _ => True) (yokeAllowed s) :=
  keeps_check (by trivial)

theorem Canon.pairEpoch {s : State} {c jen : Nat} (h : Canon s) : Canon (pairEpoch s c jen) :=
  h.updCore.mirrorPair.of rfl

theorem Canon.execYoke {x0 : Lit} {d : BitVec 5} {s : State} (h : Canon s) : Answers (execYoke x0 d s) :=
  h.settle (h.withRegs fun _ h1 => keeps_bind h.yokeAllowed fun _ _ => keeps_ite h1.setG
      (keeps_ite h1.setG (keeps_ite h1.updMe.setG (keeps_need_stall h.updMe h1.updMe.updCore.pairEpoch.grantPartner.setG))))

theorem Canon.dissolve {s : State} {c : Nat} (h : Canon s) : Canon (dissolve s c) :=
  h.pairEpoch.updCore.updCore.of rfl

theorem Canon.execUnyoke {x0 : Lit} {s : State} (h : Canon s) : Answers (execUnyoke x0 s) := by
  unfold Machine.execUnyoke
  refine h.settle (keeps_bind h.yokeAllowed fun _ _ => ?_)
  split
  · exact h
  · exact keeps_ite h.dissolve h.updMe

theorem Canon.pairUpd {s : State} {c : Nat} {g : Core → Core} (h : Canon s) : Canon (pairUpd s c g) :=
  h.updCore.updCore.of rfl

theorem Canon.intervalAgrees {s : State} {c : Nat} {y : Yoke} (h : Canon s) : Canon (intervalAgrees s c y) :=
  Canon.ite h.setCore.mirrorPair.pairUpd h.setCore.mirrorPair

theorem Canon.intervalDisagrees {s : State} {c : Nat} {y : Yoke} (h : Canon s) : Canon (intervalDisagrees s c y) := by
  unfold Machine.intervalDisagrees
  refine Canon.ite h.yokeRestore ?_
  extract_lets p blk t1 t2
  have ht1 : Canon t1 := h.yokeRestore.updCore
  have ht2 : Canon t2 := ht1.updPart
  clear_value t1 t2
  exact Canon.ite h.updCore ht2

theorem Canon.execIntervalEnd {c : Nat} {s : State} (h : Canon s) : Answers (execIntervalEnd c s) := by
  unfold Machine.execIntervalEnd
  dsimp only
  split
  · exact h.event (Canon.ite h.updCore.intervalAgrees h.updCore.intervalDisagrees)
  · exact h.updCore.event h.updCore

theorem Canon.resumePair {s : State} {c : Nat} (h : Canon s) : Canon (resumePair s c) :=
  h.updCore.of rfl

theorem Canon.execThirdRunComplete {c : Nat} {fp : Word} {s : State} (h : Canon s) : Answers (execThirdRunComplete c fp s) := by
  unfold Machine.execThirdRunComplete
  split
  · next y _ =>
    extract_lets lead quarantine t t1 t2 t3
    have hq (u : State) (b : Nat) (hu : Canon u) : Canon (quarantine u b) := by
      unfold quarantine
      extract_lets nv s2
      have hs2 : Canon s2 := hu
      exact hs2.pairUpd
    have ht1 : Canon t1 := h.yokeRestore
    have ht2 : Canon t2 := by
      have hcur : Canon { t1 with cur := c } := ht1
      exact hcur.takeTrap
    have ht3 : Canon t3 := Canon.ite (hq _ _ h.intervalAgrees) (Canon.ite (hq _ _ h.intervalAgrees) ht2)
    exact h.event ht3
  · exact h.event h

theorem Canon.execTlbinv {l : Lit} {a b : BitVec 5} {u : BitVec 2} {s : State} (h : Canon s) : Answers (execTlbinv l a b u s) :=
  h.settle (h.withRegs fun _ h1 => keeps_need_trap (keeps_need_trap (keeps_need_trap
      (keeps_need_stall h (h1.foldl fun _ _ h2 => h2.updCore)))))

theorem Canon.probeRead {s : State} {v : Nat} (h : Canon s) : Canon (probeRead s v) :=
  Canon.ite h h.critWalk

theorem Canon.execTlbprobe {x0 : Lit} {d a : BitVec 5} {s : State} (h : Canon s) : Answers (execTlbprobe x0 d a s) :=
  h.settle (h.withRegs fun _ h1 => keeps_need_trap (keeps_need_trap h1.probeRead.setG))

/-! ## Functions of Machine/System.lean -/

theorem Canon.execTrap {l : Lit} {b : BitVec 5} {s : State} (h : Canon s) : Answers (execTrap l b s) :=
  h.settle (h.withRegs fun _ _ => trivial)

theorem Canon.execEret {x0 : Lit} {s : State} (h : Canon s) : Answers (execEret x0 s) :=
  h.settle h.returnFromTrap

theorem Canon.exitBlock {s : State} {o : Occ} {l : Launch} (h : Canon s) : Keeps Canon (exitBlock s o l) :=
  keeps_bind h.agentWord fun _ h1 => keeps_ite h1 (keeps_need_trap (keeps_need_trap
      (keeps_bind h1.checkRange fun _ h2 => keeps_bind h2.agentWord fun _ h3 => keeps_need_trap h3)))

theorem Canon.execExit {x0 : Lit} {s : State} (h : Canon s) : Answers (execExit x0 s) := by
  unfold Machine.execExit
  refine h.settle ?_
  split
  · exact keeps_bind (h.joinAgents h) fun _ _ => keeps_ite h.endRoutine (keeps_bind h.exitBlock fun _ h2 => h2.leaveCore.unitGone)
  · exact trivial

theorem Canon.execYield {x0 : Lit} {s : State} (h : Canon s) : Answers (execYield x0 s) :=
  h.settle (keeps_bind h.unitOf fun _ _ => keeps_bind (h.joinAgents h) fun _ _ => h.suspendUnit)

theorem Canon.execPulse {x0 : Lit} {s : State} (h : Canon s) : Answers (execPulse x0 s) :=
  h.settle h.updMe

theorem Canon.execCancel {x0 : Lit} {d a : BitVec 5} {s : State} (h : Canon s) : Answers (execCancel x0 d a s) :=
  h.settle (h.withRegs fun _ h1 => keeps_need_trap (keeps_need_trap (keeps_need_trap (keeps_bind h1.setG fun _ h2 => h2.cancelLevel))))

theorem Canon.execWfi {l : Lit} {b : BitVec 5} {s : State} (h : Canon s) : Answers (execWfi l b s) := by
  unfold Machine.execWfi
  dsimp only
  refine h.settle (h.withRegs fun _ h1 => keeps_need_trap (keeps_ite h1.updMe ?_))
  split
  · exact h
  · exact h.updMe

theorem Canon.execWfiTimeout {c : Nat} {s : State} (h : Canon s) : Answers (execWfiTimeout c s) := by
  unfold Machine.execWfiTimeout
  split
  · exact h.event h.updCore
  · exact h.event h

theorem Canon.mfcTsh {s : State} {n : Nat} (h : Canon s) : Keeps (fun _ => True) (mfcTsh s n) := by
  unfold Machine.mfcTsh
  refine keeps_bind Canon.ownPart fun _ _ => ?_
  split
  · exact keeps_ite trivial trivial
  · exact trivial

theorem Canon.fpcWait {s : State} (h : Canon s) : Keeps (fun _ => True) (fpcWait s) :=
  keeps_check (by trivial)

theorem Canon.fpcFree {s : State} (h : Canon s) : Keeps (fun _ => True) (fpcFree s) :=
  keeps_bind h.fpcWait fun _ _ => keeps_check (by trivial)

theorem Canon.execMfc {x0 : Lit} {d : BitVec 5} {n : BitVec 12} {s : State} (h : Canon s) : Answers (execMfc x0 d n s) :=
  h.settle (h.withRegs fun _ h1 => keeps_ite (keeps_bind h.fpcWait fun _ _ => keeps_need_trap
      (keeps_need_trap (keeps_ite (keeps_bind h.fpcFree fun _ _ => keeps_ite (keeps_bind h.mfcTsh fun _ _ => h1.setG) h1.setG)
  (keeps_bind (P := fun _ => True) trivial fun _ _ => keeps_ite (keeps_bind h.mfcTsh fun _ _ => h1.setG) h1.setG))))
  (keeps_bind (P := fun _ => True) trivial fun _ _ => keeps_need_trap (keeps_need_trap
  (keeps_ite (keeps_bind h.fpcFree fun _ _ => keeps_ite (keeps_bind h.mfcTsh fun _ _ => h1.setG) h1.setG)
  (keeps_bind (P := fun _ => True) trivial fun _ _ => keeps_ite (keeps_bind h.mfcTsh fun _ _ => h1.setG) h1.setG)))))

theorem Canon.mtcTsh {s s' : State} {t : Nat} {v : Word} (h : Canon s) (h1 : Canon s') : Keeps Canon (mtcTsh s s' t v) :=
  keeps_bind h1.useEngine fun _ h2 => keeps_bind Canon.ownPart fun _ _ => keeps_need_trap h2.updFold

theorem Canon.mtcWait {s : State} {n : Nat} {v : Word} (h : Canon s) : Keeps (fun _ => True) (mtcWait s n v) :=
  keeps_ite h.fpcWait (keeps_ite (keeps_check (by trivial)) (keeps_ite (keeps_check (by trivial)) trivial))

theorem Canon.mtcAccess {s : State} {n : Nat} (h : Canon s) : Keeps (fun _ => True) (mtcAccess s n) :=
  keeps_need_trap (keeps_need_trap (keeps_check (by trivial)))

theorem Canon.mtcCheck {s : State} {n : Nat} {v : Word} (h : Canon s) : Keeps (fun _ => True) (mtcCheck s n v) := by
  unfold Machine.mtcCheck
  dsimp only
  split
  · exact keeps_check (by trivial)
  · exact keeps_bind h.fpcFree fun _ _ => keeps_check (by trivial)
  · exact keeps_check (by trivial)
  · exact keeps_check (by trivial)
  · exact keeps_ite (keeps_check (by trivial)) trivial

theorem Canon.execMtc {x0 : Lit} {a : BitVec 5} {n : BitVec 12} {s : State} (h : Canon s) : Answers (execMtc x0 a n s) :=
  h.settle (h.withChecked (keeps_bind h.mtcWait fun _ _ => h.mtcAccess) fun _ h1 => keeps_bind h.mtcCheck fun _ _ => keeps_ite
      (h.mtcTsh h1) h1.updMe)

/-! ## Functions of Machine/FrontEnd.lean -/

theorem Canon.bringPorts {s : State} {p : Nat} {facc : Word} (h : Canon s) : Canon (bringPorts s p facc) := by
  unfold Machine.bringPorts
  extract_lets r rev up
  exact Canon.ite h h

theorem Canon.execFaccWrite {p : Nat} {v : Word} {s : State} (h : Canon s) : Answers (execFaccWrite p v s) :=
  h.event (Canon.ite h h.updPart)

theorem Canon.execNegotiationDone {p : Nat} {v : Word} {s : State} (h : Canon s) : Answers (execNegotiationDone p v s) := by
  unfold Machine.execNegotiationDone
  extract_lets w nv s1 s2
  have hs1 : Canon s1 := h
  have hs2 : Canon s2 := hs1.updPart
  exact h.event (Canon.ite h hs2.bringPorts)

theorem Canon.execFunctionReset {p : Nat} {s : State} (h : Canon s) : Answers (execFunctionReset p s) :=
  h.event h.updPart

theorem Canon.queueWrite {s : State} {p i : Nat} {f : Part → Queue → Queue} (h : Canon s) : Answers (queueWrite s p i f) :=
  h.event h.updPart

theorem Canon.execQueueEnable {p q : Nat} {s : State} (h : Canon s) : Answers (execQueueEnable p q s) :=
  h.queueWrite

theorem Canon.execQueueDisable {p q : Nat} {s : State} (h : Canon s) : Answers (execQueueDisable p q s) :=
  h.queueWrite

theorem Canon.execQueueReset {p q : Nat} {s : State} (h : Canon s) : Answers (execQueueReset p q s) :=
  h.queueWrite

theorem Canon.execQkick {p q : Nat} {s : State} (h : Canon s) : Answers (execQkick p q s) :=
  h.queueWrite

theorem Canon.copyHome {s : State} {p i : Nat} {w : List Word} (h : Canon s) : Canon (copyHome s p i w) := by
  unfold Machine.copyHome
  split
  · exact h.setBytes
  · exact h

theorem Canon.acceptRecord {s : State} {p i b : Nat} {t : Tables} (h : Canon s) : Canon (acceptRecord s p i b t) := by
  unfold Machine.acceptRecord
  extract_lets t1 old t2 q x l glast plast n src q1 q2 q3 q4 q5 src1 q6 q7 q8 out q9 q10 q11 q12 t3 t4
  have ht1 : Canon t1 := Canon.ite h.copyHome h
  have ht2 : Canon t2 := ht1
  have ht3 : Canon t3 := ht2.setPart
  have ht4 : Canon t4 := ht3.foldl fun _ _ h1 => h1.foldl fun _ _ h2 => h2.agentWrite
  clear_value t1 t2 t3 t4
  exact Canon.ite ht2.setPart ht4.releaseReady.sweepDead

theorem Canon.haltQueue {s : State} {p i code : Nat} (h : Canon s) : Canon (haltQueue s p i code) :=
  h.updPart.of rfl

theorem Canon.decideRecord {s : State} {p i : Nat} {w : List Word} (h : Canon s) : Canon (decideRecord s p i w) := by
  unfold Machine.decideRecord
  extract_lets q x t
  split
  · exact h.haltQueue
  · split
    · exact h.setPart
    · exact Canon.ite h.setPart (Canon.ite h.haltQueue h.acceptRecord)

theorem Canon.finishRead {s : State} {p i : Nat} {miss : Queue → Queue} (h : Canon s) : Canon (finishRead s p i miss) := by
  unfold Machine.finishRead
  extract_lets q
  split
  · exact h.haltQueue
  · exact Canon.ite h.decideRecord h.setPart

theorem Canon.served {p i : Nat} {s : State} (h : Canon s) : Canon (served p i s) :=
  h.updPart.of rfl

theorem Canon.execRecordRead {p q : Nat} {s : State} (h : Canon s) : Answers (execRecordRead p q s) :=
  h.event h.finishRead.served

theorem Canon.execRetryWaitEnd {p q : Nat} {s : State} (h : Canon s) : Answers (execRetryWaitEnd p q s) :=
  h.event h.finishRead.served

theorem Canon.execBlockedReread {p q : Nat} {s : State} (h : Canon s) : Answers (execBlockedReread p q s) :=
  h.event h.setPart

theorem Canon.newRoot {s : State} {p j root : Nat} (h : Canon s) : Canon (newRoot s p j root) := by
  unfold Machine.newRoot
  extract_lets keep t1
  have ht1 : Canon t1 := h
  clear_value t1
  exact ht1.updPart

theorem Canon.execPtrootApply {p j : Nat} {s : State} (h : Canon s) : Answers (execPtrootApply p j s) := by
  unfold Machine.execPtrootApply
  dsimp only
  split
  · exact h.event h.newRoot
  · exact h.event h

/-! ## Functions of Machine/Sched.lean -/

theorem Canon.execHcancel {p : Nat} {h : Word} {s : State} (hs : Canon s) : Answers (execHcancel p h s) :=
  hs.event (Canon.ite hs hs.cancelLevel.updPart)

theorem Canon.execHjobrm {p : Nat} {v : Word} {s : State} (h : Canon s) : Answers (execHjobrm p v s) := by
  unfold Machine.execHjobrm
  dsimp only
  exact h.event (Canon.ite h (Canon.ite h.updPart h.updPart.cancelAbove))

theorem Canon.execJobRemovalComplete {p : Nat} {s : State} (h : Canon s) : Answers (execJobRemovalComplete p s) :=
  h.event h.setPart

theorem Canon.execSvcTick {p : Nat} {s : State} (h : Canon s) : Answers (execSvcTick p s) :=
  h.event h.setPart

theorem Canon.takeFrom {s : State} {c blk : Nat} {x : Source} (h : Canon s) : Canon (takeFrom s c blk x).1 := by
  unfold Machine.takeFrom
  split
  · exact h.updCore.of rfl
  · exact h.updCore.of rfl
  · exact h.updFold.of rfl
  · exact h.updCore.of rfl

theorem Canon.execUnitPlace {c : Nat} {s : State} (h : Canon s) : Answers (execUnitPlace c s) := by
  unfold Machine.execUnitPlace
  dsimp only
  split
  · split
    · exact h.event h.takeFrom.updPart.takeUnit
    · exact h.event h
  · exact h.event h

theorem Canon.cancelForLink {s : State} {p b : Nat} (h : Canon s) : Canon (cancelForLink s p b) :=
  h.writeErr.cancelLaunch.of rfl

theorem Canon.placeGang {s : State} {p b : Nat} {l : Launch} (h : Canon s) : Canon (placeGang s p b l) := by
  unfold Machine.placeGang
  extract_lets cs t1 own t2 start t3
  have ht1 : Canon t1 := h.updPart
  have ht2 : Canon t2 := ht1.foldl fun _ _ h1 => (yields_getD h1.ownMatrix h1).of rfl
  have ht3 : Canon t3 := ht2.foldl fun _ _ h1 => h1.setupCore.foldWakes.updCore.of rfl
  clear_value t1 t2 t3
  exact ht3.foldl fun _ _ h1 => h1.nextRoutine

theorem Canon.execGangPlace {p b : Nat} {s : State} (h : Canon s) : Answers (execGangPlace p b s) := by
  unfold Machine.execGangPlace
  split
  · exact h.event (Canon.ite h.cancelForLink h.placeGang)
  · exact h.event h

theorem Canon.writeNote {s : State} {p b : Nat} {l : Launch} (h : Canon s) : Canon (writeNote s p b l) := by
  unfold Machine.writeNote
  extract_lets st t1
  have ht1 : Canon t1 := by
    unfold t1
    split
    · exact h.setBytes.of rfl
    · exact h.writeErr.of rfl
  clear_value t1
  exact ht1.updPart

theorem Canon.execNoteWrite {p b : Nat} {s : State} (h : Canon s) : Answers (execNoteWrite p b s) := by
  unfold Machine.execNoteWrite
  split
  · exact h.event h.writeNote
  · exact h.event h

theorem Canon.execWatchdogFire {c : Nat} {s : State} (h : Canon s) : Answers (execWatchdogFire c s) := by
  unfold Machine.execWatchdogFire
  dsimp only
  split
  · split
    · exact h.event h.writeErr.cancelLaunch
    · exact h.event h
  · exact h.event h

end Sys2Proof.Machine

end

section
/-! PROOFS. Memory stays canonical: pre-emption, recovery, checkpoints and links. -/

namespace Sys2Proof.Machine

/-! ## Functions of Machine/Preempt.lean -/

theorem Canon.setPhys {s : State} {p a : Nat} {bs : List Byte} (h : Canon s) : Canon (setPhys s p a bs) := by
  induction bs generalizing s a with
  | nil => exact h
  | cons b bs ih => exact ih h.setByte

theorem Canon.copyMarks {s : State} {src dst : Nat → Nat} {n : Nat} (h : Canon s) : Canon (copyMarks s src dst n) := by
  unfold Machine.copyMarks
  exact Canon.ite h (h.foldl fun _ _ h1 => Canon.ite h1 h1)

theorem Canon.countPlaces {s : State} {src : Nat → Nat} {n : Nat} (h : Canon s) : Canon (countPlaces s src n) := by
  unfold Machine.countPlaces
  refine Canon.ite h ?_
  extract_lets ks
  exact h

theorem Canon.writeImage {s : State} {p a : Nat} {im : List (Nat × List Byte)} (h : Canon s) : Canon (writeImage s p a im) :=
  (h.foldl fun _ _ h1 => h1.setPhys).of rfl

theorem Canon.execHpreempt {p : Nat} {h : Word} {s : State} (hs : Canon s) : Answers (execHpreempt p h s) := by
  unfold Machine.execHpreempt
  dsimp only
  refine hs.event (Canon.ite hs ?_)
  split
  · exact Canon.ite hs.setPart (hs.setPart.foldl fun _ _ h1 => h1.updCore)
  · exact hs.setPart

theorem Canon.saveCore {s : State} {p b c i : Nat} {l : Launch} (h : Canon s) : Canon (saveCore s p b c i l) := by
  unfold Machine.saveCore
  extract_lets t1 k k1 run mine keep t2 a image n t3 t4 t lc w0 t5 area off t6 t7 t8 src src1
  have ht1 : Canon t1 := h.endCapture.mirrorPair
  have ht2 : Canon t2 := ht1.setCore
  have ht3 : Canon t3 := ht2.countPlaces
  have ht4 : Canon t4 := ht3.writeImage.copyMarks
  have ht5 : Canon t5 := by
    unfold t5
    split
    · exact Canon.ite ht4 ht4.agentWrite.agentWrite
    · exact ht4
  have ht6 : Canon t6 := ht5.updPart
  have ht7 : Canon t7 := ht6.leaveLines
  have ht8 : Canon t8 := ht7.unpair
  clear_value t1 t2 t3 t4 t5 t6 t7 t8
  exact Canon.setCore ht8

theorem Canon.saveFold {s : State} {p b f i : Nat} (h : Canon s) : Canon (saveFold s p b f i) := by
  unfold Machine.saveFold
  extract_lets v tag t1 a t2
  have ht1 : Canon t1 := h.writeImage
  have ht2 : Canon t2 := ht1.updPart
  clear_value t1 t2
  exact ht2.updFold

theorem Canon.execCorePreempt {c : Nat} {s : State} (h : Canon s) : Answers (execCorePreempt c s) := by
  unfold Machine.execCorePreempt
  dsimp only
  split
  · split
    · split
      · exact h.event h.saveCore.saveFold.preemptCheck
      · exact h.event h
    · exact h.event h.saveCore.preemptCheck
  · exact h.event h

theorem Canon.forceStop {s : State} {c : Nat} (h : Canon s) : Canon (forceStop s c) :=
  h.leaveLines.updCore.of rfl

theorem Canon.execPreemptForceTimeout {c : Nat} {s : State} (h : Canon s) : Answers (execPreemptForceTimeout c s) :=
  h.event h.forceStop

theorem Canon.restoreCore {s : State} {p : Nat} {l : Launch} {x : Nat × Nat × CtxArea} (h : Canon s) : Canon (restoreCore s p l x) := by
  unfold Machine.restoreCore
  extract_lets c k cur a gs nums mark nd b spills spilt vreg bit valid stream bound padd half chute ctl pc regsOf regs recs occ k' s1 s2
      held s3 s4 s5
    s6 s7
  have hs2 : Canon s2 := Canon.setCore (h.foldWakes (f := foldOf c))
  have hs3 : Canon s3 := hs2.countPlaces
  have hs4 : Canon s4 := Canon.copyMarks hs3.setBytes
  have hs5 : Canon s5 := hs4.foldl fun _ _ ht => ht.setBytes
  have hs6 : Canon s6 := hs5.updCore
  have hs7 : Canon s7 := by
    unfold s7
    clear_value s6 occ
    split
    · exact Canon.ite hs6.updCore hs6.agentWrite
    · exact hs6
  exact hs7.updPart

theorem Canon.restoreFold {p : Nat} {s : State} {x : Nat × FoldArea} (h : Canon s) : Canon (restoreFold p s x) :=
  h.updFold.updPart.of rfl

theorem Canon.resumeLaunch {s : State} {p b : Nat} {l : Launch} (h : Canon s) : Canon (resumeLaunch s p b l) :=
  (Canon.ite ((((h.foldl fun _ _ h1 => h1.restoreFold).foldl fun _ _ h1 => h1.restoreCore).updPart).foldl fun _ _ h1 => h1.nextRoutine)
      (((h.foldl fun _ _ h1 => h1.restoreFold).foldl fun _ _ h1 => h1.restoreCore).updPart)).of rfl

theorem Canon.execLaunchResume {p b : Nat} {s : State} (h : Canon s) : Answers (execLaunchResume p b s) := by
  unfold Machine.execLaunchResume
  split
  · exact h.event h.resumeLaunch
  · exact h.event h

/-! ## Functions of Machine/Recover.lean -/

theorem Canon.deliverTrap {s : State} {c : Nat} {t : Trap} (h : Canon s) : Answers (deliverTrap s c t) := by
  unfold Machine.deliverTrap
  extract_lets t1
  have ht1 : Canon t1 := Canon.takeTrap h
  clear_value t1
  exact ht1

theorem Canon.execIcacheFill {c line : Nat} {s : State} (h : Canon s) : Answers (execIcacheFill c line s) := by
  unfold Machine.execIcacheFill
  dsimp only
  split
  · split
    · split
      · exact h.event h
      · split
        · rename_i heq
          have h1 := h.codeKey.of_error heq
          split
          · exact h.deliverTrap
          · exact h.event h
        · exact h.event h
        · rename_i heq
          have h1 := h.codeKey.of_error heq
          exact h.event h1
        · rename_i heq
          have h1 := h.codeKey.of_ok heq
          split
          · split
            · exact h1.deliverTrap
            · exact h.event h
          · exact h.event (Canon.updFold ((h1.countEcc.updCore.foldl fun _ _ h2 => h2.agentCount).of rfl))
    · split
      · exact h.event h
      · split
        · rename_i heq
          have h1 := h.codeKey.of_error heq
          split
          · exact h.deliverTrap
          · exact h.event h
        · exact h.event h
        · rename_i heq
          have h1 := h.codeKey.of_error heq
          exact h.event h1
        · rename_i heq
          have h1 := h.codeKey.of_ok heq
          split
          · split
            · exact h1.deliverTrap
            · exact h.event h
          · exact h.event (Canon.updFold ((h1.countEcc.updCore.foldl fun _ _ h2 => h2.agentCount).of rfl))
  · exact h.event h

theorem Canon.walkAnswers {s : State} {c : Nat} {f : TransFault} {x : Except WalkFail Leaf × State} (h : Canon s) (hx : Canon x.2) :
    Canon (walkAnswers s c f x) := by
  obtain ⟨(_ | _) | l, t⟩ := x
  · exact h.updCore
  · exact h.updCore
  · have ht : Canon t := hx
    exact ht.updCore.updCore

theorem Canon.execTranslationResolve {c : Nat} {s : State} (h : Canon s) : Answers (execTranslationResolve c s) := by
  rw [← exec_translationResolve]
  cases hf : (s.core c).tfault with
  | none =>
    rw [exec_translationResolve_idle hf]
    exact h
  | some f =>
    rw [exec_translationResolve_fault hf]
    exact h.event (h.walkAnswers h.critWalk)

theorem Canon.answerFaults {s : State} {p n : Nat} {a : Bool} (h : Canon s) : Canon (answerFaults s p n a) :=
  h

theorem Canon.execFqRetry {p : Nat} {sq : Word32} {s : State} (h : Canon s) : Answers (execFqRetry p sq s) :=
  h.event h.answerFaults

theorem Canon.execFqDeliver {p : Nat} {sq : Word32} {s : State} (h : Canon s) : Answers (execFqDeliver p sq s) :=
  h.event h.answerFaults

theorem Canon.restoreSnap {s : State} {c : Nat} (h : Canon s) : Canon (restoreSnap s c) := by
  unfold Machine.restoreSnap
  extract_lets k t1
  have ht1 : Canon t1 := h.foldl fun _ _ h1 => h1.restoreLine
  clear_value t1
  split
  · exact ht1
  · extract_lets ss t2
    have ht2 : Canon t2 := ht1.updCore
    clear_value t2
    exact ht2.updFold

theorem Canon.restartCore {s : State} {p b c : Nat} (h : Canon s) : Canon (restartCore s p b c) := by
  unfold Machine.restartCore
  extract_lets n lc t1 t2 t3
  have ht1 : Canon t1 := h.updPart
  have ht2 : Canon t2 := by
    unfold t2
    split
    · exact ht1.setupCore.of rfl
    · exact ht1
  have ht3 : Canon t3 := ht2.updFold
  clear_value t1 t2 t3
  exact ht3.updCore

theorem Canon.rollBack {s : State} {p b : Nat} (h : Canon s) : Canon (rollBack s p b) := by
  unfold Machine.rollBack
  extract_lets cs t1 t2 t3 t4 t5
  have ht1 : Canon t1 := h.updPart
  have ht2 : Canon t2 := ht1.foldl fun _ _ h1 => h1.restoreSnap
  have ht3 : Canon t3 := ht2.updPart
  have ht4 : Canon t4 := ht3.foldl fun _ _ h1 => h1.updCore
  have ht5 : Canon t5 := ht4.foldl fun _ _ h1 => (Canon.ite h1.openPhase h1.restartCore).of rfl
  clear_value t1 t2 t3 t4 t5
  exact Canon.ite ht1.cancelLaunch (ht5.foldl fun _ _ h1 => h1.nextRoutine)

theorem Canon.execRollback {p b : Nat} {s : State} (h : Canon s) : Answers (execRollback p b s) :=
  h.event h.rollBack

theorem Canon.execContansContinue {p : Nat} {s : State} (h : Canon s) : Answers (execContansContinue p s) := by
  unfold Machine.execContansContinue
  split
  · exact h.event (Canon.ite h.rollBack h.resumePair.updPart)
  · exact h.event h

theorem Canon.execContansCancel {p : Nat} {s : State} (h : Canon s) : Answers (execContansCancel p s) := by
  unfold Machine.execContansCancel
  dsimp only
  split
  · exact h.event ((Canon.ite h.writeErr h).cancelLaunch)
  · exact h.event h

theorem Canon.hostRequest {s : State} {c : Nat} (h : Canon s) : Yields (fun x => Canon x.2) (hostRequest s c) := by
  have hback {t : State} {n : Nat} (ht : Canon t) : Yields (fun x => Canon x.2) (some (n, { t with cur := s.cur })) := ht
  have hcur : Canon { s with cur := c } := h
  unfold Machine.hostRequest
  extract_lets err
  split
  · exact h.failQueue
  · exact h.putFill
  · exact hback hcur.takeTrap
  · exact yields_ite h.updCore yields_none

theorem Canon.execHostCompletionTimeout {w : HostWait} {s : State} (h : Canon s) : Answers (execHostCompletionTimeout w s) := by
  unfold Machine.execHostCompletionTimeout
  dsimp only
  split
  · exact h.event h
  · split
    · split
      · exact h.updCore.deliverTrap
      · exact h.event h
    · split
      · rename_i heq
        have h1 := h.hostRequest.of_some heq
        split
        · exact h.event h1.updCore
        · exact h.event (Canon.ite h1.updCore h.updCore)
      · exact h.event h

theorem Canon.execScrub {c w : Nat} {s : State} (h : Canon s) : Answers (execScrub c w s) :=
  h.event h

theorem Canon.filter {s : State} (h : Canon s) (f : Host.Cell → Bool) : Memory.wf (s.mem.filter f) = true := by
  obtain ⟨hsort, hlist⟩ := Bool.and_eq_true_iff.mp h
  exact Bool.and_eq_true_iff.mpr ⟨msorted_filter f hsort, List.all_eq_true.mpr fun c hc => List.all_eq_true.mp hlist c
      (List.mem_filter.mp hc).1⟩

/-! ## Functions of Machine/Checkpoint.lean -/

theorem Canon.clearArea {s : State} {p list : Nat} (h : Canon s) : Canon (clearArea s p list) := h.filter _

theorem Canon.writeArea {s : State} {p list : Nat} {im : SMap Byte} {ws : List Word} (h : Canon s) : Canon (writeArea s p list im ws) :=
  ((h.clearArea.foldl fun _ _ h1 => h1.setByte).foldl fun _ _ h1 => h1.setByte).of rfl

theorem Canon.execPhaseStop {p : Nat} {v : Word} {s : State} (h : Canon s) : Answers (execPhaseStop p v s) :=
  h.event (Canon.ite h.setPart h.setPart)

theorem Canon.phaseWritten {s : State} {p : Nat} (h : Canon s) : Canon (phaseWritten s p) :=
  (h.writeArea.foldl fun _ _ h1 => h1.setByte).of rfl

theorem Canon.execPhaseStopWrite {p : Nat} {s : State} (h : Canon s) : Answers (execPhaseStopWrite p s) :=
  h.event (Canon.ite h.phaseWritten.updPart h.updPart)

theorem Canon.restoreCommon {s : State} {p : Nat} {im : SMap Byte} (h : Canon s) : Canon (restoreCommon s p im) :=
  ((h.foldl fun _ _ h1 => h1.setByte).foldl fun _ _ h1 => h1.setByte).of rfl

theorem Canon.restoreSlots {s : State} {p : Nat} {xs : List DSlot} (h : Canon s) : Canon (restoreSlots s p xs) := by
  delta Machine.restoreSlots
  refine h.foldl fun t x ht => ?_
  generalize slotOf t p x.key = i
  cases i with
  | some i => exact ht.setSlot
  | none =>
    generalize (partSlots t p).find? (fun i => decide ((t.slot i).state = .empty)) = j
    cases j with
    | some j => exact ht.setSlot
    | none => exact ht

theorem Canon.execPhaseRestore {p : Nat} {v : Word} {s : State} (h : Canon s) : Answers (execPhaseRestore p v s) := by
  unfold Machine.execPhaseRestore
  dsimp only
  refine h.event ?_
  split
  · exact Canon.ite (((h.restoreCommon.restoreSlots.foldl fun _ _ h1 => h1.setByte).updPart).releaseReady) h.setPart
  · exact h.setPart

/-! ## Functions of Machine/Fabric.lean -/

theorem Canon.raiseFevt {s : State} {p bit : Nat} (h : Canon s) : Canon (raiseFevt s p bit) :=
  h

theorem Canon.setPort {s : State} {k hi lo v : Nat} (h : Canon s) : Canon (setPort s k hi lo v) := by
  unfold Machine.setPort
  exact Canon.ite h h

theorem Canon.execLinkCrcError {e : FlitError} {s : State} (h : Canon s) : Answers (execLinkCrcError e s) :=
  h.event (h.setPort.of rfl)

theorem Canon.execLinkRetrain {k good : Nat} {s : State} (h : Canon s) : Answers (execLinkRetrain k good s) := by
  unfold Machine.execLinkRetrain
  extract_lets p s1 s3 s2
  have hs0 : Canon { s with replays := mset 0 s.replays k 0 } := h
  have hs1 : Canon s1 := hs0.setPort
  have hs2 : Canon s2 := Canon.ite hs1.setPort (Canon.ite hs1.setPort.raiseFevt (Canon.raiseFevt hs1.setPort.setPort))
  exact h.event hs2

theorem Canon.execLinkReturn {k : Nat} {s : State} (h : Canon s) : Answers (execLinkReturn k s) :=
  h.event (h.setPort.of rfl)

theorem Canon.linkGone {s : State} {k : Nat} (h : Canon s) : Canon (linkGone s k) := by
  unfold Machine.linkGone
  extract_lets ps gone drop t1 t2
  have ht1 : Canon t1 := h
  have ht2 : Canon t2 := ht1.foldl fun _ _ h1 => h1.foldl fun _ _ h2 => h2.cancelForLink
  clear_value t1 t2
  exact ht2.raiseFevt

theorem Canon.execDownLinkTimeout {k : Nat} {s : State} (h : Canon s) : Answers (execDownLinkTimeout k s) := by
  unfold Machine.execDownLinkTimeout
  split
  · exact h.event h
  · split
    · exact h.event h.linkGone
    · exact h.event (Canon.ite h.linkGone h)

theorem Canon.execEscapeMove {c i : Nat} {s : State} (h : Canon s) : Answers (execEscapeMove c i s) := by
  unfold Machine.execEscapeMove
  dsimp only
  split
  · rename_i heq
    have h1 := Yields.of_some (P := Canon) (by
        split
        · exact yields_bind (yields_any _) fun _ _ => yields_ite h.updCore yields_none
        · exact yields_bind (yields_any _) fun _ _ => yields_map (yields_any _) fun _ _ => h.updCore) heq
    exact h.event h1
  · exact h.event h

theorem Canon.execHostMemoryWrite {p a : Nat} {data : List Byte} {s : State} (h : Canon s) :
    Answers (execHostMemoryWrite p a data s) := by
  unfold Machine.execHostMemoryWrite
  dsimp only
  refine h.event (h.foldl fun _ _ h1 => ?_)
  split
  · exact h1.setByte
  · exact h1

theorem Canon.execSystemScopeRequest {w : OuterPort} {a : Nat} {op : BitVec 5} {dbl : Bool} {x cmp : Word} {s : State} (h : Canon s) :
    Answers (execSystemScopeRequest w a op dbl x cmp s) := by
  unfold Machine.execSystemScopeRequest
  dsimp only
  split
  · exact h.event (Canon.ite h.countEcc.setBytes h.countEcc)
  · exact h.event h

end Sys2Proof.Machine

end

section
/-! PROOFS. Memory stays canonical: scalar instructions and the Steading. -/

namespace Sys2Proof.Machine

/-! ## Functions of Machine/Scalar.lean -/

theorem Canon.alu1 {s : State} {d a : Nat} {f : Word → Word} (h : Canon s) : Answers (alu1 s d a f) :=
  h.settle (h.withRegs fun _ h1 => h1.setG)

theorem Canon.alu2 {s : State} {d a b : Nat} {f : Word → Word → Word} (h : Canon s) : Answers (alu2 s d a b f) :=
  h.settle (h.withRegs fun _ h1 => h1.setG)

theorem keeps_seq {α β : Type} {P : α → Prop} {Q : β → Prop} {x : Res α} {y : Res β} (hx : Keeps P x) (hy : Keeps Q y) :
    Keeps Q (x *> y) := by
  cases x with
  | ok a => exact hy
  | error e => exact hx

theorem Canon.group1 {s : State} {d a n m : Nat} {f : Nat → Nat} (h : Canon s) : Answers (group1 s d a n m f) :=
  h.settle (h.withChecked (keeps_seq h.groupFree h.groupFree) fun _ h1 => h1.setGroup)

theorem Canon.group2 {s : State} {d a b n k : Nat} {f : Nat → Nat → Nat} (h : Canon s) : Answers (group2 s d a b n k f) :=
  h.settle (h.withChecked (keeps_seq (keeps_seq h.groupFree h.groupFree) h.groupFree) fun _ h1 => h1.setGroup)

theorem Canon.flags {s : State} {fl : Flags} (h : Canon s) : Canon (State.flags s fl) :=
  h.updMe.of rfl

theorem Canon.fpOp {s : State} {d : Nat} {srcs : List Nat} {f : Nat → Bool → List Word32 → Word × Flags} (h : Canon s) :
    Answers (fpOp s d srcs f) :=
  h.settle (h.withRegs fun _ h1 => keeps_map h1.setG fun _ h2 => h2.flags)

theorem Canon.execAdd {d a b : BitVec 5} {s : State} (h : Canon s) : Answers (execAdd d a b s) :=
  h.alu2

theorem Canon.execSub {d a b : BitVec 5} {s : State} (h : Canon s) : Answers (execSub d a b s) :=
  h.alu2

theorem Canon.execAnd {d a b : BitVec 5} {s : State} (h : Canon s) : Answers (execAnd d a b s) :=
  h.alu2

theorem Canon.execOr {d a b : BitVec 5} {s : State} (h : Canon s) : Answers (execOr d a b s) :=
  h.alu2

theorem Canon.execXor {d a b : BitVec 5} {s : State} (h : Canon s) : Answers (execXor d a b s) :=
  h.alu2

theorem Canon.execAndn {d a b : BitVec 5} {s : State} (h : Canon s) : Answers (execAndn d a b s) :=
  h.alu2

theorem Canon.execMin {d a b : BitVec 5} {s : State} (h : Canon s) : Answers (execMin d a b s) :=
  h.alu2

theorem Canon.execMax {d a b : BitVec 5} {s : State} (h : Canon s) : Answers (execMax d a b s) :=
  h.alu2

theorem Canon.execMinu {d a b : BitVec 5} {s : State} (h : Canon s) : Answers (execMinu d a b s) :=
  h.alu2

theorem Canon.execMaxu {d a b : BitVec 5} {s : State} (h : Canon s) : Answers (execMaxu d a b s) :=
  h.alu2

theorem Canon.execAddw {d a b : BitVec 5} {s : State} (h : Canon s) : Answers (execAddw d a b s) :=
  h.alu2

theorem Canon.execSubw {d a b : BitVec 5} {s : State} (h : Canon s) : Answers (execSubw d a b s) :=
  h.alu2

theorem Canon.execAdds {d a b : BitVec 5} {s : State} (h : Canon s) : Answers (execAdds d a b s) :=
  h.alu2

theorem Canon.execSubs {d a b : BitVec 5} {s : State} (h : Canon s) : Answers (execSubs d a b s) :=
  h.alu2

theorem Canon.execAbs {d a : BitVec 5} {s : State} (h : Canon s) : Answers (execAbs d a s) :=
  h.alu1

theorem Canon.execMul {d a b : BitVec 5} {s : State} (h : Canon s) : Answers (execMul d a b s) :=
  h.alu2

theorem Canon.execMulh {d a b : BitVec 5} {s : State} (h : Canon s) : Answers (execMulh d a b s) :=
  h.alu2

theorem Canon.execMulhu {d a b : BitVec 5} {s : State} (h : Canon s) : Answers (execMulhu d a b s) :=
  h.alu2

theorem Canon.execMulhsu {d a b : BitVec 5} {s : State} (h : Canon s) : Answers (execMulhsu d a b s) :=
  h.alu2

theorem Canon.execDiv {d a b : BitVec 5} {s : State} (h : Canon s) : Answers (execDiv d a b s) :=
  h.alu2

theorem Canon.execDivu {d a b : BitVec 5} {s : State} (h : Canon s) : Answers (execDivu d a b s) :=
  h.alu2

theorem Canon.execRem {d a b : BitVec 5} {s : State} (h : Canon s) : Answers (execRem d a b s) :=
  h.alu2

theorem Canon.execRemu {d a b : BitVec 5} {s : State} (h : Canon s) : Answers (execRemu d a b s) :=
  h.alu2

theorem Canon.execSeq {d a b : BitVec 5} {s : State} (h : Canon s) : Answers (execSeq d a b s) :=
  h.alu2

theorem Canon.execSne {d a b : BitVec 5} {s : State} (h : Canon s) : Answers (execSne d a b s) :=
  h.alu2

theorem Canon.execSlt {d a b : BitVec 5} {s : State} (h : Canon s) : Answers (execSlt d a b s) :=
  h.alu2

theorem Canon.execSge {d a b : BitVec 5} {s : State} (h : Canon s) : Answers (execSge d a b s) :=
  h.alu2

theorem Canon.execSltu {d a b : BitVec 5} {s : State} (h : Canon s) : Answers (execSltu d a b s) :=
  h.alu2

theorem Canon.execSgeu {d a b : BitVec 5} {s : State} (h : Canon s) : Answers (execSgeu d a b s) :=
  h.alu2

theorem Canon.execCmpi {d a : BitVec 5} {r : BitVec 3} {i : BitVec 13} {s : State} (h : Canon s) : Answers (execCmpi d a r i s) := by
  unfold Machine.execCmpi
  split
  · exact h.settle trivial
  · exact h.alu1

theorem Canon.execAddi {d a : BitVec 5} {i : BitVec 16} {s : State} (h : Canon s) : Answers (execAddi d a i s) :=
  h.alu1

theorem Canon.execAndi {d a : BitVec 5} {i : BitVec 16} {s : State} (h : Canon s) : Answers (execAndi d a i s) :=
  h.alu1

theorem Canon.execOri {d a : BitVec 5} {i : BitVec 16} {s : State} (h : Canon s) : Answers (execOri d a i s) :=
  h.alu1

theorem Canon.execXori {d a : BitVec 5} {i : BitVec 16} {s : State} (h : Canon s) : Answers (execXori d a i s) :=
  h.alu1

theorem Canon.execSll {d a b : BitVec 5} {s : State} (h : Canon s) : Answers (execSll d a b s) :=
  h.alu2

theorem Canon.execSrl {d a b : BitVec 5} {s : State} (h : Canon s) : Answers (execSrl d a b s) :=
  h.alu2

theorem Canon.execSra {d a b : BitVec 5} {s : State} (h : Canon s) : Answers (execSra d a b s) :=
  h.alu2

theorem Canon.execRol {d a b : BitVec 5} {s : State} (h : Canon s) : Answers (execRol d a b s) :=
  h.alu2

theorem Canon.execRor {d a b : BitVec 5} {s : State} (h : Canon s) : Answers (execRor d a b s) :=
  h.alu2

theorem Canon.execPopc {d a : BitVec 5} {n : BitVec 2} {s : State} (h : Canon s) : Answers (execPopc d a n s) :=
  h.group1

theorem Canon.execClz {d a : BitVec 5} {s : State} (h : Canon s) : Answers (execClz d a s) :=
  h.alu1

theorem Canon.execCtz {d a : BitVec 5} {n : BitVec 2} {s : State} (h : Canon s) : Answers (execCtz d a n s) :=
  h.group1

theorem Canon.execBrev {d a : BitVec 5} {s : State} (h : Canon s) : Answers (execBrev d a s) :=
  h.alu1

theorem Canon.execBswap {d a : BitVec 5} {s : State} (h : Canon s) : Answers (execBswap d a s) :=
  h.alu1

theorem Canon.execExtu {d a b : BitVec 5} {s : State} (h : Canon s) : Answers (execExtu d a b s) :=
  h.alu2

theorem Canon.execExts {d a b : BitVec 5} {s : State} (h : Canon s) : Answers (execExts d a b s) :=
  h.alu2

theorem Canon.execMshl {d a b : BitVec 5} {n : BitVec 2} {s : State} (h : Canon s) : Answers (execMshl d a b n s) :=
  h.group2

theorem Canon.execMshr {d a b : BitVec 5} {n : BitVec 2} {s : State} (h : Canon s) : Answers (execMshr d a b n s) :=
  h.group2

theorem Canon.execMand {d a b : BitVec 5} {n : BitVec 2} {s : State} (h : Canon s) : Answers (execMand d a b n s) :=
  h.group2

theorem Canon.execMor {d a b : BitVec 5} {n : BitVec 2} {s : State} (h : Canon s) : Answers (execMor d a b n s) :=
  h.group2

theorem Canon.execMxor {d a b : BitVec 5} {n : BitVec 2} {s : State} (h : Canon s) : Answers (execMxor d a b n s) :=
  h.group2

theorem Canon.execSlli {d a : BitVec 5} {n : BitVec 2} {k : BitVec 8} {s : State} (h : Canon s) : Answers (execSlli d a n k s) := by
  unfold Machine.execSlli
  split
  · exact h.settle trivial
  · exact h.group1

theorem Canon.execSrli {d a : BitVec 5} {n : BitVec 2} {k : BitVec 8} {s : State} (h : Canon s) : Answers (execSrli d a n k s) := by
  unfold Machine.execSrli
  split
  · exact h.settle trivial
  · exact h.group1

theorem Canon.execSrai {d a : BitVec 5} {k : BitVec 8} {s : State} (h : Canon s) : Answers (execSrai d a k s) := by
  unfold Machine.execSrai
  split
  · exact h.settle trivial
  · exact h.alu1

theorem Canon.execRoli {d a : BitVec 5} {k : BitVec 8} {s : State} (h : Canon s) : Answers (execRoli d a k s) := by
  unfold Machine.execRoli
  split
  · exact h.settle trivial
  · exact h.alu1

theorem Canon.execRori {d a : BitVec 5} {k : BitVec 8} {s : State} (h : Canon s) : Answers (execRori d a k s) := by
  unfold Machine.execRori
  split
  · exact h.settle trivial
  · exact h.alu1

theorem Canon.execFadd {d a b : BitVec 5} {s : State} (h : Canon s) : Answers (execFadd d a b s) :=
  h.fpOp

theorem Canon.execFsub {d a b : BitVec 5} {s : State} (h : Canon s) : Answers (execFsub d a b s) :=
  h.fpOp

theorem Canon.execFmul {d a b : BitVec 5} {s : State} (h : Canon s) : Answers (execFmul d a b s) :=
  h.fpOp

theorem Canon.execFdiv {d a b : BitVec 5} {s : State} (h : Canon s) : Answers (execFdiv d a b s) :=
  h.fpOp

theorem Canon.execFsqrt {d a : BitVec 5} {s : State} (h : Canon s) : Answers (execFsqrt d a s) :=
  h.fpOp

theorem Canon.execFmac {d a b : BitVec 5} {s : State} (h : Canon s) : Answers (execFmac d a b s) :=
  h.fpOp

theorem Canon.execFmin {d a b : BitVec 5} {s : State} (h : Canon s) : Answers (execFmin d a b s) :=
  h.fpOp

theorem Canon.execFmax {d a b : BitVec 5} {s : State} (h : Canon s) : Answers (execFmax d a b s) :=
  h.fpOp

theorem Canon.execFabs {d a : BitVec 5} {s : State} (h : Canon s) : Answers (execFabs d a s) :=
  h.fpOp

theorem Canon.execFneg {d a : BitVec 5} {s : State} (h : Canon s) : Answers (execFneg d a s) :=
  h.fpOp

theorem Canon.execFeq {d a b : BitVec 5} {s : State} (h : Canon s) : Answers (execFeq d a b s) :=
  h.fpOp

theorem Canon.execFlt {d a b : BitVec 5} {s : State} (h : Canon s) : Answers (execFlt d a b s) :=
  h.fpOp

theorem Canon.execFle {d a b : BitVec 5} {s : State} (h : Canon s) : Answers (execFle d a b s) :=
  h.fpOp

theorem Canon.execFclass {d a : BitVec 5} {s : State} (h : Canon s) : Answers (execFclass d a s) :=
  h.fpOp

theorem Canon.cvtOp {s : State} {d a : Nat} {ok : Bool} {f : Word → Word × Flags} (h : Canon s) : Answers (cvtOp s d a ok f) :=
  h.settle (keeps_need_trap (h.withRegs fun _ h1 => keeps_map h1.setG fun _ h2 => h2.flags))

theorem Canon.execFcvt {d a c : BitVec 5} {r : BitVec 3} {s : State} (h : Canon s) : Answers (execFcvt d a c r s) :=
  h.cvtOp

theorem Canon.execFext {d a c : BitVec 5} {r : BitVec 3} {s : State} (h : Canon s) : Answers (execFext d a c r s) :=
  h.cvtOp

theorem Canon.execFtoi {d a : BitVec 5} {r : BitVec 3} {s : State} (h : Canon s) : Answers (execFtoi d a r s) :=
  h.cvtOp

theorem Canon.execFtou {d a : BitVec 5} {r : BitVec 3} {s : State} (h : Canon s) : Answers (execFtou d a r s) :=
  h.cvtOp

theorem Canon.execItof {d a : BitVec 5} {r : BitVec 3} {s : State} (h : Canon s) : Answers (execItof d a r s) :=
  h.cvtOp

theorem Canon.execUtof {d a : BitVec 5} {r : BitVec 3} {s : State} (h : Canon s) : Answers (execUtof d a r s) :=
  h.cvtOp

theorem Canon.execNopASlot {s : State} (h : Canon s) : Answers (execNopASlot s) :=
  h.settle h

/-! ## Functions of Machine/Steading.lean -/

theorem Canon.cold {s : State} (h : Canon s) : Canon (State.cold s) := h.filter _

theorem Canon.execPowerLoss {s : State} (h : Canon s) : Answers (execPowerLoss s) := by
  unfold Machine.execPowerLoss
  refine h.event ?_
  extract_lets t1
  have ht1 : Canon t1 := h.cold
  clear_value t1
  exact ht1

theorem Canon.startSvc {s : State} (h : Canon s) : Canon (startSvc s) :=
  h

theorem Canon.enter {s : State} {st ms : Nat} {later : List (Nat × Nat)} (h : Canon s) : Canon (State.enter s st ms later) := by
  unfold State.enter
  extract_lets t1
  have ht1 : Canon t1 := h
  clear_value t1
  exact Canon.ite (Canon.startSvc ht1) ht1

theorem Canon.trained {s : State} {c : Nat} (h : Canon s) : Canon (trained s c) := by
  unfold Machine.trained
  extract_lets is fresh src
  exact Canon.ite h h

theorem Canon.imagePortUp {s : State} {up : Bool} (h : Canon s) : Canon (imagePortUp s up) := by
  unfold Machine.imagePortUp
  extract_lets k
  exact Canon.ite h h

theorem Canon.imageRead {s : State} {ms : Nat} (h : Canon s) : Canon (imageRead s ms) := by
  unfold Machine.imageRead
  extract_lets im t1 t2
  have ht1 : Canon t1 := h.imagePortUp
  have ht2 : Canon t2 := ht1
  clear_value t1 t2 im
  cases im with
  | none => exact ht2.enter
  | some bs =>
    have himage : Canon { t2 with image := bs } := ht2
    exact himage.enter

theorem Canon.imageStart {s : State} {ms : Nat} (h : Canon s) : Canon (imageStart s ms) :=
  (Canon.ite h.enter (Canon.ite h.enter h.imagePortUp.enter)).of rfl

theorem Canon.bootStep {s : State} (h : Canon s) : Canon (bootStep s) := by
  unfold Machine.bootStep
  split
  · exact h
  · refine Canon.ite h ?_
    split
    · exact Canon.ite h.enter h.enter
    · exact h.trained.enter
    · exact h.trained.enter
    · exact h.trained.imageStart
    · exact h.imageRead
    · exact h.enter

theorem Canon.powerUp {s : State} {temp : Int} (h : Canon s) : Canon (powerUp s temp) :=
  h.cold.of rfl

theorem Canon.execPowerGood {temp : Int} {s : State} (h : Canon s) : Answers (execPowerGood temp s) :=
  h.event h.powerUp

theorem Canon.execImageSourceWrite {d0 d1 d2 : Word} {s : State} (h : Canon s) : Answers (execImageSourceWrite d0 d1 d2 s) :=
  h.event h

theorem Canon.execImglenWrite {len : Word32} {s : State} (h : Canon s) : Answers (execImglenWrite len s) :=
  h.event h

theorem Canon.execAttestationRequest {nonce : Word} {s : State} (h : Canon s) : Answers (execAttestationRequest nonce s) :=
  h.event h

theorem Canon.execPartitionLayoutChange {lay : Layout} {s : State} (h : Canon s) : Answers (execPartitionLayoutChange lay s) :=
  h.event (Canon.ite h (Canon.startSvc h))

theorem Canon.execThermalSample {d : Nat} {temp : Int} {s : State} (h : Canon s) : Answers (execThermalSample d temp s) :=
  h.event h

theorem Canon.execWearMinutesFlush {s : State} (h : Canon s) : Answers (execWearMinutesFlush s) :=
  h.event h

theorem Canon.writeQueueReg {s : State} {p i r : Nat} {v : Word} (h : Canon s) : Canon (writeQueueReg s p i r v) := by
  unfold Machine.writeQueueReg
  extract_lets x x'
  exact Canon.ite h h.updPart

theorem Canon.writeJob {s : State} {p j r : Nat} {v : Word} (h : Canon s) : Canon (writeJob s p j r v) := by
  unfold Machine.writeJob
  refine Canon.ite h ?_
  extract_lets upd
  split
  · exact h.updPart.of rfl
  · exact Canon.ite (h.updPart.of rfl) h.newRoot
  · exact h

theorem Canon.writeSlot {s : State} {p o : Nat} {v : Word} (h : Canon s) : Canon (writeSlot s p o v) :=
  (Canon.ite h h.updPart).of rfl

theorem Canon.writeReg {s : State} {p off : Nat} {v : Word} (h : Canon s) : Canon (writeReg s p off v) := by
  unfold Machine.writeReg
  refine Canon.ite h.writeQueueReg (Canon.ite h.writeJob (Canon.ite h.writeSlot ?_))
  split
  · exact Canon.ite h.updPart h
  · exact Canon.ite h.updPart h
  · exact Canon.ite h.updPart h
  · exact h.updPart
  · exact h.updPart
  · exact h.updPart
  · exact h

theorem Canon.execRegisterWrite {p off : Nat} {v : Word} {s : State} (h : Canon s) : Answers (execRegisterWrite p off v s) := by
  unfold Machine.execRegisterWrite
  split
  · exact h.event h
  · exact h.event h.writeReg

end Sys2Proof.Machine

end

section
/-! PROOFS. Memory stays canonical: every instruction and event, the issue of a packet, and the step. -/

namespace Sys2Proof.Machine

theorem Canon.exec {i : Instr} {s : State} (h : Canon s) : Answers (exec i s) := by
  cases i with
  | powerGood => exact h.execPowerGood
  | imageSourceWrite => exact h.execImageSourceWrite
  | imglenWrite => exact h.execImglenWrite
  | attestationRequest => exact h.execAttestationRequest
  | partitionLayoutChange => exact h.execPartitionLayoutChange
  | faccWrite => exact h.execFaccWrite
  | negotiationDone => exact h.execNegotiationDone
  | queueEnable => exact h.execQueueEnable
  | queueDisable => exact h.execQueueDisable
  | queueReset => exact h.execQueueReset
  | qkick => exact h.execQkick
  | recordRead => exact h.execRecordRead
  | retryWaitEnd => exact h.execRetryWaitEnd
  | blockedReread => exact h.execBlockedReread
  | hcancel => exact h.execHcancel
  | hjobrm => exact h.execHjobrm
  | jobRemovalComplete => exact h.execJobRemovalComplete
  | hpreempt => exact h.execHpreempt
  | corePreempt => exact h.execCorePreempt
  | preemptForceTimeout => exact h.execPreemptForceTimeout
  | launchResume => exact h.execLaunchResume
  | ptrootApply => exact h.execPtrootApply
  | svcTick => exact h.execSvcTick
  | unitPlace => exact h.execUnitPlace
  | gangPlace => exact h.execGangPlace
  | noteWrite => exact h.execNoteWrite
  | watchdogFire => exact h.execWatchdogFire
  | icacheFill => exact h.execIcacheFill
  | loadReturn => exact h.execLoadReturn
  | storeDrain => exact h.execStoreDrain
  | translationResolve => exact h.execTranslationResolve
  | fqRetry => exact h.execFqRetry
  | fqDeliver => exact h.execFqDeliver
  | vectorEntryComplete => exact h.execVectorEntryComplete
  | matrixEntryPerform => exact h.execMatrixEntryPerform
  | tileArrival => exact h.execTileArrival
  | streamedBFaultResolved => exact h.execStreamedBFaultResolved
  | mxcmdRemoteAccept => exact h.execMxcmdRemoteAccept
  | mxcmdAnswer => exact h.execMxcmdAnswer
  | copyEntryPerform => exact h.execCopyEntryPerform
  | copyFaultResolved => exact h.execCopyFaultResolved
  | streamFill => exact h.execStreamFill
  | streamDrainEntry => exact h.execStreamDrainEntry
  | messageArrival => exact h.execMessageArrival
  | pieceAccept => exact h.execPieceAccept
  | exchangeTransferWrite => exact h.execExchangeTransferWrite
  | barrierRelease => exact h.execBarrierRelease
  | superstepRelease => exact h.execSuperstepRelease
  | exchangePhaseEnd => exact h.execExchangePhaseEnd
  | droveRequestApply => exact h.execDroveRequestApply
  | droveRequestFail => exact h.execDroveRequestFail
  | captureTimeout => exact h.execCaptureTimeout
  | droveSlotError => exact h.execDroveSlotError
  | recvtTimeout => exact h.execRecvtTimeout
  | wfiTimeout => exact h.execWfiTimeout
  | rollback => exact h.execRollback
  | intervalEnd => exact h.execIntervalEnd
  | thirdRunComplete => exact h.execThirdRunComplete
  | contansContinue => exact h.execContansContinue
  | contansCancel => exact h.execContansCancel
  | phaseStop => exact h.execPhaseStop
  | phaseStopWrite => exact h.execPhaseStopWrite
  | phaseRestore => exact h.execPhaseRestore
  | linkCrcError => exact h.execLinkCrcError
  | linkRetrain => exact h.execLinkRetrain
  | downLinkTimeout => exact h.execDownLinkTimeout
  | escapeMove => exact h.execEscapeMove
  | routerBeat => exact h.execRouterBeat
  | portBeatArrival => exact h.execPortBeatArrival
  | hostMemoryWrite => exact h.execHostMemoryWrite
  | systemScopeRequest => exact h.execSystemScopeRequest
  | hostCompletionTimeout => exact h.execHostCompletionTimeout
  | thermalSample => exact h.execThermalSample
  | wearMinutesFlush => exact h.execWearMinutesFlush
  | scrub => exact h.execScrub
  | registerWrite => exact h.execRegisterWrite
  | nopCSlot l => exact h.execNopCSlot (x0 := l)
  | nopASlot => exact h.execNopASlot
  | trap => exact h.execTrap
  | eret l => exact h.execEret (x0 := l)
  | exit l => exact h.execExit (x0 := l)
  | yield l => exact h.execYield (x0 := l)
  | pulse l => exact h.execPulse (x0 := l)
  | cancel l => exact h.execCancel (x0 := l)
  | wfi => exact h.execWfi
  | mfc l => exact h.execMfc (x0 := l)
  | mtc l => exact h.execMtc (x0 := l)
  | movi l => exact h.execMovi (x0 := l)
  | ldlW l => exact h.execLdlW (x0 := l)
  | ldlD l => exact h.execLdlD (x0 := l)
  | ldlC => exact h.execLdlC
  | ld l => exact h.execLd (x0 := l)
  | st l => exact h.execSt (x0 := l)
  | ldv l => exact h.execLdv (x0 := l)
  | stv l => exact h.execStv (x0 := l)
  | ldf l => exact h.execLdf (x0 := l)
  | stf l => exact h.execStf (x0 := l)
  | adda => exact h.execAdda
  | ptag => exact h.execPtag
  | pfmt l => exact h.execPfmt (x0 := l)
  | pbase l => exact h.execPbase (x0 := l)
  | lea => exact h.execLea
  | br => exact h.execBr
  | bbc => exact h.execBbc
  | bbs => exact h.execBbs
  | bbz l => exact h.execBbz (x0 := l)
  | bbnz l => exact h.execBbnz (x0 := l)
  | j l => exact h.execJ (x0 := l)
  | jl l => exact h.execJl (x0 := l)
  | jr => exact h.execJr
  | macroOp x y z e lit => exact h.execMacroOp (x0 := lit)
  | claim l => exact h.execClaim (x0 := l)
  | vsetl l => exact h.execVsetl (x0 := l)
  | vsetli l => exact h.execVsetli (x0 := l)
  | vrep l => exact h.execVrep (x0 := l)
  | vdrain l => exact h.execVdrain (x0 := l)
  | amoAdd => exact h.execAmoAdd
  | amoFadd => exact h.execAmoFadd
  | amoMin => exact h.execAmoMin
  | amoMax => exact h.execAmoMax
  | amoMinu => exact h.execAmoMinu
  | amoMaxu => exact h.execAmoMaxu
  | amoFmin => exact h.execAmoFmin
  | amoFmax => exact h.execAmoFmax
  | amoAmax => exact h.execAmoAmax
  | amoAnd => exact h.execAmoAnd
  | amoOr => exact h.execAmoOr
  | amoXor => exact h.execAmoXor
  | amoSwap => exact h.execAmoSwap
  | amoCas => exact h.execAmoCas
  | amoAmaxrst => exact h.execAmoAmaxrst
  | evwait l => exact h.execEvwait (x0 := l)
  | evsig => exact h.execEvsig
  | evcnt l => exact h.execEvcnt (x0 := l)
  | dqpush l => exact h.execDqpush (x0 := l)
  | dqpop l => exact h.execDqpop (x0 := l)
  | dqsteal l => exact h.execDqsteal (x0 := l)
  | fork => exact h.execFork
  | join l => exact h.execJoin (x0 := l)
  | send => exact h.execSend
  | recv l => exact h.execRecv (x0 := l)
  | recvt => exact h.execRecvt
  | ssync l => exact h.execSsync (x0 := l)
  | bdom l => exact h.execBdom (x0 := l)
  | xsend => exact h.execXsend
  | xrecv l => exact h.execXrecv (x0 := l)
  | dboard => exact h.execDboard
  | dalight => exact h.execDalight
  | dread l => exact h.execDread (x0 := l)
  | drmwAdd => exact h.execDrmwAdd
  | drmwMin => exact h.execDrmwMin
  | drmwMax => exact h.execDrmwMax
  | drmwMinu => exact h.execDrmwMinu
  | drmwMaxu => exact h.execDrmwMaxu
  | drmwFmin => exact h.execDrmwFmin
  | drmwFmax => exact h.execDrmwFmax
  | drmwAnd => exact h.execDrmwAnd
  | drmwOr => exact h.execDrmwOr
  | drmwXor => exact h.execDrmwXor
  | drmwSwap => exact h.execDrmwSwap
  | drmwCas => exact h.execDrmwCas
  | dcap l => exact h.execDcap (x0 := l)
  | dput => exact h.execDput
  | drel l => exact h.execDrel (x0 := l)
  | dlap l => exact h.execDlap (x0 := l)
  | fenceR => exact h.execFenceR
  | fenceS l => exact h.execFenceS (x0 := l)
  | qfence l => exact h.execQfence (x0 := l)
  | sbind l => exact h.execSbind (x0 := l)
  | sunbind l => exact h.execSunbind (x0 := l)
  | sstat l => exact h.execSstat (x0 := l)
  | sdrain l => exact h.execSdrain (x0 := l)
  | cbinit l => exact h.execCbinit (x0 := l)
  | cbpop l => exact h.execCbpop (x0 := l)
  | cbpush l => exact h.execCbpush (x0 := l)
  | cbstat l => exact h.execCbstat (x0 := l)
  | cpy => exact h.execCpy
  | cpya => exact h.execCpya
  | gath => exact h.execGath
  | scat => exact h.execScat
  | cpyw => exact h.execCpyw
  | cpyz => exact h.execCpyz
  | pdecl => exact h.execPdecl
  | muster l => exact h.execMuster (x0 := l)
  | gwait => exact h.execGwait
  | gstat l => exact h.execGstat (x0 := l)
  | pdrop l => exact h.execPdrop (x0 := l)
  | tld => exact h.execTld
  | tstr => exact h.execTstr
  | amov => exact h.execAmov
  | ald => exact h.execAld
  | mxcmd => exact h.execMxcmd
  | lmalloc => exact h.execLmalloc
  | lmfree l => exact h.execLmfree (x0 := l)
  | lminv => exact h.execLminv
  | vsset => exact h.execVsset
  | vsmark l => exact h.execVsmark (x0 := l)
  | vsdig l => exact h.execVsdig (x0 := l)
  | vswait l => exact h.execVswait (x0 := l)
  | yoke l => exact h.execYoke (x0 := l)
  | unyoke l => exact h.execUnyoke (x0 := l)
  | tlbinv => exact h.execTlbinv
  | tlbprobe l => exact h.execTlbprobe (x0 := l)
  | add => exact h.execAdd
  | sub => exact h.execSub
  | and => exact h.execAnd
  | or => exact h.execOr
  | xor => exact h.execXor
  | andn => exact h.execAndn
  | min => exact h.execMin
  | max => exact h.execMax
  | minu => exact h.execMinu
  | maxu => exact h.execMaxu
  | addw => exact h.execAddw
  | subw => exact h.execSubw
  | adds => exact h.execAdds
  | subs => exact h.execSubs
  | abs => exact h.execAbs
  | mul => exact h.execMul
  | mulh => exact h.execMulh
  | mulhu => exact h.execMulhu
  | mulhsu => exact h.execMulhsu
  | div => exact h.execDiv
  | divu => exact h.execDivu
  | rem => exact h.execRem
  | remu => exact h.execRemu
  | seq => exact h.execSeq
  | sne => exact h.execSne
  | slt => exact h.execSlt
  | sge => exact h.execSge
  | sltu => exact h.execSltu
  | sgeu => exact h.execSgeu
  | sll => exact h.execSll
  | srl => exact h.execSrl
  | sra => exact h.execSra
  | rol => exact h.execRol
  | ror => exact h.execRor
  | popc => exact h.execPopc
  | clz => exact h.execClz
  | ctz => exact h.execCtz
  | brev => exact h.execBrev
  | bswap => exact h.execBswap
  | extu => exact h.execExtu
  | exts => exact h.execExts
  | mshl => exact h.execMshl
  | mshr => exact h.execMshr
  | mand => exact h.execMand
  | mor => exact h.execMor
  | mxor => exact h.execMxor
  | addi => exact h.execAddi
  | andi => exact h.execAndi
  | ori => exact h.execOri
  | xori => exact h.execXori
  | slli => exact h.execSlli
  | srli => exact h.execSrli
  | srai => exact h.execSrai
  | roli => exact h.execRoli
  | rori => exact h.execRori
  | cmpi => exact h.execCmpi
  | fadd => exact h.execFadd
  | fsub => exact h.execFsub
  | fmul => exact h.execFmul
  | fdiv => exact h.execFdiv
  | fsqrt => exact h.execFsqrt
  | fmac => exact h.execFmac
  | fmin => exact h.execFmin
  | fmax => exact h.execFmax
  | fabs => exact h.execFabs
  | fneg => exact h.execFneg
  | feq => exact h.execFeq
  | flt => exact h.execFlt
  | fle => exact h.execFle
  | fclass => exact h.execFclass
  | fcvt => exact h.execFcvt
  | fext => exact h.execFext
  | ftoi => exact h.execFtoi
  | ftou => exact h.execFtou
  | itof => exact h.execItof
  | utof => exact h.execUtof
  | vadd => exact h.execVadd
  | vsub => exact h.execVsub
  | vmul => exact h.execVmul
  | vdiv => exact h.execVdiv
  | vsqrt => exact h.execVsqrt
  | vfma => exact h.execVfma
  | vfms => exact h.execVfms
  | vmin => exact h.execVmin
  | vmax => exact h.execVmax
  | vabs => exact h.execVabs
  | vneg => exact h.execVneg
  | vdot => exact h.execVdot
  | vaddBf2 => exact h.execVaddBf2
  | vmulBf2 => exact h.execVmulBf2
  | vfmaBf2 => exact h.execVfmaBf2
  | vdot2Bf => exact h.execVdot2Bf
  | viadd => exact h.execViadd
  | visub => exact h.execVisub
  | vimul => exact h.execVimul
  | vimulh => exact h.execVimulh
  | viand => exact h.execViand
  | vior => exact h.execVior
  | vixor => exact h.execVixor
  | visll => exact h.execVisll
  | visrl => exact h.execVisrl
  | visra => exact h.execVisra
  | vimin => exact h.execVimin
  | vimax => exact h.execVimax
  | viminu => exact h.execViminu
  | vimaxu => exact h.execVimaxu
  | viadds => exact h.execViadds
  | visubs => exact h.execVisubs
  | vimac => exact h.execVimac
  | vidot4 => exact h.execVidot4
  | viabs => exact h.execViabs
  | vcmpFeq => exact h.execVcmpFeq
  | vcmpFne => exact h.execVcmpFne
  | vcmpFlt => exact h.execVcmpFlt
  | vcmpFle => exact h.execVcmpFle
  | vcmpFun => exact h.execVcmpFun
  | vcmpIeq => exact h.execVcmpIeq
  | vcmpIne => exact h.execVcmpIne
  | vcmpIlt => exact h.execVcmpIlt
  | vcmpIle => exact h.execVcmpIle
  | vcmpIltu => exact h.execVcmpIltu
  | vcmpIleu => exact h.execVcmpIleu
  | vrsum => exact h.execVrsum
  | vrmax => exact h.execVrmax
  | vrmin => exact h.execVrmin
  | vramax => exact h.execVramax
  | vmaxi => exact h.execVmaxi
  | vmini => exact h.execVmini
  | vrisum => exact h.execVrisum
  | vrimax => exact h.execVrimax
  | vrimin => exact h.execVrimin
  | vrimaxu => exact h.execVrimaxu
  | vriminu => exact h.execVriminu
  | vrand => exact h.execVrand
  | vror => exact h.execVror
  | vrxor => exact h.execVrxor
  | vexp2 => exact h.execVexp2
  | vexpe => exact h.execVexpe
  | vlog2 => exact h.execVlog2
  | vrcp => exact h.execVrcp
  | vrsq => exact h.execVrsq
  | vmov => exact h.execVmov
  | vsplat => exact h.execVsplat
  | vmovs => exact h.execVmovs
  | vsel => exact h.execVsel
  | viota => exact h.execViota
  | vidx => exact h.execVidx
  | vnarrow => exact h.execVnarrow
  | vwiden => exact h.execVwiden
  | vqrnd => exact h.execVqrnd
  | vmxq => exact h.execVmxq
  | vmxs => exact h.execVmxs
  | vmxc => exact h.execVmxc
  | vbaleq => exact h.execVbaleq
  | mma => exact h.execMma
  | mmaz => exact h.execMmaz
  | azero => exact h.execAzero
  | acopy => exact h.execAcopy
  | aadd => exact h.execAadd
  | tzero => exact h.execTzero
  | tcopy => exact h.execTcopy
  | ttrn => exact h.execTtrn
  | tfwd => exact h.execTfwd
  | ttake => exact h.execTtake
  | powerLoss => exact h.execPowerLoss
  | functionReset => exact h.execFunctionReset
  | linkReturn => exact h.execLinkReturn

/-! ## The issue of a packet -/

theorem Canon.fetch {s : State} (h : Canon s) : Keeps (fun _ => True) (fetch s) := by
  unfold Machine.fetch
  extract_lets k pc
  split
  · exact trivial
  · refine keeps_ite trivial (keeps_ite trivial ?_)
    split
    · exact trivial
    · exact keeps_ite trivial trivial

theorem Canon.retire {s0 s : State} {c a : Instr} {w0 w1 : Word32} (h1 : Canon s) : Canon (retire s0 s c a w0 w1) := by
  unfold Machine.retire
  extract_lets k0 k kl k2 j r k3 isMacro k4 m s'
  have hm : Canon m := h1.setMe
  have hs' : Canon s' := hm
  clear_value s' k4
  split
  · exact hs'
  · extract_lets y fp
    exact hs'.updMe.updCore
  · exact hs'

theorem Canon.countLodc {s : State} {c a : Instr} (h : Canon s) : Canon (countLodc s c a) := by
  unfold Machine.countLodc
  extract_lets k vl waits n
  exact Canon.ite h.setMe h

/-- However both slots of a packet ended, memory is canonical. -/
def Pair.Sound : Pair → Prop
  | .done s => Canon s
  | .held => True
  | .stalled s => Canon s
  | .trapped s => Canon s
  | .other o => Answers o

theorem Pair.sound_ite {p : Prop} [Decidable p] {x y : Pair} (hx : x.Sound) (hy : y.Sound) :
    (if p then x else y).Sound := by split <;> assumption

theorem Canon.runPair {s : State} {c a : Instr} (h : Canon s) : (runPair s c a).Sound := by
  unfold Machine.runPair
  extract_lets l
  have hc := h.exec (i := c)
  generalize Machine.exec c s = o at hc ⊢
  cases o with
  | fault _ => exact hc
  | refused _ => exact hc
  | next s1 =>
    have h1 : Canon s1 := hc
    dsimp -zeta only
    split
    · exact trivial
    · extract_lets base
      have hb : Canon base := Canon.ite h1 h
      have hl : Canon { base with latch := some { l with popped := poppedFrom s.me base.me } } := hb
      have ha := hl.exec (i := a)
      generalize Machine.exec a { base with latch := some { l with popped := poppedFrom s.me base.me } } = o at ha ⊢
      cases o with
      | fault _ => exact ha
      | refused _ => exact ha
      | next s2 =>
        have h2 : Canon s2 := ha
        dsimp -zeta only
        generalize s1.issue = i1
        generalize s2.issue = i2
        cases i2 with
        | held => cases i1 <;> exact trivial
        | trapped cause info =>
          cases i1 with
          | trapped _ _ => exact h1
          | done | held | stalled => exact Pair.sound_ite h1 h.takeTrap
        | stalled =>
          cases i1 with
          | trapped _ _ | stalled => exact h1
          | done | held => exact h
        | done =>
          cases i1 with
          | trapped _ _ | stalled => exact h1
          | done | held =>
            refine Pair.sound_ite ?_ h2
            have hl2 : Canon { s2 with issue := .done, latch := some { l with popped := poppedFrom s.me s2.me } } := h2
            have hd := hl2.exec (i := c)
            generalize Machine.exec c { s2 with issue := .done, latch := some { l with popped := poppedFrom s.me s2.me } } = o at hd ⊢
            cases o with
            | fault _ => exact hd
            | refused _ => exact hd
            | next s3 => exact Pair.sound_ite hd h2.updMe

theorem Canon.issuePair {s : State} {c a : Instr} {w0 w1 : Word32} (h : Canon s) : Answers (issuePair s c a w0 w1) := by
  unfold Machine.issuePair
  extract_lets t k k' r s0 bad u v
  have ht : Canon t := h.updMe
  have hs0 : Canon s0 := ht.setMe
  have hu : Canon u := ht.setMe
  have hv : Canon v := hs0.countLodc
  clear_value s0 bad u
  split
  · exact hs0.takeTrap
  · split
    · exact hu
    · have hp := hs0.runPair (c := c) (a := if k.aDone then .nopASlot else a)
      generalize Machine.runPair s0 c _ = r at hp ⊢
      cases r with
      | done u => exact Canon.retire hp
      | held => exact hv
      | stalled u => exact hp
      | trapped u => exact hp
      | other o => exact hp

theorem answers_ite {p : Prop} [Decidable p] {x y : Host.Outcome State Fault Refusal} (hx : Answers x) (hy : Answers y) :
    Answers (if p then x else y) := by split <;> assumption

theorem Canon.issueWords {s : State} {w0 w1 : Word32} (h : Canon s) : Answers (issueWords s w0 w1) := by
  unfold Machine.issueWords
  extract_lets ill mg
  have hill (b : Bool) : Answers (ill b) := h.takeTrap
  clear_value ill
  generalize decodePacket w0 w1 = r
  generalize decodePacket w0 0 = r0
  cases r with
  | error e =>
    cases e with
    | word1Reserved _ => cases r0 <;> exact hill _
    | word0Reserved _ | tooShort => exact hill _
  | ok p => exact answers_ite (hill _) (answers_ite (hill _) (answers_ite h.takeTrap (answers_ite h.takeTrap h.issuePair)))

theorem Canon.issuePacket {s : State} {c : Nat} (h : Canon s) : Answers (issuePacket s c) := by
  unfold Machine.issuePacket
  extract_lets t
  have ht : Canon t := h
  have hf := ht.fetch
  generalize Machine.fetch t = r at hf ⊢
  cases r with
  | error e => exact Canon.settle ht hf
  | ok w => exact ht.issueWords

/-! ## Steps -/

theorem Canon.turnOf {s : State} {c : Nat} (h : Canon s) : Answers (turnOf s c) := by
  have hs : Canon { s with issued := c :: s.issued } := h
  exact hs.issuePacket

theorem Canon.eventStep {s : State} (h : Canon s) : Answers (eventStep s) := by
  unfold Machine.eventStep
  split
  · exact h.exec
  · exact h

theorem Canon.pass {s : State} {n : Nat} (h : Canon s) : Canon (pass s n) := by
  have hs : Canon (Machine.skipTicks (s.advance (room s n))) := h.advance
  exact hs.bootStep

theorem Canon.autoStep {s : State} (h : Canon s) : Answers (autoStep s) := by
  unfold Machine.autoStep
  split
  · exact trivial
  · split
    · split
      · exact h.exec
      · have hp : Canon (Machine.pass s 1) := h.pass
        generalize Machine.pass s 1 = u at hp ⊢
        exact hp.eventStep
    · next c _ =>
      have ht := h.turnOf (c := c)
      generalize Machine.turnOf s c = o at ht ⊢
      cases o with
      | next t =>
        dsimp only
        split
        · exact Canon.eventStep ht
        · exact ht
      | _ => exact ht

theorem Canon.step {s : State} (h : Canon s) : Answers (step s) := by
  unfold Machine.step
  split
  · exact h.autoStep
  · next t ts _ =>
    have hs : Canon { s with agenda := ts } := h
    split
    · extract_lets u
      split
      · exact hs.exec
      · exact hs.turnOf
    · split
      · exact h.turnOf
      · exact h.exec
      · exact h.pass (n := t.wait s)

end Sys2Proof.Machine

namespace Sys2Proof
open Machine

/-- Settles O7: every event, every slot and the passing of time keep memory canonical. -/
theorem stepKeepsMemoryCanonical : Obligations.StepKeepsMemoryCanonical := by
  unfold Obligations.StepKeepsMemoryCanonical
  intro s t h ht
  have hs : Answers (step s) := Canon.step h
  rw [ht] at hs
  exact hs

end Sys2Proof

end
